-- ==== Sys2Proof/Word.lean ====
section
/-! DEFINITION. The word types of the SNV-412 and the plainest operations on them
(00_scope.md R5, R6, R9). -/

namespace Sys2Proof

/-- A general register's contents (R99). -/
abbrev Word := BitVec 64

/-- A byte of any memory (R6). -/
abbrev Byte := BitVec 8

/-- An instruction word (R13). -/
abbrev Halfword := BitVec 16

/-- A vector register's contents (R164). -/
abbrev VWord := BitVec 512

/-- A local-store byte address, also the PC (R29, R126). -/
abbrev LsAddr := BitVec 19

/-- A logical pillar number: stack in bits 9:8, row in 7:4, column in 3:0 (R2). -/
abbrev PillarId := BitVec 10

/-- A strand number within its pillar (R1). -/
abbrev StrandId := Fin 4

/-- The word that holds a natural number modulo 2^64. -/
def word (n : Nat) : Word := BitVec.ofNat 64 n

/-- Bits h..l of a natural number, as an unsigned integer (R9). -/
def bitsOf (x h l : Nat) : Nat := (x >>> l) % 2 ^ (h + 1 - l)

/-- Bits h..l of a word, as an unsigned integer (R9). -/
def Word.bits (x : Word) (h l : Nat) : Nat := bitsOf x.toNat h l

/-- One bit of a natural number. -/
def bitOf (x i : Nat) : Bool := (x >>> i) % 2 == 1

/-- sext(x, n) of R11 as an integer. -/
def sextNat (x n : Nat) : Int :=
  let y := x % 2 ^ n
  if n = 0 then 0 else if y < 2 ^ (n - 1) then (y : Int) else (y : Int) - (2 ^ n : Nat)

/-- The low w bits of an integer's two's-complement value, as a natural number (R9). -/
def lowBits (x : Int) (w : Nat) : Nat := (x % (2 ^ w : Nat)).toNat

/-- An integer stored into 64 bits (R9). -/
def wordOfInt (x : Int) : Word := BitVec.ofNat 64 (lowBits x 64)

/-- A Boolean as 0 or 1. -/
def boolNat (b : Bool) : Nat := if b then 1 else 0

/-- `ceil(a / b)` for a positive b. -/
def ceilDiv (a b : Nat) : Nat := (a + b - 1) / b

end Sys2Proof
end

