-- ==== Sys2Proof/Config.lean ====
section
/-! DEFINITION. What the spec leaves open: values that nothing in the model can evaluate. Each is a constant without a
body, applied to a counter of State or to the operands it depends on, so a statement that holds of it holds for every
value (log entries 6, 8, 9, 10 and 11). -/

namespace Sys2Proof.Config

/-- The n-th free 64-bit value: what a peer or the host returns to a read (R348, R419), numbered by
`State.freeCount`. -/
opaque freeWord : Nat → Word

/-- A byte of the sections of a save area whose arrangement belongs to the device (R385): the number of the save, counted
by `State.freeCount`, and the offset. -/
opaque saveByte : Nat → Nat → Byte

/-- Where a section of a save area whose arrangement belongs to the device keeps a value that can be poisoned (R385, R386): the kind
of the section (0 a strand's, 1 a fibre slot, 2 the messages) and the number of the value in it give the 8-byte unit. -/
opaque savedUnit : Nat → Nat → Nat

/-- The device's candidate for a transcendental result (R59): function number, type code and source bits give the bits
of the result. It is used only where it lies within the bound of R59. -/
opaque candidate : Nat → Nat → Nat → Nat

/-- The two halves of an ECDSA P-256 signature that Safelight makes over a digest (R425). -/
opaque signature : Nat → Nat × Nat

/-- The dwords of the device certificate chain (R425), by offset from 0x04_0400. -/
opaque certificate : Nat → Word

end Sys2Proof.Config
end

