-- ==== Sys2Proof/Syntax.lean ====
section
/-! DEFINITION. The operations and events of spec/opcode_table.json, one constructor a row, and the types of
their operands. An instruction carries the fields of its chain of words (01_instruction_words.md R14-R22); an
event carries the unit it happens to and the data that the outside supplies. -/

namespace Sys2Proof

/-- Element type codes (R21). -/
inductive EType where
  | i8 | i16 | i32 | i64 | n8 | n16 | n32 | n64 | f16 | bf16 | f32 | f64 | e4m3 | e5m2 | e2m1 | s8
  deriving DecidableEq, Repr, Inhabited

/-- The REG payload (R19). -/
structure RegFields where
  dh : Bool
  sh : Bool
  t : BitVec 6
  q : BitVec 3
  deriving DecidableEq, Repr, Inhabited

/-- The QUAL payload (R20). -/
structure QualFields where
  k : BitVec 3
  type : BitVec 4
  flags : BitVec 4
  deriving DecidableEq, Repr, Inhabited

/-- The fields of one instruction's words: the PAGE modifier, the optional REG and QUAL payloads, the IMX
payloads first word first, and the d and s fields of the base word (R14-R22). -/
structure Fields where
  mod : BitVec 7 := 0
  reg : Option RegFields := none
  qual : Option QualFields := none
  imx : List (BitVec 11) := []
  d : BitVec 5 := 0
  s : BitVec 5 := 0
  deriving DecidableEq, Repr, Inhabited

/-- The four coprocessor engines, in the order of their ring codes (R93, R374). -/
inductive Engine where
  | vector | matrix | tile | message
  deriving DecidableEq, Repr, Inhabited

/-- The two units of the matrix engine (R231). -/
inductive MatrixUnit where
  | array | port
  deriving DecidableEq, Repr, Inhabited

/-- The mesh ports of a router (R106, R289). -/
inductive MeshPort where
  | north | east | south | west
  deriving DecidableEq, Repr, Inhabited

/-- The answers of the host to a page request (R350). -/
inductive PriResponse where
  | success | invalidRequest | responseFailure
  deriving DecidableEq, Repr, Inhabited

/-- What the shuttle works on: a draft entry by index or a direct command by slot (R274, R282). -/
inductive Handle where
  | entry (index : Nat)
  | command (slot : BitVec 4)
  deriving DecidableEq, Repr, Inhabited

/-- The kinds of access of translate (R11, R347). -/
inductive AccessKind where
  | read | write | exec | tile
  deriving DecidableEq, Repr, Inhabited

/-- An ATS completion: the range va .. va + 2^bits - 1 maps to pa with read and write rights (R348). -/
structure AtsCompletion where
  va : Word
  pa : BitVec 48
  bits : Nat
  r : Bool
  w : Bool
  deriving DecidableEq, Repr, Inhabited

/-- How a test strip ends: passed after some number of patterns, or failed at a pattern in a unit (R405, R407). -/
inductive StripResult where
  | pass (patterns : Nat)
  | fail (pattern : BitVec 12) (unit : BitVec 4)
  deriving DecidableEq, Repr, Inhabited

/-- An access from outside the package: a read of n bytes, a write, or an integer atomic with the op codes of
R34 (R413, R420). -/
inductive HostAccess where
  | read (n : Nat)
  | write (n : Nat) (data : Nat)
  | atomic (op : BitVec 4) (n : Nat) (x : Word)
  deriving DecidableEq, Repr, Inhabited

/-- The functions that report ready (R422). -/
inductive Function where
  | stack (n : BitVec 2)
  | shuttle (n : BitVec 2)
  | port (n : BitVec 3)
  | tier
  | launch
  | aperture
  | pillar (p : PillarId)
  deriving DecidableEq, Repr, Inhabited

/-- The register a write without a row of its own goes to: a system register of a strand (R392) or a device
register (R411). -/
inductive RegTarget where
  | sys (p : PillarId) (t : StrandId) (number : BitVec 12)
  | dev (off : BitVec 20)
  deriving DecidableEq, Repr, Inhabited

/-- What Safelight supplies at bring-up (R422): its second-stage image, the firmware store and MTVEC, and the
CHAIN, CALENDAR and RPMAP values, the peer number and the CTXBASE of the pod configuration, the images of roles 2 and 3
(R424), and what it found to have failed (R71, R342, R423). -/
structure BringUp where
  image : List Byte := []
  firmware : List Byte := []
  mtvec : LsAddr := 0
  chain : List (BitVec 2 × Word) := []
  calendar : List (PillarId × Word) := []
  rpmap : List (PillarId × BitVec 4 × Word) := []
  peerId : BitVec 10 := 0
  ctxBase : Word := 0
  failedColumns : List (BitVec 6 × BitVec 4) := []
  chainFirmware : List Byte := []
  configuration : List Byte := []
  failedPillars : List PillarId := []
  tierFails : Bool := false
  deriving DecidableEq, Repr, Inhabited

/-- The operations and events of the part, one constructor for each row of spec/opcode_table.json. -/
inductive Instr where
  /-- Writes A + B modulo 2^64 to g[d] (R112). -/
  | add (f : Fields)
  /-- Writes A − B modulo 2^64 to g[d] (R112). -/
  | sub (f : Fields)
  /-- Writes A AND B to g[d] (R112). -/
  | and (f : Fields)
  /-- Writes A OR B to g[d] (R112). -/
  | or (f : Fields)
  /-- Writes A XOR B to g[d] (R112). -/
  | xor (f : Fields)
  /-- Writes A AND NOT B to g[d] (R112). -/
  | andn (f : Fields)
  /-- Shifts A left by B<5:0> (R112). -/
  | shl (f : Fields)
  /-- Shifts A right logically by B<5:0> (R112). -/
  | shr (f : Fields)
  /-- Shifts A right arithmetically by B<5:0> (R112). -/
  | sar (f : Fields)
  /-- Writes 1 if A is less than B as signed values, and 0 otherwise (R112). -/
  | slt (f : Fields)
  /-- Writes 1 if A is less than B as unsigned values, and 0 otherwise (R112). -/
  | sltn (f : Fields)
  /-- Writes the signed minimum of A and B (R112). -/
  | min (f : Fields)
  /-- Writes the signed maximum of A and B (R112). -/
  | max (f : Fields)
  /-- Copies g[s] to g[d] (R113). -/
  | mov (f : Fields)
  /-- Replaces g[d] with B if the condition is nonzero (R113). -/
  | sel (f : Fields)
  /-- Replaces g[d] with B if the condition is zero (R113). -/
  | selz (f : Fields)
  /-- Adds a signed immediate to A (R114). -/
  | addi (f : Fields)
  /-- ANDs A with a signed immediate (R114). -/
  | andi (f : Fields)
  /-- ORs A with a signed immediate (R114). -/
  | ori (f : Fields)
  /-- XORs A with a signed immediate (R114). -/
  | xori (f : Fields)
  /-- Shifts A left by an immediate of 0 to 63 (R114). -/
  | shli (f : Fields)
  /-- Shifts A right logically by an immediate (R114). -/
  | shri (f : Fields)
  /-- Shifts A right arithmetically by an immediate (R114). -/
  | sari (f : Fields)
  /-- Writes 1 if A is less than the signed immediate, and 0 otherwise (R114). -/
  | slti (f : Fields)
  /-- Loads a sign-extended immediate into g[d] (R115). -/
  | li (f : Fields)
  /-- Writes a PC-relative local-store byte address to g[d] (R115). -/
  | lpc (f : Fields)
  /-- Loads a signed byte from translated memory (R121). -/
  | ldI8 (f : Fields)
  /-- Loads a signed halfword from translated memory (R121). -/
  | ldI16 (f : Fields)
  /-- Loads a signed word from translated memory (R121). -/
  | ldI32 (f : Fields)
  /-- Loads a doubleword from translated memory (R121). -/
  | ldI64 (f : Fields)
  /-- Loads an unsigned byte from translated memory (R121). -/
  | ldN8 (f : Fields)
  /-- Loads an unsigned halfword from translated memory (R121). -/
  | ldN16 (f : Fields)
  /-- Loads an unsigned word from translated memory (R121). -/
  | ldN32 (f : Fields)
  /-- Stores a byte to translated memory (R121). -/
  | stI8 (f : Fields)
  /-- Stores a halfword to translated memory (R121). -/
  | stI16 (f : Fields)
  /-- Stores a word to translated memory (R121). -/
  | stI32 (f : Fields)
  /-- Stores a doubleword to translated memory (R121). -/
  | stI64 (f : Fields)
  /-- Jumps PC-relative and writes the link address to g[d] (R123). -/
  | jal (f : Fields)
  /-- Jumps to g[s] and writes the link address to g[d] (R124). -/
  | jr (f : Fields)
  /-- Traps precisely as a supervisor call (R125). -/
  | svc (f : Fields)
  /-- Traps precisely as a breakpoint (R125). -/
  | brk (f : Fields)
  /-- Branches if A equals B (R122). -/
  | beq (f : Fields)
  /-- Branches if A differs from B (R122). -/
  | bne (f : Fields)
  /-- Branches if A is less than B as signed values (R122). -/
  | blt (f : Fields)
  /-- Branches if A is greater than or equal to B as signed values (R122). -/
  | bge (f : Fields)
  /-- Branches if A is less than B as unsigned values (R122). -/
  | bltn (f : Fields)
  /-- Branches if A is greater than or equal to B as unsigned values (R122). -/
  | bgen (f : Fields)
  /-- Writes the low 64 bits of the product (R116). -/
  | mul (f : Fields)
  /-- Writes the high half of the signed product (R116). -/
  | mulh (f : Fields)
  /-- Writes the high half of the unsigned product (R116). -/
  | mulhn (f : Fields)
  /-- Adds A × B to g[d] (R116). -/
  | madd (f : Fields)
  /-- Performs signed division on the pillar's divider (R117). -/
  | div (f : Fields)
  /-- Performs unsigned division (R117). -/
  | divn (f : Fields)
  /-- Writes the signed remainder (R117). -/
  | rem (f : Fields)
  /-- Writes the unsigned remainder (R117). -/
  | remn (f : Fields)
  /-- Counts the leading zero bits (R118). -/
  | clz (f : Fields)
  /-- Counts the trailing zero bits (R118). -/
  | ctz (f : Fields)
  /-- Counts the one bits (R118). -/
  | popc (f : Fields)
  /-- Reverses the byte order (R118). -/
  | bswap (f : Fields)
  /-- Reverses the bit order (R118). -/
  | brev (f : Fields)
  /-- Extracts a bit field, sign-extended (R119). -/
  | bfx (f : Fields)
  /-- Extracts a bit field, zero-extended (R119). -/
  | bfxn (f : Fields)
  /-- Inserts a bit field into g[d] (R119). -/
  | bfi (f : Fields)
  /-- Funnel-shifts g[d] left, with A's top bits entering (R120). -/
  | fshl (f : Fields)
  /-- Funnel-shifts g[d] right, with A's low bits entering (R120). -/
  | fshr (f : Fields)
  /-- Loads a signed byte from local store (R135). -/
  | lldI8 (f : Fields)
  /-- Loads a signed halfword from local store (R135). -/
  | lldI16 (f : Fields)
  /-- Loads a signed word from local store (R135). -/
  | lldI32 (f : Fields)
  /-- Loads a doubleword from local store (R135). -/
  | lldI64 (f : Fields)
  /-- Loads an unsigned byte from local store (R135). -/
  | lldN8 (f : Fields)
  /-- Loads an unsigned halfword from local store (R135). -/
  | lldN16 (f : Fields)
  /-- Loads an unsigned word from local store (R135). -/
  | lldN32 (f : Fields)
  /-- Stores a byte to local store (R135). -/
  | lstI8 (f : Fields)
  /-- Stores a halfword to local store (R135). -/
  | lstI16 (f : Fields)
  /-- Stores a word to local store (R135). -/
  | lstI32 (f : Fields)
  /-- Stores a doubleword to local store (R135). -/
  | lstI64 (f : Fields)
  /-- Waits until a local-store word is full, then loads it (R140). -/
  | lldf (f : Fields)
  /-- Waits until a word is full, loads it and marks it empty (R140). -/
  | llde (f : Fields)
  /-- Stores a word and marks it full (R140). -/
  | lstf (f : Fields)
  /-- Sets the full/empty bits of a range to full (R142). -/
  | feset (f : Fields)
  /-- Sets the full/empty bits of a range to empty (R142). -/
  | feclr (f : Fields)
  /-- Performs a load that acts as an acquire at the named scope (R330). -/
  | lda (f : Fields)
  /-- Performs a store that acts as a release at the named scope (R330). -/
  | stl (f : Fields)
  /-- Performs a sequentially consistent load, ordered through the notification network (R330). -/
  | scld (f : Fields)
  /-- Performs a sequentially consistent store (R330). -/
  | scst (f : Fields)
  /-- Performs an atomic read-modify-write and returns the old value (R330). -/
  | amo (f : Fields)
  /-- Performs an atomic compare-and-swap (R330). -/
  | cas (f : Fields)
  /-- Performs a sequentially consistent atomic read-modify-write (R330). -/
  | scamo (f : Fields)
  /-- Orders the strand's earlier and later accesses by kind at the named scope (R331). -/
  | fence (f : Fields)
  /-- Starts the copy of a code overlay into segment N (R132). -/
  | cfetch (f : Fields)
  /-- Waits until segment N is no longer in flight and returns its state (R133). -/
  | cwait (f : Fields)
  /-- Jumps with a segment check and a discard of the fetch buffer (R134). -/
  | jmpf (f : Fields)
  /-- Looks up a VA in the tag table, or proposes a victim slot (R146). -/
  | tlook (f : Fields)
  /-- Tags a slot, empties its words and starts its fill (R146). -/
  | tfill (f : Fields)
  /-- Invalidates a slot, writing it back if dirty (R146). -/
  | tevict (f : Fields)
  /-- Invalidates one slot, or all slots, without write-back (R146). -/
  | tinval (f : Fields)
  /-- Adds vector lanes (R175). -/
  | vadd (f : Fields)
  /-- Subtracts vector lanes (R175). -/
  | vsub (f : Fields)
  /-- Multiplies vector lanes (R175). -/
  | vmul (f : Fields)
  /-- Divides float lanes (R175). -/
  | vdiv (f : Fields)
  /-- Writes the lane-wise minimum (R175). -/
  | vmin (f : Fields)
  /-- Writes the lane-wise maximum (R175). -/
  | vmax (f : Fields)
  /-- Performs a fused multiply-add into d (R175). -/
  | vfma (f : Fields)
  /-- Performs a fused multiply-subtract into d (R175). -/
  | vfms (f : Fields)
  /-- Writes the absolute value of each lane (R175). -/
  | vabs (f : Fields)
  /-- Negates each lane (R175). -/
  | vneg (f : Fields)
  /-- Writes the square root of each float lane (R175). -/
  | vsqrt (f : Fields)
  /-- ANDs lanes bitwise (R176). -/
  | vand (f : Fields)
  /-- ORs lanes bitwise (R176). -/
  | vor (f : Fields)
  /-- XORs lanes bitwise (R176). -/
  | vxor (f : Fields)
  /-- Computes A AND NOT B lane-wise (R176). -/
  | vandn (f : Fields)
  /-- Shifts integer lanes left (R176). -/
  | vshl (f : Fields)
  /-- Shifts integer lanes right logically (R176). -/
  | vshr (f : Fields)
  /-- Shifts integer lanes right arithmetically (R176). -/
  | vsar (f : Fields)
  /-- Compares lanes into a mask register (R177). -/
  | vcmp (f : Fields)
  /-- Selects B or A per lane under the mask (R177). -/
  | vsel (f : Fields)
  /-- Copies the active lanes (R177). -/
  | vmov (f : Fields)
  /-- Broadcasts a general register to the active lanes (R177). -/
  | vbcast (f : Fields)
  /-- Inserts a general register into lane n (R177). -/
  | vins (f : Fields)
  /-- Extracts lane n into a general register (R177). -/
  | vext (f : Fields)
  /-- Loads 64 bytes of local store into a vector register (R178). -/
  | vld (f : Fields)
  /-- Stores the active lanes to local store (R178). -/
  | vst (f : Fields)
  /-- Gathers lanes from local store by vector index (R179). -/
  | vgather (f : Fields)
  /-- Scatters lanes to local store by vector index (R179). -/
  | vscatter (f : Fields)
  /-- ANDs two mask registers (R180). -/
  | kand (f : Fields)
  /-- ORs two mask registers (R180). -/
  | kor (f : Fields)
  /-- Inverts a mask register (R180). -/
  | knot (f : Fields)
  /-- Copies a mask register to a general register (R180). -/
  | kmovg (f : Fields)
  /-- Copies a general register to a mask register (R180). -/
  | kmovk (f : Fields)
  /-- Counts the one bits of a mask register (R180). -/
  | kpopc (f : Fields)
  /-- Converts elements between formats, into or from a part (R183). -/
  | vcvt (f : Fields)
  /-- Quantises with an s8 scale code (R184). -/
  | vquant (f : Fields)
  /-- Dequantises with an s8 scale code (R184). -/
  | vdequant (f : Fields)
  /-- Computes a block scale code for a target type (R185). -/
  | vbscale (f : Fields)
  /-- Computes 2^x per lane (R186). -/
  | vexp2 (f : Fields)
  /-- Computes log2 x per lane (R186). -/
  | vlog2 (f : Fields)
  /-- Computes the reciprocal per lane (R186). -/
  | vrcp (f : Fields)
  /-- Computes the reciprocal square root per lane (R186). -/
  | vrsqrt (f : Fields)
  /-- Reduces the active lanes by a fixed tree into every lane (R187). -/
  | vred (f : Fields)
  /-- Permutes lanes of A by index B (R188). -/
  | vperm (f : Fields)
  /-- Shuffles from A and the old D by index B (R188). -/
  | vshuf (f : Fields)
  /-- Rotates lanes by an immediate (R188). -/
  | vrot (f : Fields)
  /-- Packs the active lanes to the bottom (R188). -/
  | vcompress (f : Fields)
  /-- Spreads the low lanes into the active lanes (R188). -/
  | vexpand (f : Fields)
  /-- Accumulates packed dot products into 32-bit lanes (R189). -/
  | vdot (f : Fields)
  /-- Hints the activation of the DRAM rows of a record or address (R197). -/
  | rowact (f : Fields)
  /-- Closes the named rows, or all open rows (R197). -/
  | rowclose (f : Fields)
  /-- Marks rows short-lived and sets their retention deadline (R217). -/
  | rowshort (f : Fields)
  /-- Returns rows to the refresh calendar (R217). -/
  | rowkeep (f : Fields)
  /-- Loads a shape record from local store (R202). -/
  | shld (f : Fields)
  /-- Stores a shape record to local store (R202). -/
  | shst (f : Fields)
  /-- Writes one field of a shape register (R203). -/
  | shset (f : Fields)
  /-- Dispatches a tile load into a spool (R204). -/
  | tld (f : Fields)
  /-- Dispatches a transposing tile load (R204). -/
  | tldt (f : Fields)
  /-- Dispatches a converting tile load (R204). -/
  | tldc (f : Fields)
  /-- Dispatches a transposing and converting tile load (R204). -/
  | tldtc (f : Fields)
  /-- Dispatches a bulk row copy between records (R218). -/
  | bcopy (f : Fields)
  /-- Dispatches a transposing copy (R218). -/
  | bcopyt (f : Fields)
  /-- Dispatches a converting copy (R218). -/
  | bcopyc (f : Fields)
  /-- Dispatches a block-scaled dequantising copy (R218). -/
  | bcopyx (f : Fields)
  /-- Divides the operand slots among the spools (R224). -/
  | spoolcfg (f : Fields)
  /-- Waits until a spool offset is filled or void (R225). -/
  | await (f : Fields)
  /-- Releases slots from the head of a spool (R225). -/
  | release (f : Fields)
  /-- Accumulates A × B from two slots into a tile (R235). -/
  | mma (f : Fields)
  /-- Accumulates a block-scaled e2m1 product into a tile (R235). -/
  | mmabs (f : Fields)
  /-- Accumulates a slot-times-vector product into a tile row (R236). -/
  | mmv (f : Fields)
  /-- Zeroes a tile and sets its kind (R237). -/
  | mzero (f : Fields)
  /-- Loads tile rows from local store (R238). -/
  | mld (f : Fields)
  /-- Stores tile rows to local store (R238). -/
  | mst (f : Fields)
  /-- Closes the open batch and numbers it (R234). -/
  | mcommit (f : Fields)
  /-- Waits until a committed batch has finished (R234). -/
  | mwait (f : Fields)
  /-- Moves 64 bytes from a checked slot into a vector register (R228). -/
  | sldv (f : Fields)
  /-- Moves 64 bytes from a vector register into the write slot, optionally sealing it (R228). -/
  | sstv (f : Fields)
  /-- Publishes a loom claim and waits for all members (R239). -/
  | loomjoin (f : Fields)
  /-- Waits at the wired barrier of the loom (R240). -/
  | loomgo (f : Fields)
  /-- Leaves the loom after the pillar's loom instructions complete (R241). -/
  | loomsplit (f : Fields)
  /-- Sends tile rows as remote writes and then writes a wake word (R242). -/
  | drain (f : Fields)
  /-- Splits the rows of A into plies, or scans their scale codes (R250). -/
  | psplita (f : Fields)
  /-- Splits the columns of B into plies, or scans their scale codes (R250). -/
  | psplitb (f : Fields)
  /-- Runs one ply step over every slice pair into a ply group (R254). -/
  | pmma (f : Fields)
  /-- Recombines a ply group into local store with one rounding (R256). -/
  | pjoin (f : Fields)
  /-- Reads a tile header into a general register (R257). -/
  | pstat (f : Fields)
  /-- Installs a draft and returns a code (R279). -/
  | draft (f : Fields)
  /-- Releases the installed draft, cancelling untriggered entries (R279). -/
  | draftrel (f : Fields)
  /-- Raises PICKNO and checks the entries that are due (R277). -/
  | pick (f : Fields)
  /-- Waits until an entry or command leaves states 0 to 3, and returns its status (R280). -/
  | drwait (f : Fields)
  /-- Returns the status word of an entry or command (R280). -/
  | drstat (f : Fields)
  /-- Starts a direct tier-to-vault fetch command (R282). -/
  | dfetch (f : Fields)
  /-- Starts a direct vault-to-tier evict command (R282). -/
  | devict (f : Fields)
  /-- Adds pinned vault space to PINBASE within budget (R282). -/
  | dpin (f : Fields)
  /-- Removes pinned vault space from PINBASE (R282). -/
  | dunpin (f : Fields)
  /-- Dispatches a message to an inbox or a host queue (R299). -/
  | send (f : Fields)
  /-- Waits for and takes the oldest message of an inbox (R300). -/
  | recv (f : Fields)
  /-- Takes the oldest message of an inbox, or returns all ones (R300). -/
  | recvp (f : Fields)
  /-- Dispatches an asynchronous remote read (R304). -/
  | rld (f : Fields)
  /-- Dispatches an asynchronous remote write (R304). -/
  | rst (f : Fields)
  /-- Dispatches a remote integer atomic (R305). -/
  | ramo (f : Fields)
  /-- Dispatches a remote compare-and-swap (R305). -/
  | rcas (f : Fields)
  /-- Writes a local-store word of a pillar and sets it full (R304). -/
  | rfill (f : Fields)
  /-- Decrements a wake counter and wakes its owner at zero (R306). -/
  | rdecw (f : Fields)
  /-- Adds a contribution to a wide cell, or initialises it (R307). -/
  | rwadd (f : Fields)
  /-- Reads a wide cell's value and flags, optionally clearing it (R307). -/
  | rwrd (f : Fields)
  /-- Dispatches a remote floating-point add (R304). -/
  | rfadd (f : Fields)
  /-- Copies memory into a local store by bulk copy-out (R308). -/
  | rcopy (f : Fields)
  /-- ORs bits into a pillar's SIGNAL register (R309). -/
  | rsig (f : Fields)
  /-- Waits until few enough procedures are outstanding (R310). -/
  | rwait (f : Fields)
  /-- Puts the strand in fibre mode as a runner until a return code (R153). -/
  | frun (f : Fields)
  /-- Sets stop requests for runners of the pillar (R155). -/
  | fstop (f : Fields)
  /-- Creates a fibre in the lowest free slot and counts it (R156). -/
  | fork (f : Fields)
  /-- Waits, or parks, until a join counter reaches zero (R156). -/
  | join (f : Fields)
  /-- Stores the fibre and pushes it at the far end (R156). -/
  | fyield (f : Fields)
  /-- Frees the fibre's slot and decrements its join counter (R156). -/
  | fexit (f : Fields)
  /-- Copies a job record into a launch queue (R96). -/
  | launch (f : Fields)
  /-- Waits for the strand's work and marks it handed off (R97). -/
  | handoff (f : Fields)
  /-- Ends the strand with an exit code (R98). -/
  | exit (f : Fields)
  /-- Reads a system register (R378). -/
  | sysrd (f : Fields)
  /-- Writes a system register within the writer's level (R378). -/
  | syswr (f : Fields)
  /-- Returns from a trap, restoring STATUS and PC (R379). -/
  | tret (f : Fields)
  /-- Stops the strand for good (R380). -/
  | halt (f : Fields)
  /-- Waits for a signal, page response, forwarded trap or pre-emption (R380). -/
  | waiti (f : Fields)
  /-- Drops the TLB entries covering a VA package-wide (R356). -/
  | tlbinv (f : Fields)
  /-- Drops the TLB entries of an ASID, or all entries (R356). -/
  | tlbinva (f : Fields)
  /-- Drops the TLB entries of a UALink peer (R356). -/
  | tlbinvp (f : Fields)
  /-- Reads a dword of a dispatch ring entry (R381). -/
  | ringrd (f : Fields)
  /-- Reports a pending pre-emption and serves as a pre-emption point (R388). -/
  | preempt (f : Fields)
  /-- Moves a pillar's work to another pillar, or clears forwarding (R389). -/
  | migrate (f : Fields)
  /-- A tail-register doorbell write is accepted, or ignored with ERR set (R73). -/
  | lqtailWrite (q : BitVec 4) (v : BitVec 32)
  /-- The launch unit admits a queue's head record, checks it and advances LQHEAD (R80). -/
  | jobAdmit (q : BitVec 4)
  /-- The launch unit places an eligible job on a free rectangle and installs its draft (R82). -/
  | jobPlace
  /-- A job waiting 2^20 clk stops backfill at its priority and below (R83). -/
  | backfillAgeLimit (job : Word)
  /-- Once every pillar has loaded the image, the strands start and state 0x02 is written (R85). -/
  | imageLoaded (job : Word)
  /-- A pillar finishes its 3,200-clk scrub and becomes free (R87). -/
  | pillarScrubDone (p : PillarId)
  /-- A ready strand's wait count reaching 64 promotes it for one issue (R91). -/
  | issuePromotion (p : PillarId) (t : StrandId)
  /-- An engine accepts a queued instruction in round-robin order (R93). -/
  | engineAccept (p : PillarId) (e : Engine)
  /-- A vector instruction completes and writes its results (R170). -/
  | vectorComplete (p : PillarId) (t : StrandId)
  /-- A store-buffer entry is written into the own vault (R109). -/
  | storeBufferDrain (p : PillarId) (t : StrandId)
  /-- A blocked own-vault load receives its data and unblocks the strand (R109). -/
  | loadDataReturn (p : PillarId) (t : StrandId)
  /-- A strand blocked in a waiting instruction sees its condition met and completes it (R89). -/
  | blockedWaitEnd (p : PillarId) (t : StrandId)
  /-- A CFETCH copy ends and its segment becomes landed or failed (R132). -/
  | segmentLand (p : PillarId) (n : BitVec 4)
  /-- A TFILL block arrives and its slot becomes valid or failed (R146). -/
  | tagFillComplete (p : PillarId) (slot : BitVec 8)
  /-- An asynchronous TEVICT write-back is acknowledged (R146). -/
  | tevictWritebackDone (p : PillarId)
  /-- A runner takes a ready fibre from the run queue and loads it (R154). -/
  | runnerLoadFibre (p : PillarId) (t : StrandId)
  /-- A parked access ends, its value is written and the slot is pushed ready (R158). -/
  | fibreWake (p : PillarId) (slot : BitVec 8)
  /-- An idle runner tries the other pillars of its domain to take a fibre (R159). -/
  | stealRound (p : PillarId) (t : StrandId)
  /-- A waiting runner's BACKOFF interval ends and it looks again (R153). -/
  | stealBackoffExpiry (p : PillarId) (t : StrandId)
  /-- A PRI response arrives and completes or fails its page request (R350). -/
  | pageRequestResponse (req : Nat) (r : PriResponse)
  /-- A DRAM row activation completes and the row can deliver beats (R196). -/
  | rowActivationDone (p : PillarId) (bank : Nat)
  /-- A beat of a tile load or copy arrives from a vault row (R205). -/
  | tileBeatArrive (p : PillarId)
  /-- A tile load's slot is filled, stamped with its tag and becomes filled (R205). -/
  | tileLoadFill (p : PillarId)
  /-- Lateness of 4,096 clk on a throttled layer stops the stream with cause 0x22 (R214). -/
  | throttleTrap (p : PillarId)
  /-- A bank's refresh window begins and its open row closes (R210). -/
  | refreshWindowStart (p : PillarId) (bank : Nat)
  /-- A bank's refresh window ends and its waiting accesses proceed (R210). -/
  | refreshWindowEnd (p : PillarId) (bank : Nat)
  /-- A new refresh epoch begins and a pending CALENDAR write takes effect (R209). -/
  | refreshEpochStart (stack : BitVec 2)
  /-- A layer temperature crosses a threshold and sets or clears HOT, WARM or THROT (R211). -/
  | vthermChange (p : PillarId) (layer : Nat) (hot warm throt : Bool)
  /-- A short-lived row reaches its deadline D and becomes poisoned (R216). -/
  | retentionDeadline (p : PillarId) (row : Nat)
  /-- A copy ends and writes its done word full (R218). -/
  | copyComplete (p : PillarId)
  /-- A matrix-engine instruction completes, frees its unit and drops READERS (R231). -/
  | matrixComplete (p : PillarId) (u : MatrixUnit)
  /-- A .loom step starts on every member in the clk after the last member accepts it (R240). -/
  | loomStepStart (p : PillarId)
  /-- All DRAIN writes are acknowledged and the wake word is written (R242). -/
  | drainWritesDone (p : PillarId) (t : StrandId)
  /-- The shuttle sees a PICKNO change and queues the entries it triggers (R274). -/
  | draftEntryTrigger (p : PillarId)
  /-- The shuttle moves one 4 KiB block of an entry, coding or expanding it (R274). -/
  | shuttleBlockMove (p : PillarId) (h : Handle)
  /-- An entry's last block is visible and the entry becomes done (R275). -/
  | draftEntryComplete (p : PillarId) (index : Nat)
  /-- Writing RETRY translates the grown block again and writes it (R284). -/
  | ovfRetry (stack : BitVec 2) (n : BitVec 6)
  /-- Writing DROP discards the grown block and fails its entry with ERR 5 (R283). -/
  | ovfDrop (stack : BitVec 2) (n : BitVec 6)
  /-- A direct command completes or fails and frees its slot (R282). -/
  | directCommandComplete (p : PillarId) (slot : BitVec 4)
  /-- A flit that fails its CRC is sent again from the link buffer (R289). -/
  | flitCrcResend (p : PillarId) (port : MeshPort)
  /-- A message head reserves an inbox slot, or the worm is refused (R295). -/
  | messageHeadArrive (p : PillarId) (n : Nat)
  /-- A refused message is sent again 64 clk later (R296). -/
  | messageResend (p : PillarId) (n : Nat)
  /-- A message's last flit is written into its slot or host-queue entry (R296). -/
  | messageDeliver (p : PillarId) (n : Nat)
  /-- A vault agent starts and performs the next queued procedure atomically (R301). -/
  | agentProcedure (p : PillarId)
  /-- A procedure's response arrives, writes g[d] or delivers a late fault, and ends it (R303). -/
  | procedureResponse (p : PillarId) (t : StrandId) (seq : BitVec 16)
  /-- A combinable request at a waiting router exit merges into a matching entry (R312). -/
  | routerCombine (p : PillarId) (later : Nat)
  /-- An SC operation's window is known and its turn in S arrives, so its access starts (R328). -/
  | scAccessStart (p : PillarId) (t : StrandId)
  /-- A walker translates a missed VA through the page table (R347). -/
  | pageWalk (p : PillarId) (va : Word) (kind : AccessKind)
  /-- An ATS completion supplies a host translation (R348). -/
  | atsTranslationCompletion (asid : BitVec 16) (c : AtsCompletion)
  /-- A host Invalidate Request drops entries and is answered when they complete (R349). -/
  | atsInvalidateRequest (asid : BitVec 16) (va : Word) (size : Nat)
  /-- A port learns that a peer reset, powered down or lost its link, and the peer becomes GONE (R358). -/
  | peerGoneEvent (peer : BitVec 10) (why : BitVec 2)
  /-- An access to a peer passes PEERTO and the peer becomes GONE (R358). -/
  | peerTimeout (peer : BitVec 10)
  /-- A pending late fault is taken at an instruction boundary (R368). -/
  | lateFaultDelivery (p : PillarId) (t : StrandId)
  /-- A nonzero SIGNAL with SIE set is taken as interrupt 0x80 (R369). -/
  | signalInterrupt (p : PillarId) (t : StrandId)
  /-- The receiving strand takes a forwarded trap as interrupt 0x84 (R369). -/
  | forwardedTrapInterrupt (p : PillarId) (t : StrandId)
  /-- A trap message lands in FWD0 to FWD7, or passes on if FWD0 is valid (R376). -/
  | trapMessageArrive (n : Nat)
  /-- A trap message not taken in 65,536 clk goes on to the next link (R376). -/
  | trapMessageTimeout (p : PillarId)
  /-- A pre-emption request reaches a pillar and the matrix engine stops accepting (R382). -/
  | preemptRequestArrive (p : PillarId)
  /-- A strand stops at its next pre-emption point (R382). -/
  | preemptionPointStop (p : PillarId) (t : StrandId)
  /-- A request 2^20 clk old makes every user boundary a pre-emption point (R382). -/
  | preemptAgeLimit (p : PillarId)
  /-- A drained pillar writes its save area, and the job enters state 0x05 when all have saved (R383). -/
  | pillarSave (p : PillarId)
  /-- A saved context is reloaded and the rectangle restarts (R387). -/
  | pillarRestore (p : PillarId)
  /-- A twin's hash arrives and the pair is delivered or mismatched (R397). -/
  | dwHashArrive (p : PillarId) (t : StrandId)
  /-- A missing twin hash after 65,536 clk faults both strands with cause 0x6A (R397). -/
  | dwTimeout (p : PillarId) (t : StrandId)
  /-- A GO write to CONTAIN fences, stops, resets and scrubs the rectangle (R402). -/
  | containGo (p : PillarId)
  /-- The fences go down and the contained pillars become free (R402). -/
  | containmentDone (p : PillarId)
  /-- The scheduler starts a test strip on an idle or pre-empted pillar (R404). -/
  | testStripStart (p : PillarId)
  /-- A pillar reaches STRIPPER clk since its last strip and a strip is forced (R404). -/
  | stripIntervalDue (p : PillarId)
  /-- A strip's 42,000 clk end, and STRIPIDX and STRIPLAST advance on a pass (R405). -/
  | testStripEnd (p : PillarId) (r : StripResult)
  /-- The host consumes failure records, freeing room for waiting ones (R408). -/
  | frheadWrite (v : Word)
  /-- The host requests pre-emption of the rectangle holding a pillar (R412). -/
  | preemptreqWrite (v : Word)
  /-- An APERBASE write takes effect only if aligned and in region 0b00 or 0b01 (R413). -/
  | aperbaseWrite (v : Word)
  /-- A host BAR2 access runs as a read or write procedure from stack 0 (R413). -/
  | apertureAccess (off : BitVec 32) (a : HostAccess)
  /-- Writing the host-send register copies the staging and sends the message (R418). -/
  | hostSendWrite (h : BitVec 4) (v : Word)
  /-- A peer's request is translated and performed, or answered with an error (R420). -/
  | ualinkInboundRequest (peer : BitVec 10) (off : BitVec 36) (a : HostAccess)
  /-- Writing UP makes a GONE peer usable again (R419). -/
  | peerUpWrite (peer : BitVec 10)
  /-- Safelight measures its image, writes stack state, and trains the stacks, PHY and ports (R422). -/
  | powerOn (cfg : BringUp)
  /-- A function becomes usable, sets its READY bit and raises vector 8 (R422). -/
  | functionReady (fn : Function)
  /-- Safelight resets a halted stack and restarts it (R377). -/
  | stackReset (stack : BitVec 2)
  /-- Attestation signs the nonce and measurements and clears ATTGO (R425). -/
  | attgoWrite (v : Word)
  /-- A stack's temperature above 95 °C lowers its clock by 100 MHz and raises vector 9 (R426). -/
  | thermalStep (stack : BitVec 2) (temp : Word)
  /-- A phasing period begins and flips which pillars may accept matrix work (R428). -/
  | phasePeriodBoundary
  /-- A write to XB moves the code boundary, or faults with cause 0x17 (R128). -/
  | xbWrite (v : Word)
  /-- A write to TAGCFG reconfigures the cache area and invalidates every slot (R143). -/
  | tagcfgWrite (v : Word)
  /-- A write to STEAL sets the steal domain and backoff, refusing DOMAIN 3 (R159). -/
  | stealWrite (v : Word)
  /-- Writing 0 to ROWPROG.VALID abandons a stopped load or copy (R208). -/
  | rowprogAbandon
  /-- A write to FMT affects only later vector and matrix dispatches (R232). -/
  | fmtWrite (v : Word)
  /-- A write to STATUS changes the writable fields of its level (R362). -/
  | statusWrite (v : Word)
  /-- A machine write to CALENDAR takes effect at the next epoch (R209). -/
  | calendarWrite (v : Word)
  /-- A machine write adds a repaired row, copying it to the spare first (R213). -/
  | rpmapWrite (n : BitVec 4) (v : Word)
  /-- A machine write to CHAIN sets the links, or faults with cause 0x17 (R375). -/
  | chainWrite (v : Word)
  /-- A machine write to SAVEOFF moves the save window, or faults with cause 0x17 (R384). -/
  | saveoffWrite (v : Word)
  /-- A write to a register without its own row stores its writable fields (R8). -/
  | registerWrite (r : RegTarget) (v : Word)
  /-- A strand reaches a word chain that is an unassigned opcode, a broken prefix chain, PAGE 0 or a reserved page, and takes cause 0x01 or 0x02 (R26). -/
  | illegalInstruction (cause : BitVec 8) (tval : Word)
  /-- The pillar's divider finishes its 38-clk division, writes the result and becomes free, making waiting strands ready again (R117). -/
  | dividerFree (p : PillarId)
  /-- A tail flit marked cut reaches a receiver, which frees the reserved inbox slot and discards the flits (R297). -/
  | cutTailFlitArrive (p : PillarId) (inbox : BitVec 2)
  /-- A UALink port's link trains and its LINK bit sets, so the port becomes up and may carry traffic (R419). -/
  | ualinkLinkTrained (port : BitVec 3)
  /-- A stack's junction temperature rises above 110 °C and the stack halts under R377 (R426). -/
  | overtempStackHalt (stack : BitVec 2)
  /-- The host submits an image through the Safelight mailbox, and the measurement register of its role 4 to 7 is extended (R424). -/
  | hostImageSubmit (role : BitVec 3) (image : List Byte)
  deriving DecidableEq, Repr, Inhabited

end Sys2Proof
end

