-- ==== Sys2Proof/Machine/Encoding.lean ====
section
/-! DEFINITION. The opcode map: for each instruction its page, opcode and form, the register class of each
field, the immediate words, qualifiers and modifiers it accepts (01_instruction_words.md R23-R25, R32-R34 and the
entry of each instruction). -/

namespace Sys2Proof

/-- The element type of a code (R21). -/
def typeCode (c : BitVec 4) : EType :=
  match c.toNat with
  | 0 => .i8 | 1 => .i16 | 2 => .i32 | 3 => .i64 | 4 => .n8 | 5 => .n16 | 6 => .n32 | 7 => .n64
  | 8 => .f16 | 9 => .bf16 | 10 => .f32 | 11 => .f64 | 12 => .e4m3 | 13 => .e5m2 | 14 => .e2m1 | _ => .s8

/-- The code of an element type (R21). -/
def EType.code : EType → BitVec 4
  | .i8 => 0 | .i16 => 1 | .i32 => 2 | .i64 => 3 | .n8 => 4 | .n16 => 5 | .n32 => 6 | .n64 => 7
  | .f16 => 8 | .bf16 => 9 | .f32 => 10 | .f64 => 11 | .e4m3 => 12 | .e5m2 => 13 | .e2m1 => 14 | .s8 => 15

/-- The width of an element in bits (R165). -/
def EType.width : EType → Nat
  | .i8 | .n8 | .e4m3 | .e5m2 | .s8 => 8
  | .i16 | .n16 | .f16 | .bf16 => 16
  | .i32 | .n32 | .f32 => 32
  | .i64 | .n64 | .f64 => 64
  | .e2m1 => 4

/-- The types F of R165. -/
def isF : EType → Bool
  | .f16 | .bf16 | .f32 | .f64 => true
  | _ => false

/-- The types I of R165. -/
def isI : EType → Bool
  | .i8 | .i16 | .i32 | .i64 | .n8 | .n16 | .n32 | .n64 => true
  | _ => false

/-- F and I. -/
def isFI (t : EType) : Bool := isF t || isI t

/-- The types B of R165. -/
def isB (t : EType) : Bool := t != .e2m1

/-- The quantised types of R181. -/
def isQ : EType → Bool
  | .e4m3 | .e5m2 | .e2m1 | .i8 => true
  | _ => false

/-- The types of VDOT (R181). -/
def isDot : EType → Bool
  | .i8 | .n8 | .i16 | .n16 | .e4m3 | .e5m2 | .f16 | .bf16 => true
  | _ => false

/-- The types of RLD (R304). -/
def isRld : EType → Bool
  | .i8 | .i16 | .i32 | .i64 | .n8 | .n16 | .n32 => true
  | _ => false

/-- The types of RST (R304). -/
def isRst : EType → Bool
  | .i8 | .i16 | .i32 | .i64 => true
  | _ => false

/-- The types of a wide cell and of RFADD (R304, R307). -/
def isWide : EType → Bool
  | .f32 | .f64 => true
  | _ => false

/-! ## Fields -/

/-- Register field d: 5 bits, or 6 with REG (R23). -/
def Fields.dNum (f : Fields) : Nat :=
  f.d.toNat + match f.reg with | some r => 32 * boolNat r.dh | none => 0

/-- Register field s: 5 bits, or 6 with REG (R23). -/
def Fields.sNum (f : Fields) : Nat :=
  f.s.toNat + match f.reg with | some r => 32 * boolNat r.sh | none => 0

/-- Register field t; 0 without REG (R19). -/
def Fields.tNum (f : Fields) : Nat :=
  match f.reg with | some r => r.t.toNat | none => 0

/-- Qualifier q; 0 without REG (R19). -/
def Fields.qNum (f : Fields) : Nat :=
  match f.reg with | some r => r.q.toNat | none => 0

/-- The sh bit; 0 without REG (R19). -/
def Fields.shBit (f : Fields) : Bool :=
  match f.reg with | some r => r.sh | none => false

/-- The mask register of QUAL; k0 without QUAL (R20). -/
def Fields.kNum (f : Fields) : Nat :=
  match f.qual with | some q => q.k.toNat | none => 0

/-- The flags of QUAL; 0 without QUAL (R20). -/
def Fields.flags (f : Fields) : Nat :=
  match f.qual with | some q => q.flags.toNat | none => 0

/-- The element type: that of QUAL, or the default without QUAL (R20). -/
def typeOf (dflt : EType) (f : Fields) : EType :=
  match f.qual with | some q => typeCode q.type | none => dflt

/-- The IMX payloads joined, first word highest (R17, R18). -/
def Fields.imxValue (f : Fields) : Nat := f.imx.foldl (fun a x => a * 2048 + x.toNat) 0

/-- The immediate before extension: the IMX payloads and base bits 4:0 (R17). -/
def Fields.immU (f : Fields) : Nat := f.imxValue * 32 + f.s.toNat

/-- The immediate, sign-extended from its width (R17). -/
def Fields.immS (f : Fields) : Int := sextNat f.immU (5 + 11 * f.imx.length)

/-- The displacement of forms M and B, sign-extended from its width (R18). -/
def Fields.disp (f : Fields) : Int := sextNat f.imxValue (11 * f.imx.length)

/-- The prefix words and the base word, counted (R13). -/
def Fields.prefixes (page : Nat) (f : Fields) : Nat :=
  boolNat (page != 0) + boolNat f.reg.isSome + boolNat f.qual.isSome + f.imx.length

/-! ## Forms -/

/-- The layouts of R23, split by how many operands an entry gives them. -/
inductive Form where
  /-- RR with a destination d: sources A = d, B = s unprefixed and A = s, B = t with REG. -/
  | rr2
  /-- RR with two sources and no destination: as rr2, d zero with REG. -/
  | rr2n
  /-- RR with one source s, or none. -/
  | rr1
  /-- RI: A = d unprefixed and A = t with REG. -/
  | ri
  /-- SYSWR: RI without a destination (R378). -/
  | ris
  /-- M: data d, base s, index t scaled by q. -/
  | m
  /-- B: compares d with s. -/
  | b
  /-- RR whose entry names d, s and the REG field t. -/
  | rrt
  /-- TLBINV: RR whose entry names d and s as sources with and without REG (R356). -/
  | rrw
  deriving DecidableEq, Repr, Inhabited

/-- The register classes of R24; `none` is a field the form does not use, `lane` the lane number of VINS and
VEXT, `shOrG` a shape register or, with modifier bit 0, a general register (R197). -/
inductive Cls where
  | g | v | k | sh | a | q | none | lane | shOrG
  deriving DecidableEq, Repr, Inhabited

/-- Whether the q field of REG is zero or names a part (R171). -/
inductive QRole where
  | zero | part
  deriving DecidableEq, Repr, Inhabited

/-- What an entry accepts of QUAL: nothing, or the listed types with some flags and perhaps a mask. -/
inductive QualRule where
  | refused
  | accepts (types : List EType) (flags : BitVec 4) (mask : Bool)
  deriving DecidableEq, Repr, Inhabited

/-- All element types. -/
def allTypes : List EType :=
  [.i8, .i16, .i32, .i64, .n8, .n16, .n32, .n64, .f16, .bf16, .f32, .f64, .e4m3, .e5m2, .e2m1, .s8]

/-- One row of the opcode map with the rules of its entry. -/
structure Row where
  page : Nat := 0
  op : Nat := 0
  form : Form
  d : Cls := .none
  a : Cls := .none
  b : Cls := .none
  imx : Nat := 0
  qual : QualRule := .refused
  q : QRole := .zero
  regReq : Bool := false
  mod : BitVec 7 → Bool := fun m => m == 0
  extra : Fields → Bool := fun _ => true

/-! ## The rules that several entries share -/

/-- QUAL on pages 3 and 4 (R171). -/
def vec (types : EType → Bool) (z sat : Bool) : QualRule :=
  .accepts (allTypes.filter types) (BitVec.ofNat 4 (8 * boolNat z + 4 * boolNat sat)) true

/-- QUAL of the K instructions: no mask, no flags, any type (R180). -/
def maskOnly : QualRule := .accepts allTypes 0 false

/-- QUAL of MZERO (R237). -/
def zeroQual : QualRule := .accepts [.i32, .f32] 0 false

/-- The row-count code c of MLD, MST and DRAIN is not 7 (R238, R242). -/
def rowsCode (f : Fields) : Bool := f.flags % 8 != 7

/-- QUAL of MLD, MST and DRAIN (R238, R242). -/
def tileQual : QualRule := .accepts allTypes 7 false

/-- QUAL of PJOIN (R256). -/
def joinQual : QualRule := .accepts [.f32, .f64] 4 false

/-- QUAL of the page 9 forms (R304-R307). -/
def plainQual (types : EType → Bool) (flags : BitVec 4) : QualRule :=
  .accepts (allTypes.filter types) flags false

/-- Modifier bit 6 is the pair flag (R171). -/
def pairMod (m : BitVec 7) : Bool := m.toNat % 64 == 0

/-- The pair flag of an instruction on page 3 (R171). -/
def isPair (f : Fields) : Bool := bitOf f.mod.toNat 6

/-- Under the pair flag elements have at least 16 bits and every v field is even (R171). -/
def pairOk (dflt : EType) (f : Fields) : Bool :=
  !isPair f ||
    ((typeOf dflt f).width ≥ 16 && f.dNum % 2 == 0 && f.sNum % 2 == 0 && f.tNum % 2 == 0)

/-- A restricted unsigned immediate (R25). -/
def immAtMost (n : Nat) (f : Fields) : Bool := f.immU ≤ n

/-- The immediate of the bit-field forms: position and length within 64 bits (R119). -/
def bitField (f : Fields) : Bool :=
  f.immU < 4096 && bitsOf f.immU 5 0 + bitsOf f.immU 11 6 + 1 ≤ 64

/-- The source field is zero. -/
def sourceZero (f : Fields) : Bool := f.sNum == 0

/-- Scope codes 0 to 5 in bits 6:4 (R34). -/
def scopeOk (m : BitVec 7) : Bool := bitsOf m.toNat 6 4 ≤ 5

/-- In STL and SCST the signed bit is 0 for sizes below eight bytes (R329). -/
def storeSign (m : BitVec 7) : Bool := !bitOf m.toNat 2 || bitsOf m.toNat 1 0 == 3

/-- Atomic op codes 0 to 8 in bits 6:3 (R34). -/
def atomicOp (m : BitVec 7) : Bool := bitsOf m.toNat 6 3 ≤ 8

/-- An even d (R305, R307, R329). -/
def evenD (f : Fields) : Bool := f.dNum % 2 == 0

/-- VINS and VEXT: the lane lies below L and the mask is k0 (R177). -/
def laneOk (f : Fields) : Bool := f.tNum < 512 / (typeOf .f32 f).width && f.kNum == 0

/-- VGATHER and VSCATTER: q from 1 to 7 (R179). -/
def scaled (f : Fields) : Bool := f.qNum != 0

/-- The source type of a conversion: modifier bits 3:0 (R182). -/
def fromType (f : Fields) : EType := typeCode (f.mod.setWidth 4)

/-- The part lies below the ratio of the widths (R183). -/
def partOk (src dst : EType) (f : Fields) : Bool :=
  let r := max src.width dst.width / min src.width dst.width
  r ≤ 8 && f.qNum < r

/-- The pairs VCVT converts, with the part in range (R58, R183). -/
def convertOk (f : Fields) : Bool :=
  let dst := typeOf .f32 f
  let src := fromType f
  src != dst && !(src == .s8 && isI dst) && !(dst == .s8 && isI src) && partOk src dst f

/-- VQUANT: a float source (R184). -/
def quantOk (f : Fields) : Bool :=
  isF (fromType f) && partOk (fromType f) (typeOf .e4m3 f) f

/-- VDEQUANT: a quantised source (R184). -/
def dequantOk (f : Fields) : Bool :=
  isQ (fromType f) && partOk (fromType f) (typeOf .f32 f) f

/-- The assigned system-register numbers (R392, R393). -/
def sysAssignedNum (n : Nat) : Bool :=
  n ≤ 0x18 || (0x1A ≤ n && n ≤ 0x1D) || (0x20 ≤ n && n ≤ 0x25) || (0x30 ≤ n && n ≤ 0x37) ||
  (0x40 ≤ n && n ≤ 0x97) ||
  (0x400 ≤ n && n ≤ 0x406) || (0x410 ≤ n && n ≤ 0x417) || (0x420 ≤ n && n ≤ 0x423) ||
  (0x430 ≤ n && n ≤ 0x43B) || (0x440 ≤ n && n ≤ 0x44B) || (0x450 ≤ n && n ≤ 0x45B) ||
  (0x460 ≤ n && n ≤ 0x46B) || (0x470 ≤ n && n ≤ 0x472) || (0x480 ≤ n && n ≤ 0x48B) ||
  (0x490 ≤ n && n ≤ 0x494) || (0x498 ≤ n && n ≤ 0x49B) || (0x4A0 ≤ n && n ≤ 0x4A8) ||
  (0x4B0 ≤ n && n ≤ 0x4B3) || (0x4B8 ≤ n && n ≤ 0x4BE) || (0x4C0 ≤ n && n ≤ 0x4C6) || n == 0x4C8

/-- SYSRD and SYSWR name an assigned register (R378). -/
def sysAssigned (f : Fields) : Bool := sysAssignedNum f.immU

/-! ## Checking a row's rules -/

/-- A register number is in range for its class (R24); a field without a class is zero (R25). -/
def Cls.ok (c : Cls) (f : Fields) (n : Nat) : Bool :=
  match c with
  | .g | .lane => n < 64
  | .v => n < 32
  | .k | .sh | .q => n < 8
  | .a => n < 16
  | .none => n == 0
  | .shOrG => if bitOf f.mod.toNat 0 then n < 64 else n < 8

/-- The QUAL prefix is acceptable (R20, R25). -/
def QualRule.ok (r : QualRule) (f : Fields) : Bool :=
  match r, f.qual with
  | _, none => true
  | .refused, some _ => false
  | .accepts types flags mask, some q =>
    types.contains (typeCode q.type) && (q.flags &&& ~~~flags) == 0 && (mask || q.k == 0)

/-- The register fields of each form are in class and the unused ones are zero (R23-R25). -/
def Row.fieldsOk (r : Row) (f : Fields) : Bool :=
  let c (cls : Cls) (n : Nat) : Bool := cls.ok f n
  let p := f.reg.isSome
  let qz := r.q == .part || f.qNum == 0
  match r.form with
  | .rr2 =>
    qz && c r.d f.dNum &&
      (if p then c r.a f.sNum && c r.b f.tNum else c r.a f.dNum && c r.b f.sNum)
  | .rr2n =>
    qz && (if p then f.dNum == 0 && c r.a f.sNum && c r.b f.tNum else c r.a f.dNum && c r.b f.sNum)
  | .rr1 => qz && c r.d f.dNum && c r.a f.sNum && (r.b == .lane || f.tNum == 0)
  | .ri =>
    qz && c r.d f.dNum && !f.shBit &&
      (if p then c r.a f.tNum else r.a == .none || c r.a f.dNum)
  | .ris => qz && !f.shBit && (if p then f.dNum == 0 && c r.a f.tNum else c r.a f.dNum)
  | .m =>
    c r.d f.dNum && c r.a f.sNum && (if f.qNum == 0 then f.tNum == 0 else c r.b f.tNum)
  | .b => qz && c r.d f.dNum && c r.a f.sNum && f.tNum == 0
  | .rrt => qz && c r.d f.dNum && c r.a f.sNum && c r.b f.tNum
  | .rrw => qz && c r.a f.dNum && c r.b f.sNum && f.tNum == 0

/-- All the checks of R16, R24 and R25 and of the entry itself. -/
def Row.ok (r : Row) (f : Fields) : Bool :=
  f.imx.length ≤ r.imx && f.imx.length ≤ 3 && f.prefixes r.page ≤ 4 && (!r.regReq || f.reg.isSome) &&
    r.mod f.mod && r.qual.ok f && r.fieldsOk f && r.extra f

/-- A row of page 0. -/
def row0 (op : Nat) (r : Row) : Row := { r with page := 0, op := op }

/-- A row of page 1. -/
def row1 (op : Nat) (r : Row) : Row := { r with page := 1, op := op }

/-- A row of page 2. -/
def row2 (op : Nat) (r : Row) : Row := { r with page := 2, op := op }

/-- A row of page 3. -/
def row3 (op : Nat) (r : Row) : Row := { r with page := 3, op := op }

/-- A row of page 4. -/
def row4 (op : Nat) (r : Row) : Row := { r with page := 4, op := op }

/-- A row of page 5. -/
def row5 (op : Nat) (r : Row) : Row := { r with page := 5, op := op }

/-- A row of page 6. -/
def row6 (op : Nat) (r : Row) : Row := { r with page := 6, op := op }

/-- A row of page 7. -/
def row7 (op : Nat) (r : Row) : Row := { r with page := 7, op := op }

/-- A row of page 8. -/
def row8 (op : Nat) (r : Row) : Row := { r with page := 8, op := op }

/-- A row of page 9. -/
def row9 (op : Nat) (r : Row) : Row := { r with page := 9, op := op }

/-- A row of page 10. -/
def row10 (op : Nat) (r : Row) : Row := { r with page := 10, op := op }

/-- A row of page 11. -/
def row11 (op : Nat) (r : Row) : Row := { r with page := 11, op := op }

/-- The row of an instruction and its fields; an event has none. -/
def Instr.row : Instr → Option (Row × Fields)
  | .add f => some (row0 0 { form := .rr2, d := .g, a := .g, b := .g }, f)
  | .sub f => some (row0 1 { form := .rr2, d := .g, a := .g, b := .g }, f)
  | .and f => some (row0 2 { form := .rr2, d := .g, a := .g, b := .g }, f)
  | .or f => some (row0 3 { form := .rr2, d := .g, a := .g, b := .g }, f)
  | .xor f => some (row0 4 { form := .rr2, d := .g, a := .g, b := .g }, f)
  | .andn f => some (row0 5 { form := .rr2, d := .g, a := .g, b := .g }, f)
  | .shl f => some (row0 6 { form := .rr2, d := .g, a := .g, b := .g }, f)
  | .shr f => some (row0 7 { form := .rr2, d := .g, a := .g, b := .g }, f)
  | .sar f => some (row0 8 { form := .rr2, d := .g, a := .g, b := .g }, f)
  | .slt f => some (row0 9 { form := .rr2, d := .g, a := .g, b := .g }, f)
  | .sltn f => some (row0 10 { form := .rr2, d := .g, a := .g, b := .g }, f)
  | .min f => some (row0 11 { form := .rr2, d := .g, a := .g, b := .g }, f)
  | .max f => some (row0 12 { form := .rr2, d := .g, a := .g, b := .g }, f)
  | .mov f => some (row0 13 { form := .rr1, d := .g, a := .g }, f)
  | .sel f => some (row0 14 { form := .rr2, d := .g, a := .g, b := .g }, f)
  | .selz f => some (row0 15 { form := .rr2, d := .g, a := .g, b := .g }, f)
  | .addi f => some (row0 16 { form := .ri, d := .g, a := .g, imx := 3 }, f)
  | .andi f => some (row0 17 { form := .ri, d := .g, a := .g, imx := 3 }, f)
  | .ori f => some (row0 18 { form := .ri, d := .g, a := .g, imx := 3 }, f)
  | .xori f => some (row0 19 { form := .ri, d := .g, a := .g, imx := 3 }, f)
  | .shli f => some (row0 20 { form := .ri, d := .g, a := .g, imx := 1, extra := immAtMost 63 }, f)
  | .shri f => some (row0 21 { form := .ri, d := .g, a := .g, imx := 1, extra := immAtMost 63 }, f)
  | .sari f => some (row0 22 { form := .ri, d := .g, a := .g, imx := 1, extra := immAtMost 63 }, f)
  | .slti f => some (row0 23 { form := .ri, d := .g, a := .g, imx := 3 }, f)
  | .li f => some (row0 24 { form := .ri, d := .g, a := .none, imx := 3 }, f)
  | .lpc f => some (row0 25 { form := .ri, d := .g, a := .none, imx := 3 }, f)
  | .ldI8 f => some (row0 32 { form := .m, d := .g, a := .g, b := .g, imx := 3 }, f)
  | .ldI16 f => some (row0 33 { form := .m, d := .g, a := .g, b := .g, imx := 3 }, f)
  | .ldI32 f => some (row0 34 { form := .m, d := .g, a := .g, b := .g, imx := 3 }, f)
  | .ldI64 f => some (row0 35 { form := .m, d := .g, a := .g, b := .g, imx := 3 }, f)
  | .ldN8 f => some (row0 36 { form := .m, d := .g, a := .g, b := .g, imx := 3 }, f)
  | .ldN16 f => some (row0 37 { form := .m, d := .g, a := .g, b := .g, imx := 3 }, f)
  | .ldN32 f => some (row0 38 { form := .m, d := .g, a := .g, b := .g, imx := 3 }, f)
  | .stI8 f => some (row0 39 { form := .m, d := .g, a := .g, b := .g, imx := 3 }, f)
  | .stI16 f => some (row0 40 { form := .m, d := .g, a := .g, b := .g, imx := 3 }, f)
  | .stI32 f => some (row0 41 { form := .m, d := .g, a := .g, b := .g, imx := 3 }, f)
  | .stI64 f => some (row0 42 { form := .m, d := .g, a := .g, b := .g, imx := 3 }, f)
  | .jal f => some (row0 44 { form := .ri, d := .g, a := .none, imx := 3 }, f)
  | .jr f => some (row0 45 { form := .rr1, d := .g, a := .g }, f)
  | .svc f => some (row0 46 { form := .ri, d := .none, a := .none, imx := 1 }, f)
  | .brk f => some (row0 47 { form := .ri, d := .none, a := .none, imx := 1 }, f)
  | .beq f => some (row0 48 { form := .b, d := .g, a := .g, imx := 3 }, f)
  | .bne f => some (row0 49 { form := .b, d := .g, a := .g, imx := 3 }, f)
  | .blt f => some (row0 50 { form := .b, d := .g, a := .g, imx := 3 }, f)
  | .bge f => some (row0 51 { form := .b, d := .g, a := .g, imx := 3 }, f)
  | .bltn f => some (row0 52 { form := .b, d := .g, a := .g, imx := 3 }, f)
  | .bgen f => some (row0 53 { form := .b, d := .g, a := .g, imx := 3 }, f)
  | .mul f => some (row1 0 { form := .rr2, d := .g, a := .g, b := .g }, f)
  | .mulh f => some (row1 1 { form := .rr2, d := .g, a := .g, b := .g }, f)
  | .mulhn f => some (row1 2 { form := .rr2, d := .g, a := .g, b := .g }, f)
  | .madd f => some (row1 3 { form := .rr2, d := .g, a := .g, b := .g }, f)
  | .div f => some (row1 4 { form := .rr2, d := .g, a := .g, b := .g }, f)
  | .divn f => some (row1 5 { form := .rr2, d := .g, a := .g, b := .g }, f)
  | .rem f => some (row1 6 { form := .rr2, d := .g, a := .g, b := .g }, f)
  | .remn f => some (row1 7 { form := .rr2, d := .g, a := .g, b := .g }, f)
  | .clz f => some (row1 8 { form := .rr1, d := .g, a := .g }, f)
  | .ctz f => some (row1 9 { form := .rr1, d := .g, a := .g }, f)
  | .popc f => some (row1 10 { form := .rr1, d := .g, a := .g }, f)
  | .bswap f => some (row1 11 { form := .rr1, d := .g, a := .g }, f)
  | .brev f => some (row1 12 { form := .rr1, d := .g, a := .g }, f)
  | .bfx f => some (row1 13 { form := .ri, d := .g, a := .g, imx := 1, extra := bitField }, f)
  | .bfxn f => some (row1 14 { form := .ri, d := .g, a := .g, imx := 1, extra := bitField }, f)
  | .bfi f => some (row1 15 { form := .ri, d := .g, a := .g, imx := 1, extra := bitField }, f)
  | .fshl f => some (row1 16 { form := .rr2, d := .g, a := .g, b := .g }, f)
  | .fshr f => some (row1 17 { form := .rr2, d := .g, a := .g, b := .g }, f)
  | .lldI8 f => some (row2 0 { form := .m, d := .g, a := .g, b := .g, imx := 3 }, f)
  | .lldI16 f => some (row2 1 { form := .m, d := .g, a := .g, b := .g, imx := 3 }, f)
  | .lldI32 f => some (row2 2 { form := .m, d := .g, a := .g, b := .g, imx := 3 }, f)
  | .lldI64 f => some (row2 3 { form := .m, d := .g, a := .g, b := .g, imx := 3 }, f)
  | .lldN8 f => some (row2 4 { form := .m, d := .g, a := .g, b := .g, imx := 3 }, f)
  | .lldN16 f => some (row2 5 { form := .m, d := .g, a := .g, b := .g, imx := 3 }, f)
  | .lldN32 f => some (row2 6 { form := .m, d := .g, a := .g, b := .g, imx := 3 }, f)
  | .lstI8 f => some (row2 7 { form := .m, d := .g, a := .g, b := .g, imx := 3 }, f)
  | .lstI16 f => some (row2 8 { form := .m, d := .g, a := .g, b := .g, imx := 3 }, f)
  | .lstI32 f => some (row2 9 { form := .m, d := .g, a := .g, b := .g, imx := 3 }, f)
  | .lstI64 f => some (row2 10 { form := .m, d := .g, a := .g, b := .g, imx := 3 }, f)
  | .lldf f => some (row2 11 { form := .m, d := .g, a := .g, b := .g, imx := 3 }, f)
  | .llde f => some (row2 12 { form := .m, d := .g, a := .g, b := .g, imx := 3 }, f)
  | .lstf f => some (row2 13 { form := .m, d := .g, a := .g, b := .g, imx := 3 }, f)
  | .feset f => some (row2 14 { form := .rr2n, a := .g, b := .g }, f)
  | .feclr f => some (row2 15 { form := .rr2n, a := .g, b := .g }, f)
  | .lda f => some (row2 16 { form := .m, d := .g, a := .g, b := .g, imx := 3, mod := fun m => scopeOk m && !bitOf m.toNat 3 }, f)
  | .stl f => some (row2 17 { form := .m, d := .g, a := .g, b := .g, imx := 3, mod := fun m => scopeOk m && !bitOf m.toNat 3 && storeSign m }, f)
  | .scld f => some (row2 18 { form := .m, d := .g, a := .g, b := .g, imx := 3, mod := fun m => m.toNat < 8 }, f)
  | .scst f => some (row2 19 { form := .m, d := .g, a := .g, b := .g, imx := 3, mod := fun m => m.toNat < 8 && storeSign m }, f)
  | .amo f => some (row2 20 { form := .m, d := .g, a := .g, b := .g, imx := 3, mod := atomicOp }, f)
  | .cas f => some (row2 21 { form := .m, d := .g, a := .g, b := .g, imx := 3, mod := fun m => m.toNat < 8, extra := evenD }, f)
  | .scamo f => some (row2 22 { form := .m, d := .g, a := .g, b := .g, imx := 3, mod := atomicOp }, f)
  | .fence f => some (row2 23 { form := .rr1, d := .none, a := .none, mod := fun m => scopeOk m && bitsOf m.toNat 3 0 != 0 }, f)
  | .cfetch f => some (row2 24 { form := .rr2n, a := .g, b := .g, mod := fun m => m.toNat < 16 }, f)
  | .cwait f => some (row2 25 { form := .rr1, d := .g, a := .none, mod := fun m => m.toNat < 16 }, f)
  | .jmpf f => some (row2 26 { form := .rr1, d := .g, a := .g }, f)
  | .tlook f => some (row2 27 { form := .rr1, d := .g, a := .g }, f)
  | .tfill f => some (row2 28 { form := .rr2n, a := .g, b := .g }, f)
  | .tevict f => some (row2 29 { form := .rr1, d := .g, a := .g }, f)
  | .tinval f => some (row2 30 { form := .rr1, d := .none, a := .g, mod := fun m => m.toNat < 2, extra := fun f => f.mod.toNat = 0 || sourceZero f }, f)
  | .vadd f => some (row3 0 { form := .rr2, d := .v, a := .v, b := .v, mod := pairMod, qual := vec isFI true true, extra := pairOk .f32 }, f)
  | .vsub f => some (row3 1 { form := .rr2, d := .v, a := .v, b := .v, mod := pairMod, qual := vec isFI true true, extra := pairOk .f32 }, f)
  | .vmul f => some (row3 2 { form := .rr2, d := .v, a := .v, b := .v, mod := pairMod, qual := vec isFI true true, extra := pairOk .f32 }, f)
  | .vdiv f => some (row3 3 { form := .rr2, d := .v, a := .v, b := .v, mod := pairMod, qual := vec isF true true, extra := pairOk .f32 }, f)
  | .vmin f => some (row3 4 { form := .rr2, d := .v, a := .v, b := .v, mod := pairMod, qual := vec isFI true false, extra := pairOk .f32 }, f)
  | .vmax f => some (row3 5 { form := .rr2, d := .v, a := .v, b := .v, mod := pairMod, qual := vec isFI true false, extra := pairOk .f32 }, f)
  | .vfma f => some (row3 6 { form := .rr2, d := .v, a := .v, b := .v, mod := pairMod, qual := vec isFI true true, extra := pairOk .f32 }, f)
  | .vfms f => some (row3 7 { form := .rr2, d := .v, a := .v, b := .v, mod := pairMod, qual := vec isFI true true, extra := pairOk .f32 }, f)
  | .vabs f => some (row3 8 { form := .rr1, d := .v, a := .v, mod := pairMod, qual := vec isFI true true, extra := pairOk .f32 }, f)
  | .vneg f => some (row3 9 { form := .rr1, d := .v, a := .v, mod := pairMod, qual := vec isFI true true, extra := pairOk .f32 }, f)
  | .vsqrt f => some (row3 10 { form := .rr1, d := .v, a := .v, mod := pairMod, qual := vec isF true true, extra := pairOk .f32 }, f)
  | .vand f => some (row3 11 { form := .rr2, d := .v, a := .v, b := .v, mod := pairMod, qual := vec isB true false, extra := pairOk .i32 }, f)
  | .vor f => some (row3 12 { form := .rr2, d := .v, a := .v, b := .v, mod := pairMod, qual := vec isB true false, extra := pairOk .i32 }, f)
  | .vxor f => some (row3 13 { form := .rr2, d := .v, a := .v, b := .v, mod := pairMod, qual := vec isB true false, extra := pairOk .i32 }, f)
  | .vandn f => some (row3 14 { form := .rr2, d := .v, a := .v, b := .v, mod := pairMod, qual := vec isB true false, extra := pairOk .i32 }, f)
  | .vshl f => some (row3 15 { form := .rr2, d := .v, a := .v, b := .v, mod := pairMod, qual := vec isI true false, extra := pairOk .i32 }, f)
  | .vshr f => some (row3 16 { form := .rr2, d := .v, a := .v, b := .v, mod := pairMod, qual := vec isI true false, extra := pairOk .i32 }, f)
  | .vsar f => some (row3 17 { form := .rr2, d := .v, a := .v, b := .v, mod := pairMod, qual := vec isI true false, extra := pairOk .i32 }, f)
  | .vcmp f => some (row3 18 { form := .rr2, d := .k, a := .v, b := .v, mod := fun m => m.toNat < 7, qual := vec isFI true false, extra := fun f => isF (typeOf .f32 f) || f.mod.toNat != 6 }, f)
  | .vsel f => some (row3 19 { form := .rr2, d := .v, a := .v, b := .v, mod := pairMod, qual := vec isB false false, extra := pairOk .f32 }, f)
  | .vmov f => some (row3 20 { form := .rr1, d := .v, a := .v, mod := pairMod, qual := vec isB true false, extra := pairOk .f32 }, f)
  | .vbcast f => some (row3 21 { form := .rr1, d := .v, a := .g, qual := vec isB true false }, f)
  | .vins f => some (row3 22 { form := .rr1, d := .v, a := .g, b := .lane, qual := vec isB false false, extra := laneOk }, f)
  | .vext f => some (row3 23 { form := .rr1, d := .g, a := .v, b := .lane, qual := vec isB false false, extra := laneOk }, f)
  | .vld f => some (row3 24 { form := .m, d := .v, a := .g, b := .g, imx := 3, qual := vec isB true false }, f)
  | .vst f => some (row3 25 { form := .m, d := .v, a := .g, b := .g, imx := 3, qual := vec isB false false }, f)
  | .vgather f => some (row3 26 { form := .m, d := .v, a := .g, b := .v, imx := 3, qual := vec isB true false, regReq := true, extra := scaled }, f)
  | .vscatter f => some (row3 27 { form := .m, d := .v, a := .g, b := .v, imx := 3, qual := vec isB false false, regReq := true, extra := scaled }, f)
  | .kand f => some (row3 28 { form := .rr2, d := .k, a := .k, b := .k, qual := maskOnly }, f)
  | .kor f => some (row3 29 { form := .rr2, d := .k, a := .k, b := .k, qual := maskOnly }, f)
  | .knot f => some (row3 30 { form := .rr1, d := .k, a := .k, qual := maskOnly }, f)
  | .kmovg f => some (row3 31 { form := .rr1, d := .g, a := .k, qual := maskOnly }, f)
  | .kmovk f => some (row3 32 { form := .rr1, d := .k, a := .g, qual := maskOnly }, f)
  | .kpopc f => some (row3 33 { form := .rr1, d := .g, a := .k, qual := maskOnly }, f)
  | .vcvt f => some (row4 0 { form := .rr1, d := .v, a := .v, q := .part, mod := fun m => m.toNat < 16, qual := vec (fun _ => true) true true, extra := convertOk }, f)
  | .vquant f => some (row4 1 { form := .rr2, d := .v, a := .v, b := .g, q := .part, mod := fun m => m.toNat < 16, qual := vec isQ true true, extra := quantOk }, f)
  | .vdequant f => some (row4 2 { form := .rr2, d := .v, a := .v, b := .g, q := .part, mod := fun m => m.toNat < 16, qual := vec isF true true, extra := dequantOk }, f)
  | .vbscale f => some (row4 3 { form := .rr1, d := .g, a := .v, mod := fun m => m.toNat < 16 && isQ (typeCode (m.setWidth 4)), qual := vec isF false false }, f)
  | .vexp2 f => some (row4 4 { form := .rr1, d := .v, a := .v, qual := vec isF true false }, f)
  | .vlog2 f => some (row4 5 { form := .rr1, d := .v, a := .v, qual := vec isF true false }, f)
  | .vrcp f => some (row4 6 { form := .rr1, d := .v, a := .v, qual := vec isF true false }, f)
  | .vrsqrt f => some (row4 7 { form := .rr1, d := .v, a := .v, qual := vec isF true false }, f)
  | .vred f => some (row4 8 { form := .rr1, d := .v, a := .v, mod := fun m => m.toNat < 6, qual := vec isFI false false, extra := fun f => isI (typeOf .f32 f) || f.mod.toNat < 3 }, f)
  | .vperm f => some (row4 9 { form := .rr2, d := .v, a := .v, b := .v, qual := vec isB true false }, f)
  | .vshuf f => some (row4 10 { form := .rr2, d := .v, a := .v, b := .v, qual := vec isB true false }, f)
  | .vrot f => some (row4 11 { form := .ri, d := .v, a := .v, imx := 1, qual := vec isB true false, extra := immAtMost 63 }, f)
  | .vcompress f => some (row4 12 { form := .rr1, d := .v, a := .v, qual := vec isB true false }, f)
  | .vexpand f => some (row4 13 { form := .rr1, d := .v, a := .v, qual := vec isB true false }, f)
  | .vdot f => some (row4 14 { form := .rr2, d := .v, a := .v, b := .v, qual := vec isDot true true }, f)
  | .rowact f => some (row5 0 { form := .rr1, d := .none, a := .shOrG, mod := fun m => m.toNat < 2 }, f)
  | .rowclose f => some (row5 1 { form := .rr1, d := .none, a := .shOrG, mod := fun m => m.toNat < 3, extra := fun f => f.mod.toNat != 2 || sourceZero f }, f)
  | .rowshort f => some (row5 2 { form := .rr1, d := .none, a := .shOrG, mod := fun m => m.toNat < 2 }, f)
  | .rowkeep f => some (row5 3 { form := .rr1, d := .none, a := .shOrG, mod := fun m => m.toNat < 2 }, f)
  | .shld f => some (row5 4 { form := .m, d := .sh, a := .g, b := .g, imx := 3 }, f)
  | .shst f => some (row5 5 { form := .m, d := .sh, a := .g, b := .g, imx := 3 }, f)
  | .shset f => some (row5 6 { form := .rr1, d := .sh, a := .g, mod := fun m => m.toNat < 7 }, f)
  | .tld f => some (row5 7 { form := .rr1, d := .g, a := .sh, mod := fun m => m.toNat < 8 }, f)
  | .tldt f => some (row5 8 { form := .rr1, d := .g, a := .sh, mod := fun m => m.toNat < 8 }, f)
  | .tldc f => some (row5 9 { form := .rr1, d := .g, a := .sh, mod := fun m => m.toNat < 8 }, f)
  | .tldtc f => some (row5 10 { form := .rr1, d := .g, a := .sh, mod := fun m => m.toNat < 8 }, f)
  | .bcopy f => some (row5 11 { form := .rrt, d := .sh, a := .sh, b := .g }, f)
  | .bcopyt f => some (row5 12 { form := .rrt, d := .sh, a := .sh, b := .g }, f)
  | .bcopyc f => some (row5 13 { form := .rrt, d := .sh, a := .sh, b := .g }, f)
  | .bcopyx f => some (row5 14 { form := .rrt, d := .sh, a := .sh, b := .g }, f)
  | .spoolcfg f => some (row6 0 { form := .rr1, d := .none, a := .g }, f)
  | .await f => some (row6 1 { form := .ri, d := .q, a := .none }, f)
  | .release f => some (row6 2 { form := .ri, d := .q, a := .none }, f)
  | .mma f => some (row6 3 { form := .rrt, d := .a, a := .g, b := .g, regReq := true, mod := fun _ => true }, f)
  | .mmabs f => some (row6 4 { form := .rrt, d := .a, a := .g, b := .g, regReq := true, mod := fun _ => true }, f)
  | .mmv f => some (row6 5 { form := .rrt, d := .a, a := .g, b := .v, regReq := true, mod := fun m => m.toNat < 8 }, f)
  | .mzero f => some (row6 6 { form := .rr1, d := .a, a := .none, qual := zeroQual }, f)
  | .mld f => some (row6 7 { form := .m, d := .a, a := .g, b := .g, imx := 3, qual := tileQual, mod := fun m => m.toNat < 64, extra := rowsCode }, f)
  | .mst f => some (row6 8 { form := .m, d := .a, a := .g, b := .g, imx := 3, qual := tileQual, mod := fun m => m.toNat < 64, extra := rowsCode }, f)
  | .mcommit f => some (row6 9 { form := .rr1, d := .g, a := .none }, f)
  | .mwait f => some (row6 10 { form := .rr1, d := .none, a := .g }, f)
  | .sldv f => some (row6 11 { form := .rr1, d := .v, a := .g, mod := fun m => m.toNat < 8 }, f)
  | .sstv f => some (row6 12 { form := .rr1, d := .v, a := .g, mod := fun m => m.toNat < 16 }, f)
  | .loomjoin f => some (row6 13 { form := .rr1, d := .none, a := .g }, f)
  | .loomgo f => some (row6 14 { form := .rr1, d := .none, a := .none }, f)
  | .loomsplit f => some (row6 15 { form := .rr1, d := .none, a := .none }, f)
  | .drain f => some (row6 16 { form := .rrt, d := .a, a := .g, b := .g, regReq := true, qual := tileQual, mod := fun _ => true, extra := rowsCode }, f)
  | .psplita f => some (row7 0 { form := .rrt, d := .q, a := .g, b := .v, regReq := true, mod := fun m => bitsOf m.toNat 5 3 == 0 }, f)
  | .psplitb f => some (row7 1 { form := .rrt, d := .q, a := .g, b := .v, regReq := true, mod := fun m => bitsOf m.toNat 5 3 == 0 }, f)
  | .pmma f => some (row7 2 { form := .rrt, d := .a, a := .g, b := .g, regReq := true, mod := fun _ => true }, f)
  | .pjoin f => some (row7 3 { form := .rrt, d := .a, a := .g, b := .v, regReq := true, mod := fun m => m.toNat < 2, qual := joinQual }, f)
  | .pstat f => some (row7 4 { form := .rr1, d := .g, a := .a }, f)
  | .draft f => some (row8 0 { form := .rr1, d := .g, a := .g }, f)
  | .draftrel f => some (row8 1 { form := .rr1, d := .g, a := .none }, f)
  | .pick f => some (row8 2 { form := .ri, d := .none, a := .none, imx := 3, extra := immAtMost 0xFFFFFFFF }, f)
  | .drwait f => some (row8 3 { form := .rr1, d := .g, a := .g }, f)
  | .drstat f => some (row8 4 { form := .rr1, d := .g, a := .g }, f)
  | .dfetch f => some (row8 5 { form := .rr1, d := .g, a := .g }, f)
  | .devict f => some (row8 6 { form := .rr1, d := .g, a := .g }, f)
  | .dpin f => some (row8 7 { form := .rr1, d := .g, a := .g }, f)
  | .dunpin f => some (row8 8 { form := .rr1, d := .g, a := .g }, f)
  | .send f => some (row9 0 { form := .rr2n, a := .g, b := .g, mod := fun m => m.toNat < 8 }, f)
  | .recv f => some (row9 1 { form := .rr1, d := .g, a := .g, mod := fun m => m.toNat < 4 }, f)
  | .recvp f => some (row9 2 { form := .rr1, d := .g, a := .g, mod := fun m => m.toNat < 4 }, f)
  | .rld f => some (row9 3 { form := .m, d := .g, a := .g, b := .g, imx := 3, qual := plainQual isRld 0 }, f)
  | .rst f => some (row9 4 { form := .m, d := .g, a := .g, b := .g, imx := 3, qual := plainQual isRst 0 }, f)
  | .ramo f => some (row9 5 { form := .m, d := .g, a := .g, b := .g, imx := 3, mod := atomicOp, qual := plainQual (fun t => t == .i8) 1 }, f)
  | .rcas f => some (row9 6 { form := .m, d := .g, a := .g, b := .g, imx := 3, mod := fun m => m.toNat < 8, extra := evenD }, f)
  | .rfill f => some (row9 7 { form := .m, d := .g, a := .g, b := .g, imx := 3 }, f)
  | .rdecw f => some (row9 8 { form := .m, d := .g, a := .g, b := .g, imx := 3, qual := plainQual (fun t => t == .i8) 1 }, f)
  | .rwadd f => some (row9 9 { form := .m, d := .g, a := .g, b := .g, imx := 3, qual := plainQual isWide 2 }, f)
  | .rwrd f => some (row9 10 { form := .m, d := .g, a := .g, b := .g, imx := 3, qual := plainQual isWide 2, extra := evenD }, f)
  | .rfadd f => some (row9 11 { form := .m, d := .g, a := .g, b := .g, imx := 3, qual := plainQual isWide 1 }, f)
  | .rcopy f => some (row9 12 { form := .rr2n, a := .g, b := .g }, f)
  | .rsig f => some (row9 13 { form := .rr2n, a := .g, b := .g }, f)
  | .rwait f => some (row9 14 { form := .rr1, d := .g, a := .g }, f)
  | .frun f => some (row10 0 { form := .rr1, d := .g, a := .none, mod := fun m => m.toNat < 2 }, f)
  | .fstop f => some (row10 1 { form := .rr1, d := .none, a := .g }, f)
  | .fork f => some (row10 2 { form := .ri, d := .g, a := .g, imx := 3 }, f)
  | .join f => some (row10 3 { form := .rr1, d := .none, a := .g }, f)
  | .fyield f => some (row10 4 { form := .rr1, d := .none, a := .none }, f)
  | .fexit f => some (row10 5 { form := .rr1, d := .none, a := .none }, f)
  | .launch f => some (row10 6 { form := .rr1, d := .g, a := .g, mod := fun m => m.toNat < 16 }, f)
  | .handoff f => some (row10 7 { form := .rr1, d := .none, a := .none }, f)
  | .exit f => some (row10 8 { form := .rr1, d := .none, a := .g }, f)
  | .sysrd f => some (row11 0 { form := .ri, d := .g, a := .none, imx := 1, extra := sysAssigned }, f)
  | .syswr f => some (row11 1 { form := .ris, d := .none, a := .g, imx := 1, extra := sysAssigned }, f)
  | .tret f => some (row11 2 { form := .rr1, d := .none, a := .none }, f)
  | .halt f => some (row11 3 { form := .rr1, d := .none, a := .none }, f)
  | .waiti f => some (row11 4 { form := .rr1, d := .g, a := .none }, f)
  | .tlbinv f => some (row11 5 { form := .rrw, a := .g, b := .g }, f)
  | .tlbinva f => some (row11 6 { form := .rr1, d := .none, a := .g }, f)
  | .tlbinvp f => some (row11 7 { form := .rr1, d := .none, a := .g }, f)
  | .ringrd f => some (row11 8 { form := .rr1, d := .g, a := .g }, f)
  | .preempt f => some (row11 9 { form := .rr1, d := .g, a := .none }, f)
  | .migrate f => some (row11 10 { form := .rr1, d := .g, a := .g }, f)
  | _ => none

/-- The constructors of page 0, by opcode (R32). -/
def page0 : List (Nat × (Fields → Instr)) :=
  [(0, .add), (1, .sub), (2, .and), (3, .or), (4, .xor), (5, .andn), (6, .shl), (7, .shr), (8, .sar), (9, .slt), (10, .sltn), (11, .min),
   (12, .max), (13, .mov), (14, .sel), (15, .selz), (16, .addi), (17, .andi), (18, .ori), (19, .xori), (20, .shli), (21, .shri), (22, .sari), (23, .slti),
   (24, .li), (25, .lpc), (32, .ldI8), (33, .ldI16), (34, .ldI32), (35, .ldI64), (36, .ldN8), (37, .ldN16), (38, .ldN32), (39, .stI8), (40, .stI16), (41, .stI32),
   (42, .stI64), (44, .jal), (45, .jr), (46, .svc), (47, .brk), (48, .beq), (49, .bne), (50, .blt), (51, .bge), (52, .bltn), (53, .bgen)]

/-- The constructors of page 1, by opcode (R32). -/
def page1 : List (Nat × (Fields → Instr)) :=
  [(0, .mul), (1, .mulh), (2, .mulhn), (3, .madd), (4, .div), (5, .divn), (6, .rem), (7, .remn), (8, .clz), (9, .ctz), (10, .popc), (11, .bswap),
   (12, .brev), (13, .bfx), (14, .bfxn), (15, .bfi), (16, .fshl), (17, .fshr)]

/-- The constructors of page 2, by opcode (R32). -/
def page2 : List (Nat × (Fields → Instr)) :=
  [(0, .lldI8), (1, .lldI16), (2, .lldI32), (3, .lldI64), (4, .lldN8), (5, .lldN16), (6, .lldN32), (7, .lstI8), (8, .lstI16), (9, .lstI32), (10, .lstI64), (11, .lldf),
   (12, .llde), (13, .lstf), (14, .feset), (15, .feclr), (16, .lda), (17, .stl), (18, .scld), (19, .scst), (20, .amo), (21, .cas), (22, .scamo), (23, .fence),
   (24, .cfetch), (25, .cwait), (26, .jmpf), (27, .tlook), (28, .tfill), (29, .tevict), (30, .tinval)]

/-- The constructors of page 3, by opcode (R32). -/
def page3 : List (Nat × (Fields → Instr)) :=
  [(0, .vadd), (1, .vsub), (2, .vmul), (3, .vdiv), (4, .vmin), (5, .vmax), (6, .vfma), (7, .vfms), (8, .vabs), (9, .vneg), (10, .vsqrt), (11, .vand),
   (12, .vor), (13, .vxor), (14, .vandn), (15, .vshl), (16, .vshr), (17, .vsar), (18, .vcmp), (19, .vsel), (20, .vmov), (21, .vbcast), (22, .vins), (23, .vext),
   (24, .vld), (25, .vst), (26, .vgather), (27, .vscatter), (28, .kand), (29, .kor), (30, .knot), (31, .kmovg), (32, .kmovk), (33, .kpopc)]

/-- The constructors of page 4, by opcode (R32). -/
def page4 : List (Nat × (Fields → Instr)) :=
  [(0, .vcvt), (1, .vquant), (2, .vdequant), (3, .vbscale), (4, .vexp2), (5, .vlog2), (6, .vrcp), (7, .vrsqrt), (8, .vred), (9, .vperm), (10, .vshuf), (11, .vrot),
   (12, .vcompress), (13, .vexpand), (14, .vdot)]

/-- The constructors of page 5, by opcode (R32). -/
def page5 : List (Nat × (Fields → Instr)) :=
  [(0, .rowact), (1, .rowclose), (2, .rowshort), (3, .rowkeep), (4, .shld), (5, .shst), (6, .shset), (7, .tld), (8, .tldt), (9, .tldc), (10, .tldtc), (11, .bcopy),
   (12, .bcopyt), (13, .bcopyc), (14, .bcopyx)]

/-- The constructors of page 6, by opcode (R32). -/
def page6 : List (Nat × (Fields → Instr)) :=
  [(0, .spoolcfg), (1, .await), (2, .release), (3, .mma), (4, .mmabs), (5, .mmv), (6, .mzero), (7, .mld), (8, .mst), (9, .mcommit), (10, .mwait), (11, .sldv),
   (12, .sstv), (13, .loomjoin), (14, .loomgo), (15, .loomsplit), (16, .drain)]

/-- The constructors of page 7, by opcode (R32). -/
def page7 : List (Nat × (Fields → Instr)) :=
  [(0, .psplita), (1, .psplitb), (2, .pmma), (3, .pjoin), (4, .pstat)]

/-- The constructors of page 8, by opcode (R32). -/
def page8 : List (Nat × (Fields → Instr)) :=
  [(0, .draft), (1, .draftrel), (2, .pick), (3, .drwait), (4, .drstat), (5, .dfetch), (6, .devict), (7, .dpin), (8, .dunpin)]

/-- The constructors of page 9, by opcode (R32). -/
def page9 : List (Nat × (Fields → Instr)) :=
  [(0, .send), (1, .recv), (2, .recvp), (3, .rld), (4, .rst), (5, .ramo), (6, .rcas), (7, .rfill), (8, .rdecw), (9, .rwadd), (10, .rwrd), (11, .rfadd),
   (12, .rcopy), (13, .rsig), (14, .rwait)]

/-- The constructors of page 10, by opcode (R32). -/
def page10 : List (Nat × (Fields → Instr)) :=
  [(0, .frun), (1, .fstop), (2, .fork), (3, .join), (4, .fyield), (5, .fexit), (6, .launch), (7, .handoff), (8, .exit)]

/-- The constructors of page 11, by opcode (R32). -/
def page11 : List (Nat × (Fields → Instr)) :=
  [(0, .sysrd), (1, .syswr), (2, .tret), (3, .halt), (4, .waiti), (5, .tlbinv), (6, .tlbinva), (7, .tlbinvp), (8, .ringrd), (9, .preempt), (10, .migrate)]

/-- The constructors of a page, by opcode. -/
def pageTable : Nat → List (Nat × (Fields → Instr))
  | 0 => page0
  | 1 => page1
  | 2 => page2
  | 3 => page3
  | 4 => page4
  | 5 => page5
  | 6 => page6
  | 7 => page7
  | 8 => page8
  | 9 => page9
  | 10 => page10
  | 11 => page11
  | _ => []

/-- The constructor that the base word's opcode names on a page, if it is assigned (R32, R33). -/
def constructorOf (page op : Nat) : Option (Fields → Instr) := (pageTable page).lookup op

/-- The instruction's row and fields satisfy every check of decoding. -/
def Instr.encodable (i : Instr) : Bool :=
  match i.row with
  | some (r, f) => r.ok f
  | none => false

end Sys2Proof
end

