-- ==== Sys2Proof/WellFormed.lean ====
section
/-! DEFINITION. Which terms of `Instr` stand for something: an instruction whose fields pass the checks of decoding
(01_instruction_words.md R16, R24, R25 and its entry), and an event whose numbers lie in the ranges the spec gives
the units they name. -/

namespace Sys2Proof

/-- The banks of a vault: 12 layers of 4 banks (R193). -/
def bankCount : Nat := 48

/-- The DRAM rows of a vault: 48 banks of 512 rows (R193). -/
def vaultRowCount : Nat := 24576

/-- The range checks on an event's own numbers; an event without numbers passes. -/
def Instr.eventOk : Instr → Bool
  | .rowActivationDone _ bank | .refreshWindowStart _ bank | .refreshWindowEnd _ bank => bank < bankCount
  | .vthermChange _ layer _ _ _ => layer < 12
  | .retentionDeadline _ row => row < vaultRowCount
  | .draftEntryComplete _ index => index < 65536
  | .shuttleBlockMove _ (.entry index) => index < 65536
  | .apertureAccess _ (.read n) | .ualinkInboundRequest _ _ (.read n) => n ≤ 64
  | .apertureAccess _ (.write n data) => n ≤ 64 && data < 2 ^ (8 * n)
  | .ualinkInboundRequest _ _ (.write n data) => n ≤ 256 && data < 2 ^ (8 * n)
  | .apertureAccess _ (.atomic op n _) | .ualinkInboundRequest _ _ (.atomic op n _) =>
    op.toNat ≤ 8 && (n == 1 || n == 2 || n == 4 || n == 8)
  | .atsTranslationCompletion _ c => 12 ≤ c.bits && c.bits ≤ 57
  | .testStripEnd _ (.pass n) => n ≤ 4096
  | .registerWrite (.sys _ _ n) _ => sysAssignedNum n.toNat
  | _ => true

/-- Whether a term is an event and not an instruction. -/
def Instr.isEvent (i : Instr) : Bool := i.row.isNone

/-- A well-formed term. -/
def Instr.wf (i : Instr) : Bool :=
  match i.row with
  | some (r, f) => r.ok f
  | none => i.eventOk

end Sys2Proof
end

