-- ==== Sys2Proof/Decode.lean ====
section
/-! DEFINITION. The decoder, which reads one instruction from the words at the PC (01_instruction_words.md
R13-R28), and the encoder, which writes the words of an instruction. -/

namespace Sys2Proof

/-! ## Words -/

/-- A prefix word: bits 15:13 are 0b111 (R13). -/
def isPrefixWord (w : Halfword) : Bool := bitsOf w.toNat 15 13 == 7

/-- The kind of a prefix word, bits 12:11 (R15): 0 IMX, 1 REG, 2 PAGE, 3 QUAL. -/
def prefixKind (w : Halfword) : Nat := bitsOf w.toNat 12 11

/-- The payload of a prefix word (R15). -/
def payloadOf (w : Halfword) : BitVec 11 := w.setWidth 11

/-- The REG payload's fields (R19). -/
def regOf (p : BitVec 11) : RegFields where
  dh := bitOf p.toNat 10
  sh := bitOf p.toNat 9
  t := BitVec.ofNat 6 (bitsOf p.toNat 8 3)
  q := BitVec.ofNat 3 (bitsOf p.toNat 2 0)

/-- The QUAL payload's fields (R20). -/
def qualOf (p : BitVec 11) : QualFields where
  k := BitVec.ofNat 3 (bitsOf p.toNat 10 8)
  type := BitVec.ofNat 4 (bitsOf p.toNat 7 4)
  flags := BitVec.ofNat 4 (bitsOf p.toNat 3 0)

/-! ## Decoding -/

/-- What decoding the words from the PC gives. -/
inductive DecodeResult where
  /-- An instruction of some number of words. -/
  | ok (i : Instr) (len : Nat)
  /-- The word at a position cannot be fetched (R26 step 1). -/
  | short (pos : Nat)
  /-- An illegal instruction or a reserved page (R26 steps 2 to 5), with what R27 puts into TVAL. -/
  | illegal (cause : BitVec 8) (pos : Nat) (w : Halfword) (page : Nat)
  deriving DecidableEq, Repr

/-- The chain read so far: the least prefix kind that may follow in the order PAGE, REG, QUAL, IMX, the page in
effect and the fields. -/
structure ChainState where
  stage : Nat := 0
  page : Nat := 0
  fields : Fields := {}
  deriving DecidableEq, Repr

/-- One prefix word: the chain after it, or the cause it raises with the page in effect (R16, R22, R26 steps 2
and 3). -/
def takePrefix (c : ChainState) (pos : Nat) (w : Halfword) : Except (BitVec 8 × Nat) ChainState :=
  if pos ≥ 4 then .error (0x01, c.page)
  else
    let p := payloadOf w
    match prefixKind w with
    | 2 =>
      if c.stage > 0 then .error (0x01, c.page)
      else
        let page := bitsOf p.toNat 10 7
        if page = 0 then .error (0x01, 0)
        else if page ≥ 12 then .error (0x02, 0)
        else .ok { stage := 1, page := page, fields := { c.fields with mod := p.setWidth 7 } }
    | 1 =>
      if c.stage > 1 then .error (0x01, c.page)
      else .ok { c with stage := 2, fields := { c.fields with reg := some (regOf p) } }
    | 3 =>
      if c.stage > 2 then .error (0x01, c.page)
      else .ok { c with stage := 3, fields := { c.fields with qual := some (qualOf p) } }
    | _ =>
      if c.fields.imx.length ≥ 3 then .error (0x01, c.page)
      else .ok { c with stage := 3, fields := { c.fields with imx := c.fields.imx ++ [p] } }

/-- The base word ends the chain (R14, R26 steps 4 and 5). -/
def takeBase (c : ChainState) (pos : Nat) (w : Halfword) : DecodeResult :=
  match constructorOf c.page (bitsOf w.toNat 15 10) with
  | none => .illegal 0x01 pos w c.page
  | some mk =>
    let i := mk { c.fields with d := BitVec.ofNat 5 (bitsOf w.toNat 9 5), s := w.setWidth 5 }
    if i.encodable then .ok i (pos + 1) else .illegal 0x01 pos w c.page

/-- Decoding one word at a time, in the order of R26. -/
def decodeFrom (c : ChainState) (pos : Nat) : List Halfword → DecodeResult
  | [] => .short pos
  | w :: ws =>
    if isPrefixWord w then
      match takePrefix c pos w with
      | .error (cause, page) => .illegal cause pos w page
      | .ok c' => decodeFrom c' (pos + 1) ws
    else takeBase c pos w

/-- The instruction that the words from the PC hold. The list ends where a word cannot be fetched. -/
def decode (ws : List Halfword) : DecodeResult := decodeFrom {} 0 ws

/-- TVAL of an illegal word: the word, its position and the page in effect (R27). -/
def illegalTval (pos : Nat) (w : Halfword) (page : Nat) : Word :=
  word (w.toNat + pos * 2 ^ 16 + page * 2 ^ 19)

/-! ## Encoding -/

/-- A prefix word of a kind with a payload (R15). -/
def prefixWord (kind : Nat) (p : BitVec 11) : Halfword := BitVec.ofNat 16 (0xE000 + kind * 2048 + p.toNat)

/-- The REG payload (R19). -/
def RegFields.payload (r : RegFields) : BitVec 11 :=
  BitVec.ofNat 11 (boolNat r.dh * 1024 + boolNat r.sh * 512 + r.t.toNat * 8 + r.q.toNat)

/-- The QUAL payload (R20). -/
def QualFields.payload (q : QualFields) : BitVec 11 :=
  BitVec.ofNat 11 (q.k.toNat * 256 + q.type.toNat * 16 + q.flags.toNat)

/-- The PAGE payload (R22). -/
def pagePayload (page : Nat) (mod : BitVec 7) : BitVec 11 := BitVec.ofNat 11 (page * 128 + mod.toNat)

/-- The base word (R14). -/
def baseWord (op : Nat) (d s : BitVec 5) : Halfword := BitVec.ofNat 16 (op * 1024 + d.toNat * 32 + s.toNat)

/-- The words of an instruction, in the order of R16. -/
def encodeFields (page op : Nat) (f : Fields) : List Halfword :=
  (if page = 0 then [] else [prefixWord 2 (pagePayload page f.mod)]) ++
  (f.reg.toList.map fun r => prefixWord 1 r.payload) ++
  (f.qual.toList.map fun q => prefixWord 3 q.payload) ++
  (f.imx.map fun p => prefixWord 0 p) ++ [baseWord op f.d f.s]

/-- The words of an instruction; an event has none. -/
def encode (i : Instr) : List Halfword :=
  match i.row with
  | some (r, f) => encodeFields r.page r.op f
  | none => []

/-! ## The words of an opcode-table row -/

/-- The halfwords of a number, least significant first. -/
def halfwordsOf : Nat → Nat → List Halfword
  | 0, _ => []
  | n + 1, w => BitVec.ofNat 16 w :: halfwordsOf n (w / 65536)

/-- The words of an opcode-table row in the order the hardware stores them. The table writes a chain as one
number with its base word in the low half; a chain ends with its base word (R13), so a number whose low half is a
base word is stored from its top halfword down. -/
def tableWords (nbits w : Nat) : List Halfword :=
  let ws := halfwordsOf (nbits / 16) w
  match ws with
  | first :: _ :: _ => if isPrefixWord first then ws else ws.reverse
  | _ => ws

/-- The table's words followed by zero words up to the longest instruction. -/
def tableWordsPadded (nbits w : Nat) : List Halfword :=
  let ws := tableWords nbits w
  ws ++ List.replicate (5 - ws.length) 0

/-- The instruction that the decoder reads from an opcode-table row's word. -/
def decodeTableWord (nbits w : Nat) : Option Instr :=
  match decode (tableWordsPadded nbits w) with
  | .ok i _ => some i
  | _ => none

end Sys2Proof
end

