-- ==== Sys2Proof/Machine/Store.lean ====
section
/-! DEFINITION. Sparse data by number: byte memory in one canonical form, maps and sets of numbers with rising keys.
Everything the machine holds by address is one of these. -/

namespace Sys2Proof.Machine

/-! ## Memory -/

/-- Bytes by address. An address that is not listed reads as zero (log entry 2). The canonical form lists
addresses in rising order and lists no zero byte. -/
structure Memory where
  cells : List Host.Cell := []
  deriving DecidableEq, Repr, Inhabited

/-- What an address that nothing has written reads as (log entry 2). -/
def unwrittenByte : Byte := 0

/-- The byte at an address in a list of cells. -/
def getCell : List Host.Cell → Nat → Byte
  | [], _ => unwrittenByte
  | (a', b) :: m, a => if a' = a then b else getCell m a

/-- The cells without an address. -/
def dropCell (m : List Host.Cell) (a : Nat) : List Host.Cell := m.filter fun c => c.1 != a

/-- The cells with a byte put at an address, in rising order. -/
def putCell : List Host.Cell → Nat → Byte → List Host.Cell
  | [], a, b => [(a, b)]
  | (a', b') :: m, a, b =>
    if a < a' then (a, b) :: (a', b') :: m
    else if a = a' then (a, b) :: m
    else (a', b') :: putCell m a b

/-- Reads one byte. -/
def Memory.get (m : Memory) (a : Nat) : Byte := getCell m.cells a

/-- Writes one byte; writing what an unlisted address reads as removes the entry. -/
def Memory.set (m : Memory) (a : Nat) (b : Byte) : Memory :=
  if b = unwrittenByte then { cells := dropCell m.cells a } else { cells := putCell m.cells a b }

/-- Reads n bytes as a little-endian number (R6). -/
def Memory.read (m : Memory) (a : Nat) : Nat → Nat
  | 0 => 0
  | n + 1 => (m.get a).toNat + 256 * m.read (a + 1) n

/-- Writes the low n bytes of a number, little-endian (R6). -/
def Memory.write (m : Memory) (a : Nat) : Nat → Nat → Memory
  | 0, _ => m
  | n + 1, v => (m.set a (BitVec.ofNat 8 v)).write (a + 1) n (v / 256)

/-- Writes a list of bytes. -/
def Memory.writeList (m : Memory) (a : Nat) : List Byte → Memory
  | [] => m
  | b :: bs => (m.set a b).writeList (a + 1) bs

/-- Removes every byte of a range. -/
def Memory.clear (m : Memory) (a n : Nat) : Memory :=
  { cells := m.cells.filter fun c => !(a ≤ c.1 && c.1 < a + n) }

/-- Replaces n bytes at an address with the n bytes of another memory at its address b. -/
def Memory.splice (m : Memory) (a n : Nat) (src : Memory) (b : Nat) : Memory :=
  { cells := (m.cells.filter fun c => c.1 < a) ++
      ((src.cells.filter fun c => b ≤ c.1 && c.1 < b + n).map fun c => (c.1 - b + a, c.2)) ++
      m.cells.filter fun c => a + n ≤ c.1 }

/-- The canonical form of a list of cells, with every address at least `lo`. -/
def cellsWf : Nat → List Host.Cell → Bool
  | _, [] => true
  | lo, (a, b) :: m => lo ≤ a && b != unwrittenByte && cellsWf (a + 1) m

/-- The canonical form: addresses strictly rising, no entry equal to what an unlisted address reads as. -/
def Memory.wf (m : Memory) : Bool := cellsWf 0 m.cells

/-! ## Maps -/

/-- Data by number, keys rising. -/
structure NatMap (α : Type) where
  entries : List (Nat × α) := []
  deriving DecidableEq, Repr, Inhabited

/-- The entry of a key in a list of entries. -/
def findEntry {α : Type} : List (Nat × α) → Nat → Option α
  | [], _ => none
  | (k', a) :: m, k => if k' = k then some a else findEntry m k

/-- The entries with one put at a key, in rising order. -/
def putEntry {α : Type} : List (Nat × α) → Nat → α → List (Nat × α)
  | [], k, a => [(k, a)]
  | (k', a') :: m, k, a =>
    if k < k' then (k, a) :: (k', a') :: m
    else if k = k' then (k, a) :: m
    else (k', a') :: putEntry m k a

/-- The entry of a key. -/
def NatMap.get? {α : Type} (m : NatMap α) (k : Nat) : Option α := findEntry m.entries k

/-- The entry of a key, or a default. -/
def NatMap.getD {α : Type} (m : NatMap α) (k : Nat) (d : α) : α := (m.get? k).getD d

/-- Puts an entry at a key. -/
def NatMap.set {α : Type} (m : NatMap α) (k : Nat) (a : α) : NatMap α := { entries := putEntry m.entries k a }

/-- Removes the entry of a key. -/
def NatMap.erase {α : Type} (m : NatMap α) (k : Nat) : NatMap α :=
  { entries := m.entries.filter fun e => e.1 != k }

/-- The keys, rising. -/
def NatMap.keys {α : Type} (m : NatMap α) : List Nat := m.entries.map (·.1)

/-! ## Sets -/

/-- A set of numbers, rising and without repeats. -/
structure NatSet where
  elems : List Nat := []
  deriving DecidableEq, Repr, Inhabited

/-- The list with a number put in its place. -/
def putElem : List Nat → Nat → List Nat
  | [], k => [k]
  | k' :: m, k => if k < k' then k :: k' :: m else if k = k' then k' :: m else k' :: putElem m k

/-- Membership. -/
def NatSet.has (m : NatSet) (k : Nat) : Bool := m.elems.contains k

/-- Adds a number. -/
def NatSet.insert (m : NatSet) (k : Nat) : NatSet := { elems := putElem m.elems k }

/-- Removes a number. -/
def NatSet.erase (m : NatSet) (k : Nat) : NatSet := { elems := m.elems.filter fun e => e != k }

/-- Adds or removes a number. -/
def NatSet.put (m : NatSet) (k : Nat) (b : Bool) : NatSet := if b then m.insert k else m.erase k

/-- Adds or removes n numbers from k on. -/
def NatSet.putRange (m : NatSet) (k : Nat) (b : Bool) : Nat → NatSet
  | 0 => m
  | n + 1 => (m.put k b).putRange (k + 1) b n

/-- Some number of the n from k on is a member. -/
def NatSet.hasAny (m : NatSet) (k n : Nat) : Bool := m.elems.any fun e => k ≤ e && e < k + n

/-- Removes every number of a range. -/
def NatSet.clear (m : NatSet) (k n : Nat) : NatSet := { elems := m.elems.filter fun e => !(k ≤ e && e < k + n) }

end Sys2Proof.Machine
end

