-- ==== Sys2Proof/Machine/State.lean ====
section
/-! DEFINITION. The state of one SNV-412 package: every piece of state that the spec names, as plain data, with its
value right after power-on. INVENTORY.md lists each field with its rule and its reset value. -/

namespace Sys2Proof.Machine

/-! ## Reasons to stop -/

/-- Why the machine stops. No meaning raises a fault: every fault the spec describes is a trap, which is taken. -/
inductive Fault where
  /-- Never raised: it names the case of a step for which the spec gives no behaviour at all; the model has none.
  Safe. -/
  | noBehaviour
  deriving DecidableEq, Repr, Inhabited

/-- Why an instruction has no meaning. -/
inductive Refusal where
  /-- Raised only by an arm of the dispatch for an instruction without a meaning. Safe: the run ends. -/
  | notModelled (mnemonic : String)
  deriving DecidableEq, Repr, Inhabited

/-! ## Values -/

/-- A 64-bit value with its poison mark (R12, R110). -/
structure PWord where
  bits : Word := 0
  bad : Bool := false
  deriving DecidableEq, Repr, Inhabited

/-- A vector register: 512 bits and one poison mark for each 8-byte group (R164, R166). -/
structure VReg where
  bits : VWord := 0
  bad : BitVec 8 := 0
  deriving DecidableEq, Repr, Inhabited

/-- A shape record (R198). -/
abbrev Shape := BitVec 256

/-! ## Strands -/

/-- A trap bank (R364). -/
structure Bank where
  tpc : LsAddr := 0
  tcause : Word := 0
  tval : Word := 0
  tseq : Word := 0
  tstatus : Word := 0
  tscratch : PWord := {}
  deriving DecidableEq, Repr, Inhabited

/-- Whether a strand can run (R85, R89, R98, R376, R380, R382). -/
inductive RunState where
  | idle | running | exited | halted | frozen | stopped
  deriving DecidableEq, Repr, Inhabited

/-- A late fault that waits for its delivery (R368): the sequence number and level of its instruction, and the
cause and value. -/
structure LateFault where
  seq : BitVec 16
  lvl : BitVec 2
  cause : BitVec 8
  tval : Word
  /-- The instruction has a dispatch ring entry (R373). -/
  ringed : Bool := true
  /-- It is a fault of the vector unit, which accepts nothing more of the strand before its delivery (R173). -/
  vector : Bool := false
  deriving DecidableEq, Repr, Inhabited

/-- A store of the strand to its own vault that has not been performed (R109, R320): physical address, bytes, data and
poison. -/
structure PendingStore where
  pa : Nat
  n : Nat
  data : Nat
  bad : Bool
  deriving DecidableEq, Repr, Inhabited

/-- What the operand slots that an instruction reads held as it was dispatched (R221, R243): TYPE and OROWS of the first, and OLEN
of each. -/
structure SlotShape where
  type : BitVec 4 := 0
  rows : Nat := 0
  lens : List Nat := []
  deriving DecidableEq, Repr, Inhabited

/-- An instruction that has been dispatched (R93, R101, R169, R201, R232): its sequence number, strand and level, the
values of the general registers that its fields name, FMT, and copies of its shape records. -/
structure Dispatched where
  seq : BitVec 16
  strand : StrandId
  lvl : BitVec 2
  instr : Instr
  gs : PWord := {}
  gt : PWord := {}
  gd : PWord := {}
  fmt : Word := 0
  src : Shape := 0
  dst : Shape := 0
  /-- A slot, spool position or other number that dispatch fixed. -/
  slot : Nat := 0
  /-- The second number that dispatch fixed. -/
  aux : Nat := 0
  /-- Its place in the order of the strand's dispatches and accesses (R397). -/
  ord : Nat := 0
  /-- The contents of the slots that it reads. -/
  read : SlotShape := {}
  /-- The interval of a `.loom` instruction: how many LOOMGO its pillar had executed (R240), or 0 once the pillar has left that loom
  (R241). -/
  interval : Nat := 0
  /-- The elements that a VGATHER has read, or a VSCATTER has written, so far, from lane 0 on (R191). -/
  moved : List (Nat × Bool) := []
  /-- The address or the source record that it works from was poisoned, and what it brings is too (R12). -/
  tainted : Bool := false
  deriving DecidableEq, Repr, Inhabited

/-- An operation of the tile load pipe (R204-R208, R218, R132, R146): the dispatched instruction, the source rows
completed, the bytes of the present row read so far, the bytes read with the positions of the poisoned ones (of the
present row, or of the block of rows that a copy has not written yet), the clk in which the next beat falls due (R205),
whether its last beat has arrived, the DRAM row of the last beat, the row whose foreign beats its twin has matched
(R397), and how many bytes of each DRAM row a copy has written, by physical address divided by 8,192 (R216). -/
structure TileOp where
  d : Dispatched
  row : Nat := 0
  col : Nat := 0
  buf : Memory := {}
  bufBad : NatSet := {}
  due : Nat := 0
  /-- The clk that beats of other users have taken from its next beat since that fell due (R206). -/
  taken : Nat := 0
  /-- It stopped and was resumed (R208). -/
  resumed : Bool := false
  ended : Bool := false
  lastRow : Option Nat := none
  matched : Option Nat := none
  written : NatMap Nat := {}
  /-- The clk up to which the lateness of its next beat has been charged to a cause (R215). -/
  charged : Nat := 0
  /-- The twin has matched the output that it has ready for foreign rows (R397). -/
  passed : Bool := false
  deriving DecidableEq, Repr, Inhabited

/-- An entry of an installed draft or a direct command (R268, R275, R280, R281): its fields, the pillar its vault range
lies in, its state, bytes moved in units of 64, error, the page request it waits for and the grown blocks of it that
the overflow buffer holds. -/
structure DraftEntry where
  trigger : Nat := 0
  due : Nat := 0
  tierVa : Word := 0
  vaultVa : Word := 0
  len : Nat := 0
  op : Nat := 0
  z : Bool := false
  pillar : PillarId := 0
  state : Nat := 0
  moved : Nat := 0
  err : Nat := 0
  request : Option Nat := none
  grown : Nat := 0
  /-- How many bytes of each DRAM row it has written, by physical address divided by 8,192 (R216). -/
  written : NatMap Nat := {}
  deriving DecidableEq, Repr, Inhabited

/-- Why a running strand is not ready although no queue is full (R89). -/
inductive Blocked where
  /-- It is ready. -/
  | no
  /-- It waits in an instruction that runs again when its condition holds (R89). -/
  | wait (i : Instr)
  /-- A load or store of it, already performed, has not returned (R109). -/
  | access
  /-- An access of it to a peer or to the host has not returned: the instruction, its address, when it left, and its VA and
  two data operands as they were read at issue (R108). -/
  | remote (i : Instr) (pa : Nat) (sent : Nat) (va : Word) (x y : PWord)
  /-- An SC operation of it was announced at a count (R326), with its translated address, its VA and its data operand as
  they were at issue (R108). -/
  | sc (i : Instr) (count : Nat) (pa : Nat) (va : Word) (x : PWord)
  /-- A TLB invalidation has dropped its entries and waits for the accesses in flight to ranges of physical addresses,
  each a first address and a length (R356). -/
  | inval (i : Instr) (ranges : List (Nat × Nat))
  /-- A LAUNCH has read its record and holds the tail of its queue until the ring slot can be written (R96). -/
  | launch (i : Instr) (m : Memory)
  /-- A DPIN or DUNPIN has changed PINBASE and waits for a free command slot for a command (R282). -/
  | pinned (i : Instr) (e : DraftEntry)
  /-- A MIGRATE waits for a pillar to stop and drain (R389). -/
  | migrate (i : Instr) (src : PillarId)
  deriving DecidableEq, Repr, Inhabited

/-- A strand in fibre mode (R153): the `.once` flag, FRUN's destination, its PC and the PC after it, the strand's own
g1-g8, the fibre it runs and the clk in which a waiting runner began to wait. -/
structure FibreMode where
  once : Bool
  dest : Nat
  pc : LsAddr
  ret : LsAddr
  saved : Vector PWord 8
  slot : Option (BitVec 8)
  since : Nat
  /-- The clk until which a runner that found nothing waits before it looks again, or 0 while it does not wait (R153, R159). -/
  backoff : Nat
  /-- A trap that the fibre raised is being handled (R160, R366): the strand runs strand code with the fibre loaded. -/
  handler : Bool := false
  deriving DecidableEq, Repr, Inhabited

/-- A matrix batch (R233): its number, the sequence numbers of its members that have not completed, and the tiles it
targets. -/
structure Batch where
  number : BitVec 32 := 0
  members : List (BitVec 16) := []
  tiles : List Nat := []
  deriving DecidableEq, Repr, Inhabited

/-- Matrix batches of a strand (R233): the numbers of MBATCH, the open batch and the committed batches that have not
finished, oldest first. -/
structure Batches where
  last : BitVec 32 := 0
  done : BitVec 32 := 0
  current : Batch := {}
  committed : List Batch := []
  deriving DecidableEq, Repr, Inhabited

/-- One strand (R99, R164, R198, R362, R364, R86). -/
structure Strand where
  g : Vector PWord 64
  v : Vector VReg 32
  kRegs : Vector PWord 8
  sh : Vector Shape 8
  /-- The poison marks of the dwords of each shape record (R11, R12). -/
  shBad : Vector (BitVec 4) 8 := Vector.replicate 8 0
  pc : LsAddr := 0
  status : Word := 0
  fmt : Word := 0x8800
  rowprog : Word := 0
  /-- The captured record of the stopped tile load or copy (R207, R208). -/
  stoppedOp : Option TileOp := none
  supervisor : Bank := {}
  machine : Bank := {}
  fbcur : BitVec 9 := 0
  fuval : Word := 0
  batches : Batches := {}
  preq : Word := 0
  /-- The page request that PREQ tracks (R351). -/
  preqId : Option Nat := none
  run : RunState := .idle
  blocked : Blocked := .no
  waitCount : Nat := 0
  promoted : Bool := false
  /-- Fibre modes, the current one first: a handler of a fibre's trap may itself execute FRUN (R153, R366). -/
  modes : List FibreMode := []
  stopReq : Bool := false
  /-- It has come back to user level with a pre-emption pending, and stops at this boundary (R382). -/
  retStop : Bool := false
  handedOff : Bool := false
  exitCode : BitVec 16 := 0
  stores : List PendingStore := []
  lates : List LateFault := []
  /-- General registers that procedures outstanding will write (R100, R303). -/
  pending : List Nat := []
  /-- Instructions with `.loom` that the strand has dispatched since the last LOOMGO (R240). -/
  loomCount : Nat := 0
  /-- Instructions of the strand that may send worms, and how many worms each of them has sent out of a doubled rectangle, by
  which a twinned strand numbers its outgoing worms in dispatch order (R397). -/
  worms : Nat := 0
  sent : NatMap Nat := {}
  /-- g56 to g63 as the instruction that the strand waits in saw them at its issue, with the condition window open (R108). -/
  sampled : Option (Vector Word 8) := none
  /-- A FENCE that holds back only later stores: its scope and its types (R331, R338). -/
  fence : Option (Nat × Nat) := none
  /-- The clk before which the strand's next instruction does not issue: a taken branch, a trap or TRET (R109). -/
  notBefore : Nat := 0
  deriving DecidableEq, Repr

/-- A strand at power-on: every register zero (log entry 1), the reset values of R52 and R362. -/
def Strand.reset : Strand where
  g := Vector.replicate 64 {}
  v := Vector.replicate 32 {}
  kRegs := Vector.replicate 8 {}
  sh := Vector.replicate 8 0

/-! ## Engines -/

/-- An engine's queues of two entries for each strand, the strand it accepted last, and the instructions it has
accepted and not ended, oldest first (R93, R94). -/
structure EngineUnit where
  queues : Vector (List Dispatched) 4 := Vector.replicate 4 []
  last : StrandId := 3
  accepted : List Dispatched := []
  deriving DecidableEq, Repr

/-- A dispatch ring entry (R373, R374): its six dwords with their poison marks, and whether it is kept: its instruction has not ended, a late
fault of it is not delivered, or the strand that took it has not executed TRET. -/
structure RingEntry where
  seq : BitVec 16
  dwords : List PWord
  ended : Bool
  faulting : Bool
  handling : Bool
  deriving DecidableEq, Repr, Inhabited

/-! ## Local store -/

/-- Local store (R126, R138, R139): bytes, the numbers of the words that are empty, and of those that are poisoned. -/
structure LocalStore where
  bytes : Memory := {}
  empty : NatSet := {}
  bad : NatSet := {}
  deriving DecidableEq, Repr, Inhabited

/-- A segment (R131): 0 empty, 1 in flight, 2 landed, 3 failed. -/
structure Segment where
  lenKb : Nat := 0
  baseKb : Nat := 0
  state : BitVec 2 := 0
  deriving DecidableEq, Repr, Inhabited

/-- A slot of the tag table (R144): 0 invalid, 1 filling, 2 valid, 3 failed. -/
structure TagSlot where
  tag : BitVec 54 := 0
  state : BitVec 2 := 0
  dirty : Bool := false
  deriving DecidableEq, Repr, Inhabited

/-- The tag table (R143, R144): TAGCFG's fields, the slots, and the slots in order of use, most recent first. -/
structure TagTable where
  count : Nat := 0
  baseKb : Nat := 0
  slots : NatMap TagSlot := {}
  recency : List Nat := []
  deriving DecidableEq, Repr, Inhabited

/-! ## Fibres -/

/-- The states of a fibre slot (R149). -/
inductive FibreState where
  | free | ready | running | parked | faulted
  deriving DecidableEq, Repr, Inhabited

/-- What a parked fibre waits for, and what its wake does (R157, R158). -/
inductive Parking where
  | none
  /-- A load that has been performed: its destination and value. -/
  | load (d : Nat) (value : PWord)
  /-- A store that has been performed and awaits its acknowledgement. -/
  | ack
  /-- An access to a peer or to the host that has not returned: the instruction, its address, when it left, its VA, the two
  data operands, the strand that sent it and the number of its worm (R397). -/
  | remote (i : Instr) (pa : Nat) (sent : Nat) (va : Word) (x y : PWord) (t : StrandId) (worm : Nat)
  /-- An access to a peer that waits until the peer has room for a request (R157, R421). -/
  | queued (i : Instr) (pa : Nat) (va : Word) (x y : PWord) (t : StrandId)
  /-- An access whose request has ended in an error: its cause and value (R158). -/
  | failed (cause : BitVec 8) (tval : Word)
  /-- LLDF or LLDE on an empty word: the address, the destination, whether the word is taken, and the PC after it. -/
  | word (ea : LsAddr) (d : Nat) (take : Bool) (next : LsAddr)
  /-- JOIN on a counter. -/
  | join (ea : LsAddr)
  /-- RWAIT: the strand, the number of procedures that may remain, and the destination. -/
  | procedures (t : StrandId) (limit : Nat) (d : Nat)
  deriving DecidableEq, Repr, Inhabited

/-- A fibre slot (R149): PC, g1-g8, the join counter's pillar and address, the parking record, the fault that the
fibre takes when it next runs (R158, R161), the page request it waits for, and the VA that faulted (R352). -/
structure FibreSlot where
  state : FibreState := .free
  pc : LsAddr := 0
  regs : Vector PWord 8 := Vector.replicate 8 {}
  link : Option (PillarId × LsAddr) := none
  parking : Parking := .none
  fault : Option (BitVec 8 × Word) := none
  request : Option Nat := none
  faultVa : Word := 0
  deriving DecidableEq, Repr

/-! ## Translation -/

/-- A TLB entry (R346, R353): the page or group as the address of its first byte and the log of its size, the
physical address, and the leaf's flags; `host` marks an ATS translation (R348). -/
structure TlbEntry where
  asid : BitVec 16
  global : Bool
  va : Nat
  bits : Nat
  pa : Nat
  user : Bool
  write : Bool
  allot : BitVec 2 := 0
  host : Bool := false
  deriving DecidableEq, Repr, Inhabited

/-- What the shuttle works on: entry `index` of a draft, or a direct command of a pillar (R274, R282). -/
inductive ShuttleJob where
  | entry (draft : Nat) (index : Nat)
  | command (p : PillarId) (slot : Nat)
  deriving DecidableEq, Repr, Inhabited

/-- Who a page request is for (R350, R352). -/
inductive Requester where
  | strand (p : PillarId) (t : StrandId)
  | fibre (p : PillarId) (slot : BitVec 8)
  | shuttle (w : ShuttleJob)
  | growth (stack record : Nat)
  | image (job : Nat)
  | record (queue : Nat)
  | slot (queue : Nat)
  | status (job : Nat)
  | host
  deriving DecidableEq, Repr, Inhabited

/-- A page request that the host has not answered (R350). -/
structure PageRequest where
  id : Nat
  asid : BitVec 16
  va : Word
  write : Bool
  requester : Requester
  deriving DecidableEq, Repr, Inhabited

/-! ## Messages and procedures -/

/-- A message (R294, R295, R299): its source pillar and strand or host queue, its destination pillar and inbox or host
queue, its payload by dwords, and the sequence number and level of its SEND. -/
structure Message where
  src : Nat := 0
  strand : StrandId := 0
  fromHost : Bool := false
  dst : Nat := 0
  toHost : Bool := false
  inbox : BitVec 2 := 0
  len : Nat := 0
  payload : List PWord := []
  seq : BitVec 16 := 0
  lvl : BitVec 2 := 0
  deriving DecidableEq, Repr, Inhabited

/-- Where a message in the outbox stands (R295, R296): waiting to be sent, its head holding a slot, refused until a
clk, or waiting for a page request of its host queue (R417). -/
inductive MessagePhase where
  | ready
  | reserved
  | refused (until_ : Nat)
  | paging (request : Nat)
  /-- Held for its twin's hash (R397). -/
  | held
  /-- Matched: it ends as the left twin's entry of this number ends (R397). -/
  | twin (number : Nat)
  deriving DecidableEq, Repr, Inhabited

/-- An outbox entry (R294), numbered in acceptance order. -/
structure OutboxEntry where
  number : Nat
  msg : Message
  phase : MessagePhase := .ready
  deriving DecidableEq, Repr, Inhabited

/-- An inbox (R295): messages oldest first, and slots reserved by heads that have arrived. -/
structure Inbox where
  messages : List Message := []
  reserved : Nat := 0
  deriving DecidableEq, Repr, Inhabited

/-- What a physical or untranslated address names (R340, R301). -/
inductive Place where
  /-- A byte of a pillar's vault. -/
  | vault (p : PillarId) (off : Nat)
  /-- A byte of the second tier. -/
  | tier (a : Nat)
  /-- A byte of a peer's window. -/
  | peer (n : BitVec 10) (off : Nat)
  /-- A device register. -/
  | device (off : Nat)
  /-- A byte of host memory. -/
  | host (a : Nat)
  /-- A byte of a pillar's local store, addressed directly (R304, R308). -/
  | localStore (p : PillarId) (a : Nat)
  /-- A pillar's SIGNAL register (R309). -/
  | signal (p : PillarId)
  deriving DecidableEq, Repr, Inhabited

/-- How far a page 9 procedure has come (R301, R303, R312): on its way to the unit that performs it, merged into the
request of another strand, performed with up to two results, failed, held for its twin's hash (R397), or held until its peer has
room for a request (R421). -/
inductive ProcPhase where
  | sent
  | merged (p : PillarId) (t : StrandId) (seq : BitVec 16)
  | performed (r0 r1 : PWord)
  | failed (cause : BitVec 8) (tval : Word)
  | held
  | queued
  deriving DecidableEq, Repr, Inhabited

/-- An outstanding page 9 procedure that the message port has accepted (R301-R312): who asked, where it goes, its
operands, the count and the sum that combining merged, how much of a copy is done, its place in the strand's dispatch order,
when it was sent, and the router whose combining table has an entry for it. -/
structure Procedure where
  p : PillarId
  t : StrandId
  seq : BitVec 16
  lvl : BitVec 2
  instr : Instr
  place : Place
  va : Word
  x : PWord := {}
  y : PWord := {}
  vrm : BitVec 2 := 0
  k : Nat := 1
  sum : Int := 0
  marks : BitVec 3 := 0
  requesters : Nat := 1
  progress : Nat := 0
  ord : Nat := 0
  sent : Nat := 0
  entry : Option PillarId := none
  phase : ProcPhase := .sent
  deriving DecidableEq, Repr, Inhabited

/-- The message port: engine queue, outbox, inboxes and procedures dispatched and not ended, by strand and sequence
number (R94, R294, R295, R303). -/
structure MessagePort where
  unit : EngineUnit := {}
  outbox : List OutboxEntry := []
  nextNumber : Nat := 0
  inboxes : Vector Inbox 4 := Vector.replicate 4 {}
  outstanding : List (StrandId × BitVec 16) := []
  deriving DecidableEq, Repr

/-! ## The launch unit -/

/-- A rectangle of the package grid (R70). -/
structure Rect where
  row0 : Nat
  col0 : Nat
  hgt : Nat
  wid : Nat
  deriving DecidableEq, Repr, Inhabited

/-- A page request of the launch unit for a queue: under way, or failed and not yet taken note of (R79, R96). -/
structure QueueRequest where
  id : Option Nat := none
  failed : Bool := false
  deriving DecidableEq, Repr, Inhabited

/-- A launch queue's registers (R72), the request that the read of its head record waits for (R78), and the strand whose
LAUNCH holds the tail, by pillar × 4 + strand, with the request it waits for and the tail writes that wait behind it (R96). -/
structure LaunchQueue where
  base : Word := 0
  ctl : Word := 0
  head : BitVec 32 := 0
  tail : BitVec 32 := 0
  reading : QueueRequest := {}
  holder : Option Nat := none
  writing : QueueRequest := {}
  doorbells : List (BitVec 32) := []
  deriving DecidableEq, Repr, Inhabited

/-- The fields of a job record (R74). -/
structure JobRecord where
  jobId : Word := 0
  shape : Word := 0
  codeVa : Word := 0
  code : Word := 0
  args : Vector Word 4 := Vector.replicate 4 0
  draftVa : Word := 0
  preds : Vector Word 4 := Vector.replicate 4 0
  ctx : Word := 0
  statVa : Word := 0
  reserved : Word := 0
  deriving DecidableEq, Repr, Inhabited

/-- A live job (R79-R88), numbered in order of admission. -/
structure Job where
  number : Nat
  record : JobRecord
  queue : BitVec 4
  asid : BitVec 16
  pri : Nat
  state : BitVec 8 := 0x01
  detail : BitVec 8 := 0
  exitCode : BitVec 16 := 0
  predUnknown : Bool := false
  rect : Option Rect := none
  /-- The clk since which the job is eligible, or waits for its rectangle again after a pre-emption (R83, R84). -/
  eligibleAt : Option Nat := none
  /-- It has waited for 2^20 clk (R83). -/
  aged : Bool := false
  /-- The rectangle that the launch unit is clearing for it (R83). -/
  chosen : Option Rect := none
  /-- Its draft has not been installed yet (R82, R270). -/
  drafting : Bool := false
  handedOff : Bool := false
  loading : Bool := false
  preempting : Bool := false
  /-- The page request that its record, image or status word waits for (R79, R352). -/
  request : Option Nat := none
  statusQueue : List Word := []
  statusRequest : Option Nat := none
  deriving DecidableEq, Repr, Inhabited

/-- The launch unit (R72-R88, R412): queues, live jobs in order of admission, the last 1,024 outcomes (JOBID and state,
newest first), and its counters by index. -/
structure LaunchUnit where
  queues : Vector LaunchQueue 16 := Vector.replicate 16 {}
  jobs : List Job := []
  outcomes : List (Word × BitVec 8) := []
  nextJob : Nat := 0
  counters : NatMap Nat := {}
  preemptReq : Word := 0
  deriving DecidableEq, Repr

/-! ## Host, peers, management -/

/-- A host queue's registers and staging (R411, R416). -/
structure HostQueue where
  base : Word := 0
  ctl : Word := 0
  head : BitVec 32 := 0
  tail : BitVec 32 := 0
  send : Word := 0
  staging : Memory := {}
  deriving DecidableEq, Repr, Inhabited

/-- A UALink port (R419). -/
structure UaPort where
  link : Bool := false
  ready : Bool := false
  enable : Bool := false
  deriving DecidableEq, Repr, Inhabited

/-- An answer to an access from outside (R413, R420): the bytes read, or an error. -/
inductive HostAnswer where
  | data (n : Nat) (value : Nat)
  | done
  | error
  deriving DecidableEq, Repr, Inhabited

/-- A peer-table entry (R419), and the peer's own resources (R421). -/
structure Peer where
  up : Bool := false
  why : BitVec 2 := 0
  incred : BitVec 16 := 64
  peerTo : BitVec 32 := 42000
  /-- Inbound requests that have not been performed, in order of arrival (R420, R421). -/
  requests : List (BitVec 36 × HostAccess) := []
  /-- The response buffer: responses that the peer has not taken, oldest first, and the clk of each (R421). -/
  responses : List (HostAnswer × Nat) := []
  deriving DecidableEq, Repr, Inhabited

/-- An ATS Translation Request that the host has not completed (R348, R349): the stack whose unit asked, its PASID, the page, and
how many completions of it an Invalidate Request has made void. -/
structure AtsRequest where
  stack : Nat
  asid : BitVec 16
  va : Word
  void : Nat := 0
  deriving DecidableEq, Repr, Inhabited

/-- PCIe, host queues, page requests and UALink (R348-R350, R409-R421). -/
structure HostLink where
  queues : Vector HostQueue 16 := Vector.replicate 16 {}
  /-- Host sends in flight, in order (R418). -/
  sends : List OutboxEntry := []
  aperBase : Word := 0
  /-- MSI-X vectors raised, with how often (R415). -/
  raised : NatMap Nat := {}
  /-- The answers that have left the package, in order. -/
  answers : List HostAnswer := []
  requests : List PageRequest := []
  nextRequest : Nat := 0
  priEnabled : Bool := true
  /-- ATS Translation Requests in flight, in order (R348, R349). -/
  ats : List AtsRequest := []
  /-- The ASIDs and pages for which a completion gave no right, until the page request that follows is sent (R348, R350). -/
  noRights : List (BitVec 16 × Nat) := []
  /-- Invalidate Completions sent (R349). -/
  invalidated : Nat := 0
  /-- Invalidate Requests that wait for accesses to ranges of physical addresses (R349). -/
  invalidating : List (List (Nat × Nat)) := []
  ports : Vector UaPort 8 := Vector.replicate 8 {}
  peers : NatMap Peer := {}
  peerId : BitVec 10 := 0
  uavBase : Word := 0
  uaAsid : BitVec 16 := 0
  peerGone : Nat := 0
  deriving DecidableEq, Repr

/-- A failure record in the layout of R407, without its reserved dwords. -/
structure FailureRecord where
  who : Word := 0
  jobId : Word := 0
  wstart : Word := 0
  wend : Word := 0
  egress : Word := 0
  deriving DecidableEq, Repr, Inhabited

/-- A worm of a twinned job that its router holds for the twin's hash (R397): pillar, strand, its place among the strand's
outgoing worms (that of its instruction, and its own among those of its instruction), the flits it is
compared by, when it came, and the instruction that sent it, which may have a dispatch ring entry. -/
structure HeldWorm where
  p : PillarId
  t : StrandId
  number : Nat
  flits : List Word
  since : Nat
  seq : BitVec 16
  lvl : BitVec 2
  ringed : Bool := true
  deriving DecidableEq, Repr, Inhabited

/-- The integrity block (R397-R408). -/
structure IntegrityBlock where
  containPil : BitVec 10 := 0
  /-- The rectangle being contained, with the pillar that named it (R402). -/
  containing : Option Rect := none
  /-- The clk in which that containment started. R402 gives its length only as about 105,000 clk, so nothing waits for it. -/
  containSince : Nat := 0
  stripper : Word := 0x80000000
  frhead : BitVec 32 := 0
  frtail : BitVec 32 := 0
  slots : NatMap FailureRecord := {}
  waiting : List FailureRecord := []
  dwPairs : Nat := 0
  dwMismatch : Nat := 0
  contains : Nat := 0
  strips : Nat := 0
  stripFail : Nat := 0
  /-- Pattern index of row r of stack s at 16 s + r (R405). -/
  stripIdx : NatMap (BitVec 12) := {}
  /-- Pillars that have run a strip from the present index of their row: 0 until it has passed, then the patterns run
  plus one (R405). -/
  stripRuns : NatMap Nat := {}
  held : List HeldWorm := []
  /-- Strands whose outgoing worms are discarded, as pillar × 4 + strand (R397). -/
  discarding : NatSet := {}
  deriving DecidableEq, Repr

/-- Safelight (R422-R425). -/
structure Safelight where
  ready : BitVec 19 := 0
  pillarReady : NatSet := {}
  meas : Vector (BitVec 256) 8 := Vector.replicate 8 0
  nonce : BitVec 256 := 0
  attGo : Bool := false
  sigR : BitVec 256 := 0
  sigS : BitVec 256 := 0
  identity : BitVec 128 := 0
  /-- The second tier failed bring-up (R423). -/
  tierFailed : Bool := false
  deriving DecidableEq, Repr

/-- Phasing (R428). -/
structure Phasing where
  ctl : Word := 0
  rects : Vector Word 4 := Vector.replicate 4 0
  deriving DecidableEq, Repr

/-- A trap message on its way along the handler chain (R376): its destination and what lands in FWD0 to FWD7. -/
structure TrapMessage where
  dst : PillarId
  fwd : Vector Word 8
  deriving DecidableEq, Repr

/-! ## The vault and the tile load pipe -/

/-- A pillar's vault apart from its bytes (R195, R196, R209-R217): CALENDAR and a write to it that waits for the next
epoch, VTHERM, RPMAP, the open rows (most recently used first) and those of them that the stream pins, activations requested
and not done, banks in refresh, the deadlines of short-lived rows, and the rows that have expired and have not been written whole since. Rows are numbered by offset
divided by 8,192. -/
structure Vault where
  calendar : Word := 5461 * 0x1000000000
  nextCalendar : Option Word := none
  vtherm : Word := 0
  /-- The changes of HOT, the newest first: the layer, the clk, and what HOT was before (R212). -/
  hotLog : List (Nat × Nat × Bool) := []
  rpmap : Vector Word 16 := Vector.replicate 16 0
  openRows : List Nat := []
  pinned : List Nat := []
  /-- The rows that beats of other users pin, and the clk in which each pin ends (R195). -/
  beats : List (Nat × Nat) := []
  /-- The closed rows for which a beat of another user waits (R195). -/
  wanted : List Nat := []
  /-- Activations requested and not done: the row and the clk in which it can deliver a beat (R196). -/
  activating : List (Nat × Nat) := []
  /-- The clk in which the last activation of the vault started, and of each layer (R196). -/
  lastStart : Option Nat := none
  layerStart : NatMap Nat := {}
  /-- The clk that throttling added to the activation of a row for which no beat has arrived since (R215). -/
  slowed : NatMap Nat := {}
  /-- The banks in a refresh window, with the sixteenth of their rows that the window refreshes (R210, R212). -/
  refreshing : NatMap Nat := {}
  /-- The deadlines of short-lived rows, 0 once it has passed (R216). -/
  shortLived : NatMap Nat := {}
  expired : NatSet := {}
  deriving DecidableEq, Repr

/-- A write-back that TEVICT has started (R146): its strand, the sequence counter at its issue, its address, its block
and the words of it that are poisoned, its place in the strand's dispatch order, and whether its twin has matched it (R397). -/
structure WriteBack where
  strand : StrandId
  seq : BitVec 16
  lvl : BitVec 2
  va : Word
  block : Memory
  bad : NatSet
  ord : Nat := 0
  matched : Bool := false
  deriving DecidableEq, Repr, Inhabited

/-- The tile load pipe (R197, R205, R132, R146): engine queue, tile loads and copies accepted in order, CFETCH and TFILL
in order, the activations that each ROWACT waits to request, and write-backs. -/
structure TilePipe where
  unit : EngineUnit := {}
  ops : List TileOp := []
  fetches : List TileOp := []
  waitingRows : List (StrandId × List Nat) := []
  writeBacks : List WriteBack := []
  deriving DecidableEq, Repr

/-! ## The matrix engine -/

/-- An operand slot's header (R221); POISON follows from the slot's bytes, and `poison` keeps it while a tile load writes them
(R226). States: 0 free, 1 loading,
2 filled, 3 void, 4 building, 5 draining. -/
structure SlotHeader where
  tag : BitVec 16 := 0
  type : BitVec 4 := 0
  orows : Nat := 0
  olen : Nat := 0
  readers : Nat := 0
  state : Nat := 0
  poison : Bool := false
  /-- The strand whose PSPLIT is writing the slot (R249). -/
  splitter : Option StrandId := none
  /-- The readers that a draining slot still had when a PSPLIT took it (R249, R250). -/
  olds : Nat := 0
  deriving DecidableEq, Repr, Inhabited

/-- A spool (R222). -/
structure Spool where
  out : Nat := 0
  rd : Nat := 0
  count : Nat := 0
  base : Nat := 0
  deriving DecidableEq, Repr, Inhabited

/-- An accumulator tile's header (R229, R251) but for POISON, which follows from the elements, and OPEN and PEND, which
follow from the batches that target the tile. -/
structure TileHeader where
  pair : Nat := 0
  steps : Nat := 0
  plies : Nat := 0
  kind : BitVec 2 := 1
  owner : StrandId := 0
  /-- The strand whose MLD, MST or DRAIN is moving the tile, with how many of them. -/
  moving : Option StrandId := none
  movers : Nat := 0
  loom : Bool := false
  deriving DecidableEq, Repr, Inhabited

/-- A pillar's place in a loom (R239-R241): its claim, whether the loom has formed, whether its LOOMJOIN has completed, its
loom strand, the LOOMGO instructions it has executed, whether it waits in one, the `.loom` instructions dispatched since the last, what the wait
has ended with (0, or a fault code), and whether a member has left. -/
structure Loom where
  col0 : Nat
  members : List PillarId
  formed : Bool := false
  joined : Bool := false
  strand : StrandId
  gos : Nat := 0
  waiting : Bool := false
  count : Nat := 0
  verdict : Option Nat := none
  broken : Bool := false
  deriving DecidableEq, Repr, Inhabited

/-- An instruction on a unit of the matrix engine (R231, R240, R259): whether a `.loom` step has started, whether it owes
the format bubble, and the clk in which it, or its next slice pair or row, is done. -/
structure MatrixOp where
  d : Dispatched
  started : Bool := true
  bubble : Bool := false
  due : Nat := 0
  /-- EXIT has discarded its batch, and its tiles keep their elements (R98). -/
  discarded : Bool := false
  deriving DecidableEq, Repr, Inhabited

/-- A DRAIN whose tile has been read out (R242): the bytes of its rows, 512 for each, with the poisoned ones, and whether
its twin has matched its writes (R397). -/
structure DrainOp where
  d : Dispatched
  bytes : Memory
  bad : NatSet
  matched : Bool := false
  deriving DecidableEq, Repr, Inhabited

/-- The matrix engine of a pillar (R221-R242): engine queue, the instructions on its two units, the format that the
array accepted last (R232), slots, spools, tiles, the loom, DRAINs being written, and whether a pre-emption request
keeps it from accepting (R244). Byte o of slot j is at 8192 j + o, and `slotBad` holds the poisoned bytes; element e of
tile t is at 16384 t + 4 e, and `tileBad` holds 4096 t + e for a poisoned element. -/
structure MatrixEngine where
  unit : EngineUnit := {}
  array : Option MatrixOp := none
  port : Option MatrixOp := none
  lastFormat : Option (BitVec 12) := none
  slots : Vector SlotHeader 32 := Vector.replicate 32 {}
  slotBytes : Memory := {}
  slotBad : NatSet := {}
  spools : Vector Spool 8 := (Vector.replicate 8 {}).set 0 { count := 32 }
  tiles : Vector TileHeader 16 := Vector.replicate 16 {}
  tileBytes : Memory := {}
  tileBad : NatSet := {}
  loom : Option Loom := none
  drains : List DrainOp := []
  held : Bool := false
  deriving DecidableEq, Repr

/-! ## Drafts and the shuttle -/

/-- An installed draft (R267, R270): its number, the job and rectangle or half it belongs to, its address and context,
and its entries. A draft of a pre-empted job is kept with `parked` set: its memory is free and its entries stand as
they were saved (R286). -/
structure Draft where
  number : Nat
  job : Nat
  rect : Rect
  va : Word
  asid : BitVec 16
  entries : List DraftEntry
  parked : Bool := false
  deriving DecidableEq, Repr, Inhabited

/-- A direct command slot (R282): generation, the command in it, and who issued it. -/
structure CommandSlot where
  gen : BitVec 11 := 0
  command : Option DraftEntry := none
  strand : StrandId := 0
  seq : BitVec 16 := 0
  lvl : BitVec 2 := 0
  deriving DecidableEq, Repr, Inhabited

/-- A growth record and its raw block (R283). -/
structure GrowthRecord where
  va : Word
  allot : BitVec 2
  asid : BitVec 16
  handle : BitVec 16
  coded : Nat
  work : ShuttleJob
  block : Memory
  /-- The job that the entry or command belongs to. -/
  job : Nat := 0
  /-- RETRY has been written and waits for a translation, and for the response to a page request (R284, R348, R350). -/
  retrying : Bool := false
  request : Option Nat := none
  deriving DecidableEq, Repr, Inhabited

/-- A stack's shuttle (R263, R272, R274, R283): triggered work in order, the work of pre-empted rectangles in its order (R286),
growth records by number. -/
structure Shuttle where
  work : List ShuttleJob := []
  parked : List (Nat × ShuttleJob) := []
  records : NatMap GrowthRecord := {}
  deriving DecidableEq, Repr, Inhabited

/-! ## Pillars, stacks, package -/

/-- The states of a pillar (R71). -/
inductive PillarPhase where
  | free | held | scrubbing | fenced | failed
  deriving DecidableEq, Repr, Inhabited

/-- A pillar and its vault. -/
structure Pillar where
  phase : PillarPhase := .free
  /-- The number of the job that holds it (R70). -/
  job : Option Nat := none
  /-- The pillar whose place in its job's rectangle it took in a migration (R389). -/
  standsFor : Option PillarId := none
  /-- The ASID it translates with (R343). -/
  asid : BitVec 16 := 0
  strands : Vector Strand 4 := Vector.replicate 4 Strand.reset
  /-- The strand that last issued at each priority (R90). -/
  lastIssue : Vector StrandId 4 := Vector.replicate 4 3
  /-- The sequence counter (R373). -/
  seqCounter : BitVec 16 := 0
  ring : NatMap RingEntry := {}
  /-- XB.BOUND (R127). -/
  xbKb : Nat := 0
  ls : LocalStore := {}
  firmware : Memory := {}
  stvec : LsAddr := 0
  mtvec : LsAddr := 0
  segs : Vector Segment 16 := Vector.replicate 16 {}
  tags : TagTable := {}
  fibres : NatMap FibreSlot := {}
  /-- The run queue, near end first (R151). -/
  runQueue : List Nat := []
  steal : Word := 0x1000000
  vec : EngineUnit := {}
  /-- The clk of the pillar from which each pipe of the vector unit is free again (R167, R170). -/
  pipes : Vector Nat 2 := Vector.replicate 2 0
  mtx : MatrixEngine := {}
  tile : TilePipe := {}
  msg : MessagePort := {}
  vault : Vault := {}
  dataTlb : List TlbEntry := []
  tileTlb : List TlbEntry := []
  /-- The strand whose division occupies the divider (R117). -/
  divider : Option StrandId := none
  signal : Word := 0
  pickNo : BitVec 32 := 0
  pinBase : Nat := 0
  commands : Vector CommandSlot 16 := Vector.replicate 16 {}
  fwdEnt : Word := 0
  fwd : Vector Word 8 := Vector.replicate 8 0
  /-- The clk in which a trap message landed in FWD0-FWD7 (R376). -/
  fwdSince : Nat := 0
  /-- RCV has taken the message in FWD0-FWD7 (R376). -/
  fwdTaken : Bool := false
  saveOff : Word := 0x2F * 0x400000
  stripLast : Word := 0
  /-- CALCLK at the start of the strip that runs, if one does (R404). -/
  strip : Option Nat := none
  /-- The clk of the pillar in which that strip started (R4, R404). -/
  stripFrom : Nat := 0
  /-- A strip is due, or a gap for one is being made (R404). -/
  stripDue : Bool := false
  /-- A strip has failed, and the pillar's work is not yet on the spare (R407). -/
  failedMark : Bool := false
  /-- The egress number at the end of the last passing strip (R407). -/
  stripEgress : BitVec 32 := 0
  /-- Failed pillars whose cause 0x6B waits for strand RCV (R407). -/
  stripFails : List PillarId := []
  /-- The clk in which a pre-emption request reached the pillar (R382). -/
  preempt : Option Nat := none
  preemptAged : Bool := false
  /-- Egress number of the next worm that leaves the package (R406). -/
  egress : BitVec 32 := 0
  /-- Bits 0 to 3: the neighbour to the north, east, south, west has signalled off (R106). -/
  reqOff : BitVec 4 := 0
  rspOff : BitVec 4 := 0
  /-- Consecutive CRC failures of each mesh link, and the clk of the last (R396). -/
  crcRuns : Vector Nat 4 := Vector.replicate 4 0
  crcAt : Vector Nat 4 := Vector.replicate 4 0
  /-- Counters by system-register number (R393). -/
  counters : NatMap Nat := {}
  deriving DecidableEq, Repr

/-- A pillar at power-on. -/
def Pillar.reset : Pillar := {}

/-- A stack's own state (R209, R342, R353, R375, R377, R426): CHAIN, the clk of its reset, whether it is out of reset
and whether it is halted, the steps of 100 MHz taken off its clock with PILCLK at the last change, STKTEMP, TLB,
shuttle, the failed column of each row, and the counters marked stack or shuttle. -/
structure Stack where
  chain : Word := 0
  resetAt : Nat := 0
  running : Bool := false
  halted : Bool := false
  clockSteps : Nat := 0
  clockChangedAt : Nat := 0
  pilClkAtChange : Nat := 0
  stkTemp : Word := 0
  tlb : List TlbEntry := []
  shuttle : Shuttle := {}
  failedColumn : NatMap Nat := {}
  /-- The last trap message that found no link (R377). -/
  lastTrap : Option TrapMessage := none
  counters : NatMap Nat := {}
  deriving DecidableEq, Repr

/-- A saved context (R384, R385): whose it is, in which save area, for which job, what was in the pillar, and which
conditional sections were written. The bytes of the sections whose layout the spec fixes are in the vault; those of the
sections whose arrangement belongs to the device stand here too, by offset in the area, as they were written. -/
structure SavedContext where
  p : PillarId
  area : Nat
  /-- Where the area begins in the vault of the pillar (R384). -/
  off : Nat := 0
  job : Nat
  ctx : Pillar
  feSection : Bool := false
  fibreSection : Bool := false
  messageSection : Bool := false
  poisonSection : Bool := false
  device : Memory := {}
  deriving DecidableEq, Repr

/-- What a write of a device register, or a stack halt, makes another unit do, as the very next event (R377, R401, R411, R412,
R418, R425). -/
inductive DevEffect where
  | lqtail (n : BitVec 4) (v : BitVec 32)
  | preemptreq (v : Word)
  | hostSend (h : BitVec 4) (v : Word)
  | ovfDrop (stack : BitVec 2) (n : BitVec 6)
  | ovfRetry (stack : BitVec 2) (n : BitVec 6)
  | contain (p : PillarId)
  | frhead (v : Word)
  | peerUp (p : BitVec 10)
  | attgo (v : Word)
  | aperbase (v : Word)
  /-- The pillars of a killed job are reset and scrubbed (R88, R377). -/
  | reap (job : Nat)
  deriving DecidableEq, Repr, Inhabited

/-- The work of a strand (R89-R91, R109, R153-R159, R170, R242, R328, R369-R370, R382, R397). -/
inductive StrandWork where
  | boundary | promotion | storeDrain | fenceEnd | dataReturn | waitEnd | vectorDone | drainDone | scStart | runnerLoad | stealExpiry
  | stealRound | hashArrive | weaveTimeout
  deriving DecidableEq, Repr, Inhabited

/-- The work of a pillar (R87, R117, R205-R218, R231-R240, R274, R301, R376, R382-R387, R402-R405). -/
inductive PillarWork where
  | divider | activation | beat | fill | throttle | copyDone | evictDone | arrayDone | portDone | loomStart | trigger | agent
  | trapTimeout | preemptArrive | preemptAge | save | restore | scrub | containDone | stripStart | stripDue | stripEnd
  deriving DecidableEq, Repr, Inhabited

/-- The work of a numbered part of a pillar (R132, R146, R158, R210, R216, R275, R282, R295-R297). -/
inductive PartWork where
  | segment | tagFill | fibre | refreshStart | refreshEnd | retention | entryDone | commandDone | headArrive | resend | deliver
  | cutTail
  deriving DecidableEq, Repr, Inhabited

/-- The work of the package (R80-R85, R209, R349, R358, R376). -/
inductive PackageWork where
  | takeIn (q : BitVec 4)
  | place
  | image (job : Word)
  | age (job : Word)
  | status
  | epoch (stack : BitVec 2)
  | trapArrive
  | peerLate (n : BitVec 10)
  | invalidate
  /-- A restart that waits to read its draft again (R286). -/
  | reread (job : Word)
  /-- A RETRY of a growth record that waits (R284). -/
  | growth (stack record : Nat)
  /-- What the host sent behind an access that had to wait (R414). -/
  | posted
  /-- A request of a peer that waits (R420). -/
  | peerRequest (n : BitVec 10)
  deriving DecidableEq, Repr, Inhabited

/-- What memories, links and the host do that no event of the opcode table stands for (log entry 82). -/
inductive OutsideWork where
  /-- The host enables PRI again (R350). -/
  | priEnable
  /-- An uncorrectable error in a word of local store (R396, R138). -/
  | lsError (p : PillarId) (a : LsAddr)
  /-- An uncorrectable error in 8 bytes of the operand slots, and of the accumulator tiles (R396, R221, R229). -/
  | slotError (p : PillarId) (dword : Nat)
  | tileError (p : PillarId) (dword : Nat)
  /-- An uncorrectable error in a 32-byte unit of a vault or the second tier (R396, R465). -/
  | unitError (pa : Nat)
  /-- The neighbours' off signals on the request and the response network, a bit for each port (R106, R291). -/
  | linksOff (p : PillarId) (request response : BitVec 4)
  /-- The host reads or writes BAR0 (R411). -/
  | bar0 (off : BitVec 20) (a : HostAccess)
  /-- An access through BAR2 goes on after a wait (R414, R423). -/
  | aperture (off : BitVec 32) (a : HostAccess)
  /-- A peer takes the oldest response from its buffer (R421). -/
  | peerTakes (n : BitVec 10)
  /-- A UALink port loses its link (R419). -/
  | portDown (port : BitVec 3)
  deriving DecidableEq, Repr, Inhabited

/-- What can happen next (the model's own, log entry 4): an event of the opcode table, an instruction of a strand that is
named, the arbiter's choice of a pillar for this clk (R90), the package's own work, or an act from outside. -/
inductive Task where
  | input (i : Instr)
  | issue (p : PillarId) (t : StrandId)
  | slot (p : PillarId)
  | accept (p : PillarId) (e : Engine)
  | strand (p : PillarId) (t : StrandId) (w : StrandWork)
  | pillar (p : PillarId) (w : PillarWork)
  | part (p : PillarId) (w : PartWork) (n : Nat)
  | response (p : PillarId) (t : StrandId) (seq : BitVec 16)
  | block (p : PillarId) (h : Handle)
  | package (w : PackageWork)
  | outside (w : OutsideWork)
  deriving DecidableEq, Repr, Inhabited

/-- The state of the package. -/
structure State where
  pillars : NatMap Pillar := {}
  stackUnits : Vector Stack 4 := Vector.replicate 4 {}
  /-- Vaults and second tier by physical address (R340), with the 32-byte units that are poisoned (R465). -/
  mem : Memory := {}
  memBad : NatSet := {}
  ctxBase : Word := 0
  launch : LaunchUnit := {}
  host : HostLink := {}
  integrity : IntegrityBlock := {}
  safelight : Safelight := {}
  phasing : Phasing := {}
  drafts : List Draft := []
  nextDraft : Nat := 0
  /-- Page 9 procedures that message ports have accepted, in that order (R301). -/
  procs : List Procedure := []
  /-- Trap messages under way (R376). -/
  trapMessages : List TrapMessage := []
  /-- Pre-emption requests that have not reached their pillar (R382). -/
  preempts : List PillarId := []
  saves : List SavedContext := []
  /-- The package-wide count of clk, in vault ticks (R3, R326). -/
  clk : Nat := 0
  /-- The pillar and strand whose instruction runs (the model's own, log entry 5). -/
  curP : PillarId := 0
  curT : StrandId := 0
  /-- What happens next, in order: inputs and choices from outside, and the package's own work of this clk (the model's own,
  log entry 4). -/
  agenda : List Task := []
  /-- Effects of device-register writes that come next, in order (log entry 4). -/
  effects : List DevEffect := []
  /-- What the host has sent through BAR0 and BAR2 behind an access that waits, in order (R414, R423). -/
  posted : List Task := []
  /-- How many free values have been taken (log entry 6). -/
  freeCount : Nat := 0
  deriving DecidableEq, Repr

/-- The package right after power-on: nothing listed, every field at its reset value; Safelight has done nothing yet
(R422), so no pillar is ready and no job exists. -/
def State.reset : State := {}

end Sys2Proof.Machine
end

