-- ==== Sys2Proof/Machine/Ops.lean ====
section
/-! DEFINITION. The named operations on the state that every meaning is written with: units, registers, local store,
counters, page requests, traps and their return, dispatch, and how an instruction ends. -/

namespace Sys2Proof.Machine

/-! ## Units -/

/-- The pillar of a number. -/
def State.pil (s : State) (p : PillarId) : Pillar := s.pillars.getD p.toNat Pillar.reset

/-- Replaces a pillar. -/
def State.setPil (s : State) (p : PillarId) (x : Pillar) : State := { s with pillars := s.pillars.set p.toNat x }

/-- Changes a pillar. -/
def State.modPil (s : State) (p : PillarId) (f : Pillar → Pillar) : State := s.setPil p (f (s.pil p))

/-- A strand of a pillar. -/
def Pillar.strand (x : Pillar) (t : StrandId) : Strand := x.strands[t]

/-- Replaces a strand of a pillar. -/
def Pillar.setStrand (x : Pillar) (t : StrandId) (r : Strand) : Pillar := { x with strands := x.strands.set t r }

/-- Changes a strand of a pillar. -/
def Pillar.modStrand (x : Pillar) (t : StrandId) (f : Strand → Strand) : Pillar := x.setStrand t (f (x.strand t))

/-- A strand of the package. -/
def State.strandAt (s : State) (p : PillarId) (t : StrandId) : Strand := (s.pil p).strand t

/-- Changes a strand of the package. -/
def State.modStrand (s : State) (p : PillarId) (t : StrandId) (f : Strand → Strand) : State :=
  s.modPil p fun x => x.modStrand t f

/-- The pillar whose instruction runs. -/
def State.me (s : State) : Pillar := s.pil s.curP

/-- Changes the pillar whose instruction runs. -/
def State.modMe (s : State) (f : Pillar → Pillar) : State := s.modPil s.curP f

/-- The strand whose instruction runs. -/
def State.st (s : State) : Strand := s.strandAt s.curP s.curT

/-- Changes the strand whose instruction runs. -/
def State.modSt (s : State) (f : Strand → Strand) : State := s.modStrand s.curP s.curT f

/-- Makes a strand the one whose instruction runs. -/
def State.focus (s : State) (p : PillarId) (t : StrandId) : State := { s with curP := p, curT := t }

/-- The stack of a pillar (R2). -/
def stackOf (p : PillarId) : Nat := p.toNat / 256

/-- A stack. -/
def State.stack (s : State) (n : Nat) : Stack := s.stackUnits[n]?.getD {}

/-- Changes a stack. -/
def State.modStack (s : State) (n : Nat) (f : Stack → Stack) : State :=
  { s with stackUnits := s.stackUnits.setIfInBounds n (f (s.stack n)) }

/-- A stack's arithmetic clk: vault ticks less what its slower clock lost (R3, R426, R427). -/
def State.pilClk (s : State) (st : Nat) : Nat :=
  let k := s.stack st
  k.pilClkAtChange + (s.clk - k.clockChangedAt) * (21 - k.clockSteps) / 21

/-- The arithmetic clk of a pillar, in which its steps, intervals and counters run; vault timings run in the package-wide vault
ticks of `State.clk` (R3, R4). -/
def State.aclk (s : State) (p : PillarId) : Nat := s.pilClk (stackOf p)

/-- The vault ticks that n clk of a pillar take (R3, R4). -/
def State.ticks (s : State) (p : PillarId) (n : Nat) : Nat :=
  let rate := 21 - (s.stack (stackOf p)).clockSteps
  (21 * n + rate - 1) / rate

/-- All pillar numbers, ascending. -/
def allPillars : List PillarId := (List.range 1024).map fun n => BitVec.ofNat 10 n

/-- The strand numbers, ascending. -/
def allStrands : List StrandId := [0, 1, 2, 3]

/-! ## The package grid -/

/-- The grid row of a pillar (R2, R341). -/
def gridRow (p : PillarId) : Nat := 16 * (stackOf p / 2) + bitsOf p.toNat 7 4

/-- The grid column of a pillar (R2, R341). -/
def gridCol (p : PillarId) : Nat := 16 * (stackOf p % 2) + bitsOf p.toNat 3 0

/-- The pillar at a grid position (R2, R341). -/
def pillarAt (row col : Nat) : PillarId :=
  BitVec.ofNat 10 (((row / 16) * 2 + col / 16) * 256 + (row % 16) * 16 + col % 16)

/-- A pillar lies in a rectangle (R70). -/
def Rect.has (r : Rect) (p : PillarId) : Bool :=
  r.row0 ≤ gridRow p && gridRow p < r.row0 + r.hgt && r.col0 ≤ gridCol p && gridCol p < r.col0 + r.wid

/-- The pillars of a rectangle, ascending. -/
def Rect.pillars (r : Rect) : List PillarId := allPillars.filter r.has

/-- Two rectangles share a pillar. -/
def Rect.meets (a b : Rect) : Bool :=
  a.row0 < b.row0 + b.hgt && b.row0 < a.row0 + a.hgt && a.col0 < b.col0 + b.wid && b.col0 < a.col0 + a.wid

/-- The neighbour of a pillar through a mesh port, inside the package grid (R106). -/
def neighbour (p : PillarId) : MeshPort → Option PillarId
  | .north => if gridRow p = 0 then none else some (pillarAt (gridRow p - 1) (gridCol p))
  | .east => if gridCol p = 31 then none else some (pillarAt (gridRow p) (gridCol p + 1))
  | .south => if gridRow p = 31 then none else some (pillarAt (gridRow p + 1) (gridCol p))
  | .west => if gridCol p = 0 then none else some (pillarAt (gridRow p) (gridCol p - 1))

/-- A fence stands between two pillars (R401, R402). -/
def State.fenced (s : State) (p q : PillarId) : Bool :=
  match s.integrity.containing with
  | some r => r.has p != r.has q
  | none => false

/-- A pillar has been brought up and its stack has not halted (R377, R422). -/
def State.linkUp (s : State) (p : PillarId) : Bool :=
  s.safelight.pillarReady.has p.toNat && !(s.stack (stackOf p)).halted

/-- The link between two pillars is present and trained: their stacks have been trained and have not halted (R106, R422,
R377). -/
def State.linkTrained (s : State) (p q : PillarId) : Bool :=
  [stackOf p, stackOf q].all fun n => (s.stack n).running && !(s.stack n).halted

/-! ## Jobs -/

/-- The job that holds a pillar (R70). -/
def State.jobOf (s : State) (p : PillarId) : Option Job :=
  match (s.pil p).job with
  | some n => s.launch.jobs.find? fun j => j.number == n
  | none => none

/-- A job runs under double weave (R75). -/
def Job.twin (j : Job) : Bool := bitOf j.record.shape.toNat 26

/-- The width of a job's shape (R75). -/
def Job.wid (j : Job) : Nat := j.record.shape.bits 21 16

/-- The height of a job's shape (R75). -/
def Job.hgt (j : Job) : Nat := j.record.shape.bits 15 10

/-- The pillar belongs to a twinned job. -/
def State.twinned (s : State) (p : PillarId) : Bool := ((s.jobOf p).map Job.twin).getD false

/-- A pillar's place in its job's rectangle: its own, or that of the pillar it took over from (R389). -/
def State.position (s : State) (p : PillarId) : PillarId := (s.pil p).standsFor.getD p

/-- The pillar that has a place in a job's rectangle (R389). -/
def State.seat (s : State) (job : Nat) (q : PillarId) : PillarId :=
  match s.pillars.entries.find? fun e => e.2.job == some job && e.2.standsFor == some q with
  | some e => BitVec.ofNat 10 e.1
  | none =>
    match s.saves.find? fun c => c.job == job && c.ctx.standsFor == some q with
    | some c => c.p
    | none => q

/-- The pillars that have the places of a rectangle of a job. -/
def State.seats (s : State) (job : Nat) (r : Rect) : List PillarId := r.pillars.map (s.seat job)

/-- The rectangle of a job's half that holds a place; the whole rectangle of an untwinned job (R77). -/
def Job.half (j : Job) (p : PillarId) : Option Rect :=
  j.rect.map fun r =>
    if j.twin then
      { r with wid := j.wid, col0 := if gridCol p < r.col0 + j.wid then r.col0 else r.col0 + j.wid }
    else r

/-- The pillar lies in the right half of its twinned job (R77). -/
def State.inRightHalf (s : State) (p : PillarId) : Bool :=
  match s.jobOf p with
  | some j => j.twin && (match j.rect with | some r => r.col0 + j.wid ≤ gridCol (s.position p) | none => false)
  | none => false

/-- The other pillar of a pair of twins (R77). -/
def State.twinOf (s : State) (p : PillarId) : PillarId :=
  match s.jobOf p with
  | some j =>
    let q := s.position p
    s.seat j.number
      (if s.inRightHalf p then pillarAt (gridRow q) (gridCol q - j.wid) else pillarAt (gridRow q) (gridCol q + j.wid))
  | none => p

/-- The redirection of a right half: a pillar of the left half stands for its twin (R399). -/
def State.redirect (s : State) (p dst : PillarId) : PillarId :=
  if s.inRightHalf p && (s.pil p).job == (s.pil dst).job && !s.inRightHalf dst then s.twinOf dst else dst

/-- Forwarding along valid FWDENT registers, from router to router (R390). -/
def State.forwardFrom (s : State) : Nat → PillarId → PillarId
  | 0, dst => dst
  | fuel + 1, dst =>
    let e := (s.pil dst).fwdEnt
    if bitOf e.toNat 63 then State.forwardFrom s fuel (e.setWidth 10) else dst

/-- Forwarding after a migration: a pillar with a valid FWDENT stands for its target (R390). -/
def State.forward (s : State) (dst : PillarId) : PillarId := s.forwardFrom 1024 dst

/-! ## Counters -/

/-- A 64-bit saturating count (R393). -/
def addCount (m : NatMap Nat) (n k : Nat) : NatMap Nat :=
  if k = 0 then m else m.set n (min (m.getD n 0 + k) (2 ^ 64 - 1))

/-- Adds to a counter of a pillar (R393). -/
def Pillar.count (x : Pillar) (n : Nat) (k : Nat := 1) : Pillar := { x with counters := addCount x.counters n k }

/-- Adds to a counter of the current pillar. -/
def State.count (s : State) (n : Nat) (k : Nat := 1) : State := s.modMe fun x => x.count n k

/-- Adds to a counter of a stack (R393). -/
def State.countStack (s : State) (st n : Nat) (k : Nat := 1) : State :=
  s.modStack st fun x => { x with counters := addCount x.counters n k }

/-- Raises an MSI-X vector (R415). -/
def State.raiseVector (s : State) (v : Nat) : State :=
  { s with host := { s.host with raised := addCount s.host.raised v 1 } }

/-! ## STATUS -/

/-- The level: 0 user, 1 supervisor, 3 machine (R362). -/
def Strand.lvl (t : Strand) : Nat := t.status.bits 7 6

/-- The condition window is open (R104). -/
def Strand.cw (t : Strand) : Bool := bitOf t.status.toNat 5

/-- Fetch reads the firmware store (R363). -/
def Strand.fws (t : Strand) : Bool := bitOf t.status.toNat 11

/-- Issue priority (R90). -/
def Strand.pri (t : Strand) : Nat := t.status.bits 1 0

/-- Writes bits h..l of a word. -/
def setBits (w : Word) (h l v : Nat) : Word :=
  word (w.toNat - w.bits h l * 2 ^ l + (v % 2 ^ (h + 1 - l)) * 2 ^ l)

/-- The strand runs fibre code: in fibre mode, with a fibre loaded, and not in the handler of its trap (R160, R366). -/
def Strand.inFibre (t : Strand) : Bool :=
  match t.modes with
  | m :: _ => m.slot.isSome && !m.handler
  | [] => false

/-- The slot of the fibre that is loaded. -/
def Strand.slot (t : Strand) : Nat :=
  match t.modes with
  | m :: _ => (m.slot.map (·.toNat)).getD 0
  | [] => 0

/-! ## General registers and the condition window -/

/-- COUNT and FULL of an inbox (R105). -/
def inboxWindow (b : Inbox) : Nat := min b.messages.length 8 + 16 * boolNat (b.messages.length ≥ 8)

/-- A port byte (R106). -/
def State.portByte (s : State) (p : PillarId) (d : MeshPort) (i : Nat) : Nat :=
  match neighbour p d with
  | none => 0
  | some q =>
    boolNat (s.linkTrained p q) + 2 * boolNat (bitOf (s.pil p).reqOff.toNat i) +
      4 * boolNat (bitOf (s.pil p).rspOff.toNat i) + 8 * boolNat (s.fenced p q)

/-- The messages waiting in all inboxes of a pillar. -/
def Pillar.waitingMessages (x : Pillar) : Nat := (x.msg.inboxes.toList.map fun b => b.messages.length).sum

/-- The window values of g56 to g63 as they are in this clk (R105-R107). -/
def State.windowNow (s : State) (n : Nat) : Word :=
  let x := s.me
  let box (i : Nat) : Inbox := x.msg.inboxes[i]?.getD {}
  match n with
  | 56 => word (inboxWindow (box 0))
  | 57 => word (inboxWindow (box 1))
  | 58 => word (inboxWindow (box 2))
  | 59 => word (inboxWindow (box 3))
  | 60 =>
    word (s.portByte s.curP .north 0 + 256 * s.portByte s.curP .east 1 + 65536 * s.portByte s.curP .south 2 +
      16777216 * s.portByte s.curP .west 3)
  | 61 =>
    let ne (i : Nat) : Nat := boolNat (!(box i).messages.isEmpty) * 2 ^ i
    word (16 * x.waitingMessages + ne 0 + ne 1 + ne 2 + ne 3)
  | _ => 0

/-- The window values that the current instruction sees (R105-R108): those at its issue, if the strand has waited in it. -/
def State.window (s : State) (n : Nat) : Word :=
  match s.st.sampled with
  | some w => w[n - 56]?.getD 0
  | none => s.windowNow n

/-- g56 to g63 as the window shows them in this clk (R108). -/
def State.sample (s : State) : Vector Word 8 := Vector.ofFn fun (i : Fin 8) => s.windowNow (56 + i.val)

/-- The contents of a general register, g0 as zero, without the window (R99, R104). -/
def Strand.reg (t : Strand) (n : Nat) : PWord := if n = 0 then {} else t.g[n]?.getD {}

/-- What a read of general register n gives (R99, R104). -/
def State.g (s : State) (n : Nat) : PWord :=
  if s.st.cw && 56 ≤ n then { bits := s.window n } else s.st.reg n

/-- The operand of the instruction that a strand waits in, as it was at its issue (R108). -/
def Strand.waitOperand (t : Strand) (n : Nat) : Word :=
  match t.cw && 56 ≤ n, t.sampled with
  | true, some w => w[n - 56]?.getD 0
  | _, _ => (t.reg n).bits

/-- Writes a general register; a write to g0 is discarded (R99). -/
def Strand.setReg (t : Strand) (n : Nat) (v : PWord) : Strand :=
  if n = 0 then t else { t with g := t.g.setIfInBounds n v }

/-- Writes a general register of the current strand. -/
def State.setG (s : State) (n : Nat) (v : PWord) : State := s.modSt fun t => t.setReg n v

/-- Writes an unpoisoned value. -/
def State.setGw (s : State) (n : Nat) (w : Word) : State := s.setG n { bits := w }

/-- A strand waits no more, in whatever instruction it waited, and the sample of that instruction goes (R89, R108). -/
def Strand.unblock (r : Strand) : Strand := { r with blocked := .no, sampled := none }

/-! ## TLBs -/

/-- A VA is canonical (R344). -/
def canonical (va : Word) : Bool := va.bits 63 57 == if bitOf va.toNat 56 then 127 else 0

/-- A TLB entry holds an address of an ASID (R353). -/
def TlbEntry.matches (e : TlbEntry) (asid : BitVec 16) (va : Word) : Bool :=
  (e.global || e.asid == asid) && canonical va && va.toNat % 2 ^ 57 / 2 ^ e.bits == e.va / 2 ^ e.bits

/-- Who translates: pillar, address space, level, and whether through the tile TLB, or, for a unit outside the pillars,
through host translations only (R343, R348, R353); whether it is a shuttle, which has the stack's TLB alone; whether it is the
stream of the tile load pipe (R195, R206), and whether its outgoing worms are discarded (R397). -/
structure Walker where
  p : PillarId
  asid : BitVec 16
  lvl : Nat
  tile : Bool := false
  direct : Bool := false
  shuttle : Bool := false
  stream : Bool := false
  discard : Bool := false
  deriving DecidableEq, Repr

/-- The TLB of a unit in its pillar (R353). -/
def State.ownTlb (s : State) (w : Walker) : List TlbEntry :=
  if w.shuttle then [] else if w.tile then (s.pil w.p).tileTlb else (s.pil w.p).dataTlb

/-- The entry of a TLB for an address (R353). -/
def hitTlb (w : Walker) (va : Word) (l : List TlbEntry) : Option TlbEntry := l.find? fun e => e.matches w.asid va

/-- The TLB entry that a unit finds: its own TLB first, then the stack's (R353); a unit outside the pillars finds only
host translations (R348). -/
def State.lookup (s : State) (w : Walker) (va : Word) : Option TlbEntry :=
  let stackTlb := (s.stack (stackOf w.p)).tlb
  if w.direct then hitTlb w va (stackTlb.filter (·.host)) else (hitTlb w va (s.ownTlb w)).or (hitTlb w va stackTlb)

/-- Counts a miss of the pillar's TLB, and one of the stack's TLB with its walk (R360). -/
def State.countMiss (s : State) (w : Walker) (missed walked : Bool) : State :=
  let st := stackOf w.p
  let s := s.modPil w.p fun p => p.count (if w.tile then 0x4B9 else 0x4B8) (boolNat (missed && !w.shuttle))
  (s.countStack st 0x4BA (boolNat walked)).countStack st 0x4BB (boolNat walked)

/-- A translation that gives no entry has missed: the misses, and the walk that ended in a fault or went to the host, count
(R360). -/
def State.noteMiss (s : State) (w : Walker) (va : Word) : State :=
  let missed := canonical va && (hitTlb w va (s.ownTlb w)).isNone
  if w.direct then s.countStack (stackOf w.p) 0x4BB (boolNat (canonical va && (s.lookup w va).isNone))
  else s.countMiss w missed (missed && (hitTlb w va (s.stack (stackOf w.p)).tlb).isNone)

/-- Who the current strand translates as (R343). -/
def State.walker (s : State) : Walker := { p := s.curP, asid := s.me.asid, lvl := s.st.lvl }

/-! ## How an instruction ends -/

/-- Why an instruction does not complete (R10, R89, R350). -/
inductive Stop where
  /-- A precise trap. -/
  | trap (cause : BitVec 8) (tval : Word)
  /-- The strand is not ready; the instruction runs again later. -/
  | wait
  /-- The strand is not ready until the host has translated an address for a unit (R348). -/
  | ats (w : Walker) (va : Word)
  /-- A page fault at an address, for a read or a write. -/
  | pageFault (cause : BitVec 8) (va : Word) (write : Bool)
  deriving DecidableEq, Repr

/-- What a part of an instruction gives: a result or the reason to stop. -/
abbrev Act (α : Type) := Except Stop α

/-- An outcome of the machine. -/
abbrev Out := Host.Outcome State Fault Refusal

/-- Changes the state of an outcome. -/
def mapNext (f : State → State) (o : Out) : Out :=
  match o with
  | .next s => .next (f s)
  | .fault e => .fault e
  | .refused e => .refused e

/-- Stops with a trap unless a condition holds. -/
def check (ok : Bool) (cause : BitVec 8) (tval : Word) : Act Unit := if ok then .ok () else .error (.trap cause tval)

/-- Waits unless a condition holds. -/
def waitFor (ok : Bool) : Act Unit := if ok then .ok () else .error .wait

/-- The length of an instruction in words (R13). -/
def instrLen (i : Instr) : Nat :=
  match i.row with
  | some (r, f) => f.prefixes r.page + 1
  | none => 0

/-- The PC of the next instruction (R29). -/
def State.nextPc (s : State) (i : Instr) : LsAddr := s.st.pc + BitVec.ofNat 19 (2 * instrLen i)

/-- Sets the PC of the current strand. -/
def State.setPc (s : State) (pc : LsAddr) : State := s.modSt fun t => { t with pc := pc }

/-- The current strand's next instruction issues no earlier than n clk of its pillar from now (R4, R109). -/
def State.issueAfter (s : State) (n : Nat) : State := s.modSt fun t => { t with notBefore := s.aclk s.curP + n }

/-! ## The handler chain -/

/-- LINKi of a CHAIN value (R375). -/
def chainLink (c : Word) (i : Nat) : PillarId := BitVec.ofNat 10 (c.bits (10 * i + 9) (10 * i))

/-- The lowest link that qualifies, above a number of hops (R376). -/
def chainNext (c : Word) (p : PillarId) (above : Option Nat) : Option Nat :=
  (List.range (min (c.bits 42 40) 4)).find? fun i =>
    chainLink c i != p && (match above with | some h => h < i | none => true)

/-- A job is live: admitted and not ended, refused, cancelled or killed (R80). -/
def Job.live (j : Job) : Bool := j.state.toNat ≤ 5 && j.state != 0x04

/-- The status word of a job (R79). -/
def Job.statusWord (j : Job) : Word :=
  let (r, c) := match j.rect with | some x => (x.row0, x.col0) | none => (0, 0)
  word (j.state.toNat * 2 ^ 56 + j.detail.toNat * 2 ^ 48 + j.exitCode.toNat * 2 ^ 32 + boolNat j.predUnknown * 2 ^ 31 +
    c * 32 + r)

/-- A job takes a state; the status word is queued at every change (R79). DESIGN CHOICE: detail 7 alone suppresses it, so that a
record refused by an earlier check has its word written even at a misaligned STATVA (log entry 86). -/
def Job.enter (j : Job) (state detail : BitVec 8) : Job :=
  let j := { j with state := state, detail := detail }
  if j.record.statVa == 0 || (state == 0x10 && detail == 7) then j
  else { j with statusQueue := j.statusQueue ++ [j.statusWord] }

/-- Changes one job. -/
def State.modJob (s : State) (n : Nat) (f : Job → Job) : State :=
  { s with launch := { s.launch with jobs := s.launch.jobs.map fun j => if j.number == n then f j else j } }

/-- Adds to a counter of the launch unit (R412). -/
def State.countLaunch (s : State) (n : Nat) (k : Nat := 1) : State :=
  { s with launch := { s.launch with counters := addCount s.launch.counters n k } }

/-- A job leaves the live set with a state: its outcome is kept among the last 1,024, and it is counted (R80, R412). -/
def State.retire (s : State) (j : Job) (state detail : BitVec 8) : State :=
  let s := s.modJob j.number fun j => j.enter state detail
  let s := { s with launch := { s.launch with
    outcomes := ((j.record.jobId, state) :: s.launch.outcomes).take 1024 } }
  match state.toNat with
  | 0x04 => s.countLaunch 4
  | 0x20 => s.countLaunch 2
  | 0x21 | 0x22 => s.countLaunch 3
  | _ => s.countLaunch 1

/-- Containment or a stack halt kills a job (R88, R377). -/
def State.killJob (s : State) (n : Nat) : State :=
  match s.launch.jobs.find? fun j => j.number == n && j.live with
  | some j => s.retire j (if j.handedOff then 0x22 else 0x21) 0
  | none => s

/-- A stack halts (R377): its pillars stop issuing, the jobs that hold a pillar of it are killed, with their pillars to be
reset and scrubbed (R88), and the host is told. -/
def State.haltStack (s : State) (n : Nat) (m : Option TrapMessage) : State :=
  let jobs := s.launch.jobs.filter fun j =>
    match j.rect with
    | some r => (s.seats j.number r).any fun p => stackOf p == n && (s.pil p).job == some j.number
    | none => false
  let s := s.modStack n fun x => { x with halted := true, lastTrap := m.or x.lastTrap }
  let reaps : List DevEffect := jobs.map fun (j : Job) => DevEffect.reap j.number
  let s : State := { s with effects := s.effects ++ reaps }
  (jobs.foldl (fun s j => s.killJob j.number) s).raiseVector 0

/-- Sends a trap message of a pillar along the chain of its stack, or halts the stack (R376, R377). -/
def State.sendTrapMessage (s : State) (p : PillarId) (above : Option Nat) (fwd : Nat → Vector Word 8) : State :=
  let n := stackOf p
  let c := (s.stack n).chain
  match chainNext c p above with
  | some i =>
    let m : TrapMessage := { dst := chainLink c i, fwd := fwd i }
    State.countStack { s with trapMessages := s.trapMessages ++ [m] } n 0x4C6
  | none => s.haltStack n (some { dst := p, fwd := fwd 0 })

/-! ## Traps -/

/-- The bank of a level (R364). -/
def Strand.bank (t : Strand) (lvl : Nat) : Bank := if lvl = 3 then t.machine else t.supervisor

/-- Writes the bank of a level (R364). -/
def Strand.setBank (t : Strand) (lvl : Nat) (b : Bank) : Strand :=
  if lvl = 3 then { t with machine := b } else { t with supervisor := b }

/-- The handler level of a cause (R371). -/
def causeLevel (c : BitVec 8) : Nat := if c == 0x09 || c == 0x6B || c == 0x84 then 3 else 1

/-- A trap to be taken: cause, value, the sequence number of a late fault, and whether it is an interrupt (R366). -/
structure TrapEvent where
  cause : BitVec 8
  tval : Word
  late : Option (BitVec 16) := none
  interrupt : Bool := false
  deriving DecidableEq, Repr

/-- The target level of a trap at a level; `none` for the handler chain (R366). -/
def trapTarget (e : TrapEvent) (cur : Nat) : Option Nat :=
  let tgt := max (causeLevel e.cause) cur
  if e.interrupt then some tgt
  else
    let tgt := if tgt = 1 && cur = 1 then 3 else tgt
    if tgt = 3 && cur = 3 then none else some tgt

/-- TCAUSE of a trap (R364, R366). -/
def trapCause (e : TrapEvent) (t : Strand) : Word :=
  word (e.cause.toNat + boolNat e.late.isSome * 2 ^ 14 + boolNat t.inFibre * 2 ^ 15 + t.lvl * 2 ^ 16 +
    (if t.inFibre then t.slot else 0) * 2 ^ 24)

/-- TSEQ of a trap (R364, R366). -/
def trapSeq (e : TrapEvent) : Word := match e.late with | some q => word (2 ^ 16 + q.toNat) | none => 0

/-- STATUS after trap entry (R366). -/
def trapStatus (st : Word) (tgt : Nat) : Word :=
  setBits (setBits (setBits (setBits st 7 6 tgt) 8 8 0) 5 5 0) 11 11 (boolNat (tgt == 3))

/-- The fibre mode of a strand whose fibre has raised a trap (R366). -/
def Strand.enterHandler (t : Strand) : Strand :=
  match t.modes with
  | m :: ms => { t with modes := { m with handler := true } :: ms }
  | [] => t

/-- The strand part of taking a trap at a level (R366): the bank, STATUS and the PC. -/
def Strand.enterTrap (t : Strand) (x : Pillar) (e : TrapEvent) (tgt : Nat) (clk : Nat) : Strand :=
  let b : Bank :=
    { t.bank tgt with
      tpc := t.pc, tcause := trapCause e t, tval := e.tval, tseq := trapSeq e, tstatus := t.status }
  let t : Strand := if t.inFibre then t.enterHandler else t
  let t : Strand := t.setBank tgt b
  { t with
    status := trapStatus t.status tgt, blocked := .no, sampled := none, notBefore := clk + 6
    pc := if tgt = 1 then x.stvec else x.mtvec }

/-- The trap message of a frozen strand with a number of hops (R376). -/
def Strand.trapMessage (t : Strand) (p : PillarId) (n : StrandId) (e : TrapEvent) (hops : Nat) : Vector Word 8 :=
  #v[word (2 ^ 63 + p.toNat * 2 ^ 48 + n.val * 2 ^ 46 + hops * 2 ^ 43 + e.cause.toNat), e.tval,
    t.pc.setWidth 64, trapSeq e, t.machine.tpc.setWidth 64, t.machine.tcause, t.machine.tval, t.machine.tstatus]

/-- The faults that a counter of the pillar counts by cause (R163, R245). -/
def State.countCause (s : State) (c : BitVec 8) : State :=
  match c.toNat with
  | 0x11 => s.count 0x400
  | 0x12 => s.count 0x401
  | 0x28 => s.count 0x483
  | _ => s

/-- The current strand takes a trap (R366), or freezes and sends a trap message (R376). -/
def State.takeTrap (s : State) (e : TrapEvent) : State :=
  let t := s.st
  let s := s.countCause e.cause
  match trapTarget e t.lvl with
  | some tgt => (s.modSt fun t => t.enterTrap s.me e tgt (s.aclk s.curP)).count 0x4C0
  | none =>
    let above := if t.machine.tcause.bits 7 0 = 0x84 then some (t.machine.tval.bits 45 43) else none
    State.sendTrapMessage (s.modSt fun t => { t.unblock with run := .frozen }) s.curP above
      (t.trapMessage s.curP s.curT e)

/-- TRET's check of the saved STATUS (R379). -/
def retStatusOk (st : Word) (lvl : Nat) : Bool :=
  st.bits 7 6 != 2 && st.bits 7 6 ≤ lvl && (!bitOf st.toNat 11 || lvl == 3)

/-- The bits of STATUS that are not reserved (R362). -/
def statusMask : Word := 0xFE3

/-- The fibre mode after TRET: the strand continues the fibre of TCAUSE.SLOT (R379). -/
def resumeFibre (modes : List FibreMode) (slot : Nat) : List FibreMode :=
  match modes.dropWhile fun m => m.slot.map (·.toNat) != some slot with
  | m :: ms => { m with handler := false } :: ms
  | [] => modes

/-- The strand part of the return from a trap (R379). -/
def Strand.leaveTrap (t : Strand) (clk : Nat) : Strand :=
  let b := t.bank t.lvl
  { t with
    status := b.tstatus &&& statusMask, pc := b.tpc, notBefore := clk + 3
    modes := if bitOf b.tcause.toNat 15 then resumeFibre t.modes (b.tcause.bits 31 24) else t.modes }

/-! ## Page requests -/

/-- PREQ of a request for a page (R351). -/
def preqWord (va : Word) (state : Nat) : Word := word (state * 2 ^ 61 + va.bits 56 12 * 2 ^ 12)

/-- Asks the host for the translation of a page, unless the stack has asked already (R348, R349, R354): one miss, and a walk that
went to the host (R360). -/
def State.askAts (s : State) (w : Walker) (va : Word) : State :=
  let r : AtsRequest := { stack := stackOf w.p, asid := w.asid, va := word (va.bits 63 12 * 4096) }
  if s.host.ats.any fun q => q.stack == r.stack && q.asid == r.asid && q.va == r.va then s
  else
    let s := s.noteMiss w va
    { s with host := { s.host with ats := s.host.ats ++ [r] } }

/-- The misses of a translation that ended in a fault are counted (R360). -/
def State.noteFault (s : State) (w : Walker) : Stop → State
  | .pageFault _ va _ => s.noteMiss w va
  | .trap c va => if c == 0x05 then s.noteMiss w va else s
  | _ => s

/-- Sends a page request (R350). After a Response Failure it fails at once until PRI is enabled again: the result is
then `none`. -/
def State.sendPageRequest (s : State) (p : PillarId) (asid : BitVec 16) (va : Word) (write : Bool) (r : Requester) :
    State × Option Nat :=
  let s := s.countStack (stackOf p) 0x4BD
  let s : State := { s with host := { s.host with noRights := s.host.noRights.filter (· != (asid, va.bits 56 12)) } }
  if s.host.priEnabled then
    let n := s.host.nextRequest
    ({ s with host := { s.host with
        nextRequest := n + 1
        requests := s.host.requests ++
          [{ id := n, asid := asid, va := word (va.bits 63 12 * 4096), write := write, requester := r }] } }, some n)
  else (s, none)

/-- A strand's page request, tracked in its PREQ (R351). -/
def State.requestFor (s : State) (p : PillarId) (t : StrandId) (va : Word) (write : Bool) : State :=
  let (s, id) := s.sendPageRequest p (s.pil p).asid va write (.strand p t)
  s.modStrand p t fun t => { t with preq := preqWord va (if id.isSome then 4 else 1), preqId := id }

/-! ## Leaving fibres -/

/-- The registers g1 to g8. -/
def Strand.g18 (t : Strand) : Vector PWord 8 := Vector.ofFn fun (i : Fin 8) => t.reg (i.val + 1)

/-- Writes g1 to g8. -/
def Strand.setG18 (t : Strand) (r : Vector PWord 8) : Strand :=
  { t with g := (List.range 8).foldl (fun g n => g.setIfInBounds (n + 1) (r[n]?.getD {})) t.g }

/-- A fibre slot of a pillar. -/
def Pillar.fibre (x : Pillar) (n : Nat) : FibreSlot := x.fibres.getD n {}

/-- Changes a fibre slot. -/
def Pillar.modFibre (x : Pillar) (n : Nat) (f : FibreSlot → FibreSlot) : Pillar :=
  { x with fibres := x.fibres.set n (f (x.fibre n)) }

/-- The fibre leaves the runner (R154, R160): FBCUR keeps its slot without VALID, and the runner waits. -/
def Strand.leaveFibre (t : Strand) (clk : Nat) : Strand :=
  match t.modes with
  | m :: ms => { t with modes := { m with slot := none, since := clk } :: ms, pc := m.pc, fbcur := t.fbcur &&& 0xFF }
  | [] => t

/-- Stores the running fibre's PC and g1-g8 to its slot (R154). -/
def State.storeFibre (s : State) (pc : LsAddr) (f : FibreSlot → FibreSlot) : State :=
  let t := s.st
  let s := s.modMe fun x => x.modFibre t.slot fun y => f { y with pc := pc, regs := t.g18 }
  s.modSt fun t => if t.modes.isEmpty then t else { t.leaveFibre (s.aclk s.curP) with notBefore := s.aclk s.curP + 6 }

/-- A runner that waits without a fibre abandons FRUN, which runs again after the handler (R153, R382). -/
def Strand.abandonRun (t : Strand) : Strand :=
  match t.modes with
  | m :: ms => if m.slot.isNone then Strand.setG18 { t with modes := ms, pc := m.pc } m.saved else t
  | [] => t

/-- FRUN ends with a value: fibre mode is left, g1-g8 are restored, and g[d] is written (R153). -/
def Strand.endRun (t : Strand) (v : Word) : Strand :=
  match t.modes with
  | m :: ms => (Strand.setG18 { t.unblock with modes := ms, pc := m.ret } m.saved).setReg m.dest { bits := v }
  | [] => t

/-- A page fault in fibre code: the upcall of FRUN (R160). DESIGN CHOICE: FRUN returns code 3 although a stop has been requested
(log entry 96). -/
def State.upcall (s : State) (cause : BitVec 8) (va : Word) (write : Bool) : State :=
  let t := s.st
  let j := t.slot
  let (s, id) := s.sendPageRequest s.curP s.me.asid va write (.fibre s.curP (BitVec.ofNat 8 j))
  let s := s.storeFibre t.pc fun y =>
    match id with
    | some n => { y with state := .faulted, request := some n, faultVa := va }
    | none => { y with state := .ready, fault := some (0x0B, va) }
  let s := if id.isSome then s else s.modMe fun x => { x with runQueue := j :: x.runQueue }
  let s := s.modSt fun t =>
    { t.endRun (word (3 + cause.toNat * 2 ^ 16)) with fuval := va, fbcur := BitVec.ofNat 9 (256 + j) }
  s.count 0x415

/-- The state after an instruction that did not complete. -/
def State.stopped (s : State) (i : Instr) : Stop → State
  | .trap c v => (s.noteFault s.walker (.trap c v)).takeTrap { cause := c, tval := v }
  | .wait => s.modSt fun t => { t with blocked := .wait i }
  | .ats w va => (s.askAts w va).modSt fun t => { t with blocked := .wait i }
  | .pageFault c va w =>
    let s := s.noteMiss s.walker va
    if s.st.inFibre then s.upcall c va w
    else (s.requestFor s.curP s.curT va w).takeTrap { cause := c, tval := va }

/-- In fibre code a destination in g9 to g63 is refused before anything else (R102, R152). -/
def State.destOk (s : State) (d : Nat) : Act Unit := check (!(s.st.inFibre && 9 ≤ d)) 0x1B (word d)

/-- How an instruction that sets the PC itself ends. -/
def finishAt (i : Instr) (s : State) (r : Act State) : Out :=
  match r with
  | .ok s' => .next s'
  | .error e => .next (s.stopped i e)

/-- How an instruction ends: with the PC after it, or with a trap, a wait or a page fault of the state before it
(R10). -/
def finish (i : Instr) (s : State) (r : Act State) : Out :=
  finishAt i s (r.map fun s' => s'.setPc (s.nextPc i))

/-! ## The dispatch ring -/

/-- The classes of the register fields d, s and t of an instruction (R23, R374). -/
def fieldClasses (r : Row) (f : Fields) : Cls × Cls × Cls :=
  let p := f.reg.isSome
  let either (c c' : Cls) : Cls := if c == .g || c' == .g then .g else c
  let g (c : Cls) : Cls := if c == .shOrG && bitOf f.mod.toNat 0 then .g else c
  match r.form with
  | .rr2 | .rr2n => if p then (r.d, r.a, r.b) else (either r.d r.a, r.b, .none)
  | .rr1 => (r.d, g r.a, .none)
  | .ri | .ris => if p then (r.d, .none, r.a) else (either r.d r.a, .none, .none)
  | .m => (r.d, r.a, if f.qNum == 0 then .none else r.b)
  | .b => (r.d, r.a, .none)
  | .rrt => (r.d, r.a, r.b)
  | .rrw => (r.a, r.b, .none)

/-- The value of a field that names a general register, zero for another class (R374). -/
def State.fieldG (s : State) (c : Cls) (n : Nat) : PWord := if c == .g then s.g n else {}

/-- VROT, whose immediate, unlike that of other instructions of its form that an engine executes, is unsigned (R188). -/
def isVrot (r : Row) : Bool := r.page == 4 && r.op == 11

/-- The immediate or displacement of an instruction, extended as its form and its instruction give (R17, R188, R374). -/
def formImm (r : Row) (f : Fields) : Word :=
  match r.form with
  | .ri => if isVrot r then word f.immU else wordOfInt f.immS
  | .ris => word f.immU
  | .m | .b => wordOfInt f.disp
  | _ => 0

/-- The code of an engine (R374). -/
def engineCode : Engine → Nat
  | .vector => 0 | .matrix => 1 | .tile => 2 | .message => 3

/-- The six dwords of a ring entry at dispatch, with the poison marks of the registers captured (R12, R374). -/
def State.ringDwords (s : State) (e : Engine) (r : Row) (f : Fields) (d : Dispatched) : List PWord :=
  let reg := (f.reg.map RegFields.payload).getD 0
  let qual := (f.qual.map QualFields.payload).getD 0
  [{ bits := word (d.seq.toNat * 2 ^ 48 + d.strand.val * 2 ^ 46 + engineCode e * 2 ^ 44 + 2 ^ 43 + d.lvl.toNat * 2 ^ 40 +
      r.page * 2 ^ 36 + f.mod.toNat * 2 ^ 29 + s.st.pc.toNat) },
    { bits := word ((baseWord r.op f.d f.s).toNat * 2 ^ 48 + reg.toNat * 2 ^ 37 + qual.toNat * 2 ^ 26 +
      (if e == .matrix then d.fmt.bits 15 0 else 0)) },
    { bits := formImm r f }, d.gs, d.gt, d.gd]

/-- A ring entry may not be overwritten (R373). -/
def RingEntry.kept (r : RingEntry) : Bool := !r.ended || r.faulting || r.handling

/-- An engine of a pillar. -/
def Pillar.engine (x : Pillar) : Engine → EngineUnit
  | .vector => x.vec | .matrix => x.mtx.unit | .tile => x.tile.unit | .message => x.msg.unit

/-- Changes an engine of a pillar. -/
def Pillar.modEngine (x : Pillar) (e : Engine) (f : EngineUnit → EngineUnit) : Pillar :=
  match e with
  | .vector => { x with vec := f x.vec }
  | .matrix => { x with mtx := { x.mtx with unit := f x.mtx.unit } }
  | .tile => { x with tile := { x.tile with unit := f x.tile.unit } }
  | .message => { x with msg := { x.msg with unit := f x.msg.unit } }

/-- The queue of a strand in an engine. -/
def EngineUnit.queue (u : EngineUnit) (t : StrandId) : List Dispatched := u.queues[t]

/-- Replaces the queue of a strand. -/
def EngineUnit.setQueue (u : EngineUnit) (t : StrandId) (q : List Dispatched) : EngineUnit :=
  { u with queues := u.queues.set t q }

/-- The queue has room and the ring entry of the next sequence number is free (R93, R373). -/
def State.canDispatch (s : State) (e : Engine) : Bool :=
  let x := s.me
  ((x.engine e).queue s.curT).length < 2 &&
    (match x.ring.get? (x.seqCounter.toNat % 64) with | some r => !r.kept | none => true)

/-- Waits until the instruction can be dispatched; its checks come first (R93, R373). -/
def State.room (s : State) (e : Engine) : Act Unit := waitFor (s.canDispatch e)

/-- What dispatch captures of an instruction (R93, R101). -/
def State.capture (s : State) (i : Instr) : Dispatched :=
  let base : Dispatched :=
    { seq := s.me.seqCounter, strand := s.curT, lvl := BitVec.ofNat 2 s.st.lvl, instr := i, fmt := s.st.fmt, ord := s.st.worms }
  match i.row with
  | some (r, f) =>
    let (cd, cs, ct) := fieldClasses r f
    { base with gd := s.fieldG cd f.dNum, gs := s.fieldG cs f.sNum, gt := s.fieldG ct f.tNum }
  | none => base

/-- Dispatch of a captured instruction to an engine: its ring entry, its sequence number, its queue (R93, R373). -/
def State.dispatchAs (s : State) (e : Engine) (d : Dispatched) : State :=
  let entry : RingEntry :=
    { seq := d.seq, ended := false, faulting := false, handling := false
      dwords := match d.instr.row with | some (r, f) => s.ringDwords e r f d | none => [] }
  (s.modMe fun x =>
    { x.modEngine e (fun u => u.setQueue d.strand (u.queue d.strand ++ [d])) with
      ring := x.ring.set (d.seq.toNat % 64) entry, seqCounter := x.seqCounter + 1 }).modSt fun r => { r with worms := r.worms + 1 }

/-- Dispatch of an instruction to an engine. -/
def State.dispatch (s : State) (e : Engine) (i : Instr) : State := s.dispatchAs e (s.capture i)

/-- Changes the ring entry of a sequence number. -/
def Pillar.modRing (x : Pillar) (seq : BitVec 16) (f : RingEntry → RingEntry) : Pillar :=
  match x.ring.get? (seq.toNat % 64) with
  | some r => if r.seq == seq then { x with ring := x.ring.set (seq.toNat % 64) (f r) } else x
  | none => x

/-- An instruction has ended (R373). -/
def Pillar.endSeq (x : Pillar) (seq : BitVec 16) : Pillar := x.modRing seq fun r => { r with ended := true }

/-- How long ago a sequence number was given, by the wrapping counter (R373). -/
def Pillar.age (x : Pillar) (seq : BitVec 16) : Nat := (x.seqCounter - seq).toNat

/-- Inserts a late fault in dispatch order (R368). -/
def Pillar.insertLate (x : Pillar) (e : LateFault) : List LateFault → List LateFault
  | [] => [e]
  | y :: l => if x.age y.seq < x.age e.seq then e :: y :: l else y :: x.insertLate e l

/-- An engine raises a late fault: it is held, and the instruction has ended (R368, R373). -/
def Pillar.raiseLate (x : Pillar) (t : StrandId) (e : LateFault) : Pillar :=
  let x := x.modStrand t fun r => { r with lates := x.insertLate e r.lates }
  if e.ringed then x.modRing e.seq fun r => { r with ended := true, faulting := true } else x

/-- The late fault of a dispatched instruction. -/
def Dispatched.late (d : Dispatched) (cause : BitVec 8) (tval : Word) : LateFault :=
  { seq := d.seq, lvl := d.lvl, cause := cause, tval := tval }

/-- The late faults of a strand that it may take at its level (R368). -/
def Strand.deliverable (t : Strand) : Option LateFault := t.lates.find? fun e => t.lvl ≤ e.lvl.toNat

/-- The current strand takes a late fault (R368). -/
def State.deliver (s : State) (e : LateFault) : State :=
  let s := if e.ringed then s.modMe fun x => x.modRing e.seq fun r => { r with faulting := false, handling := true } else s
  let s := s.modSt fun t => { t.abandonRun with lates := t.lates.filter fun a => a != e }
  (s.takeTrap { cause := e.cause, tval := e.tval, late := some e.seq }).count 0x4C1

end Sys2Proof.Machine
end

