-- ==== Sys2Proof/Machine/Operands.lean ====
section
/-! DEFINITION. Every operand form: which register a field names, immediates, effective addresses
(01_instruction_words.md R17-R25, 04_general_registers.md R110, R121). -/

namespace Sys2Proof.Machine

/-- The register of source A in a two-source RR form: s with REG, d without (R23). -/
def rrA (f : Fields) : Nat := if f.reg.isSome then f.sNum else f.dNum

/-- The register of source B in a two-source RR form: t with REG, s without (R23). -/
def rrB (f : Fields) : Nat := if f.reg.isSome then f.tNum else f.sNum

/-- The register of source A in an RI form: t with REG, d without (R23). -/
def riA (f : Fields) : Nat := if f.reg.isSome then f.tNum else f.dNum

/-- The signed immediate as a word (R17). -/
def immWord (f : Fields) : Word := wordOfInt f.immS

/-- The displacement as a word (R18). -/
def dispWord (f : Fields) : Word := wordOfInt f.disp

/-- TVAL of a poisoned register operand in a role (R372): 0 first compare operand or jump target, 1 second compare
operand, 2 base, 3 index. -/
def poisonReg (role n : Nat) : Word := word (role * 64 + n)

/-- Takes the poison trap on a poisoned register operand (R110, R372). -/
def notPoison (role n : Nat) (v : PWord) : Act Word :=
  if v.bad then .error (.trap 0x0D (poisonReg role n)) else .ok v.bits

/-- The index of an M form: g[t] scaled by 2^(q-1), zero when q is 0 (R18, R121). -/
def State.mIndex (s : State) (f : Fields) : Act Word :=
  if f.qNum = 0 then .ok 0
  else do
    let x ← notPoison 3 f.tNum (s.g f.tNum)
    .ok (x <<< (f.qNum - 1))

/-- The address of an M form: base + index + displacement modulo 2^64 (R121). -/
def State.mAddr (s : State) (f : Fields) : Act Word := do
  let base ← notPoison 2 f.sNum (s.g f.sNum)
  let idx ← s.mIndex f
  .ok (base + idx + dispWord f)

/-- A value of n bytes extended to 64 bits, signed or not (R11). -/
def extend (signed : Bool) (n : Nat) (v : Nat) : Word := if signed then wordOfInt (sextNat v (8 * n)) else word (v % 2 ^ (8 * n))

/-- The size and signed fields of R34: bytes, and whether the value is sign-extended. -/
def sizeOf (m : BitVec 7) : Nat := 2 ^ bitsOf m.toNat 1 0

/-- The signed bit of R34. -/
def signedOf (m : BitVec 7) : Bool := bitOf m.toNat 2

/-- The value that an unpoisoned or poisoned source pair gives (R12). -/
def pword (w : Word) (bad : Bool) : PWord := { bits := w, bad := bad }

end Sys2Proof.Machine
end

