-- ==== Sys2Proof/Machine/Memory.lean ====
section
/-! DEFINITION. Local store, the global physical memory, page-table walks, the TLBs and the reach of an access across
the package (05_local_store.md, 08_vault.md R193-R195, R465, 14_translation.md, 16_integrity.md R403). -/

namespace Sys2Proof.Machine

/-! ## Local store -/

/-- The end of populated local store (R126). -/
def lsEnd : Nat := 0x60000

/-- XB (R127). -/
def Pillar.xb (x : Pillar) : Nat := x.xbKb * 1024

/-- The range check of R126 for n bytes at an address that does not wrap (R135). -/
def Pillar.lsFault (x : Pillar) (ea n : Nat) : Option (BitVec 8) :=
  if ea + n > lsEnd then some 0x13 else if ea < x.xb then some 0x14 else none

/-- The checks of R135: alignment, populated, not below XB. -/
def State.lsCheck (s : State) (ea : Word) (n : Nat) : Act Unit := do
  check (ea.toNat % n == 0) 0x1A ea
  match s.me.lsFault ea.toNat n with
  | some c => .error (.trap c ea)
  | none => .ok ()

/-- The number of 8-byte words that n bytes at an address touch. -/
def wordsTouched (a n : Nat) : Nat := if n = 0 then 0 else (a + n - 1) / 8 - a / 8 + 1

/-- Reads n bytes of local store with their poison (R137, R138). -/
def LocalStore.load (l : LocalStore) (a n : Nat) : Nat × Bool :=
  (l.bytes.read a n, l.bad.hasAny (a / 8) (wordsTouched a n))

/-- The poison marks after a write: poisoned data mark every word they touch, good data clear the words they cover
(R138, R12). -/
def badAfter (m : NatSet) (unit a n : Nat) (bad : Bool) : NatSet :=
  if n = 0 then m
  else if bad then m.putRange (a / unit) true ((a + n - 1) / unit - a / unit + 1)
  else m.putRange ((a + unit - 1) / unit) false ((a + n) / unit - (a + unit - 1) / unit)

/-- Writes n bytes of local store; full/empty bits stay as they are (R139). -/
def LocalStore.store (l : LocalStore) (a n v : Nat) (bad : Bool) : LocalStore :=
  { l with bytes := l.bytes.write a n v, bad := badAfter l.bad 8 a n bad }

/-- The slots of the tag table that n bytes at an address touch become dirty when filling or valid (R145). -/
def TagTable.markDirty (g : TagTable) (a n : Nat) : TagTable :=
  let lo := g.baseKb * 1024
  { g with slots := { entries := g.slots.entries.map fun e =>
      let first := lo + e.1 * 1024
      if e.1 < g.count && first < a + n && a < first + 1024 && (e.2.state == 1 || e.2.state == 2) then
        (e.1, { e.2 with dirty := true })
      else e } }

/-- A write of n bytes by any party but a fill (R145). -/
def Pillar.lsWrite (x : Pillar) (a n v : Nat) (bad : Bool) : Pillar :=
  { x with ls := x.ls.store a n v bad, tags := x.tags.markDirty a n }

/-- Sets or clears the full/empty bits of n words. -/
def Pillar.setEmpty (x : Pillar) (wordNo : Nat) (empty : Bool) (n : Nat) : Pillar :=
  { x with ls := { x.ls with empty := x.ls.empty.putRange wordNo empty n } }

/-- A whole word written by an engine or a vault agent, full in the same clk (R139). -/
def Pillar.lsWriteFull (x : Pillar) (a v : Nat) (bad : Bool) : Pillar := (x.lsWrite a 8 v bad).setEmpty (a / 8) false 1

/-- A word is full (R139). -/
def Pillar.isFull (x : Pillar) (a : Nat) : Bool := !x.ls.empty.has (a / 8)

/-- A list of bytes as a number, little-endian (R6). -/
def natOfBytes : List Byte → Nat
  | [] => 0
  | b :: bs => b.toNat + 256 * natOfBytes bs

/-- The n low bytes of a number, little-endian (R6). -/
def bytesOfNat : Nat → Nat → List Byte
  | 0, _ => []
  | n + 1, v => BitVec.ofNat 8 v :: bytesOfNat n (v / 256)

/-! ## Physical memory -/

/-- The vault address of an offset (R340). -/
def vaultPa (p : PillarId) (off : Nat) : Nat := p.toNat * 2 ^ 36 + off

/-- The base of the second tier (R340). -/
def tierBase : Nat := 2 ^ 46

/-- The size of the second tier (R340). -/
def tierSize : Nat := 0xC000000000

/-- What a physical address names (R340). -/
def placeOf (pa : Nat) : Place :=
  match pa / 2 ^ 46 % 4 with
  | 0 => .vault (BitVec.ofNat 10 (pa / 2 ^ 36)) (pa % 2 ^ 28)
  | 1 => .tier (pa % 2 ^ 46)
  | 2 => .peer (BitVec.ofNat 10 (pa / 2 ^ 36)) (pa % 2 ^ 36)
  | _ => if bitOf pa 45 then .host (pa % 2 ^ 45) else .device (pa % 2 ^ 45)

/-- The address lies in the populated part of its region, or in vault layers 12 to 15 (R340). -/
def State.populated (s : State) (pa : Nat) : Bool :=
  match pa / 2 ^ 46 % 4 with
  | 0 => bitsOf pa 35 28 == 0
  | 1 => pa % 2 ^ 46 < tierSize
  | 2 => bitsOf pa 45 36 != s.host.peerId.toNat
  | _ => !bitOf pa 45

/-- The DRAM row of a vault that holds an offset (R193). -/
def rowOf (off : Nat) : Nat := off / 8192

/-- The bank of a DRAM row: layer × 4 + bank in the layer (R193). -/
def bankOf (row : Nat) : Nat := row / 2048 * 4 + row % 4

/-- Some byte of a range reads as poisoned: it lies in a marked 32-byte unit (R465). -/
def State.physBad (s : State) (pa n : Nat) : Bool :=
  s.memBad.hasAny (pa / 32) (if n = 0 then 0 else (pa + n - 1) / 32 - pa / 32 + 1)

/-- Reads n bytes of a vault or of the second tier with their poison (R465). -/
def State.physRead (s : State) (pa n : Nat) : Nat × Bool := (s.mem.read pa n, s.physBad pa n)

/-- Writes n bytes of a vault or of the second tier in one access (R465). -/
def State.physWrite (s : State) (pa n v : Nat) (bad : Bool) : State :=
  { s with mem := s.mem.write pa n v, memBad := badAfter s.memBad 32 pa n bad }

/-- The rows that a pin holds in a clk: the stream's, and those of other users' beats (R195). -/
def Vault.pins (v : Vault) (clk : Nat) : List Nat := v.pinned ++ (v.beats.filter fun b => clk < b.2).map (·.1)

/-- No pin keeps a closed row from being opened (R195): its bank's open row is not pinned, and a row may close. -/
def Vault.canOpen (v : Vault) (row clk : Nat) : Bool :=
  let bank := v.openRows.filter fun r => bankOf r == bankOf row
  bank.all (fun r => !(v.pins clk).contains r) &&
    (!bank.isEmpty || v.openRows.length + v.activating.length < 16 || v.openRows.any fun r => !(v.pins clk).contains r)

/-- An open row is used: it becomes the most recent of the open rows (R195). -/
def Vault.useRow (v : Vault) (row : Nat) : Vault := { v with openRows := row :: v.openRows.filter (· != row) }

/-- The layer of a vault row (R193). -/
def layerOf (row : Nat) : Nat := row / 2048

/-- A layer is throttled (R211). -/
def Vault.throttled (v : Vault) (layer : Nat) : Bool := bitOf v.vtherm.toNat (24 + layer)

/-- The distance between activations of a layer (R196). -/
def Vault.layerGap (v : Vault) (layer : Nat) : Nat := if v.throttled layer then 16 else 8

/-- The first clk from a given one in which an activation of a row may start (R196). -/
def Vault.startClk (v : Vault) (row clk gap : Nat) : Nat :=
  let a := match v.lastStart with | some c => max clk (c + 4) | none => clk
  match v.layerStart.get? (layerOf row) with | some c => max a (c + gap) | none => a

/-- The open rows that the opening of a row leaves: none other in its bank, and, when sixteen are open or opening, not the
least recent that no pin holds (R195). -/
def Vault.makeRoom (v : Vault) (row clk : Nat) : List Nat :=
  let others := v.openRows.filter fun r => bankOf r != bankOf row
  if others.length + v.activating.length < 16 then others
  else
    match others.reverse.find? fun r => !(v.pins clk).contains r with
    | some r => others.filter (· != r)
    | none => others

/-- Requests the activation of a row: it starts at the rate of R196 and takes 32 clk. -/
def Vault.request (v : Vault) (row clk : Nat) : Vault :=
  let start := v.startClk row clk (v.layerGap (layerOf row))
  let slow := start - v.startClk row clk 8
  { v with
    openRows := v.makeRoom row clk
    slowed := if slow = 0 then v.slowed.erase row else v.slowed.set row slow
    activating := v.activating ++ [(row, start + 32)], lastStart := some start
    layerStart := v.layerStart.set (layerOf row) start }

/-- A row is being activated. -/
def Vault.isActivating (v : Vault) (row : Nat) : Bool := v.activating.any fun a => a.1 == row

/-- Requests the opening of a closed row for which a beat waits, unless a pin keeps it closed (R195, R196). -/
def Vault.open_ (v : Vault) (row clk : Nat) : Vault :=
  if v.openRows.contains row || v.isActivating row || !v.canOpen row clk then v else v.request row clk

/-- A beat of a user other than the stream (R195): it uses and pins an open row for 2 clk, and a closed row's opening is
requested under R196, or waits for a pin. -/
def Vault.touch (v : Vault) (row clk : Nat) : Vault :=
  if v.openRows.contains row then
    { v.useRow row with beats := (row, clk + 2) :: v.beats.filter fun b => clk < b.2 && b.1 != row }
  else Vault.open_ { v with wanted := if v.wanted.contains row then v.wanted else v.wanted ++ [row] } row clk

/-- KIND of ROWPROG for a tile load or copy (R207). -/
def tileKind : Instr → Option Nat
  | .tld _ => some 0 | .tldt _ => some 1 | .tldc _ => some 2 | .tldtc _ => some 3
  | .bcopy _ => some 4 | .bcopyt _ => some 5 | .bcopyc _ => some 6 | .bcopyx _ => some 7
  | _ => none

/-- A slot header (R221). -/
def MatrixEngine.slot (m : MatrixEngine) (j : Nat) : SlotHeader := m.slots[j]?.getD {}

/-- Changes the streaming operation: the first whose last beat has not arrived (R205). -/
def modStream (f : TileOp → TileOp) : List TileOp → List TileOp
  | [] => []
  | o :: os => if o.ended then o :: modStream f os else f o :: os

/-- The streaming operation. -/
def TilePipe.stream (u : TilePipe) : Option TileOp := u.ops.find? fun o => !o.ended

/-- Changes the streaming operation of a pillar. -/
def Pillar.modStream (x : Pillar) (f : TileOp → TileOp) : Pillar :=
  { x with tile := { x.tile with ops := Sys2Proof.Machine.modStream f x.tile.ops } }

/-- A load waits for the readers of its slot (R226). -/
def Pillar.readersHold (x : Pillar) (o : TileOp) : Bool :=
  match tileKind o.d.instr with
  | some k => k < 4 && (x.mtx.slot o.d.slot).readers != 0
  | none => false

/-- An operation is streaming: its first beat has fallen due (R206). -/
def Pillar.streaming (x : Pillar) (clk : Nat) (o : TileOp) : Bool :=
  !x.readersHold o && (o.due ≤ clk || o.lastRow.isSome || (!o.resumed && (o.row, o.col) != (0, 0)))

/-- A beat of another user takes a beat time of the bus (R206): the next beat falls due 2 clk later, or, if it has fallen due and
is late, arrives 2 clk after it otherwise could. -/
def TileOp.giveWay (o : TileOp) (clk : Nat) : TileOp :=
  if clk < o.due then { o with due := o.due + 2 } else { o with taken := o.taken + 2 }

/-- A beat of another user of the vault bus delays a streaming operation by 2 clk (R206). -/
def Pillar.interfere (x : Pillar) (clk : Nat) : Pillar :=
  match x.tile.stream with
  | some o => if x.streaming clk o then (x.modStream (TileOp.giveWay · clk)).count 0x470 2 else x
  | none => x

/-- A beat of an access to a vault uses its row (R195) and takes a beat time of its bus (R206). -/
def State.useRow (s : State) (pa : Nat) : State :=
  match placeOf pa with
  | .vault p off => s.modPil p fun x => { x.interfere s.clk with vault := x.vault.touch (rowOf off) s.clk }
  | _ => s

/-- TVAL of causes 0x68 and 0x69 for a translated target (R403, R311). -/
def reachTval (reason : Nat) (va : Word) : Word := word (reason * 2 ^ 60 + va.toNat % 2 ^ 57)

/-- The router of a migrated pillar counts a request or message to it that it rewrites toward the target (R390, R394). -/
def State.countForward (s : State) (q : PillarId) : State :=
  if s.forward q == q then s else s.modPil q fun x => x.count 0x4C5

/-- The routers count a request for an address, from outside the pillars, that they rewrite for a migrated pillar (R390, R394). -/
def State.noteDirect (s : State) (pa : Nat) : State :=
  match placeOf pa with
  | .vault q _ => s.countForward q
  | _ => s

/-! ## Page tables -/

/-- The size of a leaf at a level, as a power of two (R346). -/
def leafBits (level : Nat) : Nat := match level with | 0 => 39 | 1 => 30 | 2 => 21 | _ => 12

/-- The index of a level (R344). -/
def vaIndex (va : Word) (level : Nat) : Nat :=
  match level with
  | 0 => va.bits 56 39 | 1 => va.bits 38 30 | 2 => va.bits 29 21 | _ => va.bits 20 12

/-- Bits 47:12 of an entry as an address (R345). -/
def ptePa (e : Nat) : Nat := bitsOf e 47 12 * 4096

/-- The log of the range that a leaf or its hinted group maps (R346). -/
def mapBits (e level : Nat) : Nat := leafBits level + if bitOf e 5 then 4 else 0

/-- ALLOT is in place: zero, or on a 4 KiB leaf of the second tier (R345). -/
def allotOk (e level : Nat) : Bool := bitsOf e 7 6 == 0 || (level == 3 && bitOf e 1 && !bitOf e 5 && bitsOf e 47 46 == 1)

/-- *Malformed* of R347, but for the final address. -/
def malformed (e level : Nat) : Bool :=
  let leaf := bitOf e 1
  let h := bitOf e 8
  bitsOf e 57 48 != 0 || bitsOf e 11 9 != 0 || (level == 3 && !leaf) || (leaf && h) || (level != 0 && h) ||
    (bitOf e 5 && (level == 0 || !leaf)) || (h && ptePa e != 0) || !allotOk e level ||
    (leaf && ptePa e % 2 ^ leafBits level != 0) || (!leaf && !h && bitsOf e 47 46 ≥ 2)

/-- What a walk gives: a translation, a fault, a host translation to be asked for, or a wait for the second tier (R347, R348,
R423). -/
inductive WalkResult where
  | entry (e : TlbEntry)
  | fault (cause : BitVec 8)
  | ats
  | wait
  deriving DecidableEq, Repr

/-- Where a read of a page table really goes: past a migrated pillar to the one that stands for it (R390). -/
def State.tablePa (s : State) (pa : Nat) : Nat :=
  match placeOf pa with
  | .vault q off => vaultPa (s.forward q) off
  | _ => pa

/-- Reads a page-table entry (R344, R390). -/
def State.readEntry (s : State) (pa : Nat) : Option Nat :=
  let a := s.tablePa pa
  if s.physBad a 8 then none else some (s.mem.read a 8)

/-- The entries of a hinted group whose first entry is at an address and whose range starts at `base` (R346, R347): every one is
valid, with the flags of e and its place in the range. -/
def State.groupFault (s : State) (first e base level : Nat) : Option (BitVec 8) :=
  let es := (List.range 16).map fun i => (i, s.readEntry (first + 8 * i))
  if es.any fun x => match x.2 with | some e => !bitOf e 0 | none => false then some 0x03
  else if es.all fun x => match x.2 with
      | some e' => e' % 4096 == e % 4096 && bitsOf e' 57 48 == 0 && ptePa e' == base + x.1 * 2 ^ leafBits level
      | none => false then none
  else some 0x05

/-- The TLB entry of a leaf, or of the hinted group it belongs to (R346, R347). The checks of the leaf itself, its group's
alignment and its final address among them, come before the group is read. -/
def State.leafEntry (s : State) (asid : BitVec 16) (va : Word) (entryPa e level : Nat) : WalkResult :=
  let bits := mapBits e level
  let pos := if bitOf e 5 then vaIndex va level % 16 else 0
  let off := pos * 2 ^ leafBits level
  if ptePa e % 2 ^ bits != off || !s.populated (ptePa e + va.toNat % 2 ^ leafBits level) then .fault 0x05
  else
    let pa := ptePa e - off
    match (if bitOf e 5 then s.groupFault (entryPa - pos * 8) e pa level else none) with
    | some c => .fault c
    | none =>
      .entry { asid := asid, global := bitOf e 4, va := va.toNat % 2 ^ 57 / 2 ^ bits * 2 ^ bits, bits := bits, pa := pa,
               user := bitOf e 3, write := bitOf e 2, allot := BitVec.ofNat 2 (bitsOf e 7 6) }

/-- A table lies in a populated part of the vaults or of the second tier (R340, R344); one in layers 12-15 of a vault is
read and fails as any access does (R194). -/
def tableFault (pa : Nat) : Option (BitVec 8) :=
  match pa / 2 ^ 46 with
  | 0 => if bitsOf pa 35 28 != 0 then some 0x05 else if pa % 2 ^ 28 / 2 ^ 24 ≥ 12 then some 0x24 else none
  | 1 => if pa % 2 ^ 46 < tierSize then none else some 0x05
  | _ => some 0x05

/-- What stands in the way of reading a table: the fault of its address, or the second tier, which is not ready yet or has
failed (R423). -/
def State.tableStop (s : State) (table : Nat) : Option WalkResult :=
  match tableFault table with
  | some c => some (.fault c)
  | none =>
    if table / 2 ^ 46 != 1 || bitOf s.safelight.ready.toNat 16 then none
    else if s.safelight.tierFailed then some (.fault 0x69)
    else some .wait

/-- A walk from a level on (R347). -/
def State.walkFrom (s : State) (asid : BitVec 16) (va : Word) : Nat → Nat → Nat → WalkResult
  | 0, _, _ => .fault 0x05
  | fuel + 1, level, table =>
    let a := table + 8 * vaIndex va level
    match s.tableStop table, s.readEntry a with
    | some r, _ => r
    | none, none => .fault 0x05
    | none, some e =>
      if !bitOf e 0 then .fault 0x03
      else if malformed e level then .fault 0x05
      else if level == 0 && bitOf e 8 then .ats
      else if bitOf e 1 then s.leafEntry asid va a e level
      else s.walkFrom asid va fuel (level + 1) (ptePa e)

/-- The address of a context entry (R343). -/
def State.contextPa (s : State) (asid : BitVec 16) : Nat := s.ctxBase.bits 47 16 * 65536 + 8 * asid.toNat

/-- The root table that a context entry names; none where an entry is invalid or has a reserved bit set, which is malformed
(R343, R347). -/
def contextRoot (c : Nat) : Option Nat :=
  if !bitOf c 0 || bitsOf c 20 1 != 0 || bitsOf c 63 48 != 0 then none else some (bitsOf c 47 21 * 2 ^ 21)

/-- A walk of an address space (R343, R347). DEDUCED: the read of the context entry fails as the read of a table does
(log entry 106). -/
def State.walk (s : State) (asid : BitVec 16) (va : Word) : WalkResult :=
  if !canonical va then .fault 0x06
  else
    let a := s.contextPa asid
    match s.tableStop a, s.readEntry a with
    | some r, _ => r
    | none, none => .fault 0x05
    | none, some c =>
      match contextRoot c with
      | none => .fault 0x05
      | some root => s.walkFrom asid va 4 0 root

/-- The addresses of the entries that a walk reads from a level on, a hinted group's being one read (R347). -/
def State.walkReads (s : State) (va : Word) : Nat → Nat → Nat → List Nat
  | 0, _, _ => []
  | fuel + 1, level, table =>
    let a := table + 8 * vaIndex va level
    match s.tableStop table, s.readEntry a with
    | some _, _ => []
    | none, none => [a]
    | none, some e =>
      let down := bitOf e 0 && !malformed e level && !bitOf e 8 && !bitOf e 1
      a :: (if down then s.walkReads va fuel (level + 1) (ptePa e) else [])

/-! ## TLBs and translation -/

/-- What a translation gives (R347). -/
structure Xlate where
  pa : Nat
  entry : TlbEntry
  deriving DecidableEq, Repr

/-- Why a translation fails: a cause, a host translation that has not come, or a second tier that is not ready (R347, R348,
R423). -/
inductive XlateError where
  | cause (c : BitVec 8)
  | ats
  | wait
  deriving DecidableEq, Repr

/-- The physical address that a TLB entry gives (R353). -/
def TlbEntry.paOf (e : TlbEntry) (va : Word) : Nat := e.pa + va.toNat % 2 ^ e.bits

/-- The check of the final address, the permission check, and the physical address (R340, R347). -/
def State.useEntry (s : State) (e : TlbEntry) (lvl : Nat) (kind : AccessKind) (va : Word) : Except XlateError Xlate :=
  if !e.host && !s.populated (e.paOf va) then .error (.cause 0x05)
  else if (lvl == 0 && !e.user) || (kind == .write && !e.write) then .error (.cause 0x04)
  else .ok { pa := e.paOf va, entry := e }

/-- A completion has given no right to a page of an ASID, and the page request that follows has not been sent (R348, R350). -/
def State.hasNoRights (s : State) (asid : BitVec 16) (va : Word) : Bool := s.host.noRights.contains (asid, va.bits 56 12)

/-- translate(va, kind) of R347, through the TLBs of R353. -/
def State.xlate (s : State) (w : Walker) (kind : AccessKind) (va : Word) : Except XlateError Xlate :=
  if !canonical va then .error (.cause 0x06)
  else
    match s.lookup w va with
    | some e => s.useEntry e w.lvl kind va
    | none =>
      match s.walk w.asid va with
      | .entry e => s.useEntry e w.lvl kind va
      | .fault c => .error (.cause c)
      | .ats => if s.hasNoRights w.asid va then .error (.cause 0x04) else .error .ats
      | .wait => .error .wait

/-- Puts an entry in front of a list of at most n. -/
def touchTlb (n : Nat) (l : List TlbEntry) (e : TlbEntry) : List TlbEntry := (e :: l.filter (· != e)).take n

/-- The routers count the reads of page tables in a walk that they rewrite for a migrated pillar (R390, R394). -/
def State.noteWalk (s : State) (asid : BitVec 16) (va : Word) : State :=
  match (s.readEntry (s.contextPa asid)).bind contextRoot with
  | some root => (s.walkReads va 4 0 root).foldl State.noteDirect s
  | none => s

/-- A translation has been used: misses and walks count, and the TLBs hold it as their most recent entry (R353, R360). -/
def State.noteXlate (s : State) (w : Walker) (x : Xlate) : State :=
  let st := stackOf w.p
  if w.direct then
    if (s.stack st).tlb.contains x.entry && x.entry.host then s
    else (s.countStack st 0x4BB).noteWalk w.asid (word x.entry.va)
  else
    let missed := !(s.ownTlb w).contains x.entry
    let walked := missed && !(s.stack st).tlb.contains x.entry
    let s := s.countMiss w missed walked
    let s := if walked then s.noteWalk w.asid (word x.entry.va) else s
    let s := s.modPil w.p fun p =>
      if w.shuttle then p
      else if w.tile then { p with tileTlb := touchTlb 32 p.tileTlb x.entry } else { p with dataTlb := touchTlb 64 p.dataTlb x.entry }
    if missed then s.modStack st fun y => { y with tlb := touchTlb 8192 y.tlb x.entry } else s

/-- A translation for an instruction: page faults, traps and waits (R352), and the refusal of compressed tier pages to
all but the shuttle (R264). -/
def State.translateAs (s : State) (w : Walker) (kind : AccessKind) (va : Word) : Act Xlate :=
  match s.xlate w kind va with
  | .ok x => if x.entry.allot == 0 then .ok x else .error (.trap 0x3C va)
  | .error .ats => .error (.ats w va)
  | .error .wait => .error .wait
  | .error (.cause c) =>
    if c == 0x69 then .error (.trap c (reachTval 1 va))
    else if c == 0x03 || c == 0x04 then .error (.pageFault c va (kind == .write)) else .error (.trap c va)

/-- A translation by the current strand's instruction (R352). -/
def State.translate (s : State) (kind : AccessKind) (va : Word) : Act Xlate := s.translateAs s.walker kind va

/-! ## Reach -/

/-- The stack that serves a block of the second tier (R409). -/
def tierStack (a : Nat) : Nat := a / 4096 % 8 / 2

/-- A UALink port is up (R419). -/
def UaPort.up (u : UaPort) : Bool := u.link && u.ready

/-- The stack that serves a peer (R409). -/
def State.peerStack (s : State) (n : BitVec 10) : Nat :=
  let up (i : Nat) : Bool := (s.host.ports[i]?.getD {}).up
  let i := n.toNat % 8
  ((((List.range 8).map fun k => (i + k) % 8).find? up).getD i) / 2

/-- Some UALink port carries traffic (R419). -/
def State.portUp (s : State) : Bool := s.host.ports.toList.any UaPort.up

/-- Traffic to a place finds a port that carries it (R419, R423). -/
def State.carried (s : State) (pl : Place) : Bool := match pl with | .peer _ _ => s.portUp | _ => true

/-- The stack at which the row leg of a worm from stack x to stack y ends (R290). -/
def rowEnd (x y : Nat) : Nat := x / 2 * 2 + y % 2

/-- The bridges of a halted stack refuse traffic: a request from stack x to stack y, or its response, would cross one
(R290, R292, R377). -/
def State.bridgesClosed (s : State) (x y : Nat) : Bool :=
  x != y && [x, y, rowEnd x y, rowEnd y x].any fun n => (s.stack n).halted

/-- A pillar answers requests from outside it: the cause and reason otherwise (R403, R423). -/
def State.answers (s : State) (q : PillarId) : Except (BitVec 8 × Nat) Unit :=
  match (s.pil q).phase with
  | .failed => .error (0x69, 1)
  | .scrubbing => .error (0x69, 2)
  | _ => if s.safelight.pillarReady.has q.toNat then .ok () else .error (0x69, 2)

/-- A pillar can be reached by a request of another: the cause and reason otherwise (R402, R403, R423). -/
def State.reachPillar (s : State) (p q : PillarId) : Except (BitVec 8 × Nat) Unit :=
  if p == q then .ok ()
  else if s.fenced p q then .error (0x68, 1)
  else if s.bridgesClosed (stackOf p) (stackOf q) then .error (0x68, 2)
  else s.answers q

/-- Where an access of a pillar really goes, or why it fails with its TVAL (R194, R358, R390, R399, R402, R403, R423). A
tier access waits until the tier is ready. -/
def State.reach (s : State) (p : PillarId) (pa : Nat) (va : Word) : Act Nat :=
  match placeOf pa with
  | .vault q off =>
    if off / 2 ^ 24 ≥ 12 then .error (.trap 0x24 va)
    else
      let q := s.forward (s.redirect p q)
      match s.reachPillar p q with
      | .ok () => .ok (vaultPa q off)
      | .error (c, r) => .error (.trap c (reachTval r va))
  | .tier a =>
    if s.bridgesClosed (stackOf p) (tierStack a) then .error (.trap 0x68 (reachTval 2 va))
    else if s.safelight.tierFailed then .error (.trap 0x69 (reachTval 1 va))
    else if !bitOf s.safelight.ready.toNat 16 then .error .wait
    else .ok pa
  | .peer n _ =>
    if s.bridgesClosed (stackOf p) (s.peerStack n) then .error (.trap 0x68 (reachTval 2 va))
    else if (s.host.peers.getD n.toNat {}).up then .ok pa
    else .error (.trap 0x07 va)
  | _ => if s.bridgesClosed (stackOf p) 0 then .error (.trap 0x68 (reachTval 2 va)) else .ok pa

/-- A pillar stands behind the fences of a containment (R401, R402). -/
def State.behindFence (s : State) (q : PillarId) : Bool :=
  match s.integrity.containing with
  | some r => r.has q
  | none => false

/-- Where an access of the launch unit, a shuttle or a host ring goes, or why it fails (R194, R390, R402, R403, R423): it stands at
the service pillar p (R409). DEDUCED: a pillar that is being scrubbed does not refuse it (log entry 103). -/
def State.reachUnit (s : State) (p : PillarId) (pa : Nat) (va : Word) : Act Nat :=
  match placeOf pa with
  | .vault q off =>
    let q := s.forward q
    if off / 2 ^ 24 ≥ 12 then .error (.trap 0x24 va)
    else if s.behindFence q then .error (.trap 0x68 (reachTval 1 va))
    else if s.bridgesClosed (stackOf p) (stackOf q) then .error (.trap 0x68 (reachTval 2 va))
    else if (s.pil q).phase == .failed then .error (.trap 0x69 (reachTval 1 va))
    else if s.safelight.pillarReady.has q.toNat then .ok (vaultPa q off)
    else .error (.trap 0x69 (reachTval 2 va))
  | _ => s.reach p pa va

/-- Where an access of the host or a peer goes, or why it fails: as a unit's, and a pillar that is being scrubbed refuses it
(R403). -/
def State.reachDirect (s : State) (p : PillarId) (pa : Nat) (va : Word) : Act Nat := do
  let pa' ← s.reachUnit p pa va
  match placeOf pa' with
  | .vault q _ => if (s.pil q).phase == .scrubbing then .error (.trap 0x69 (reachTval 2 va)) else .ok pa'
  | _ => .ok pa'

/-- TVAL of an untranslated local-store target (R311, R403). -/
def lsTval (reason : Nat) (q : PillarId) (a : Nat) : Word := word (reason * 2 ^ 60 + q.toNat * 2 ^ 19 + a)

/-- A local-store target in a pillar held by a job of another address space is refused (R403). -/
def State.sameSpace (s : State) (p q : PillarId) : Bool :=
  match (s.pil q).job with
  | some _ => (s.pil p).asid == (s.pil q).asid
  | none => true

/-- The pillar that a remote local-store access of n bytes really goes to (R126, R390, R399, R403). -/
def State.lsTarget (s : State) (p q : PillarId) (a n : Nat) : Act PillarId :=
  let q' := s.forward (s.redirect p q)
  match s.reachPillar p q' with
  | .error (c, r) => .error (.trap c (lsTval r q a))
  | .ok () =>
    if !s.sameSpace p q' then .error (.trap 0x69 (lsTval 3 q a))
    else if ((s.pil q').lsFault a n).isSome then .error (.trap 0x60 (lsTval 1 q a))
    else .ok q'

/-- The routers count a request of a pillar to another (R390, R394, R399). -/
def State.noteRewrite (s : State) (p q : PillarId) : State := s.countForward (s.redirect p q)

/-- The routers count the requests to vault addresses that they rewrite for a migrated pillar (R390, R394). -/
def State.noteForward (s : State) (p : PillarId) (pa : Nat) : State :=
  match placeOf pa with
  | .vault q _ => s.noteRewrite p q
  | _ => s


end Sys2Proof.Machine
end

