-- ==== Sys2Proof/Machine/Devices.lean ====
section
/-! DEFINITION. The device registers of region 0b11 and BAR0 (17_host_pod.md R411, R412, R416-R419, R422-R428,
16_integrity.md R401, R408, 11_second_tier_drafts.md R283, 03_pillars_strands_jobs.md R72). A write that makes another unit
act leaves an effect that the next step carries out (log entry 4). -/

namespace Sys2Proof.Machine

/-! ## Reading -/

/-- Dword j of a 32-byte register. -/
def dwordOf (x : BitVec 256) (j : Nat) : Word := (x >>> (64 * j)).setWidth 64

/-- Writes dword j of a 32-byte register. -/
def setDword (x : BitVec 256) (j : Nat) (v : Word) : BitVec 256 :=
  BitVec.ofNat 256 (x.toNat - (dwordOf x j).toNat * 2 ^ (64 * j) + v.toNat * 2 ^ (64 * j))

/-- A launch queue (R72). -/
def State.lq (s : State) (n : Nat) : LaunchQueue := s.launch.queues[n]?.getD {}

/-- Replaces a launch queue. -/
def State.setLq (s : State) (n : Nat) (q : LaunchQueue) : State :=
  { s with launch := { s.launch with queues := s.launch.queues.setIfInBounds n q } }

/-- A host queue (R416). -/
def State.hq (s : State) (n : Nat) : HostQueue := s.host.queues[n]?.getD {}

/-- Replaces a host queue. -/
def State.setHq (s : State) (n : Nat) (q : HostQueue) : State :=
  { s with host := { s.host with queues := s.host.queues.setIfInBounds n q } }

/-- E = max(SIZE, 4) of a queue's control word (R72, R416). -/
def ringExp (ctl : Word) : Nat := max (ctl.bits 35 32) 4

/-- The launch unit's block (R72, R412). -/
def State.readLaunch (s : State) (off : Nat) : Word :=
  if off < 0x400 then
    let q := s.lq (off / 0x40)
    match off % 0x40 with
    | 0x00 => q.base
    | 0x08 => q.ctl
    | 0x10 => q.head.setWidth 64
    | 0x18 => q.tail.setWidth 64
    | _ => 0
  else if 0x800 ≤ off && off < 0x838 then word (s.launch.counters.getD ((off - 0x800) / 8) 0)
  else 0

/-- The host queues' block (R416). -/
def State.readHostQueue (s : State) (off : Nat) : Word :=
  let q := s.hq (off / 0x40)
  match off % 0x40 with
  | 0x00 => q.base
  | 0x08 => q.ctl
  | 0x10 => q.head.setWidth 64
  | 0x18 => q.tail.setWidth 64
  | 0x20 => q.send
  | _ => 0

/-- OVFINFO of a growth record (R283). -/
def GrowthRecord.info (g : GrowthRecord) : Word :=
  word (2 ^ 63 + g.allot.toNat * 2 ^ 56 + g.asid.toNat * 2 ^ 40 + g.handle.toNat * 2 ^ 24 + g.coded % 2 ^ 13)

/-- A shuttle's block (R283). -/
def State.readShuttle (s : State) (st off : Nat) : Word :=
  let rs := (s.stack st).shuttle.records
  if off = 0 then word (rs.keys.length + 128 * boolNat (rs.keys.length ≥ 64))
  else if 0x100 ≤ off && off < 0x500 then
    match rs.get? ((off - 0x100) / 16) with
    | some g => if off % 16 = 0 then g.va else g.info
    | none => 0
  else 0

/-- A dword of a failure record (R407). -/
def FailureRecord.dword (r : FailureRecord) : Nat → Word
  | 0 => r.who | 1 => r.jobId | 2 => r.wstart | 3 => r.wend | 4 => r.egress | _ => 0

/-- The integrity block (R408). -/
def State.readIntegrity (s : State) (off : Nat) : Word :=
  let b := s.integrity
  match off with
  | 0x000 => word (boolNat b.containing.isSome * 2 ^ 62 + b.containPil.toNat)
  | 0x008 => b.stripper
  | 0x010 => b.frhead.setWidth 64
  | 0x018 => b.frtail.setWidth 64
  | 0x040 => word b.dwPairs
  | 0x048 => word b.dwMismatch
  | 0x050 => word b.contains
  | 0x058 => word b.strips
  | 0x060 => word b.stripFail
  | _ =>
    if 0x100 ≤ off && off < 0x300 then (b.stripIdx.getD ((off - 0x100) / 8) 0).setWidth 64
    else if 0x800 ≤ off then (b.slots.getD ((off - 0x800) / 64) {}).dword (off % 64 / 8)
    else 0

/-- UAPST of a port (R419). -/
def UaPort.pst (u : UaPort) : Word := word (boolNat u.link + 2 * boolNat u.ready + 4 * boolNat u.enable)

/-- A peer-table entry (R419). -/
def Peer.entry (p : Peer) : Word :=
  word (boolNat p.up * 2 ^ 63 + p.why.toNat * 2 ^ 56 + p.incred.toNat * 2 ^ 32 + p.peerTo.toNat)

/-- The UALink block (R419, R420). -/
def State.readUa (s : State) (off : Nat) : Word :=
  if off < 0x200 then if off % 0x40 = 0 then (s.host.ports[off / 0x40]?.getD {}).pst else 0
  else if off = 0x800 then s.host.peerId.setWidth 64
  else if off = 0x808 then s.host.uavBase
  else if off = 0x810 then s.host.uaAsid.setWidth 64
  else if 0x1000 ≤ off && off < 0x3000 then (s.host.peers.getD ((off - 0x1000) / 8) {}).entry
  else 0

/-- Bits 64j + 63 .. 64j of the pillars' ready bits (R422). -/
def State.pilRdy (s : State) (j : Nat) : Word :=
  word ((s.safelight.pillarReady.elems.filter fun n => n / 64 == j).map fun n => 2 ^ (n % 64)).sum

/-- Safelight's block (R422, R424, R425). -/
def State.readSafelight (s : State) (off : Nat) : Word :=
  let b := s.safelight
  if off = 0 then b.ready.setWidth 64
  else if 0x008 ≤ off && off < 0x088 then s.pilRdy ((off - 8) / 8)
  else if 0x100 ≤ off && off < 0x200 then dwordOf (b.meas[(off - 0x100) / 32]?.getD 0) (off % 32 / 8)
  else if 0x200 ≤ off && off < 0x220 then dwordOf b.nonce (off % 32 / 8)
  else if off = 0x220 then word (boolNat b.attGo)
  else if 0x240 ≤ off && off < 0x260 then dwordOf b.sigR (off % 32 / 8)
  else if 0x260 ≤ off && off < 0x280 then dwordOf b.sigS (off % 32 / 8)
  else if off = 0x300 then b.identity.setWidth 64
  else if off = 0x308 then (b.identity >>> 64).setWidth 64
  else if 0x400 ≤ off then Config.certificate (off - 0x400)
  else 0

/-- The power block (R426-R428). -/
def State.readPower (s : State) (off : Nat) : Word :=
  if off < 0x20 then (s.stack (off / 8)).stkTemp
  else if off = 0x40 then s.phasing.ctl
  else if 0x48 ≤ off && off < 0x68 then s.phasing.rects[(off - 0x48) / 8]?.getD 0
  else if 0x100 ≤ off && off < 0x280 then word s.clk
  else if off = 0xF00 then word (s.clk / 21)
  else if 0x2000 ≤ off && off < 0x4000 then word (s.pilClk ((off - 0x2000) / 8 / 256))
  else 0

/-- A device register (R411). -/
def State.devRead (s : State) (off : Nat) : Word :=
  if off < 0x1000 then s.readLaunch off
  else if off < 0x1400 then s.readHostQueue (off - 0x1000)
  else if 0x2000 ≤ off && off < 0x4000 then
    word ((s.hq ((off - 0x2000) / 0x200)).staging.read (off % 0x200) 8)
  else if 0x10000 ≤ off && off < 0x14000 then s.readShuttle ((off - 0x10000) / 0x1000) (off % 0x1000)
  else if 0x20000 ≤ off && off < 0x21000 then s.readIntegrity (off - 0x20000)
  else if 0x30000 ≤ off && off < 0x34000 then s.readUa (off - 0x30000)
  else if 0x40000 ≤ off && off < 0x41000 then s.readSafelight (off - 0x40000)
  else if 0x50000 ≤ off && off < 0x60000 then s.readPower (off - 0x50000)
  else if off = 0x60000 then s.host.aperBase
  else 0

/-- Answers an access from outside. -/
def State.answer (s : State) (a : HostAnswer) : State := { s with host := { s.host with answers := s.host.answers ++ [a] } }

/-- What a read of a device register at a level gives, the host's as level 4 (R411): APERBASE is for the host and the machine
level (R413). -/
def State.devReadAt (s : State) (lvl off : Nat) : Word := if off = 0x60000 && lvl < 3 then 0 else s.devRead off

/-! ## Writing -/

/-- The effect comes next. -/
def State.next (s : State) (e : DevEffect) : State := { s with effects := s.effects ++ [e] }

/-- Merges the bits of a mask. -/
def maskMerge (old new mask : Word) : Word := (old &&& ~~~mask) ||| (new &&& mask)

/-- Bits h..l as a mask. -/
def maskBits (h l : Nat) : Word := word ((2 ^ (h + 1 - l) - 1) * 2 ^ l)

/-- A launch queue's control word (R72, R73): SIZE keeps its value while EN is 1, ERR clears by writing 1. -/
def lqCtl (old v : Word) : Word :=
  let keepSize := bitOf old.toNat 0
  let new := maskMerge old v (maskBits 63 48 ||| (if keepSize then 0 else maskBits 35 32) ||| maskBits 10 8 ||| maskBits 2 0)
  if bitOf v.toNat 3 then new &&& ~~~maskBits 3 3 else new

/-- LQBASE and the control word (R72, R73); LQTAIL is the doorbell, PREEMPTREQ a request (R412). -/
def State.writeLaunch (s : State) (off : Nat) (v : Word) : State :=
  if off < 0x400 then
    let n := off / 0x40
    let q := s.lq n
    match off % 0x40 with
    | 0x00 => if bitOf q.ctl.toNat 0 then s else s.setLq n { q with base := v }
    | 0x08 => s.setLq n { q with ctl := lqCtl q.ctl v }
    | 0x18 => s.next (.lqtail (BitVec.ofNat 4 n) (v.setWidth 32))
    | _ => s
  else if off = 0xC00 then s.next (.preemptreq v)
  else s

/-- A host queue's registers (R416); +0x20 sends (R418). -/
def State.writeHostQueue (s : State) (off : Nat) (v : Word) : State :=
  let n := off / 0x40
  let q := s.hq n
  match off % 0x40 with
  | 0x00 => s.setHq n { q with base := v }
  | 0x08 => s.setHq n { q with ctl := v &&& (maskBits 63 48 ||| maskBits 35 32 ||| maskBits 0 0) }
  | 0x10 => s.setHq n { q with head := v.setWidth 32 }
  | 0x20 => s.next (.hostSend (BitVec.ofNat 4 n) v)
  | _ => s

/-- A growth record's RETRY and DROP (R283). -/
def State.writeShuttle (s : State) (st off : Nat) (v : Word) : State :=
  if 0x100 ≤ off && off < 0x500 && off % 16 = 8 then
    let n := BitVec.ofNat 6 ((off - 0x100) / 16)
    if bitOf v.toNat 61 then s.next (.ovfDrop (BitVec.ofNat 2 st) n)
    else if bitOf v.toNat 62 then s.next (.ovfRetry (BitVec.ofNat 2 st) n)
    else s
  else s

/-- The integrity block (R401, R408): CONTAIN and STRIPPER for the host and machine level. -/
def State.writeIntegrity (s : State) (lvl off : Nat) (v : Word) : State :=
  match off with
  | 0x000 =>
    if lvl < 3 then s
    else
      let p := v.setWidth 10
      let s' := { s with integrity := { s.integrity with containPil := p } }
      if bitOf v.toNat 63 && s.integrity.containing.isNone then s'.next (.contain p) else s'
  | 0x008 => if lvl < 3 then s else { s with integrity := { s.integrity with stripper := v } }
  | 0x010 => s.next (.frhead v)
  | _ => s

/-- INCRED and PEERTO; writing 1 to UP makes the peer UP (R419). DESIGN CHOICE: a value outside 1 to 256 leaves INCRED as it was
(log entry 104). -/
def State.writePeer (s : State) (p : Nat) (v : Word) : State :=
  let e := s.host.peers.getD p {}
  let credits := v.bits 47 32
  let e := { e with
    incred := if 1 ≤ credits && credits ≤ 256 then BitVec.ofNat 16 credits else e.incred, peerTo := v.setWidth 32 }
  let s := { s with host := { s.host with peers := s.host.peers.set p e } }
  if bitOf v.toNat 63 then s.next (.peerUp (BitVec.ofNat 10 p)) else s

/-- The UALink block (R419, R420). -/
def State.writeUa (s : State) (off : Nat) (v : Word) : State :=
  if off < 0x200 then
    if off % 0x40 = 0 then
      let i := off / 0x40
      { s with host := { s.host with
        ports := s.host.ports.setIfInBounds i { (s.host.ports[i]?.getD {}) with enable := bitOf v.toNat 2 } } }
    else s
  else if off = 0x808 then { s with host := { s.host with uavBase := v } }
  else if off = 0x810 then { s with host := { s.host with uaAsid := v.setWidth 16 } }
  else if 0x1000 ≤ off && off < 0x3000 then s.writePeer ((off - 0x1000) / 8) v
  else s

/-- The nonce and ATTGO (R425). -/
def State.writeSafelight (s : State) (off : Nat) (v : Word) : State :=
  if 0x200 ≤ off && off < 0x220 then
    { s with safelight := { s.safelight with nonce := setDword s.safelight.nonce (off % 32 / 8) v } }
  else if off = 0x220 then s.next (.attgo v)
  else s

/-- PHASECTL and PHRECT0-3, at machine level only (R428). -/
def State.writePower (s : State) (lvl off : Nat) (v : Word) : State :=
  if lvl != 3 then s
  else if off = 0x40 then
    if v.bits 47 32 = 0 then s
    else { s with phasing := { s.phasing with ctl := v &&& (maskBits 63 63 ||| maskBits 47 32) } }
  else if 0x48 ≤ off && off < 0x68 then
    { s with phasing := { s.phasing with
      rects := s.phasing.rects.setIfInBounds ((off - 0x48) / 8) (v &&& (maskBits 63 63 ||| maskBits 9 0)) } }
  else s

/-- A write of a device register by an instruction at a level, or by the host, as level 4 (R411). -/
def State.devWrite (s : State) (lvl off : Nat) (v : Word) : State :=
  if off < 0x1000 then s.writeLaunch off v
  else if off < 0x1400 then s.writeHostQueue (off - 0x1000) v
  else if 0x2000 ≤ off && off < 0x4000 then
    let n := (off - 0x2000) / 0x200
    let q := s.hq n
    s.setHq n { q with staging := q.staging.write (off % 0x200) 8 v.toNat }
  else if 0x10000 ≤ off && off < 0x14000 then s.writeShuttle ((off - 0x10000) / 0x1000) (off % 0x1000) v
  else if 0x20000 ≤ off && off < 0x21000 then s.writeIntegrity lvl (off - 0x20000) v
  else if 0x30000 ≤ off && off < 0x34000 then s.writeUa (off - 0x30000) v
  else if 0x40000 ≤ off && off < 0x41000 then s.writeSafelight (off - 0x40000) v
  else if 0x50000 ≤ off && off < 0x60000 then s.writePower lvl (off - 0x50000) v
  else if off = 0x60000 then if lvl < 3 then s else s.next (.aperbase v)
  else s

end Sys2Proof.Machine
end

