-- ==== Sys2Proof/Machine/Flags.lean ====
section
/-! DEFINITION. The part has no condition flags (04_general_registers.md): what takes their place are comparisons that
write 0 or 1 or decide a branch, and the saturation of sums. -/

namespace Sys2Proof.Machine

/-- sext(x, 64) of R11. -/
def sval (x : Word) : Int := x.toInt

/-- A Boolean as a word. -/
def boolWord (b : Bool) : Word := if b then 1 else 0

/-- A is less than B as signed values (R112, R122). -/
def ltS (x y : Word) : Bool := x.toInt < y.toInt

/-- A is less than B as unsigned values (R112, R122). -/
def ltU (x y : Word) : Bool := x.toNat < y.toNat

/-- The smaller as signed values (R112). -/
def minS (x y : Word) : Word := if ltS y x then y else x

/-- The larger as signed values (R112). -/
def maxS (x y : Word) : Word := if ltS x y then y else x

/-- x clamped to lo..hi (R11). -/
def clampInt (lo hi x : Int) : Int := if x < lo then lo else if hi < x then hi else x

end Sys2Proof.Machine
end

