-- ==== Sys2Proof/Machine/Access.lean ====
section
/-! DEFINITION. The scalar accesses to translated memory: LD and ST (04_general_registers.md R109, R110, R121) and the
memory-order forms (13_memory_order.md R326-R333), through the store buffer, to vaults and the second tier, to device
registers, and to peers and the host, in strand code and in fibre code (06_fibres.md R157). -/

namespace Sys2Proof.Machine

/-! ## What an access does -/

/-- The operations of AMO, SCAMO and RAMO on n bytes, by code (R34, R305). -/
def atomicResult (op n old x : Nat) : Nat :=
  let m := 2 ^ (8 * n)
  let a := sextNat old (8 * n)
  let b := sextNat x (8 * n)
  match op with
  | 0 => (old + x) % m
  | 1 => old &&& x
  | 2 => old ||| x
  | 3 => old ^^^ x
  | 4 => if b < a then x else old
  | 5 => if a < b then x else old
  | 6 => if x < old then x else old
  | 7 => if old < x then x else old
  | _ => x

/-- The effect of a scalar access on the bytes it touches (R121, R330). -/
inductive AccessOp where
  | load
  | store
  | amo (op : Nat)
  | cas
  deriving DecidableEq, Repr

/-- Whether an access writes. -/
def AccessOp.writes : AccessOp → Bool
  | .load => false
  | _ => true

/-- Whether an access returns a value. -/
def AccessOp.reads : AccessOp → Bool
  | .store => false
  | _ => true

/-- A scalar access: effect, bytes, extension, data register (R121, R330). -/
structure MemOp where
  op : AccessOp
  n : Nat
  signed : Bool
  d : Nat
  deriving DecidableEq, Repr

/-- The access of LD. -/
def loadOp (n : Nat) (signed : Bool) (f : Fields) : MemOp := { op := .load, n := n, signed := signed, d := f.dNum }

/-- The access of ST. -/
def storeOp (n : Nat) (f : Fields) : MemOp := { op := .store, n := n, signed := false, d := f.dNum }

/-- The access of a memory-order form, with the size and signed fields of R34. -/
def orderOp (op : AccessOp) (f : Fields) : MemOp :=
  { op := op, n := sizeOf f.mod, signed := signedOf f.mod, d := f.dNum }

/-- The access that an instruction makes, for completing it when its data return. -/
def memOpOf : Instr → Option MemOp
  | .ldI8 f => some (loadOp 1 true f)
  | .ldI16 f => some (loadOp 2 true f)
  | .ldI32 f => some (loadOp 4 true f)
  | .ldI64 f => some (loadOp 8 true f)
  | .ldN8 f => some (loadOp 1 false f)
  | .ldN16 f => some (loadOp 2 false f)
  | .ldN32 f => some (loadOp 4 false f)
  | .stI8 f => some (storeOp 1 f)
  | .stI16 f => some (storeOp 2 f)
  | .stI32 f => some (storeOp 4 f)
  | .stI64 f => some (storeOp 8 f)
  | .lda f | .scld f => some (orderOp .load f)
  | .stl f | .scst f => some (orderOp .store f)
  | .amo f | .scamo f => some (orderOp (.amo (bitsOf f.mod.toNat 6 3)) f)
  | .cas f => some (orderOp .cas f)
  | _ => none

/-- The data operands that an access sends, of its own size: none for a load, two for CAS (R121, R330). -/
def MemOp.operands (o : MemOp) (x y : PWord) : List Word :=
  let sent (v : PWord) : Word := word (v.bits.toNat % 2 ^ (8 * o.n))
  match o.op with
  | .load => []
  | .cas => [sent x, sent y]
  | _ => [sent x]

/-- What the bytes become, if they are written: the data x, for CAS the data y on a match with x, with their poison
(R12, R330). -/
def MemOp.result (o : MemOp) (old : Nat × Bool) (x y : PWord) : Option (Nat × Bool) :=
  let m := 2 ^ (8 * o.n)
  match o.op with
  | .load => none
  | .store => some (x.bits.toNat % m, x.bad)
  | .amo op => some (atomicResult op o.n old.1 (x.bits.toNat % m), old.2 || x.bad)
  | .cas => if old.1 = x.bits.toNat % m then some (y.bits.toNat % m, old.2 || x.bad || y.bad) else none

/-! ## The store buffer -/

/-- Replaces the bytes of a value that a pending store covers (R121, R320). -/
def overlayStore (pa n : Nat) (v : Nat × Bool) (b : PendingStore) : Nat × Bool :=
  (List.range n).foldl (fun v i =>
    let k := pa + i
    if b.pa ≤ k && k < b.pa + b.n then
      (v.1 - v.1 / 256 ^ i % 256 * 256 ^ i + b.data / 256 ^ (k - b.pa) % 256 * 256 ^ i, v.2 || b.bad)
    else v) v

/-- Two ranges of bytes share a byte. -/
def overlaps (a n b m : Nat) : Bool := a < b + m && b < a + n

/-- Reads n bytes as a strand sees them: memory under its own pending stores (R320). -/
def State.readThrough (s : State) (stores : List PendingStore) (pa n : Nat) : Nat × Bool :=
  stores.foldl (overlayStore pa n) (s.physRead pa n)

/-- Performs the oldest pending store of a strand (R109, R320). -/
def State.drainStore (s : State) (p : PillarId) (t : StrandId) : State :=
  match (s.strandAt p t).stores with
  | b :: bs => ((s.physWrite b.pa b.n b.data b.bad).useRow b.pa).modStrand p t fun r => { r with stores := bs }
  | [] => s

/-! ## Egress -/

/-- The vault offset of a pillar's save window (R384). -/
def Pillar.saveWindow (x : Pillar) : Nat := x.saveOff.bits 27 22 * 0x400000

/-- A worm leaves the package: its egress number and its entry in the egress log (R406). Kinds: 1 message, 2 UALink
write, 3 host write. -/
def State.logEgress (s : State) (p : PillarId) (kind len : Nat) (dest : Word) : State :=
  let x := s.pil p
  let a := vaultPa p (x.saveWindow + 0x3F0000 + 16 * (x.egress.toNat % 3072))
  let v := x.egress.toNat + kind * 2 ^ 32 + len % 65536 * 2 ^ 48 + dest.toNat * 2 ^ 64
  (s.physWrite a 16 v false).modPil p fun x => { x with egress := x.egress + 1 }

/-! ## Double weave -/

/-- The access leaves the doubled rectangle of a twinned job (R397). -/
def State.outgoing (s : State) (p : PillarId) (pl : Place) : Bool :=
  match s.jobOf p with
  | some j =>
    j.twin && (match pl with
      | .vault q _ | .localStore q _ | .signal q => (match j.rect with | some r => !r.has (s.position q) | none => false)
      | _ => true)
  | none => false

/-- The place of a worm among a strand's outgoing worms: that of its instruction in the strand's dispatch order, and its own among
those of its instruction (R397). -/
def wormNumber (ord part : Nat) : Nat := ord * 2 ^ 32 + part

/-- The next outgoing worm of a strand's instruction is held for its twin's hash (R397). -/
def State.holdWorm (s : State) (p : PillarId) (t : StrandId) (ord : Nat) (flits : List Word) (seq : BitVec 16)
    (lvl : BitVec 2) (ringed : Bool := true) : State :=
  let k := (s.strandAt p t).sent.getD ord 0
  let w : HeldWorm :=
    { p := p, t := t, number := wormNumber ord k, flits := flits, since := s.aclk p, seq := seq, lvl := lvl, ringed := ringed }
  State.modStrand { s with integrity := { s.integrity with held := s.integrity.held ++ [w] } } p t fun r =>
    { r with sent := r.sent.set ord (k + 1) }

/-- A worm of the current strand's scalar access is held for its twin's hash (R397). -/
def State.holdAccess (s : State) (flits : List Word) : State :=
  (s.holdWorm s.curP s.curT s.st.worms flits s.me.seqCounter (BitVec.ofNat 2 s.st.lvl) false).modSt fun r =>
    { r with worms := r.worms + 1 }

/-- A strand's outgoing worms are discarded after a mismatch (R397). -/
def State.discards (s : State) (p : PillarId) (t : StrandId) : Bool :=
  s.integrity.discarding.has (p.toNat * 4 + t.val)

/-! ## Performing an access -/

/-- k free words from the c-th on, the first lowest. -/
def freeWords (c : Nat) : Nat → Nat
  | 0 => 0
  | k + 1 => (Config.freeWord c).toNat + 2 ^ 64 * freeWords (c + 1) k

/-- Takes a free value of n bytes: what a peer or the host returns (log entry 8). -/
def State.freeValue (s : State) (n : Nat) : State × Nat :=
  let k := (n + 7) / 8
  ({ s with freeCount := s.freeCount + k }, freeWords s.freeCount k % 2 ^ (8 * n))

/-- What a request worm names besides its address and operands (R293, R397). -/
def procCode (i : Instr) : Word :=
  match i.row with
  | some (r, f) =>
    word (((r.page * 64 + r.op) * 128 + f.mod.toNat) * 2048 + ((f.qual.map QualFields.payload).getD 0).toNat)
  | none => 0

/-- The vault agent of the pillar that holds an address performs a procedure (R302, R314). -/
def State.noteAgent (s : State) (p : PillarId) (pa : Nat) : State :=
  match placeOf pa with
  | .vault q _ => if q == p then s else s.modPil q fun x => x.count 0x4A3
  | _ => s

/-- Performs an access at a vault or the second tier for a strand that sees its own pending stores; gives the value
read. -/
def State.performMem (s : State) (stores : List PendingStore) (o : MemOp) (pa : Nat) (x y : PWord) :
    State × (Nat × Bool) :=
  let old := s.readThrough stores pa o.n
  let s := s.useRow pa
  match o.result old x y with
  | some (v, bad) => (s.physWrite pa o.n v bad, old)
  | none => (s, old)

/-- The write of an access leaves the package, with its egress number and its entry in the egress log (R406). -/
def State.noteEgress (s : State) (p : PillarId) (o : MemOp) (pa : Nat) : State :=
  if o.op.writes then
    match placeOf pa with
    | .peer _ _ => s.logEgress p 2 o.n (word pa)
    | .host _ => s.logEgress p 3 o.n (word pa)
    | _ => s
  else s

/-- Performs an access anywhere for a pillar at a level, once it has returned from a peer or the host; a discarded worm
has no effect (R397). -/
def State.performRemote (s : State) (p : PillarId) (discarded : Bool) (o : MemOp) (pa : Nat) (x y : PWord) :
    State × (Nat × Bool) :=
  if discarded then
    let (s, v) := s.freeValue o.n
    (s, (v, false))
  else
    match placeOf pa with
    | .vault _ _ | .tier _ => (s.noteAgent p pa).performMem [] o pa x y
    | .device off =>
      let v := (s.devReadAt s.st.lvl off).toNat
      (if o.op.writes then s.devWrite (s.st.lvl) off x.bits else s, (v, false))
    | _ =>
      let (s, v) := s.freeValue o.n
      (s, (v, false))

/-- The value that an access writes to its register (R121, R330). -/
def MemOp.value (o : MemOp) (old : Nat × Bool) : PWord := pword (extend o.signed o.n old.1) old.2

/-! ## Parking -/

/-- The running fibre parks (R157): PC, parking record. -/
def State.park (s : State) (pc : LsAddr) (k : Parking) : State :=
  (s.storeFibre pc fun y => { y with state := .parked, parking := k }).count 0x412

/-- The SC operations, which block the runner where other accesses park the fibre (R330). -/
def isSc : Instr → Bool
  | .scld _ | .scst _ | .scamo _ => true
  | _ => false

/-- An access that has been performed and whose answer is on its way: the strand blocks, or its fibre parks
(R109, R157, R330). -/
def State.awaitData (s : State) (i : Instr) (o : MemOp) (v : PWord) : State :=
  let pc := s.nextPc i
  if s.st.inFibre && !isSc i then s.park pc (if o.op.reads then .load o.d v else .ack)
  else
    let s := if o.op.reads then s.setG o.d v else s
    s.modSt fun t => { t with pc := pc, blocked := .access }

/-- An access that goes to a peer, to the host, or to its twin's comparison: the strand blocks, or its fibre parks,
until it returns. -/
def State.awaitRemote (s : State) (i : Instr) (pa : Nat) (va : Word) (x y : PWord) : State :=
  if s.st.inFibre && !isSc i then s.park s.st.pc (.remote i pa (s.aclk s.curP) va x y s.curT (wormNumber (s.st.worms - 1) 0))
  else s.modSt fun t => { t with blocked := .remote i pa (s.aclk s.curP) va x y }

/-! ## Requests to a peer -/

/-- The address lies at a peer. -/
def atPeer (peer : BitVec 10) (pa : Nat) : Bool := match placeOf pa with | .peer n _ => n == peer | _ => false

/-- The strands that wait for a peer, with the VAs of their accesses and when they left. -/
def State.waitingFor (s : State) (peer : BitVec 10) : List (PillarId × StrandId × Word × Nat) :=
  s.pillars.entries.flatMap fun e => allStrands.filterMap fun t =>
    match (e.2.strand t).blocked with
    | .remote _ pa sent va _ _ => if atPeer peer pa then some (BitVec.ofNat 10 e.1, t, va, sent) else none
    | _ => none

/-- The fibres that wait for a peer, and when their accesses left. -/
def State.parkedAt (s : State) (peer : BitVec 10) : List (PillarId × Nat × Nat) :=
  s.pillars.entries.flatMap fun e => e.2.fibres.entries.filterMap fun y =>
    match y.2.parking with
    | .remote _ pa sent _ _ _ _ _ => if atPeer peer pa then some (BitVec.ofNat 10 e.1, y.1, sent) else none
    | _ => none

/-- The fibres whose accesses wait until a peer has room for a request (R421). -/
def State.queuedAt (s : State) (peer : BitVec 10) : List (PillarId × Nat) :=
  s.pillars.entries.flatMap fun e => e.2.fibres.entries.filterMap fun y =>
    match y.2.parking with
    | .queued _ pa _ _ _ _ => if atPeer peer pa then some (BitVec.ofNat 10 e.1, y.1) else none
    | _ => none

/-- The procedures under way to a peer. -/
def Procedure.goesTo (r : Procedure) (peer : BitVec 10) : Bool :=
  match r.phase, r.place with
  | .sent, .peer n _ | .held, .peer n _ | .queued, .peer n _ => n == peer
  | _, _ => false

/-- The requests outstanding at a peer (R421). -/
def State.peerLoad (s : State) (peer : BitVec 10) : Nat :=
  (s.waitingFor peer).length + (s.parkedAt peer).length + (s.procs.filter fun r => r.phase == .sent && r.goesTo peer).length

/-- A request to a peer is held, since 256 are outstanding there or others are held (R421). -/
def State.peerFull (s : State) (pl : Place) : Bool :=
  match pl with
  | .peer n _ =>
    256 ≤ s.peerLoad n || (s.procs.any fun r => r.phase == .queued && r.goesTo n) || !(s.queuedAt n).isEmpty
  | _ => false

/-- What a procedure does as it leaves its pillar (R421). -/
def State.leavePhase (s : State) (pl : Place) : ProcPhase := if s.peerFull pl then .queued else .sent

/-! ## Issue -/

/-- TVAL of the poison trap for data that may not travel on (R372). -/
def poisonData (va : Word) : Word := word (2 ^ 63 + va.toNat % 2 ^ 57)

/-- The checks on the region: device registers by level and size, poison toward peers, the host and devices, and the
regions of the atomic forms (R110, R330, R411). -/
def State.regionCheck (s : State) (i : Instr) (o : MemOp) (pa : Nat) (va : Word) (x y : PWord) : Act Unit := do
  let region := pa / 2 ^ 46 % 4
  let rmw := match o.op with | .amo _ | .cas => true | _ => false
  check (!(isSc i && 2 ≤ region)) 0x1E va
  check (!(rmw && region == 3)) 0x1E va
  match placeOf pa with
  | .device _ =>
    check (s.st.lvl != 0) 0x0C 0
    check (o.n == 8) 0x1E va
  | _ => .ok ()
  check (!(o.op.writes && 2 ≤ region && (x.bad || (o.op == .cas && y.bad)))) 0x0D (poisonData va)

/-- The address, translation and checks of a scalar access: its VA and translation (R121, R330). -/
def State.accessXlate (s : State) (i : Instr) (f : Fields) (o : MemOp) : Act (Word × Xlate) := do
  if o.op.reads then s.destOk o.d
  let va ← s.mAddr f
  check (va.toNat % o.n == 0) 0x1A va
  let x ← s.translate (if o.op.writes then .write else .read) va
  s.regionCheck i o x.pa va (s.g o.d) (s.g (o.d + 1))
  .ok (va, x)

/-- A scalar access before it is performed: the physical address it reaches, its VA and its translation (R121, R330). -/
def State.accessAddr (s : State) (i : Instr) (f : Fields) (o : MemOp) : Act (Nat × Word × Xlate) := do
  let (va, x) ← s.accessXlate i f o
  let pa ← s.reach s.curP x.pa va
  .ok (pa, va, x)

/-- An access to a peer or to the host leaves, once its peer has room for a request: until then a fibre parks, and a strand waits
(R109, R157, R406, R421). -/
def State.sendAway (s : State) (i : Instr) (o : MemOp) (pl : Place) (pa : Nat) (va : Word) (a b : PWord) : Act State :=
  if !s.peerFull pl then .ok ((s.noteEgress s.curP o pa).awaitRemote i pa va a b)
  else if s.st.inFibre && !isSc i then .ok (s.park s.st.pc (.queued i pa va a b s.curT))
  else .error .wait

/-- A scalar access at an address that it reaches, with its two data operands: into the store buffer, at once with the answer on
its way, or to a peer, the host or its twin (R109, R121, R157, R397). -/
def State.performAt (s : State) (i : Instr) (o : MemOp) (pa : Nat) (va : Word) (a b : PWord) : Act State :=
  let pl := placeOf pa
  let pend := s.st.stores.any fun q => overlaps q.pa q.n pa o.n
  if s.outgoing s.curP pl then
    if pend then .error .wait
    else if s.discards s.curP s.curT then
      let (s', v) := s.performRemote s.curP true o pa a b
      .ok (s'.awaitData i o (o.value v))
    else
      .ok ((s.holdAccess (procCode i :: word pa :: o.operands a b)).awaitRemote i pa va a b)
  else
    match pl with
    | .vault q _ =>
      if o.op = .store && q == s.curP && !isSc i then
        if s.st.stores.length < 8 then
          let e : PendingStore := { pa := pa, n := o.n, data := a.bits.toNat % 2 ^ (8 * o.n), bad := a.bad }
          .ok (s.modSt fun t => { t with stores := t.stores ++ [e], pc := s.nextPc i })
        else .error .wait
      else if pend && o.op.writes then .error .wait
      else
        let (s', v) := (s.noteAgent s.curP pa).performMem s.st.stores o pa a b
        .ok (s'.awaitData i o (o.value v))
    | .tier _ =>
      let (s', v) := s.performMem [] o pa a b
      .ok (s'.awaitData i o (o.value v))
    | .device _ =>
      let (s', v) := s.performRemote s.curP false o pa a b
      .ok (s'.awaitData i o (o.value v))
    | pl => s.sendAway i o pl pa va a b

/-- An access that goes to another unit and ends in an error: a fibre parks, and takes the error when it next runs (R157, R158); a
strand takes it at once. -/
def State.accessError (s : State) (i : Instr) (pa : Nat) (c : BitVec 8) (v : Word) : State :=
  let own := match placeOf pa with | .vault q _ => q == s.curP | _ => false
  if s.st.inFibre && !isSc i && !own then s.park s.st.pc (.failed c v) else s.takeTrap { cause := c, tval := v }

/-- A scalar access from its translation on (R121). -/
def State.accessFrom (s : State) (i : Instr) (o : MemOp) (va : Word) (x : Xlate) : Act State :=
  match s.reach s.curP x.pa va with
  | .ok pa => ((s.noteXlate s.walker x).noteForward s.curP x.pa).performAt i o pa va (s.g o.d) (s.g (o.d + 1))
  | .error (.trap c v) => .ok ((s.noteForward s.curP x.pa).accessError i x.pa c v)
  | .error e => .error e

/-- A scalar access from its instruction (R121). -/
def State.access (s : State) (i : Instr) (f : Fields) (o : MemOp) : Act State := do
  let (va, x) ← s.accessXlate i f o
  s.accessFrom i o va x

/-- LD and ST (R121). -/
def scalarAccess (i : Instr) (f : Fields) (o : MemOp) (s : State) : Out := finishAt i s (s.access i f o)

/-- The data of an access return to a blocked strand: the register, the PC, and the strand is ready (R109). -/
def State.returnData (s : State) (i : Instr) (o : MemOp) (v : Nat × Bool) : State :=
  let s := if o.op.reads then s.setG o.d (o.value v) else s
  s.modSt fun t => { t.unblock with pc := s.nextPc i }

/-- LD.i8 (R121). -/
def execLdI8 (f : Fields) (s : State) : Out := scalarAccess (.ldI8 f) f (loadOp 1 true f) s

/-- LD.i16 (R121). -/
def execLdI16 (f : Fields) (s : State) : Out := scalarAccess (.ldI16 f) f (loadOp 2 true f) s

/-- LD.i32 (R121). -/
def execLdI32 (f : Fields) (s : State) : Out := scalarAccess (.ldI32 f) f (loadOp 4 true f) s

/-- LD.i64 (R121). -/
def execLdI64 (f : Fields) (s : State) : Out := scalarAccess (.ldI64 f) f (loadOp 8 true f) s

/-- LD.n8 (R121). -/
def execLdN8 (f : Fields) (s : State) : Out := scalarAccess (.ldN8 f) f (loadOp 1 false f) s

/-- LD.n16 (R121). -/
def execLdN16 (f : Fields) (s : State) : Out := scalarAccess (.ldN16 f) f (loadOp 2 false f) s

/-- LD.n32 (R121). -/
def execLdN32 (f : Fields) (s : State) : Out := scalarAccess (.ldN32 f) f (loadOp 4 false f) s

/-- ST.i8 (R121). -/
def execStI8 (f : Fields) (s : State) : Out := scalarAccess (.stI8 f) f (storeOp 1 f) s

/-- ST.i16 (R121). -/
def execStI16 (f : Fields) (s : State) : Out := scalarAccess (.stI16 f) f (storeOp 2 f) s

/-- ST.i32 (R121). -/
def execStI32 (f : Fields) (s : State) : Out := scalarAccess (.stI32 f) f (storeOp 4 f) s

/-- ST.i64 (R121). -/
def execStI64 (f : Fields) (s : State) : Out := scalarAccess (.stI64 f) f (storeOp 8 f) s

/-! ## Fences -/

/-- Whether an engine instruction counts as a load and as a store of its strand (R331). -/
def accessKinds : Instr → Bool × Bool
  | .rld _ | .rwrd _ | .vld _ | .vgather _ => (true, false)
  | .rst _ | .rfill _ | .rsig _ | .rwadd _ | .send _ | .vst _ | .vscatter _ | .drain _ => (false, true)
  | .ramo _ | .rcas _ | .rfadd _ | .rdecw _ | .rcopy _ => (true, true)
  | _ => (false, false)

/-- A selected kind of earlier access: loads under `.ll` and `.ls`, stores under `.sl` and `.ss` (R331). -/
def fenceCovers (types : Nat) (k : Bool × Bool) : Bool := (k.1 && types / 4 != 0) || (k.2 && types % 4 != 0)

/-- The instructions of a strand that an engine has not ended: queued and accepted. -/
def EngineUnit.pendingOf (u : EngineUnit) (t : StrandId) : List Instr :=
  (u.queue t ++ u.accepted.filter fun d => d.strand == t).map (·.instr)

/-- The page 9 instructions of a strand that are outstanding (R303, R331). -/
def State.proceduresOf (s : State) (p : PillarId) (t : StrandId) : List Instr :=
  let x := s.pil p
  (x.msg.unit.pendingOf t) ++ (s.procs.filter fun r => r.p == p && r.t == t).map (·.instr) ++
    (x.msg.outbox.filter fun e => e.msg.strand == t && !e.msg.fromHost).map fun _ => .send {}

/-- The DRAINs of a strand whose writes have not all been acknowledged (R331). -/
def Pillar.drainsOf (x : Pillar) (t : StrandId) : Nat :=
  ((x.mtx.unit.queue t ++ x.mtx.port.toList.map (·.d)).filter fun d =>
    d.strand == t && (match d.instr with | .drain _ => true | _ => false)).length +
    (x.mtx.drains.filter fun d => d.d.strand == t).length

/-- Every earlier access that a fence selects has been performed (R331). -/
def State.fenceDone (s : State) (scope types : Nat) : Bool :=
  let x := s.me
  let t := s.curT
  (types % 4 == 0 || (s.st.stores.isEmpty && x.tile.writeBacks.all fun w => w.strand != t)) &&
    ((x.vec.pendingOf t).all fun i => !fenceCovers types (accessKinds i)) &&
    (scope == 0 ||
      (((s.proceduresOf s.curP t).all fun i => !fenceCovers types (accessKinds i)) &&
        (types % 4 == 0 || x.drainsOf t == 0)))

/-- The types of a fence name loads among the later accesses: `.ll` or `.sl` (R331). -/
def holdsLoads (types : Nat) : Bool := bitOf types 3 || bitOf types 1

/-- A FENCE (R331): it waits for the accesses it selects. One that orders them only before later stores lets the strand go on, and
holds its later stores until they have been performed (R338; log entry 100). -/
def execFence (f : Fields) (s : State) : Out :=
  let scope := bitsOf f.mod.toNat 6 4
  let types := bitsOf f.mod.toNat 3 0
  finish (.fence f) s do
    waitFor (holdsLoads types || s.st.fence.isNone)
    if !holdsLoads types && !s.fenceDone scope types then .ok ((s.count 0x4B0).modSt fun r => { r with fence := some (scope, types) })
    else do
      waitFor (s.fenceDone scope types)
      .ok (s.count 0x4B0)

/-- A fence that holds back the later stores of a strand ends (R331). -/
def State.endFence (s : State) (p : PillarId) (t : StrandId) : State :=
  match (s.strandAt p t).fence with
  | some (scope, types) =>
    if (s.focus p t).fenceDone scope types then s.modStrand p t fun r => { r with fence := none } else s
  | none => s

/-- LDA (R323, R330): a load; every later access of the strand comes after it. -/
def execLda (f : Fields) (s : State) : Out := scalarAccess (.lda f) f (orderOp .load f) s

/-- STL (R323, R330): a fence of all four types at its scope, then the store. -/
def execStl (f : Fields) (s : State) : Out :=
  finishAt (.stl f) s do
    let (va, x) ← s.accessXlate (.stl f) f (orderOp .store f)
    waitFor (s.fenceDone (bitsOf f.mod.toNat 6 4) 15)
    s.accessFrom (.stl f) (orderOp .store f) va x

/-- AMO (R330): one atomic read-modify-write. -/
def execAmo (f : Fields) (s : State) : Out := scalarAccess (.amo f) f (orderOp (.amo (bitsOf f.mod.toNat 6 3)) f) s

/-- CAS (R330): compares with g[d] and writes g[d+1]. -/
def execCas (f : Fields) (s : State) : Out := scalarAccess (.cas f) f (orderOp .cas f) s

/-- An SC operation (R326, R328, R330): its checks, `fence.pkg.all`, and its announcement; the access comes in the order
S. -/
def announceSc (i : Instr) (f : Fields) (o : MemOp) (s : State) : Out :=
  finishAt i s do
    let (_, va, x) ← s.accessAddr i f o
    waitFor (s.fenceDone 4 15)
    .ok ((s.noteXlate s.walker x).modSt fun t => { t with blocked := .sc i s.clk x.pa va (s.g o.d) })

/-- SCLD (R330). -/
def execScld (f : Fields) (s : State) : Out := announceSc (.scld f) f (orderOp .load f) s

/-- SCST (R330). -/
def execScst (f : Fields) (s : State) : Out := announceSc (.scst f) f (orderOp .store f) s

/-- SCAMO (R330). -/
def execScamo (f : Fields) (s : State) : Out :=
  announceSc (.scamo f) f (orderOp (.amo (bitsOf f.mod.toNat 6 3)) f) s

end Sys2Proof.Machine
end

