-- ==== Sys2Proof/Machine/LocalOps.lean ====
section
/-! DEFINITION. The instructions of page 2 on local store: loads and stores, full/empty forms, overlay fetches, the fenced
jump and the tag table (05_local_store.md R132-R146). -/

namespace Sys2Proof.Machine

/-! ## Loads and stores -/

/-- The matrix-engine instructions of a strand that have not completed. -/
def Pillar.matrixPending (x : Pillar) (t : StrandId) : List Dispatched :=
  x.mtx.unit.queue t ++ ((x.mtx.array.toList ++ x.mtx.port.toList).map (·.d)).filter fun d => d.strand == t

/-- An earlier vector access of the strand (R190), or an MLD, MST or PJOIN of it (R238, R256), has not completed and
overlaps n bytes. -/
def Pillar.vectorBusy (x : Pillar) (t : StrandId) (ea n : Nat) : Bool :=
  ((x.vec.queue t ++ x.vec.accepted.filter fun d => d.strand == t).any fun d =>
    match d.instr with
    | .vld _ | .vst _ => overlaps d.slot 64 ea n
    | .vgather _ | .vscatter _ => true
    | _ => false) ||
    ((x.matrixPending t).any fun d =>
      match d.instr with
      | .mld _ | .mst _ | .pjoin _ => overlaps d.slot (d.aux / 16) ea n
      | _ => false)

/-- Waits for the strand's earlier vector accesses to n bytes (R190). -/
def State.vectorDone (s : State) (ea n : Nat) : Act Unit := waitFor (!s.me.vectorBusy s.curT ea n)

/-- LLD of n bytes (R135). -/
def localLoad (i : Instr) (f : Fields) (n : Nat) (signed : Bool) (s : State) : Out :=
  finish i s do
    s.destOk f.dNum
    let ea ← s.mAddr f
    s.lsCheck ea n
    s.vectorDone ea.toNat n
    let v := s.me.ls.load ea.toNat n
    .ok (s.setG f.dNum (pword (extend signed n v.1) v.2))

/-- LST of n bytes (R135). -/
def localStore (i : Instr) (f : Fields) (n : Nat) (s : State) : Out :=
  finish i s do
    let ea ← s.mAddr f
    s.lsCheck ea n
    s.vectorDone ea.toNat n
    let v := s.g f.dNum
    .ok (s.modMe fun x => x.lsWrite ea.toNat n v.bits.toNat v.bad)

/-- LLD.i8 (R135). -/
def execLldI8 (f : Fields) (s : State) : Out := localLoad (.lldI8 f) f 1 true s

/-- LLD.i16 (R135). -/
def execLldI16 (f : Fields) (s : State) : Out := localLoad (.lldI16 f) f 2 true s

/-- LLD.i32 (R135). -/
def execLldI32 (f : Fields) (s : State) : Out := localLoad (.lldI32 f) f 4 true s

/-- LLD.i64 (R135). -/
def execLldI64 (f : Fields) (s : State) : Out := localLoad (.lldI64 f) f 8 true s

/-- LLD.n8 (R135). -/
def execLldN8 (f : Fields) (s : State) : Out := localLoad (.lldN8 f) f 1 false s

/-- LLD.n16 (R135). -/
def execLldN16 (f : Fields) (s : State) : Out := localLoad (.lldN16 f) f 2 false s

/-- LLD.n32 (R135). -/
def execLldN32 (f : Fields) (s : State) : Out := localLoad (.lldN32 f) f 4 false s

/-- LST.i8 (R135). -/
def execLstI8 (f : Fields) (s : State) : Out := localStore (.lstI8 f) f 1 s

/-- LST.i16 (R135). -/
def execLstI16 (f : Fields) (s : State) : Out := localStore (.lstI16 f) f 2 s

/-- LST.i32 (R135). -/
def execLstI32 (f : Fields) (s : State) : Out := localStore (.lstI32 f) f 4 s

/-- LST.i64 (R135). -/
def execLstI64 (f : Fields) (s : State) : Out := localStore (.lstI64 f) f 8 s

/-! ## Full/empty forms -/

/-- Takes a word for LLDF or LLDE (R140): its value, and the word empty after LLDE. -/
def Pillar.takeWord (x : Pillar) (ea : Nat) (take : Bool) : Pillar × PWord :=
  let v := x.ls.load ea 8
  (if take then x.setEmpty (ea / 8) true 1 else x, pword (word v.1) v.2)

/-- LLDF and LLDE (R140): wait until the word is full; a fibre parks (R157). -/
def fullLoad (i : Instr) (f : Fields) (take : Bool) (s : State) : Out :=
  finishAt i s do
    s.destOk f.dNum
    let ea ← s.mAddr f
    s.lsCheck ea 8
    s.vectorDone ea.toNat 8
    if s.me.isFull ea.toNat then
      let (x, v) := s.me.takeWord ea.toNat take
      .ok (((s.setPil s.curP x).setG f.dNum v).setPc (s.nextPc i))
    else if s.st.inFibre then .ok (s.park s.st.pc (.word (ea.setWidth 19) f.dNum take (s.nextPc i)))
    else .error .wait

/-- LLDF (R140). -/
def execLldf (f : Fields) (s : State) : Out := fullLoad (.lldf f) f false s

/-- LLDE (R140). -/
def execLlde (f : Fields) (s : State) : Out := fullLoad (.llde f) f true s

/-- LSTF (R140). -/
def execLstf (f : Fields) (s : State) : Out :=
  finish (.lstf f) s do
    let ea ← s.mAddr f
    s.lsCheck ea 8
    s.vectorDone ea.toNat 8
    let v := s.g f.dNum
    .ok (s.modMe fun x => x.lsWriteFull ea.toNat v.bits.toNat v.bad)

/-- FESET and FECLR (R142): sets the bits of the range full or empty. DESIGN CHOICE: a range that is both below XB and past the end
of local store takes cause 0x13 (log entry 93). -/
def setRange (i : Instr) (f : Fields) (empty : Bool) (s : State) : Out :=
  finish i s do
    let a := (s.g (rrA f)).bits
    let b := (s.g (rrB f)).bits
    check (a.toNat % 8 == 0 && b.toNat % 8 == 0) 0x1A a
    if b = 0 then .ok s
    else
      match s.me.lsFault a.toNat b.toNat with
      | some c => .error (.trap c a)
      | none =>
        s.vectorDone a.toNat b.toNat
        .ok ((s.modMe fun x => x.setEmpty (a.toNat / 8) empty (b.toNat / 8)).issueAfter (ceilDiv b.toNat 512))

/-- FESET (R142). -/
def execFeset (f : Fields) (s : State) : Out := setRange (.feset f) f false s

/-- FECLR (R142). -/
def execFeclr (f : Fields) (s : State) : Out := setRange (.feclr f) f true s

/-! ## Segments -/

/-- An entry of the segment table (R131). -/
def Pillar.seg (x : Pillar) (n : Nat) : Segment := x.segs[n]?.getD {}

/-- Replaces an entry of the segment table. -/
def Pillar.setSeg (x : Pillar) (n : Nat) (g : Segment) : Pillar := { x with segs := x.segs.setIfInBounds n g }

/-- A segment overlaps a range of local store (R132). -/
def Segment.meets (g : Segment) (a n : Nat) : Bool := overlaps (g.baseKb * 1024) (g.lenKb * 1024) a n

/-- The number of the segment in one of some states that holds an address (R129, R134). -/
def Pillar.segAt (x : Pillar) (states : List (BitVec 2)) (a : Nat) : Option Nat :=
  (List.range 16).find? fun j => states.contains (x.seg j).state && (x.seg j).meets a 1

/-- TVAL of a segment trap (R130). -/
def Pillar.segTval (x : Pillar) (a j : Nat) : Word := word (a + j * 2 ^ 20 + (x.seg j).state.toNat * 2 ^ 24)

/-- Segments in some states that overlap a range become empty. -/
def Pillar.dropSegs (x : Pillar) (states : List (BitVec 2)) (a n : Nat) : Pillar :=
  { x with segs := x.segs.map fun g => if states.contains g.state && g.meets a n then { g with state := 0 } else g }

/-- The destination of a CFETCH descriptor (R132). -/
def cfetchDst (b : Word) : Nat := b.bits 18 0

/-- The length of a CFETCH descriptor (R132). -/
def cfetchLen (b : Word) : Nat := b.bits 40 32 * 1024

/-- The fields of a CFETCH descriptor that must be zero, and the alignment of its source (R132). -/
def cfetchFields (va b : Word) : Bool := va.bits 5 0 == 0 && b.bits 9 0 == 0 && b.bits 31 19 == 0 && b.bits 63 41 == 0

/-- CFETCH (R132). -/
def execCfetch (f : Fields) (s : State) : Out :=
  finish (.cfetch f) s do
    let n := bitsOf f.mod.toNat 3 0
    let va := (s.g (rrA f)).bits
    let b := (s.g (rrB f)).bits
    let x := s.me
    check (cfetchFields va b) 0x15 b
    let dst := cfetchDst b
    let len := cfetchLen b
    check (len != 0 && dst + len ≤ x.xb) 0x15 b
    check ((x.seg n).state != 1 && x.segs.toList.all fun g => !(g.state == 1 && g.meets dst len)) 0x15 b
    s.room .tile
    let d := { s.capture (.cfetch f) with slot := n, aux := dst }
    let s := s.dispatchAs .tile d
    .ok (s.modMe fun x => (x.dropSegs [2, 3] dst len).setSeg n
      { lenKb := len / 1024, baseKb := dst / 1024, state := 1 })

/-- No late fault waits for the strand; a completion instruction lets it be delivered first (R368). DESIGN CHOICE: one of an
instruction of a lower level, which cannot be delivered here, is not waited for (log entry 91). -/
def State.noLates (s : State) : Act Unit := waitFor s.st.deliverable.isNone

/-- CWAIT (R133). -/
def execCwait (f : Fields) (s : State) : Out :=
  finish (.cwait f) s do
    s.destOk f.dNum
    let g := s.me.seg (bitsOf f.mod.toNat 3 0)
    waitFor (g.state != 1)
    s.noLates
    .ok (s.setGw f.dNum (g.state.setWidth 64))

/-- JMPF (R134): checks the target's segment at the jump. -/
def execJmpf (f : Fields) (s : State) : Out :=
  finishAt (.jmpf f) s do
    s.destOk f.dNum
    let a ← notPoison 0 f.sNum (s.g f.sNum)
    let tgt : LsAddr := a.setWidth 19 &&& 0x7FFFE
    check (tgt.toNat < s.me.xb) 0x11 (tgt.setWidth 64)
    match s.me.segAt [1, 3] tgt.toNat with
    | some j => .error (.trap 0x12 (s.me.segTval tgt.toNat j))
    | none => .ok (((s.setGw f.dNum ((s.nextPc (.jmpf f)).setWidth 64)).setPc tgt).issueAfter 3)

/-! ## The tag table -/

/-- A slot of the tag table (R144). -/
def TagTable.slot (g : TagTable) (j : Nat) : TagSlot := g.slots.getD j {}

/-- Replaces a slot. -/
def TagTable.setSlot (g : TagTable) (j : Nat) (t : TagSlot) : TagTable := { g with slots := g.slots.set j t }

/-- Makes a slot the most recent (R144). -/
def TagTable.touch (g : TagTable) (j : Nat) : TagTable := { g with recency := j :: g.recency.filter (· != j) }

/-- The slot that holds a tag, filling or valid (R146). -/
def TagTable.find (g : TagTable) (tag : BitVec 54) : Option Nat :=
  (List.range g.count).find? fun j => ((g.slot j).state == 1 || (g.slot j).state == 2) && (g.slot j).tag == tag

/-- The victim that TLOOK offers: the lowest invalid or failed slot, else the least recent valid one (R146). -/
def TagTable.victim (g : TagTable) : Option Nat :=
  ((List.range g.count).find? fun j => (g.slot j).state == 0 || (g.slot j).state == 3).or
    (g.recency.reverse.find? fun j => j < g.count && (g.slot j).state == 2)

/-- A fault of the tag table: reason and slot (R146). -/
def tagFault (reason slot : Nat) : Stop := .trap 0x16 (word (reason * 256 + slot % 256))

/-- Stops with a tag-table fault unless a condition holds. -/
def tagCheck (ok : Bool) (reason slot : Nat) : Act Unit := if ok then .ok () else .error (tagFault reason slot)

/-- What TLOOK writes on a miss (R146). -/
def TagTable.missWord (g : TagTable) : Word :=
  match g.victim with
  | some v =>
    word (2 ^ 63 + boolNat (g.slot v).dirty * 512 + boolNat ((g.slot v).state == 2) * 256 + v)
  | none => word (2 ^ 63 + 1024)

/-- The base of block j of the cache area (R143). -/
def TagTable.blockAddr (g : TagTable) (j : Nat) : Nat := g.baseKb * 1024 + j * 1024

/-- TLOOK (R146). A poisoned address passes its poison to the result (R12, R110). DESIGN CHOICE: it looks up, touches and counts
with the bits it holds, as TFILL, TEVICT, TINVAL, CFETCH, FESET and FECLR act on theirs (log entry 92). -/
def execTlook (f : Fields) (s : State) : Out :=
  finish (.tlook f) s do
    s.destOk f.dNum
    let va := (s.g f.sNum).bits
    let bad := (s.g f.sNum).bad
    let g := s.me.tags
    tagCheck (g.count != 0) 1 0
    match g.find (BitVec.ofNat 54 (va.bits 63 10)) with
    | some j =>
      let s := s.setG f.dNum (pword (word (g.blockAddr j + va.bits 9 0)) bad)
      .ok ((s.modMe fun x => { x with tags := x.tags.touch j }).count 0x403)
    | none => .ok ((s.setG f.dNum (pword g.missWord bad)).count 0x404)

/-- TFILL (R146): tags the slot, empties its words and dispatches the fill. -/
def execTfill (f : Fields) (s : State) : Out :=
  finish (.tfill f) s do
    let va := (s.g (rrA f)).bits
    let j := (s.g (rrB f)).bits.bits 7 0
    let g := s.me.tags
    let tag := BitVec.ofNat 54 (va.bits 63 10)
    tagCheck (g.count != 0) 1 j
    tagCheck (j < g.count) 2 j
    tagCheck (va.bits 9 0 == 0) 3 j
    tagCheck ((g.slot j).state != 1) 4 j
    tagCheck (match g.find tag with | some k => k == j | none => true) 5 j
    s.room .tile
    let d := { s.capture (.tfill f) with slot := j, aux := g.blockAddr j }
    let s := s.dispatchAs .tile d
    .ok (s.modMe fun x =>
      { x.setEmpty (g.blockAddr j / 8) true 128 with tags := (x.tags.setSlot j { tag := tag, state := 1 }).touch j })

/-- The write-back of a block (R146). -/
def State.writeBack (s : State) (j : Nat) : WriteBack :=
  let x := s.me
  let a := x.tags.blockAddr j
  { strand := s.curT, seq := x.seqCounter, lvl := BitVec.ofNat 2 s.st.lvl, ord := s.st.worms
    va := word ((x.tags.slot j).tag.toNat * 1024)
    block := Memory.write {} 0 1024 (x.ls.bytes.read a 1024)
    bad := { elems := (List.range 128).filter fun w => x.ls.bad.has (a / 8 + w) } }

/-- TEVICT (R146): writes a dirty block back, and the slot becomes invalid. A poisoned slot number passes its poison to the result
(R12, R110). -/
def execTevict (f : Fields) (s : State) : Out :=
  finish (.tevict f) s do
    s.destOk f.dNum
    let j := (s.g f.sNum).bits.bits 7 0
    let code (v : Word) : PWord := pword v (s.g f.sNum).bad
    let g := s.me.tags
    tagCheck (g.count != 0) 1 j
    tagCheck (j < g.count) 2 j
    waitFor ((g.slot j).state != 1)
    let invalid (s : State) : State := s.modMe fun x => { x with tags := x.tags.setSlot j {} }
    if (g.slot j).state == 2 && (g.slot j).dirty then
      let wb := s.writeBack j
      let s := (s.setG f.dNum (code 1)).modMe fun x =>
        { x with tile := { x.tile with writeBacks := x.tile.writeBacks ++ [wb] } }
      let s := s.modSt fun r => { r with worms := r.worms + 1 }
      .ok (((invalid s).issueAfter 16).count 0x405)
    else .ok (invalid (s.setG f.dNum (code 0)))

/-- TINVAL (R146): drops a slot, or all of them. -/
def execTinval (f : Fields) (s : State) : Out :=
  finish (.tinval f) s do
    let g := s.me.tags
    if bitOf f.mod.toNat 0 then
      waitFor (g.slots.entries.all fun e => e.2.state != 1)
      .ok (s.modMe fun x => { x with tags := { x.tags with slots := {} } })
    else
      let j := (s.g f.sNum).bits.bits 7 0
      tagCheck (g.count != 0) 1 j
      tagCheck (j < g.count) 2 j
      waitFor ((g.slot j).state != 1)
      .ok (s.modMe fun x => { x with tags := x.tags.setSlot j {} })

end Sys2Proof.Machine
end

