-- ==== Sys2Proof/Machine/Fibres.lean ====
section
/-! DEFINITION. Fibre mode, FORK and JOIN, and the events of runners (06_fibres.md R149-R163). -/

namespace Sys2Proof.Machine

/-! ## Slots and counters -/

/-- The lowest free slot (R156). -/
def Pillar.freeSlot (x : Pillar) : Option Nat := (List.range 256).find? fun j => (x.fibre j).state == .free

/-- How many slots are in a state (R150). -/
def Pillar.slotsIn (x : Pillar) (st : FibreState) : Nat := (x.fibres.entries.filter fun e => e.2.state == st).length

/-- Makes a slot ready and pushes it at the near end (R158). -/
def Pillar.wake (x : Pillar) (j : Nat) (f : FibreSlot → FibreSlot) : Pillar :=
  { x.modFibre j fun y => { f y with state := .ready, parking := .none } with runQueue := j :: x.runQueue }

/-- A join counter's word (R156). -/
def Pillar.counter (x : Pillar) (ca : Nat) : Nat := x.ls.bytes.read ca 8

/-- Writes a join counter; its full/empty bit and poison stay (R156). -/
def Pillar.setCounter (x : Pillar) (ca v : Nat) : Pillar := x.lsWrite ca 8 v (x.ls.bad.has (ca / 8))

/-- COUNT of a join counter. -/
def ctrCount (v : Nat) : Nat := bitsOf v 15 0

/-- WAIT of a join counter. -/
def ctrWait (v : Nat) : Bool := bitOf v 16

/-- WSLOT of a join counter. -/
def ctrSlot (v : Nat) : Nat := bitsOf v 24 17

/-- The reserved bits of a join counter are zero (R156). -/
def ctrOk (v : Nat) : Bool := v / 2 ^ 25 == 0

/-- A slot holds a fibre that is parked in a JOIN (R156, R157). -/
def FibreSlot.joining (y : FibreSlot) : Bool := y.state == .parked && (match y.parking with | .join _ => true | _ => false)

/-- FEXIT's decrement at the home pillar (R156): the last child wakes the parked joiner. DESIGN CHOICE: a slot that WSLOT names and
that holds no fibre parked in a JOIN stays as it is, so that the run queue holds every ready slot once and nothing else (R151; log
entry 97). -/
def Pillar.decrement (x : Pillar) (ca : Nat) : Pillar :=
  let v := x.counter ca
  if ctrCount v = 0 then x.count 0x416
  else if ctrCount v = 1 && ctrWait v then
    let y := x.setCounter ca (v - 1 - 2 ^ 16)
    if (x.fibre (ctrSlot v)).joining then y.wake (ctrSlot v) id else y
  else x.setCounter ca (v - 1)

/-! ## The instructions -/

/-- FRUN (R153): the strand enters fibre mode; RUNNER_LOAD_FIBRE carries its loop on. -/
def execFrun (f : Fields) (s : State) : Out :=
  finishAt (.frun f) s do
    s.destOk f.dNum
    check (!s.st.inFibre) 0x1C 0
    check (!s.twinned s.curP) 0x18 0
    let m : FibreMode :=
      { once := bitOf f.mod.toNat 0, dest := f.dNum, pc := s.st.pc, ret := s.nextPc (.frun f), saved := s.st.g18
        slot := none, since := s.aclk s.curP, backoff := 0 }
    .ok (s.modSt fun t => { t with modes := m :: t.modes, stopReq := false })

/-- Strand n of a pillar takes the stop request of bit n (R155). -/
def stopRequest (v n : Nat) (t : Strand) : Strand :=
  if bitOf v n && !t.modes.isEmpty then { t with stopReq := true } else t

/-- FSTOP (R155). -/
def execFstop (f : Fields) (s : State) : Out :=
  finish (.fstop f) s do
    let v := (s.g f.sNum).bits.toNat
    .ok (s.modMe fun x => { x with strands := x.strands.mapIdx (stopRequest v) })

/-- FORK (R156): a release at rectangle scope toward the child (R325). DESIGN CHOICE: FORK and JOIN act on the bits of a poisoned
counter address, and an update of a poisoned counter word leaves its mark (log entry 92). -/
def execFork (f : Fields) (s : State) : Out :=
  finish (.fork f) s do
    s.destOk f.dNum
    check (!s.twinned s.curP) 0x18 0
    let ca := (s.g (riA f)).bits
    if ca != 0 then s.lsCheck ca 8
    match s.me.freeSlot with
    | none => .ok ((s.setGw f.dNum (-1)).count 0x411)
    | some j =>
      waitFor (s.fenceDone 3 15)
      let v := s.me.counter ca.toNat
      check (ca == 0 || (ctrOk v && ctrCount v < 65535)) 0x1D ca
      let child : FibreSlot :=
        { state := .ready, pc := s.st.pc + BitVec.ofInt 19 (2 * f.immS), regs := s.st.g18
          link := if ca == 0 then none else some (s.curP, ca.setWidth 19) }
      let s := s.modMe fun x =>
        let x := if ca == 0 then x else x.setCounter ca.toNat (v + 1)
        { x.modFibre j fun _ => child with runQueue := j :: x.runQueue }
      .ok ((s.setGw f.dNum (word j)).count 0x410)

/-- JOIN (R156): returns when COUNT is 0; a fibre parks, a strand waits. DESIGN CHOICE: a poisoned counter address or word acts with its
bits (log entry 92). -/
def execJoin (f : Fields) (s : State) : Out :=
  finishAt (.join f) s do
    let ca := (s.g f.sNum).bits
    s.lsCheck ca 8
    let v := s.me.counter ca.toNat
    check (ctrOk v) 0x1D ca
    if ctrCount v = 0 then .ok (s.setPc (s.nextPc (.join f)))
    else
      check (!ctrWait v) 0x1D ca
      if s.st.inFibre then
        let s' := s.modMe fun x => x.setCounter ca.toNat (bitsOf v 15 0 + 2 ^ 16 + s.st.slot * 2 ^ 17)
        .ok (s'.park s.st.pc (.join (ca.setWidth 19)))
      else .error .wait

/-- FYIELD (R156): the fibre goes to the far end of the run queue. -/
def execFyield (f : Fields) (s : State) : Out :=
  finishAt (.fyield f) s do
    check s.st.inFibre 0x1C 0
    let j := s.st.slot
    let s := s.storeFibre (s.nextPc (.fyield f)) fun y => { y with state := .ready }
    .ok (s.modMe fun x => { x with runQueue := x.runQueue ++ [j] })

/-- The home pillar of a join link, past a migration (R156, R390). -/
def State.linkHome (s : State) (p : PillarId) : PillarId := s.forward (s.redirect s.curP p)

/-- FEXIT's checks of the counter that its link names: in the own local store those of R126, and its reserved bits (R156). At
another pillar a word that R126 refuses is no counter, and the refusal comes late. -/
def State.linkCheck (s : State) (p : PillarId) (ca : LsAddr) : Act Unit := do
  let q := s.linkHome p
  match (if q == s.curP then s.me.lsFault ca.toNat 8 else none) with
  | some c => .error (.trap c (ca.setWidth 64))
  | none =>
    check (!(s.lsTarget s.curP p ca.toNat 8).isOk || ctrOk ((s.pil q).counter ca.toNat)) 0x1D (ca.setWidth 64)

/-- FEXIT's decrement at the home pillar (R156). One that goes to another pillar and is refused ends as a procedure does, with a
late fault (R126, R303, R403; log entry 83). -/
def State.releaseLink (s : State) (p : PillarId) (ca : LsAddr) : State :=
  match s.lsTarget s.curP p ca.toNat 8 with
  | .ok q =>
    let s := s.noteRewrite s.curP p
    let s := if q == s.curP then s else s.modPil q fun x => x.count 0x4A3
    s.modPil q fun x => x.decrement ca.toNat
  | .error (.trap c v) =>
    s.modMe fun x => x.raiseLate s.curT
      { seq := x.seqCounter, lvl := BitVec.ofNat 2 s.st.lvl, cause := c, tval := v, ringed := false }
  | .error _ => s

/-- FEXIT (R156): frees the slot and decrements the counter that its link names, as a release (R325). -/
def execFexit (f : Fields) (s : State) : Out :=
  finishAt (.fexit f) s do
    check s.st.inFibre 0x1C 0
    let j := s.st.slot
    let link := (s.me.fibre j).link
    match link with
    | some (p, ca) => do
      s.linkCheck p ca
      waitFor (s.fenceDone 3 15)
    | none => .ok ()
    let s := (s.modSt fun t => t.leaveFibre (s.aclk s.curP)).modMe fun x => x.modFibre j fun _ => {}
    match link with
    | some (p, ca) => .ok (s.releaseLink p ca)
    | none => .ok s

/-- JOIN of a strand that waits returns once COUNT is 0; a WAIT that a fibre has set meanwhile is not its concern (R156). -/
def resumeJoin (f : Fields) (s : State) : Out :=
  finishAt (.join f) s do
    let ca := (s.g f.sNum).bits
    s.lsCheck ca 8
    let v := s.me.counter ca.toNat
    check (ctrOk v) 0x1D ca
    if ctrCount v = 0 then .ok (s.setPc (s.nextPc (.join f))) else .error .wait

/-! ## Runners -/

/-- FRUN returns a code other than 3: FBCUR keeps the slot without VALID (R160). -/
def Strand.endRunCode (t : Strand) (code : Nat) : Strand :=
  { t.endRun (word code) with fbcur := t.fbcur &&& 0xFF }

/-- Loads a fibre on the current strand (R154, R160); a fibre with a fault takes it at once (R158, R161). -/
def State.loadFibre (s : State) (j : Nat) : State :=
  let y := s.me.fibre j
  let s := s.modMe fun x =>
    { x.modFibre j fun y => { y with state := .running, fault := none } with runQueue := x.runQueue.filter (· != j) }
  let s := s.modSt fun t => match t.modes with
    | m :: ms =>
      { t.setG18 y.regs with
        modes := { m with slot := some (BitVec.ofNat 8 j), backoff := 0 } :: ms, pc := y.pc, notBefore := s.aclk s.curP + 7
        fbcur := BitVec.ofNat 9 (256 + j) }
    | [] => t
  match y.fault with
  | some (c, v) => s.takeTrap { cause := c, tval := v }
  | none => s

/-- The strand is a runner without a fibre (R153). -/
def Strand.waitingRunner (t : Strand) : Bool :=
  t.run == .running && (match t.modes with | m :: _ => m.slot.isNone | [] => false)

/-- The pillar holds no running, parked or faulted fibre (R153). -/
def Pillar.quiescent (x : Pillar) : Bool :=
  x.slotsIn .running == 0 && x.slotsIn .parked == 0 && x.slotsIn .faulted == 0

/-- DOMAIN of STEAL (R159). -/
def Pillar.stealDomain (x : Pillar) : Nat := x.steal.bits 1 0

/-- BACKOFF of STEAL; 0 acts as 1 (R159). -/
def Pillar.stealBackoff (x : Pillar) : Nat := max 1 (x.steal.bits 31 16)

/-- Inserts a pillar in ascending order. -/
def insertPillar (p : PillarId) : List PillarId → List PillarId
  | [] => [p]
  | q :: qs => if p.toNat ≤ q.toNat then p :: q :: qs else q :: insertPillar p qs

/-- The pillars of the thief's domain in the order it tries them: ascending, from its own on, wrapping (R159). -/
def State.stealOrder (s : State) (p : PillarId) : List PillarId :=
  let x := s.pil p
  let ps : List PillarId :=
    match x.stealDomain with
    | 1 => (match x.mtx.loom with | some l => if l.formed then l.members else [] | none => [])
    | 2 => (match s.jobOf p with | some j => ((j.rect.map (s.seats j.number)).getD []) | none => [])
    | _ => []
  let ps := ps.foldr insertPillar []
  (ps.filter fun q => p.toNat < q.toNat) ++ (ps.filter fun q => q.toNat < p.toNat)

/-- A runner may start a steal round (R153, R159). -/
def State.canSteal (s : State) (p : PillarId) (t : StrandId) : Bool :=
  let x := s.pil p
  let r := x.strand t
  r.waitingRunner && !r.stopReq && x.runQueue.isEmpty && x.stealDomain != 0 && x.stealDomain != 3 &&
    (match r.modes with | m :: _ => !m.once && m.backoff == 0 | [] => false) && x.freeSlot.isSome

/-- The runner waits for a wake, a stop request or the end of BACKOFF (R153). -/
def Strand.backingOff (r : Strand) : Bool := match r.modes with | m :: _ => m.backoff != 0 | [] => false

/-- A runner that has found nothing waits for BACKOFF clk (R153, R159). -/
def Strand.backOff (r : Strand) (until_ : Nat) : Strand :=
  match r.modes with
  | m :: ms => { r with modes := { m with backoff := until_ } :: ms }
  | [] => r

/-- The end of a turn of FRUN's loop that has found no fibre (R153): code 0 on a quiescent pillar, or a wait. -/
def State.runnerIdle (s : State) (p : PillarId) (t : StrandId) : State :=
  let x := s.pil p
  s.modStrand p t fun r => if x.quiescent then r.endRunCode 0 else r.backOff (s.aclk p + x.stealBackoff)

/-- The loop of FRUN has something to do (R153): while it waits, only a fibre or a stop request ends the wait early, and a steal
round comes before the rest of a turn. -/
def State.runnerReady (s : State) (p : PillarId) (t : StrandId) : Bool :=
  let x := s.pil p
  let r := x.strand t
  r.waitingRunner &&
    (r.stopReq || !x.runQueue.isEmpty || (r.modes.head?.map (·.once)).getD false || (!r.backingOff && !s.canSteal p t))

/-- One turn of FRUN's loop (R153, R154). -/
def execRunnerLoadFibre (p : PillarId) (t : StrandId) (s : State) : Out :=
  if !s.runnerReady p t then .next s
  else
    let s := s.focus p t
    let x := s.me
    if (x.strand t).stopReq then .next (s.modSt fun r => { r.endRunCode 2 with stopReq := false })
    else
      match x.runQueue with
      | j :: _ => .next (s.loadFibre j)
      | [] =>
        if (x.strand t).modes.head?.map (·.once) == some true then .next (s.modSt fun r => r.endRunCode 1)
        else .next (s.runnerIdle p t)

/-! ## Wakes -/

/-- Writes a register of a fibre's slot (R158). -/
def FibreSlot.setReg (y : FibreSlot) (d : Nat) (v : PWord) : FibreSlot :=
  if d = 0 then y else { y with regs := y.regs.setIfInBounds (d - 1) v }

/-- A parked access has ended: its value, if it reads one, and the PC past it (R158). -/
def FibreSlot.returned (i : Instr) (o : MemOp) (old : Nat × Bool) (y : FibreSlot) : FibreSlot :=
  let y := { y with pc := y.pc + BitVec.ofNat 19 (2 * instrLen i) }
  if o.op.reads then y.setReg o.d (o.value old) else y

/-- The fibre of a pillar that is parked on a worm of a strand. -/
def Pillar.parkedOn (x : Pillar) (t : StrandId) (worm : Nat) : Option Nat :=
  (x.fibres.entries.find? fun e =>
    match e.2.parking with | .remote _ _ _ _ _ _ u n => u == t && n == worm | _ => false).map (·.1)

/-- A parked access to a peer, to the host, or of a pair of twins whose worms matched, is performed and returns, or ends with cause
0x07 (R158, R358): the left twin's is performed, and its fibre and the right one wake alike (R397). -/
def State.wakeRemote (s : State) (p : PillarId) (j : Nat) (i : Instr) (pa : Nat) (va : Word) (x y : PWord)
    (t : StrandId) (worm : Nat) : State :=
  match memOpOf i with
  | none => s
  | some o =>
    let s := s.focus p t
    let twin := if s.outgoing p (placeOf pa) then (s.pil (s.twinOf p)).parkedOn t worm else none
    let wakeAll (s : State) (f : FibreSlot → FibreSlot) : State :=
      let s := s.modPil p fun z => z.wake j f
      match twin with
      | some k => s.modPil (s.twinOf p) fun z => z.wake k f
      | none => s
    match s.reach p pa va with
    | .error (.trap c v) => wakeAll s fun y => { y with fault := some (c, v) }
    | .error _ => s
    | .ok pa' =>
      let (s, old) := s.performRemote p false o pa' x y
      wakeAll s (FibreSlot.returned i o old)

/-- No worm of a strand is held for its twin's hash. -/
def State.wormsGone (s : State) (p : PillarId) (t : StrandId) : Bool :=
  s.integrity.held.all fun w => !(w.p == p && w.t == t)

/-- A remote access of a strand can return: its worm has gone, through a port that carries it, and a right twin's ends with the left
one's (R397, R419). -/
def State.remoteReady (s : State) (p : PillarId) (t : StrandId) (pa : Nat) : Bool :=
  s.carried (placeOf pa) && if s.outgoing p (placeOf pa) then !s.inRightHalf p && s.wormsGone p t && s.wormsGone (s.twinOf p) t
  else s.wormsGone p t

/-- The procedures of a strand that are outstanding (R303). -/
def Pillar.outstandingOf (x : Pillar) (t : StrandId) : Nat := (x.msg.outstanding.filter fun e => e.1 == t).length

/-- A peer has room for one more request (R421). -/
def State.peerRoom (s : State) (pa : Nat) : Bool := match placeOf pa with | .peer n _ => s.peerLoad n < 256 | _ => true

/-- The access of a parked fibre leaves for its peer (R157, R406, R421). -/
def State.sendParked (s : State) (p : PillarId) (j : Nat) (i : Instr) (pa : Nat) (va : Word) (x y : PWord) (t : StrandId) : State :=
  let s := match memOpOf i with | some o => s.noteEgress p o pa | none => s
  s.modPil p fun z => z.modFibre j fun f => { f with parking := .remote i pa (s.aclk p) va x y t 0 }

/-- What a parked fibre waits for has come (R157, R158, R421). -/
def State.wakeReady (s : State) (p : PillarId) (j : Nat) : Bool :=
  let x := s.pil p
  let y := x.fibre j
  y.state == .parked &&
    (match y.parking with
    | .load _ _ | .ack | .failed _ _ => true
    | .remote _ pa _ _ _ _ t _ => s.remoteReady p t pa
    | .queued _ pa _ _ _ _ => s.peerRoom pa
    | .word ea _ _ _ => x.isFull ea.toNat
    | .procedures t limit _ => x.outstandingOf t ≤ limit && (x.strand t).lates.isEmpty
    | _ => false)

/-- A fibre wakes (R158): its value is written, and it becomes ready at the near end. -/
def execFibreWake (p : PillarId) (slot : BitVec 8) (s : State) : Out :=
  let j := slot.toNat
  if !s.wakeReady p j then .next s
  else
    let x := s.pil p
    match (x.fibre j).parking with
    | .load d v => .next (s.setPil p (x.wake j fun y => y.setReg d v))
    | .ack => .next (s.setPil p (x.wake j id))
    | .failed c v => .next (s.setPil p (x.wake j fun y => { y with fault := some (c, v) }))
    | .remote i pa _ va a b t n => .next (s.wakeRemote p j i pa va a b t n)
    | .queued i pa va a b t => .next (s.sendParked p j i pa va a b t)
    | .word ea d take next =>
      let (x, v) := x.takeWord ea.toNat take
      .next (s.setPil p (x.wake j fun y => { y.setReg d v with pc := next }))
    | .procedures t _ d => .next (s.setPil p (x.wake j fun y => y.setReg d { bits := word (x.outstandingOf t) }))
    | _ => .next s

/-! ## Steal rounds -/

/-- An entry of a victim's run queue that a thief may take: its own runners take the entries they reach for in the same clk
first (R151), and the pillar can be reached (R403). -/
def State.stealable (s : State) (p q : PillarId) : Bool :=
  let v := s.pil q
  let takers := (v.strands.toList.filter fun r => r.waitingRunner && !r.stopReq).length
  takers < v.runQueue.length && (match s.reachPillar p q with | .ok () => true | .error _ => false)

/-- The stores of a pillar's store buffers are performed (R109). -/
def State.drainAll (s : State) (q : PillarId) : State :=
  allStrands.foldl (fun s t => ((s.strandAt q t).stores.foldl (fun s _ => s.drainStore q t) s)) s

/-- The accesses of a pillar's strands, but for the stores in its store buffers, have been performed: the release of a steal
waits for them (R159, R325). -/
def State.releasable (s : State) (q : PillarId) : Bool :=
  allStrands.all fun t => ((s.drainAll q).focus q t).fenceDone 3 15

/-- The far-end entry of a victim moves into slot j of the thief (R159): a release at the victim (R325). -/
def State.steal (s : State) (p q : PillarId) (j : Nat) : State :=
  let s := s.drainAll q
  let v := s.pil q
  let k := v.runQueue.getLastD 0
  let y := v.fibre k
  let s := s.setPil q { v.modFibre k fun _ => {} with runQueue := v.runQueue.dropLast }
  s.modPil p fun x => { (x.modFibre j fun _ => y).count 0x413 with runQueue := j :: x.runQueue }

/-- A steal round in which every attempt fails, and the rest of its turn (R153, R159). -/
def State.stealFails (s : State) (p : PillarId) (t : StrandId) : State := (s.runnerIdle p t).modPil p fun x => x.count 0x414

/-- A steal round (R159). -/
def execStealRound (p : PillarId) (t : StrandId) (s : State) : Out :=
  if !s.canSteal p t then .next s
  else
    match (s.stealOrder p).find? (s.stealable p), (s.pil p).freeSlot with
    | some q, some j => .next (if s.releasable q then s.steal p q j else s)
    | _, _ => .next (s.stealFails p t)

/-- The wait after a failed round is over (R153, R159). -/
def execStealBackoffExpiry (p : PillarId) (t : StrandId) (s : State) : Out :=
  .next (s.modStrand p t fun r => match r.modes with
    | m :: _ => if m.backoff ≤ s.aclk p then r.backOff 0 else r
    | [] => r)

end Sys2Proof.Machine
end

