-- ==== Sys2Proof/Machine/Numbers.lean ====
section
/-! DEFINITION. Number formats, rounding, conversions, the transcendental units, exact sums and wide cells
(02_number_formats.md R46-R69). A finite value is held exactly, as ±m × 2^e. -/

namespace Sys2Proof.Machine

/-! ## Values -/

/-- An exact number or a special value (R9). -/
inductive FVal where
  | nan
  | inf (neg : Bool)
  | fin (neg : Bool) (m : Nat) (e : Int)
  deriving DecidableEq, Repr, Inhabited

/-- A floating-point format: exponent and fraction bits, bias, the largest exponent field and the largest fraction of a
finite value, and the codes of infinity and NaN without the sign (R47, R49). -/
structure FFormat where
  ebits : Nat
  mbits : Nat
  bias : Nat
  maxExp : Nat
  maxFrac : Nat
  inf : Option Nat
  nan : Option Nat
  deriving DecidableEq, Repr, Inhabited

/-- The floating-point formats (R47, R49). -/
def formatOf : EType → Option FFormat
  | .f64 => some { ebits := 11, mbits := 52, bias := 1023, maxExp := 2046, maxFrac := 2 ^ 52 - 1
                   inf := some 0x7FF0000000000000, nan := some 0x7FF8000000000000 }
  | .f32 => some { ebits := 8, mbits := 23, bias := 127, maxExp := 254, maxFrac := 2 ^ 23 - 1
                   inf := some 0x7F800000, nan := some 0x7FC00000 }
  | .f16 => some { ebits := 5, mbits := 10, bias := 15, maxExp := 30, maxFrac := 1023
                   inf := some 0x7C00, nan := some 0x7E00 }
  | .bf16 => some { ebits := 8, mbits := 7, bias := 127, maxExp := 254, maxFrac := 127
                    inf := some 0x7F80, nan := some 0x7FC0 }
  | .e4m3 => some { ebits := 4, mbits := 3, bias := 7, maxExp := 15, maxFrac := 6, inf := none, nan := some 0x7F }
  | .e5m2 => some { ebits := 5, mbits := 2, bias := 15, maxExp := 30, maxFrac := 3, inf := some 0x7C, nan := some 0x7E }
  | .e2m1 => some { ebits := 2, mbits := 1, bias := 1, maxExp := 3, maxFrac := 1, inf := none, nan := none }
  | _ => none

/-- The width of a format. -/
def FFormat.width (f : FFormat) : Nat := 1 + f.ebits + f.mbits

/-- Sets the sign bit of a code. -/
def FFormat.signed (f : FFormat) (neg : Bool) (c : Nat) : Nat := c + boolNat neg * 2 ^ (f.width - 1)

/-- The code of the largest finite value (R47). -/
def FFormat.largest (f : FFormat) : Nat := f.maxExp * 2 ^ f.mbits + f.maxFrac

/-- The exponent of a subnormal's lowest bit (R47). -/
def FFormat.emin (f : FFormat) : Int := 1 - (f.bias : Int) - f.mbits

/-- The value of a code (R47, R50). -/
def FFormat.decode (f : FFormat) (bits : Nat) : FVal :=
  let neg := bitOf bits (f.width - 1)
  let e := bits / 2 ^ f.mbits % 2 ^ f.ebits
  let m := bits % 2 ^ f.mbits
  if f.inf.isSome && e > f.maxExp then if m = 0 then .inf neg else .nan
  else if f.nan.isSome && (e > f.maxExp || (e == f.maxExp && m > f.maxFrac)) then .nan
  else if e = 0 then .fin neg m f.emin
  else .fin neg (2 ^ f.mbits + m) (f.emin + e - 1)

/-- An integer as a value. -/
def FVal.ofInt (x : Int) : FVal := .fin (x < 0) x.natAbs 0

/-- Whether a type is a signed integer (R46). -/
def isSignedType : EType → Bool
  | .i8 | .i16 | .i32 | .i64 => true
  | _ => false

/-- An integer element's value (R46). -/
def intOf (t : EType) (bits : Nat) : Int :=
  if isSignedType t then sextNat bits t.width else ((bits % 2 ^ t.width : Nat) : Int)

/-- The value of an element of any type (R46-R48). -/
def valueOf (t : EType) (bits : Nat) : FVal :=
  match formatOf t with
  | some f => f.decode (bits % 2 ^ f.width)
  | none =>
    if t == .s8 then if bits % 256 = 255 then .nan else .fin false 1 ((bits % 256 : Nat) - 127 : Int)
    else .ofInt (intOf t bits)

/-! ## Rounding -/

/-- Whether to round a magnitude up: mode, sign, whether the kept part is odd, the remainder and the unit it is a part of
(R54). -/
def roundsUp (mode : Nat) (neg odd : Bool) (rem unit : Nat) : Bool :=
  match mode with
  | 0 => 2 * rem > unit || (2 * rem == unit && odd)
  | 1 => false
  | 2 => neg && rem != 0
  | _ => !neg && rem != 0

/-- m × 2^e as a multiple of 2^q, rounded (R54). -/
def roundAt (mode : Nat) (neg : Bool) (m : Nat) (e q : Int) : Nat :=
  if q ≤ e then m * 2 ^ (e - q).toNat
  else
    let u := 2 ^ (q - e).toNat
    m / u + boolNat (roundsUp mode neg (m / u % 2 == 1) (m % u) u)

/-- The code that stands for infinity in a format: largest finite under SAT (R55). -/
def FFormat.infCode (f : FFormat) (sat neg : Bool) : Nat :=
  if sat then f.signed neg f.largest
  else
    match f.inf, f.nan with
    | some c, _ => f.signed neg c
    | none, some n => n
    | none, none => f.signed neg f.largest

/-- The code of NaN; +0 where the format has none (R49). -/
def FFormat.nanCode (f : FFormat) : Nat := f.nan.getD 0

/-- The overflow rule (R55). -/
def FFormat.overflow (f : FFormat) (mode : Nat) (sat neg : Bool) : Nat :=
  let keep := mode == 1 || (mode == 2 && !neg) || (mode == 3 && neg)
  if keep then f.signed neg f.largest else f.infCode sat neg

/-- round(x, f, m) of a finite value (R54, R55). -/
def FFormat.roundFin (f : FFormat) (mode : Nat) (sat neg : Bool) (m : Nat) (e : Int) : Nat :=
  if m = 0 then f.signed neg 0
  else
    let top := e + Nat.log2 m
    let q := max (top - f.mbits) f.emin
    let r := roundAt mode neg m e q
    let (r, q) := if r = 2 ^ (f.mbits + 1) then (r / 2, q + 1) else (r, q)
    if r < 2 ^ f.mbits then f.signed neg r
    else
      let eb := (q - f.emin).toNat + 1
      let frac := r - 2 ^ f.mbits
      if eb > f.maxExp || (eb == f.maxExp && frac > f.maxFrac) then f.overflow mode sat neg
      else f.signed neg (eb * 2 ^ f.mbits + frac)

/-- round(x, f, m) with the special values and the SAT flag (R11, R49, R54, R55). -/
def FFormat.round (f : FFormat) (mode : Nat) (sat : Bool) : FVal → Nat
  | .nan => f.nanCode
  | .inf neg => f.infCode sat neg
  | .fin neg m e => f.roundFin mode sat neg m e

/-! ## Exact arithmetic -/

/-- Whether a value is negative by its sign. -/
def FVal.neg? : FVal → Bool
  | .nan => false
  | .inf s => s
  | .fin s _ _ => s

/-- The value with the opposite sign. -/
def FVal.negate : FVal → FVal
  | .nan => .nan
  | .inf s => .inf !s
  | .fin s m e => .fin (!s) m e

/-- A finite value as an integer multiple of 2^q, for q at most its exponent. -/
def FVal.atExp (x : FVal) (q : Int) : Int :=
  match x with
  | .fin s m e => let v := ((m * 2 ^ (e - q).toNat : Nat) : Int); if s then -v else v
  | _ => 0

/-- The exponent of a finite value. -/
def FVal.exp : FVal → Int
  | .fin _ _ e => e
  | _ => 0

/-- A value is NaN. -/
def FVal.isNan : FVal → Bool
  | .nan => true
  | _ => false

/-- The exact sum of some values, rounded by nobody; the sign of a zero sum follows the mode (R56, R57, R62). -/
def sumExact (mode : Nat) (xs : List FVal) : FVal :=
  let infs := xs.filter fun x => match x with | .inf _ => true | _ => false
  if xs.any FVal.isNan then .nan
  else if infs.any (·.neg?) && infs.any (fun x => !x.neg?) then .nan
  else
    match infs with
    | x :: _ => x
    | [] =>
      let q := xs.foldl (fun q x => min q x.exp) 0
      let v : Int := (xs.map fun x => x.atExp q).sum
      if v = 0 then .fin (xs.all (·.neg?) || mode == 2) 0 0 else .fin (v < 0) v.natAbs q

/-- The exact product (R56, R57). -/
def mulExact (x y : FVal) : FVal :=
  let s := x.neg? != y.neg?
  match x, y with
  | .nan, _ | _, .nan => .nan
  | .inf _, .fin _ m _ | .fin _ m _, .inf _ => if m = 0 then .nan else .inf s
  | .inf _, .inf _ => .inf s
  | .fin _ m e, .fin _ n d => .fin s (m * n) (e + d)

/-- A quotient of naturals to k bits after the point, with a last bit that is set when it is inexact. -/
def divSticky (a b k : Nat) : Nat := a * 2 ^ k / b * 2 + boolNat (a * 2 ^ k % b != 0)

/-- The quotient, exact or with enough bits and a sticky bit to round it correctly (R57). -/
def divValue (x y : FVal) : FVal :=
  let s := x.neg? != y.neg?
  match x, y with
  | .nan, _ | _, .nan => .nan
  | .inf _, .inf _ => .nan
  | .inf _, .fin _ _ _ => .inf s
  | .fin _ _ _, .inf _ => .fin s 0 0
  | .fin _ m e, .fin _ n d =>
    if n = 0 then if m = 0 then .nan else .inf s
    else
      let k := 80 + Nat.log2 n
      .fin s (divSticky m n k) (e - d - k - 1)

/-- The integer square root by its low k bits, above a root r found so far. -/
def sqrtBits (n : Nat) : Nat → Nat → Nat
  | 0, r => r
  | k + 1, r => let r' := r + 2 ^ k; sqrtBits n k (if r' * r' ≤ n then r' else r)

/-- The integer square root. -/
def natSqrt (n : Nat) : Nat := sqrtBits n (Nat.log2 n / 2 + 1) 0

/-- The square root, exact or with a sticky bit (R57). -/
def sqrtValue : FVal → FVal
  | .nan => .nan
  | .inf s => if s then .nan else .inf false
  | .fin s m e =>
    if m = 0 then .fin s 0 0
    else if s then .nan
    else
      let odd := e % 2 != 0
      let k : Nat := 160
      let n := m * 2 ^ (k + boolNat odd)
      let r := natSqrt n
      .fin false (2 * r + boolNat (r * r != n)) ((e - boolNat odd - k) / 2 - 1)

/-- Order of two values that are not NaN, with −0 below +0 when `signedZero` (R56). -/
def ltValue (signedZero : Bool) (x y : FVal) : Bool :=
  match x, y with
  | .nan, _ | _, .nan => false
  | .inf s, .inf t => s && !t
  | .inf s, .fin _ _ _ => s
  | .fin _ _ _, .inf t => !t
  | .fin s m _, .fin t n _ =>
    if m = 0 && n = 0 then signedZero && s && !t
    else let q := min x.exp y.exp; x.atExp q < y.atExp q

/-- Equality as numbers. -/
def eqValue (x y : FVal) : Bool := !x.isNan && !y.isNan && !ltValue false x y && !ltValue false y x

/-- Minimum and maximum (R56). -/
def minValue (x y : FVal) : FVal := if x.isNan || y.isNan then .nan else if ltValue true y x then y else x

/-- Minimum and maximum (R56). -/
def maxValue (x y : FVal) : FVal := if x.isNan || y.isNan then .nan else if ltValue true x y then y else x

/-! ## Conversions -/

/-- The smallest value of an integer type. -/
def minIntOf (t : EType) : Int := if isSignedType t then -(2 ^ (t.width - 1) : Nat) else 0

/-- The largest value of an integer type. -/
def maxIntOf (t : EType) : Int := if isSignedType t then (2 ^ (t.width - 1) : Nat) - 1 else (2 ^ t.width : Nat) - 1

/-- x within the range of an integer type. -/
def clampTo (t : EType) (x : Int) : Int := if x < minIntOf t then minIntOf t else if maxIntOf t < x then maxIntOf t else x

/-- A value rounded to an integer (R58). -/
def FVal.toInt (mode : Nat) : FVal → Int
  | .fin s m e => let r := (roundAt mode s m e 0 : Nat); if s then -(r : Int) else r
  | _ => 0

/-- A float to an integer type: rounded, then clamped; NaN gives 0 (R58). -/
def floatToInt (t : EType) (mode : Nat) : FVal → Nat
  | .nan => 0
  | .inf s => lowBits (if s then minIntOf t else maxIntOf t) t.width
  | x => lowBits (clampTo t (x.toInt mode)) t.width

/-- A float to s8: the power of two at or below its magnitude (R58). -/
def floatToS8 : FVal → Nat
  | .nan | .inf _ => 0xFF
  | .fin _ m e =>
    if m = 0 then 0
    else
      let c := e + Nat.log2 m + 127
      if c < 0 then 0 else if 254 < c then 254 else c.toNat

/-- A value written as an element of a type, under a rounding mode and the SAT flag (R46, R58). -/
def encodeValue (t : EType) (mode : Nat) (sat : Bool) (x : FVal) : Nat :=
  match formatOf t with
  | some f => f.round mode sat x
  | none => if t == .s8 then floatToS8 x else floatToInt t mode x

/-- The conversion of one element (R58). -/
def convert (src dst : EType) (mode : Nat) (sat : Bool) (bits : Nat) : Nat :=
  let x := valueOf src bits
  if isI src && isI dst then
    let v := intOf src bits
    lowBits (if sat then clampTo dst v else v) dst.width
  else encodeValue dst mode sat x

/-! ## Transcendental units -/

/-- The functions of R59. -/
inductive Transc where
  | exp2 | log2 | rcp | rsqrt
  deriving DecidableEq, Repr

/-- Bits after the point of the approximations below. -/
def fixBits : Nat := 256

/-- The product, in fixed point, of 2^(2^-i) over the one bits of a fraction, most significant first; c is 2^(2^-i). -/
def exp2Loop (frac : Nat) : Nat → Nat → Nat → Nat
  | 0, _, acc => acc
  | n + 1, c, acc =>
    let acc := if bitOf frac n then acc * c / 2 ^ fixBits else acc
    exp2Loop frac n (natSqrt (c * 2 ^ fixBits)) acc

/-- 2^f in fixed point for a fraction of 200 bits. -/
def exp2Frac (frac : Nat) : Nat := exp2Loop frac 200 (natSqrt (2 * 2 ^ (2 * fixBits))) (2 ^ fixBits)

/-- 2^x of a finite value that is no integer, approximated (R59): the exponent is taken down to a multiple of 2^-200, and a last
bit says that the exact value lies above the approximation. -/
def exp2Value (s : Bool) (m : Nat) (e : Int) : FVal :=
  if e + Nat.log2 m > 20 then if s then .fin false 0 0 else .inf false
  else
    let signed (k : Nat) : Int := if s then -(k : Int) else k
    let v : Int := if e + 200 ≥ 0 then signed (m * 2 ^ (e + 200).toNat) else signed m / (2 ^ (-(e + 200)).toNat : Nat)
    let n := v / (2 ^ 200 : Nat)
    .fin false (2 * exp2Frac (v % (2 ^ 200 : Nat)).toNat + 1) (n - fixBits - 1)

/-- The bits of log2 of a number in [1, 2) by repeated squaring. -/
def log2Loop : Nat → Nat → Nat → Nat
  | 0, _, acc => acc
  | n + 1, y, acc =>
    let y := y * y / 2 ^ 400
    if y ≥ 2 ^ 401 then log2Loop n (y / 2) (2 * acc + 1) else log2Loop n y (2 * acc)

/-- log2 of a positive finite value, approximated to 140 bits after the point (R59). -/
def log2Value (m : Nat) (e : Int) : FVal :=
  let l := Nat.log2 m
  let y := if l ≤ 400 then m * 2 ^ (400 - l) else m / 2 ^ (l - 400)
  let v := (e + l) * (2 ^ 140 : Nat) + (log2Loop 140 y 0 : Nat)
  .fin (v < 0) v.natAbs (-140)

/-- 1/√x of a positive finite value (R59). -/
def rsqrtValue (m : Nat) (e : Int) : FVal := divValue (.fin false 1 0) (sqrtValue (.fin false m e))

/-- x is a power of two; its exponent (R60). -/
def powerOfTwo (m : Nat) (e : Int) : Option Int := if m = 2 ^ Nat.log2 m then some (e + Nat.log2 m) else none

/-- The function's value, exact where R60 makes it exact, else an approximation far finer than the bounds of R59. -/
def Transc.value (fn : Transc) (x : FVal) : FVal :=
  match fn, x with
  | _, .nan => .nan
  | .exp2, .inf s => if s then .fin false 0 0 else .inf false
  | .exp2, .fin s m e => if m = 0 then .fin false 1 0 else exp2Value s m e
  | .log2, .inf s => if s then .nan else .inf false
  | .log2, .fin s m e =>
    if m = 0 then .inf true else if s then .nan
    else match powerOfTwo m e with | some n => .ofInt n | none => log2Value m e
  | .rcp, .inf s => .fin s 0 0
  | .rcp, .fin s m e =>
    if m = 0 then .inf s
    else match powerOfTwo m e with | some n => .fin s 1 (-n) | none => divValue (.fin false 1 0) x
  | .rsqrt, .inf s => if s then .nan else .fin false 0 0
  | .rsqrt, .fin s m e => if m = 0 then .inf s else if s then .nan else rsqrtValue m e

/-- The result is exact under R60: special inputs, integers in VEXP2, powers of two in VLOG2 and VRCP, powers of four in
VRSQRT. -/
def Transc.exact (fn : Transc) (x : FVal) : Bool :=
  match fn, x with
  | .exp2, .fin _ m e => m == 0 || 0 ≤ e || m % 2 ^ (-e).toNat == 0
  | .log2, .fin _ m e | .rcp, .fin _ m e => m == 0 || (powerOfTwo m e).isSome
  | .rsqrt, .fin _ m e => m == 0 || (match powerOfTwo m e with | some n => n % 2 == 0 | none => false)
  | _, _ => true

/-- The magnitude is below the smallest subnormal (R60). -/
def FFormat.vanishes (f : FFormat) : FVal → Bool
  | .fin _ m e => m == 0 || e + Nat.log2 m < f.emin
  | _ => false

/-- RNE of the function's value with the ends of R60. -/
def FFormat.roundEnds (f : FFormat) (x : FVal) : Nat :=
  if f.vanishes x then f.signed x.neg? 0 else f.round 0 false x

/-- The spacing of a format at a value, as an exponent of two (R59). -/
def FFormat.ulpExp (f : FFormat) : FVal → Int
  | .fin _ m e => max (e + Nat.log2 m - f.mbits) f.emin
  | _ => 0

/-- The bound of R59 on the error in f32 and f64, as a value. -/
def Transc.bound (fn : Transc) (f : FFormat) (x : FVal) : FVal :=
  let u : FVal := .fin false (if f.mbits = 52 then 2 else 1) (f.ulpExp x)
  let least : FVal := .fin false 1 (if f.mbits = 52 then -53 else -24)
  if fn == .log2 then maxValue u least else u

/-- A candidate code lies within a bound of a value. -/
def withinBound (f : FFormat) (code : Nat) (x bound : FVal) : Bool :=
  match f.decode code with
  | .fin s m e =>
    match sumExact 0 [.fin s m e, x.negate] with
    | .fin _ n d => ltValue false (.fin false n d) bound
    | _ => false
  | _ => false

/-- A candidate code is one of the two neighbours of a value in a format. -/
def FFormat.neighbour (f : FFormat) (code : Nat) (x : FVal) : Bool := code == f.round 2 false x || code == f.round 3 false x

/-- A candidate code meets the bound of R59: VEXP2 in f32 gives one of the two neighbours of the exact value. -/
def Transc.allows (fn : Transc) (f : FFormat) (code : Nat) (x : FVal) : Bool :=
  withinBound f code x (fn.bound f x) && (fn != .exp2 || f.mbits != 23 || f.neighbour code x)

/-- The number of a function among the candidates. -/
def Transc.code : Transc → Nat
  | .exp2 => 0 | .log2 => 1 | .rcp => 2 | .rsqrt => 3

/-- A transcendental result (R59, R60): correctly rounded in f16 and bf16; in f32 and f64 the device's own value within
the bound, which the spec leaves open (log entry 9). -/
def transcendental (fn : Transc) (t : EType) (bits : Nat) : Nat :=
  match formatOf t with
  | none => 0
  | some f =>
    let x := valueOf t bits
    let y := fn.value x
    let rounded := f.roundEnds y
    if fn.exact x || f.mbits < 23 || f.vanishes y then rounded
    else
      let c := Config.candidate fn.code t.code.toNat bits % 2 ^ f.width
      match f.decode rounded with
      | .fin _ _ _ => if fn.allows f c y then c else rounded
      | _ => rounded

/-! ## Wide cells -/

/-- 2^n for a wide cell's exponent. -/
def cellExp (h : Nat) : Int := sextNat (bitsOf h 51 40) 12

/-- The type of a cell by its header, if it describes one (R67). -/
def cellType (h : Nat) : Option EType :=
  let e := cellExp h
  if bitsOf h 61 52 != 0 || bitsOf h 39 5 != 0 then none
  else
    match bitsOf h 63 62 with
    | 1 => if e = -149 then some .f32 else none
    | 2 => if -1074 ≤ e && e ≤ 1023 then some .f64 else none
    | _ => none

/-- A cell is V and its header, as one 512-bit number (R67). -/
def cellHeader (c : Nat) : Nat := c / 2 ^ 448

/-- V of a cell (R67). -/
def cellV (c : Nat) : Int := sextNat c 448

/-- Adds a contribution to a cell (R68). -/
def cellAdd (c : Nat) (x : FVal) : Nat :=
  let h := cellHeader c
  let flag (b : Nat) : Nat := if bitOf h b then c else c + 2 ^ (448 + b)
  match x with
  | .nan => flag 0
  | .inf false => flag 1
  | .inf true => flag 2
  | .fin s m e =>
    let q := cellExp h
    let y := roundAt 0 s m e q
    let low := !(eqValue (.fin false m e) (.fin false y q))
    let high := 2 ^ 400 ≤ y
    let y := if high then 2 ^ 400 - 1 else y
    let v := lowBits (cellV c + if s then -(y : Int) else y) 448
    let h := h ||| (boolNat low * 8) ||| (boolNat high * 16)
    v + h * 2 ^ 448

/-- Reads a cell in its type under a rounding mode (R69). -/
def cellRead (c : Nat) (mode : Nat) : FVal :=
  let h := cellHeader c
  if bitOf h 0 || (bitOf h 1 && bitOf h 2) then .nan
  else if bitOf h 1 then .inf false
  else if bitOf h 2 then .inf true
  else
    let v := cellV c
    .fin (if v = 0 then mode == 2 else v < 0) v.natAbs (cellExp h)

end Sys2Proof.Machine
end

