-- ==== Sys2Proof/Machine/Transfer.lean ====
section
/-! DEFINITION. Accesses that engines make to translated memory after dispatch, a part at a time, and the late faults they
end with (14_translation.md R352, 08_vault.md R194, R216, R465, 12_mesh_messages.md R303, 15_traps_preemption.md R368,
16_integrity.md R397). -/

namespace Sys2Proof.Machine

/-- The walker of an engine instruction of a pillar (R343, R353). -/
def State.engineWalker (s : State) (p : PillarId) (lvl : BitVec 2) (tile : Bool) : Walker :=
  { p := p, asid := (s.pil p).asid, lvl := lvl.toNat, tile := tile }

/-- The walker of a dispatched instruction: whether it uses the tile TLB, whether it is the tile load pipe's stream, and whether
its twin has matched the worm (R397), which no later mismatch then discards (R400). -/
def State.opWalker (s : State) (p : PillarId) (d : Dispatched) (tile : Bool := true) (stream matched : Bool := false) : Walker :=
  { s.engineWalker p d.lvl tile with stream := stream, discard := !matched && s.discards p d.strand }

/-- An engine instruction ends with a late fault; a page fault sends a request first (R352, R368). An instruction that waits for
the host's translation goes on later. `tile` names the TLB that its translation missed (R360). -/
def State.raiseEngine (s : State) (p : PillarId) (t : StrandId) (seq : BitVec 16) (lvl : BitVec 2) (ringed tile : Bool) (e : Stop) :
    State :=
  let s := s.noteFault (s.engineWalker p lvl tile) e
  let late (c : BitVec 8) (v : Word) (x : Pillar) : Pillar :=
    x.raiseLate t { seq := seq, lvl := lvl, cause := c, tval := v, ringed := ringed }
  match e with
  | .trap c v => s.modPil p (late c v)
  | .pageFault c va w => (s.requestFor p t va w).modPil p (late c va)
  | .ats w va => s.askAts w va
  | .wait => s

/-- What an engine's instruction that must wait does: nothing yet, or it asks the host for a translation (R348); `none` for a
fault. -/
def State.holdOff (s : State) : Stop → Option State
  | .wait => some s
  | .ats w va => some (s.askAts w va)
  | _ => none

/-- The late fault of a dispatched instruction. -/
def State.raiseStop (s : State) (p : PillarId) (t : StrandId) (seq : BitVec 16) (lvl : BitVec 2) (e : Stop)
    (tile : Bool := false) : State := s.raiseEngine p t seq lvl true tile e

/-- The late fault of an instruction that has no dispatch ring entry. -/
def State.raiseUnringed (s : State) (p : PillarId) (t : StrandId) (seq : BitVec 16) (lvl : BitVec 2) (e : Stop)
    (tile : Bool := false) : State := s.raiseEngine p t seq lvl false tile e

/-- The physical address that an engine's access really goes to (R352, R194, R390, R403); one to a peer waits until a port carries it
(R419). -/
def State.target (s : State) (w : Walker) (kind : AccessKind) (va : Word) : Act (Nat × Xlate) := do
  let x ← s.translateAs w kind va
  let pa ← if w.direct then s.reachUnit w.p x.pa va else s.reach w.p x.pa va
  waitFor (s.carried (placeOf pa))
  .ok (pa, x)

/-- The routers count a request that they rewrite for a migrated pillar (R390, R394). -/
def State.noteRequest (s : State) (w : Walker) (pa : Nat) : State := if w.direct then s.noteDirect pa else s.noteForward w.p pa

/-- The routers count an attempt at an address that fails past them (R390, R394). -/
def State.noteAttempt (s : State) (w : Walker) (kind : AccessKind) (va : Word) : State :=
  match s.translateAs w kind va with
  | .ok x => s.noteRequest w x.pa
  | .error _ => s

/-- The offsets, among n bytes at an address, of those that read as poisoned (R465, R216). -/
def State.badBytes (s : State) (pa n : Nat) : List Nat := (List.range n).filter fun i => s.physBad (pa + i) 1

/-- An engine may not reach device registers at user level or at all but by 8 bytes (R411). -/
def deviceCheck (lvl n : Nat) (pa : Nat) (va : Word) : Act Unit :=
  match placeOf pa with
  | .device _ => if lvl = 0 then .error (.trap 0x0C 0) else check (n == 8) 0x1E va
  | _ => .ok ()

/-- The row is used by the stream itself, or by another user of its vault's bus (R195, R206). -/
def State.touchRow (s : State) (w : Walker) (pa : Nat) : State :=
  match placeOf pa with
  | .vault q off =>
    if w.stream && q == w.p then s.modPil q fun x => { x with vault := x.vault.touch (rowOf off) s.clk } else s.useRow pa
  | _ => s

/-- A worm of an engine that leaves the doubled rectangle is discarded after a mismatch (R397). -/
def State.dropsWorm (s : State) (w : Walker) (pa : Nat) : Bool := !w.direct && w.discard && s.outgoing w.p (placeOf pa)

/-- Reads n bytes that lie in one page for an engine: the bytes and the offsets of the poisoned ones; `beat` says that they begin a
beat of the vault's bus (R206). -/
def State.readPart (s : State) (w : Walker) (kind : AccessKind) (va : Word) (n : Nat) (beat : Bool := true) :
    Act (State × Nat × List Nat) := do
  let (pa, x) ← s.target w kind va
  deviceCheck w.lvl n pa va
  let s := s.noteXlate w x
  let s := if beat then s.noteRequest w x.pa else s
  let free : State × Nat × List Nat := let (s, v) := s.freeValue n; (s, v, [])
  if s.dropsWorm w pa then .ok free
  else
    match placeOf pa with
    | .vault _ _ | .tier _ => .ok (if beat then s.touchRow w pa else s, s.mem.read pa n, s.badBytes pa n)
    | .device off => .ok (s, (s.devReadAt w.lvl off).toNat, [])
    | _ => .ok free

/-- The vault agent of another pillar performs the access of a row, a block or a request (R301, R314); a shuttle's blocks are not
its procedures (R195). -/
def State.noteBulk (s : State) (w : Walker) (kind : AccessKind) (va : Word) : State :=
  match s.target w kind va with
  | .ok (pa, _) =>
    if w.shuttle || s.dropsWorm w pa then s
    else
      match placeOf pa with
      | .vault q _ => if q == w.p && !w.direct then s else s.modPil q fun x => x.count 0x4A3
      | _ => s
  | .error _ => s

/-- How many of n bytes from an address lie before the next multiple of a unit. -/
def partLen (unit : Nat) (va : Word) (n : Nat) : Nat := min n (unit - va.toNat % unit)

/-- Reads n bytes for an engine in parts of up to 128 bytes, into a buffer at an offset, with the positions of the
poisoned bytes. -/
def State.readParts (w : Walker) (kind : AccessKind) : Nat → State → Word → Nat → Nat → Memory → NatSet →
    Act (State × Memory × NatSet)
  | 0, s, _, _, _, m, b => .ok (s, m, b)
  | fuel + 1, s, va, n, off, m, b =>
    if n = 0 then .ok (s, m, b)
    else do
      let k := partLen 128 va n
      let (s, v, bad) ← s.readPart w kind va k
      State.readParts w kind fuel s (va + word k) (n - k) (off + k) (m.write off k v)
        (bad.foldl (fun b i => b.insert (off + i)) b)

/-- Reads n bytes for an engine, as one request. -/
def State.readBytes (s : State) (w : Walker) (kind : AccessKind) (va : Word) (n : Nat) : Act (State × Memory × NatSet) :=
  State.readParts w kind n (s.noteBulk w kind va) va n 0 {} {}

/-- A write that leaves the doubled rectangle has no effect of its own: the right half's is its twin's, and after a mismatch it is
discarded (R397). -/
def State.dropsWrite (s : State) (w : Walker) (pa : Nat) : Bool :=
  s.dropsWorm w pa || (!w.direct && s.outgoing w.p (placeOf pa) && s.inRightHalf w.p)

/-- A vault row has been written whole by one operation: its expiry is over, and a short-lived row gets a new deadline
(R216). -/
def Vault.wholeRow (v : Vault) (row clk : Nat) : Vault :=
  { v with
    expired := v.expired.erase row
    shortLived := if (v.shortLived.get? row).isSome then v.shortLived.set row (clk + 25200000) else v.shortLived }

/-- Where an operation's count of the bytes it wrote keeps that it wrote poison to a 32-byte unit. -/
def poisonKey (pa : Nat) : Nat := 2 ^ 40 + pa / 32

/-- The units of an expired row that has been written whole hold no poison but what the operation wrote to them (R216). -/
def wholeRowBad (b : NatSet) (m : NatMap Nat) (key : Nat) : NatSet :=
  ((List.range 256).filter fun i => (m.get? (poisonKey (8192 * key + 32 * i))).isSome).foldl
    (fun b i => b.insert (256 * key + i)) (b.putRange (256 * key) false 256)

/-- Counts the bytes that one operation has written of each DRAM row, at most a unit at once; a row that it has written whole loses
the poison of its expiry (R216). -/
def State.noteWritten (s : State) (m : NatMap Nat) (pa n : Nat) (bad : Bool := false) : State × NatMap Nat :=
  match placeOf pa with
  | .vault p off =>
    let key := pa / 8192
    let c := m.getD key 0 + n
    let m := m.set key c
    let m := if bad then m.set (poisonKey pa) 1 else m
    let row := rowOf off
    if c = 8192 then
      let s := if (s.pil p).vault.expired.has row then { s with memBad := wholeRowBad s.memBad m key } else s
      (s.modPil p fun x => { x with vault := x.vault.wholeRow row s.clk }, m)
    else (s, m)
  | _ => (s, m)

/-- Writes n bytes that lie in one 32-byte unit for an engine (R303, R465); `beat` says that they begin a beat of the vault's
bus (R206). -/
def State.writePart (s : State) (w : Walker) (va : Word) (n v : Nat) (bad beat : Bool) (m : NatMap Nat) :
    Act (State × NatMap Nat) := do
  let (pa, x) ← s.target w .write va
  deviceCheck w.lvl n pa va
  let s := (s.noteXlate w x).noteRequest w x.pa
  if s.dropsWrite w pa then .ok (s, m)
  else
    match placeOf pa with
    | .vault _ _ | .tier _ =>
      let s := s.physWrite pa n v bad
      .ok ((if beat then s.touchRow w pa else s).noteWritten m pa n bad)
    | pl =>
      if bad then .error (.trap 0x0D (poisonData va))
      else
        match pl with
        | .device off => .ok (s.devWrite w.lvl off (word v), m)
        | _ => .ok (s, m)

/-- Writes n bytes of a buffer for an engine, in parts of up to 32 bytes. -/
def State.writeParts (w : Walker) (buf : Memory) (bufBad : NatSet) : Nat → State → Word → Nat → Nat → Bool → NatMap Nat →
    Act (State × NatMap Nat)
  | 0, s, _, _, _, _, m => .ok (s, m)
  | fuel + 1, s, va, n, off, first, m =>
    if n = 0 then .ok (s, m)
    else do
      let k := partLen 32 va n
      let (s, m) ← s.writePart w va k (buf.read off k) (bufBad.hasAny off k) (first || va.toNat % 128 == 0) m
      State.writeParts w buf bufBad fuel s (va + word k) (n - k) (off + k) false m

/-- A write of a pillar's engine that leaves the package is one worm, with an entry in its egress log (R406); what a unit at a
service pillar writes leaves that pillar's vault unaffected (R409). -/
def State.noteEgressWrite (s : State) (w : Walker) (va : Word) (n : Nat) : State :=
  match s.target w .write va with
  | .ok (pa, _) =>
    if w.direct || w.shuttle || s.dropsWrite w pa then s
    else
      match placeOf pa with
      | .peer _ _ => s.logEgress w.p 2 n (word pa)
      | .host _ => s.logEgress w.p 3 n (word pa)
      | _ => s
  | .error _ => s

/-- Writes n bytes at an offset of a buffer for an engine, as one request. -/
def State.writeBytes (s : State) (w : Walker) (va : Word) (n : Nat) (buf : Memory) (bufBad : NatSet) (off : Nat)
    (m : NatMap Nat) : Act (State × NatMap Nat) :=
  State.writeParts w buf bufBad n ((s.noteBulk w .write va).noteEgressWrite w va n) va n off true m

/-! ## Shape records -/

/-- BASE (R198). -/
def Shape.base (r : Shape) : Word := dwordOf r 0

/-- STRIDE (R198). -/
def Shape.stride (r : Shape) : Nat := (dwordOf r 1).bits 39 0

/-- GEOM (R198). -/
def Shape.geom (r : Shape) : Word := dwordOf r 2

/-- SCALE (R198). -/
def Shape.scale (r : Shape) : Word := dwordOf r 3

/-- ROWS (R199). -/
def Shape.rows (r : Shape) : Nat := r.geom.bits 13 0

/-- ROWBYTES (R199). -/
def Shape.rowBytes (r : Shape) : Nat := r.geom.bits 29 16

/-- TYPE (R199). -/
def Shape.type (r : Shape) : EType := typeCode (BitVec.ofNat 4 (r.geom.bits 39 36))

/-- CVT (R199). -/
def Shape.cvt (r : Shape) : EType := typeCode (BitVec.ofNat 4 (r.geom.bits 43 40))

/-- TRANSPOSE (R199). -/
def Shape.transpose (r : Shape) : Bool := bitOf r.geom.toNat 44

/-- CVTEN (R199). -/
def Shape.cvtEn (r : Shape) : Bool := bitOf r.geom.toNat 45

/-- N, the elements of a row (R199). -/
def Shape.elems (r : Shape) : Nat := r.rowBytes * 8 / r.type.width

/-- The output type (R199). -/
def Shape.outType (r : Shape) : EType := if r.cvtEn then r.cvt else r.type

/-- OROWS (R200). -/
def Shape.outRows (r : Shape) : Nat := if r.transpose then r.elems else r.rows

/-- The elements of an output row (R200). -/
def Shape.outElems (r : Shape) : Nat := if r.transpose then r.rows else r.elems

/-- OLEN (R200). -/
def Shape.outLen (r : Shape) : Nat := r.outElems * r.outType.width / 8

/-- A row pitch: a length rounded up to a multiple of 128 (R200, R221). -/
def pitchOf (len : Nat) : Nat := ceilDiv len 128 * 128

/-- The bytes of an element, 1 for e2m1 (R201). -/
def elemBytes (t : EType) : Nat := max 1 (t.width / 8)

/-- The address of row i (R199). -/
def Shape.rowVa (r : Shape) (i : Nat) : Word := r.base + word (i * r.stride)

/-- The offset from BASE to the last byte (R201, R219). -/
def Shape.lastOff (r : Shape) : Nat := (r.rows - 1) * r.stride + r.rowBytes - 1

/-- The types of the float set of check 3 (R201). -/
def floatSet (t : EType) : Bool := isF t || t == .e4m3 || t == .e5m2 || t == .e2m1

/-- An allowed conversion pair (R201). -/
def convertPair (src dst : EType) : Bool := src != dst && ((floatSet src && floatSet dst) || (isI src && isI dst))

/-- The conversion pairs of BCOPYX (R201). -/
def scalePair (src dst : EType) : Bool :=
  (src == .e2m1 || src == .e4m3 || src == .e5m2 || src == .i8) && (dst == .f16 || dst == .bf16 || dst == .f32)

/-- Check 1 (R201). -/
def Shape.reservedOk (r : Shape) (scale : Bool) : Bool :=
  (dwordOf r 1).bits 63 40 == 0 && r.geom.bits 63 46 == 0 && r.geom.bits 35 30 == 0 && r.geom.bits 15 14 == 0 &&
    (scale || r.scale == 0)

/-- Check 3 of a source (R201). -/
def Shape.pairOk (r : Shape) (scale : Bool) : Bool :=
  (if scale then scalePair r.type r.cvt else !r.cvtEn || convertPair r.type r.cvt) &&
    !(r.transpose && (r.type == .e2m1 || (r.cvtEn && r.cvt == .e2m1)))

/-- Check 4 (R201). -/
def Shape.sizeOk (r : Shape) : Bool :=
  1 ≤ r.rows && r.rows ≤ 8192 && 1 ≤ r.rowBytes && r.rowBytes ≤ 8192 && r.rowBytes * 8 % r.type.width == 0 &&
    !(r.cvtEn && r.cvt == .e2m1 && r.elems % 2 == 1)

/-- Check 5 (R201). -/
def Shape.alignOk (r : Shape) : Bool := r.base.toNat % elemBytes r.type == 0 && r.stride % elemBytes r.type == 0

/-- The part of check 7 on the last byte (R201). -/
def Shape.endOk (r : Shape) : Bool := r.base.toNat + r.lastOff < 2 ^ 64

/-- The first of the checks of a list that fails. -/
def firstFailed : List (Nat × Bool) → Option Nat
  | [] => none
  | (c, ok) :: l => if ok then firstFailed l else some c

/-- The checks of a tile load's record or of a copy's source (R201). -/
def Shape.sourceFault (r : Shape) (load scale t c : Bool) : Option Nat :=
  firstFailed [(1, r.reservedOk scale), (2, r.transpose == t && r.cvtEn == c), (3, r.pairOk scale), (4, r.sizeOk),
    (5, r.alignOk),
    (6, !(load && r.outRows * pitchOf r.outLen > 8192) && !(r.transpose && (r.rows > 256 || r.elems > 256)) &&
      !(scale && r.elems % 32 != 0)),
    (7, r.endOk)]

/-- The checks of a copy's destination (R201). -/
def Shape.destFault (r src : Shape) : Option Nat :=
  firstFailed [(1, r.reservedOk false), (2, !r.transpose && !r.cvtEn), (3, r.type == src.outType), (4, r.sizeOk),
    (5, r.alignOk), (6, r.rows == src.outRows && r.elems == src.outElems),
    (7, r.endOk && !(r.rows > 1 && r.stride < r.rowBytes))]

/-- The checks of ROWACT, ROWCLOSE, ROWSHORT and ROWKEEP (R197). -/
def Shape.rowFault (r : Shape) : Option Nat :=
  firstFailed [(1, r.reservedOk false), (4, r.sizeOk), (5, r.alignOk), (7, r.endOk)]

/-- The shape fault (R201). -/
def shapeCheck (c : Option Nat) (reg : Nat) (dst : Bool) : Act Unit :=
  match c with
  | some c => .error (.trap 0x20 (word (c + reg % 8 * 16 + boolNat dst * 128)))
  | none => .ok ()

/-! ## Elements of buffers -/

/-- An element of w bits at index c of a row of bytes. -/
def Memory.elem (m : Memory) (row w c : Nat) : Nat :=
  if w < 8 then (m.get (row + c * w / 8)).toNat / 2 ^ (c * w % 8) % 2 ^ w else m.read (row + c * (w / 8)) (w / 8)

/-- Writes an element of w bits at index c of a row of bytes. -/
def Memory.setElem (m : Memory) (row w c v : Nat) : Memory :=
  if w < 8 then
    let a := row + c * w / 8
    let old := (m.get a).toNat
    let sh := 2 ^ (c * w % 8)
    m.set a (BitVec.ofNat 8 (old - old / sh % 2 ^ w * sh + v % 2 ^ w * sh))
  else m.write (row + c * (w / 8)) (w / 8) v

/-- Some byte of an element is marked. -/
def NatSet.elemBad (b : NatSet) (row w c : Nat) : Bool :=
  if w < 8 then b.has (row + c * w / 8) else b.hasAny (row + c * (w / 8)) (w / 8)

/-- Marks or clears the bytes of an element; half of a byte only marks. -/
def NatSet.setElemBad (b : NatSet) (row w c : Nat) (bad : Bool) : NatSet :=
  if w < 8 then
    if c * w % 8 = 0 || bad then b.put (row + c * w / 8) bad else b
  else b.putRange (row + c * (w / 8)) bad (w / 8)

end Sys2Proof.Machine
end

