-- ==== Sys2Proof/Machine/Tile.lean ====
section
/-! DEFINITION. The vault and the tile load pipe: row hints and marks, shape registers, tile loads, copies, their beats,
stopping and resuming, refresh, temperature, retention, segments and fills (08_vault.md R195-R218, 05_local_store.md R132,
R146). -/

namespace Sys2Proof.Machine

/-! ## Rows and activations -/

/-- The vault clock of a stack (R209). -/
def State.calclk (s : State) (st : Nat) : Nat :=
  let k := s.stack st
  if k.running then s.clk - k.resetAt else 0

/-- Requests the rows of a ROWACT in order until one must wait for a pin; gives the rest (R197). -/
def Vault.requestRows (v : Vault) (clk : Nat) : List Nat → Vault × List Nat × Nat
  | [] => (v, [], 0)
  | r :: rs =>
    if v.openRows.contains r then (v.useRow r).requestRows clk rs
    else if v.isActivating r then v.requestRows clk rs
    else if v.canOpen r clk then
      let (v, rest, n) := (v.request r clk).requestRows clk rs
      (v, rest, n + 1)
    else (v, r :: rs, 0)

/-- A ROWACT requests its rows; the rest wait and hold the strand's later tile-pipe instructions (R197). -/
def Pillar.requestRows (x : Pillar) (clk : Nat) (t : StrandId) (rows : List Nat) : Pillar :=
  let (v, rest, n) := x.vault.requestRows clk rows
  let x := ({ x with vault := v } : Pillar).count 0x471 n
  if rest.isEmpty then x else { x with tile := { x.tile with waitingRows := x.tile.waitingRows ++ [(t, rest)] } }

/-- After a pin has ended, the beats and the ROWACTs that wait request the openings that they can (R195). -/
def Pillar.retryRows (x : Pillar) (clk : Nat) : Pillar :=
  let ws := x.tile.waitingRows
  let v := x.vault.wanted.foldl (fun v r => v.open_ r clk) x.vault
  ws.foldl (fun x w => x.requestRows clk w.1 w.2) { x with vault := v, tile := { x.tile with waitingRows := [] } }

/-- Ends the stream's pin (R195). -/
def Pillar.unpin (x : Pillar) (clk : Nat) : Pillar :=
  if x.vault.pinned.isEmpty then x else ({ x with vault := { x.vault with pinned := [] } } : Pillar).retryRows clk

/-- A row has been activated: it is open, its bank's other open row has closed, and the beat that waits for it uses it. If a pin
holds that other row by now, the opening waits for the pin's end and is requested again (R195). -/
def Vault.opened (v : Vault) (row clk : Nat) : Vault :=
  let others := v.openRows.filter fun r => bankOf r == bankOf row && r != row
  if others.any fun r => (v.pins clk).contains r then
    { v with wanted := if v.wanted.contains row then v.wanted else v.wanted ++ [row] }
  else
    let v := { v with openRows := v.openRows.filter fun r => !others.contains r }.useRow row
    if v.wanted.contains row then { v.touch row clk with wanted := v.wanted.erase row } else v

/-- ROW_ACTIVATION_DONE: an activation that has completed opens its row (R195, R196). -/
def execRowActivationDone (p : PillarId) (bank : Nat) (s : State) : Out :=
  let x := s.pil p
  match x.vault.activating.find? fun a => bankOf a.1 == bank with
  | some (row, done) =>
    if (x.vault.refreshing.get? bank).isSome then .next s
    else
      let v := { x.vault with activating := x.vault.activating.erase (row, done) }
      .next (s.setPil p ({ x with vault := v.opened row s.clk }.retryRows s.clk))
  | none => .next s

/-! ## Hints and marks -/

/-- What a DRAM-row operand names, in read order: rows of the own vault, or an address that names none, with why. -/
inductive RowItem where
  | row (r : Nat)
  | bad (va : Word) (why : Stop)
  deriving DecidableEq, Repr

/-- The row that holds an address, where an access of the pillar reaches the own vault (R197, R217, R390, R399). An address whose
host translation has not come is in no vault. DESIGN CHOICE: cause 0x21 comes before 0x24 for a row in layers 12-15 of another
vault (R217, R194; log entry 107). -/
def State.rowAt (s : State) (w : Walker) (va : Word) : RowItem :=
  match s.translateAs w .tile va with
  | .error .wait | .error (.ats _ _) => .bad va (.trap 0x21 va)
  | .error e => .bad va e
  | .ok x =>
    match placeOf x.pa with
    | .vault q off =>
      if s.forward (s.redirect w.p q) != w.p then .bad va (.trap 0x21 va)
      else if off / 2 ^ 24 ≥ 12 then .bad va (.trap 0x24 va)
      else .row (rowOf off)
    | _ => .bad va (.trap 0x21 va)

/-- The addresses in a run of bytes at which a new page or row can begin. -/
def pageStarts : Nat → Word → Nat → List Word
  | 0, _, _ => []
  | fuel + 1, va, n =>
    if n = 0 then []
    else
      let k := partLen 4096 va n
      va :: pageStarts fuel (va + word k) (n - k)

/-- The addresses that a record's rows touch, in read order (R197). -/
def Shape.starts (r : Shape) : List Word := (List.range r.rows).flatMap fun i => pageStarts 4 (r.rowVa i) r.rowBytes

/-- The distinct rows of an operand, with an item for each 8 KiB of addresses that name none (R197). -/
def State.rowItems (s : State) (w : Walker) (vas : List Word) : List RowItem :=
  (vas.map fun va =>
    match s.rowAt w va with
    | .row r => RowItem.row r
    | .bad va _ => .bad (word (va.toNat / 8192)) .wait).eraseDups

/-- The addresses of a row instruction: a VA, or the rows of its record (R197). -/
def Dispatched.rowVas (d : Dispatched) (f : Fields) : List Word :=
  if bitOf f.mod.toNat 0 then [d.gs.bits] else d.src.starts

/-- The rows of items. -/
def itemRows : List RowItem → List Nat
  | [] => []
  | .row r :: l => r :: itemRows l
  | .bad _ _ :: l => itemRows l

/-- ROWACT at acceptance (R197). -/
def State.acceptRowact (s : State) (p : PillarId) (d : Dispatched) (f : Fields) : State :=
  let items := s.rowItems (s.engineWalker p d.lvl true) (d.rowVas f)
  let rows := itemRows (items.take 16)
  s.modPil p fun x => ((x.requestRows s.clk d.strand rows).count 0x472 (items.length - rows.length)).endSeq d.seq

/-- ROWCLOSE at acceptance (R197). -/
def State.acceptRowclose (s : State) (p : PillarId) (d : Dispatched) (f : Fields) : State :=
  let all := bitOf f.mod.toNat 1
  let items := if all then [] else s.rowItems (s.engineWalker p d.lvl true) (d.rowVas f)
  let rows := itemRows items
  s.modPil p fun x =>
    let keep (r : Nat) : Bool := (x.vault.pins s.clk).contains r || !(all || rows.contains r)
    (({ x with vault := { x.vault with openRows := x.vault.openRows.filter keep } } : Pillar).count 0x472
      (items.length - rows.length)).endSeq d.seq

/-- Marks rows until one faults (R217). -/
def State.markRows (s : State) (p : PillarId) (d : Dispatched) (mark : Vault → Nat → Vault) : List RowItem → State
  | [] => s.modPil p fun x => x.endSeq d.seq
  | .row r :: l => (s.modPil p fun x => { x with vault := mark x.vault r }).markRows p d mark l
  | .bad _ why :: _ => s.raiseStop p d.strand d.seq d.lvl why (tile := true)

/-- The items of ROWSHORT and ROWKEEP: every row that a byte of the operand touches, and the first address that faults
(R217). -/
def State.touchedRows (s : State) (p : PillarId) (d : Dispatched) (f : Fields) : List RowItem :=
  ((d.rowVas f).map fun va => s.rowAt (s.engineWalker p d.lvl true) va).eraseDups

/-- ROWSHORT of one row (R217). -/
def Vault.markShort (clk : Nat) (v : Vault) (row : Nat) : Vault :=
  if (v.shortLived.get? row).isSome then v else { v with shortLived := v.shortLived.set row (clk + 25200000) }

/-- ROWKEEP of one row (R217). -/
def Vault.keepRow (v : Vault) (row : Nat) : Vault := { v with shortLived := v.shortLived.erase row }

/-- ROWSHORT at acceptance (R217). -/
def State.acceptRowshort (s : State) (p : PillarId) (d : Dispatched) (f : Fields) : State :=
  s.markRows p d (Vault.markShort s.clk) (s.touchedRows p d f)

/-- ROWKEEP at acceptance (R217). -/
def State.acceptRowkeep (s : State) (p : PillarId) (d : Dispatched) (f : Fields) : State :=
  s.markRows p d Vault.keepRow (s.touchedRows p d f)

/-- A shape register. -/
def Strand.shape (t : Strand) (n : Nat) : Shape := t.sh[n]?.getD 0

/-- Dispatch of a row instruction with the checks of its record (R197, R217). -/
def rowIssue (i : Instr) (f : Fields) (s : State) : Out :=
  finish i s do
    let r := s.st.shape f.sNum
    if f.mod.toNat % 4 == 0 then shapeCheck r.rowFault f.sNum false
    s.room .tile
    .ok (s.dispatchAs .tile { s.capture i with src := r })

/-- ROWACT (R197). -/
def execRowact (f : Fields) (s : State) : Out := rowIssue (.rowact f) f s

/-- ROWCLOSE (R197). -/
def execRowclose (f : Fields) (s : State) : Out := rowIssue (.rowclose f) f s

/-- ROWSHORT (R217). -/
def execRowshort (f : Fields) (s : State) : Out := rowIssue (.rowshort f) f s

/-- ROWKEEP (R217). -/
def execRowkeep (f : Fields) (s : State) : Out := rowIssue (.rowkeep f) f s

/-! ## Shape registers -/

/-- Writes a shape register with the poison marks of its dwords (R11, R12). -/
def Strand.setShape (t : Strand) (n : Nat) (v : Shape) (bad : BitVec 4 := 0) : Strand :=
  { t with sh := t.sh.setIfInBounds n v, shBad := t.shBad.setIfInBounds n bad }

/-- The poison marks of a shape register. -/
def Strand.shapeBad (t : Strand) (n : Nat) : BitVec 4 := t.shBad[n]?.getD 0

/-- The marks of four words of local store. -/
def LocalStore.recordBad (l : LocalStore) (a : Nat) : BitVec 4 :=
  BitVec.ofNat 4 ((List.range 4).map fun k => boolNat (l.bad.has (a / 8 + k)) * 2 ^ k).sum

/-- Writes a record and its marks to local store. -/
def Pillar.storeRecord (x : Pillar) (a : Nat) (v : Shape) (bad : BitVec 4) : Pillar :=
  (List.range 4).foldl (fun x k => x.lsWrite (a + 8 * k) 8 (dwordOf v k).toNat (bitOf bad.toNat k)) x

/-- SHLD (R202). -/
def execShld (f : Fields) (s : State) : Out :=
  finish (.shld f) s do
    let ea ← s.mAddr f
    s.lsCheck ea 32
    s.vectorDone ea.toNat 32
    .ok (s.modSt fun t => t.setShape f.dNum (BitVec.ofNat 256 (s.me.ls.bytes.read ea.toNat 32)) (s.me.ls.recordBad ea.toNat))

/-- SHST (R202). -/
def execShst (f : Fields) (s : State) : Out :=
  finish (.shst f) s do
    let ea ← s.mAddr f
    s.lsCheck ea 32
    s.vectorDone ea.toNat 32
    .ok (s.modMe fun x => x.storeRecord ea.toNat (s.st.shape f.dNum) (s.st.shapeBad f.dNum))

/-- Replaces bits h..l of a record. -/
def setShapeBits (r : Shape) (h l v : Nat) : Shape :=
  BitVec.ofNat 256 (r.toNat - bitsOf r.toNat h l * 2 ^ l + v % 2 ^ (h + 1 - l) * 2 ^ l)

/-- The record after SHSET of a field (R203). -/
def shapeField (r : Shape) (field : Nat) (v : Word) : Shape :=
  match field with
  | 0 => setShapeBits r 63 0 v.toNat
  | 1 => setShapeBits r 103 64 v.toNat
  | 2 => setShapeBits r 141 128 v.toNat
  | 3 => setShapeBits r 157 144 v.toNat
  | 4 => setShapeBits r 167 164 v.toNat
  | 5 => setShapeBits (setShapeBits r 171 168 v.toNat) 173 172 (v.bits 5 4)
  | _ => setShapeBits r 255 192 v.toNat

/-- The marks of a record after SHSET of a field (R12): a dword that it writes in part keeps its mark. -/
def shapeFieldBad (bad : BitVec 4) (field : Nat) (b : Bool) : BitVec 4 :=
  let k := match field with | 0 => 0 | 1 => 1 | 6 => 3 | _ => 2
  let keeps := bitOf bad.toNat k && field != 0 && field != 6
  BitVec.ofNat 4 ((List.range 4).map fun j => boolNat (if j = k then b || keeps else bitOf bad.toNat j) * 2 ^ j).sum

/-- SHSET (R203). -/
def execShset (f : Fields) (s : State) : Out :=
  finish (.shset f) s
    (.ok (s.modSt fun t =>
      t.setShape f.dNum (shapeField (t.shape f.dNum) f.mod.toNat (s.g f.sNum).bits)
        (shapeFieldBad (t.shapeBad f.dNum) f.mod.toNat (s.g f.sNum).bad)))

/-! ## Dispatch of tile loads and copies -/

/-- A spool (R222). -/
def MatrixEngine.spool (m : MatrixEngine) (n : Nat) : Spool := m.spools[n]?.getD {}

/-- The slot at an offset of a spool (R222). -/
def Spool.slot (q : Spool) (off : Nat) : Nat := q.base + (q.rd + off) % q.count

/-- Changes a slot header. -/
def MatrixEngine.modSlot (m : MatrixEngine) (j : Nat) (f : SlotHeader → SlotHeader) : MatrixEngine :=
  { m with slots := m.slots.setIfInBounds j (f (m.slot j)) }

/-- Replaces a spool. -/
def MatrixEngine.setSpool (m : MatrixEngine) (n : Nat) (q : Spool) : MatrixEngine :=
  { m with spools := m.spools.setIfInBounds n q }

/-- Changes the matrix engine of a pillar. -/
def Pillar.modMtx (x : Pillar) (f : MatrixEngine → MatrixEngine) : Pillar := { x with mtx := f x.mtx }

/-- A spool configuration fault on an offset or count (R227). -/
def spoolFault (n : Nat) : Stop := .trap 0x29 (word (3 + n * 16))

/-- Dispatch of a tile load: the shape checks, then the spool's (R204, R226). What comes through a poisoned record is poisoned
(R12). -/
def tileLoadIssue (i : Instr) (f : Fields) (t c : Bool) (s : State) : Out :=
  finish i s do
    let r := s.st.shape f.sNum
    shapeCheck (r.sourceFault true false t c) f.sNum false
    let n := bitsOf f.mod.toNat 2 0
    let q := s.me.mtx.spool n
    let j := q.slot q.out
    if q.count = 0 then .error (spoolFault n)
    check (q.out != q.count) 0x2D (word (1 + n * 16 + j * 128))
    check ((s.me.mtx.slot j).state != 4) 0x2D (word (2 + n * 16 + j * 128))
    s.room .tile
    let s := s.dispatchAs .tile { s.capture i with src := r, slot := j, aux := n, tainted := s.st.shapeBad f.sNum != 0 }
    .ok (s.modMe fun x => x.modMtx fun m =>
      (m.modSlot j fun h => { h with state := 1, tag := 0, poison := m.slotBad.hasAny (8192 * j) 8192 }).setSpool n
        { q with out := q.out + 1 })

/-- TLD (R204). -/
def execTld (f : Fields) (s : State) : Out := tileLoadIssue (.tld f) f false false s

/-- TLDT (R204). -/
def execTldt (f : Fields) (s : State) : Out := tileLoadIssue (.tldt f) f true false s

/-- TLDC (R204). -/
def execTldc (f : Fields) (s : State) : Out := tileLoadIssue (.tldc f) f false true s

/-- TLDTC (R204). -/
def execTldtc (f : Fields) (s : State) : Out := tileLoadIssue (.tldtc f) f true true s

/-- The spans of two records intersect (R219). -/
def spansMeet (a b : Shape) : Bool := overlaps a.base.toNat (a.lastOff + 1) b.base.toNat (b.lastOff + 1)

/-- Dispatch of a copy (R218, R219). -/
def copyIssue (i : Instr) (f : Fields) (t c scale rowwise : Bool) (s : State) : Out :=
  finish i s do
    let src := s.st.shape f.sNum
    let dst := s.st.shape f.dNum
    shapeCheck (src.sourceFault false scale t c) f.sNum false
    shapeCheck (dst.destFault src) f.dNum true
    check (rowwise || !spansMeet src dst) 0x23 (word (f.dNum % 8 + f.sNum % 8 * 8))
    let w := (s.g f.tNum).bits
    if w != 0 then s.lsCheck w 8
    s.room .tile
    let tainted := s.st.shapeBad f.sNum ||| s.st.shapeBad f.dNum != 0
    .ok (s.dispatchAs .tile { s.capture i with src := src, dst := dst, gt := { bits := w }, tainted := tainted })

/-- BCOPY (R218). -/
def execBcopy (f : Fields) (s : State) : Out := copyIssue (.bcopy f) f false false false true s

/-- BCOPYT (R218). -/
def execBcopyt (f : Fields) (s : State) : Out := copyIssue (.bcopyt f) f true false false false s

/-- BCOPYC (R218). -/
def execBcopyc (f : Fields) (s : State) : Out := copyIssue (.bcopyc f) f false true false false s

/-- BCOPYX (R218). -/
def execBcopyx (f : Fields) (s : State) : Out := copyIssue (.bcopyx f) f false true true false s

/-! ## Acceptance -/

/-- A stopped operation of the strand waits, or a ROWACT of it holds the pipe (R197, R208). -/
def Pillar.tileHeld (x : Pillar) (t : StrandId) : Bool :=
  (x.strand t).stoppedOp.isSome || x.tile.waitingRows.any fun w => w.1 == t

/-- Every strand has stopped for a pre-emption, and the pillar drains (R383). -/
def Pillar.stopping (x : Pillar) : Bool :=
  x.preempt.isSome && x.strands.toList.all fun r => r.run != .running && r.run != .frozen

/-- A dispatched instruction is a CFETCH. -/
def Dispatched.isFetch (d : Dispatched) : Bool := match d.instr with | .cfetch _ => true | _ => false

/-- The pipe may accept the head of a strand's queue (R94, R208). While the pillar drains it accepts only what stands in the way of a
CFETCH, which finishes before the save (R132). -/
def Pillar.tileAcceptable (x : Pillar) (t : StrandId) : Bool :=
  let q := x.tile.unit.queue t
  !q.isEmpty && !x.tileHeld t && (!x.stopping || q.any Dispatched.isFetch)

/-- Adds an operation to the stream. -/
def Pillar.addOp (x : Pillar) (o : TileOp) : Pillar := { x with tile := { x.tile with ops := x.tile.ops ++ [o] } }

/-- Adds a CFETCH or TFILL. -/
def Pillar.addFetch (x : Pillar) (o : TileOp) : Pillar :=
  { x with tile := { x.tile with fetches := x.tile.fetches ++ [o] } }

/-- What an instruction does when the pipe accepts it (R197, R204, R217, R218, R132, R146). -/
def State.acceptTileInstr (s : State) (p : PillarId) (d : Dispatched) : State :=
  match d.instr with
  | .rowact f => s.acceptRowact p d f
  | .rowclose f => s.acceptRowclose p d f
  | .rowshort f => s.acceptRowshort p d f
  | .rowkeep f => s.acceptRowkeep p d f
  | .cfetch _ | .tfill _ => s.modPil p fun x => x.addFetch { d := d, due := s.clk + 24 }
  | _ => s.modPil p fun x => x.addOp { d := d, due := s.clk + 24 }

/-- The pipe accepts an instruction (R93, R94). -/
def State.acceptTile (s : State) (p : PillarId) : State :=
  let x := s.pil p
  match [x.tile.unit.last + 1, x.tile.unit.last + 2, x.tile.unit.last + 3, x.tile.unit.last].find? x.tileAcceptable with
  | none => s
  | some t =>
    match x.tile.unit.queue t with
    | [] => s
    | d :: q =>
      let u := { x.tile.unit.setQueue t q with last := t }
      (s.setPil p { x with tile := { x.tile with unit := u } }).acceptTileInstr p d

/-! ## Beats -/

/-- The source row that an operation reads after some rows: BCOPY goes downward when its destination lies above (R218). -/
def TileOp.sourceRow (o : TileOp) : Nat :=
  match o.d.instr with
  | .bcopy _ => if o.d.dst.base.toNat ≤ o.d.src.base.toNat then o.row else o.d.src.rows - 1 - o.row
  | _ => o.row

/-- The address of the next beat. -/
def TileOp.nextVa (o : TileOp) : Word := o.d.src.rowVa o.sourceRow + word o.col

/-- The bytes of the next beat: up to the end of the row or of its 128-byte block (R205). -/
def TileOp.nextLen (o : TileOp) : Nat := partLen 128 o.nextVa (o.d.src.rowBytes - o.col)

/-- A load waits for the readers of its slot (R226), and everything for a restore (R208). -/
def Pillar.opHeld (x : Pillar) (o : TileOp) : Bool := x.stopping || x.readersHold o

/-- The row of the own vault that the next beat reads, if it reads one. -/
def State.beatRow (s : State) (p : PillarId) (o : TileOp) : Option Nat :=
  match s.rowAt (s.engineWalker p o.d.lvl true) o.nextVa with
  | .row r => some r
  | .bad _ _ => none

/-- A repaired row (R213). -/
def Vault.repaired (v : Vault) (row : Nat) : Bool :=
  v.rpmap.toList.any fun e => bitOf e.toNat 15 && e.bits 14 9 == bankOf row && e.bits 8 0 == row / 4 % 512

/-- The clk by which the next beat arrives, if its row is open: 6 clk more on the first beat of a repaired row (R205). DESIGN CHOICE
(log entry 89): the first beat of an operation counts as a change onto its row, though the last operation ended on it. -/
def Vault.repairDelay (v : Vault) (o : TileOp) (row : Nat) : Nat :=
  if o.lastRow != some row && v.repaired row then 6 else 0

/-- Copies bytes into a buffer. -/
def Memory.copyFrom (m : Memory) (a : Nat) (src : Memory) (b n : Nat) : Memory := m.write a n (src.read b n)

/-- Where the bytes of the present row lie in the buffer: copies but BCOPY read blocks of 64 rows (R218). -/
def TileOp.bufRow (o : TileOp) : Nat :=
  match o.d.instr with
  | .bcopyt _ | .bcopyc _ | .bcopyx _ => o.row % 64 * 8192
  | _ => 0

/-- Places one element of an output in bytes and marks (R200). -/
def placeElem (r : Shape) (m : Memory × NatSet) (base pitch row c : Nat) (v : Nat) (bad : Bool) : Memory × NatSet :=
  let w := r.outType.width
  let a := base + row * pitch
  (m.1.setElem a w c v, m.2.setElemBad a w c bad)

/-- The value that an element becomes: converted under R58 with RNE and SAT when CVTEN is set (R204, R218). -/
def Shape.outBits (r : Shape) (v : Nat) : Nat := if r.cvtEn then convert r.type r.cvt 0 true v else v

/-- Places the elements of a source row in a slot (R200, R204). -/
def placeRow (o : TileOp) (m : Memory × NatSet) (base : Nat) : Memory × NatSet :=
  let r := o.d.src
  let w := r.type.width
  (List.range r.elems).foldl (fun m c =>
    let v := r.outBits (o.buf.elem 0 w c)
    let bad := o.bufBad.elemBad 0 w c
    let (row, col) := if r.transpose then (c, o.row) else (o.row, c)
    placeElem r m base (pitchOf r.outLen) row col v bad) m

/-- The stream's next row or operation falls due 2 clk after the last beat (R205). -/
def TileOp.nextRow (o : TileOp) : TileOp := { o with row := o.row + 1, col := 0 }

/-- The clk from the last beat to the fill or to the done word (R205). -/
def fillDelay (i : Instr) : Nat :=
  2 + match i with | .tldt _ => 8 | .tldc _ => 4 | .tldtc _ => 12 | _ => 0

/-- An operation comes to the head of the stream: its next beat falls due no earlier than a clk (R205). -/
def Pillar.startStream (x : Pillar) (clk : Nat) : Pillar := x.modStream fun o => { o with due := max o.due clk }

/-- A row of the stream is complete: the operation ends with its last, and beat 0 of the next falls due no earlier than 2 clk after it
(R205). -/
def State.endRow (s : State) (p : PillarId) (o : TileOp) : State :=
  let o := o.nextRow
  let last := o.d.src.rows ≤ o.row
  let o :=
    if last then { o with ended := true, due := s.clk + s.ticks p (fillDelay o.d.instr) } else { o with due := s.clk + 2 }
  s.modPil p fun x =>
    let x := (x.modStream fun _ => o).unpin s.clk
    if last then x.startStream (s.clk + 2) else x

/-- Reads the scale codes of a block of rows of BCOPYX (R218). -/
def State.readScales (s : State) (w : Walker) (r : Shape) (first n : Nat) : Act (State × Memory × NatSet) :=
  s.readBytes w .tile (r.scale + word (first * (r.elems / 32))) (n * (r.elems / 32))

/-- The value of an element of a block in a copy, with its poison (R218). -/
def copyElem (o : TileOp) (sc : Memory × NatSet) (i c : Nat) : Nat × Bool :=
  let r := o.d.src
  let w := r.type.width
  let v := o.buf.elem (i * 8192) w c
  let bad := o.bufBad.elemBad (i * 8192) w c
  match o.d.instr with
  | .bcopyx _ =>
    let k := i * (r.elems / 32) + c / 32
    let e := (sc.1.get k).toNat
    let x := valueOf r.type v
    (encodeValue r.cvt 0 false (if e = 0xFF then .nan else mulExact x (.fin false 1 ((e : Int) - 127))), bad || sc.2.has k)
  | _ => (r.outBits v, bad)

/-- The output of a block of rows: destination rows of bytes at pitch 65,536, and their marks. -/
def copyBlock (o : TileOp) (sc : Memory × NatSet) (n : Nat) : Memory × NatSet :=
  let r := o.d.src
  (List.range n).foldl (fun m i =>
    (List.range r.elems).foldl (fun m c =>
      let (v, bad) := copyElem o sc i c
      if r.transpose then placeElem r m 0 65536 c i v bad else placeElem r m 0 65536 i c v bad) m) ({}, {})

/-- Writes rows of a block in ascending order: row k of the block at an address, n bytes each. -/
def State.writeRows (w : Walker) (buf : Memory) (bad : NatSet) (va : Nat → Word) (n : Nat) :
    List Nat → State → NatMap Nat → Act (State × NatMap Nat)
  | [], s, m => .ok (s, m)
  | k :: ks, s, m => do
    let (s, m) ← s.writeBytes w (va k) n buf bad (k * 65536) m
    State.writeRows w buf bad va n ks s m

/-- Writes the destination of a block of n source rows that has been read in full (R218). -/
def State.writeBlock (s : State) (p : PillarId) (o : TileOp) (n : Nat) : Act (State × TileOp) := do
  let w := s.opWalker p o.d (stream := true) (matched := o.passed)
  let r := o.d.src
  let dst := o.d.dst
  let first := o.row + 1 - n
  let wbits := r.outType.width
  match o.d.instr with
  | .bcopy _ =>
    let (s, m) ← s.writeBytes w (dst.rowVa o.sourceRow) r.rowBytes o.buf o.bufBad 0 o.written
    .ok (s, { o with written := m })
  | _ =>
    let (s, sc) ← (match o.d.instr with
      | .bcopyx _ => do
        let (s, m, b) ← s.readScales w r first n
        .ok (s, (m, b))
      | _ => .ok (s, ({}, {})) : Act (State × Memory × NatSet))
    let (buf, bad) := copyBlock o sc n
    let (s, m) ←
      if r.transpose then
        State.writeRows w buf bad (fun c => dst.rowVa c + word (first * wbits / 8)) (n * wbits / 8)
          (List.range r.elems) s o.written
      else State.writeRows w buf bad (fun i => dst.rowVa (first + i)) r.outLen (List.range n) s o.written
    .ok (s, { o with written := m })

/-- ROWPROG of a stopped operation (R207). -/
def rowprogWord (o : TileOp) : Word :=
  let k := (tileKind o.d.instr).getD 0
  word (2 ^ 63 + k * 2 ^ 60 + o.row +
    (if k < 4 then o.d.gd.bits.bits 15 0 * 2 ^ 40 + o.d.aux % 8 * 2 ^ 37 + o.d.slot % 32 * 2 ^ 32 else 0))

/-- The operation at its last row boundary: copies but BCOPY count whole blocks (R208). -/
def TileOp.atBoundary (o : TileOp) : TileOp :=
  let row := match o.d.instr with | .bcopyt _ | .bcopyc _ | .bcopyx _ => o.row / 64 * 64 | _ => o.row
  { o with row := row, col := 0, buf := {}, bufBad := {}, lastRow := none, matched := none, passed := false, taken := 0 }

/-- The streaming operation stops at its last row boundary, and ROWPROG keeps its progress; later operations of its
strand go back to the head of the strand's queue, behind it (R208). -/
def Pillar.stopStream (x : Pillar) (clk : Nat) : Pillar :=
  match x.tile.stream with
  | some o =>
    let o := o.atBoundary
    let t := o.d.strand
    let later := (x.tile.ops.filter fun q => !q.ended && q.d.strand == t && q.d.seq != o.d.seq).map (·.d)
    let u := x.tile.unit
    let x := { x with tile := { x.tile with
      ops := x.tile.ops.filter fun q => q.ended || q.d.strand != t
      unit := u.setQueue t (later ++ u.queue t) } }
    (x.modStrand o.d.strand fun t => { t with rowprog := rowprogWord o, stoppedOp := some o }).unpin clk |>.startStream clk
  | none => x

/-- A late fault of the streaming operation stops it (R208). -/
def State.stopTile (s : State) (p : PillarId) (o : TileOp) (e : Stop) : State :=
  (s.holdOff e).getD
    ((s.modPil p fun x => x.stopStream s.clk).raiseStop p o.d.strand o.d.seq o.d.lvl e (tile := true))

/-- How many source rows the output of a copy covers that is complete with the present row, if one is (R218). -/
def TileOp.outputRows (o : TileOp) : Option Nat :=
  match o.d.instr with
  | .bcopy _ => some 1
  | .bcopyt _ | .bcopyc _ | .bcopyx _ =>
    let n := o.row % 64 + 1
    if n = 64 || o.row + 1 = o.d.src.rows then some n else none
  | _ => none

/-- A complete row of a tile load goes to its slot; a complete row or block of a copy to its destination. -/
def State.finishRow (s : State) (p : PillarId) (o : TileOp) : Act (State × TileOp) :=
  match tileKind o.d.instr, o.outputRows with
  | _, some n => do
    let (s, o) ← s.writeBlock p o n
    .ok (s, { o with buf := {}, bufBad := {} })
  | some k, none =>
    if k < 4 then
      .ok (s.modPil p fun x => x.modMtx fun m =>
        let (b, bad) := placeRow o (m.slotBytes, m.slotBad) (8192 * o.d.slot)
        { m with slotBytes := b, slotBad := bad }, { o with buf := {}, bufBad := {} })
    else .ok (s, o)
  | none, none => .ok (s, o)

/-- The clk by which the next beat of an operation is late and that no cause has been charged with (R215). -/
def TileOp.late (o : TileOp) (clk : Nat) : Nat := clk - max o.due o.charged

/-- Charges the lateness of a beat whose row is open now (R215): what throttling added to the row's activation, and the
rest to activations and pins. -/
def Pillar.chargeBeat (x : Pillar) (clk : Nat) (o : TileOp) (row : Nat) : Pillar :=
  let late := o.late clk
  let slow := min late ((x.vault.slowed.get? row).getD 0)
  let x : Pillar := { x with vault := { x.vault with slowed := x.vault.slowed.erase row } }
  (x.count (0x450 + layerOf row) slow).count (0x440 + layerOf row) (late - slow)

/-- The beats of other users that came while the next beat was late delay it, now that its row is open (R206). -/
def Pillar.makeUp (x : Pillar) (clk : Nat) (o : TileOp) (row : Nat) : Pillar :=
  (x.chargeBeat clk o row).modStream fun q => { q with due := clk + o.taken, taken := 0 }

/-- A beat of the stream comes from a row, which is pinned (R195). -/
def Pillar.pin (x : Pillar) (row : Nat) : Pillar :=
  ({ x with vault := { x.vault with pinned := [row] } } : Pillar).modStream fun q => { q with lastRow := some row }

/-- The first beat on a repaired row arrives 6 clk later (R205, R215). -/
def Pillar.delayRepaired (x : Pillar) (clk : Nat) (o : TileOp) (row : Nat) : Pillar :=
  ((x.chargeBeat clk o row).modStream fun q => { q with lastRow := some row, due := clk + 6 }).count (0x460 + layerOf row) 6

/-- The bytes of a beat join the row. -/
def TileOp.addBeat (o : TileOp) (n v : Nat) (bad : List Nat) : TileOp :=
  let a := o.bufRow + o.col
  { o with
    buf := o.buf.write a n v, bufBad := bad.foldl (fun b i => b.insert (a + i)) (o.bufBad.clear a n), col := o.col + n }

/-- A foreign beat of a twinned strand waits until its twin has asked for the same row (R397). -/
def State.foreignHeld (s : State) (p : PillarId) (o : TileOp) (pa : Nat) : Bool :=
  s.outgoing p (placeOf pa) && o.matched != some o.row && !s.discards p o.d.strand

/-- A worm of a strand is held for its twin's hash. -/
def State.wormHeld (s : State) (p : PillarId) (t : StrandId) : Bool := s.integrity.held.any fun h => h.p == p && h.t == t

/-- The worm of a foreign row goes to its twin's comparison. -/
def State.holdRow (s : State) (p : PillarId) (o : TileOp) (pa : Nat) : State :=
  (s.holdWorm p o.d.strand o.d.ord [procCode o.d.instr, word pa, word o.d.src.rowBytes] o.d.seq
    o.d.lvl).modPil p fun x => x.modStream fun q => { q with matched := some q.row }

/-- The first address that the output of a copy's n rows goes to (R218). -/
def TileOp.outputVa (o : TileOp) (n : Nat) : Word :=
  let first := o.row + 1 - n
  match o.d.instr with
  | .bcopy _ => o.d.dst.rowVa o.sourceRow
  | _ =>
    if o.d.src.transpose then o.d.dst.rowVa 0 + word (first * o.d.src.outType.width / 8) else o.d.dst.rowVa first

/-- A copy's output to foreign rows waits for its twin's (R397). -/
def State.outputHeld (s : State) (p : PillarId) (o : TileOp) : Bool :=
  match o.outputRows with
  | some n =>
    !o.passed && !s.discards p o.d.strand &&
      (match s.target (s.opWalker p o.d) .write (o.outputVa n) with
      | .ok (pa, _) => s.outgoing p (placeOf pa)
      | .error _ => false)
  | none => false

/-- The output of a copy goes to its twin's comparison, with the bytes that it is made from. -/
def State.holdOutput (s : State) (p : PillarId) (o : TileOp) : State :=
  let data := o.buf.cells.map fun c => word (c.1 * 256 + c.2.toNat)
  (s.holdWorm p o.d.strand o.d.ord (procCode o.d.instr :: o.outputVa 1 :: data) o.d.seq
    o.d.lvl).modPil p fun x => x.modStream fun q => { q with passed := true }

/-- A row of the stream has been read: its output, and the end of the row. -/
def State.completeRow (s : State) (p : PillarId) (o : TileOp) : Act State :=
  if s.outputHeld p o then .ok (s.holdOutput p o)
  else do
    let (s, o) ← s.finishRow p o
    .ok (s.endRow p { o with passed := false })

/-- A beat arrives (R205): its bytes, and with the last of a row the row's or block's output. -/
def State.beat (s : State) (p : PillarId) (o : TileOp) : Act State := do
  let n := o.nextLen
  let w := s.opWalker p o.d (stream := true) (matched := o.matched == some o.row)
  let s := if o.col = 0 then s.noteBulk w .tile o.nextVa else s
  let (s, v, bad) ← s.readPart w .tile o.nextVa n
  let bad := if o.d.tainted then List.range n else bad
  let o := { o.addBeat n v bad with due := s.clk + 2 }
  let s := s.modPil p fun x => x.modStream fun _ => o
  if o.col < o.d.src.rowBytes then .ok s else s.completeRow p o

/-- The stream goes on with what a beat or a row's output gives, or stops (R208). -/
def State.streamOn (s : State) (p : PillarId) (o : TileOp) (r : Act State) : State :=
  match r with
  | .ok s' => s'
  | .error e => s.stopTile p o e

/-- TILE_BEAT_ARRIVE: the next beat of the streaming operation arrives, or, if it has fallen due on a closed row, the
row's activation is requested (R205, R195, R196). -/
def execTileBeatArrive (p : PillarId) (s : State) : Out :=
  let x := s.pil p
  match x.tile.stream with
  | none => .next s
  | some o =>
    if x.opHeld o then .next s
    else if o.d.src.rowBytes ≤ o.col then
      .next (if s.wormHeld p o.d.strand then s else s.streamOn p o (s.completeRow p o))
    else
      match s.beatRow p o with
      | some row =>
        if (x.vault.refreshing.get? (bankOf row)).isSome then .next s
        else if x.vault.openRows.contains row && o.taken != 0 then .next (s.modPil p fun x => x.makeUp s.clk o row)
        else if x.vault.openRows.contains row && x.vault.repairDelay o row != 0 then
          .next (s.modPil p fun x => x.delayRepaired s.clk o row)
        else if x.vault.openRows.contains row then
          let s' := s.modPil p fun x => (x.chargeBeat s.clk o row).pin row
          .next (s.streamOn p o (s'.beat p { o with lastRow := some row }))
        else if x.vault.isActivating row || !x.vault.canOpen row s.clk then .next s
        else .next (s.modPil p fun x => { x with vault := x.vault.request row s.clk })
      | none =>
        match s.target (s.opWalker p o.d (stream := true)) .tile o.nextVa with
        | .error e => .next (s.stopTile p o e)
        | .ok (pa, _) =>
          if s.wormHeld p o.d.strand then .next s
          else if s.foreignHeld p o pa then .next (s.holdRow p o pa)
          else if o.taken != 0 then
            .next (s.modPil p fun x => x.modStream fun q => { q with due := s.clk + o.taken, taken := 0 })
          else .next (s.streamOn p o (s.beat p o))

/-! ## The end of loads and copies -/

/-- The zero bytes of a slot that no element occupies (R200). -/
def zeroRest (m : Memory × NatSet) (base : Nat) (r : Shape) : Memory × NatSet :=
  let pitch := pitchOf r.outLen
  let m := (List.range r.outRows).foldl (fun m i =>
    (Memory.clear m.1 (base + i * pitch + r.outLen) (pitch - r.outLen),
      NatSet.clear m.2 (base + i * pitch + r.outLen) (pitch - r.outLen))) m
  (m.1.clear (base + r.outRows * pitch) (8192 - r.outRows * pitch),
    m.2.clear (base + r.outRows * pitch) (8192 - r.outRows * pitch))

/-- A slot is filled by a tile load (R226). -/
def MatrixEngine.fill (m : MatrixEngine) (d : Dispatched) : MatrixEngine :=
  let r := d.src
  let (b, bad) := zeroRest (m.slotBytes, m.slotBad) (8192 * d.slot) r
  ({ m with slotBytes := b, slotBad := bad } : MatrixEngine).modSlot d.slot fun h =>
    { h with tag := d.gd.bits.setWidth 16, type := r.outType.code, orows := r.outRows, olen := r.outLen
             state := 2 }

/-- An operation has completed: it leaves the pipe, ROWPROG.VALID of a resumed one clears, and it has ended (R208). -/
def Pillar.endOp (x : Pillar) (o : TileOp) : Pillar :=
  let x := { x with tile := { x.tile with ops := x.tile.ops.filter fun q => q.d.seq != o.d.seq } }
  (if o.resumed then x.modStrand o.d.strand fun t => { t with rowprog := setBits t.rowprog 63 63 0 } else x).endSeq o.d.seq

/-- TILE_LOAD_FILL: the slot of the oldest load whose last beat has arrived is filled (R205, R226). -/
def execTileLoadFill (p : PillarId) (s : State) : Out :=
  let x := s.pil p
  match x.tile.ops.find? fun o => o.ended && (match tileKind o.d.instr with | some k => k < 4 | none => false) with
  | some o => .next (s.setPil p ((x.modMtx fun m => m.fill o.d).endOp o))
  | none => .next s

/-- Writes the done word of a copy, full (R218, R208). -/
def Pillar.doneWord (x : Pillar) (d : Dispatched) (v : Nat) : Pillar :=
  if d.gt.bits = 0 then x else x.lsWriteFull (d.gt.bits.toNat) v false

/-- COPY_COMPLETE: the oldest copy whose last beat has arrived ends (R218). -/
def execCopyComplete (p : PillarId) (s : State) : Out :=
  let x := s.pil p
  match x.tile.ops.find? fun o => o.ended && (match tileKind o.d.instr with | some k => 4 ≤ k | none => false) with
  | some o => .next (s.setPil p ((x.doneWord o.d 0).endOp o))
  | none => .next s

/-- A strand that resumes has its stopped operation, whose fault has been delivered, streamed on (R208). -/
def Pillar.resumeTile (x : Pillar) (t : StrandId) (clk : Nat) : Pillar :=
  let r := x.strand t
  match r.stoppedOp with
  | some o =>
    if r.lates.any fun e => e.seq == o.d.seq then x
    else (x.modStrand t fun r => { r with stoppedOp := none }).addOp { o with due := clk + 24, charged := 0, resumed := true }
  | none => x

/-- A tile load or copy that has been stopped is abandoned: a load's slot is void, a copy's done word is 1 and full
(R208, R221). -/
def Pillar.abandon (x : Pillar) (o : TileOp) : Pillar :=
  let x := match tileKind o.d.instr with
    | some k => if k < 4 then x.modMtx fun m => m.modSlot o.d.slot fun h => { h with state := 3 } else x.doneWord o.d 1
    | none => x
  x.endSeq o.d.seq

/-- ROWPROG.VALID is written 0 (R207, R208). -/
def Pillar.abandonTile (x : Pillar) (t : StrandId) (clk : Nat) : Pillar :=
  let r := x.strand t
  if !bitOf r.rowprog.toNat 63 then x
  else
    let y := x.modStrand t fun r => { r with rowprog := setBits r.rowprog 63 63 0, stoppedOp := none }
    match r.stoppedOp.or (x.tile.ops.find? fun o => o.d.strand == t && o.resumed) with
    | some o =>
      ((({ y with tile := { y.tile with ops := y.tile.ops.filter fun q => q.d.seq != o.d.seq } } : Pillar).abandon o).unpin
        clk).startStream clk
    | none => y

/-! ## Segments, fills and write-backs -/

/-- The oldest fetch that satisfies a condition. -/
def TilePipe.fetch (u : TilePipe) (q : Instr → Bool) (slot : Nat) : Option TileOp :=
  u.fetches.find? fun o => q o.d.instr && o.d.slot == slot

/-- The reads of a CFETCH or TFILL from foreign addresses wait for its twin's (R397). -/
def State.fetchHeld (s : State) (p : PillarId) (o : TileOp) (va : Word) : Bool :=
  o.matched.isNone && !s.discards p o.d.strand &&
    (match s.target (s.opWalker p o.d) .tile va with
    | .ok (pa, _) => s.outgoing p (placeOf pa)
    | .error _ => false)

/-- The request of a CFETCH or TFILL goes to its twin's comparison. -/
def State.holdFetch (s : State) (p : PillarId) (o : TileOp) (va : Word) (n : Nat) : State :=
  let mark (q : TileOp) : TileOp := if q.d.seq == o.d.seq then { q with matched := some 0 } else q
  (s.holdWorm p o.d.strand o.d.ord [procCode o.d.instr, va, word n] o.d.seq o.d.lvl).modPil p fun x =>
    { x with tile := { x.tile with fetches := x.tile.fetches.map mark } }

/-- Removes a fetch. -/
def Pillar.dropFetch (x : Pillar) (o : TileOp) : Pillar :=
  { x with tile := { x.tile with fetches := x.tile.fetches.filter fun q => q.d.seq != o.d.seq } }

/-- A fetch ends: its segment or tag slot takes a state, a slot only if it still waits for the block (R132, R146). -/
def Pillar.settleFetch (x : Pillar) (o : TileOp) (st : BitVec 2) : Pillar :=
  let x := x.dropFetch o
  let j := o.d.slot
  match o.d.instr with
  | .cfetch _ => x.setSeg j { x.seg j with state := st }
  | _ => if (x.tags.slot j).state == 1 then { x with tags := x.tags.setSlot j { x.tags.slot j with state := st } } else x

/-- Writes bytes of a code overlay into local store (R132, R145). -/
def Pillar.lsWriteBytes (x : Pillar) (a n v : Nat) (bad : List Nat) : Pillar :=
  let x := x.lsWrite a n v false
  { x with ls := { x.ls with bad := bad.foldl (fun b i => b.insert ((a + i) / 8)) x.ls.bad } }

/-- Copies n bytes to local store in ascending order, poisoned if their address is (R12); an error leaves what came before it
(R132). -/
def State.copyIn (w : Walker) (tainted : Bool) : Nat → State → Word → Nat → Nat → State × Option Stop
  | 0, s, _, _, _ => (s, none)
  | fuel + 1, s, va, a, n =>
    if n = 0 then (s, none)
    else
      let k := partLen 128 va n
      match s.readPart w .tile va k with
      | .error e => (s, some e)
      | .ok (s, v, bad) =>
        let bad := if tainted then List.range k else bad
        State.copyIn w tainted fuel (s.modPil w.p fun x => x.lsWriteBytes a k v bad) (va + word k) (a + k) (n - k)

/-- SEGMENT_LAND: a CFETCH ends, and its segment has landed or failed (R132). -/
def execSegmentLand (p : PillarId) (n : BitVec 4) (s : State) : Out :=
  let x := s.pil p
  match x.tile.fetch (fun i => match i with | .cfetch _ => true | _ => false) n.toNat with
  | none => .next s
  | some o =>
    let d := o.d
    let f := match d.instr with | .cfetch f => f | _ => {}
    let a := if f.reg.isSome then d.gs else d.gd
    let va := a.bits
    let len := (x.seg n.toNat).lenKb * 1024
    let w := s.opWalker p d (matched := o.matched.isSome)
    if s.wormHeld p d.strand then .next s
    else if s.fetchHeld p o va then .next (s.holdFetch p o va len)
    else
      match State.copyIn w a.bad len (s.noteBulk w .tile va) va d.aux len with
      | (s', none) => .next (s'.modPil p fun x => ((x.settleFetch o 2).count 0x402 len).endSeq d.seq)
      | (s', some e) =>
        .next ((s.holdOff e).getD
          ((s'.modPil p fun x => x.settleFetch o 3).raiseStop p d.strand d.seq d.lvl e (tile := true)))

/-- A word of a fill: it is written and set full unless a write has set it full since TFILL (R139, R146). -/
def Pillar.fillWord (x : Pillar) (a v : Nat) (bad : Bool) : Pillar :=
  if x.isFull a then x
  else ({ x with ls := x.ls.store a 8 v bad } : Pillar).setEmpty (a / 8) false 1

/-- Writes the words of a block that has arrived. -/
def Pillar.fillBlock (x : Pillar) (a : Nat) (m : Memory) (bad : NatSet) : Pillar :=
  (List.range 128).foldl (fun x i => x.fillWord (a + 8 * i) (m.read (8 * i) 8) (bad.hasAny (8 * i) 8)) x

/-- TAG_FILL_COMPLETE: a block arrives, poisoned if its address is (R12), and its slot becomes valid, or failed (R146). -/
def execTagFillComplete (p : PillarId) (slot : BitVec 8) (s : State) : Out :=
  let x := s.pil p
  let j := slot.toNat
  match x.tile.fetch (fun i => match i with | .tfill _ => true | _ => false) j with
  | none => .next s
  | some o =>
    let d := o.d
    let f := match d.instr with | .tfill f => f | _ => {}
    let a := if f.reg.isSome then d.gs else d.gd
    let va := a.bits
    if s.wormHeld p d.strand then .next s
    else if s.fetchHeld p o va then .next (s.holdFetch p o va 1024)
    else
      match s.readBytes (s.opWalker p d (matched := o.matched.isSome)) .tile va 1024 with
      | .ok (s', m, bad) =>
        let bad := if a.bad then NatSet.putRange {} 0 true 1024 else bad
        .next (s'.modPil p fun x => ((x.fillBlock d.aux m bad).settleFetch o 2).endSeq d.seq)
      | .error e =>
        .next ((s.holdOff e).getD
          ((s.modPil p fun x => x.settleFetch o 3).raiseStop p d.strand d.seq d.lvl e (tile := true)))

/-- The poisoned bytes of a write-back. -/
def WriteBack.badBytes (b : WriteBack) : NatSet :=
  { elems := b.bad.elems.flatMap fun k => (List.range 8).map fun i => 8 * k + i }

/-- A write-back to foreign addresses waits for its twin's (R397). -/
def State.writeBackHeld (s : State) (p : PillarId) (b : WriteBack) : Bool :=
  !b.matched && !s.discards p b.strand &&
    (match s.target (s.engineWalker p b.lvl true) .write b.va with
    | .ok (pa, _) => s.outgoing p (placeOf pa)
    | .error _ => false)

/-- A write-back goes to its twin's comparison. -/
def State.holdWriteBack (s : State) (p : PillarId) (b : WriteBack) (bs : List WriteBack) : State :=
  let data := b.block.cells.map fun c => word (c.1 * 256 + c.2.toNat)
  (s.holdWorm p b.strand b.ord (b.va :: data) b.seq b.lvl false).modPil p fun x =>
    { x with tile := { x.tile with writeBacks := { b with matched := true } :: bs } }

/-- TEVICT_WRITEBACK_DONE: the oldest write-back has been performed and acknowledged (R146). -/
def execTevictWritebackDone (p : PillarId) (s : State) : Out :=
  let x := s.pil p
  match x.tile.writeBacks with
  | [] => .next s
  | b :: bs =>
    let drop (s : State) : State := s.modPil p fun x => { x with tile := { x.tile with writeBacks := bs } }
    if s.wormHeld p b.strand then .next s
    else if s.writeBackHeld p b then .next (s.holdWriteBack p b bs)
    else
      let w := { s.engineWalker p b.lvl true with discard := !b.matched && s.discards p b.strand }
      match s.writeBytes w b.va 1024 b.block b.badBytes 0 {} with
      | .ok (s', _) => .next (drop s')
      | .error e => .next ((s.holdOff e).getD ((drop s).raiseUnringed p b.strand b.seq b.lvl e (tile := true)))

/-! ## DRAM events -/

/-- The next beat of the stream is 4,096 clk late in waiting for the activation of its row, in a throttled layer (R214). What
refresh took of its lateness has been charged to refresh, and does not count. -/
def Pillar.throttleDue (x : Pillar) (clk : Nat) (o : TileOp) (row : Nat) : Bool :=
  x.vault.throttled (layerOf row) && !x.opHeld o && o.col < o.d.src.rowBytes && !x.vault.openRows.contains row &&
    (x.vault.refreshing.get? (bankOf row)).isNone && 4096 ≤ o.late clk

/-- THROTTLE_TRAP (R214). -/
def execThrottleTrap (p : PillarId) (s : State) : Out :=
  let x := s.pil p
  match x.tile.stream with
  | none => .next s
  | some o =>
    match s.beatRow p o with
    | some row =>
      if x.throttleDue s.clk o row then
        .next (s.stopTile p o (.trap 0x22 (word (layerOf row + row % 4 * 16 + 4096 * 2 ^ 32))))
      else .next s
    | none => .next s

/-- The vault clk of a pillar. -/
def State.phaseOf (s : State) (p : PillarId) : Nat := s.calclk (stackOf p) % 2 ^ 22

/-- How long ago the latest window with a start phase began, by the vault clock (R210). -/
def State.windowAge (s : State) (p : PillarId) (start : Nat) : Nat := (s.phaseOf p + 2 ^ 22 - start % 2 ^ 22) % 2 ^ 22

/-- A layer was hot a number of clk ago: as it was before the first change of HOT since then (R212). -/
def Vault.wasHot (v : Vault) (layer clk ago : Nat) : Bool :=
  match (v.hotLog.filter fun e => e.1 == layer && clk < e.2.1 + ago).getLast? with
  | some e => e.2.2
  | none => bitOf v.vtherm.toNat layer

/-- A bank's windows cover the present clk (R210): the second one, if the layer was hot as it began (R212). -/
def State.inRefresh (s : State) (p : PillarId) (bank : Nat) : Bool :=
  let v := (s.pil p).vault
  let start := v.calendar.bits 21 0 + 16 * v.calendar.bits 48 36 * bank
  let second := s.windowAge p (start + 2 ^ 21)
  (s.stack (stackOf p)).running && (s.windowAge p start < 588 || (second < 588 && v.wasHot (bank / 4) s.clk second))

/-- The stream's next beat lies in a bank and is late: the pillar with the clk charged by a cause (R215). -/
def State.chargeBank (s : State) (p : PillarId) (bank : Nat) (charge : TileOp → Nat → Pillar → Pillar) : Pillar :=
  let x := s.pil p
  match x.tile.stream with
  | some o =>
    match s.beatRow p o with
    | some row =>
      if bankOf row == bank && 0 < o.late s.clk && !x.opHeld o then
        (charge o row x).modStream fun q => { q with charged := s.clk }
      else x
    | none => x
  | none => x

/-- The sixteenth of a bank's rows that the window in progress refreshes: 32 of the 512, in turn, and twice as often if the layer
was hot as the window began (R210, R212). -/
def State.windowTurn (s : State) (p : PillarId) (bank : Nat) : Nat :=
  let v := (s.pil p).vault
  let start := v.calendar.bits 21 0 + 16 * v.calendar.bits 48 36 * bank
  let first := s.windowAge p start
  let age := if first < 588 then first else s.windowAge p (start + 2 ^ 21)
  (s.calclk (stackOf p) - age) / (if v.wasHot (bank / 4) s.clk age then 2 ^ 21 else 2 ^ 22) % 16

/-- REFRESH_WINDOW_START: the bank's open row closes, even if it is pinned (R210). -/
def execRefreshWindowStart (p : PillarId) (bank : Nat) (s : State) : Out :=
  let x := s.pil p
  if (x.vault.refreshing.get? bank).isSome || !s.inRefresh p bank then .next s
  else
    let x := s.chargeBank p bank fun o row x => x.chargeBeat s.clk o row
    .next (s.setPil p { x with vault := { x.vault with
      refreshing := x.vault.refreshing.set bank (s.windowTurn p bank)
      openRows := x.vault.openRows.filter fun r => bankOf r != bank
      pinned := x.vault.pinned.filter fun r => bankOf r != bank } })

/-- A row of a bank that a window of the bank refreshes, by the sixteenth that it refreshes (R210). -/
def refreshedRow (turn bank row : Nat) : Bool := bankOf row == bank && row / 4 % 512 / 32 == turn

/-- The activations of a bank that waited for its refresh start anew, in the order of their requests and at the rate of R196. -/
def Vault.restart (bank clk : Nat) (v : Vault) : List (Nat × Nat) → Vault
  | [] => v
  | a :: l =>
    let start := if bankOf a.1 == bank then v.startClk a.1 clk (v.layerGap (layerOf a.1)) else 0
    let v :=
      if bankOf a.1 == bank then
        { v with
          activating := v.activating ++ [(a.1, start + 32)], lastStart := some start
          layerStart := v.layerStart.set (layerOf a.1) start }
      else { v with activating := v.activating ++ [a] }
    Vault.restart bank clk v l

/-- REFRESH_WINDOW_END: waiting accesses go on; activations of the bank begin anew; under WARM its short-lived rows have
been refreshed (R196, R210, R215, R216). -/
def execRefreshWindowEnd (p : PillarId) (bank : Nat) (s : State) : Out :=
  let x := s.pil p
  match x.vault.refreshing.get? bank with
  | none => .next s
  | some turn =>
  if s.inRefresh p bank then .next s
  else
    let warm := bitOf x.vault.vtherm.toNat (12 + bank / 4)
    let v := Vault.restart bank s.clk { x.vault with activating := [] } x.vault.activating
    let v := { v with
      refreshing := x.vault.refreshing.erase bank
      shortLived := { entries := x.vault.shortLived.entries.map fun e =>
        if warm && e.2 != 0 && refreshedRow turn bank e.1 then (e.1, s.clk + 25200000) else e } }
    let x' := s.chargeBank p bank fun o _ x => x.count (0x430 + bank / 4) (o.late s.clk)
    .next (s.setPil p { x' with vault := v })

/-- REFRESH_EPOCH_START: a CALENDAR that was written takes effect on the stack's vaults (R209). -/
def execRefreshEpochStart (st : BitVec 2) (s : State) : Out :=
  if s.calclk st.toNat % 2 ^ 22 != 0 then .next s
  else
    .next { s with pillars := { entries := s.pillars.entries.map fun e =>
      if e.1 / 256 == st.toNat then
        match e.2.vault.nextCalendar with
        | some c => (e.1, { e.2 with vault := { e.2.vault with calendar := c, nextCalendar := none } })
        | none => e
      else e } }

/-- VTHERM_CHANGE: a layer's temperature has crossed a threshold (R211). -/
def execVthermChange (p : PillarId) (layer : Nat) (hot warm throt : Bool) (s : State) : Out :=
  .next (s.modPil p fun x => { x with vault := { x.vault with
    hotLog :=
      let old := bitOf x.vault.vtherm.toNat layer
      if old == hot then x.vault.hotLog else (layer, s.clk, old) :: x.vault.hotLog.filter fun e => s.clk < e.2.1 + 588
    vtherm := setBits (setBits (setBits x.vault.vtherm layer layer (boolNat hot)) (12 + layer) (12 + layer)
      (boolNat warm)) (24 + layer) (24 + layer) (boolNat throt) } })

/-- The short-lived rows of a vault whose deadline has come (R216). -/
def Vault.rowsDue (v : Vault) (clk : Nat) : List Nat :=
  (v.shortLived.entries.filter fun e => e.2 != 0 && e.2 ≤ clk).map (·.1)

/-- A short-lived row reaches its deadline: the whole row becomes poisoned (R216). -/
def State.expireRow (p : PillarId) (s : State) (row : Nat) : State :=
  State.modPil { s with memBad := s.memBad.putRange (vaultPa p (8192 * row) / 32) true 256 } p fun x =>
    { x with vault := { x.vault with expired := x.vault.expired.insert row, shortLived := x.vault.shortLived.set row 0 } }

/-- RETENTION_DEADLINE: a short-lived row whose deadline has come is poisoned (R216). At the start of each clk the model does the
same for every such row (`State.nextClk`). -/
def execRetentionDeadline (p : PillarId) (row : Nat) (s : State) : Out :=
  if ((s.pil p).vault.rowsDue s.clk).contains row then .next (s.expireRow p row) else .next s

end Sys2Proof.Machine
end

