-- ==== Sys2Proof/Machine/Vector.lean ====
section
/-! DEFINITION. Pages 3 and 4: the vector and mask registers, what each instruction does when the vector unit completes it,
and its dispatch (07_vector_registers.md). -/

namespace Sys2Proof.Machine

/-! ## Registers and lanes -/

/-- A mask register; k0 is all ones (R164). -/
def Strand.k (t : Strand) (n : Nat) : PWord := if n = 0 then { bits := -1 } else t.kRegs[n]?.getD {}

/-- Writes a mask register; writes to k0 are discarded (R164). -/
def Strand.setK (t : Strand) (n : Nat) (v : PWord) : Strand :=
  if n = 0 then t else { t with kRegs := t.kRegs.setIfInBounds n v }

/-- A vector register (R164). -/
def Strand.vreg (t : Strand) (n : Nat) : VReg := t.v[n]?.getD {}

/-- Writes a vector register. -/
def Strand.setV (t : Strand) (n : Nat) (r : VReg) : Strand := { t with v := t.v.setIfInBounds n r }

/-- Lanes of a register at a width (R165). -/
def lanesOf (w : Nat) : Nat := 512 / w

/-- Lane i of a register with its poison (R164, R166). -/
def VReg.lane (r : VReg) (w i : Nat) : Nat × Bool :=
  (r.bits.toNat / 2 ^ (w * i) % 2 ^ w, bitOf r.bad.toNat (w * i / 64))

/-- Writes a lane's bits. -/
def setLaneBits (bits w i v : Nat) : Nat :=
  bits - bits / 2 ^ (w * i) % 2 ^ w * 2 ^ (w * i) + v % 2 ^ w * 2 ^ (w * i)

/-- Writes lanes: a group is poisoned if a lane written in it is, or if it was and a lane of it was not written (R166). -/
def VReg.update (r : VReg) (w : Nat) (u : Nat → Option (Nat × Bool)) : VReg :=
  let n := lanesOf w
  let bits := (List.range n).foldl (fun b i => match u i with | some x => setLaneBits b w i x.1 | none => b) r.bits.toNat
  let groupBad (j : Nat) : Bool :=
    (List.range n).any fun i =>
      w * i / 64 == j && (match u i with | some x => x.2 | none => bitOf r.bad.toNat j)
  { bits := BitVec.ofNat 512 bits
    bad := BitVec.ofNat 8 ((List.range 8).map fun j => boolNat (groupBad j) * 2 ^ j).sum }

/-- Lane i of a register or of a pair of registers (R172). -/
def Strand.lane (t : Strand) (n w i : Nat) : Nat × Bool := (t.vreg (n + i / lanesOf w)).lane w (i % lanesOf w)

/-- Lane i is active under a mask register (R172). -/
def Strand.active (t : Strand) (k i : Nat) : Bool := bitOf (t.k k).bits.toNat i

/-- The Z flag (R20). -/
def zFlag (f : Fields) : Bool := bitOf f.flags 3

/-- The SAT flag (R20). -/
def satFlag (f : Fields) : Bool := bitOf f.flags 2

/-- Writes lanes under the mask and Z: an inactive lane keeps its value or becomes zero; under a poisoned mask every lane
is poisoned (R166, R172). -/
def Strand.writeMasked (t : Strand) (f : Fields) (w regs : Nat) (x : Nat → Nat × Bool) : Strand :=
  let l := lanesOf w
  let kbad := (t.k f.kNum).bad
  (List.range regs).foldl (fun t' j =>
    t'.setV (f.dNum + j) ((t.vreg (f.dNum + j)).update w fun i =>
      let g := j * l + i
      if t.active f.kNum g then some ((x g).1, (x g).2 || kbad)
      else if zFlag f then some (0, kbad)
      else if kbad then some (((t.vreg (f.dNum + j)).lane w i).1, true)
      else none)) t

/-- Registers of the form: two under the pair flag (R171). -/
def pairRegs (f : Fields) : Nat := if isPair f then 2 else 1

/-- VRM of a captured FMT (R52, R169). -/
def Dispatched.vrm (d : Dispatched) : Nat := d.fmt.bits 1 0

/-- A lane-wise instruction of one source (R172). -/
def lanes1 (d : Dispatched) (f : Fields) (ty : EType) (op : Nat → Nat) (t : Strand) : Strand :=
  let w := ty.width
  let _ := d
  t.writeMasked f w (pairRegs f) fun i => let a := t.lane f.sNum w i; (op a.1, a.2)

/-- A lane-wise instruction of two sources (R172). -/
def lanes2 (d : Dispatched) (f : Fields) (ty : EType) (op : Nat → Nat → Nat) (t : Strand) : Strand :=
  let w := ty.width
  let _ := d
  t.writeMasked f w (pairRegs f) fun i =>
    let a := t.lane (rrA f) w i
    let b := t.lane (rrB f) w i
    (op a.1 b.1, a.2 || b.2)

/-- A lane-wise instruction of two sources that also reads the destination (R172). -/
def lanes3 (d : Dispatched) (f : Fields) (ty : EType) (op : Nat → Nat → Nat → Nat) (t : Strand) : Strand :=
  let w := ty.width
  let _ := d
  t.writeMasked f w (pairRegs f) fun i =>
    let c := t.lane f.dNum w i
    let a := t.lane (rrA f) w i
    let b := t.lane (rrB f) w i
    (op c.1 a.1 b.1, a.2 || b.2 || c.2)

/-! ## Arithmetic of one lane -/

/-- An exact integer result, wrapped or clamped (R175). -/
def intResult (ty : EType) (sat : Bool) (x : Int) : Nat := lowBits (if sat then clampTo ty x else x) ty.width

/-- An operation on values for F types and on integers for I types (R175). -/
def arith2 (ty : EType) (mode : Nat) (sat : Bool) (fop : FVal → FVal → FVal) (iop : Int → Int → Int) (a b : Nat) : Nat :=
  if isF ty then encodeValue ty mode sat (fop (valueOf ty a) (valueOf ty b))
  else intResult ty sat (iop (intOf ty a) (intOf ty b))

/-- A fused operation: old D ± A × B, rounded once (R175). -/
def arith3 (ty : EType) (mode : Nat) (sat neg : Bool) (c a b : Nat) : Nat :=
  if isF ty then
    let p := mulExact (valueOf ty a) (valueOf ty b)
    encodeValue ty mode sat (sumExact mode [valueOf ty c, if neg then p.negate else p])
  else
    let p := intOf ty a * intOf ty b
    intResult ty sat (intOf ty c + if neg then -p else p)

/-- VABS: the sign bit alone for F types, the magnitude for I types (R50, R175). -/
def absLane (ty : EType) (sat : Bool) (a : Nat) : Nat :=
  if isF ty then a % 2 ^ (ty.width - 1) else intResult ty sat (intOf ty a).natAbs

/-- VNEG: the sign bit alone for F types, the negative for I types (R50, R175). -/
def negLane (ty : EType) (sat : Bool) (a : Nat) : Nat :=
  if isF ty then a ^^^ 2 ^ (ty.width - 1) else intResult ty sat (-(intOf ty a))

/-- A predicate of VCMP (R34, R177). -/
def compareLane (ty : EType) (pred a b : Nat) : Bool :=
  let x := valueOf ty a
  let y := valueOf ty b
  let nan := x.isNan || y.isNan
  match pred with
  | 0 => eqValue x y
  | 1 => !eqValue x y
  | 2 => ltValue false x y
  | 3 => !nan && !ltValue false y x
  | 4 => ltValue false y x
  | 5 => !nan && !ltValue false x y
  | _ => nan

/-! ## Effects at completion -/

/-- What a vector instruction does to its strand, its pillar's local store and a late fault (R173). -/
abbrev VEffect := Dispatched → Fields → State → Except (BitVec 8 × Word) State

/-- An effect on the strand's v and k registers only. -/
def onStrand (g : Dispatched → Fields → Strand → Strand) : VEffect :=
  fun d f s => .ok (s.modSt (g d f))

/-- A general register written at completion stops being pending (R100). -/
def State.writePending (s : State) (n : Nat) (v : PWord) : State :=
  s.modSt fun t => { t.setReg n v with pending := t.pending.erase n }

/-- VADD (R175). -/
def vaddEffect : VEffect :=
  onStrand fun d f t => lanes2 d f (typeOf .f32 f) (arith2 (typeOf .f32 f) d.vrm (satFlag f) (fun x y => sumExact d.vrm [x, y]) (· + ·)) t

/-- VSUB (R175). -/
def vsubEffect : VEffect :=
  onStrand fun d f t => lanes2 d f (typeOf .f32 f) (arith2 (typeOf .f32 f) d.vrm (satFlag f) (fun x y => sumExact d.vrm [x, y.negate]) (· - ·)) t

/-- VMUL (R175). -/
def vmulEffect : VEffect :=
  onStrand fun d f t => lanes2 d f (typeOf .f32 f) (arith2 (typeOf .f32 f) d.vrm (satFlag f) mulExact (· * ·)) t

/-- VDIV (R175). -/
def vdivEffect : VEffect :=
  onStrand fun d f t => lanes2 d f (typeOf .f32 f) (arith2 (typeOf .f32 f) d.vrm (satFlag f) divValue (fun x _ => x)) t

/-- VMIN (R175). -/
def vminEffect : VEffect :=
  onStrand fun d f t => lanes2 d f (typeOf .f32 f) (arith2 (typeOf .f32 f) d.vrm false minValue min) t

/-- VMAX (R175). -/
def vmaxEffect : VEffect :=
  onStrand fun d f t => lanes2 d f (typeOf .f32 f) (arith2 (typeOf .f32 f) d.vrm false maxValue max) t

/-- VFMA (R175). -/
def vfmaEffect : VEffect :=
  onStrand fun d f t => lanes3 d f (typeOf .f32 f) (arith3 (typeOf .f32 f) d.vrm (satFlag f) false) t

/-- VFMS (R175). -/
def vfmsEffect : VEffect :=
  onStrand fun d f t => lanes3 d f (typeOf .f32 f) (arith3 (typeOf .f32 f) d.vrm (satFlag f) true) t

/-- VABS (R175). -/
def vabsEffect : VEffect :=
  onStrand fun d f t => lanes1 d f (typeOf .f32 f) (absLane (typeOf .f32 f) (satFlag f)) t

/-- VNEG (R175). -/
def vnegEffect : VEffect :=
  onStrand fun d f t => lanes1 d f (typeOf .f32 f) (negLane (typeOf .f32 f) (satFlag f)) t

/-- VSQRT (R57, R175). -/
def vsqrtEffect : VEffect :=
  onStrand fun d f t =>
    lanes1 d f (typeOf .f32 f) (fun a => encodeValue (typeOf .f32 f) d.vrm (satFlag f) (sqrtValue (valueOf (typeOf .f32 f) a))) t

/-- VAND (R176). -/
def vandEffect : VEffect :=
  onStrand fun d f t => lanes2 d f (typeOf .i32 f) (· &&& ·) t

/-- VOR (R176). -/
def vorEffect : VEffect :=
  onStrand fun d f t => lanes2 d f (typeOf .i32 f) (· ||| ·) t

/-- VXOR (R176). -/
def vxorEffect : VEffect :=
  onStrand fun d f t => lanes2 d f (typeOf .i32 f) (· ^^^ ·) t

/-- VANDN (R176). -/
def vandnEffect : VEffect :=
  onStrand fun d f t => lanes2 d f (typeOf .i32 f) (fun a b => a &&& (2 ^ (typeOf .i32 f).width - 1 - b)) t

/-- VSHL: the count is B mod the width (R176). -/
def vshlEffect : VEffect :=
  onStrand fun d f t => lanes2 d f (typeOf .i32 f) (fun a b => a * 2 ^ (b % (typeOf .i32 f).width)) t

/-- VSHR (R176). -/
def vshrEffect : VEffect :=
  onStrand fun d f t => lanes2 d f (typeOf .i32 f) (fun a b => a / 2 ^ (b % (typeOf .i32 f).width)) t

/-- VSAR (R176). -/
def vsarEffect : VEffect :=
  onStrand fun d f t =>
    let w := (typeOf .i32 f).width
    lanes2 d f (typeOf .i32 f) (fun a b => lowBits (sextNat a w / (2 ^ (b % w) : Nat)) w) t

/-- VCMP (R177): active bits take the predicate, inactive ones keep their value or clear, bits above the lanes clear. -/
def vcmpEffect : VEffect :=
  onStrand fun _ f t =>
    let ty := typeOf .f32 f
    let w := ty.width
    let old := t.k f.dNum
    let bit (i : Nat) : Bool :=
      if t.active f.kNum i then compareLane ty f.mod.toNat (t.lane (rrA f) w i).1 (t.lane (rrB f) w i).1
      else !zFlag f && bitOf old.bits.toNat i
    let bad (i : Nat) : Bool :=
      if t.active f.kNum i then (t.lane (rrA f) w i).2 || (t.lane (rrB f) w i).2 else !zFlag f && old.bad
    let is := List.range (lanesOf w)
    t.setK f.dNum { bits := word (is.map fun i => boolNat (bit i) * 2 ^ i).sum, bad := is.any bad || (t.k f.kNum).bad }

/-- VSEL: B where the mask bit is 1 and A elsewhere; every lane is written (R177). -/
def vselEffect : VEffect :=
  onStrand fun _ f t =>
    let w := (typeOf .f32 f).width
    let kbad := (t.k f.kNum).bad
    (List.range (pairRegs f)).foldl (fun t' j =>
      t'.setV (f.dNum + j) ((t.vreg (f.dNum + j)).update w fun i =>
        let g := j * lanesOf w + i
        let a := t.lane (rrA f) w g
        let b := t.lane (rrB f) w g
        some (if t.active f.kNum g then b.1 else a.1, a.2 || b.2 || kbad))) t

/-- VMOV (R177). -/
def vmovEffect : VEffect := onStrand fun d f t => lanes1 d f (typeOf .f32 f) id t

/-- VBCAST (R177). -/
def vbcastEffect : VEffect :=
  onStrand fun d f t =>
    let w := (typeOf .f32 f).width
    t.writeMasked f w 1 fun _ => (d.gs.bits.toNat % 2 ^ w, d.gs.bad)

/-- VINS (R177). -/
def vinsEffect : VEffect :=
  onStrand fun d f t =>
    let w := (typeOf .f32 f).width
    t.setV f.dNum ((t.vreg f.dNum).update w fun i =>
      if i = f.tNum then some (d.gs.bits.toNat % 2 ^ w, d.gs.bad) else none)

/-- VEXT: sign-extended for i types (R177). -/
def vextEffect : VEffect :=
  fun _ f s =>
    let ty := typeOf .f32 f
    let x := s.st.lane f.sNum ty.width f.tNum
    .ok (s.writePending f.dNum (pword (if isSignedType ty then wordOfInt (sextNat x.1 ty.width) else word x.1) x.2))

/-- VLD: each active lane from local store (R178). -/
def vldEffect : VEffect :=
  fun d f s =>
    let w := (typeOf .f32 f).width
    let e := w / 8
    .ok (s.modSt fun t => t.writeMasked f w 1 fun i => s.me.ls.load (d.slot + e * i) e)

/-- VST: each active lane to local store (R178, R191). -/
def vstEffect : VEffect :=
  fun d f s =>
    let w := (typeOf .f32 f).width
    let e := w / 8
    let t := s.st
    .ok (s.modMe fun x => (List.range (lanesOf w)).foldl (fun x i =>
      if t.active f.kNum i then
        let v := t.lane f.dNum w i
        x.lsWrite (d.slot + e * i) e v.1 (v.2 || (t.k f.kNum).bad)
      else x) x)

/-- The address of a lane of VGATHER or VSCATTER (R179). -/
def gatherAddr (d : Dispatched) (f : Fields) (t : Strand) (w i : Nat) : Word :=
  d.gs.bits + wordOfInt (sextNat (t.lane f.tNum w i).1 w * (2 ^ (f.qNum - 1) : Nat)) + dispWord f

/-- The cause of a lane's address, if it fails (R179). -/
def Pillar.gatherFault (x : Pillar) (a : Word) (e : Nat) : Option (BitVec 8 × Word) :=
  if a.toNat % e != 0 then some (0x1A, a) else (x.lsFault a.toNat e).map fun c => (c, a)

/-- The late fault of the lowest active lane whose address fails (R173, R179); it comes before any element moves. -/
def gatherCheck (d : Dispatched) (f : Fields) (s : State) : Except (BitVec 8 × Word) Unit :=
  let w := (typeOf .f32 f).width
  let t := s.st
  if !d.moved.isEmpty then .ok ()
  else match (List.range (lanesOf w)).findSome? fun i =>
      if t.active f.kNum i then s.me.gatherFault (gatherAddr d f t w i) (w / 8) else none with
  | some e => .error e
  | none => .ok ()

/-- The element of local store that lane i of VGATHER takes (R179). -/
def gatherLane (d : Dispatched) (f : Fields) (x : Pillar) (t : Strand) (i : Nat) : Nat × Bool :=
  let w := (typeOf .f32 f).width
  let v := x.ls.load (gatherAddr d f t w i).toNat (w / 8)
  (v.1, v.2 || (t.lane f.tNum w i).2)

/-- VGATHER (R179): the elements read before this clk, and the rest now (R191). -/
def vgatherEffect : VEffect :=
  fun d f s => do
    gatherCheck d f s
    .ok (s.modSt fun t => t.writeMasked f (typeOf .f32 f).width 1 fun i => d.moved[i]?.getD (gatherLane d f s.me t i))

/-- The element that lane i of VSCATTER stores, with its poison (R166, R179). -/
def scatterLane (f : Fields) (t : Strand) (i : Nat) : Nat × Bool :=
  let w := (typeOf .f32 f).width
  let v := t.lane f.dNum w i
  (v.1, v.2 || (t.lane f.tNum w i).2 || (t.k f.kNum).bad)

/-- Some lanes of VSCATTER store their elements, in ascending order (R179). -/
def scatterLanes (d : Dispatched) (f : Fields) (t : Strand) (lanes : List Nat) (x : Pillar) : Pillar :=
  let w := (typeOf .f32 f).width
  lanes.foldl (fun x i =>
    if t.active f.kNum i then
      let v := scatterLane f t i
      x.lsWrite (gatherAddr d f t w i).toNat (w / 8) v.1 v.2
    else x) x

/-- VSCATTER (R179): the lanes that have not stored before this clk (R191). -/
def vscatterEffect : VEffect :=
  fun d f s => do
    gatherCheck d f s
    .ok (s.modMe (scatterLanes d f s.st ((List.range (lanesOf (typeOf .f32 f).width)).drop d.moved.length)))

/-- Four more elements of a VGATHER or VSCATTER that has more than four to go (R191). -/
def movePart (d : Dispatched) (s : State) : Option (Dispatched × State) :=
  let lanes (f : Fields) : List Nat := (List.range (lanesOf (typeOf .f32 f).width)).drop d.moved.length
  let goes (f : Fields) : Bool := 4 < (lanes f).length && (gatherCheck d f s).isOk
  match d.instr with
  | .vgather f =>
    if goes f then some ({ d with moved := d.moved ++ ((lanes f).take 4).map (gatherLane d f s.me s.st) }, s) else none
  | .vscatter f =>
    if goes f then
      some ({ d with moved := d.moved ++ ((lanes f).take 4).map (scatterLane f s.st) },
        s.modMe (scatterLanes d f s.st ((lanes f).take 4)))
    else none
  | _ => none

/-- A mask instruction of two sources (R180). -/
def maskOp (f : Fields) (op : Word → Word → Word) (t : Strand) : Strand :=
  let a := t.k (rrA f)
  let b := t.k (rrB f)
  t.setK f.dNum (pword (op a.bits b.bits) (a.bad || b.bad))

/-- KAND (R180). -/
def kandEffect : VEffect := onStrand fun _ f t => maskOp f (· &&& ·) t

/-- KOR (R180). -/
def korEffect : VEffect := onStrand fun _ f t => maskOp f (· ||| ·) t

/-- KNOT (R180). -/
def knotEffect : VEffect :=
  onStrand fun _ f t => let a := t.k f.sNum; t.setK f.dNum (pword (~~~a.bits) a.bad)

/-- KMOVG (R180). -/
def kmovgEffect : VEffect := fun _ f s => .ok (s.writePending f.dNum (s.st.k f.sNum))

/-- KMOVK (R180). -/
def kmovkEffect : VEffect := onStrand fun d f t => t.setK f.dNum d.gs

/-- One bits among the low n. -/
def onesOf (x : Nat) : Nat → Nat
  | 0 => 0
  | n + 1 => boolNat (bitOf x n) + onesOf x n

/-- KPOPC (R180). -/
def kpopcEffect : VEffect :=
  fun _ f s => let a := s.st.k f.sNum; .ok (s.writePending f.dNum (pword (word (onesOf a.bits.toNat 64)) a.bad))

/-! ## Page 4 -/

/-- The part and direction of a conversion: elements, and for each lane of the destination the mask bit and the source
lane that it takes, if it is written (R183). -/
def convertLane (ws wd part i : Nat) : Option (Nat × Nat) :=
  if wd < ws then
    let n := 512 / ws
    if part * n ≤ i && i < part * n + n then some (i - part * n, i - part * n) else none
  else if ws < wd then some (i, part * (512 / wd) + i)
  else some (i, i)

/-- A conversion under part, mask and Z (R183). -/
def convertLanes (f : Fields) (a : Nat) (src dst : EType) (bad : Bool) (conv : Nat → Nat) (t : Strand) : Strand :=
  let kbad := (t.k f.kNum).bad
  t.setV f.dNum ((t.vreg f.dNum).update dst.width fun i =>
    match convertLane src.width dst.width f.qNum i with
    | none => none
    | some (m, j) =>
      if t.active f.kNum m then
        let x := t.lane a src.width j
        some (conv x.1, x.2 || bad || kbad)
      else if zFlag f then some (0, kbad)
      else if kbad then some (((t.vreg f.dNum).lane dst.width i).1, true)
      else none)

/-- VCVT (R58, R183). -/
def vcvtEffect : VEffect :=
  onStrand fun d f t =>
    let dst := typeOf .f32 f
    convertLanes f f.sNum (fromType f) dst false (convert (fromType f) dst d.vrm (satFlag f)) t

/-- The scale operand of VQUANT and VDEQUANT (R184). -/
def scaleOf (d : Dispatched) (f : Fields) : PWord := if f.reg.isSome then d.gt else d.gs

/-- A value times a power of two, NaN for scale code 0xFF (R184). -/
def scaled2 (c : Nat) (n : Int) (x : FVal) : FVal := if c = 0xFF then .nan else mulExact x (.fin false 1 n)

/-- VQUANT: always saturates (R184). -/
def vquantEffect : VEffect :=
  onStrand fun d f t =>
    let dst := typeOf .e4m3 f
    let c := (scaleOf d f).bits.bits 7 0
    convertLanes f (rrA f) (fromType f) dst (scaleOf d f).bad
      (fun a => encodeValue dst d.vrm true (scaled2 c (127 - c) (valueOf (fromType f) a))) t

/-- VDEQUANT (R184). -/
def vdequantEffect : VEffect :=
  onStrand fun d f t =>
    let dst := typeOf .f32 f
    let c := (scaleOf d f).bits.bits 7 0
    convertLanes f (rrA f) (fromType f) dst (scaleOf d f).bad
      (fun a => encodeValue dst d.vrm (satFlag f) (scaled2 c ((c : Int) - 127) (valueOf (fromType f) a))) t

/-- The largest finite value of a target of VBSCALE (R185). -/
def scaleTop : EType → Nat
  | .e4m3 => 448
  | .e5m2 => 57344
  | .e2m1 => 6
  | _ => 127

/-- floor(log2(x / M)) of a positive value. -/
def floorLogRatio (m : Nat) (e : Int) (top : Nat) : Int :=
  let k := e + Nat.log2 m - Nat.log2 top
  if ltValue false (.fin false m e) (.fin false top k) then k - 1 else k

/-- The block scale of some values (R185). -/
def blockScale (top : Nat) (xs : List FVal) : Nat :=
  if xs.any fun x => match x with | .fin _ _ _ => false | _ => true then 0xFF
  else
    match xs.foldl (fun m x => match x with | .fin _ n e => maxValue m (.fin false n e) | _ => m) (.fin false 0 0) with
    | .fin _ m e => if m = 0 then 0 else (max 0 (min 254 (floorLogRatio m e top + 127))).toNat
    | _ => 0

/-- VBSCALE (R185). -/
def vbscaleEffect : VEffect :=
  fun _ f s =>
    let ty := typeOf .f32 f
    let t := s.st
    let is := (List.range (lanesOf ty.width)).filter fun i => t.active f.kNum i
    let xs := is.map fun i => t.lane f.sNum ty.width i
    let bad := xs.any (·.2) || (t.k f.kNum).bad
    .ok (s.writePending f.dNum
      (pword (word (blockScale (scaleTop (typeCode (f.mod.setWidth 4))) (xs.map fun x => valueOf ty x.1))) bad))

/-- A transcendental instruction (R59, R60, R186). -/
def transcEffect (fn : Transc) : VEffect :=
  onStrand fun d f t => lanes1 d f (typeOf .f32 f) (transcendental fn (typeOf .f32 f)) t

/-- VEXP2 (R186). -/
def vexp2Effect : VEffect := transcEffect .exp2

/-- VLOG2 (R186). -/
def vlog2Effect : VEffect := transcEffect .log2

/-- VRCP (R186). -/
def vrcpEffect : VEffect := transcEffect .rcp

/-- VRSQRT (R186). -/
def vrsqrtEffect : VEffect := transcEffect .rsqrt

/-- One step of VRED's tree, by op code (R34, R64). -/
def redOp (ty : EType) (mode op a b : Nat) : Nat :=
  match op with
  | 0 => arith2 ty mode false (fun x y => sumExact mode [x, y]) (· + ·) a b
  | 1 => arith2 ty mode false maxValue max a b
  | 2 => arith2 ty mode false minValue min a b
  | 3 => a &&& b
  | 4 => a ||| b
  | _ => a ^^^ b

/-- The identity of an op of VRED (R64). -/
def redIdentity (ty : EType) (op : Nat) : Nat :=
  match formatOf ty with
  | some f =>
    match op with
    | 0 => f.signed true 0
    | 1 => f.infCode false true
    | _ => f.infCode false false
  | none =>
    match op with
    | 1 => lowBits (minIntOf ty) ty.width
    | 2 => lowBits (maxIntOf ty) ty.width
    | 3 => 2 ^ ty.width - 1
    | _ => 0

/-- The pairwise tree of R64 over 2^n values. -/
def redTree (op : Nat → Nat → Nat) : Nat → List Nat → Nat
  | 0, xs => xs.headD 0
  | n + 1, xs => redTree op n (List.zipWith op (xs.take (2 ^ n)) (xs.drop (2 ^ n)))

/-- VRED (R64, R187): the result goes to every lane, whatever the mask. -/
def vredEffect : VEffect :=
  onStrand fun d f t =>
    let ty := typeOf .f32 f
    let w := ty.width
    let op := f.mod.toNat
    let is := List.range (lanesOf w)
    let xs := is.map fun i => if t.active f.kNum i then (t.lane f.sNum w i).1 else redIdentity ty op
    let bad := (t.k f.kNum).bad || is.any fun i => t.active f.kNum i && (t.lane f.sNum w i).2
    let r := redTree (redOp ty d.vrm op) (Nat.log2 (lanesOf w)) xs
    t.setV f.dNum ((t.vreg f.dNum).update w fun _ => some (r, bad))

/-- VPERM (R188). -/
def vpermEffect : VEffect :=
  onStrand fun _ f t =>
    let w := (typeOf .f32 f).width
    t.writeMasked f w 1 fun i =>
      let b := t.lane (rrB f) w i
      let a := t.lane (rrA f) w (b.1 % lanesOf w)
      (a.1, a.2 || b.2)

/-- VSHUF: A's lanes followed by the old D's lanes (R188). -/
def vshufEffect : VEffect :=
  onStrand fun _ f t =>
    let w := (typeOf .f32 f).width
    let l := lanesOf w
    t.writeMasked f w 1 fun i =>
      let b := t.lane (rrB f) w i
      let j := b.1 % (2 * l)
      let a := if j < l then t.lane (rrA f) w j else t.lane f.dNum w (j - l)
      (a.1, a.2 || b.2)

/-- VROT (R188). -/
def vrotEffect : VEffect :=
  onStrand fun _ f t =>
    let w := (typeOf .f32 f).width
    t.writeMasked f w 1 fun i => t.lane (riA f) w ((i + f.immU) % lanesOf w)

/-- The active lanes below n, ascending. -/
def Strand.activeBelow (t : Strand) (k n : Nat) : List Nat := (List.range n).filter fun i => t.active k i

/-- VCOMPRESS (R188). -/
def vcompressEffect : VEffect :=
  onStrand fun _ f t =>
    let w := (typeOf .f32 f).width
    let is := t.activeBelow f.kNum (lanesOf w)
    let kbad := (t.k f.kNum).bad
    t.setV f.dNum ((t.vreg f.dNum).update w fun i =>
      match is[i]? with
      | some j => let a := t.lane f.sNum w j; some (a.1, a.2 || kbad)
      | none =>
        if zFlag f then some (0, kbad)
        else if kbad then some (((t.vreg f.dNum).lane w i).1, true)
        else none)

/-- VEXPAND (R188). -/
def vexpandEffect : VEffect :=
  onStrand fun _ f t =>
    let w := (typeOf .f32 f).width
    t.writeMasked f w 1 fun i => t.lane f.sNum w (t.activeBelow f.kNum i).length

/-- One destination lane of VDOT (R65, R189). -/
def dotLane (ty : EType) (mode : Nat) (sat : Bool) (old : Nat) (a b : List Nat) : Nat :=
  if isI ty then
    intResult .i32 sat (intOf .i32 old + (List.zipWith (fun x y => intOf ty x * intOf ty y) a b).sum)
  else
    encodeValue .f32 mode sat
      (sumExact mode (valueOf .f32 old :: List.zipWith (fun x y => mulExact (valueOf ty x) (valueOf ty y)) a b))

/-- VDOT (R189). -/
def vdotEffect : VEffect :=
  onStrand fun d f t =>
    let ty := typeOf .i8 f
    let w := ty.width
    let n := 32 / w
    t.writeMasked f 32 1 fun i =>
      let src (r : Nat) : List Nat := (List.range n).map fun j => (t.lane r w (n * i + j)).1
      let old := t.lane f.dNum 32 i
      (dotLane ty d.vrm (satFlag f) old.1 (src (rrA f)) (src (rrB f)),
        old.2 || (t.lane (rrA f) 32 i).2 || (t.lane (rrB f) 32 i).2)

/-! ## Dispatch -/

/-- A general register will be written later (R100). -/
def State.pend (s : State) (d : Nat) : State :=
  if d = 0 then s else s.modSt fun t => { t with pending := d :: t.pending }

/-- Dispatch of a vector instruction that writes no general register (R93, R173). -/
def vecIssue (i : Instr) (s : State) : Out :=
  finish i s do
    s.room .vector
    .ok (s.dispatch .vector i)

/-- Dispatch of a vector instruction that writes g[d] (R100, R102). -/
def vecIssueG (i : Instr) (f : Fields) (s : State) : Out :=
  finish i s do
    s.destOk f.dNum
    s.room .vector
    .ok ((s.dispatch .vector i).pend f.dNum)

/-- Dispatch of VLD or VST: the checks of all 64 bytes (R178). -/
def vecIssueMem (i : Instr) (f : Fields) (s : State) : Out :=
  finish i s do
    let ea ← s.mAddr f
    check (ea.toNat % ((typeOf .f32 f).width / 8) == 0) 0x1A ea
    match s.me.lsFault ea.toNat 64 with
    | some c => .error (.trap c ea)
    | none =>
      s.room .vector
      .ok (s.dispatchAs .vector { s.capture i with slot := ea.toNat })

/-- Dispatch of VGATHER or VSCATTER: a poisoned base traps (R110, R166). -/
def vecIssueGather (i : Instr) (f : Fields) (s : State) : Out :=
  finish i s do
    let _ ← notPoison 2 f.sNum (s.g f.sNum)
    s.room .vector
    .ok (s.dispatch .vector i)

/-- VADD: dispatch (R175); its effect comes at completion. -/
def execVadd (f : Fields) (s : State) : Out := vecIssue (.vadd f) s

/-- VSUB: dispatch (R175); its effect comes at completion. -/
def execVsub (f : Fields) (s : State) : Out := vecIssue (.vsub f) s

/-- VMUL: dispatch (R175); its effect comes at completion. -/
def execVmul (f : Fields) (s : State) : Out := vecIssue (.vmul f) s

/-- VDIV: dispatch (R175); its effect comes at completion. -/
def execVdiv (f : Fields) (s : State) : Out := vecIssue (.vdiv f) s

/-- VMIN: dispatch (R175); its effect comes at completion. -/
def execVmin (f : Fields) (s : State) : Out := vecIssue (.vmin f) s

/-- VMAX: dispatch (R175); its effect comes at completion. -/
def execVmax (f : Fields) (s : State) : Out := vecIssue (.vmax f) s

/-- VFMA: dispatch (R175); its effect comes at completion. -/
def execVfma (f : Fields) (s : State) : Out := vecIssue (.vfma f) s

/-- VFMS: dispatch (R175); its effect comes at completion. -/
def execVfms (f : Fields) (s : State) : Out := vecIssue (.vfms f) s

/-- VABS: dispatch (R175); its effect comes at completion. -/
def execVabs (f : Fields) (s : State) : Out := vecIssue (.vabs f) s

/-- VNEG: dispatch (R175); its effect comes at completion. -/
def execVneg (f : Fields) (s : State) : Out := vecIssue (.vneg f) s

/-- VSQRT: dispatch (R175); its effect comes at completion. -/
def execVsqrt (f : Fields) (s : State) : Out := vecIssue (.vsqrt f) s

/-- VAND: dispatch (R176); its effect comes at completion. -/
def execVand (f : Fields) (s : State) : Out := vecIssue (.vand f) s

/-- VOR: dispatch (R176); its effect comes at completion. -/
def execVor (f : Fields) (s : State) : Out := vecIssue (.vor f) s

/-- VXOR: dispatch (R176); its effect comes at completion. -/
def execVxor (f : Fields) (s : State) : Out := vecIssue (.vxor f) s

/-- VANDN: dispatch (R176); its effect comes at completion. -/
def execVandn (f : Fields) (s : State) : Out := vecIssue (.vandn f) s

/-- VSHL: dispatch (R176); its effect comes at completion. -/
def execVshl (f : Fields) (s : State) : Out := vecIssue (.vshl f) s

/-- VSHR: dispatch (R176); its effect comes at completion. -/
def execVshr (f : Fields) (s : State) : Out := vecIssue (.vshr f) s

/-- VSAR: dispatch (R176); its effect comes at completion. -/
def execVsar (f : Fields) (s : State) : Out := vecIssue (.vsar f) s

/-- VCMP: dispatch (R177); its effect comes at completion. -/
def execVcmp (f : Fields) (s : State) : Out := vecIssue (.vcmp f) s

/-- VSEL: dispatch (R177); its effect comes at completion. -/
def execVsel (f : Fields) (s : State) : Out := vecIssue (.vsel f) s

/-- VMOV: dispatch (R177); its effect comes at completion. -/
def execVmov (f : Fields) (s : State) : Out := vecIssue (.vmov f) s

/-- VBCAST: dispatch (R177); its effect comes at completion. -/
def execVbcast (f : Fields) (s : State) : Out := vecIssue (.vbcast f) s

/-- VINS: dispatch (R177); its effect comes at completion. -/
def execVins (f : Fields) (s : State) : Out := vecIssue (.vins f) s

/-- VEXT: dispatch (R177); its effect comes at completion. -/
def execVext (f : Fields) (s : State) : Out := vecIssueG (.vext f) f s

/-- VLD: dispatch (R178); its effect comes at completion. -/
def execVld (f : Fields) (s : State) : Out := vecIssueMem (.vld f) f s

/-- VST: dispatch (R178); its effect comes at completion. -/
def execVst (f : Fields) (s : State) : Out := vecIssueMem (.vst f) f s

/-- VGATHER: dispatch (R179); its effect comes at completion. -/
def execVgather (f : Fields) (s : State) : Out := vecIssueGather (.vgather f) f s

/-- VSCATTER: dispatch (R179); its effect comes at completion. -/
def execVscatter (f : Fields) (s : State) : Out := vecIssueGather (.vscatter f) f s

/-- KAND: dispatch (R180); its effect comes at completion. -/
def execKand (f : Fields) (s : State) : Out := vecIssue (.kand f) s

/-- KOR: dispatch (R180); its effect comes at completion. -/
def execKor (f : Fields) (s : State) : Out := vecIssue (.kor f) s

/-- KNOT: dispatch (R180); its effect comes at completion. -/
def execKnot (f : Fields) (s : State) : Out := vecIssue (.knot f) s

/-- KMOVG: dispatch (R180); its effect comes at completion. -/
def execKmovg (f : Fields) (s : State) : Out := vecIssueG (.kmovg f) f s

/-- KMOVK: dispatch (R180); its effect comes at completion. -/
def execKmovk (f : Fields) (s : State) : Out := vecIssue (.kmovk f) s

/-- KPOPC: dispatch (R180); its effect comes at completion. -/
def execKpopc (f : Fields) (s : State) : Out := vecIssueG (.kpopc f) f s

/-- VCVT: dispatch (R183); its effect comes at completion. -/
def execVcvt (f : Fields) (s : State) : Out := vecIssue (.vcvt f) s

/-- VQUANT: dispatch (R184); its effect comes at completion. -/
def execVquant (f : Fields) (s : State) : Out := vecIssue (.vquant f) s

/-- VDEQUANT: dispatch (R184); its effect comes at completion. -/
def execVdequant (f : Fields) (s : State) : Out := vecIssue (.vdequant f) s

/-- VBSCALE: dispatch (R185); its effect comes at completion. -/
def execVbscale (f : Fields) (s : State) : Out := vecIssueG (.vbscale f) f s

/-- VEXP2: dispatch (R186); its effect comes at completion. -/
def execVexp2 (f : Fields) (s : State) : Out := vecIssue (.vexp2 f) s

/-- VLOG2: dispatch (R186); its effect comes at completion. -/
def execVlog2 (f : Fields) (s : State) : Out := vecIssue (.vlog2 f) s

/-- VRCP: dispatch (R186); its effect comes at completion. -/
def execVrcp (f : Fields) (s : State) : Out := vecIssue (.vrcp f) s

/-- VRSQRT: dispatch (R186); its effect comes at completion. -/
def execVrsqrt (f : Fields) (s : State) : Out := vecIssue (.vrsqrt f) s

/-- VRED: dispatch (R187); its effect comes at completion. -/
def execVred (f : Fields) (s : State) : Out := vecIssue (.vred f) s

/-- VPERM: dispatch (R188); its effect comes at completion. -/
def execVperm (f : Fields) (s : State) : Out := vecIssue (.vperm f) s

/-- VSHUF: dispatch (R188); its effect comes at completion. -/
def execVshuf (f : Fields) (s : State) : Out := vecIssue (.vshuf f) s

/-- VROT: dispatch (R188); its effect comes at completion. -/
def execVrot (f : Fields) (s : State) : Out := vecIssue (.vrot f) s

/-- VCOMPRESS: dispatch (R188); its effect comes at completion. -/
def execVcompress (f : Fields) (s : State) : Out := vecIssue (.vcompress f) s

/-- VEXPAND: dispatch (R188); its effect comes at completion. -/
def execVexpand (f : Fields) (s : State) : Out := vecIssue (.vexpand f) s

/-- VDOT: dispatch (R189); its effect comes at completion. -/
def execVdot (f : Fields) (s : State) : Out := vecIssue (.vdot f) s

/-- What a dispatched vector instruction does when it completes. -/
def vectorEffect (d : Dispatched) : Option (VEffect × Fields) :=
  match d.instr with
  | .vadd f => some (vaddEffect, f)
  | .vsub f => some (vsubEffect, f)
  | .vmul f => some (vmulEffect, f)
  | .vdiv f => some (vdivEffect, f)
  | .vmin f => some (vminEffect, f)
  | .vmax f => some (vmaxEffect, f)
  | .vfma f => some (vfmaEffect, f)
  | .vfms f => some (vfmsEffect, f)
  | .vabs f => some (vabsEffect, f)
  | .vneg f => some (vnegEffect, f)
  | .vsqrt f => some (vsqrtEffect, f)
  | .vand f => some (vandEffect, f)
  | .vor f => some (vorEffect, f)
  | .vxor f => some (vxorEffect, f)
  | .vandn f => some (vandnEffect, f)
  | .vshl f => some (vshlEffect, f)
  | .vshr f => some (vshrEffect, f)
  | .vsar f => some (vsarEffect, f)
  | .vcmp f => some (vcmpEffect, f)
  | .vsel f => some (vselEffect, f)
  | .vmov f => some (vmovEffect, f)
  | .vbcast f => some (vbcastEffect, f)
  | .vins f => some (vinsEffect, f)
  | .vext f => some (vextEffect, f)
  | .vld f => some (vldEffect, f)
  | .vst f => some (vstEffect, f)
  | .vgather f => some (vgatherEffect, f)
  | .vscatter f => some (vscatterEffect, f)
  | .kand f => some (kandEffect, f)
  | .kor f => some (korEffect, f)
  | .knot f => some (knotEffect, f)
  | .kmovg f => some (kmovgEffect, f)
  | .kmovk f => some (kmovkEffect, f)
  | .kpopc f => some (kpopcEffect, f)
  | .vcvt f => some (vcvtEffect, f)
  | .vquant f => some (vquantEffect, f)
  | .vdequant f => some (vdequantEffect, f)
  | .vbscale f => some (vbscaleEffect, f)
  | .vexp2 f => some (vexp2Effect, f)
  | .vlog2 f => some (vlog2Effect, f)
  | .vrcp f => some (vrcpEffect, f)
  | .vrsqrt f => some (vrsqrtEffect, f)
  | .vred f => some (vredEffect, f)
  | .vperm f => some (vpermEffect, f)
  | .vshuf f => some (vshufEffect, f)
  | .vrot f => some (vrotEffect, f)
  | .vcompress f => some (vcompressEffect, f)
  | .vexpand f => some (vexpandEffect, f)
  | .vdot f => some (vdotEffect, f)
  | _ => none

/-! ## Acceptance and completion -/

/-- The v registers, and the k registers as 32 and above, that an instruction of the vector unit reads and writes
(R168). -/
def vectorUnitUse (i : Instr) : List Nat × List Nat :=
  match i.row with
  | none => ([], [])
  | some (r, f) =>
    let (cd, cs, ct) := fieldClasses r f
    let cd := if r.d == .v || r.d == .k then r.d else if r.form == .rr2 && !f.reg.isSome then r.a else cd
    let two := r.page == 3 && isPair f && r.op < 28
    let reg (c : Cls) (n : Nat) : List Nat :=
      match c with
      | .v => if two then [n, n + 1] else [n]
      | .k => [32 + n]
      | _ => []
    let d := reg cd f.dNum
    let store := match i with | .vst _ | .vscatter _ => true | _ => false
    let mask := if f.kNum = 0 then [] else [32 + f.kNum]
    let first := if r.form == .rr2 && !f.reg.isSome && r.a != cd then reg r.a f.dNum else []
    (d ++ first ++ reg cs f.sNum ++ reg ct f.tNum ++ mask, if store then [] else d)

/-- The v and k registers that an instruction reads and writes (R168, R236, R250, R256). A split writes no code, but it may mark
the lanes of its scale pair (R250). -/
def vectorUse (i : Instr) : List Nat × List Nat :=
  match i with
  | .sldv f => ([], [f.dNum])
  | .sstv f => ([f.dNum], [])
  | .mmv f => ([f.tNum, f.tNum + 1], [])
  | .psplita f | .psplitb f => ([f.tNum, f.tNum + 1], [f.tNum, f.tNum + 1])
  | .pjoin f => ([f.tNum, f.tNum + 1, f.tNum + 2, f.tNum + 3], [])
  | _ => vectorUnitUse i

/-- Two instructions may not overlap: one writes what the other reads or writes (R168). -/
def vectorConflict (i j : Instr) : Bool :=
  let (ri, wi) := vectorUse i
  let (rj, wj) := vectorUse j
  wi.any (fun n => rj.contains n || wj.contains n) || wj.any fun n => ri.contains n

/-- The matrix instructions that name v registers (R168). -/
def namesVector : Instr → Bool
  | .sldv _ | .sstv _ | .mmv _ | .psplita _ | .psplitb _ | .pjoin _ => true
  | _ => false

/-- The vector-unit instructions of a strand that have not completed. -/
def Pillar.vectorPending (x : Pillar) (t : StrandId) : List Dispatched :=
  x.vec.queue t ++ x.vec.accepted.filter fun d => d.strand == t

/-- An earlier instruction of the strand in the other engine conflicts (R168). -/
def Pillar.crossHazard (x : Pillar) (d : Dispatched) (others : List Dispatched) : Bool :=
  others.any fun o => x.age d.seq < x.age o.seq && vectorConflict d.instr o.instr

/-- A vector instruction of the strand has faulted and its fault is not delivered (R173). -/
def Pillar.vectorFaulted (x : Pillar) (t : StrandId) : Bool :=
  (x.strand t).lates.any (·.vector)

/-- The vector unit may accept the head of a strand's queue (R93, R168, R173). -/
def Pillar.vectorAcceptable (x : Pillar) (t : StrandId) : Bool :=
  match x.vec.queue t with
  | d :: _ =>
    !x.vectorFaulted t &&
      (x.vec.accepted.all fun o => !(o.strand == t && vectorConflict d.instr o.instr)) &&
      !x.crossHazard d ((x.matrixPending t).filter fun o => namesVector o.instr)
  | [] => false

/-- How long an instruction keeps its pipes of the vector unit (R170). -/
def pipeTime (i : Instr) : Nat :=
  match i with
  | .vdiv f | .vsqrt f => if (typeOf .f32 f).width = 64 then 12 else 6
  | .vexp2 f | .vlog2 f | .vrcp f | .vrsqrt f => if (typeOf .f32 f).width = 64 then 2 else 1
  | .vgather f | .vscatter f => (lanesOf (typeOf .f32 f).width + 3) / 4
  | _ => 1

/-- An instruction of the vector unit has the pair form, which takes both pipes (R167, R171). -/
def usesBothPipes (i : Instr) : Bool :=
  match i.row with
  | some (r, f) => r.page == 3 && r.op < 28 && isPair f
  | none => false

/-- The pipes that an instruction takes in a clk: the lower-numbered free one, or both (R167). -/
def Pillar.pipesFor (x : Pillar) (now : Nat) (i : Instr) : Option (Vector Nat 2) :=
  let done := now + pipeTime i
  let free0 := x.pipes[0] ≤ now
  let free1 := x.pipes[1] ≤ now
  if usesBothPipes i then if free0 && free1 then some #v[done, done] else none
  else if free0 then some (x.pipes.set 0 done)
  else if free1 then some (x.pipes.set 1 done)
  else none

/-- The head of a strand's vector queue may be accepted in a clk: a pipe for it is free (R167). -/
def Pillar.vectorGoes (x : Pillar) (now : Nat) (t : StrandId) : Bool :=
  x.vectorAcceptable t && (match x.vec.queue t with | d :: _ => (x.pipesFor now d.instr).isSome | [] => false)

/-- The strands in round-robin order after one (R94). -/
def roundRobin (last : StrandId) : List StrandId := [last + 1, last + 2, last + 3, last]

/-- The vector unit accepts an instruction (R94, R167, R192). -/
def State.acceptVector (s : State) (p : PillarId) : State :=
  let x := s.pil p
  let now := s.pilClk (stackOf p)
  match (roundRobin x.vec.last).find? (x.vectorGoes now) with
  | none => s
  | some t =>
    match x.vec.queue t with
    | [] => s
    | d :: q =>
      let u := { x.vec.setQueue t q with last := t, accepted := x.vec.accepted ++ [d] }
      let y := ({ x with vec := u, pipes := (x.pipesFor now d.instr).getD x.pipes } : Pillar).count 0x420
      s.setPil p (if usesBothPipes d.instr then y.count 0x421 else y)

/-- VECTOR_COMPLETE: the oldest accepted vector instruction of a strand completes (R167, R172, R173). -/
def execVectorComplete (p : PillarId) (t : StrandId) (s : State) : Out :=
  match (s.pil p).vec.accepted.find? fun d => d.strand == t with
  | none => .next s
  | some d =>
    match vectorEffect d with
    | none => .next s
    | some (e, f) =>
      let s' := s.focus p t
      let drop (x : Pillar) : Pillar := { x with vec := { x.vec with accepted := x.vec.accepted.erase d } }
      match e d f s' with
      | .ok r => .next ((r.modMe fun x => (drop x).endSeq d.seq).focus s.curP s.curT)
      | .error (c, v) => .next (s.modPil p fun x => (drop x).raiseLate t { d.late c v with vector := true })

/-- The vector unit's work of a clk for a strand: four elements of a VGATHER or VSCATTER that has more to move, or the completion
of its oldest accepted instruction (R170, R191). -/
def vectorWork (p : PillarId) (t : StrandId) (s : State) : Out :=
  match (s.pil p).vec.accepted.find? fun d => d.strand == t with
  | none => .next s
  | some d =>
    match movePart d (s.focus p t) with
    | some (d', r) =>
      .next ((r.modMe fun x => { x with vec := { x.vec with accepted := x.vec.accepted.replace d d' } }).focus s.curP s.curT)
    | none => execVectorComplete p t s

end Sys2Proof.Machine
end

