-- ==== Sys2Proof/Machine/Matrix.lean ====
section
/-! DEFINITION. The matrix engine: slots and spools, the schedule check, slot transfers, tiles and batches, MMA, MMABS, MMV,
tile moves, looms and DRAIN (09_spools_accumulators.md R221-R246). The instructions check and dispatch here; acceptance
and completion stand with the ply instructions in Plies.lean. -/

namespace Sys2Proof.Machine

/-! ## Slots -/

/-- Numbers below 63 packed into one, the first lowest. -/
def packSlots : List Nat → Nat
  | [] => 0
  | j :: l => j + 1 + 64 * packSlots l

/-- The numbers of a packed list of at most n. -/
def unpackSlots : Nat → Nat → List Nat
  | 0, _ => []
  | n + 1, a => if a = 0 then [] else (a % 64 - 1) :: unpackSlots n (a / 64)

/-- POISON of a slot (R221): some byte of its contents is poisoned, which a load in progress leaves as it was (R226). -/
def MatrixEngine.slotPoison (m : MatrixEngine) (j : Nat) : Bool :=
  if (m.slot j).state = 1 then (m.slot j).poison else m.slotBad.hasAny (8192 * j) 8192

/-- What some slots hold (R221). -/
def MatrixEngine.shapeOf (m : MatrixEngine) (js : List Nat) : SlotShape :=
  let h := m.slot (js.headD 0)
  { type := h.type, rows := h.orows, lens := js.map fun j => (m.slot j).olen }

/-- The slots that a dispatched instruction reads in the matrix engine (R221). -/
def Dispatched.readSlots (d : Dispatched) : List Nat :=
  match d.instr with
  | .pmma _ => unpackSlots 16 d.slot ++ unpackSlots 16 d.aux
  | .mma _ | .mmabs _ | .mmv _ | .sldv _ | .psplita _ | .psplitb _ => unpackSlots 16 d.slot
  | _ => []

/-- A slot loses a reader; a draining slot without readers is free (R221). -/
def SlotHeader.leave (h : SlotHeader) : SlotHeader :=
  { h with readers := h.readers - 1, olds := h.olds - 1, state := if h.state = 5 && h.readers ≤ 1 then 0 else h.state }

/-- Slots gain a reader each. -/
def MatrixEngine.enterSlots (m : MatrixEngine) (js : List Nat) : MatrixEngine :=
  js.foldl (fun m j => m.modSlot j fun h => { h with readers := h.readers + 1 }) m

/-- Slots lose a reader each; a tile load that they held streams on (R205, R226, R245). -/
def Pillar.leaveSlots (x : Pillar) (clk : Nat) (js : List Nat) : Pillar :=
  let x := x.modMtx fun m => js.foldl (fun m j => m.modSlot j SlotHeader.leave) m
  match x.tile.stream with
  | some o =>
    if js.contains o.d.slot && (match tileKind o.d.instr with | some k => k < 4 | none => false) && !x.readersHold o &&
        o.due ≤ clk then
      (x.modStream fun o => { o with due := clk + 1 }).count 0x485 (clk + 1 - o.due)
    else x
  | none => x

/-- The schedule check (R227, R249): the slot that a spool and an offset name, if it holds the expected tag. -/
def State.schedCheck (s : State) (n off tag b : Nat) : Act Nat :=
  let m := s.me.mtx
  let q := m.spool n
  if q.count ≤ off then .error (spoolFault n)
  else
    let j := q.slot off
    let h := m.slot j
    let fault (reason : Nat) : Act Nat :=
      .error (.trap 0x28 (word (tag + h.tag.toNat * 2 ^ 16 + n * 2 ^ 32 + j * 2 ^ 35 + reason * 2 ^ 40 + b * 2 ^ 43)))
    if q.out ≤ off then fault 2
    else if h.state = 1 && h.splitter != some s.curT then fault 1
    else if h.state = 3 then fault 4
    else if h.tag.toNat != tag then fault 3
    else .ok j

/-- A matrix operand fault (R244). -/
def operandCheck (ok : Bool) (code : Nat) : Act Unit := check ok 0x2F (word code)

/-! ## Spool instructions -/

/-- The spools after SPOOLCFG (R224). -/
def spoolsOf (v : Word) : Vector Spool 8 :=
  Vector.ofFn fun (j : Fin 8) =>
    { count := v.bits (6 * j.val + 5) (6 * j.val)
      base := ((List.range j.val).map fun i => v.bits (6 * i + 5) (6 * i)).sum % 32 }

/-- SPOOLCFG (R224). -/
def execSpoolcfg (f : Fields) (s : State) : Out :=
  finish (.spoolcfg f) s do
    let v := (s.g f.sNum).bits
    let counts := (List.range 8).map fun j => v.bits (6 * j + 5) (6 * j)
    check (v.bits 63 48 == 0 && counts.all (· ≤ 32) && counts.sum ≤ 32) 0x29 1
    let busy := s.me.mtx.slots.toList.any fun h => h.state == 1 || h.state == 4 || h.state == 5 || h.readers != 0
    check (!busy && s.me.strands.toList.all fun t => !bitOf t.rowprog.toNat 63) 0x29 2
    .ok ((s.modMe fun x => x.modMtx fun m =>
      { m with spools := spoolsOf v, slots := m.slots.map fun h => { h with state := 0, tag := 0 } }).issueAfter 4)

/-- AWAIT (R225). -/
def execAwait (f : Fields) (s : State) : Out :=
  finish (.await f) s do
    let m := s.me.mtx
    let q := m.spool f.dNum
    if q.count ≤ f.immU then .error (spoolFault f.dNum)
    let st := (m.slot (q.slot f.immU)).state
    waitFor (f.immU < q.out && (st == 2 || st == 3))
    .ok s

/-- RELEASE (R225). -/
def execRelease (f : Fields) (s : State) : Out :=
  finish (.release f) s do
    let m := s.me.mtx
    let n := f.dNum
    let k := f.immU
    let q := m.spool n
    check (k ≤ q.out) 0x2D (word (3 + n * 16))
    let js := (List.range k).map q.slot
    match js.find? fun j => (m.slot j).state == 1 with
    | some j => .error (.trap 0x2D (word (4 + n * 16 + j * 128)))
    | none =>
      let m := js.foldl (fun m j => m.modSlot j fun h => { h with state := if h.readers = 0 then 0 else 5 }) m
      let rd := if q.count = 0 then 0 else (q.rd + k) % q.count
      .ok (s.modMe fun x => { x with mtx := m.setSpool n { q with rd := rd, out := q.out - k } })

/-! ## Slot transfers -/

/-- BYTE of a slot transfer (R228). -/
def slotByte (v : Word) : Nat := v.bits 12 0

/-- The sealing fields describe rows that fit a slot (R228). -/
def sealOk (v : Word) : Bool :=
  let orows := v.bits 43 30
  let olen := v.bits 29 16
  orows != 0 && olen != 0 && orows * pitchOf olen ≤ 8192

/-- SLDV (R228). -/
def execSldv (f : Fields) (s : State) : Out :=
  finish (.sldv f) s do
    let v := (s.g f.sNum).bits
    operandCheck (v.bits 5 0 == 0 && v.bits 47 16 == 0) 1
    let j ← s.schedCheck (bitsOf f.mod.toNat 2 0) (v.bits 15 13) (v.bits 63 48) 0
    s.room .matrix
    let s := s.dispatchAs .matrix { s.capture (.sldv f) with slot := packSlots [j] }
    .ok (s.modMe fun x => x.modMtx fun m => m.enterSlots [j])

/-- SSTV (R228): OUT rises at the dispatch of a seal (R222). -/
def execSstv (f : Fields) (s : State) : Out :=
  finish (.sstv f) s do
    let v := (s.g f.sNum).bits
    let n := bitsOf f.mod.toNat 2 0
    let sealing := bitOf f.mod.toNat 3
    operandCheck (v.bits 5 0 == 0 && v.bits 15 13 == 0 && (if sealing then sealOk v else v.bits 63 16 == 0)) 1
    let m := s.me.mtx
    let q := m.spool n
    if q.count = 0 then .error (spoolFault n)
    let j := q.slot q.out
    let h := m.slot j
    check (q.out != q.count) 0x2D (word (1 + n * 16 + j * 128))
    check (h.state != 5 && h.state != 1) 0x2A (word (j + n * 32 + h.readers * 256))
    s.room .matrix
    let s := s.dispatchAs .matrix { s.capture (.sstv f) with aux := j }
    .ok (s.modMe fun x => x.modMtx fun m =>
      let m := m.modSlot j fun h => { h with state := 4, tag := 0 }
      if sealing then m.setSpool n { q with out := q.out + 1 } else m)

/-! ## Tiles and batches -/

/-- A tile header (R229). -/
def MatrixEngine.tile (m : MatrixEngine) (a : Nat) : TileHeader := m.tiles[a]?.getD {}

/-- Changes a tile header. -/
def MatrixEngine.modTile (m : MatrixEngine) (a : Nat) (f : TileHeader → TileHeader) : MatrixEngine :=
  { m with tiles := m.tiles.setIfInBounds a (f (m.tile a)) }

/-- Changes the headers of some tiles. -/
def MatrixEngine.modTiles (m : MatrixEngine) (l : List Nat) (f : TileHeader → TileHeader) : MatrixEngine :=
  l.foldl (fun m a => m.modTile a f) m

/-- The strand whose open batch targets a tile (R229). -/
def Pillar.openOwner (x : Pillar) (a : Nat) : Option StrandId :=
  allStrands.find? fun t => (x.strand t).batches.current.tiles.contains a

/-- The strand whose committed batch targets a tile (R229). -/
def Pillar.pendOwner (x : Pillar) (a : Nat) : Option StrandId :=
  allStrands.find? fun t => (x.strand t).batches.committed.any fun b => b.tiles.contains a

/-- The lowest committed batch number that targets a tile, 0 for an open batch only (R230). -/
def Pillar.lowestBatch (x : Pillar) (a : Nat) : Nat :=
  match x.pendOwner a with
  | some t => (((x.strand t).batches.committed.find? fun b => b.tiles.contains a).map fun b => b.number.toNat).getD 0
  | none => 0

/-- The in-flight fault of a tile (R230). -/
def Pillar.inFlightTval (x : Pillar) (a : Nat) : Word :=
  word (a + (x.mtx.tile a).owner.val * 16 + boolNat (x.pendOwner a).isSome * 64 + x.lowestBatch a * 2 ^ 32)

/-- The tile may be named by a strand: as a batch member, or as a tile move (R230). -/
def Pillar.tileFree (x : Pillar) (t : StrandId) (member : Bool) (a : Nat) : Bool :=
  let owner := (x.openOwner a).or (x.pendOwner a)
  (match owner with | some o => member && o == t | none => true) &&
    (match (x.mtx.tile a).moving with | some o => o == t | none => true)

/-- The in-flight checks of R230. -/
def State.inFlight (s : State) (member : Bool) (tiles : List Nat) : Act Unit :=
  match tiles.find? fun a => !s.me.tileFree s.curT member a with
  | some a => .error (.trap 0x2B (s.me.inFlightTval a))
  | none => .ok ()

/-- An instruction with some targets joins the open batch of the current strand (R233). -/
def State.joinBatch (s : State) (seq : BitVec 16) (tiles : List Nat) : State :=
  let s := s.modMe fun x => x.modMtx fun m => m.modTiles tiles fun h => { h with owner := s.curT }
  s.modSt fun t =>
    let b := t.batches.current
    { t with batches := { t.batches with
      current := { b with members := b.members ++ [seq], tiles := b.tiles ++ tiles.filter fun a => !b.tiles.contains a } } }

/-- The oldest committed batches without members have finished (R233, R234). -/
def finishBatches (done : BitVec 32) : List Batch → BitVec 32 × List Batch
  | [] => (done, [])
  | b :: bs => if b.members.isEmpty then finishBatches b.number bs else (done, b :: bs)

/-- Finished batches leave. -/
def Batches.settle (b : Batches) : Batches :=
  let (done, l) := finishBatches b.done b.committed
  { b with done := done, committed := l }

/-- A member has completed (R233). -/
def Batches.complete (b : Batches) (seq : BitVec 16) : Batches :=
  let drop (c : Batch) : Batch := { c with members := c.members.filter (· != seq) }
  Batches.settle { b with current := drop b.current, committed := b.committed.map drop }

/-- MCOMMIT (R234). -/
def execMcommit (f : Fields) (s : State) : Out :=
  finish (.mcommit f) s do
    s.destOk f.dNum
    let b := s.st.batches
    waitFor ((b.last - b.done).toNat < 4)
    let n := b.last + 1
    let b : Batches := { b with last := n, committed := b.committed ++ [{ b.current with number := n }], current := {} }
    .ok ((s.modSt fun t => { t with batches := b.settle }).setGw f.dNum (n.setWidth 64))

/-- MWAIT (R234). -/
def execMwait (f : Fields) (s : State) : Out :=
  finish (.mwait f) s do
    let b := s.st.batches
    let v : BitVec 32 := (s.g f.sNum).bits.setWidth 32
    let n := if v == 0 then b.last else v
    operandCheck ((b.last - n).toNat < 2 ^ 31) 1
    waitFor ((b.done - n).toNat < 2 ^ 31)
    s.noLates
    .ok s

/-! ## Looms: checks at dispatch -/

/-- A loom fault (R244). -/
def loomFault (code : Nat) : Stop := .trap 0x2E (word code)

/-- The checks of a `.loom` instruction (R240, R241); gives the size of the loom. DESIGN CHOICE: of several codes that apply at once,
4 comes before 5 and 5 before 7 (log entry 110). -/
def State.loomCheck (s : State) : Act Nat :=
  match s.me.mtx.loom with
  | some l =>
    if !l.formed || l.strand != s.curT then .error (loomFault 4)
    else if l.gos = 0 then .error (loomFault 5)
    else if l.broken then .error (loomFault 7)
    else .ok l.members.length
  | none => .error (loomFault 4)

/-- How many LOOMGO the pillar has executed in its loom: the interval that a `.loom` instruction belongs to (R240). -/
def State.loomInterval (s : State) : Nat := ((s.me.mtx.loom).map (·.gos)).getD 0

/-- A `.loom` instruction has been dispatched (R240). -/
def State.countLoom (s : State) (loom : Bool) : State :=
  if loom then
    s.modMe fun x => x.modMtx fun m => { m with loom := m.loom.map fun l => { l with count := l.count + 1 } }
  else s

/-! ## MMA, MMABS, MMV, MZERO -/

/-- MA of a captured FMT (R52). -/
def Dispatched.ma (d : Dispatched) : EType := typeCode (BitVec.ofNat 4 (d.fmt.bits 11 8))

/-- MB of a captured FMT (R52). -/
def Dispatched.mb (d : Dispatched) : EType := typeCode (BitVec.ofNat 4 (d.fmt.bits 15 12))

/-- MRM of a captured FMT (R52). -/
def Dispatched.mrm (d : Dispatched) : Nat := d.fmt.bits 3 2

/-- An 8-bit integer type. -/
def byteInt (t : EType) : Bool := t == .i8 || t == .n8

/-- The pairs of MMA and MMV (R53). -/
def mmaPair (a b : EType) : Bool :=
  (byteInt a && byteInt b) || ((a == .e4m3 || a == .e5m2) && (b == .e4m3 || b == .e5m2)) ||
    (a == .f16 && b == .f16) || (a == .bf16 && b == .bf16)

/-- The geometry of MMA and MMABS (R235). -/
structure Geometry where
  m : Nat
  n : Nat
  k : Nat
  k0 : Nat
  c0 : Nat
  bkm : Bool
  deriving DecidableEq, Repr

/-- The geometry in g[t] (R235). -/
def geometryOf (v : Word) : Geometry where
  m := v.bits 5 0 + 1
  n := v.bits 11 6 + 1
  k := v.bits 24 12 + 1
  k0 := 32 * v.bits 39 32
  c0 := 64 * v.bits 30 25
  bkm := bitOf v.toNat 31

/-- The operands lie in their slots (R235). -/
def Geometry.fits (g : Geometry) (a b : SlotHeader) (wa wb : Nat) : Bool :=
  g.m ≤ a.orows && (g.k0 + g.k) * wa ≤ a.olen * 8 &&
    (if g.bkm then g.c0 + g.n ≤ b.orows && (g.k0 + g.k) * wb ≤ b.olen * 8
     else g.k0 + g.k ≤ b.orows && (g.c0 + g.n) * wb ≤ b.olen * 8)

/-- The kind of tile that a pair of types accumulates into (R235). -/
def kindFor (a : EType) : BitVec 2 := if byteInt a then 0 else 1

/-- Dispatch of MMA or MMABS with the checks of R235 in order. -/
def mmaIssue (i : Instr) (f : Fields) (scaled : Bool) (s : State) : Out :=
  finish i s do
    let d := s.capture i
    check (if scaled then d.ma == .e2m1 && d.mb == .e2m1 else mmaPair d.ma d.mb) 0x2C (word (d.fmt.bits 15 0))
    let x := d.gs.bits
    let y := d.gt.bits
    operandCheck (x.bits 63 38 == 0 && y.bits 63 40 == 0) 1
    let g := geometryOf y
    let a ← s.schedCheck (bitsOf f.mod.toNat 2 0) (x.bits 34 32) (x.bits 15 0) 0
    let b ← s.schedCheck (bitsOf f.mod.toNat 5 3) (x.bits 37 35) (x.bits 31 16) 1
    let m := s.me.mtx
    let ha := m.slot a
    let hb := m.slot b
    operandCheck (typeCode ha.type == d.ma && typeCode hb.type == d.mb) 2
    operandCheck (g.fits ha hb d.ma.width d.mb.width) 3
    operandCheck (!scaled || (g.bkm && g.k0 == 0 && g.k % 32 == 0 && g.k * 17 / 32 ≤ ha.olen && g.k * 17 / 32 ≤ hb.olen)) 7
    let loom := bitOf f.mod.toNat 6
    let size ← if loom then s.loomCheck else (.ok 1 : Act Nat)
    if loom && f.dNum + size > 16 then .error (loomFault 8)
    let tiles := (List.range size).map (f.dNum + ·)
    operandCheck (tiles.all fun t => (m.tile t).kind == kindFor d.ma) 4
    s.inFlight true tiles
    s.room .matrix
    let s := s.dispatchAs .matrix { d with slot := packSlots [a, b], read := m.shapeOf [a, b], interval := s.loomInterval }
    .ok (((s.modMe fun x => x.modMtx fun m => m.enterSlots [a, b]).joinBatch d.seq tiles).countLoom loom)

/-- MMA (R235). -/
def execMma (f : Fields) (s : State) : Out := mmaIssue (.mma f) f false s

/-- MMABS (R235). -/
def execMmabs (f : Fields) (s : State) : Out := mmaIssue (.mmabs f) f true s

/-- MMV (R236). -/
def execMmv (f : Fields) (s : State) : Out :=
  finish (.mmv f) s do
    let d := s.capture (.mmv f)
    check (mmaPair d.ma d.mb) 0x2C (word (d.fmt.bits 15 0))
    let x := d.gs.bits
    operandCheck (x.bits 63 46 == 0) 1
    let k := x.bits 37 31 + 1
    let rows := x.bits 24 19 + 1
    let a ← s.schedCheck (bitsOf f.mod.toNat 2 0) (x.bits 18 16) (x.bits 15 0) 0
    let h := s.me.mtx.slot a
    operandCheck (typeCode h.type == d.ma) 2
    operandCheck (rows ≤ h.orows && (32 * x.bits 45 38 + k) * d.ma.width ≤ h.olen * 8) 3
    let l := lanesOf d.mb.width
    operandCheck (k ≤ 2 * l && (k ≤ l || f.tNum % 2 == 0)) 8
    operandCheck ((s.me.mtx.tile f.dNum).kind == kindFor d.ma) 4
    s.inFlight true [f.dNum]
    s.room .matrix
    let s := s.dispatchAs .matrix { d with slot := packSlots [a], read := s.me.mtx.shapeOf [a] }
    .ok ((s.modMe fun x => x.modMtx fun m => m.enterSlots [a]).joinBatch d.seq [f.dNum])

/-- MZERO (R237): KIND changes at dispatch, and PC is 0 outside a ply group (R251). -/
def execMzero (f : Fields) (s : State) : Out :=
  finish (.mzero f) s do
    s.inFlight true [f.dNum]
    s.room .matrix
    let d := s.capture (.mzero f)
    let kind : BitVec 2 := if typeOf .f32 f == .i32 then 0 else 1
    let s := s.dispatchAs .matrix d
    .ok ((s.modMe fun x => x.modMtx fun m => m.modTile f.dNum fun h => { h with kind := kind, plies := 0 }).joinBatch d.seq [f.dNum])

/-! ## MLD, MST, DRAIN -/

/-- The number of rows of a tile move (R238). -/
def moveRows (f : Fields) : Nat := 64 / 2 ^ (f.flags % 8)

/-- The first row of a tile move (R238). -/
def moveRow0 (f : Fields) : Nat := bitsOf f.mod.toNat 5 0

/-- The kind that a type of MLD belongs to (R238). -/
def moveKind (t : EType) : BitVec 2 := if t == .i32 then 0 else 1

/-- The type of a tile move without QUAL follows KIND (R238). -/
def moveType (kind : BitVec 2) (f : Fields) : Act EType :=
  match f.qual with
  | some q => .ok (typeCode q.type)
  | none =>
    match kind.toNat with
    | 0 => .ok .i32
    | 1 => .ok .f32
    | _ => .error (.trap 0x2F 4)

/-- The float types of a tile move (R238). -/
def moveFloat (t : EType) : Bool := t == .f32 || t == .f16 || t == .bf16

/-- The type check of MST and DRAIN (R238). -/
def storeTypeOk (kind : BitVec 2) (t : EType) : Bool := if kind == 1 then moveFloat t else t == .i32

/-- A move starts (R238): MOVING is set. -/
def State.startMove (s : State) (a : Nat) : State :=
  s.modMe fun x => x.modMtx fun m => m.modTile a fun h => { h with moving := some s.curT, movers := h.movers + 1 }

/-- A move of a tile ends: MOVING clears with the last (R238). -/
def MatrixEngine.endMove (m : MatrixEngine) (a : Nat) : MatrixEngine :=
  m.modTile a fun h => { h with moving := if h.movers ≤ 1 then none else h.moving, movers := h.movers - 1 }

/-- The bytes of an element that a tile move names: those of its type, 4 if the tile's KIND names none (R238). -/
def moveBytes (kind : BitVec 2) (f : Fields) : Nat := match moveType kind f with | .ok ty => ty.width / 8 | .error _ => 4

/-- The checks of R135 on the range of a tile move, before those of its type (R238). -/
def State.moveCheck (s : State) (f : Fields) (ea : Word) : Act Unit := do
  check (ea.toNat % 8 == 0) 0x1A ea
  match s.me.lsFault ea.toNat (moveRows f * 64 * moveBytes (s.me.mtx.tile f.dNum).kind f) with
  | some c => .error (.trap c ea)
  | none => .ok ()

/-- MLD (R238): KIND changes at dispatch. DESIGN CHOICE: code 3 comes before codes 5 and 4, which the rule does not order against it
(log entry 112). -/
def execMld (f : Fields) (s : State) : Out :=
  finish (.mld f) s do
    let ea ← s.mAddr f
    s.moveCheck f ea
    let kind := (s.me.mtx.tile f.dNum).kind
    let ty ← moveType kind f
    let rows := moveRows f
    let len := rows * 64 * (ty.width / 8)
    operandCheck (moveRow0 f + rows ≤ 64) 3
    operandCheck (moveFloat ty || ty == .i32) 5
    operandCheck (rows == 64 || moveKind ty == kind) 4
    s.inFlight false [f.dNum]
    s.vectorDone ea.toNat len
    s.room .matrix
    let s := (s.dispatchAs .matrix { s.capture (.mld f) with slot := ea.toNat, aux := ty.code.toNat + 16 * len }).startMove
      f.dNum
    .ok (if rows = 64 then
      s.modMe fun x => x.modMtx fun m =>
        m.modTile f.dNum fun h => { h with kind := moveKind ty, pair := 0, steps := 0, plies := 0 }
    else s)

/-- MST (R238). DESIGN CHOICE: code 3 comes before code 5 (log entry 112). -/
def execMst (f : Fields) (s : State) : Out :=
  finish (.mst f) s do
    let ea ← s.mAddr f
    s.moveCheck f ea
    let kind := (s.me.mtx.tile f.dNum).kind
    let ty ← moveType kind f
    let rows := moveRows f
    let len := rows * 64 * (ty.width / 8)
    operandCheck (moveRow0 f + rows ≤ 64) 3
    operandCheck (storeTypeOk kind ty) 5
    s.inFlight false [f.dNum]
    s.vectorDone ea.toNat len
    s.room .matrix
    .ok ((s.dispatchAs .matrix { s.capture (.mst f) with slot := ea.toNat, aux := ty.code.toNat + 16 * len }).startMove
      f.dNum)

/-- The destination fields of DRAIN (R242). -/
def drainFields (ls : Bool) (dst v : Word) (e : Nat) : Bool :=
  v.bits 33 20 == 0 && v.bits 19 0 % 8 == 0 && 64 * e ≤ v.bits 19 0 && v.bits 52 34 % 8 == 0 && dst.bits 2 0 == 0 &&
    (!ls || (dst.bits 63 58 == 0 && dst.bits 47 19 == 0))

/-- DRAIN (R242). DESIGN CHOICE: code 3 comes before code 5, and code 6 after both (log entry 112). -/
def execDrain (f : Fields) (s : State) : Out :=
  finish (.drain f) s do
    let kind := (s.me.mtx.tile f.dNum).kind
    let ty ← moveType kind f
    operandCheck (moveRow0 f + moveRows f ≤ 64) 3
    operandCheck (storeTypeOk kind ty) 5
    let d := s.capture (.drain f)
    operandCheck (drainFields (bitOf f.mod.toNat 6) d.gs.bits d.gt.bits (ty.width / 8)) 6
    s.inFlight false [f.dNum]
    s.room .matrix
    .ok ((s.dispatchAs .matrix { d with aux := ty.code.toNat }).startMove f.dNum)

/-! ## Looms -/

/-- The members that a claim of a pillar names (R239): the pillars that have the places of some columns in the row of the pillar's own
place (R389); `none` if these leave the rectangle, its half, or one stack, or do not hold the pillar. -/
def State.loomMembers (s : State) (p : PillarId) (col0 size : Nat) : Option (List PillarId) := do
  let j ← s.jobOf p
  let q := s.position p
  let r ← j.half q
  let c := r.col0 + col0
  let members := (List.range size).map fun i => s.seat j.number (pillarAt (gridRow q) (c + i))
  if r.col0 + r.wid < c + size || !members.contains p || members.any (stackOf · != stackOf p) then none
  else some members

/-- The claim of a pillar: it and its members, when it has published one. -/
def State.claimOf (s : State) (p : PillarId) : Option Loom := (s.pil p).mtx.loom

/-- Changes the loom of a pillar. -/
def State.modLoom (s : State) (p : PillarId) (f : Loom → Loom) : State :=
  s.modPil p fun x => x.modMtx fun m => { m with loom := m.loom.map f }

/-- The pillars whose published claims conflict with a claim (R239). -/
def State.loomConflicts (s : State) (p : PillarId) (l : Loom) : List PillarId :=
  (s.pillars.keys.map fun n => BitVec.ofNat 10 n).filter fun q =>
    q != p && (match s.claimOf q with
      | some o => o.members != l.members && (l.members.contains q || o.members.contains p)
      | none => false)

/-- A waiting pillar withdraws its claim and faults (R239). -/
def State.refuseClaim (s : State) (q : PillarId) : State :=
  match s.claimOf q with
  | some o =>
    if o.formed then s
    else
      let r := (s.modPil q fun x => x.modMtx fun m => { m with loom := none }).focus q o.strand
      (r.takeTrap { cause := 0x2E, tval := 2 }).focus s.curP s.curT
  | none => s

/-- A claim is published (R239): a conflict faults every waiting pillar that it conflicts with, and this one; the last
member's claim forms the loom. -/
def State.publishClaim (s : State) (p : PillarId) (l : Loom) : Except State State :=
  let bad := s.loomConflicts p l
  if bad.isEmpty then
    let s := s.modPil p fun x => x.modMtx fun m => { m with loom := some l }
    if l.members.all fun q => (match s.claimOf q with | some o => o.members == l.members && !o.formed | none => false)
    then .ok (l.members.foldl (fun s q => s.modLoom q fun o => { o with formed := true }) s)
    else .ok s
  else .error (bad.foldl State.refuseClaim s)

/-- A strand that waits in an instruction, its state kept. -/
def State.waitIn (s : State) (i : Instr) : State := s.modSt fun t => { t with blocked := .wait i }

/-- LOOMJOIN (R239): 8 clk after the loom is formed, which LOOMWAITCLK counts (R245), and at once on a pillar that has joined it.
DEDUCED: a second strand's different claim on a pillar whose own claim is published but not formed gets code 3, as if the pillar were
in that loom already (log entry 111). -/
def execLoomjoin (f : Fields) (s : State) : Out :=
  finishAt (.loomjoin f) s do
    let v := (s.g f.sNum).bits
    let col0 := v.bits 4 0
    let size := v.bits 8 5 + 1
    if v.bits 63 9 != 0 then .error (loomFault 1)
    match s.loomMembers s.curP col0 size with
    | none => .error (loomFault 1)
    | some ms =>
      let done (s : State) : State :=
        (((s.modLoom s.curP fun l => { l with joined := true }).setPc (s.nextPc (.loomjoin f))).issueAfter 8).count 0x486 8
      match s.me.mtx.loom with
      | some l =>
        if l.members != ms then .error (loomFault 3)
        else if l.broken then .error (loomFault 7)
        else if l.joined then .ok (s.setPc (s.nextPc (.loomjoin f)))
        else if l.formed then .ok (done s)
        else .ok (s.waitIn (.loomjoin f))
      | none =>
        match s.publishClaim s.curP { col0 := col0, members := ms, strand := s.curT } with
        | .error s => .ok (s.takeTrap { cause := 0x2E, tval := 2 })
        | .ok s =>
          if ((s.me.mtx.loom).map (·.formed)).getD false then .ok (done s) else .ok (s.waitIn (.loomjoin f))

/-- A `.loom` instruction. -/
def isLoomInstr : Instr → Bool
  | .mma f | .mmabs f | .pmma f => bitOf f.mod.toNat 6
  | _ => false

/-- A dispatched matrix instruction leaves without effect: its readers and its batch go on without it, and it has ended
(R240). -/
def Pillar.discardMatrix (x : Pillar) (clk : Nat) (d : Dispatched) : Pillar :=
  let x := x.leaveSlots clk d.readSlots
  (x.modStrand d.strand fun t => { t with batches := t.batches.complete d.seq }).endSeq d.seq

/-- The `.loom` instructions of an interval of a pillar that have not started are discarded (R240). -/
def Pillar.discardLoom (x : Pillar) (clk interval : Nat) : Pillar :=
  let of (d : Dispatched) : Bool := isLoomInstr d.instr && d.interval == interval
  let inArray := match x.mtx.array with | some o => if of o.d && !o.started then [o.d] else [] | none => []
  let queued := allStrands.flatMap fun t => (x.mtx.unit.queue t).filter of
  let x := x.modMtx fun m =>
    { m with
      array := if inArray.isEmpty then m.array else none
      unit := { m.unit with queues := m.unit.queues.map fun q => q.filter fun d => !of d } }
  (inArray ++ queued).foldl (fun x d => x.discardMatrix clk d) x

/-- A step that has not started faults on a member (R240, R241): nothing is written. -/
def Pillar.faultStep (x : Pillar) (clk code : Nat) : Pillar :=
  match x.mtx.array with
  | some o =>
    if isLoomInstr o.d.instr && !o.started then
      let x := x.modMtx fun m => { m with array := none }
      (x.discardMatrix clk o.d).raiseLate o.d.strand (o.d.late 0x2E (word code))
    else x
  | none => x

/-- Every member has executed its next LOOMGO: the interval closes, and all agree or all fault (R240). -/
def State.closeInterval (s : State) (l : Loom) (interval : Nat) : State :=
  let counts := l.members.map fun q => ((s.claimOf q).map (·.count)).getD 0
  let agree := counts.all (· == counts.headD 0)
  let s := l.members.foldl (fun s q => s.modLoom q fun o =>
    { o with count := 0, verdict := some (if agree then 0 else 6) }) s
  if agree then s else l.members.foldl (fun s q => s.modPil q fun x => x.discardLoom s.clk interval) s

/-- LOOMGO (R240), whose 8 clk after the last member LOOMWAITCLK counts (R245). DESIGN CHOICE: a member whose wait is abandoned for an
interrupt or a pre-emption has still executed its LOOMGO, so the others may complete (log entry 109). -/
def execLoomgo (f : Fields) (s : State) : Out :=
  finishAt (.loomgo f) s do
    match s.me.mtx.loom with
    | none => .error (loomFault 4)
    | some l =>
      if !l.formed || l.strand != s.curT then .error (loomFault 4)
      else if l.broken && l.verdict.isNone then .error (loomFault 7)
      else
        let s := if l.waiting then s else s.modLoom s.curP fun l => { l with waiting := true, gos := l.gos + 1 }
        let gos := ((s.claimOf s.curP).map (·.gos)).getD 0
        let all := l.members.all fun q =>
          match s.claimOf q with | some o => o.gos == gos && o.waiting && o.verdict.isNone | none => false
        let s := if all then s.closeInterval l (gos - 1) else s
        match ((s.claimOf s.curP).bind (·.verdict)) with
        | none => .ok (s.waitIn (.loomgo f))
        | some c =>
          let s := s.modLoom s.curP fun l => { l with waiting := false, verdict := none }
          if c = 0 then .ok (((s.setPc (s.nextPc (.loomgo f))).issueAfter 8).count 0x486 8)
          else .ok (s.takeTrap { cause := 0x2E, tval := word c })

/-- The `.loom` instructions of a pillar that are still queued belong to a loom that it has left (R241). -/
def MatrixEngine.orphanLoom (m : MatrixEngine) : MatrixEngine :=
  { m with unit := { m.unit with
      queues := m.unit.queues.map fun q => q.map fun d => if isLoomInstr d.instr then { d with interval := 0 } else d } }

/-- A pillar leaves its loom, which is then broken for the others (R241, R98). -/
def State.leaveLoom (s : State) (p : PillarId) : State :=
  match s.claimOf p with
  | some l =>
    let s := s.modPil p fun x => x.modMtx fun m => { m.orphanLoom with loom := none }
    if l.formed && !l.broken then
      l.members.foldl (fun s q => s.modLoom q fun o => if o.formed && o.members == l.members then { o with broken := true } else o) s
    else s
  | none => s

/-- The pillar has a `.loom` instruction that has not completed. -/
def Pillar.loomBusy (x : Pillar) : Bool :=
  (x.mtx.array.toList.any fun o => isLoomInstr o.d.instr) ||
    allStrands.any fun t => (x.mtx.unit.queue t).any fun d => isLoomInstr d.instr

/-- LOOMSPLIT (R241). It leaves a broken loom at once, and a step of that loom that has not started faults. -/
def execLoomsplit (f : Fields) (s : State) : Out :=
  finish (.loomsplit f) s do
    match s.me.mtx.loom with
    | some l =>
      waitFor (l.broken || !s.me.loomBusy)
      let s := if l.broken then s.modMe fun x => x.faultStep s.clk 7 else s
      .ok (s.leaveLoom s.curP)
    | none => .ok s

end Sys2Proof.Machine
end

