-- ==== Sys2Proof/Machine/Drafts.lean ====
section
/-! DEFINITION. The second tier, the block code, drafts, picks, direct commands and the overflow buffer
(11_second_tier_drafts.md R263-R287). -/

namespace Sys2Proof.Machine

/-! ## The block code -/

/-- The zero bytes at the head of a list. -/
def zeroRun : List Byte → Nat
  | b :: bs => if b = 0 then zeroRun bs + 1 else 0
  | [] => 0

/-- The tokens of a zero run (R265). -/
def zeroTokens : Nat → Nat → List Byte
  | 0, _ => []
  | fuel + 1, r =>
    if r = 0 then [] else BitVec.ofNat 8 (127 + min r 128) :: zeroTokens fuel (r - min r 128)

/-- The length of the literal at the head of a list, at most a bound (R265). -/
def literalLen : Nat → List Byte → Nat
  | 0, _ => 0
  | _, [] => 0
  | n + 1, b :: bs => if 2 ≤ zeroRun (b :: bs) then 0 else literalLen n bs + 1

/-- The stream of a plane (R265). -/
def codePlane : Nat → List Byte → List Byte
  | 0, _ => []
  | fuel + 1, xs =>
    let z := zeroRun xs
    if xs.isEmpty then []
    else if 2 ≤ z then zeroTokens z z ++ codePlane fuel (xs.drop z)
    else
      let k := literalLen 128 xs
      BitVec.ofNat 8 (k - 1) :: xs.take k ++ codePlane fuel (xs.drop k)

/-- Plane b of a 4 KiB block (R265). -/
def planeOf (m : Memory) (b : Nat) : List Byte := (List.range 512).map fun i => m.get (8 * i + b)

/-- The coded block (R265). -/
def codeBlock (m : Memory) : List Byte := (List.range 8).flatMap fun b => codePlane 512 (planeOf m b)

/-- Expands the stream of one plane: its bytes and the rest, or `none` if it is malformed (R266). -/
def expandPlane : Nat → Nat → List Byte → Option (List Byte × List Byte)
  | 0, need, rest => if need = 0 then some ([], rest) else none
  | fuel + 1, need, str =>
    if need = 0 then some ([], str)
    else
      match str with
      | [] => none
      | c :: rest =>
        let n := if c.toNat < 128 then c.toNat + 1 else c.toNat - 127
        let lit := c.toNat < 128
        if need < n || (lit && rest.length < n) then none
        else
          (expandPlane fuel (need - n) (if lit then rest.drop n else rest)).map fun r =>
            ((if lit then rest.take n else List.replicate n 0) ++ r.1, r.2)

/-- Expands planes from one on into a block (R266). -/
def expandPlanes : Nat → Nat → List Byte → Memory → Option Memory
  | 0, _, _, m => some m
  | fuel + 1, b, str, m =>
    match expandPlane 512 512 str with
    | none => none
    | some (xs, rest) =>
      expandPlanes fuel (b + 1) rest ((xs.zipIdx).foldl (fun m x => m.set (8 * x.2 + b) x.1) m)

/-- Expands a coded block (R266). -/
def expandBlock (bytes : List Byte) : Option Memory := expandPlanes 8 0 bytes {}

/-- The bytes of an allotment code (R264). -/
def allotBytes (a : BitVec 2) : Nat := 512 * 2 ^ a.toNat

/-! ## Entries -/

/-- An entry of 32 bytes at an offset of a buffer (R268). -/
def entryAt (m : Memory) (o : Nat) : DraftEntry :=
  { trigger := m.read o 4, due := m.read (o + 4) 4, tierVa := word (m.read (o + 8) 8)
    vaultVa := word (m.read (o + 16) 8), len := m.read (o + 24) 4, op := bitsOf (m.read (o + 28) 4) 1 0
    z := bitOf (m.read (o + 28) 4) 2 }

/-- An entry at an offset of a buffer is malformed (R269). -/
def entryMalformed (m : Memory) (o : Nat) : Bool :=
  let e := entryAt m o
  let unit := if e.z then 4096 else 64
  m.read (o + 28) 4 / 8 != 0 || e.due < e.trigger || e.len == 0 || e.len % 64 != 0 || 201326592 < e.len ||
    e.tierVa.toNat % unit != 0 || e.vaultVa.toNat % unit != 0 || (e.z && e.len % 4096 != 0) ||
    (2 ≤ e.op && (e.tierVa != 0 || e.z))

/-- The entry declares vault space from its trigger on: fetch and pin (R271). -/
def DraftEntry.opens (e : DraftEntry) : Bool := e.op == 0 || e.op == 2

/-- r(n) of R271 over the entries of one pillar. -/
def residencyAt (es : List DraftEntry) (n : Nat) : Int :=
  ((es.map fun e =>
    if e.opens then (if e.trigger ≤ n then (e.len : Int) else 0)
    else if e.due < n then -(e.len : Int) else 0)).sum

/-- The peak of a pillar over the entries of a draft (R271). -/
def peakOf (es : List DraftEntry) (p : PillarId) : Int :=
  let mine := es.filter fun e => e.pillar == p
  ((mine.filter DraftEntry.opens).map fun e => residencyAt mine e.trigger).foldl max 0

/-- The first entry at which the residency exceeds the budget (R271): the smallest TRIGGER, then the lowest index. -/
def residencyFault (es : List DraftEntry) (pinBase : PillarId → Nat) (budget : Nat) : Option (Nat × DraftEntry) :=
  let exceeds (x : DraftEntry × Nat) : Bool :=
    x.1.opens &&
      ((budget : Int) < residencyAt (es.filter fun e => e.pillar == x.1.pillar) x.1.trigger + (pinBase x.1.pillar : Int))
  let bad := es.zipIdx.filter exceeds
  match (bad.map fun x => x.1.trigger).min? with
  | some n => (bad.find? fun x => x.1.trigger == n).map fun x => (x.2, x.1)
  | none => none

/-! ## Whose draft -/

/-- The job number of a pillar; log entry 40 for a pillar without a job. -/
def State.jobNumber (s : State) (p : PillarId) : Nat := ((s.pil p).job).getD 0

/-- The rectangle or half whose draft a pillar uses (R270). -/
def State.draftRect (s : State) (p : PillarId) : Rect :=
  (((s.jobOf p).bind fun j => j.half (s.position p))).getD { row0 := gridRow p, col0 := gridCol p, hgt := 1, wid := 1 }

/-- VBUDGET in bytes (R74, R271). -/
def State.vbudget (s : State) (p : PillarId) : Nat := ((s.jobOf p).map fun j => j.record.ctx.bits 7 0 * 2 ^ 20).getD 0

/-- DSTALL of a job (R75). -/
def State.dstall (s : State) (p : PillarId) : Bool := ((s.jobOf p).map fun j => bitOf j.record.shape.toNat 27).getD false

/-- The draft is installed for the rectangle or half of a pillar. -/
def Draft.covers (d : Draft) (s : State) (p : PillarId) : Bool := !d.parked && d.job == s.jobNumber p && d.rect.has (s.position p)

/-- The installed draft of a pillar (R270). -/
def State.draftOf (s : State) (p : PillarId) : Option Draft := s.drafts.find? fun d => d.covers s p

/-- Changes a draft. -/
def State.modDraft (s : State) (n : Nat) (f : Draft → Draft) : State :=
  { s with drafts := s.drafts.map fun d => if d.number == n then f d else d }

/-- Changes an entry of a draft. -/
def State.modEntry (s : State) (n i : Nat) (f : DraftEntry → DraftEntry) : State :=
  s.modDraft n fun d => { d with entries := d.entries.modify i f }

/-- A command slot of a pillar (R282). -/
def Pillar.cmd (x : Pillar) (i : Nat) : CommandSlot := x.commands[i]?.getD {}

/-- Changes a command slot. -/
def Pillar.modCmd (x : Pillar) (i : Nat) (f : CommandSlot → CommandSlot) : Pillar :=
  { x with commands := x.commands.setIfInBounds i (f (x.cmd i)) }

/-- A slot whose command has completed or failed is free (R282). -/
def CommandSlot.free (c : CommandSlot) : Bool := match c.command with | some e => 4 ≤ e.state | none => true

/-- The entry that the shuttle works on. -/
def State.workEntry (s : State) : ShuttleJob → Option DraftEntry
  | .entry n i => (s.drafts.find? fun d => d.number == n).bind fun d => d.entries[i]?
  | .command p i => ((s.pil p).cmd i).command

/-- Changes the entry that the shuttle works on. -/
def State.modWork (s : State) (w : ShuttleJob) (f : DraftEntry → DraftEntry) : State :=
  match w with
  | .entry n i => s.modEntry n i f
  | .command p i => s.modPil p fun x => x.modCmd i fun c => { c with command := c.command.map f }

/-- Changes the queue of work of a shuttle. -/
def State.modQueue (s : State) (st : Nat) (f : List ShuttleJob → List ShuttleJob) : State :=
  s.modStack st fun k => { k with shuttle := { k.shuttle with work := f k.shuttle.work } }

/-- The overflow buffer is full (R285). -/
def State.ovfFull (s : State) (st : Nat) : Bool := (s.stack st).shuttle.records.keys.length ≥ 64

/-- The state that a status word shows (R275): state 3 while a block waits in the overflow buffer, or evictions are
stopped. -/
def State.shownState (s : State) (e : DraftEntry) : Nat :=
  if (e.state == 1 || e.state == 2) && (0 < e.grown || (e.op == 1 && s.ovfFull (stackOf e.pillar))) then 3 else e.state

/-- The status word of an entry (R280). -/
def State.statusOf (s : State) (e : DraftEntry) : Word :=
  word (e.moved * 2 ^ 16 + (if e.state = 5 then e.err else 0) * 256 + s.shownState e)

/-! ## Installation -/

/-- Who translates for a pillar's draft: user level of the job (log entry 41). -/
def State.draftWalker (s : State) (p : PillarId) : Walker := { p := p, asid := (s.pil p).asid, lvl := 0, shuttle := true }

/-- The pillar in which an entry's vault range begins, if it lies in the rectangle or half (R270); it waits for the host's
translation (R348). -/
def State.entryPillar (s : State) (p : PillarId) (r : Rect) (va : Word) : Act (Option PillarId) :=
  let w := { s.draftWalker p with lvl := 1 }
  match s.xlate w .read va with
  | .ok x =>
    match placeOf x.pa with
    | .vault q _ =>
      let q := s.forward (s.redirect p q)
      .ok (if r.has (s.position q) then some q else none)
    | _ => .ok none
  | .error .ats => .error (.ats w va)
  | .error .wait => .error .wait
  | .error (.cause _) => .ok none

/-- The number of a pillar within a rectangle (R279). -/
def Rect.index (r : Rect) (p : PillarId) : Nat := (gridRow p - r.row0) * r.wid + (gridCol p - r.col0)

/-- Entries that a stack's draft memory holds (R272). -/
def State.draftMemory (s : State) (st : Nat) : Nat :=
  ((s.drafts.filter fun d => !d.parked).flatMap fun d => d.entries.filter fun e => stackOf e.pillar == st).length

/-- What an installation ends with (R270, R279): a code with an index and a pillar number, or the entries. -/
inductive InstallResult where
  | refused (code : Nat) (index pillar : Nat)
  | installed (entries : List DraftEntry)

/-- Gives every entry its pillar; `none` where one does not land in the rectangle or half (R270). -/
def State.placeEntries (s : State) (p : PillarId) (r : Rect) : List DraftEntry → Act (Option (List DraftEntry))
  | [] => .ok (some [])
  | e :: es => do
    match ← s.entryPillar p r e.vaultVa with
    | none => .ok none
    | some q => .ok ((← s.placeEntries p r es).map fun es => { e with pillar := q } :: es)

/-- Checks 5 to 7 of R270 on the entries read. -/
def State.checkEntries (s : State) (p : PillarId) (r : Rect) (es : List DraftEntry) : Act InstallResult := do
  match ← s.placeEntries p r es with
  | none => .ok (.refused 5 0 0)
  | some es =>
    match residencyFault es (fun q => (s.pil q).pinBase) (s.vbudget p) with
    | some (i, e) => .ok (.refused 6 i (r.index (s.position e.pillar)))
    | none =>
      if (List.range 4).any fun st =>
          16384 < s.draftMemory st + (es.filter fun e => stackOf e.pillar == st).length then .ok (.refused 7 0 0)
      else .ok (.installed es)

/-- COUNT of a header, if it is well-formed (R267). -/
def headerCount (m : Memory) : Option Nat :=
  let n := m.read 0 2
  if m.read 0 32 / 65536 = 0 && 1 ≤ n && n ≤ 4096 then some n else none

/-- A read that ends so does not refuse the draft: it goes on later (R348, R409), or it is DRAFT's own, whose translation faults are
precise (R279). -/
def stopsDraft (strict : Bool) (e : Stop) : Bool :=
  match e with
  | .trap c _ => strict && (0x03 ≤ c.toNat && c.toNat ≤ 0x07 || c == 0x3C)
  | .pageFault _ _ _ => strict
  | .wait | .ats _ _ => true

/-- Reads and checks a draft for a pillar (R270); `strict` makes translation faults stop it (R279). -/
def State.checkDraft (s : State) (p : PillarId) (w : Walker) (va : Word) (strict : Bool) :
    Act (State × InstallResult) :=
  let r := s.draftRect p
  if s.vbudget p == 0 then .ok (s, .refused 2 0 0)
  else
    match s.readBytes w .read va 32 with
    | .error e => if stopsDraft strict e then .error e else .ok (s, .refused 3 0 0)
    | .ok (s, h, bad) =>
      match headerCount h, bad.elems.isEmpty with
      | some n, true =>
        match s.readBytes w .read (va + 32) (32 * n) with
        | .error e => if stopsDraft strict e then .error e else .ok (s, .refused 4 0 0)
        | .ok (s, m, bad) =>
          if !bad.elems.isEmpty || (List.range n).any fun i => entryMalformed m (32 * i) then .ok (s, .refused 4 0 0)
          else (s.checkEntries p r ((List.range n).map fun i => entryAt m (32 * i))).map fun i => (s, i)
      | _, _ => .ok (s, .refused 3 0 0)

/-- A selected entry is triggered (R274). -/
def triggerEntry (sel : DraftEntry → Bool) (e : DraftEntry) : DraftEntry :=
  if e.state == 0 && sel e then { e with state := if 2 ≤ e.op then 4 else 1 } else e

/-- Triggers entries of a draft that a test selects, in index order: pins and unpins are done, the rest queue at their
stacks (R274). -/
def State.trigger (s : State) (n : Nat) (sel : DraftEntry → Bool) : State :=
  match s.drafts.find? fun d => d.number == n with
  | none => s
  | some d =>
    let hit := d.entries.zipIdx.filter fun x => x.1.state == 0 && sel x.1
    let s := s.modDraft n fun d => { d with entries := d.entries.map (triggerEntry sel) }
    hit.foldl (fun s x =>
      if 2 ≤ x.1.op then s else s.modQueue (stackOf x.1.pillar) fun l => l ++ [.entry n x.2]) s

/-- Installs checked entries for the rectangle or half of a pillar (R270). -/
def State.installEntries (s : State) (p : PillarId) (va : Word) (es : List DraftEntry) : State :=
  let r := s.draftRect p
  let n := s.nextDraft
  let d : Draft :=
    { number := n, job := s.jobNumber p, rect := r, va := va, asid := (s.pil p).asid, entries := es }
  let s := (s.seats d.job r).foldl (fun s q => s.modPil q fun x => { x with pickNo := 0 })
    { s with drafts := s.drafts ++ [d], nextDraft := n + 1 }
  s.trigger n fun e => e.trigger == 0

/-- DRAFT (R279). -/
def execDraft (f : Fields) (s : State) : Out :=
  finish (.draft f) s do
    s.destOk f.dNum
    let va := (s.g f.sNum).bits
    check (va.bits 4 0 == 0) 0x1A va
    if (s.draftOf s.curP).isSome then .ok (s.setGw f.dNum 1)
    else
      let (s, r) ← s.checkDraft s.curP s.walker va true
      match r with
      | .refused c i q => .ok (s.setGw f.dNum (word (c + i * 2 ^ 16 + q * 2 ^ 32)))
      | .installed es => .ok ((s.installEntries s.curP va es).setGw f.dNum 0)

/-! ## Release -/

/-- Cancels the entries of a draft that have not started (R279). -/
def State.cancelQueued (s : State) (d : Draft) : State :=
  let stop (e : DraftEntry) : Bool := s.shownState e < 2
  let gone := (d.entries.zipIdx.filter fun x => stop x.1).map fun x => ShuttleJob.entry d.number x.2
  let cancel (e : DraftEntry) : DraftEntry := if stop e then { e with state := 6 } else e
  let s := s.modDraft d.number fun d => { d with entries := d.entries.map cancel }
  (List.range 4).foldl (fun s st => s.modQueue st fun l => l.filter fun w => !gone.contains w) s

/-- No entry is queued or moving. -/
def Draft.settled (d : Draft) : Bool := d.entries.all fun e => 4 ≤ e.state

/-- Frees a draft: its memory, and PICKNO on the rectangle or half (R279). -/
def State.freeDraft (s : State) (d : Draft) : State :=
  (s.seats d.job d.rect).foldl (fun s q => s.modPil q fun x => { x with pickNo := 0 })
    { s with drafts := s.drafts.filter fun e => e.number != d.number }

/-- DRAFTREL (R279). -/
def execDraftrel (f : Fields) (s : State) : Out :=
  finishAt (.draftrel f) s do
    s.destOk f.dNum
    let done (s : State) (v : Nat) : State := (s.setGw f.dNum (word v)).setPc (s.nextPc (.draftrel f))
    match s.draftOf s.curP with
    | none => .ok (done s 0)
    | some d =>
      let s := s.cancelQueued d
      let d := (s.draftOf s.curP).getD d
      if d.settled then .ok (done (s.freeDraft d) (d.entries.filter fun e => e.state == 6).length)
      else .ok (s.waitIn (.draftrel f))

/-! ## PICK, DRWAIT, DRSTAT -/

/-- The check of PICK (R277): PICKNO rises once, and a stalled PICK only checks again; a check that ends a wait is the one that
missed (R287). -/
def checkPick (f : Fields) (again : Bool) (s : State) : Out :=
  finishAt (.pick f) s <|
    let n := f.immU
    let s := if again then s else s.modMe fun x => { x with pickNo := BitVec.ofNat 32 (max x.pickNo.toNat n) }
    let done : Act State := .ok ((s.setPc (s.nextPc (.pick f))).count 0x490)
    let fail (s : State) (c : BitVec 8) (v : Nat) : Act State := .ok (s.takeTrap { cause := c, tval := word v })
    match s.draftOf s.curP with
    | none => done
    | some d =>
      let es := d.entries.zipIdx.filter fun x => x.1.pillar == s.curP && x.1.due ≤ n
      match es.find? fun x => x.1.state == 5, es.find? fun x => x.1.state != 4 with
      | some (e, i), _ => fail s 0x39 (i + e.err * 2 ^ 16)
      | none, some (_, i) =>
        let s := if again then s else s.count 0x491
        if s.dstall s.curP then .ok (s.waitIn (.pick f)) else fail s 0x38 (i + n * 2 ^ 16)
      | none, none => done

/-- PICK (R277). -/
def execPick (f : Fields) (s : State) : Out := checkPick f false s

/-- The status word that a handle names (R280, R282). -/
def State.handleStatus (s : State) (h : Nat) : Word :=
  if bitOf h 15 then
    let c := s.me.cmd (bitsOf h 3 0)
    match c.command with
    | some e => if c.gen.toNat = bitsOf h 14 4 then s.statusOf e else 4
    | none => 4
  else
    match (s.draftOf s.curP).bind fun d => d.entries[bitsOf h 11 0]? with
    | some e => s.statusOf e
    | none => 7

/-- DRSTAT (R280). -/
def execDrstat (f : Fields) (s : State) : Out :=
  finish (.drstat f) s do
    s.destOk f.dNum
    .ok (s.setGw f.dNum (s.handleStatus ((s.g f.sNum).bits.bits 15 0)))

/-- DRWAIT (R280): waits while the state is 0 to 3. -/
def execDrwait (f : Fields) (s : State) : Out :=
  finish (.drwait f) s do
    s.destOk f.dNum
    let v := s.handleStatus ((s.g f.sNum).bits.bits 15 0)
    waitFor (4 ≤ v.bits 3 0)
    .ok (s.setGw f.dNum v)

/-! ## Direct commands -/

/-- The command of a strand's instruction at a local-store address (R282). -/
def State.readCommand (s : State) (ea : Word) (op : Nat) : Act DraftEntry := do
  s.lsCheck ea 32
  s.vectorDone ea.toNat 32
  let v := s.me.ls.load ea.toNat 32
  let m := Memory.write {} 0 32 v.1
  let e := entryAt m 0
  check (!v.2 && !entryMalformed m 0 && e.trigger == 0 && e.due == 0 && e.op == op) 0x3B 1
  .ok e

/-- The pillar of a command's vault range (R282); one in layers 12-15 fails later, with ERR 2 (R194). -/
def State.commandPillar (s : State) (e : DraftEntry) : Act (State × PillarId) := do
  let x ← s.translate .write e.vaultVa
  let s' := s.noteXlate s.walker x
  match placeOf x.pa with
  | .vault q _ =>
    let q := s.forward (s.redirect s.curP q)
    check ((s.draftRect s.curP).has (s.position q)) 0x3B 2
    .ok (s', q)
  | _ => .error (.trap 0x3B 2)

/-- The PINBASE that a pin or unpin leaves, if it is not refused (R282). -/
def State.pinResult (s : State) (p : PillarId) (e : DraftEntry) : Option Nat :=
  let b := (s.pil p).pinBase
  let peak := ((s.draftOf p).map fun d => peakOf d.entries p).getD 0
  if e.op = 2 then
    if (s.vbudget s.curP : Int) < peak + (b + e.len : Nat) then none else some (b + e.len)
  else if e.op = 3 then if b < e.len then none else some (b - e.len)
  else some b

/-- Starts a command (R282): pins are done at once; the rest join the shuttle's work. -/
def State.startCommand (s : State) (p : PillarId) (slot : Nat) : State :=
  match ((s.pil p).cmd slot).command with
  | none => s
  | some e =>
    let s := s.modWork (.command p slot) fun e => { e with state := 2 }
    if 2 ≤ e.op then s else s.modQueue (stackOf e.pillar) fun l => l ++ [.command p slot]

/-- The flits that a twinned command is compared by (R397). -/
def DraftEntry.flits (e : DraftEntry) : List Word := [word e.op, e.tierVa, e.vaultVa, word e.len, word (boolNat e.z)]

/-- The free command slot that a command takes. DESIGN CHOICE: the lowest, since R282 does not say which (log entry 115). -/
def State.freeCommand (s : State) : Option Nat := (List.range 16).find? fun j => (s.me.cmd j).free

/-- A command takes a slot, and starts unless its twin is compared first (R282, R397). -/
def State.issueCommand (s : State) (d : Nat) (e : DraftEntry) (j : Nat) : State :=
  let gen := (s.me.cmd j).gen + 1
  let slot : CommandSlot :=
    { gen := gen, command := some e, strand := s.curT, seq := s.me.seqCounter, lvl := BitVec.ofNat 2 s.st.lvl }
  let s := s.modMe fun x => x.modCmd j fun _ => slot
  let s := s.setGw d (word (2 ^ 15 + gen.toNat * 16 + j))
  if s.twinned s.curP && e.op < 2 && !s.discards s.curP s.curT then s.holdAccess e.flits
  else if s.twinned s.curP && e.op < 2 then
    s.modWork (.command s.curP j) fun e => { e with state := 2, moved := e.len / 64 }
  else s.startCommand s.curP j

/-- DFETCH, DEVICT, DPIN and DUNPIN (R282). A pin that must wait for a slot has changed PINBASE already. -/
def directCommand (i : Instr) (f : Fields) (op : Nat) (s : State) : Out :=
  finishAt i s do
    s.destOk f.dNum
    let e ← s.readCommand (s.g f.sNum).bits op
    let (s, p) ← s.commandPillar e
    match s.pinResult p e with
    | none => .ok ((s.setGw f.dNum 0).setPc (s.nextPc i))
    | some pin =>
      let s := s.modPil p fun x => { x with pinBase := pin }
      let e := { e with pillar := p, state := 0 }
      match s.freeCommand with
      | some j => .ok ((s.issueCommand f.dNum e j).setPc (s.nextPc i))
      | none => if op < 2 then .error .wait else .ok (s.modSt fun r => { r with blocked := .pinned i e })

/-- A DPIN or DUNPIN that waits for a slot takes one (R282). -/
def State.endPinned (s : State) (i : Instr) (e : DraftEntry) : State :=
  match i, s.freeCommand with
  | .dpin f, some j | .dunpin f, some j =>
    ((s.issueCommand f.dNum e j).setPc (s.nextPc i)).modSt Strand.unblock
  | _, _ => s

/-- DFETCH (R282). -/
def execDfetch (f : Fields) (s : State) : Out := directCommand (.dfetch f) f 0 s

/-- DEVICT (R282). -/
def execDevict (f : Fields) (s : State) : Out := directCommand (.devict f) f 1 s

/-- DPIN (R282). -/
def execDpin (f : Fields) (s : State) : Out := directCommand (.dpin f) f 2 s

/-- DUNPIN (R282). -/
def execDunpin (f : Fields) (s : State) : Out := directCommand (.dunpin f) f 3 s

/-- A command completes or fails (R282): its slot frees, and a failure is a late fault of its strand. -/
def execDirectCommandComplete (p : PillarId) (slot : BitVec 4) (s : State) : Out :=
  let j := slot.toNat
  let c := (s.pil p).cmd j
  match c.command with
  | none => .next s
  | some e =>
    if e.state != 2 then .next s
    else if e.err != 0 then
      let h := 2 ^ 15 + c.gen.toNat * 16 + j
      .next ((s.modPil p fun x => x.modCmd j fun c => { c with command := some { e with state := 5 } }).raiseUnringed
        p c.strand c.seq c.lvl (.trap 0x3A (word (h + e.err * 2 ^ 16))))
    else if 2 ≤ e.op || (e.moved * 64 = e.len && e.grown = 0) then
      .next ((s.modPil p fun x => x.modCmd j fun c => { c with command := some { e with state := 4 } }).modQueue
        (stackOf e.pillar) fun l => l.filter (· != .command p j))
    else .next s

/-! ## The shuttle -/

/-- The shuttle sees PICKNO of a pillar: the entries it reaches are triggered (R274). -/
def execDraftEntryTrigger (p : PillarId) (s : State) : Out :=
  match s.draftOf p with
  | none => .next s
  | some d => .next (s.trigger d.number fun e => e.pillar == p && e.trigger ≤ (s.pil p).pickNo.toNat)

/-- Who translates for the shuttle's work: the level of a command's strand, user level for a draft (log entry 41). -/
def State.shuttleWalker (s : State) (w : ShuttleJob) (p : PillarId) : Walker :=
  match w with
  | .entry n _ =>
    { p := p, asid := ((s.drafts.find? fun d => d.number == n).map (·.asid)).getD 0, lvl := 0, shuttle := true }
  | .command q i => { p := p, asid := (s.pil q).asid, lvl := ((s.pil q).cmd i).lvl.toNat, shuttle := true }

/-- Why a block does not move: the entry fails, waits for a page request, for the host's translation, or for something else
(R281, R348). -/
inductive MoveStop where
  | fail (err : Nat)
  | fault (va : Word) (write : Bool)
  | ats (w : Walker) (va : Word)
  | stall

/-- The translation of one side of a move; a side's errors fail the entry with its code (R281). -/
def State.moveXlate (s : State) (w : Walker) (kind : AccessKind) (va : Word) (err : Nat) :
    Except MoveStop (State × Xlate) :=
  match s.xlate w kind va with
  | .ok x => .ok (s.noteXlate w x, x)
  | .error .ats => .error (.ats w va)
  | .error .wait => .error .stall
  | .error (.cause c) =>
    if c == 0x03 || c == 0x04 then .error (.fault va (kind == .write)) else .error (.fail err)

/-- The tier address of a move and its allotment (R281). -/
def State.tierSide (s : State) (w : Walker) (kind : AccessKind) (va : Word) (z : Bool) :
    Except MoveStop (State × Nat × BitVec 2) := do
  let (s, x) ← s.moveXlate w kind va 1
  match placeOf x.pa with
  | .tier _ =>
    if (x.entry.allot != 0) != z then .error (.fail 4)
    else
      match s.reach w.p x.pa va with
      | .ok pa => .ok (s, pa, x.entry.allot)
      | .error .wait => .error .stall
      | .error _ => .error (.fail 1)
  | _ => .error (.fail 1)

/-- The vault address of a move (R281). -/
def State.vaultSide (s : State) (w : Walker) (kind : AccessKind) (va : Word) (ok : PillarId → Bool) :
    Except MoveStop (State × Nat) := do
  let (s, x) ← s.moveXlate w kind va 2
  match placeOf x.pa with
  | .vault q off =>
    let q := s.forward (s.redirect w.p q)
    if off / 2 ^ 24 ≥ 12 then .error (.fail 2)
    else if ok q then .ok (s, vaultPa q off)
    else .error (.fail 3)
  | _ => .error (.fail 3)

/-- Copies n bytes between physical addresses, 32 at a time, with their poison (R263). -/
def State.copyUnits (s : State) (src dst : Nat) : Nat → State
  | 0 => s
  | n + 1 =>
    let (v, bad) := s.physRead (src + 32 * n) 32
    (s.physWrite (dst + 32 * n) 32 v bad).copyUnits src dst n

/-- The beats of a move use the rows of its vault, and each takes a beat time of the vault's bus (R263). Parts of 64 bytes of an
uncompressed block share a beat. -/
def State.moveBeats (s : State) (e : DraftEntry) (pa n : Nat) : State :=
  (List.range (n / 64)).foldl (fun s i =>
    if (pa + 64 * i) % 128 == 0 || (e.moved + i) % 64 == 0 then s.useRow (pa + 64 * i) else s) s

/-- Counts the expanded bytes that an entry moves (R287). -/
def State.noteMoved (s : State) (w : ShuttleJob) (e : DraftEntry) (pa n : Nat) : State :=
  let s := s.moveBeats e pa n
  let s := s.modPil e.pillar fun x => x.count (if e.op = 0 then 0x493 else 0x494) n
  let note (r : State × NatMap Nat) (i : Nat) : State × NatMap Nat :=
    r.1.noteWritten r.2 (pa + 32 * i) 32 (r.1.physBad (pa + 32 * i) 32)
  let (s, m) := if e.op = 0 then (List.range (n / 32)).foldl note (s, e.written) else (s, e.written)
  s.modWork w fun e => { e with moved := e.moved + n / 64, written := m }

/-- The right half of a twinned job leaves the tier to its twin (log entry 42). -/
def State.dropsTier (s : State) (p : PillarId) : Bool := s.inRightHalf p

/-- Moves parts of 64 bytes of an uncompressed entry (R274). -/
def State.moveParts (w : ShuttleJob) (k : Walker) (ok : PillarId → Bool) : Nat → State → DraftEntry →
    State × Option MoveStop
  | 0, s, _ => (s, none)
  | fuel + 1, s, e =>
    let off := word (64 * e.moved)
    if e.moved * 64 ≥ e.len then (s, none)
    else
      let r : Except MoveStop State := do
        let (s, t, _) ← s.tierSide k (if e.op = 0 then .read else .write) (e.tierVa + off) false
        let (s, v) ← s.vaultSide k (if e.op = 0 then .write else .read) (e.vaultVa + off) ok
        let s := if e.op = 0 then s.copyUnits t v 2 else if s.dropsTier e.pillar then s else s.copyUnits v t 2
        .ok (s.noteMoved w e v 64)
      match r with
      | .ok s => State.moveParts w k ok fuel s ((s.workEntry w).getD e)
      | .error m => (s, some m)

/-- 4 KiB of free values (log entry 43). -/
def State.freeBlock (s : State) : State × Memory :=
  ({ s with freeCount := s.freeCount + 512 },
    (List.range 512).foldl (fun m i => m.write (8 * i) 8 (Config.freeWord (s.freeCount + i)).toNat) {})

/-- The expanded block of a compressed page, and whether it is poisoned (R266). -/
def State.readCompressed (s : State) (st : Nat) (pa : Nat) (a : BitVec 2) : State × Memory × Bool :=
  let bytes := bytesOfNat (allotBytes a) (s.mem.read pa (allotBytes a))
  match expandBlock bytes with
  | some m => (s, m, s.physBad pa (allotBytes a))
  | none =>
    let (s, m) := s.freeBlock
    (s.countStack st 0x49B, m, true)

/-- Writes a 4 KiB block to a compressed page; the size of the coded block if it does not fit (R266). -/
def State.writeCompressed (s : State) (st pa : Nat) (a : BitVec 2) (m : Memory) (bad : Bool) : State × Option Nat :=
  let size := allotBytes a
  let write (v : Nat) : State := (s.physWrite pa size v bad).countStack st 0x498 size
  if a = 3 then (write (m.read 0 4096), none)
  else
    let c := codeBlock m
    if bad || c.length ≤ size then (write (natOfBytes (c.take size)), none) else (s, some c.length)

/-- The handle of the shuttle's work (R283). -/
def State.workHandle (s : State) : ShuttleJob → BitVec 16
  | .entry _ i => BitVec.ofNat 16 i
  | .command p j => BitVec.ofNat 16 (2 ^ 15 + ((s.pil p).cmd j).gen.toNat * 16 + j)

/-- The job whose entry or command it is. -/
def State.workJob (s : State) : ShuttleJob → Nat
  | .entry n _ => ((s.drafts.find? fun d => d.number == n).map (·.job)).getD 0
  | .command p _ => s.jobNumber p

/-- A grown block goes to the lowest free record, and the host is told (R283). -/
def State.addGrowth (s : State) (st : Nat) (g : GrowthRecord) : State :=
  match (List.range 64).find? fun n => ((s.stack st).shuttle.records.get? n).isNone with
  | none => s
  | some n =>
    let s := s.modStack st fun k => { k with shuttle := { k.shuttle with records := k.shuttle.records.set n g } }
    (s.countStack st 0x499).raiseVector (1 + st)

/-- Moves one block of a compressed entry (R266). -/
def State.moveCompressed (s : State) (w : ShuttleJob) (k : Walker) (ok : PillarId → Bool) (e : DraftEntry) :
    Except MoveStop State := do
  let off := word (64 * e.moved)
  let st := stackOf e.pillar
  let (s, t, a) ← s.tierSide k (if e.op = 0 then .read else .write) (e.tierVa + off) true
  let (s, v) ← s.vaultSide k (if e.op = 0 then .write else .read) (e.vaultVa + off) ok
  if e.op = 0 then
    if a = 3 then .ok ((s.copyUnits t v 128).noteMoved w e v 4096)
    else
      let (s, m, bad) := s.readCompressed st t a
      .ok ((s.physWrite v 4096 (m.read 0 4096) bad).noteMoved w e v 4096)
  else if s.dropsTier e.pillar then .ok (s.noteMoved w e v 4096)
  else
    let m := Memory.write {} 0 4096 (s.mem.read v 4096)
    let (s, grown) := s.writeCompressed st t a m (s.physBad v 4096)
    let s := s.noteMoved w e v 4096
    match grown with
    | none => .ok s
    | some c =>
      let g : GrowthRecord :=
        { va := e.tierVa + off, allot := a, asid := k.asid, handle := s.workHandle w, coded := c, work := w, block := m
          job := s.workJob w }
      .ok ((s.addGrowth st g).modWork w fun e => { e with grown := e.grown + 1 })

/-- The entry or command with an error (R281, R282). -/
def failEntry (w : ShuttleJob) (err : Nat) (e : DraftEntry) : DraftEntry :=
  match w with
  | .entry _ _ => { e with state := 5, err := err, request := none }
  | .command _ _ => { e with err := err, request := none }

/-- The entry fails (R281); a command's failure is raised when its slot frees (R282). -/
def State.failWork (s : State) (w : ShuttleJob) (err : Nat) : State :=
  let s := s.modWork w (failEntry w err)
  (List.range 4).foldl (fun s st => s.modQueue st fun l => l.filter (· != w)) s

/-- ERR of an entry whose page request has failed: 1 for the tier address, 2 for the vault address (R281). An evict writes the tier, a
fetch the vault. -/
def DraftEntry.requestErr (e : DraftEntry) (write : Bool) : Nat := if write == (e.op == 1) then 1 else 2

/-- An entry's translation needs a page request: it waits, or fails when the request fails at once (R281, R350). -/
def State.requestWork (s : State) (w : ShuttleJob) (k : Walker) (e : DraftEntry) (va : Word) (write : Bool) : State :=
  match (s.noteMiss k va).sendPageRequest k.p k.asid va write (.shuttle w) with
  | (s, some n) => s.modWork w fun e => { e with request := some n }
  | (s, none) => s.failWork w (e.requestErr write)

/-- The work can move a block: it waits for nothing, and an evict finds room for growth (R274, R285). -/
def State.movable (s : State) (w : ShuttleJob) : Bool :=
  match s.workEntry w with
  | some e =>
    (e.state == 1 || e.state == 2) && e.err == 0 && e.request.isNone && e.moved * 64 < e.len &&
      !(e.op == 1 && s.ovfFull (stackOf e.pillar)) && (s.pil e.pillar).preempt.isNone
  | none => false

/-- The work that a shuttle moves at once, the next of its round first (R274): the first 32 that can move. DESIGN CHOICE: work that
waits holds none of the 32 places (log entry 85). -/
def State.movers (s : State) (st : Nat) : List ShuttleJob := ((s.stack st).shuttle.work.filter s.movable).take 32

/-- Moves a block to the end of its round, behind the last of those that move at once (R274). -/
def rotateWork (w last : ShuttleJob) (l : List ShuttleJob) : List ShuttleJob :=
  if w == last then l else l.flatMap fun x => if x == w then [] else if x == last then [x, w] else [x]

/-- The work of a handle of a pillar, with its stack. -/
def State.workOf (s : State) (p : PillarId) : Handle → Option ShuttleJob
  | .entry i => (s.draftOf p).map fun d => .entry d.number i
  | .command j => some (.command p j.toNat)

/-- It is the turn of an entry or command to move a block (R274). -/
def State.canMove (s : State) (w : ShuttleJob) (e : DraftEntry) : Bool := (s.movers (stackOf e.pillar)).head? == some w

/-- Where a command's or an entry's vault pages may lie (R281). -/
def State.vaultOk (s : State) (w : ShuttleJob) (e : DraftEntry) (q : PillarId) : Bool :=
  match w with
  | .entry _ _ => q == e.pillar
  | .command p _ => (s.draftRect p).has (s.position q)

/-- The shuttle moves one 4 KiB block of an entry (R274). A block that has to wait for a translation or for the tier has not begun, so
MOVED stands at a block boundary whenever an entry stops (R286). -/
def execShuttleBlockMove (p : PillarId) (h : Handle) (s : State) : Out :=
  match s.workOf p h with
  | none => .next s
  | some w =>
    match s.workEntry w with
    | none => .next s
    | some e =>
      if !s.canMove w e then .next s
      else
        let k := s.shuttleWalker w e.pillar
        let ok := s.vaultOk w e
        let last := ((s.movers (stackOf e.pillar)).getLast?).getD w
        let s1 := (s.modWork w fun e => { e with state := 2 }).modQueue (stackOf e.pillar) (rotateWork w last)
        let e := { e with state := 2 }
        let (s2, stop) : State × Option MoveStop :=
          if e.z then
            match s1.moveCompressed w k ok e with
            | .ok s2 => (s2, none)
            | .error m => (s1, some m)
          else State.moveParts w k ok 64 s1 e
        match stop with
        | none => .next s2
        | some (.fail err) => .next (s2.failWork w err)
        | some (.fault va write) => .next (s1.requestWork w k e va write)
        | some (.ats k va) => .next (s1.askAts k va)
        | some .stall => .next s1

/-- An entry's last block is visible (R275): it is done, as one is whose LEN a restart finds reduced to what has been moved
(R286). -/
def execDraftEntryComplete (p : PillarId) (index : Nat) (s : State) : Out :=
  match s.draftOf p with
  | none => .next s
  | some d =>
    match d.entries[index]? with
    | some e =>
      if e.state == 2 && e.len ≤ e.moved * 64 && e.grown == 0 then
        .next ((s.modEntry d.number index fun e => { e with state := 4 }).modQueue (stackOf e.pillar) fun l =>
          l.filter (· != .entry d.number index))
      else .next s
    | none => .next s

/-! ## Growth records -/

/-- Frees a growth record. -/
def State.freeGrowth (s : State) (st n : Nat) : State :=
  s.modStack st fun k => { k with shuttle := { k.shuttle with records := k.shuttle.records.erase n } }

/-- The command of a job in a slot of a pillar, in silicon or in its saved context (R282, R286). -/
def State.commandOf (s : State) (job : Nat) (p : PillarId) (j : Nat) : Option CommandSlot :=
  match s.saves.find? fun c => c.job == job && c.p == p with
  | some c => some (c.ctx.cmd j)
  | none => if s.jobNumber p == job then some ((s.pil p).cmd j) else none

/-- Changes the entry or command of a job, in silicon or in its saved context (R286). -/
def State.modOwned (s : State) (job : Nat) (w : ShuttleJob) (f : DraftEntry → DraftEntry) : State :=
  match w with
  | .entry n i => s.modEntry n i f
  | .command p j =>
    let g (x : Pillar) : Pillar := x.modCmd j fun c => { c with command := c.command.map f }
    if s.saves.any fun c => c.job == job && c.p == p then
      { s with saves := s.saves.map fun c => if c.job == job && c.p == p then { c with ctx := g c.ctx } else c }
    else if s.jobNumber p == job then s.modPil p g
    else s

/-- The record's entry or command still stands: a command's slot may hold another by now (R282). -/
def State.ownsGrowth (s : State) (g : GrowthRecord) : Bool :=
  match g.work with
  | .entry n i => (s.workEntry (.entry n i)).isSome
  | .command p j =>
    match s.commandOf g.job p j with
    | some c => c.command.isSome && BitVec.ofNat 16 (2 ^ 15 + c.gen.toNat * 16 + j) == g.handle
    | none => false

/-- The block of a record is written or dropped. -/
def State.settleGrowth (s : State) (g : GrowthRecord) : State :=
  if s.ownsGrowth g then s.modOwned g.job g.work fun e => { e with grown := e.grown - 1 } else s

/-- The entry or command of a growth record fails (R281, R283). -/
def State.failGrowth (s : State) (g : GrowthRecord) (err : Nat) : State :=
  if !s.ownsGrowth g then s
  else
    let s := s.modOwned g.job g.work (failEntry g.work err)
    (List.range 4).foldl (fun s st => s.modQueue st fun l => l.filter (· != g.work)) s

/-- Changes a growth record. -/
def State.setGrowth (s : State) (st n : Nat) (g : GrowthRecord) : State :=
  s.modStack st fun k => { k with shuttle := { k.shuttle with records := k.shuttle.records.set n g } }

/-- A RETRY has not written the block: the record stays, and the interrupt is raised again (R284; log entry 44). -/
def State.keepGrowth (s : State) (st n : Nat) (g : GrowthRecord) : State :=
  (s.setGrowth st n { g with retrying := false, request := none }).raiseVector (1 + st)

/-- Who translates for a growth record: the pillar of its entry or command, and its level. -/
def State.growthWalker (s : State) (st : Nat) (g : GrowthRecord) : Walker :=
  let any : PillarId := BitVec.ofNat 10 (st * 256)
  let (p, lvl) : PillarId × Nat :=
    match g.work with
    | .entry _ _ => (((s.workEntry g.work).map (·.pillar)).getD any, 0)
    | .command p j =>
      match s.commandOf g.job p j with
      | some c => ((c.command.map (·.pillar)).getD any, c.lvl.toNat)
      | none => (any, 0)
  { p := p, asid := g.asid, lvl := lvl, shuttle := true }

/-- A RETRY translates again and writes the block (R284). A page fault sends a request, and the RETRY goes on when it has been
answered; a request that fails makes the entry fail (R281, R350, R352). -/
def State.retryGrowth (s : State) (st n : Nat) (g : GrowthRecord) : State :=
  let k := s.growthWalker st g
  match s.moveXlate k .write g.va 1 with
  | .error (.fault va write) =>
    (match (s.noteMiss k va).sendPageRequest k.p k.asid va write (.growth st n) with
    | (s, some id) => s.setGrowth st n { g with request := some id }
    | (s, none) => (s.failGrowth g 1).keepGrowth st n g)
  | .error (.ats w va) => s.askAts w va
  | .error .stall => s
  | .error (.fail _) => s.keepGrowth st n g
  | .ok (s, x) =>
    match placeOf x.pa with
    | .tier _ =>
      if x.entry.allot = 0 then
        ((s.physWrite x.pa 4096 (g.block.read 0 4096) false).settleGrowth g).freeGrowth st n
      else
        match s.writeCompressed st x.pa x.entry.allot g.block false with
        | (s, none) => (s.settleGrowth g).freeGrowth st n
        | (s, some c) => s.keepGrowth st n { g with allot := x.entry.allot, coded := c }
    | _ => s.keepGrowth st n g

/-- A RETRY that waits goes on (R284). -/
def State.stepGrowth (s : State) (st n : Nat) : State :=
  match (s.stack st).shuttle.records.get? n with
  | some g => if g.retrying && g.request.isNone then s.retryGrowth st n g else s
  | none => s

/-- RETRY (R284). -/
def execOvfRetry (stack : BitVec 2) (n : BitVec 6) (s : State) : Out :=
  let st := stack.toNat
  match (s.stack st).shuttle.records.get? n.toNat with
  | none => .next s
  | some g => .next ((s.setGrowth st n.toNat { g with retrying := true }).stepGrowth st n.toNat)

/-- DROP (R283): the block is discarded, and its entry fails with ERR 5. -/
def execOvfDrop (stack : BitVec 2) (n : BitVec 6) (s : State) : Out :=
  let st := stack.toNat
  match (s.stack st).shuttle.records.get? n.toNat with
  | none => .next s
  | some g =>
    .next (((s.settleGrowth g).failGrowth g 5).freeGrowth st n.toNat)

end Sys2Proof.Machine
end

