-- ==== Sys2Proof/Machine/Plies.lean ====
section
/-! DEFINITION. Ply-split products (10_plies.md R247-R262), and the acceptance, start and completion of every matrix-engine
instruction (09_spools_accumulators.md R231-R242). -/

namespace Sys2Proof.Machine

/-! ## PSPLIT -/

/-- A ply operand fault with its code and tile (R260). -/
def plyFault (code tile : Nat) : Stop := .trap 0x30 (word (code + tile % 16 * 16))

/-- Stops with a ply operand fault unless a condition holds. -/
def plyCheck (ok : Bool) (code tile : Nat) : Act Unit := if ok then .ok () else .error (plyFault code tile)

/-- The schedule check of consecutive slots with consecutive tags (R250, R254). -/
def State.schedChecks (s : State) (n off tag b : Nat) : Nat → Act (List Nat)
  | 0 => .ok []
  | k + 1 => do
    let j ← s.schedCheck n off (tag % 2 ^ 16) b
    let js ← State.schedChecks s n (off + 1) (tag + 1) b k
    .ok (j :: js)

/-- Takes write slots of a spool in order, each under the checks of R226. -/
def MatrixEngine.takeWriteSlots (n : Nat) : Nat → MatrixEngine → Act (MatrixEngine × List Nat)
  | 0, m => .ok (m, [])
  | k + 1, m => do
    let q := m.spool n
    if q.count = 0 then .error (spoolFault n)
    let j := q.slot q.out
    check (q.out != q.count) 0x2D (word (1 + n * 16 + j * 128))
    check ((m.slot j).state != 4) 0x2D (word (2 + n * 16 + j * 128))
    let m := (m.modSlot j fun h => { h with state := 1, tag := 0, poison := m.slotBad.hasAny (8192 * j) 8192 }).setSpool n
      { q with out := q.out + 1 }
    let (m, js) ← MatrixEngine.takeWriteSlots n k m
    .ok (m, j :: js)

/-- The headers of ply slots at the split's dispatch (R249). -/
def MatrixEngine.markPlies (m : MatrixEngine) (t : StrandId) (tag rows k : Nat) (js : List Nat) : MatrixEngine :=
  (js.zipIdx).foldl (fun m e => m.modSlot e.1 fun h =>
    { h with tag := BitVec.ofNat 16 (tag + e.2), type := EType.i8.code, orows := rows, olen := k, state := 1
             splitter := some t, olds := h.readers }) m

/-- Dispatch of PSPLITA or PSPLITB with the checks of R250 in order. -/
def psplitIssue (i : Instr) (f : Fields) (s : State) : Out :=
  finish i s do
    let d := s.capture i
    let x := d.gs.bits
    let scan := bitOf f.mod.toNat 6
    let n := bitsOf f.mod.toNat 2 0
    plyCheck (x.bits 63 41 == 0 && (!scan || (f.dNum == 0 && x.bits 40 38 == 0 && x.bits 31 16 == 0))) 1 0
    plyCheck (f.tNum % 2 == 0) 7 0
    let js ← s.schedChecks n (x.bits 34 32) (x.bits 15 0) 0 (x.bits 37 35 + 1)
    let m := s.me.mtx
    let types := js.map fun j => typeCode (m.slot j).type
    let ty := types.headD .i8
    plyCheck ((ty == .f64 || ty == .f32) && types.all (· == ty)) 2 0
    let rows := (m.slot (js.headD 0)).orows
    let k := (js.map fun j => (m.slot j).olen).sum / (ty.width / 8)
    plyCheck ((js.all fun j => (m.slot j).orows == rows) && rows ≤ 64 && k ≤ 128) 3 0
    let read := m.shapeOf js
    let (m, plies) ← if scan then .ok (m, []) else MatrixEngine.takeWriteSlots f.dNum (x.bits 40 38 + 1) m
    s.room .matrix
    let m := (m.markPlies s.curT (x.bits 31 16) rows k plies).enterSlots js
    let s := s.modMe fun y => { y with mtx := m }
    .ok ((s.dispatchAs .matrix { d with slot := packSlots js, aux := packSlots plies, read := read }).joinBatch
      d.seq [])

/-- PSPLITA (R250). -/
def execPsplita (f : Fields) (s : State) : Out := psplitIssue (.psplita f) f s

/-- PSPLITB (R250). -/
def execPsplitb (f : Fields) (s : State) : Out := psplitIssue (.psplitb f) f s

/-- The scale code of a row of values (R247, R248), as an integer. -/
def rowCode (xs : List FVal) : Int :=
  if xs.any fun x => match x with | .fin _ _ _ => false | _ => true then 0x7FFF
  else
    xs.foldl (fun g x => match x with
      | .fin _ m e => if m = 0 then g else max g (Nat.log2 m + e + 2)
      | _ => g) (-0x8000)

/-- m × 2^e rounded to an integer, ties to even (R247). -/
def nearestInt (x : FVal) : Int :=
  match x with
  | .fin neg m e =>
    let r : Int := roundAt 0 neg m e 0
    if neg then -r else r
  | _ => 0

/-- The p digits of an integer, ply 1 first (R247). -/
def plyDigits : Nat → Int → List Int
  | 0, _ => []
  | 1, x => [x]
  | p + 2, x =>
    let d := (x + 64) % 128 - 64
    plyDigits (p + 1) ((x - d) / 128) ++ [d]

/-- The plies of an element under a scale code (R247). -/
def pliesOf (p : Nat) (g : Int) (x : FVal) : List Int := plyDigits p (nearestInt (mulExact x (.fin false 1 (7 * p - g))))

/-- An element of a row of a slot whose rows have a length, with its poison (R200, R221). -/
def MatrixEngine.slotElem (m : MatrixEngine) (j len row w k : Nat) : Nat × Bool :=
  let base := 8192 * j + row * pitchOf len
  (m.slotBytes.elem base w k, m.slotBad.elemBad base w k)

/-- The elements of a source row across the slots of a split, with their poison (R250). -/
def MatrixEngine.splitRow (m : MatrixEngine) (js : List (Nat × Nat)) (ty : EType) (row : Nat) : List (FVal × Bool) :=
  js.flatMap fun j => (List.range (j.2 / (ty.width / 8))).map fun k =>
    let (v, bad) := m.slotElem j.1 j.2 row ty.width k
    (valueOf ty v, bad)

/-- Lane r of a scale pair as a signed code, with its poison (R248). -/
def Strand.scaleLane (t : Strand) (v r : Nat) : Int × Bool :=
  let (x, bad) := t.lane v 16 r
  (sextNat x 16, bad)

/-- A split refuses a row: its own code lies above the given one (R250). -/
def plyRange (own g : Int) : Bool :=
  (own == 0x7FFF && g != 0x7FFF) || (own != 0x7FFF && own != -0x8000 && g != 0x7FFF && own > g)

/-- The scan form merges the codes of its rows into the scale pair (R250). -/
def scanLanes (t : Strand) (v : Nat) (own : List (Int × Bool)) : Strand :=
  let put (t : Strand) (half : Nat) : Strand :=
    t.setV (v + half) ((t.vreg (v + half)).update 16 fun i =>
      match own[32 * half + i]? with
      | some (c, bad) =>
        let (old, oldBad) := t.scaleLane (v + half) i
        some (lowBits (max old c) 16, bad || oldBad)
      | none => none)
  put (put t 0) 1

/-- A poisoned source element poisons its row's code lane (R250). -/
def spoilLanes (t : Strand) (v : Nat) (bad : List Bool) : Strand :=
  let put (t : Strand) (half : Nat) : Strand :=
    t.setV (v + half) ((t.vreg (v + half)).update 16 fun i =>
      if bad.getD (32 * half + i) false then some (((t.vreg (v + half)).lane 16 i).1, true) else none)
  if bad.any id then put (put t 0) 1 else t

/-- Writes the plies of a row of a split: byte k of row r of ply slot i (R249). -/
def MatrixEngine.writePlies (m : MatrixEngine) (plies : List Nat) (row : Nat) (es : List (FVal × Bool)) (g : Int)
    (zero bad : Bool) : MatrixEngine :=
  (es.zipIdx).foldl (fun m e =>
    let ds := if zero then [] else pliesOf plies.length g e.1.1
    (plies.zipIdx).foldl (fun m q =>
      let a := 8192 * q.1 + row * 128 + e.2
      { m with
        slotBytes := m.slotBytes.set a (BitVec.ofInt 8 (ds.getD q.2 0)), slotBad := m.slotBad.put a bad }) m) m

/-- A PSPLIT runs (R250): the new engine and strand, or the late fault. -/
def runPsplit (m : MatrixEngine) (t : Strand) (d : Dispatched) (f : Fields) :
    Except (BitVec 8 × Word) (MatrixEngine × Strand) :=
  let js := (unpackSlots 16 d.slot).zip d.read.lens
  let plies := unpackSlots 16 d.aux
  let ty := typeCode d.read.type
  let rows := d.read.rows
  let es := (List.range rows).map fun r => m.splitRow js ty r
  let own := es.map fun e => (rowCode (e.map (·.1)), e.any (·.2))
  if bitOf f.mod.toNat 6 then .ok (m, scanLanes t f.tNum own)
  else
    let v := f.tNum
    match (own.zipIdx).find? fun o => plyRange o.1.1 (t.scaleLane v o.2).1 with
    | some (o, r) =>
      .error (0x31, word (r + bitsOf f.mod.toNat 2 0 * 64 + lowBits o.1 16 * 2 ^ 16 +
        lowBits (t.scaleLane v r).1 16 * 2 ^ 32))
    | none =>
      let m := plies.foldl (fun m j =>
        { m with slotBytes := m.slotBytes.clear (8192 * j) 8192, slotBad := m.slotBad.clear (8192 * j) 8192 }) m
      let m := (es.zipIdx).foldl (fun m e =>
        let r := e.2
        let (g, gBad) := t.scaleLane v r
        let (o, oBad) := own.getD r (0, false)
        m.writePlies plies r e.1 g (g == 0x7FFF || g == -0x8000 || o == -0x8000) (gBad || oBad)) m
      .ok (plies.foldl (fun m j => m.modSlot j fun h => { h with state := 2, splitter := none }) m, spoilLanes t v (own.map (·.2)))

/-! ## PMMA -/

/-- The slice pairs of a step at a ply count, in order (R252). -/
def slicePairs (p : Nat) : List (Nat × Nat) :=
  (List.range p).flatMap fun u => (List.range (u + 1)).map fun i => (i + 1, u + 1 - i)

/-- Ply instructions on a group that a strand has dispatched and that have not completed (R254). -/
def Pillar.groupPending (x : Pillar) (t : StrandId) (a : Nat) : List (Bool × Bool) :=
  (x.matrixPending t).filterMap fun d =>
    match d.instr with
    | .pmma f => if f.dNum = a then some (true, bitOf d.gt.bits.toNat 22) else none
    | .pjoin f => if f.dNum = a then some (false, false) else none
    | _ => none

/-- u, and whether a FIRST among the PMMAs counted makes STEPS count as 0 (R254). -/
def stepsPending (l : List (Bool × Bool)) : Nat × Bool :=
  l.foldl (fun a e => if !e.1 then a else if e.2 then (1, true) else (a.1 + 1, a.2)) (0, false)

/-- The group checks of a PMMA that is not the first of its product (R254). -/
def State.groupCheck (s : State) (a p : Nat) (tiles : List Nat) : Act Unit :=
  let pend := s.me.groupPending s.curT a
  let (u, fresh) := stepsPending pend
  tiles.foldlM (fun _ t => do
    let h := s.me.mtx.tile t
    plyCheck (h.kind == 2 && h.plies == p && (h.pair == 0 || !pend.isEmpty)) 4 a
    plyCheck ((if fresh then 0 else h.steps) + u < 63) 5 a) ()

/-- PMMA (R254, R255). DESIGN CHOICE: the loom checks of R240 and R241 come after code 8 and before the slot checks (log
entry 114). -/
def execPmma (f : Fields) (s : State) : Out :=
  finish (.pmma f) s do
    let d := s.capture (.pmma f)
    let x := d.gs.bits
    let y := d.gt.bits
    let loom := bitOf f.mod.toNat 6
    let a := f.dNum
    let root := y.bits 26 23
    let size := match s.me.mtx.loom with | some l => if l.formed then l.members.length else 16 | none => 16
    plyCheck (x.bits 63 38 == 0 && y.bits 63 27 == 0 && (loom || root == 0) && (!loom || root < size)) 1 a
    let p := y.bits 21 19 + 1
    plyCheck (a + p ≤ 16) 8 a
    if loom then let _ ← s.loomCheck
    let reads := !loom || (match s.me.mtx.loom with | some l => l.members[root]? == some s.curP | none => false)
    let as ← if reads then s.schedChecks (bitsOf f.mod.toNat 2 0) (x.bits 34 32) (x.bits 15 0) 0 p else .ok []
    let bs ← s.schedChecks (bitsOf f.mod.toNat 5 3) (x.bits 37 35) (x.bits 31 16) 1 p
    let m := s.me.mtx
    plyCheck ((as ++ bs).all fun j => typeCode (m.slot j).type == .i8) 2 a
    let rows := y.bits 5 0 + 1
    let cols := y.bits 11 6 + 1
    let k := y.bits 18 12 + 1
    plyCheck ((as.all fun j => rows ≤ (m.slot j).orows && k ≤ (m.slot j).olen) &&
      (bs.all fun j => cols ≤ (m.slot j).orows && k ≤ (m.slot j).olen)) 3 a
    let tiles := (List.range p).map (a + ·)
    let first := bitOf y.toNat 22
    if !first then s.groupCheck a p tiles
    s.inFlight true tiles
    s.room .matrix
    let s := s.dispatchAs .matrix { d with slot := packSlots as, aux := packSlots bs, interval := s.loomInterval }
    let s := s.modMe fun z => z.modMtx fun m =>
      let m := m.enterSlots (as ++ bs)
      if first then m.modTiles tiles fun h => { h with kind := 2, plies := p } else m
    .ok ((s.joinBatch d.seq tiles).countLoom loom)

/-- The tiles of a dispatched PMMA's group. -/
def pmmaTiles (d : Dispatched) (f : Fields) : List Nat := (List.range (d.gt.bits.bits 21 19 + 1)).map (f.dNum + ·)

/-- Writes an element of a tile with its poison. -/
def MatrixEngine.setElem (m : MatrixEngine) (a e v : Nat) (bad : Bool) : MatrixEngine :=
  { m with tileBytes := m.tileBytes.write (16384 * a + 4 * e) 4 v, tileBad := m.tileBad.put (4096 * a + e) bad }

/-- Reads an element of a tile with its poison. -/
def MatrixEngine.elem (m : MatrixEngine) (a e : Nat) : Nat × Bool :=
  (m.tileBytes.read (16384 * a + 4 * e) 4, m.tileBad.has (4096 * a + e))

/-- Sets every element of a tile to +0 (R237). -/
def MatrixEngine.zeroTile (m : MatrixEngine) (a : Nat) : MatrixEngine :=
  { m with tileBytes := m.tileBytes.clear (16384 * a) 16384, tileBad := m.tileBad.clear (4096 * a) 4096 }

/-- Changes the elements (m, n) of a tile with m below some rows and n below some columns. -/
def MatrixEngine.mapTile (x : MatrixEngine) (a rows cols : Nat) (g : Nat → Nat → Nat × Bool → Nat × Bool) : MatrixEngine :=
  (List.range rows).foldl (fun x m =>
    (List.range cols).foldl (fun x n =>
      let e := 64 * m + n
      let (v, bad) := g m n (x.elem a e)
      x.setElem a e v bad) x) x

/-- C + Σ products modulo 2^32 (R63). -/
def addInt (c : Nat) (ps : List Int) : Nat := lowBits ((c : Int) + ps.sum) 32

/-- Runs slice pair x of a PMMA on one engine, with A plies of an engine (R254). -/
def runPair (x a : MatrixEngine) (d da : Dispatched) (f : Fields) (i j : Nat) : MatrixEngine :=
  let y := d.gt.bits
  let as := (unpackSlots 16 da.slot).getD (i - 1) 0
  let bs := (unpackSlots 16 d.aux).getD (j - 1) 0
  let k := y.bits 18 12 + 1
  x.mapTile (f.dNum + i + j - 2) (y.bits 5 0 + 1) (y.bits 11 6 + 1) fun m n c =>
    let es := (List.range k).map fun q => (a.slotElem as 128 m 8 q, x.slotElem bs 128 n 8 q)
    (addInt c.1 (es.map fun e => sextNat e.1.1 8 * sextNat e.2.1 8), c.2 || es.any fun e => e.1.2 || e.2.2)

/-! ## PJOIN and PSTAT -/

/-- The type of PJOIN (R256). -/
def joinType (f : Fields) : EType := typeOf .f64 f

/-- The length of PJOIN's output range (R256). -/
def joinLen (v : Word) (e : Nat) : Nat := v.bits 41 36 * v.bits 35 20 + (v.bits 47 42 + 1) * e

/-- PJOIN (R256). -/
def execPjoin (f : Fields) (s : State) : Out :=
  finish (.pjoin f) s do
    let d := s.capture (.pjoin f)
    let x := d.gs.bits
    let a := f.dNum
    let e := (joinType f).width / 8
    plyCheck (x.bits 63 48 == 0 && !bitOf x.toNat 19 && f.tNum % 4 == 0) 1 a
    let m := s.me.mtx
    let p := (m.tile a).plies
    let tiles := (List.range p).map (a + ·)
    plyCheck (p != 0 && a + p ≤ 16 && tiles.all fun t => (m.tile t).kind == 2 && (m.tile t).plies == p) 4 a
    let ea := x.bits 18 0
    let pitch := x.bits 35 20
    plyCheck (pitch % 8 == 0 && (x.bits 47 42 + 1) * e ≤ pitch && ea % 8 == 0 &&
      (s.me.lsFault ea (joinLen x e)).isNone) 6 a
    s.inFlight true tiles
    s.vectorDone ea (joinLen x e)
    s.room .matrix
    .ok ((s.dispatchAs .matrix { d with slot := ea, aux := 16 * joinLen x e + p }).joinBatch d.seq tiles)

/-- T of an element, before the old value (R256): the terms of the exact sum. -/
def joinTerms (m : MatrixEngine) (a p e : Nat) (ga gb : Int) : List FVal :=
  (List.range p).map fun u =>
    let c := sextNat (m.elem (a + u) e).1 32
    mulExact (.ofInt c) (.fin false 1 (ga + gb - 7 * (u + 2)))

/-- The ply count that a PJOIN's dispatch found (R256). -/
def Dispatched.joinPlies (d : Dispatched) : Nat := d.aux % 16

/-- Element (row, n) of PJOIN with its poison (R256). -/
def joinElem (m : MatrixEngine) (t : Strand) (d : Dispatched) (f : Fields) (row n : Nat) (old : Nat × Bool) : Nat × Bool :=
  let ty := joinType f
  let a := f.dNum
  let p := d.joinPlies
  let (ga, bad1) := t.scaleLane f.tNum row
  let (gb, bad2) := t.scaleLane (f.tNum + 2) n
  let add := bitOf f.mod.toNat 0
  let e := 64 * row + n
  let bad := bad1 || bad2 || (List.range p).any (fun u => (m.elem (a + u) e).2) || (add && old.2)
  if ga = 0x7FFF || gb = 0x7FFF then (encodeValue ty 0 false .nan, bad)
  else
    let ts := if ga != -0x8000 && gb != -0x8000 then joinTerms m a p e ga gb else []
    let v := sumExact d.mrm (ts ++ if add then [valueOf ty old.1] else [])
    let v := match v with | .fin _ 0 _ => .fin (d.mrm == 2) 0 0 | v => v
    (encodeValue ty d.mrm (satFlag f) v, bad)

/-- Writes n bytes of an engine's output at an address: whole words full, a part of a word as it is (R139, R145). -/
def Pillar.writeOut (x : Pillar) (a n v : Nat) (bad : Bool) : Pillar :=
  if n = 8 then x.lsWriteFull a v bad else x.lsWrite a n v bad

/-- Bytes of a row written as whole words, the last perhaps a part, with a poison mark for each word. -/
def Pillar.writeWords (x : Pillar) (a : Nat) (buf : Memory) (bad : NatSet) (n : Nat) : Pillar :=
  (List.range (ceilDiv n 8)).foldl (fun x i =>
    let k := min 8 (n - 8 * i)
    x.writeOut (a + 8 * i) k (buf.read (8 * i) k) (bad.hasAny (8 * i) k)) x

/-- Row m of a PJOIN is written (R256). -/
def Pillar.joinRow (x : Pillar) (d : Dispatched) (f : Fields) (row : Nat) : Pillar :=
  let v := d.gs.bits
  let e := (joinType f).width / 8
  let base := v.bits 18 0 + row * v.bits 35 20
  let t := x.strand d.strand
  let n := v.bits 47 42 + 1
  let (buf, bad) := (List.range n).foldl (fun (m : Memory × NatSet) i =>
    let old := x.ls.load (base + i * e) e
    let (r, b) := joinElem x.mtx t d f row i old
    (m.1.write (i * e) e r, m.2.putRange (i * e) b e)) ({}, {})
  x.writeWords base buf bad (n * e)

/-- ACCn (R229, R251). -/
def Pillar.accWord (x : Pillar) (a : Nat) : Word :=
  let h := x.mtx.tile a
  word (h.pair * 2 ^ 42 + h.steps * 2 ^ 36 + h.plies * 2 ^ 32 + h.kind.toNat * 2 ^ 30 +
    boolNat (x.mtx.tileBad.hasAny (4096 * a) 4096) * 128 + boolNat h.moving.isSome * 64 + boolNat h.loom * 32 +
    boolNat (x.openOwner a).isSome * 16 + boolNat (x.pendOwner a).isSome * 8 + h.owner.val)

/-- PSTAT (R257). -/
def execPstat (f : Fields) (s : State) : Out :=
  finish (.pstat f) s do
    s.destOk f.dNum
    .ok (s.setGw f.dNum (s.me.accWord f.sNum))

/-! ## The arithmetic of MMA, MMABS and MMV -/

/-- Cuts a list into groups of 32. -/
def groups32 {α : Type} : Nat → List α → List (List α)
  | 0, _ => []
  | n + 1, l => if l.isEmpty then [] else l.take 32 :: groups32 n (l.drop 32)

/-- The update of one element by a step's products (R61-R63): integers exactly, floats with one rounding for each group
of 32. The lanes that a partial last group lacks contribute an exact +0. -/
def accumulate (d : Dispatched) (c : Nat) (ps : List FVal) : Nat :=
  (groups32 ps.length ps).foldl (fun c g =>
    let rest := if g.length < 32 then [FVal.fin false 0 0] else []
    encodeValue .f32 d.mrm false (sumExact d.mrm (valueOf .f32 c :: g ++ rest))) c

/-- The scale of element k of a row under MMABS, with its poison (R235). -/
def MatrixEngine.scaleOf (m : MatrixEngine) (j len row k depth : Nat) : FVal × Bool :=
  let a := 8192 * j + row * pitchOf len + depth / 2 + k / 32
  (valueOf .s8 (m.slotBytes.get a).toNat, m.slotBad.has a)

/-- One step A × B into a tile of an engine, with A in the slot that an engine's instruction reads (R235, R61, R63). -/
def runMma (x a : MatrixEngine) (d da : Dispatched) (tile : Nat) (scaled : Bool) : MatrixEngine :=
  let g := geometryOf d.gt.bits
  let aj := (unpackSlots 16 da.slot).headD 0
  let bj := (unpackSlots 16 d.slot).getD 1 0
  let la := da.read.lens.headD 0
  let lb := d.read.lens.getD 1 0
  let wa := d.ma.width
  let wb := d.mb.width
  x.mapTile tile g.m g.n fun m n c =>
    let es := (List.range g.k).map fun k =>
      (a.slotElem aj la m wa (g.k0 + k),
        if g.bkm then x.slotElem bj lb (g.c0 + n) wb (g.k0 + k) else x.slotElem bj lb (g.k0 + k) wb (g.c0 + n))
    let bad := c.2 || es.any fun e => e.1.2 || e.2.2
    if byteInt d.ma then (addInt c.1 (es.map fun e => intOf d.ma e.1.1 * intOf d.mb e.2.1), bad)
    else
      let ps := es.map fun e => mulExact (valueOf d.ma e.1.1) (valueOf d.mb e.2.1)
      if scaled then
        let sc := (List.range g.k).map fun k => (a.scaleOf aj la m k g.k, x.scaleOf bj lb n k g.k)
        (accumulate d c.1 ((ps.zip sc).map fun e => mulExact e.1 (mulExact e.2.1.1 e.2.2.1)),
          bad || sc.any fun e => e.1.2 || e.2.2)
      else (accumulate d c.1 ps, bad)

/-- MMV into a row of a tile (R236). -/
def runMmv (x : MatrixEngine) (t : Strand) (d : Dispatched) (f : Fields) : MatrixEngine :=
  let v := d.gs.bits
  let k := v.bits 37 31 + 1
  let k0 := 32 * v.bits 45 38
  let row := v.bits 30 25
  let aj := (unpackSlots 16 d.slot).headD 0
  let xs := (List.range k).map fun q => t.lane f.tNum d.mb.width q
  (List.range (v.bits 24 19 + 1)).foldl (fun x m =>
    let e := 64 * row + m
    let (c, cBad) := x.elem f.dNum e
    let es := (xs.zipIdx).map fun q => (x.slotElem aj (d.read.lens.headD 0) m d.ma.width (k0 + q.2), q.1)
    let bad := cBad || es.any fun e => e.1.2 || e.2.2
    let r :=
      if byteInt d.ma then addInt c (es.map fun e => intOf d.ma e.1.1 * intOf d.mb e.2.1)
      else accumulate d c (es.map fun e => mulExact (valueOf d.ma e.1.1) (valueOf d.mb e.2.1))
    x.setElem f.dNum e r bad) x

/-! ## Tile moves -/

/-- Rows of a tile from local store (R238). -/
def Pillar.runMld (x : Pillar) (d : Dispatched) (f : Fields) : Pillar :=
  let ty := typeCode (BitVec.ofNat 4 (d.aux % 16))
  let e := ty.width / 8
  (List.range (moveRows f * 64)).foldl (fun x i =>
    let (v, bad) := x.ls.load (d.slot + i * e) e
    let r := if ty == .i32 || ty == .f32 then v else convert ty .f32 0 false v
    x.modMtx fun m => m.setElem f.dNum (64 * moveRow0 f + i) r bad) x

/-- The bytes of rows of a tile in a type, 64 elements for each row (R238). -/
def moveOut (m : MatrixEngine) (d : Dispatched) (f : Fields) (ty : EType) : Memory × NatSet :=
  let e := ty.width / 8
  (List.range (moveRows f * 64)).foldl (fun (b : Memory × NatSet) i =>
    let (v, bad) := m.elem f.dNum (64 * moveRow0 f + i)
    let r := if ty == .i32 || ty == .f32 then v else convert .f32 ty (d.fmt.bits 1 0) false v
    (b.1.write (i * e) e r, b.2.putRange (i * e) bad e)) ({}, {})

/-- Local store from rows of a tile, in whole words (R238). -/
def Pillar.runMst (x : Pillar) (d : Dispatched) (f : Fields) : Pillar :=
  let ty := typeCode (BitVec.ofNat 4 (d.aux % 16))
  let (buf, bad) := moveOut x.mtx d f ty
  x.writeWords d.slot buf bad (moveRows f * 64 * (ty.width / 8))

/-- The slot side of SSTV (R228). -/
def MatrixEngine.runSstv (m : MatrixEngine) (r : VReg) (d : Dispatched) (f : Fields) : MatrixEngine :=
  let v := d.gs.bits
  let a := 8192 * d.aux + slotByte v
  let m := (List.range 8).foldl (fun m i =>
    { m with
      slotBytes := m.slotBytes.write (a + 8 * i) 8 (r.bits.toNat / 2 ^ (64 * i))
      slotBad := m.slotBad.putRange (a + 8 * i) (bitOf r.bad.toNat i) 8 }) m
  if bitOf f.mod.toNat 3 then
    m.modSlot d.aux fun h =>
      { h with tag := BitVec.ofNat 16 (v.bits 63 48), type := BitVec.ofNat 4 (v.bits 47 44), orows := v.bits 43 30
               olen := v.bits 29 16, state := 2 }
  else m

/-- 64 bytes of a slot as a vector register (R228). -/
def MatrixEngine.readV (m : MatrixEngine) (a : Nat) : VReg :=
  { bits := BitVec.ofNat 512 (m.slotBytes.read a 64)
    bad := BitVec.ofNat 8 ((List.range 8).map fun i => boolNat (m.slotBad.hasAny (a + 8 * i) 8) * 2 ^ i).sum }

/-! ## Acceptance -/

/-- The unit that an instruction needs (R231). -/
def onPort : Instr → Bool
  | .mld _ | .mst _ | .drain _ | .sldv _ | .sstv _ => true
  | _ => false

/-- The tiles that a dispatched instruction names (R230). -/
def Pillar.tilesOf (x : Pillar) (d : Dispatched) : List Nat :=
  match d.instr with
  | .mma f | .mmabs f =>
    let size := if bitOf f.mod.toNat 6 then ((x.mtx.loom).map fun l => l.members.length).getD 1 else 1
    (List.range size).map (f.dNum + ·)
  | .pmma f => pmmaTiles d f
  | .pjoin f => (List.range d.joinPlies).map (f.dNum + ·)
  | .mmv f | .mzero f | .mld f | .mst f | .drain f => [f.dNum]
  | _ => []

/-- Phasing lets a pillar's matrix engine accept in this period (R428). -/
def State.phaseAllows (s : State) (p : PillarId) : Bool :=
  let c := s.phasing.ctl
  let named := s.phasing.rects.toList.any fun r =>
    bitOf r.toNat 63 && (match s.jobOf (r.setWidth 10) with
      | some j => (match j.rect with | some r => r.has (s.position p) | none => false)
      | none => false)
  !(bitOf c.toNat 63 && named && c.bits 47 32 != 0) ||
    s.clk / (64 * c.bits 47 32) % 2 == (gridRow p + gridCol p) % 2

/-- The engine may accept the head of a strand's queue (R230, R231, R168, R250). -/
def State.matrixAcceptable (s : State) (p : PillarId) (t : StrandId) : Bool :=
  let x := s.pil p
  match x.mtx.unit.queue t with
  | d :: _ =>
    let running := (x.mtx.array.toList ++ x.mtx.port.toList).map (·.d)
    !x.mtx.held && s.phaseAllows p &&
      (if onPort d.instr then x.mtx.port.isNone else x.mtx.array.isNone) &&
      (running.all fun o => (x.tilesOf o).all fun a => !(x.tilesOf d).contains a) &&
      (!namesVector d.instr ||
        (!x.crossHazard d (x.vectorPending t) &&
          running.all fun o => !(o.strand == t && namesVector o.instr && vectorConflict d.instr o.instr))) &&
      (match d.instr with
        | .psplita _ | .psplitb _ => (unpackSlots 16 d.aux).all fun j => (x.mtx.slot j).olds == 0
        | _ => true)
  | [] => false

/-- The format by which the array compares (R232, R250); MZERO and the port's instructions have none. -/
def formatKey (d : Dispatched) : Option (BitVec 12) :=
  match d.instr with
  | .mma _ | .mmabs _ | .mmv _ => some (BitVec.ofNat 12 (d.fmt.bits 15 8 * 4 + d.mrm))
  | .psplita _ | .psplitb _ | .pmma _ | .pjoin _ => some (BitVec.ofNat 12 d.mrm)
  | _ => none

/-- The k steps that the array takes in one clk, for each type (R231). -/
def depthRate (t : EType) : Nat :=
  match t with
  | .f16 | .bf16 => 1
  | .e2m1 => 4
  | _ => 2

/-- The occupancy of an instruction, of one slice pair, or of one row (R231, R250, R254, R256). -/
def Pillar.occupancy (x : Pillar) (d : Dispatched) : Nat :=
  match d.instr with
  | .mma f | .mmabs f =>
    let g := geometryOf d.gt.bits
    let o := ceilDiv g.m 16 * ceilDiv g.k (depthRate d.ma)
    if bitOf f.mod.toNat 6 then (x.tilesOf d).length * o + 8 else o
  | .mmv _ =>
    ceilDiv ((d.gs.bits.bits 24 19 + 1) * (d.gs.bits.bits 37 31 + 1)) (if d.ma.width = 8 then 2048 else 1024)
  | .mzero _ => 8
  | .mld _ | .mst _ => ceilDiv (d.aux / 16) 512
  | .drain f => ceilDiv (moveRows f * 64 * ((typeCode (BitVec.ofNat 4 d.aux)).width / 8)) 512
  | .psplita f | .psplitb f =>
    let rows := d.read.rows
    let bytes := d.read.lens.sum
    let k := bytes / ((typeCode d.read.type).width / 8)
    if bitOf f.mod.toNat 6 then ceilDiv (rows * bytes) 512 + 4
    else ceilDiv (rows * bytes) 512 + ceilDiv ((unpackSlots 16 d.aux).length * rows * k) 512 + 8
  | .pmma _ => ceilDiv (d.gt.bits.bits 5 0 + 1) 16 * ceilDiv (d.gt.bits.bits 18 12 + 1) 2
  | .pjoin _ => d.joinPlies + 2
  | _ => 1

/-- The clk in which an instruction that starts in a clk, or its next pair or row, is done (R231). -/
def Pillar.doneClk (x : Pillar) (d : Dispatched) (start : Nat) : Nat :=
  start + x.occupancy d + match d.instr with | .pmma _ | .pjoin _ => 0 | _ => 4

/-- The matrix engine accepts an instruction, which starts (R231, R232). A `.loom` step waits for the other members; one
of a broken loom faults late (R240, R241). -/
def State.acceptMatrix (s : State) (p : PillarId) : State :=
  let x := s.pil p
  match (roundRobin x.mtx.unit.last).find? fun t => s.matrixAcceptable p t with
  | none => s
  | some t =>
    match x.mtx.unit.queue t with
    | [] => s
    | d :: q =>
      let x := x.modMtx fun m => { m with unit := { m.unit.setQueue t q with last := t } }
      let broken := match x.mtx.loom with | some l => l.broken || d.interval == 0 | none => true
      if isLoomInstr d.instr && broken then
        s.setPil p ((x.discardMatrix s.clk d).raiseLate d.strand (d.late 0x2E 7))
      else
        let key := formatKey d
        let bubble := key.isSome && x.mtx.lastFormat.isSome && key != x.mtx.lastFormat
        let start := s.aclk p + if bubble then 16 else 0
        let op : MatrixOp :=
          { d := d, started := !isLoomInstr d.instr, bubble := bubble, due := x.doneClk d start }
        let x := if bubble && op.started then x.count 0x482 16 else x
        s.setPil p (x.modMtx fun m =>
          let m := { m with lastFormat := key.or m.lastFormat }
          if onPort d.instr then { m with port := some op } else { m with array := some op })

/-! ## Loom steps -/

/-- What the members of a joint step must agree on: operation and A geometry (R240, R255). -/
def loomKey (d : Dispatched) : List Nat :=
  match d.instr with
  | .mma _ => let g := geometryOf d.gt.bits; [0, d.ma.code.toNat, g.m, g.k, g.k0]
  | .mmabs _ => let g := geometryOf d.gt.bits; [1, d.ma.code.toNat, g.m, g.k, g.k0]
  | .pmma _ => let y := d.gt.bits; [2, y.bits 5 0, y.bits 18 12, y.bits 21 19, y.bits 22 22, y.bits 26 23]
  | _ => []

/-- The operation on the array of a member that waits to start, with its instruction. -/
def State.waitingStep (s : State) (p : PillarId) : Option Dispatched :=
  match (s.pil p).mtx.array with
  | some o => if !o.started && isLoomInstr o.d.instr then some o.d else none
  | none => none

/-- Counts the work of the array (R245, R261). -/
def Pillar.countArray (x : Pillar) (macs clks : Nat) : Pillar := (x.count 0x480 macs).count 0x481 clks

/-- Starts the step of one member (R240). -/
def Pillar.startStep (x : Pillar) (clk : Nat) (bubble : Bool) : Pillar :=
  match x.mtx.array with
  | some o =>
    let x := if bubble then x.count 0x482 16 else x
    let start := clk + if bubble then 16 else 0
    let extra := match o.d.instr with | .pmma _ => 8 | _ => 0
    (x.countArray 0 extra).modMtx fun m =>
      ({ m with array := some { o with started := true, due := x.doneClk o.d start + extra } } : MatrixEngine).modTiles
        (x.tilesOf o.d) fun h => { h with loom := true }
  | none => x

/-- An accepted step that cannot start before a pre-emption, since the engine of a member accepts nothing more and has not accepted its
own (R244): it goes back to the head of its strand's queue. DEDUCED: it has not begun, and is accepted again at the restore (log
entry 99). -/
def State.stepStranded (s : State) (p : PillarId) (l : Loom) : Bool :=
  (s.pil p).mtx.held && l.members.any fun q => (s.pil q).mtx.held && (s.waitingStep q).isNone

/-- A step that has not started goes back to the head of its strand's queue. -/
def Pillar.returnStep (x : Pillar) (d : Dispatched) : Pillar :=
  x.modMtx fun m => { m with array := none, unit := m.unit.setQueue d.strand (d :: m.unit.queue d.strand) }

/-- LOOM_STEP_START: the step starts on every member once every member's engine has accepted its own; members that
disagree fault, and so does one whose loom is broken (R240, R241). -/
def execLoomStepStart (p : PillarId) (s : State) : Out :=
  match (s.pil p).mtx.loom, s.waitingStep p with
  | some l, some d =>
    if l.broken then .next (s.modPil p fun x => x.faultStep s.clk 7)
    else if s.stepStranded p l then .next (s.modPil p fun x => x.returnStep d)
    else if !(l.members.all fun q => (s.waitingStep q).isSome) then .next s
    else
      let bubble := l.members.any fun q => (((s.pil q).mtx.array).map (·.bubble)).getD false
      let agree := l.members.all fun q => ((s.waitingStep q).map loomKey) == some (loomKey d)
      .next (l.members.foldl (fun s q => s.modPil q fun x =>
        if agree then x.startStep (s.aclk q) bubble else x.faultStep s.clk 6) s)
  | _, _ => .next s

/-! ## Completion -/

/-- An array instruction has completed: its readers, its batch and its ring entry (R231, R233, R373). -/
def Pillar.retireMatrix (x : Pillar) (clk : Nat) (d : Dispatched) : Pillar :=
  let x := x.modMtx fun m =>
    ({ m with array := none } : MatrixEngine).modTiles (x.tilesOf d) fun h => { h with loom := false }
  x.discardMatrix clk d

/-- The instruction on the array leaves its result in the engine; one whose batch has been discarded changes no element of a tile
(R98). -/
def Pillar.arrayResult (x : Pillar) (m : MatrixEngine) : Pillar :=
  if (x.mtx.array.map (·.discarded)).getD false then
    { x with mtx := { m with tileBytes := x.mtx.tileBytes, tileBad := x.mtx.tileBad } }
  else { x with mtx := m }

/-- One step of an MMA or MMABS on a pillar: alone, or with the A slot of every member of its loom (R235, R240). -/
def State.stepMma (s : State) (p : PillarId) (d : Dispatched) (f : Fields) (scaled : Bool) (engines : List (MatrixEngine × Dispatched)) :
    State :=
  let g := geometryOf d.gt.bits
  s.modPil p fun x =>
    let m := (engines.zipIdx).foldl (fun m e =>
      runMma m e.1.1 d e.1.2 (f.dNum + e.2) scaled) x.mtx
    let clks := x.occupancy d
    (x.arrayResult m).countArray (g.m * g.n * g.k * engines.length) clks

/-- The members whose steps run with that of a pillar: itself alone, or its loom. -/
def State.stepMembers (s : State) (p : PillarId) (loom : Bool) : List PillarId :=
  if loom then (((s.pil p).mtx.loom).map (·.members)).getD [p] else [p]

/-- An MMA or MMABS completes, with the other members of a joint step (R235, R240). -/
def State.completeMma (s : State) (p : PillarId) (loom scaled : Bool) : State :=
  let ms := s.stepMembers p loom
  let ops := ms.filterMap fun q => ((s.pil q).mtx.array).map fun o => ((s.pil q).mtx, o.d)
  ms.foldl (fun r q =>
    match (s.pil q).mtx.array with
    | some o =>
      let f := match o.d.instr with | .mma f | .mmabs f => f | _ => {}
      (r.stepMma q o.d f scaled ops).modPil q fun x => x.retireMatrix s.clk o.d
    | none => r) s

/-- The next slice pair of a PMMA on one pillar; the group is zeroed before the first of a FIRST (R254). DEDUCED: a stop that is pending
as the last pair ends stops nothing, and the instruction completes (log entry 113). -/
def State.stepPmma (s : State) (p : PillarId) (a : MatrixEngine) (da : Dispatched) : State :=
  s.modPil p fun x =>
    match x.mtx.array with
    | some o =>
      match o.d.instr with
      | .pmma f =>
        let y := o.d.gt.bits
        let tiles := pmmaTiles o.d f
        let i := (x.mtx.tile f.dNum).pair
        let m := if i = 0 && bitOf y.toNat 22 then
            (tiles.foldl (fun m t => m.zeroTile t) x.mtx).modTiles tiles fun h => { h with steps := 0 }
          else x.mtx
        let pairs := slicePairs tiles.length
        let (pi, pj) := pairs.getD i (1, 1)
        let m := (runPair m a o.d da f pi pj).modTiles tiles fun h => { h with pair := i + 1 }
        let macs := (y.bits 5 0 + 1) * (y.bits 11 6 + 1) * (y.bits 18 12 + 1)
        let x := ((x.arrayResult m).countArray macs (x.occupancy o.d)).count 0x488
        if pairs.length ≤ i + 1 || (o.discarded && x.mtx.held) then
          (x.modMtx fun m => m.modTiles tiles fun h => { h with pair := 0, steps := h.steps + 1 }).retireMatrix s.clk o.d
        else if x.mtx.held then
          (x.modMtx fun m => { m with
            array := none
            unit := m.unit.setQueue o.d.strand (o.d :: m.unit.queue o.d.strand) }).count 0x48A
        else x.modMtx fun m => { m with array := some { o with due := s.aclk p + x.occupancy o.d } }
      | _ => x
    | none => x

/-- A slice pair of a PMMA is done, on every member of a joint step; the last completes it, and a pending stop saves it
at the head of its queue (R254, R255, R259). -/
def State.completePmma (s : State) (p : PillarId) (d : Dispatched) (loom : Bool) : State :=
  let ms := s.stepMembers p loom
  let root := if loom then ms.getD (d.gt.bits.bits 26 23) p else p
  let held := ms.any fun q => (s.pil q).mtx.held
  let s := if held then ms.foldl (fun s q => s.modPil q fun x => x.modMtx fun m => { m with held := true }) s else s
  match (s.pil root).mtx.array with
  | some o => ms.foldl (fun r q => r.stepPmma q (s.pil root).mtx o.d) s
  | none => s

/-- A row of a PJOIN is written; the last completes it, and a pending stop saves it before that (R256, R259; log entry 113). -/
def Pillar.completePjoin (x : Pillar) (clk now : Nat) (o : MatrixOp) (f : Fields) : Pillar :=
  let d := o.d
  let tiles := x.tilesOf d
  let row := (x.mtx.tile f.dNum).pair
  let x := ((x.joinRow d f row).modMtx fun m => m.modTiles tiles fun h => { h with pair := row + 1 }).countArray 0
    (x.occupancy d)
  if d.gs.bits.bits 41 36 ≤ row then
    ((x.modMtx fun m => m.modTiles tiles fun h => { h with pair := 0 }).retireMatrix clk d).count 0x48B
  else if x.mtx.held then
    (x.modMtx fun m => { m with
      array := none, unit := m.unit.setQueue d.strand (d :: m.unit.queue d.strand) }).count 0x48A
  else x.modMtx fun m => { m with array := some { o with due := now + x.occupancy d } }

/-- A PSPLIT completes, or ends with its late fault, its ply slots void (R250). -/
def Pillar.completePsplit (x : Pillar) (clk : Nat) (d : Dispatched) (f : Fields) : Pillar :=
  let y := x.countArray 0 (x.occupancy d)
  match runPsplit x.mtx (x.strand d.strand) d f with
  | .ok (m, t) => (((({ y with mtx := m } : Pillar).setStrand d.strand t).retireMatrix clk d)).count 0x489
  | .error (c, v) =>
    let void (m : MatrixEngine) : MatrixEngine :=
      (unpackSlots 16 d.aux).foldl (fun m j => m.modSlot j fun h => { h with state := 3, splitter := none }) m
    ((y.modMtx void).retireMatrix clk d).raiseLate d.strand (d.late c v)

/-- The instruction on the array completes, or its next pair or row is done (R231). -/
def State.completeArray (s : State) (p : PillarId) (o : MatrixOp) : State :=
  let d := o.d
  match d.instr with
  | .mma f => s.completeMma p (bitOf f.mod.toNat 6) false
  | .mmabs f => s.completeMma p (bitOf f.mod.toNat 6) true
  | .mmv f =>
    s.modPil p fun x =>
      let y := x.arrayResult (runMmv x.mtx (x.strand d.strand) d f)
      (y.countArray ((d.gs.bits.bits 24 19 + 1) * (d.gs.bits.bits 37 31 + 1)) (x.occupancy d)).retireMatrix s.clk d
  | .mzero f => s.modPil p fun x => ((x.arrayResult (x.mtx.zeroTile f.dNum)).countArray 0 8).retireMatrix s.clk d
  | .psplita f | .psplitb f => s.modPil p fun x => x.completePsplit s.clk d f
  | .pmma f => s.completePmma p d (bitOf f.mod.toNat 6)
  | .pjoin f => s.modPil p fun x => x.completePjoin s.clk (s.aclk p) o f
  | _ => s

/-- The instruction on the tile port completes (R228, R238, R242). -/
def Pillar.completePort (x : Pillar) (clk : Nat) (d : Dispatched) : Pillar :=
  let free (x : Pillar) : Pillar := x.modMtx fun m => { m with port := none }
  match d.instr with
  | .mld f => ((free (x.runMld d f)).modMtx fun m => m.endMove f.dNum).endSeq d.seq
  | .mst f => ((free (x.runMst d f)).modMtx fun m => m.endMove f.dNum).endSeq d.seq
  | .drain f =>
    let (b, bad) := moveOut x.mtx d f (typeCode (BitVec.ofNat 4 d.aux))
    (free x).modMtx fun m => { m.endMove f.dNum with drains := m.drains ++ [{ d := d, bytes := b, bad := bad }] }
  | .sldv f =>
    let j := (unpackSlots 16 d.slot).headD 0
    let r := x.mtx.readV (8192 * j + slotByte d.gs.bits)
    (((free x).modStrand d.strand fun t => t.setV f.dNum r).leaveSlots clk [j]).endSeq d.seq
  | .sstv f => ((free x).modMtx fun m => m.runSstv ((x.strand d.strand).vreg f.dNum) d f).endSeq d.seq
  | _ => x

/-- MATRIX_COMPLETE (R231). -/
def execMatrixComplete (p : PillarId) (u : MatrixUnit) (s : State) : Out :=
  let x := s.pil p
  match u with
  | .array =>
    match x.mtx.array with
    | some o => if o.started then .next (s.completeArray p o) else .next s
    | none => .next s
  | .port =>
    match x.mtx.port with
    | some o => .next (s.setPil p (x.completePort s.clk o.d))
    | none => .next s

/-! ## DRAIN's writes -/

/-- A whole row of a DRAIN into a local store, word by word, each set full (R242). -/
def State.drainLocal (s : State) (p q : PillarId) (a : Nat) (o : DrainOp) (off n : Nat) : Act State := do
  let q' ← s.lsTarget p q a n
  .ok (s.modPil q' fun x => (List.range (n / 8)).foldl (fun x i =>
    x.lsWriteFull (a + 8 * i) (o.bytes.read (off + 8 * i) 8) (o.bad.hasAny (off + 8 * i) 8)) x)

/-- Rows of a DRAIN are written in order, with how many bytes of each DRAM row it has written (R216); an error leaves the rows before
it (R242). -/
def State.drainRows (p : PillarId) (o : DrainOp) (f : Fields) : List Nat → State → NatMap Nat → State × Option Stop
  | [], s, _ => (s, none)
  | r :: rs, s, m =>
    let n := 64 * ((typeCode (BitVec.ofNat 4 o.d.aux)).width / 8)
    let pitch := o.d.gt.bits.bits 19 0
    let dst := o.d.gs.bits
    let step : Act (State × NatMap Nat) :=
      if bitOf f.mod.toNat 6 then do
        let s ← s.drainLocal p (BitVec.ofNat 10 (dst.bits 57 48)) (dst.bits 18 0 + r * pitch) o (r * n) n
        .ok (s, m)
      else s.writeBytes (s.opWalker p o.d (tile := false) (matched := o.matched)) (dst + word (r * pitch)) n o.bytes o.bad (r * n) m
    match step with
    | .ok (s, m) => State.drainRows p o f rs s m
    | .error e => (s, some e)

/-- The wake word of a DRAIN (R242). -/
def State.drainWake (s : State) (p : PillarId) (o : DrainOp) (f : Fields) : Act State :=
  let g := o.d.gt.bits
  if bitOf g.toNat 53 then do
    let q := BitVec.ofNat 10 (g.bits 63 54)
    let a := g.bits 52 34
    let q' ← s.lsTarget p q a 8
    .ok (s.modPil q' fun x => x.lsWriteFull a (p.toNat * 16 + f.dNum) false)
  else .ok s

/-- The writes of a DRAIN leave the doubled rectangle of its twinned job (R397). -/
def State.drainOutgoing (s : State) (p : PillarId) (o : DrainOp) (f : Fields) : Bool :=
  if bitOf f.mod.toNat 6 then s.outgoing p (.localStore (BitVec.ofNat 10 (o.d.gs.bits.bits 57 48)) 0)
  else
    match s.target (s.engineWalker p o.d.lvl false) .write o.d.gs.bits with
    | .ok (pa, _) => s.outgoing p (placeOf pa)
    | .error _ => false

/-- The DRAIN's ports: its writes go out, and after the last acknowledgement the wake word (R242). -/
def State.drainOut (s : State) (p : PillarId) (o : DrainOp) (f : Fields) : State :=
  let drop (s : State) : State := s.modPil p fun x => x.modMtx fun m => { m with drains := m.drains.filter (· != o) }
  let done (s : State) : State := (drop s).modPil p fun x => (x.endSeq o.d.seq).count 0x487
  let silent := s.drainOutgoing p o f && (s.inRightHalf p || !o.matched && s.discards p o.d.strand)
  if silent then done s
  else
    match State.drainRows p o f (List.range (moveRows f)) s {} with
    | (s', some e) => (s.holdOff e).getD ((drop s').raiseStop p o.d.strand o.d.seq o.d.lvl e)
    | (s', none) =>
      match s'.drainWake p o f with
      | .ok s' => done s'
      | .error e => (s.holdOff e).getD ((drop s').raiseStop p o.d.strand o.d.seq o.d.lvl e)

/-- DRAIN_WRITES_DONE: the writes of a strand's oldest DRAIN are all acknowledged and its wake word is written (R242); in
a twinned job they wait for the twin's (R397). -/
def execDrainWritesDone (p : PillarId) (t : StrandId) (s : State) : Out :=
  match (s.pil p).mtx.drains.find? fun o => o.d.strand == t with
  | none => .next s
  | some o =>
    match o.d.instr with
    | .drain f =>
      if s.wormHeld p t then .next s
      else if s.drainOutgoing p o f && !o.matched && !s.discards p t then
        let flits := [o.d.gs.bits, o.d.gt.bits] ++ (List.range 2048).map fun i => word (o.bytes.read (8 * i) 8)
        .next ((s.holdWorm p t o.d.ord flits o.d.seq o.d.lvl).modPil p fun x => x.modMtx fun m =>
          { m with drains := m.drains.map fun q => if q == o then { q with matched := true } else q })
      else .next (s.drainOut p o f)
    | _ => .next s

end Sys2Proof.Machine
end

