-- ==== Sys2Proof/Machine/Messages.lean ====
section
/-! DEFINITION. Messages, the message port, the vault agents and their procedures, and combining
(12_mesh_messages.md R289-R315, 17_host_pod.md R409, R417). -/

namespace Sys2Proof.Machine

/-! ## Completion of a strand's work -/

/-- Tile loads and copies of a strand that have not ended (R97). -/
def Pillar.tilePending (x : Pillar) (t : StrandId) : Bool :=
  ((x.tile.unit.queue t).any fun d => (tileKind d.instr).isSome) || x.tile.ops.any (fun o => o.d.strand == t) ||
    (x.strand t).stoppedOp.isSome

/-- Every earlier store, procedure, DRAIN, tile load, shuttle command and committed batch of the strand has completed
(R97). -/
def State.workDone (s : State) : Bool :=
  let x := s.me
  let t := s.curT
  s.st.stores.isEmpty && x.outstandingOf t == 0 && x.drainsOf t == 0 && !x.tilePending t &&
    (x.commands.toList.all fun c => c.strand != t || c.free) && s.st.batches.committed.isEmpty

/-! ## Ending -/

/-- A page 9 instruction is no longer outstanding (R303). -/
def Pillar.endProc (x : Pillar) (t : StrandId) (seq : BitVec 16) : Pillar :=
  { x with msg := { x.msg with outstanding := x.msg.outstanding.filter fun e => e != (t, seq) } }

/-- The registers that an instruction writes when its response comes (R303, R307). -/
def returns (i : Instr) : List Nat :=
  match i with
  | .rld f | .rcas f => [f.dNum]
  | .ramo f | .rfadd f | .rdecw f => if bitOf f.flags 0 then [] else [f.dNum]
  | .rwrd f => [f.dNum, f.dNum + 1]
  | _ => []

/-- The registers of an instruction stop being pending (R303). -/
def Strand.unpend (r : Strand) (ds : List Nat) : Strand := { r with pending := ds.foldl (fun l d => l.erase d) r.pending }

/-- A procedure or message ends with a late fault (R303, R297). -/
def State.failProc (s : State) (p : PillarId) (t : StrandId) (seq : BitVec 16) (lvl : BitVec 2) (i : Instr) (e : Stop) :
    State :=
  let s := s.modPil p fun x => (x.endProc t seq).modStrand t fun r => r.unpend (returns i)
  s.raiseStop p t seq lvl e

/-- A procedure or message ends well (R303). -/
def State.endProcOk (s : State) (p : PillarId) (t : StrandId) (seq : BitVec 16) : State :=
  s.modPil p fun x => (x.endProc t seq).endSeq seq

/-! ## Dispatch -/

/-- There is room for one more page 9 procedure of the strand (R93, R303). -/
def State.procRoom (s : State) : Act Unit := do
  waitFor (s.me.outstandingOf s.curT < 16)
  s.room .message

/-- Dispatch to the message port, with two numbers that it fixes (R93, R303). -/
def State.dispatchProc (s : State) (i : Instr) (slot aux : Nat) : State :=
  let d := { s.capture i with slot := slot, aux := aux }
  let s := s.dispatchAs .message d
  let s := s.modMe fun x => { x with msg := { x.msg with outstanding := x.msg.outstanding ++ [(s.curT, d.seq)] } }
  (returns i).foldl (fun s d => s.pend d) s

/-- A register value and its mark as one number. -/
def packValue (v : PWord) : Nat := v.bits.toNat + 2 ^ 64 * boolNat v.bad

/-- The value of such a number. -/
def unpackValue (n : Nat) : PWord := pword (word n) (bitOf n 64)

/-- The R-family M forms (R303): address, alignment, dispatch. -/
def remoteForm (i : Instr) (f : Fields) (align : Nat) (s : State) : Out :=
  finish i s do
    (returns i).forM fun d => s.destOk d
    let va ← s.mAddr f
    check (va.toNat % align == 0) 0x1A va
    s.procRoom
    .ok (s.dispatchProc i va.toNat (packValue (s.g (f.dNum + 1))))

/-- The bytes of an integer type. -/
def bytesOf (t : EType) : Nat := t.width / 8

/-- RLD (R304). -/
def execRld (f : Fields) (s : State) : Out := remoteForm (.rld f) f (bytesOf (typeOf .i64 f)) s

/-- RST (R304). -/
def execRst (f : Fields) (s : State) : Out := remoteForm (.rst f) f (bytesOf (typeOf .i64 f)) s

/-- RAMO (R305). -/
def execRamo (f : Fields) (s : State) : Out := remoteForm (.ramo f) f (sizeOf f.mod) s

/-- RCAS (R305). -/
def execRcas (f : Fields) (s : State) : Out := remoteForm (.rcas f) f (sizeOf f.mod) s

/-- RDECW (R306). -/
def execRdecw (f : Fields) (s : State) : Out := remoteForm (.rdecw f) f 16 s

/-- RWADD (R307). -/
def execRwadd (f : Fields) (s : State) : Out := remoteForm (.rwadd f) f 64 s

/-- RWRD (R307). -/
def execRwrd (f : Fields) (s : State) : Out := remoteForm (.rwrd f) f 64 s

/-- RFADD (R304). -/
def execRfadd (f : Fields) (s : State) : Out := remoteForm (.rfadd f) f (bytesOf (typeOf .f64 f)) s

/-- RFILL (R304): its address is not translated. -/
def execRfill (f : Fields) (s : State) : Out :=
  finish (.rfill f) s do
    let va ← s.mAddr f
    check (va.bits 63 58 == 0 && va.bits 47 19 == 0 && va.bits 2 0 == 0) 0x61 2
    s.procRoom
    .ok (s.dispatchProc (.rfill f) va.toNat 0)

/-- RSIG (R309). -/
def execRsig (f : Fields) (s : State) : Out :=
  finish (.rsig f) s do
    let a := (s.g (rrA f)).bits
    check (a.bits 63 10 == 0) 0x61 2
    s.procRoom
    .ok (s.dispatchProc (.rsig f) a.toNat (packValue (s.g (rrB f))))

/-- RCOPY (R308). -/
def execRcopy (f : Fields) (s : State) : Out :=
  finish (.rcopy f) s do
    let a := (s.g (rrA f)).bits
    let b := (s.g (rrB f)).bits
    check (a.toNat % 64 == 0) 0x1A a
    check (b.bits 63 58 == 0 && b.bits 47 45 == 0 && b.bits 31 19 == 0 && b.bits 5 0 == 0 &&
      (1 ≤ b.bits 44 32 && b.bits 44 32 ≤ 6144)) 0x61 3
    s.procRoom
    .ok (s.dispatchProc (.rcopy f) a.toNat b.toNat)

/-- RWAIT (R310): in fibre code it parks. -/
def execRwait (f : Fields) (s : State) : Out :=
  finishAt (.rwait f) s do
    s.destOk f.dNum
    let limit := (s.g f.sNum).bits.bits 4 0
    let n := s.me.outstandingOf s.curT
    if n ≤ limit && s.st.deliverable.isNone then .ok ((s.setGw f.dNum (word n)).setPc (s.nextPc (.rwait f)))
    else if s.st.inFibre && s.st.deliverable.isNone then
      .ok (s.park (s.nextPc (.rwait f)) (.procedures s.curT limit f.dNum))
    else .error .wait

/-! ## SEND, RECV -/

/-- The fields of SEND's operands obey the rules of R299. -/
def sendFields (a b : Word) (m : BitVec 7) : Bool :=
  a.bits 63 11 == 0 && (!bitOf a.toNat 10 || (a.bits 9 4 == 0 && bitsOf m.toNat 1 0 == 0)) &&
    b.bits 63 29 == 0 && b.bits 2 0 == 0 && b.bits 21 19 == 0 && b.bits 28 19 ≤ 512

/-- SEND (R299). -/
def execSend (f : Fields) (s : State) : Out :=
  finish (.send f) s do
    let a := (s.g (rrA f)).bits
    let b := (s.g (rrB f)).bits
    check (sendFields a b f.mod) 0x61 1
    let len := b.bits 28 19
    match (if len = 0 then none else s.me.lsFault (b.bits 18 0) len) with
    | some c => .error (.trap c (word (b.bits 18 0)))
    | none => .ok ()
    if bitOf f.mod.toNat 2 then waitFor (s.workDone && s.fenceDone 4 15)
    s.procRoom
    .ok (s.dispatchProc (.send f) a.toNat b.toNat)

/-- An inbox of a pillar. -/
def Pillar.inbox (x : Pillar) (n : Nat) : Inbox := x.msg.inboxes[n]?.getD {}

/-- Changes an inbox of a pillar. -/
def Pillar.modInbox (x : Pillar) (n : Nat) (f : Inbox → Inbox) : Pillar :=
  { x with msg := { x.msg with inboxes := x.msg.inboxes.setIfInBounds n (f (x.inbox n)) } }

/-- Writes a payload word by word, each word full (R300). -/
def Pillar.writePayload (x : Pillar) : Nat → List PWord → Pillar
  | _, [] => x
  | a, v :: vs => (x.lsWriteFull a v.bits.toNat v.bad).writePayload (a + 8) vs

/-- What RECV returns of a message (R300). -/
def Message.receipt (m : Message) : Word := word (m.src + boolNat m.fromHost * 2 ^ 10 + m.len * 2 ^ 16)

/-- RECV and RECVP (R300). -/
def receive (i : Instr) (f : Fields) (poll : Bool) (s : State) : Out :=
  finish i s do
    s.destOk f.dNum
    let a := (s.g f.sNum).bits
    check (a.bits 63 19 == 0 && a.bits 2 0 == 0) 0x61 1
    match s.me.lsFault a.toNat 512 with
    | some c => .error (.trap c a)
    | none => .ok ()
    let n := bitsOf f.mod.toNat 1 0
    match (s.me.inbox n).messages with
    | [] => if poll then .ok (s.setGw f.dNum (-1)) else .error .wait
    | m :: ms =>
      s.vectorDone a.toNat m.len
      let s := s.modMe fun x => (x.modInbox n fun b => { b with messages := ms }).writePayload a.toNat m.payload
      .ok (((s.setGw f.dNum m.receipt).count 0x4A1).issueAfter (3 + ceilDiv m.len 64))

/-- RECV (R300). -/
def execRecv (f : Fields) (s : State) : Out := receive (.recv f) f false s

/-- RECVP (R300). -/
def execRecvp (f : Fields) (s : State) : Out := receive (.recvp f) f true s

/-! ## The message port accepts -/

/-- The words of a payload as they stand (R294). -/
def Pillar.payload (x : Pillar) (a len : Nat) : List PWord :=
  (List.range (len / 8)).map fun i => let v := x.ls.load (a + 8 * i) 8; pword (word v.1) v.2

/-- The flits that a twinned message is compared by (R397). -/
def Message.flits (m : Message) : List Word :=
  [word (m.dst + boolNat m.toHost * 2 ^ 10 + m.inbox.toNat * 2 ^ 11), word m.len] ++ m.payload.map (·.bits)

/-- The message leaves the doubled rectangle (R397). -/
def State.messageOutgoing (s : State) (p : PillarId) (m : Message) : Bool :=
  m.toHost && s.twinned p || (!m.toHost && s.outgoing p (.signal (BitVec.ofNat 10 m.dst)))

/-- The port accepts a SEND: an outbox entry with the payload (R294, R299). -/
def State.acceptSend (s : State) (p : PillarId) (d : Dispatched) (f : Fields) : Option State :=
  let x := s.pil p
  let a := word d.slot
  let b := word d.aux
  if x.msg.outbox.length ≥ 8 then none
  else
    let words := x.payload (b.bits 18 0) (b.bits 28 19)
    let host := bitOf d.slot 10
    let dst := if host then a.bits 3 0 else (s.redirect p (BitVec.ofNat 10 (a.bits 9 0))).toNat
    let m : Message :=
      { src := p.toNat, strand := d.strand, dst := dst, toHost := host
        inbox := BitVec.ofNat 2 (bitsOf f.mod.toNat 1 0), len := b.bits 28 19, payload := words, seq := d.seq
        lvl := d.lvl }
    let out := s.messageOutgoing p m
    if host && words.any (·.bad) then
      some (s.failProc p d.strand d.seq d.lvl d.instr (.trap 0x0D (poisonData (word (b.bits 18 0)))))
    else if out && s.discards p d.strand then some (s.endProcOk p d.strand d.seq)
    else
      let e : OutboxEntry := { number := x.msg.nextNumber, msg := m, phase := if out then .held else .ready }
      let s := s.setPil p { x with msg := { x.msg with
        outbox := x.msg.outbox ++ [e], nextNumber := x.msg.nextNumber + 1 } }
      some (if out then s.holdWorm p d.strand d.ord m.flits d.seq d.lvl else s)

/-- The bytes that a memory procedure reads or writes at once (R304-R307). -/
def procBytes : Instr → Nat
  | .rld f | .rst f => bytesOf (typeOf .i64 f)
  | .ramo f | .rcas f => sizeOf f.mod
  | .rfadd f => bytesOf (typeOf .f64 f)
  | .rdecw _ => 16
  | _ => 64

/-- A memory procedure writes (R304-R307). -/
def procWrites : Instr → Bool
  | .rld _ | .rcopy _ => false
  | .rwrd f => bitOf f.flags 1
  | _ => true

/-- The regions that support a procedure (R301). -/
def procSupported (i : Instr) (region : Nat) : Bool :=
  match i with
  | .ramo _ | .rcas _ => region ≤ 2
  | .rfadd _ => region ≤ 1
  | .rdecw _ | .rwadd _ | .rwrd _ => region == 0
  | _ => true

/-- An f32 contribution as an integer in units of 2^-149, with its marks NaN, +∞, −∞ (R312). -/
def contribution (bits : Nat) : Int × BitVec 3 :=
  match valueOf .f32 (bits % 2 ^ 32) with
  | .nan => (0, 1)
  | .inf s => (0, if s then 4 else 2)
  | .fin s m e => ((FVal.fin s m e).atExp (-149), 0)

/-- The checks of a memory procedure at a translated address (R301, R303, R411). -/
def procChecks (i : Instr) (lvl : BitVec 2) (pa : Nat) (va : Word) (x y : PWord) : Act Unit := do
  let region := pa / 2 ^ 46 % 4
  check (procSupported i region) 0x60 (reachTval 3 va)
  deviceCheck lvl.toNat (procBytes i) pa va
  let bad := match i with | .rcas _ => x.bad || y.bad | _ => x.bad
  check (!(procWrites i && 2 ≤ region && bad)) 0x0D (poisonData va)

/-- The procedure that the port sends for an instruction. -/
def State.procOf (s : State) (p : PillarId) (d : Dispatched) (pl : Place) (va : Word) (x y : PWord) : Procedure :=
  let (sum, marks) := contribution x.bits.toNat
  { p := p, t := d.strand, seq := d.seq, lvl := d.lvl, instr := d.instr, place := pl, va := va, x := x, y := y
    vrm := BitVec.ofNat 2 d.vrm, sum := sum, marks := marks, ord := d.ord, sent := s.aclk p }

/-- The bytes of g[d] that a procedure carries (R304-R309). -/
def carriedBytes : Instr → Nat
  | .rst f => bytesOf (typeOf .i64 f)
  | .ramo f | .rcas f => sizeOf f.mod
  | .rfadd f => bytesOf (typeOf .f64 f)
  | .rwadd f => if bitOf f.flags 1 then 8 else bytesOf (typeOf .f64 f)
  | .rfill _ | .rsig _ => 8
  | _ => 0

/-- The flits that a twinned procedure is compared by (R397): what it is, its target, and the data that it carries. -/
def Procedure.flits (r : Procedure) : List Word :=
  let carried (v : PWord) : Word := word (v.bits.toNat % 2 ^ (8 * carriedBytes r.instr))
  let y := match r.instr with | .rcas _ => carried r.y | .rcopy _ => r.y.bits | _ => 0
  [procCode r.instr, r.va, carried r.x, y]

/-- A place as a physical address. -/
def placePa : Place → Nat
  | .vault q off => vaultPa q off
  | .tier a => tierBase + a
  | .peer n off => 2 * 2 ^ 46 + n.toNat * 2 ^ 36 + off
  | .device off => 3 * 2 ^ 46 + off
  | .host a => 3 * 2 ^ 46 + 2 ^ 45 + a
  | .localStore _ a => a
  | .signal _ => 0

/-- A procedure that writes leaves the package, with its egress number and its entry in the egress log (R406). -/
def State.logProc (s : State) (r : Procedure) : State :=
  if !procWrites r.instr then s
  else
    match r.place with
    | .peer _ _ => s.logEgress r.p 2 (procBytes r.instr) (word (placePa r.place))
    | .host _ => s.logEgress r.p 3 (procBytes r.instr) (word (placePa r.place))
    | _ => s

/-- Sends a procedure, or holds it until its peer has room for it (R421); a worm of a twinned job that leaves it is compared first, or
discarded (R397). -/
def State.sendProc (s : State) (r : Procedure) (out : Bool) : State :=
  let add (s : State) (ph : ProcPhase) : State := { s with procs := s.procs ++ [{ r with phase := ph }] }
  if out && s.discards r.p r.t then
    let (s, v) := s.freeValue 8
    add s (.performed { bits := word v } { bits := word v })
  else if out then (add s .held).holdWorm r.p r.t r.ord r.flits r.seq r.lvl
  else if s.peerFull r.place then add s .queued
  else (add s .sent).logProc r

/-- The first request that is held for a peer goes out once there is room (R421). -/
def State.sendQueued (s : State) (peer : BitVec 10) : State :=
  match s.procs.find? fun r => r.phase == .queued && r.goesTo peer with
  | some r =>
    if s.peerLoad peer < 256 then
      State.logProc
        { s with procs := s.procs.map fun q => if q == r then { r with phase := .sent, sent := s.aclk r.p } else q } r
    else s
  | none => s

/-- The place that a procedure of a pillar really has: in the right half of a twinned job, at the twin (R399). -/
def State.redirectPlace (s : State) (p : PillarId) : Place → Place
  | .vault q off => .vault (s.redirect p q) off
  | pl => pl

/-- The port accepts a procedure on translated memory (R303), or waits for its translation. -/
def State.acceptMemory (s : State) (p : PillarId) (d : Dispatched) : Act State :=
  let va := word d.slot
  let w := s.opWalker p d (tile := false)
  let x := match d.instr with | .rcopy _ => {} | _ => d.gd
  let y := match d.instr with | .rcas _ => unpackValue d.aux | .rcopy _ => { bits := word d.aux } | _ => {}
  let r : Act State := do
    let (pa, e) ← s.target w (if procWrites d.instr then .write else .read) va
    procChecks d.instr d.lvl pa va x y
    let s := (s.noteXlate w e).noteForward p e.pa
    let away := match d.instr with
      | .rcopy _ => s.outgoing p (.signal (s.redirect p (BitVec.ofNat 10 ((word d.aux).bits 57 48))))
      | _ => false
    let pl := s.redirectPlace p (placeOf e.pa)
    .ok (s.sendProc (s.procOf p d pl va x y) (s.outgoing p pl || away))
  match r with
  | .ok s => .ok s
  | .error e =>
    if (s.holdOff e).isSome then .error e
    else .ok ((s.noteAttempt w (if procWrites d.instr then .write else .read) va).failProc p d.strand d.seq d.lvl d.instr e)

/-- The port accepts a procedure on a pillar named directly (R304, R309). -/
def State.acceptDirect (s : State) (p : PillarId) (d : Dispatched) : State :=
  let a := word d.slot
  match d.instr with
  | .rfill _ =>
    let q := s.redirect p (BitVec.ofNat 10 (a.bits 57 48))
    let pl := Place.localStore q (a.bits 18 0)
    s.sendProc (s.procOf p d pl a d.gd {}) (s.outgoing p pl)
  | _ =>
    let q := s.redirect p (BitVec.ofNat 10 (a.bits 9 0))
    s.sendProc (s.procOf p d (.signal q) a (unpackValue d.aux) {}) (s.outgoing p (.signal q))

/-- The port accepts an instruction, or the instruction stays at the head of its queue (R94, R294, R303). -/
def State.acceptMessageInstr (s : State) (p : PillarId) (d : Dispatched) : Act State :=
  match d.instr with
  | .send f => (match s.acceptSend p d f with | some s => .ok s | none => .error .wait)
  | .rfill _ | .rsig _ => .ok (s.acceptDirect p d)
  | _ => s.acceptMemory p d

/-- The port takes the head of a strand's queue, if it can. -/
def State.acceptMessageOf (s : State) (p : PillarId) (t : StrandId) : Act State :=
  let x := s.pil p
  match x.msg.unit.queue t with
  | [] => .error .wait
  | d :: q =>
    State.acceptMessageInstr
      (s.setPil p { x with msg := { x.msg with unit := { x.msg.unit.setQueue t q with last := t } } }) p d

/-- The message port accepts an instruction (R93, R94); if none can go, the heads that need the host's translations ask for
them (R348). -/
def State.acceptMessage (s : State) (p : PillarId) : State :=
  let order := roundRobin (s.pil p).msg.unit.last
  match order.findSome? fun t => (s.acceptMessageOf p t).toOption with
  | some s => s
  | none =>
    order.foldl (fun s t => match s.acceptMessageOf p t with | .error e => (s.holdOff e).getD s | .ok _ => s) s

/-! ## The vault agent -/

/-- The service pillar of a stack (R409). -/
def servicePillar (st : Nat) : PillarId := BitVec.ofNat 10 (st * 256 + 7 * 16 + 8)

/-- The pillar at which a procedure is performed (R301, R409). -/
def State.agentOf (s : State) : Place → PillarId
  | .vault q _ | .localStore q _ | .signal q => q
  | .tier a => servicePillar (tierStack a)
  | .peer n _ => servicePillar (s.peerStack n)
  | .device _ | .host _ => servicePillar 0

/-- What a request that was merged into another ends with as that ends: its own VA stands in the TVAL of a failure (R311, R312). -/
def ProcPhase.sharedBy (ph : ProcPhase) (r q : Procedure) : ProcPhase :=
  match ph with
  | .failed c v =>
    if q.va == r.va then ph
    else if c == 0x60 || c == 0x68 || c == 0x69 then .failed c (reachTval (v.bits 63 60) q.va)
    else .failed c q.va
  | _ => ph

/-- A procedure has been performed, or has failed; the requests merged into it end with it (R301, R312). -/
def State.setPhase (s : State) (r : Procedure) (ph : ProcPhase) : State :=
  let key := ProcPhase.merged r.p r.t r.seq
  { s with procs := s.procs.map fun q =>
      if q.p == r.p && q.t == r.t && q.seq == r.seq then { q with phase := ph }
      else if q.phase == key then { q with phase := ph.sharedBy r q }
      else q }

/-- A failure of a procedure at its target (R311). -/
abbrev ProcFail := BitVec 8 × Word

/-- What a procedure gives when performed: the state, and up to two results. -/
abbrev ProcResult := Except ProcFail (State × PWord × PWord)

/-- RAMO, RCAS, RLD and RST on bytes of a vault or the tier (R304, R305). -/
def State.performPlain (s : State) (r : Procedure) (pa : Nat) (o : MemOp) (x y : PWord) : ProcResult :=
  let (s, old) := s.performMem [] o pa x y
  let v := match r.instr with
    | .rld f =>
      let t := typeOf .i64 f
      pword (extend (isSignedType t) (bytesOf t) old.1) old.2
    | _ => o.value old
  .ok (s, v, {})

/-- The access of a plain procedure. -/
def procOp : Instr → Option MemOp
  | .rld f => some { op := .load, n := bytesOf (typeOf .i64 f), signed := isSignedType (typeOf .i64 f), d := f.dNum }
  | .rst f => some { op := .store, n := bytesOf (typeOf .i64 f), signed := false, d := f.dNum }
  | .ramo f => some (orderOp (.amo (bitsOf f.mod.toNat 6 3)) f)
  | .rcas f => some (orderOp .cas f)
  | _ => none

/-- RFADD on bytes of a vault or the tier (R304). -/
def State.performFadd (s : State) (r : Procedure) (pa : Nat) (t : EType) : ProcResult :=
  let n := bytesOf t
  let (old, bad) := s.physRead pa n
  let v := encodeValue t r.vrm.toNat false (sumExact r.vrm.toNat [valueOf t old, valueOf t (r.x.bits.toNat % 2 ^ (8 * n))])
  .ok ((s.useRow pa).physWrite pa n v (bad || r.x.bad), pword (word old) bad, {})

/-- RDECW at a vault (R306). -/
def State.performDecw (s : State) (r : Procedure) (q : PillarId) (pa : Nat) : ProcResult :=
  let (c, bad) := s.physRead pa 8
  let wake := s.mem.read (pa + 8) 8
  let a := bitsOf wake 18 0
  if bitsOf wake 31 19 != 0 || a % 8 != 0 || ((s.pil q).lsFault a 8).isSome then .error (0x60, reachTval 4 r.va)
  else
    let ci := sextNat c 64
    let s := (s.useRow pa).physWrite pa 8 (lowBits (ci - r.k) 64) bad
    let due := 0 < ci && ci - r.k ≤ 0 && bitOf wake 63
    let s := if due then (s.physWrite (pa + 8) 8 (wake - 2 ^ 63) bad).modPil q fun x => x.lsWriteFull a (bitsOf wake 62 32) bad
      else s
    .ok (s, pword (word c) bad, {})

/-- The header that RWADD.init writes describes a cell of a type without flags (R307). -/
def initOk (h : Nat) (t : EType) : Bool := cellType h == some t && bitsOf h 4 0 == 0

/-- RWADD at a vault (R307, R68, R312). -/
def State.performWadd (s : State) (r : Procedure) (pa : Nat) (f : Fields) : ProcResult :=
  let t := typeOf .f64 f
  let fail : ProcResult := .error (0x60, reachTval 2 r.va)
  if bitOf f.flags 1 then
    if initOk r.x.bits.toNat t then
      .ok ((s.useRow pa).physWrite pa 64 (r.x.bits.toNat * 2 ^ 448) r.x.bad, {}, {})
    else fail
  else
    let (c, bad) := s.physRead pa 64
    if cellType (cellHeader c) != some t then fail
    else
      let c' :=
        if t = .f32 then
          lowBits (cellV c + r.sum) 448 + (cellHeader c ||| r.marks.toNat) * 2 ^ 448
        else cellAdd c (valueOf t r.x.bits.toNat)
      .ok ((s.useRow pa).physWrite pa 64 c' (bad || r.x.bad), {}, {})

/-- RWRD at a vault (R307, R69). -/
def State.performWrd (s : State) (r : Procedure) (pa : Nat) (f : Fields) : ProcResult :=
  let t := typeOf .f64 f
  let (c, bad) := s.physRead pa 64
  let h := cellHeader c
  if cellType h != some t then .error (0x60, reachTval 2 r.va)
  else
    let v := encodeValue t r.vrm.toNat false (cellRead c r.vrm.toNat)
    let s := s.useRow pa
    let s := if bitOf f.flags 1 then s.physWrite pa 64 ((h - bitsOf h 4 0) * 2 ^ 448) bad else s
    .ok (s, pword (word v) bad, pword (word (bitsOf h 4 0)) bad)

/-- A procedure at a peer, the host or a device register (R301, R411). -/
def State.performAway (s : State) (r : Procedure) (pl : Place) : ProcResult :=
  let n := procBytes r.instr
  match pl with
  | .device off =>
    let v := s.devReadAt r.lvl.toNat off
    .ok (if procWrites r.instr then s.devWrite r.lvl.toNat off r.x.bits else s, { bits := v }, {})
  | _ =>
    let (s, v) := s.freeValue n
    let signed := match r.instr with | .rld f => isSignedType (typeOf .i64 f) | .ramo f | .rcas f => signedOf f.mod | _ => false
    .ok (s, { bits := extend signed n v }, {})

/-- RFILL and RSIG at their pillar (R304, R309, R403). -/
def State.performDirect (s : State) (r : Procedure) (pl : Place) : ProcResult :=
  match pl with
  | .localStore q a =>
    match s.lsTarget r.p q a 8 with
    | .ok q => .ok (s.modPil q fun x => x.lsWriteFull a r.x.bits.toNat r.x.bad, {}, {})
    | .error (.trap c v) => .error (c, v)
    | .error _ => .ok (s, {}, {})
  | .signal q =>
    let q' := s.forward q
    match s.reachPillar r.p q' with
    | .ok () => .ok (s.modPil q' fun x => { x with signal := x.signal ||| r.x.bits }, {}, {})
    | .error (c, e) => .error (c, lsTval e q 0)
  | _ => .ok (s, {}, {})

/-- The router of a migrated pillar counts a procedure that names it directly (R390, R394). -/
def State.noteProc (s : State) (r : Procedure) : State :=
  match r.place with
  | .localStore q _ | .signal q => s.countForward q
  | _ => s

/-- A procedure at its place (R301). -/
def State.performProc (s : State) (r : Procedure) : ProcResult :=
  match r.place with
  | .localStore _ _ | .signal _ => s.performDirect r r.place
  | pl =>
    let pa := placePa pl
    match s.reach r.p pa r.va with
    | .error (.trap c v) => .error (c, v)
    | .error _ => .ok (s, {}, {})
    | .ok pa =>
      match placeOf pa with
      | .vault q _ =>
        match r.instr with
        | .rfadd f => s.performFadd r pa (typeOf .f64 f)
        | .rdecw _ => s.performDecw r q pa
        | .rwadd f => s.performWadd r pa f
        | .rwrd f => s.performWrd r pa f
        | i => match procOp i with
          | some o => s.performPlain r pa o r.x r.y
          | none => .ok (s, {}, {})
      | .tier _ =>
        match r.instr with
        | .rfadd f => s.performFadd r pa (typeOf .f64 f)
        | i => match procOp i with
          | some o => s.performPlain r pa o r.x r.y
          | none => .ok (s, {}, {})
      | pl => s.performAway r pl

/-- RCOPY copies its next word, which its destination sets full (R308): one of the parts in which its effect may be seen (R319). A beat
of the source's bus brings 128 bytes, and a request of up to 512 goes to the destination. The fault of the destination comes beside the
state after the read. -/
def State.performCopy (s : State) (r : Procedure) : Act (State × Option Stop) := do
  let w := s.engineWalker r.p r.lvl false
  let va := r.va + word r.progress
  let (s, v, bad) ← s.readPart w .read va 8 (r.progress == 0 || va.toNat % 128 == 0)
  let a := r.y.bits.bits 18 0 + r.progress
  let dst := BitVec.ofNat 10 (r.y.bits.bits 57 48)
  let s := if r.progress % 512 == 0 then s.noteRewrite r.p dst else s
  match s.lsTarget r.p dst a 8 with
  | .ok q => .ok (s.modPil q fun x => x.lsWriteFull a v !bad.isEmpty, none)
  | .error e => .ok (s, some e)

/-- Where the next part of a copy is read. -/
def State.copyPlace (s : State) (r : Procedure) : Place :=
  match s.target (s.engineWalker r.p r.lvl false) .read (r.va + word r.progress) with
  | .ok (_, x) => s.redirectPlace r.p (placeOf x.pa)
  | .error _ => r.place

/-- An RCOPY stops, or waits (R308, R352). -/
def State.stopCopy (s : State) (r : Procedure) (e : Stop) : State :=
  let w := s.engineWalker r.p r.lvl false
  match e with
  | .wait => s
  | .ats w va => s.askAts w va
  | .trap c v => ((s.noteFault w (.trap c v)).noteAttempt w .read (r.va + word r.progress)).setPhase r (.failed c v)
  | .pageFault c va write => ((s.noteMiss w va).requestFor r.p r.t va write).setPhase r (.failed c va)

/-- A step of an RCOPY (R308): a failure stops it, with the blocks before it written. -/
def State.copyStep (s : State) (r : Procedure) : State :=
  match s.performCopy r with
  | .error e => s.stopCopy r e
  | .ok (s, some e) => s.stopCopy r e
  | .ok (s, none) =>
    let r' := { r with progress := r.progress + 8 }
    if r'.progress ≥ 64 * r.y.bits.bits 44 32 then s.setPhase r (.performed {} {})
    else
      let r' := { r' with place := s.copyPlace r', sent := s.aclk r.p }
      { s with procs := s.procs.map fun q => if q == r then r' else q }

/-- The pillar at which a procedure is performed, past a forwarding of its target (R301, R389). -/
def State.procAgent (s : State) (r : Procedure) : PillarId :=
  s.agentOf (match r.place with
    | .vault q o => .vault (s.forward q) o
    | .localStore q a => .localStore (s.forward q) a
    | .signal q => .signal (s.forward q)
    | pl => pl)

/-- A procedure has ended. -/
def ProcPhase.ended : ProcPhase → Bool
  | .performed _ _ | .failed _ _ => true
  | _ => false

/-- The agent of a pillar counts a procedure once it has executed it, or its own part of a copy (R308, R314). -/
def State.countAgent (s : State) (p : PillarId) (r : Procedure) : State :=
  let isOver := s.procs.any fun q => q.p == r.p && q.t == r.t && q.seq == r.seq && (q.phase.ended || s.procAgent q != p)
  match r.place with
  | .vault _ _ | .localStore _ _ | .signal _ => if isOver then s.modPil p fun x => x.count 0x4A3 else s
  | _ => s

/-- A procedure waits until the second tier is ready, or until a port can carry it to its peer (R419, R423). -/
def State.procWaits (s : State) (r : Procedure) : Bool :=
  match r.place with
  | .localStore _ _ | .signal _ => false
  | .peer _ _ => !s.portUp
  | pl => (match s.reach r.p (placePa pl) r.va with | .error .wait => true | _ => false)

/-- A procedure other than a copy is performed whole (R301). -/
def State.performWhole (s : State) (r : Procedure) : State :=
  let s := s.noteProc r
  match s.performProc r with
  | .error (c, v) => s.setPhase r (.failed c v)
  | .ok (s, a, b) => s.setPhase r (.performed a b)

/-- The agent of a pillar, or the port behind it, performs the next procedure that has come to it (R301). -/
def execAgentProcedure (p : PillarId) (s : State) : Out :=
  match s.procs.find? fun r => r.phase == .sent && s.procAgent r == p && !s.procWaits r with
  | none => .next s
  | some r =>
    let count (s : State) : State := s.countAgent p r
    match r.instr with
    | .rcopy _ => .next (count (s.copyStep r))
    | _ => .next (count (s.performWhole r))

/-- A response arrives: g[d], or a late fault, and the procedure ends (R303). -/
def execProcedureResponse (p : PillarId) (t : StrandId) (seq : BitVec 16) (s : State) : Out :=
  match s.procs.find? fun r => r.p == p && r.t == t && r.seq == seq with
  | none => .next s
  | some r =>
    let s' := { s with procs := s.procs.filter fun q => !(q.p == p && q.t == t && q.seq == seq) }
    match r.phase with
    | .performed a b =>
      let write (s : State) (d : Nat) (v : PWord) : State :=
        s.modStrand p t fun q => (q.setReg d v).unpend [d]
      let s' := match returns r.instr with
        | [d] => write s' d a
        | [d, e] => write (write s' d a) e b
        | _ => s'
      .next (s'.endProcOk p t seq)
    | .failed c v => .next (s'.failProc p t seq r.lvl r.instr (.trap c v))
    | _ => .next s

/-! ## Combining -/

/-- What combinable requests must share (R312): procedure, size or type, target. -/
def Procedure.key (r : Procedure) : Option (Nat × Nat × Place) :=
  match r.instr with
  | .ramo f => if bitsOf f.mod.toNat 6 3 = 0 && bitOf f.flags 0 then some (0, sizeOf f.mod, r.place) else none
  | .rdecw f => if bitOf f.flags 0 then some (1, 0, r.place) else none
  | .rwadd f => if typeOf .f64 f = .f32 && !bitOf f.flags 1 then some (2, 0, r.place) else none
  | _ => none

/-- A pillar lies on the route between two pillars: first along the row, then along the column (R290). -/
def onRoute (src dst p : PillarId) : Bool :=
  let between (a b c : Nat) : Bool := min a b ≤ c && c ≤ max a b
  (gridRow p == gridRow src && between (gridCol src) (gridCol dst) (gridCol p)) ||
    (gridCol p == gridCol dst && between (gridRow src) (gridRow dst) (gridRow p))

/-- Merges a later request into an earlier one (R312). -/
def Procedure.merge (a b : Procedure) : Procedure :=
  { a with
    k := a.k + b.k, sum := a.sum + b.sum, marks := a.marks ||| b.marks, requesters := a.requesters + b.requesters
    x := pword (a.x.bits + b.x.bits) (a.x.bad || b.x.bad) }

/-- The procedures that are merged into one (R312). -/
def State.followers (s : State) (a : Procedure) : List Procedure := s.procs.filter fun c => c.phase == .merged a.p a.t a.seq

/-- The place, in the order of arrival, at which a procedure will be executed: its own, or that of the one it is merged into. -/
def State.carrier (s : State) (c : Procedure) : Nat :=
  match c.phase with
  | .merged p t seq => s.procs.findIdx fun q => q.p == p && q.t == t && q.seq == seq
  | _ => s.procs.idxOf c

/-- No request of a source pillar to the same destination has passed since the entry was made (R312, R313): none will be executed
between the two. -/
def State.nonePassed (s : State) (dst : PillarId) (first later : Nat) (sources : List PillarId) : Bool :=
  s.procs.all fun c =>
    let n := s.carrier c
    c.phase.ended || !sources.contains c.p || s.procAgent c != dst || n ≤ first || later ≤ n

/-- The requests that have an entry in the combining table of a router (R312). -/
def State.tableLoad (s : State) (p : PillarId) : Nat := (s.procs.filter fun c => c.phase == .sent && c.entry == some p).length

/-- A combinable request that must wait at its exit gets an entry in the combining table of the router, or finds it full, which is
counted (R312, R314). -/
def State.tableEntry (s : State) (p : PillarId) (b : Procedure) : State :=
  if b.entry == some p then s
  else if 16 ≤ s.tableLoad p then s.modPil p fun x => x.count 0x4A6
  else { s with procs := s.procs.map fun c => if c == b then { b with entry := some p } else c }

/-- A combinable request must wait at its exit of a router (R312): it merges into one that waits there, and all that it names are
named by the other then; without such a one it gets an entry of its own. -/
def execRouterCombine (p : PillarId) (later : Nat) (s : State) : Out :=
  match s.procs[later]? with
  | none => .next s
  | some b =>
    let dst := s.procAgent b
    let before := s.procs.take later
    let ok (a : Procedure) : Bool :=
      a.phase == .sent && a.key == b.key && onRoute a.p dst p && a.requesters + b.requesters ≤ 8 &&
        (match a.entry with | some q => q == p || onRoute q dst p | none => true)
    let named := b :: s.followers b
    let joins (a : Procedure) : Bool := ok a && s.nonePassed dst (before.idxOf a) later (named.map (·.p))
    if b.phase != .sent || b.key.isNone || !onRoute b.p dst p then .next s
    else
      match before.find? joins with
      | none => .next (s.tableEntry p b)
      | some a =>
        if a.entry != some p && 16 ≤ s.tableLoad p then .next (s.modPil p fun x => x.count 0x4A6)
        else
          let merged := { a.merge b with entry := some p }
          let out (c : Procedure) : Procedure := if named.contains c then { c with phase := .merged a.p a.t a.seq } else c
          let s := { s with procs := s.procs.map fun c => if c == a then merged else out c }
          .next (s.modPil p fun x => x.count 0x4A5)

/-! ## Messages under way -/

/-- The number that names the host send of a queue among outbox entries (R418). -/
def hostSendNumber (h : Nat) : Nat := 2 ^ 64 + h

/-- An outbox entry of a pillar, or a host send, which leaves from the service pillar of stack 0 (R418). -/
def State.outboxEntry (s : State) (p : PillarId) (n : Nat) : Option OutboxEntry :=
  if n ≥ 2 ^ 64 then
    if p == servicePillar 0 then s.host.sends.find? fun e => e.number == n else none
  else (s.pil p).msg.outbox.find? fun e => e.number == n

/-- The outbox entries that a message is ordered with. -/
def State.outboxOf (s : State) (p : PillarId) (n : Nat) : List OutboxEntry :=
  if n ≥ 2 ^ 64 then s.host.sends else (s.pil p).msg.outbox

/-- Replaces or drops an outbox entry. -/
def State.modOutbox (s : State) (p : PillarId) (n : Nat) (f : List OutboxEntry → List OutboxEntry) : State :=
  if n ≥ 2 ^ 64 then { s with host := { s.host with sends := f s.host.sends } }
  else s.modPil p fun x => { x with msg := { x.msg with outbox := f x.msg.outbox } }

/-- Gives an entry a phase. -/
def setEntry (n : Nat) (ph : MessagePhase) (l : List OutboxEntry) : List OutboxEntry :=
  l.map fun e => if e.number == n then { e with phase := ph } else e

/-- BUSY of a host send clears (R418). -/
def State.clearBusy (s : State) (n : Nat) : State :=
  if n ≥ 2 ^ 64 then
    let h := n - 2 ^ 64
    let q := s.hq h
    s.setHq h { q with send := setBits q.send 63 63 0 }
  else s

/-- An entry leaves its outbox. -/
def State.dropOutbox (s : State) (p : PillarId) (n : Nat) : State :=
  (s.modOutbox p n fun l => l.filter fun a => a.number != n).clearBusy n

/-- The entry of the right twin that ends with an entry (R397). -/
def State.twinEntry (s : State) (p : PillarId) (e : OutboxEntry) : Option (PillarId × OutboxEntry) :=
  if s.twinned p && !s.inRightHalf p && !e.msg.fromHost then
    let q := s.twinOf p
    ((s.pil q).msg.outbox.find? fun a => a.phase == .twin e.number && a.msg.strand == e.msg.strand).map fun a => (q, a)
  else none

/-- A message leaves the outbox, delivered; its twin's ends with it. -/
def State.messageDone (s : State) (p : PillarId) (e : OutboxEntry) : State :=
  let twin := s.twinEntry p e
  let s := s.dropOutbox p e.number
  if e.msg.fromHost then s
  else
    let s := (s.endProcOk p e.msg.strand e.msg.seq).modPil p fun x => x.count 0x4A0
    match twin with
    | some (q, a) => (s.dropOutbox q a.number).endProcOk q a.msg.strand a.msg.seq
    | none => s

/-- A message leaves the outbox with an error (R297, R299): a late fault of its strand, and of its twin. -/
def State.messageFailed (s : State) (p : PillarId) (e : OutboxEntry) (c : BitVec 8) (v : Word) : State :=
  let twin := s.twinEntry p e
  let s := s.dropOutbox p e.number
  if e.msg.fromHost then s
  else
    let s := s.failProc p e.msg.strand e.msg.seq e.msg.lvl (.send {}) (.trap c v)
    match twin with
    | some (q, a) => (s.dropOutbox q a.number).failProc q a.msg.strand a.msg.seq a.msg.lvl (.send {}) (.trap c v)
    | none => s

/-- TVAL for a message (R311). -/
def Message.tval (m : Message) (reason : Nat) : Word :=
  if m.toHost then word (reason * 2 ^ 60 + 2 ^ 29 + m.dst)
  else word (reason * 2 ^ 60 + m.dst * 2 ^ 19 + m.inbox.toNat)

/-- An earlier entry goes to the same inbox or host queue (R296). -/
def State.behindOther (s : State) (p : PillarId) (e : OutboxEntry) : Bool :=
  ((s.outboxOf p e.number).takeWhile fun a => a.number != e.number).any fun a =>
    a.msg.dst == e.msg.dst && a.msg.toHost == e.msg.toHost && (a.msg.toHost || a.msg.inbox == e.msg.inbox)

/-- A pillar can be reached by a message of the host, which comes in at stack 0: the cause and reason otherwise (R402, R403, R418,
R423). -/
def State.reachFromHost (s : State) (q : PillarId) : Except (BitVec 8 × Nat) Unit :=
  if s.behindFence q then .error (0x68, 1)
  else if s.bridgesClosed 0 (stackOf q) then .error (0x68, 2)
  else s.answers q

/-- The pillar that a message really goes to, or why it fails (R390, R402, R403). -/
def State.messageTarget (s : State) (p : PillarId) (m : Message) : Except (BitVec 8 × Nat) PillarId :=
  let q := s.forward (BitVec.ofNat 10 m.dst)
  match (if m.fromHost then s.reachFromHost q else s.reachPillar p q) with
  | .error e => .error e
  | .ok () => if !m.fromHost && !s.sameSpace p q then .error (0x69, 3) else .ok q

/-- A message is refused, and sent again later (R295, R296, R314). -/
def State.refuse (s : State) (p : PillarId) (e : OutboxEntry) : State :=
  let s := s.modOutbox p e.number (setEntry e.number (.refused (s.aclk p + 64)))
  if e.msg.fromHost then s else s.modPil p fun x => x.count 0x4A2

/-- Who writes a host queue's ring (R417, R79). -/
def State.ringWalker (s : State) (h : Nat) : Walker :=
  { p := servicePillar 0, asid := BitVec.ofNat 16 ((s.hq h).ctl.bits 63 48), lvl := 1, direct := true }

/-- The VA of the next entry of a host queue (R417). -/
def State.ringSlot (s : State) (h : Nat) : Word :=
  let q := s.hq h
  word (q.base.toNat / 4096 * 4096 + 576 * (q.tail.toNat % 2 ^ ringExp q.ctl))

/-- The header and payload of a host-queue entry (R417). -/
def Message.hostBlock (m : Message) (egress : Nat) : Memory :=
  let h := Memory.write {} 0 16 (m.src + m.strand.val * 2 ^ 16 + m.len * 2 ^ 32 + egress * 2 ^ 64)
  (m.payload.zipIdx).foldl (fun b x => b.write (64 + 8 * x.2) 8 x.1.bits.toNat) h

/-- What writing an entry of a host queue gives (R417). -/
def State.writeRing (s : State) (p : PillarId) (m : Message) : Act State := do
  let h := m.dst
  let va := s.ringSlot h
  let n := 64 + m.len
  let egress := (s.pil p).egress.toNat
  let (s, _) ← s.writeBytes (s.ringWalker h) va n (m.hostBlock egress) {} 0 {}
  let s := s.logEgress p 1 m.len (word h)
  let q := s.hq h
  .ok ((s.setHq h { q with tail := q.tail + 1 }).raiseVector 7)

/-- A host queue takes no entry: its EN is 0, or it is full (R417). -/
def State.hostClosed (s : State) (h : Nat) : Bool :=
  let q := s.hq h
  !bitOf q.ctl.toNat 0 || (q.tail - q.head).toNat == 2 ^ ringExp q.ctl

/-- The head of a message to a host queue arrives at stack 0 (R403, R409, R417). -/
def State.hostHead (s : State) (p : PillarId) (e : OutboxEntry) : State :=
  let h := e.msg.dst
  if s.bridgesClosed (stackOf p) 0 then s.messageFailed p e 0x68 (e.msg.tval 2)
  else if !bitOf (s.hq h).ctl.toNat 0 then s.messageFailed p e 0x60 (e.msg.tval 5)
  else if s.hostClosed h then s.refuse p e
  else
    match s.writeRing p e.msg with
    | .ok _ => s.modOutbox p e.number (setEntry e.number .reserved)
    | .error .wait => s
    | .error (.ats w va) => s.askAts w va
    | .error (.trap c v) => (s.noteFault (s.ringWalker h) (.trap c v)).messageFailed p e 0x60 (e.msg.tval 6)
    | .error (.pageFault _ va w) =>
      match (s.noteMiss (s.ringWalker h) va).sendPageRequest (servicePillar 0) (s.ringWalker h).asid va w .host with
      | (s, some n) => s.modOutbox p e.number (setEntry e.number (.paging n))
      | (s, none) => s.messageFailed p e 0x60 (e.msg.tval 6)

/-- A message's head reaches its destination: it reserves a slot, is refused, or fails (R295, R297). -/
def execMessageHeadArrive (p : PillarId) (n : Nat) (s : State) : Out :=
  match s.outboxEntry p n with
  | none => .next s
  | some e =>
    if e.phase != .ready || s.behindOther p e then .next s
    else if e.msg.toHost then .next (s.hostHead p e)
    else
      let s := s.countForward (BitVec.ofNat 10 e.msg.dst)
      match s.messageTarget p e.msg with
      | .error (c, r) => .next (s.messageFailed p e c (e.msg.tval r))
      | .ok q =>
        let b := (s.pil q).inbox e.msg.inbox.toNat
        if b.messages.length + b.reserved ≥ 8 then .next (s.refuse p e)
        else
          .next ((s.modPil q fun x => x.modInbox e.msg.inbox.toNat fun b => { b with reserved := b.reserved + 1 }).modOutbox
            p n (setEntry n .reserved))

/-- A refused message is sent again (R296). -/
def execMessageResend (p : PillarId) (n : Nat) (s : State) : Out :=
  match s.outboxEntry p n with
  | some e =>
    match e.phase with
    | .refused u => if u ≤ s.aclk p then .next (s.modOutbox p n (setEntry n .ready)) else .next s
    | _ => .next s
  | none => .next s

/-- A message's last flit is written: it is delivered (R296, R417). A host queue that another message has filled meanwhile refuses
it. -/
def execMessageDeliver (p : PillarId) (n : Nat) (s : State) : Out :=
  match s.outboxEntry p n with
  | none => .next s
  | some e =>
    if e.phase != .reserved then .next s
    else if e.msg.toHost then
      match (if s.hostClosed e.msg.dst then (.error .wait : Act State) else s.writeRing p e.msg) with
      | .ok s => .next (s.messageDone p e)
      | .error _ => .next (s.hostHead p { e with phase := .ready })
    else
      let q := s.forward (BitVec.ofNat 10 e.msg.dst)
      let put (b : Inbox) : Inbox := { messages := b.messages ++ [e.msg], reserved := b.reserved - 1 }
      .next ((s.modPil q fun x => x.modInbox e.msg.inbox.toNat put).messageDone p e)

/-- The messages that hold a reserved slot of an inbox. -/
def State.heads (s : State) (q : PillarId) (inbox : BitVec 2) : Nat :=
  let holds (e : OutboxEntry) : Bool :=
    e.phase == .reserved && !e.msg.toHost && e.msg.inbox == inbox && s.forward (BitVec.ofNat 10 e.msg.dst) == q
  (s.pillars.entries.map fun x => (x.2.msg.outbox.filter holds).length).sum + (s.host.sends.filter holds).length

/-- A tail marked cut frees a reserved slot whose message was cut (R297). -/
def execCutTailFlitArrive (p : PillarId) (inbox : BitVec 2) (s : State) : Out :=
  let b := (s.pil p).inbox inbox.toNat
  if s.heads p inbox < b.reserved then
    .next (s.modPil p fun x => x.modInbox inbox.toNat fun b => { b with reserved := b.reserved - 1 })
  else .next s

end Sys2Proof.Machine
end

