-- ==== Sys2Proof/Machine/Jobs.lean ====
section
/-! DEFINITION. Launch queues, job records, admission, eligibility, placement, start, hand-off and end
(03_pillars_strands_jobs.md R70-R98), with the requests for pre-emption that placement makes (15_traps_preemption.md
R382, 17_host_pod.md R412). -/

namespace Sys2Proof.Machine

/-! ## Memory as the launch unit sees it -/

/-- The launch unit translates in the ASID of a queue at supervisor level (R79). -/
def launchWalker (asid : BitVec 16) : Walker := { p := servicePillar 0, asid := asid, lvl := 1, direct := true }

/-- The context of a queue (R72). -/
def LaunchQueue.asid (q : LaunchQueue) : BitVec 16 := BitVec.ofNat 16 (q.ctl.bits 63 48)

/-- PRI of a queue (R72). -/
def LaunchQueue.pri (q : LaunchQueue) : Nat := q.ctl.bits 10 8

/-- Records in the ring (R73). -/
def LaunchQueue.count (q : LaunchQueue) : Nat := (q.tail - q.head).toNat

/-- The address of record c of a queue (R73). -/
def LaunchQueue.slotVa (q : LaunchQueue) (c : BitVec 32) : Word :=
  word (q.base.toNat / 4096 * 4096 + c.toNat % 2 ^ ringExp q.ctl * 128)

/-! ## The doorbell -/

/-- A write of the tail of a queue (R73). -/
def State.writeTail (n : Nat) (s : State) (v : BitVec 32) : State :=
  let l := s.lq n
  let new := (v - l.head).toNat
  if 2 ^ ringExp l.ctl < new || new < l.count then s.setLq n { l with ctl := l.ctl ||| 8 } else s.setLq n { l with tail := v }

/-- A tail write (R73); while a LAUNCH holds the tail it waits (R96). -/
def execLqtailWrite (q : BitVec 4) (v : BitVec 32) (s : State) : Out :=
  let l := s.lq q.toNat
  if l.holder.isSome then .next (s.setLq q.toNat { l with doorbells := l.doorbells ++ [v] })
  else .next (State.writeTail q.toNat s v)

/-- A LAUNCH lets go of the tail, and the tail writes behind it take effect (R96). -/
def State.releaseTail (s : State) (n : Nat) : State :=
  let l := s.lq n
  l.doorbells.foldl (State.writeTail n) (s.setLq n { l with holder := none, writing := {}, doorbells := [] })

/-! ## Records -/

/-- A job record from its 128 bytes (R74). -/
def recordOf (m : Memory) : JobRecord :=
  let d (o : Nat) : Word := word (m.read o 8)
  { jobId := d 0x00, shape := d 0x08, codeVa := d 0x10, code := d 0x18
    args := #v[d 0x20, d 0x28, d 0x30, d 0x38], draftVa := d 0x40
    preds := #v[d 0x48, d 0x50, d 0x58, d 0x60], ctx := d 0x68, statVa := d 0x70, reserved := d 0x78 }

/-- NSTR (R75). -/
def JobRecord.nstr (r : JobRecord) : Nat := r.shape.bits 24 22

/-- FIXED (R75). -/
def JobRecord.fixed (r : JobRecord) : Bool := bitOf r.shape.toNat 25

/-- TWIN (R75). -/
def JobRecord.twin (r : JobRecord) : Bool := bitOf r.shape.toNat 26

/-- WID (R75). -/
def JobRecord.wid (r : JobRecord) : Nat := r.shape.bits 21 16

/-- HGT (R75). -/
def JobRecord.hgt (r : JobRecord) : Nat := r.shape.bits 15 10

/-- The width that the job occupies (R77). -/
def JobRecord.fullWid (r : JobRecord) : Nat := if r.twin then 2 * r.wid else r.wid

/-- CODEKB (R76). -/
def JobRecord.codeKb (r : JobRecord) : Nat := r.code.bits 8 0

/-- XBKB (R76). -/
def JobRecord.xbKb (r : JobRecord) : Nat := r.code.bits 17 9

/-- ENTRY (R76). -/
def JobRecord.entry (r : JobRecord) : Nat := r.code.bits 37 19

/-- VBUDGET (R74). -/
def JobRecord.budget (r : JobRecord) : Nat := r.ctx.bits 7 0

/-- IRQ (R74). -/
def JobRecord.irq (r : JobRecord) : Nat := r.ctx.bits 18 8

/-- The rectangle at an origin lies in the grid. -/
def JobRecord.inGrid (r : JobRecord) (row col wid : Nat) : Bool := row + r.hgt ≤ 32 && col + wid ≤ 32

/-- The first of the checks 1 to 9 that a record fails (R78). -/
def JobRecord.fault (r : JobRecord) (live : List Word) : Option Nat :=
  let row := r.shape.bits 4 0
  let col := r.shape.bits 9 5
  firstFailed [
    (1, r.shape.bits 63 28 == 0 && r.code.bits 63 38 == 0 && !bitOf r.code.toNat 18 && r.ctx.bits 63 19 == 0 &&
      r.reserved == 0),
    (2, 1 ≤ r.nstr && r.nstr ≤ 4),
    (3, 1 ≤ r.hgt && r.hgt ≤ 32 && 1 ≤ r.wid && r.wid ≤ 32),
    (4, if r.fixed then r.inGrid row col r.wid else row == 0 && col == 0),
    (5, !r.twin || (2 ≤ r.wid && 2 * r.wid ≤ 32 && (!r.fixed || r.inGrid row col (2 * r.wid)))),
    (6, 1 ≤ r.codeKb && r.codeKb ≤ 384 && r.codeKb ≤ r.xbKb && r.xbKb ≤ 384 && r.entry % 2 == 0 &&
      r.entry < r.codeKb * 1024 && r.codeVa.toNat % 64 == 0),
    (7, r.statVa.toNat % 8 == 0),
    (8, r.draftVa == 0 || (r.draftVa.toNat % 32 == 0 && 1 ≤ r.budget && r.budget ≤ 192)),
    (9, r.jobId != 0 && !live.contains r.jobId && !r.preds.toList.contains r.jobId)]

/-! ## Status words -/

/-- The job has nothing left to do for the launch unit, and no pillar. -/
def State.jobGone (s : State) (j : Job) : Bool :=
  !j.live && j.statusQueue.isEmpty && s.pillars.entries.all fun x => x.2.job != some j.number

/-- Writes the oldest status word of a job (R79): one that meets a page fault, or a fence, waits, and one that cannot be written is
dropped. DESIGN CHOICE: any other trap drops it and is counted as causes 0x05 to 0x07 are (log entry 87). -/
def State.writeStatus (s : State) (j : Job) : State :=
  let w := launchWalker j.asid
  match j.statusQueue with
  | [] => s
  | v :: vs =>
    let pop (s : State) : State := s.modJob j.number fun j => { j with statusQueue := vs }
    match s.writeBytes w j.record.statVa 8 (Memory.write {} 0 8 v.toNat) {} 0 {} with
    | .ok (s, _) => pop s
    | .error (.trap c va) =>
      if c == 0x68 && va.bits 63 60 == 1 then s else pop ((s.noteFault w (.trap c va)).countLaunch 6)
    | .error (.pageFault _ va wr) =>
      (match (s.noteMiss w va).sendPageRequest (servicePillar 0) j.asid va wr (.status j.number) with
      | (s, some n) => s.modJob j.number fun j => { j with statusRequest := some n }
      | (s, none) => pop (s.countLaunch 6))
    | .error e => (s.holdOff e).getD s

/-- Writes the status words of one job until one waits (R79). -/
def State.writeStatuses : Nat → Nat → State → State
  | 0, _, s => s
  | fuel + 1, n, s =>
    match s.launch.jobs.find? fun j => j.number == n with
    | some j =>
      if j.statusQueue.isEmpty || j.statusRequest.isSome then s
      else
        let s := s.writeStatus j
        let left := ((s.launch.jobs.find? fun k => k.number == n).map fun k => k.statusQueue.length).getD 0
        if left = j.statusQueue.length then s else State.writeStatuses fuel n s
    | none => s

/-- Writes the status words that are due, those of one job in their order and those of different jobs apart, and forgets the jobs
that are gone (R79). -/
def State.flush (s : State) : State :=
  let s := s.launch.jobs.foldl (fun s j => State.writeStatuses (j.statusQueue.length + 1) j.number s) s
  { s with launch := { s.launch with jobs := s.launch.jobs.filter fun j => !s.jobGone j } }

/-! ## Eligibility -/

/-- What a predecessor says of its dependant (R81): it has handed off, with whether it was unknown; it cancels; or it is
still to come. -/
inductive PredState where
  | done (unknown : Bool)
  | cancels
  | pending
  deriving DecidableEq, Repr

/-- A predecessor by its JOBID (R81). DESIGN CHOICE: it is looked up anew at each event, so that a JOBID used again names the later
job (log entry 88). -/
def State.predState (s : State) (id : Word) : PredState :=
  if id = 0 then .done false
  else
    match s.launch.jobs.find? fun j => j.live && j.record.jobId == id with
    | some j => if j.handedOff then .done false else .pending
    | none =>
      match s.launch.outcomes.find? fun o => o.1 == id with
      | some o => if o.2 == 0x20 || o.2 == 0x21 then .cancels else .done false
      | none => .done true

/-- Reassesses a job that is not yet eligible (R81). -/
def State.reassessJob (s : State) (j : Job) : State :=
  let ps := j.record.preds.toList.map s.predState
  let noted (j : Job) : Job := { j with predUnknown := j.predUnknown || ps.contains (.done true) }
  match ps.idxOf? .cancels with
  | some i => (s.modJob j.number noted).retire j 0x20 (BitVec.ofNat 8 i)
  | none => if ps.contains .pending then s else s.modJob j.number fun j => { noted j with eligibleAt := some s.clk }

/-- A job waits for its predecessors. -/
def Job.awaits (j : Job) : Bool := j.state == 0x01 && j.eligibleAt.isNone

/-- Reassesses every waiting job; a cancellation passes along in turn (R81). -/
def State.reassessAll : Nat → State → State
  | 0, s => s
  | fuel + 1, s =>
    let s' := s.launch.jobs.foldl (fun s j =>
      match s.launch.jobs.find? fun k => k.number == j.number with
      | some k => if k.awaits then s.reassessJob k else s
      | none => s) s
    if s'.launch.outcomes.length = s.launch.outcomes.length && s'.launch.outcomes == s.launch.outcomes then s'
    else State.reassessAll fuel s'

/-- Reassesses the jobs and writes their status words (R81, R79). -/
def State.settleJobs (s : State) : State := (State.reassessAll 257 s).flush

/-! ## Admission -/

/-- The queue is enabled, not empty, and its head is not being waited for. -/
def LaunchQueue.admissible (q : LaunchQueue) : Bool := bitOf q.ctl.toNat 0 && q.count != 0 && q.reading.id.isNone

/-- The queues that can be admitted from, in the order in which the launch unit takes them (R80). DESIGN CHOICE: the first queue is
drained before the next is taken (log entry 90). -/
def State.admitOrder (s : State) : List Nat :=
  let qs := (List.range 16).filter fun n => (s.lq n).admissible
  ((List.range 8).reverse).flatMap fun pri => qs.filter fun n => (s.lq n).pri == pri

/-- The launch unit may take in a record (R80, R423). -/
def State.admitOpen (s : State) : Bool :=
  bitOf s.safelight.ready.toNat 17 && (s.launch.jobs.filter Job.live).length < 256

/-- The job that a record makes. -/
def LaunchQueue.job (q : LaunchQueue) (n : Nat) (queue : BitVec 4) (r : JobRecord) : Job :=
  { number := n, record := r, queue := queue, asid := q.asid, pri := q.pri }

/-- Takes the head record from a queue (R73). -/
def State.advance (s : State) (n : Nat) : State :=
  let q := s.lq n
  s.setLq n { q with head := q.head + 1, reading := {} }

/-- Admits a job, or refuses it with a state and a detail (R78, R80). -/
def State.takeIn (s : State) (n : Nat) (r : JobRecord) (refused : Option (BitVec 8)) : State :=
  let q := s.lq n
  let k := s.launch.nextJob
  let j := q.job k (BitVec.ofNat 4 n) r
  let s := State.advance
    { s with launch := { s.launch with jobs := s.launch.jobs ++ [j], nextJob := k + 1 } } n
  match refused with
  | some c => (s.retire j 0x10 c).settleJobs
  | none => ((s.modJob k fun j => j.enter 0x01 0).countLaunch 0).settleJobs

/-- The launch unit takes the head record of a queue (R80): it reads it, checks it, and advances LQHEAD. -/
def execJobAdmit (q : BitVec 4) (s : State) : Out :=
  let n := q.toNat
  let l := s.lq n
  if !s.admitOpen || s.admitOrder.head? != some n then .next s
  else if l.reading.failed then .next (s.takeIn n {} (some 10))
  else
    match s.readBytes (launchWalker l.asid) .read (l.slotVa l.head) 128 with
    | .ok (s, m, bad) =>
      let r := recordOf m
      if !bad.elems.isEmpty then .next (s.takeIn n {} (some 10))
      else
        let live := (s.launch.jobs.filter Job.live).map fun j => j.record.jobId
        .next (s.takeIn n r ((r.fault live).map fun c => BitVec.ofNat 8 c))
    | .error (.trap c va) => .next ((s.noteFault (launchWalker l.asid) (.trap c va)).takeIn n {} (some 10))
    | .error (.pageFault _ va w) =>
      (match (s.noteMiss (launchWalker l.asid) va).sendPageRequest (servicePillar 0) l.asid va w (.record n) with
      | (s, some id) => .next (s.setLq n { l with reading := { id := some id } })
      | (s, none) => .next (s.takeIn n {} (some 10)))
    | .error e => .next ((s.holdOff e).getD s)

/-! ## Placement -/

/-- A pillar is free to be placed (R71, R390, R404, R423). -/
def State.isFree (s : State) (p : PillarId) : Bool :=
  let x := s.pil p
  x.phase == .free && !bitOf x.fwdEnt.toNat 63 && s.linkUp p && x.strip.isNone && !x.failedMark

/-- The pillar can be used by a job in the end (R71). -/
def State.usable (s : State) (p : PillarId) : Bool := (s.pil p).phase != .failed

/-- A job runs on its rectangle. -/
def Job.runs (j : Job) : Bool := (j.state == 0x02 || j.state == 0x03) && !j.loading

/-- Save areas of a pillar that hold contexts (R384). -/
def State.areasUsed (s : State) (p : PillarId) : List Nat :=
  (s.saves.filter fun c => c.p == p).map (·.area)

/-- Every pillar of a job has a save area free (R384, R395). -/
def State.canSave (s : State) (j : Job) : Bool :=
  match j.rect with
  | some r => (s.seats j.number r).all fun p => (s.areasUsed p).length < 4
  | none => false

/-- The pillar is free, or held by a running job of lower priority that can be saved (R83, R384). -/
def State.canTake (s : State) (pri : Nat) (p : PillarId) : Bool :=
  s.isFree p ||
    (match s.jobOf p with
    | some j => (s.pil p).phase == .held && j.runs && j.pri < pri && s.canSave j
    | none => false)

/-- The rectangles that a record may be placed on, in the order of R82. -/
def JobRecord.origins (r : JobRecord) : List Rect :=
  let at_ (row col : Nat) : Rect := { row0 := row, col0 := col, hgt := r.hgt, wid := r.fullWid }
  if r.fixed then [at_ (r.shape.bits 4 0) (r.shape.bits 9 5)]
  else
    (List.range (33 - r.hgt)).flatMap fun row => (List.range (33 - r.fullWid)).map fun col => at_ row col

/-- The rectangles that a job may be placed on: its own, once it has been pre-empted (R84). -/
def Job.origins (j : Job) : List Rect :=
  match j.state == 0x05, j.rect with
  | true, some r => [r]
  | _, _ => j.record.origins

/-- The first rectangle all of whose pillars pass a test. -/
def State.findRect (s : State) (j : Job) (ok : PillarId → Bool) : Option Rect :=
  j.origins.find? fun r => (s.seats j.number r).all ok

/-- A job that placement considers: eligible and not placed, or pre-empted (R82, R84). -/
def Job.waitsForPlace (j : Job) : Bool := (j.state == 0x01 && j.eligibleAt.isSome && j.rect.isNone) || (j.state == 0x05 && !j.loading)

/-- The jobs that placement considers, in its order (R82, R84). -/
def State.placeOrder (s : State) : List Job :=
  let js := s.launch.jobs.filter Job.waitsForPlace
  ((List.range 8).reverse).flatMap fun pri =>
    let mine := js.filter fun j => j.pri == pri
    (mine.filter fun j => j.state == 0x05) ++ mine.filter fun j => j.state != 0x05

/-- What placement does next (R82, R83). -/
inductive PlaceAction where
  | place (j : Job) (r : Rect)
  | preempt (j : Job) (r : Rect)
  | refuse (j : Job)
  | nothing
  deriving DecidableEq, Repr

/-- The running jobs that hold some of a list of pillars and are not being pre-empted (R83). -/
def State.holders (s : State) (ps : List PillarId) : List Job :=
  s.launch.jobs.filter fun j => j.runs && !j.preempting && ps.any fun p => (s.pil p).job == some j.number

/-- A pillar of a chosen rectangle is free, becomes free in time, or is held by a job that leaves or can be made to (R83). -/
def State.mayClear (s : State) (pri : Nat) (p : PillarId) : Bool :=
  match (s.pil p).phase, s.jobOf p with
  | .failed, _ => false
  | .held, some j => j.preempting || s.canTake pri p
  | _, _ => !(s.pil p).failedMark && !bitOf (s.pil p).fwdEnt.toNat 63

/-- What placement does for a job whose rectangle is being cleared (R83): it waits for all its pillars; `none` if the rectangle can
no longer be cleared. DESIGN CHOICE: no later job is placed past it meanwhile (log entry 116). -/
def State.awaitChosen (s : State) (j : Job) : Option PlaceAction :=
  match j.chosen with
  | none => none
  | some r =>
    let ps := s.seats j.number r
    if ps.all s.isFree then some (.place j r)
    else if !ps.all (s.mayClear j.pri) then none
    else if (s.holders ps).isEmpty then some .nothing
    else some (.preempt j r)

/-- Goes through the waiting jobs (R82, R83): a job whose room is being cleared, or that has aged, stops the later
ones. DEDUCED: a waiting job that no longer fits on the usable pillars is refused at whatever attempt finds it (log entry 117). -/
def State.placeStep (s : State) : List Job → PlaceAction
  | [] => .nothing
  | j :: js =>
    match s.awaitChosen j with
    | some a => a
    | none =>
      match s.findRect j s.isFree with
      | some r => .place j r
      | none =>
        if (s.findRect j s.usable).isNone && j.state == 0x01 then .refuse j
        else
          match s.findRect j (s.canTake j.pri) with
          | some r => .preempt j r
          | none => if j.aged then .nothing else s.placeStep js

/-- Asks for the pre-emption of a job (R382). -/
def State.requestPreempt (s : State) (j : Job) : State :=
  match j.rect with
  | some r =>
    State.modJob { s with preempts := s.preempts ++ s.seats j.number r } j.number fun j => { j with preempting := true }
  | none => s

/-- A job takes a rectangle (R70, R343, R85). -/
def State.holdRect (s : State) (j : Job) (r : Rect) : State :=
  let s := s.modJob j.number fun j => { j with rect := some r, loading := true, aged := false, chosen := none }
  (s.seats j.number r).foldl (fun s p => s.modPil p fun x => { x with phase := .held, job := some j.number, asid := j.asid }) s

/-- A job gives its rectangle back at once, before it has started. -/
def State.dropRect (s : State) (j : Job) (r : Rect) : State :=
  let ps := s.seats j.number r
  let s := { s with drafts := s.drafts.filter fun d => d.job != j.number, preempts := s.preempts.filter fun p => !ps.contains p }
  let s := ps.foldl (fun s p => s.modPil p fun x => { x with phase := .free, job := none, standsFor := none }) s
  s.modJob j.number fun j => { j with rect := none, loading := false, preempting := false }

/-- The first pillar of each half of a rectangle, or of the rectangle (R77, R270). -/
def Job.halves (j : Job) (r : Rect) : List PillarId :=
  if j.twin then [pillarAt r.row0 r.col0, pillarAt r.row0 (r.col0 + j.wid)] else [pillarAt r.row0 r.col0]

/-- Installs the draft of a job for each half (R270): the code of a refusal, or a wait. -/
def State.installDrafts (va : Word) : List PillarId → State → Act (State × Option Nat)
  | [], s => .ok (s, none)
  | p :: ps, s => do
    match ← s.checkDraft p (launchWalker (s.pil p).asid) va false with
    | (s, .installed es) => State.installDrafts va ps (s.installEntries p va es)
    | (s, .refused c _ _) => .ok (s, some c)

/-- The draft of a placed job is installed, or refuses the job; a read that waits is made again (R82, R270, R348). -/
def State.installStep (s : State) (j : Job) (r : Rect) : State :=
  match State.installDrafts j.record.draftVa ((j.halves r).map (s.seat j.number)) s with
  | .ok (s, none) => s.modJob j.number fun j => { j with drafting := false }
  | .ok (s, some c) => ((s.dropRect j r).retire j 0x12 (BitVec.ofNat 8 c)).settleJobs
  | .error e => (s.holdOff e).getD s

/-- Places a job that has not run (R82, R85): pillars, PICKNO, PINBASE, draft. -/
def State.placeNew (s : State) (j : Job) (r : Rect) : State :=
  let s := s.holdRect j r
  let s := r.pillars.foldl (fun s p => s.modPil p fun x => { x with pickNo := 0, pinBase := 0 }) s
  if j.record.draftVa = 0 then s
  else State.installStep (s.modJob j.number fun j => { j with drafting := true }) j r

/-- The launch unit places a job, or makes room for one (R82, R83, R84). -/
def execJobPlace (s : State) : Out :=
  let s := s.settleJobs
  match s.placeStep s.placeOrder with
  | .nothing => .next s
  | .refuse j => .next (s.retire j 0x11 0).settleJobs
  | .preempt j r =>
    let s := s.modJob j.number fun j => { j with chosen := some r }
    .next ((s.holders (s.seats j.number r)).foldl (fun s j => s.requestPreempt j) s)
  | .place j r => .next (if j.state == 0x05 then s.holdRect j r else s.placeNew j r)

/-- A job that has waited for placement for 2^20 clk stops backfill (R83). -/
def execBackfillAgeLimit (job : Word) (s : State) : Out :=
  .next { s with launch := { s.launch with jobs := s.launch.jobs.map fun j =>
    match j.eligibleAt with
    | some c => if j.record.jobId == job && j.waitsForPlace && c + 2 ^ 20 ≤ s.clk then { j with aged := true } else j
    | none => j } }

/-- PREEMPTREQ: the host asks for the pre-emption of a rectangle, which may still be loading (R412); one that cannot be saved is left
alone (R395). -/
def execPreemptreqWrite (v : Word) (s : State) : Out :=
  let p : PillarId := v.setWidth 10
  match s.jobOf p with
  | some j => if (s.pil p).phase == .held && !j.preempting && s.canSave j then .next (s.requestPreempt j) else .next s
  | none => .next s

/-! ## Start -/

/-- A strand at the start of a job (R85). -/
def startStrand (j : Job) (r : Rect) (p : PillarId) (t : Nat) : Strand :=
  let rec_ := j.record
  let col := gridCol p - r.col0
  let right := j.twin && j.wid ≤ col
  let col := if right then col - j.wid else col
  let gs : List Word :=
    [rec_.args[0], rec_.args[1], rec_.args[2], rec_.args[3], word ((gridRow p - r.row0) * 256 + col), word t,
      word (rec_.hgt * 256 + rec_.wid), rec_.jobId, p.setWidth 64, word (boolNat right)]
  let g := (gs.zipIdx).foldl (fun (g : Vector PWord 64) x => g.setIfInBounds (x.2 + 1) { bits := x.1 }) Strand.reset.g
  { Strand.reset with g := g, pc := BitVec.ofNat 19 rec_.entry, run := if t < rec_.nstr then .running else .idle }

/-- A pillar at the start of a job: image, XB, strands (R85). -/
def Pillar.start (x : Pillar) (j : Job) (r : Rect) (p : PillarId) (image : Memory) (bad : NatSet) : Pillar :=
  let n := j.record.codeKb * 1024
  { x with
    ls := { x.ls with
      bytes := Memory.write x.ls.bytes 0 n (image.read 0 n)
      bad := { elems := ((List.range (n / 8)).filter fun w => bad.hasAny (8 * w) 8) ++ x.ls.bad.elems.filter fun w => n / 8 ≤ w } }
    xbKb := j.record.xbKb
    strands := Vector.ofFn fun t => startStrand j r p t.val }

/-- The image of a placed job cannot be read: the job is refused (R78). -/
def State.imageFailed (s : State) (j : Job) (r : Rect) : State := ((s.dropRect j r).retire j 0x10 10).settleJobs

/-- Every pillar has loaded the image: state 0x02 is written, and the strands start (R85). The draft comes first (R82). -/
def execImageLoaded (job : Word) (s : State) : Out :=
  match s.launch.jobs.find? fun j => j.live && j.record.jobId == job && j.loading && j.state == 0x01 && j.request.isNone with
  | none => .next s
  | some j =>
    match j.rect with
    | none => .next s
    | some r =>
      if j.drafting then .next (s.installStep j r)
      else
      match s.readBytes (launchWalker j.asid) .read j.record.codeVa (j.record.codeKb * 1024) with
      | .error (.trap c va) => .next ((s.noteFault (launchWalker j.asid) (.trap c va)).imageFailed j r)
      | .error (.pageFault _ va w) =>
        (match (s.noteMiss (launchWalker j.asid) va).sendPageRequest (servicePillar 0) j.asid va w (.image j.number) with
        | (s, some n) => .next (s.modJob j.number fun j => { j with request := some n })
        | (s, none) => .next (s.imageFailed j r))
      | .error e => .next ((s.holdOff e).getD s)
      | .ok (s, m, bad) =>
        let s := r.pillars.foldl (fun s q => s.modPil (s.seat j.number q) fun x => x.start j r q m bad) s
        .next (s.modJob j.number fun j => { (j.enter 0x02 0) with loading := false }).flush

/-! ## Scrub -/

/-- What remains of a pillar after the scrub of R87: its vault and what no job owns (log entry 45). -/
def Pillar.scrub (x : Pillar) : Pillar :=
  { Pillar.reset with
    phase := x.phase, job := x.job, asid := x.asid, seqCounter := x.seqCounter, xbKb := x.xbKb, firmware := x.firmware
    stvec := x.stvec, mtvec := x.mtvec, steal := x.steal, signal := x.signal, vault := x.vault, dataTlb := x.dataTlb
    tileTlb := x.tileTlb, fwdEnt := x.fwdEnt, fwd := x.fwd, fwdSince := x.fwdSince, saveOff := x.saveOff
    fwdTaken := x.fwdTaken, stripLast := x.stripLast, strip := x.strip, stripFrom := x.stripFrom, stripDue := x.stripDue, failedMark := x.failedMark
    stripEgress := x.stripEgress, stripFails := x.stripFails, egress := x.egress, reqOff := x.reqOff, rspOff := x.rspOff
    crcRuns := x.crcRuns, crcAt := x.crcAt
    msg := { x.msg with
      unit := {}, outbox := [], outstanding := []
      inboxes := x.msg.inboxes.map fun b => { messages := [], reserved := b.reserved } } }

/-- No entry of the pillar's draft and no direct command of it is with the shuttle (R279). -/
def State.shuttleDone (s : State) (p : PillarId) : Bool :=
  (match s.draftOf p with | some d => d.settled | none => true) &&
    (s.pil p).commands.toList.all fun c => c.free || (match c.command with | some e => e.state != 2 | none => true)

/-- A pillar has been scrubbed and becomes free (R87); its rectangle's draft goes with the first (R279). -/
def execPillarScrubDone (p : PillarId) (s : State) : Out :=
  let x := s.pil p
  if x.phase != .scrubbing || !s.shuttleDone p then .next s
  else
    let s := match s.draftOf p with | some d => s.freeDraft d | none => s
    .next (s.modPil p fun x => { x.scrub with phase := .free, job := none }).flush

/-! ## Hand-off and end -/

/-- The strands that a job has started, with their pillars, in ascending order (R87). -/
def State.jobStrands (s : State) (n : Nat) (r : Rect) : List Strand :=
  (s.seats n r).flatMap fun p => ((s.pil p).strands.toList).filter fun t => t.run != .idle

/-- A job ends when every one of its strands has exited (R87). -/
def State.endJob (s : State) (j : Job) (r : Rect) : State :=
  let code := (((s.jobStrands j.number r).map (·.exitCode)).find? fun c => c != 0).getD 0
  let s := s.modJob j.number fun j => { j with exitCode := code }
  let s := s.retire { j with exitCode := code } 0x04 0
  let s := if j.record.irq = 0x7FF then s else s.raiseVector j.record.irq
  let s := (s.drafts.filter fun d => d.job == j.number).foldl (fun s d => s.cancelQueued d) s
  ((s.seats j.number r).foldl (fun s p => s.modPil p fun x => { x with phase := .scrubbing }) s)

/-- The launch unit is told of a hand-off (R86, R87). -/
def State.notifyHandoff (s : State) : State :=
  match s.jobOf s.curP with
  | none => s
  | some j =>
    match j.rect with
    | none => s
    | some r =>
      let ts := s.jobStrands j.number r
      let s :=
        if !j.handedOff && ts.all fun t => t.handedOff then
          s.modJob j.number fun j => { (j.enter 0x03 0) with handedOff := true }
        else s
      let j := (s.jobOf s.curP).getD j
      (if j.live && ts.all fun t => t.run == .exited then s.endJob j r else s).settleJobs

/-- HANDOFF (R97). -/
def execHandoff (f : Fields) (s : State) : Out :=
  finish (.handoff f) s do
    waitFor (s.workDone && s.fenceDone 3 15)
    s.noLates
    if s.st.handedOff then .ok s
    else .ok (s.modSt fun t => { t with handedOff := true }).notifyHandoff

/-- The members of a strand's open batch are discarded; its other instructions go on (R98). A member that has started on the array
ends there, and the elements of its tiles stay as they are. -/
def Pillar.discardOpen (x : Pillar) (t : StrandId) (clk : Nat) : Pillar :=
  let mine (d : Dispatched) : Bool := d.strand == t && (x.strand t).batches.current.members.contains d.seq
  let (ds, rest) := (x.mtx.unit.queue t).partition mine
  let waiting := (x.mtx.array.toList.filter fun o => mine o.d && !o.started).map (·.d)
  let x := x.modMtx fun m =>
    { m with
      unit := m.unit.setQueue t rest
      array := if waiting.isEmpty then m.array.map fun o => { o with discarded := o.discarded || mine o.d } else none }
  let x := (waiting ++ ds).foldl (fun x d => x.discardMatrix clk d) x
  x.modStrand t fun r => { r with batches := { r.batches with current := {} } }

/-- No strand of the pillar runs any more (R98). -/
def Pillar.allStopped (x : Pillar) : Bool :=
  x.strands.toList.all fun t => t.run == .idle || t.run == .exited || t.run == .halted

/-- EXIT (R98). -/
def execExit (f : Fields) (s : State) : Out :=
  finishAt (.exit f) s do
    check (!s.st.inFibre) 0x18 0
    let code : BitVec 16 := (s.g f.sNum).bits.setWidth 16
    waitFor (s.workDone && s.fenceDone 3 15)
    s.noLates
    let s := s.modMe fun x => x.discardOpen s.curT s.clk
    let s := s.modSt fun t => { t with exitCode := code, handedOff := true, run := .exited, blocked := .no, sampled := none }
    let s := if s.me.allStopped then s.leaveLoom s.curP else s
    .ok s.notifyHandoff

/-! ## LAUNCH -/

/-- TVAL of the poison trap of a record word (R96, R372). -/
def recordPoison (va : Word) (bad : NatSet) : Word := poisonData (va + word ((bad.elems.headD 0) / 8 * 8))

/-- The number of the current strand in the package. -/
def State.strandNumber (s : State) : Nat := s.curP.toNat * 4 + s.curT.val

/-- LAUNCH ends with a code, and lets go of the tail (R96). -/
def State.endLaunch (s : State) (f : Fields) (n : Nat) (code : Word) : State :=
  ((((s.releaseTail n).setGw f.dNum code).issueAfter 400).setPc (s.nextPc (.launch f))).modSt Strand.unblock

/-- LAUNCH writes the ring slot (R96, R79): done, refused, or waiting with the tail held. -/
def State.launchSlot (s : State) (f : Fields) (n : Nat) (m : Memory) : State :=
  let q := s.lq n
  let w := launchWalker q.asid
  let hold (s : State) (r : QueueRequest) : State :=
    (s.setLq n { q with holder := some s.strandNumber, writing := r }).modSt fun t => { t with blocked := .launch (.launch f) m }
  if q.writing.failed then s.endLaunch f n 3
  else
    match s.writeBytes w (q.slotVa q.tail) 128 m {} 0 {} with
    | .ok (s, _) => (s.setLq n { s.lq n with tail := q.tail + 1 }).endLaunch f n 0
    | .error (.trap c va) => (s.noteFault w (.trap c va)).endLaunch f n 3
    | .error (.pageFault _ va wr) =>
      (match (s.noteMiss w va).sendPageRequest (servicePillar 0) q.asid va wr (.slot n) with
      | (s, some id) => hold s { id := some id }
      | (s, none) => s.endLaunch f n 3)
    | .error e => hold ((s.holdOff e).getD s) {}

/-- A LAUNCH that holds the tail goes on once no page request is under way (R96). -/
def State.resumeLaunch (s : State) (i : Instr) (m : Memory) : State :=
  match i with
  | .launch f =>
    let n := bitsOf f.mod.toNat 3 0
    if (s.lq n).writing.id.isSome then s else s.launchSlot f n m
  | _ => s

/-- LAUNCH (R96). -/
def execLaunch (f : Fields) (s : State) : Out :=
  finishAt (.launch f) s do
    s.destOk f.dNum
    let n := bitsOf f.mod.toNat 3 0
    let va := (s.g f.sNum).bits
    let q := s.lq n
    let next (s : State) : State := s.setPc (s.nextPc (.launch f))
    check (va.bits 6 0 == 0) 0x1A va
    if !bitOf q.ctl.toNat 0 || !bitOf q.ctl.toNat 1 then .ok (next (s.setGw f.dNum 2))
    else if s.st.lvl == 0 && (!bitOf q.ctl.toNat 2 || q.asid != s.me.asid) then .ok (next (s.setGw f.dNum 2))
    else
      waitFor (s.fenceDone 3 15)
      waitFor q.holder.isNone
      let (s, m, bad) ← s.readBytes s.walker .read va 128
      check bad.elems.isEmpty 0x0D (recordPoison va bad)
      .ok (if q.count = 2 ^ ringExp q.ctl then next (s.setGw f.dNum 1) else s.launchSlot f n m)

end Sys2Proof.Machine
end

