-- ==== Sys2Proof/Machine/System.lean ====
section
/-! DEFINITION. System registers, the return from a trap, the waiting and stopping instructions, TLB invalidation and the
dispatch ring (15_traps_preemption.md R361-R395, 14_translation.md R356). -/

namespace Sys2Proof.Machine

/-! ## Reading system registers -/

/-- A register of a trap bank by its place in the order of R392 (R364). -/
def Bank.read (b : Bank) : Nat → Word
  | 0 => b.tpc.setWidth 64
  | 1 => b.tcause
  | 2 => b.tval
  | 3 => b.tseq
  | 4 => b.tstatus
  | _ => b.tscratch.bits

/-- SPOOLn (R222). -/
def Spool.word (q : Spool) : Word := Sys2Proof.word (q.out * 2 ^ 16 + q.rd * 2 ^ 11 + q.count * 2 ^ 5 + q.base)

/-- SLOTn (R221). -/
def Pillar.slotWord (x : Pillar) (j : Nat) : Word :=
  let h := x.mtx.slot j
  word (h.tag.toNat * 2 ^ 48 + h.type.toNat * 2 ^ 44 + h.orows * 2 ^ 30 + h.olen * 2 ^ 16 + h.readers * 2 ^ 8 +
    boolNat (x.mtx.slotPoison j) * 32 + h.state)

/-- SEGn (R131). -/
def Segment.word (g : Segment) : Word := Sys2Proof.word (g.lenKb * 2 ^ 18 + g.baseKb * 2 ^ 9 + g.state.toNat)

/-- FIBST (R150). -/
def Pillar.fibst (x : Pillar) : Word :=
  let n (st : FibreState) : Nat := x.slotsIn st
  let used := n .running + n .faulted + n .parked + n .ready
  word (n .running * 2 ^ 36 + n .faulted * 2 ^ 27 + n .parked * 2 ^ 18 + n .ready * 2 ^ 9 + (256 - used))

/-- MBATCH (R233). -/
def Batches.word (b : Batches) : Word := Sys2Proof.word (b.done.toNat * 2 ^ 32 + b.last.toNat)

/-- SAVEOFF with the areas that hold contexts (R384). -/
def State.saveoff (s : State) (p : PillarId) : Word :=
  (s.pil p).saveOff ||| word ((s.areasUsed p).map fun a => 2 ^ a).sum

/-- A counter is held by the stack (R393). -/
def stackCounter (n : Nat) : Bool := (0x498 ≤ n && n ≤ 0x49B) || (0x4BA ≤ n && n ≤ 0x4BE) || n == 0x4C6

/-- A system register as the current strand reads it (R392, R393). -/
def State.readSys (s : State) (n : Nat) : Word :=
  let x := s.me
  let t := s.st
  let st := stackOf s.curP
  if 0x400 ≤ n then word (if stackCounter n then (s.stack st).counters.getD n 0 else x.counters.getD n 0)
  else if 0x090 ≤ n then x.fwd[n - 0x090]?.getD 0
  else if 0x080 ≤ n then x.vault.rpmap[n - 0x080]?.getD 0
  else if 0x070 ≤ n then (x.seg (n - 0x070)).word
  else if 0x060 ≤ n then x.accWord (n - 0x060)
  else if 0x040 ≤ n then x.slotWord (n - 0x040)
  else if 0x030 ≤ n then (x.mtx.spool (n - 0x030)).word
  else if 0x020 ≤ n then t.supervisor.read (n - 0x020)
  else
    match n with
    | 0x000 => t.status
    | 0x001 => t.fmt
    | 0x002 => word (x.xbKb * 1024)
    | 0x003 => x.steal
    | 0x004 => x.pickNo.setWidth 64
    | 0x005 => t.rowprog
    | 0x006 | 0x007 | 0x008 | 0x009 | 0x00A | 0x00B => (t.bank t.lvl).read (n - 0x006)
    | 0x00C => x.stvec.setWidth 64
    | 0x00D => x.mtvec.setWidth 64
    | 0x00E => t.fbcur.setWidth 64
    | 0x00F => t.fuval
    | 0x010 => t.batches.word
    | 0x011 => t.preq
    | 0x012 => x.fibst
    | 0x013 => word (x.tags.count * 2 ^ 16 + x.tags.baseKb)
    | 0x014 => x.signal
    | 0x015 => (s.stack st).chain
    | 0x016 => x.vault.calendar
    | 0x017 => word (s.calclk st)
    | 0x018 => x.vault.vtherm
    | 0x01A => s.saveoff s.curP
    | 0x01B => s.ctxBase
    | 0x01C => x.fwdEnt
    | 0x01D => x.stripLast
    | _ => 0

/-- The poison mark of a system register: TSCRATCH keeps that of the value written to it (R11, R12, R364). -/
def State.sysMark (s : State) (n : Nat) : Bool :=
  if n = 0x00B then (s.st.bank s.st.lvl).tscratch.bad else if n = 0x025 then s.st.supervisor.tscratch.bad else false

/-- The level that may read a register (R392). -/
def readLevel (n : Nat) : Nat :=
  if (0x006 ≤ n && n ≤ 0x00C) || n == 0x011 || n == 0x015 || (0x01A ≤ n && n ≤ 0x01D) then 1
  else if n == 0x00D || (0x020 ≤ n && n ≤ 0x025) || (0x090 ≤ n && n ≤ 0x097) then 3
  else 0

/-- The level that may write a register; `none` where no level does, so that writes are ignored (R392, R8). -/
def writeLevel (n : Nat) : Option Nat :=
  if n ≤ 0x003 || n == 0x005 || n == 0x013 || n == 0x014 then some 0
  else if n == 0x004 || (0x006 ≤ n && n ≤ 0x00C) || n == 0x011 then some 1
  else if n == 0x00D || n == 0x015 || n == 0x016 || n == 0x01A || n == 0x01B || (0x020 ≤ n && n ≤ 0x025) ||
      (0x080 ≤ n && n ≤ 0x097) then some 3
  else none

/-! ## Writing system registers -/

/-- STATUS after a write by its own level (R362, R92). -/
def writeStatusWord (old v : Word) (lvl : Nat) : Word :=
  let v := if lvl = 0 && v.bits 1 0 = 3 then setBits v 1 0 2 else v
  let own := maskBits 10 9 ||| maskBits 5 5 ||| maskBits 1 0
  maskMerge old v (own ||| (if lvl = 0 then 0 else maskBits 8 8) ||| (if lvl = 3 then maskBits 11 11 else 0))

/-- A write of a trap-bank register (R364); TSCRATCH takes the poison mark too (R11). -/
def Bank.write (b : Bank) (i : Nat) (v : Word) (bad : Bool) : Bank :=
  match i with
  | 0 => { b with tpc := v.setWidth 19 &&& 0x7FFFE }
  | 1 => { b with tcause := v &&& (maskBits 31 24 ||| maskBits 17 14 ||| maskBits 7 0) }
  | 2 => { b with tval := v }
  | 3 => { b with tseq := v &&& maskBits 16 0 }
  | 4 => { b with tstatus := v }
  | _ => { b with tscratch := pword v bad }

/-- The end of a segment in bytes. -/
def Segment.endAddr (g : Segment) : Nat := (g.baseKb + g.lenKb) * 1024

/-- A write of XB (R128). -/
def Pillar.writeXb (x : Pillar) (v : Word) : Act Pillar := do
  let kb := v.bits 18 10
  check (kb ≤ 384 && (x.segs.toList.all fun g => g.state != 1 || g.endAddr ≤ kb * 1024) &&
    (x.tags.count == 0 || kb ≤ x.tags.baseKb)) 0x17 v
  let drop (g : Segment) : Segment := if g.state == 2 && kb * 1024 < g.endAddr then { g with state := 0 } else g
  .ok { x with xbKb := kb, segs := x.segs.map drop }

/-- A write of STEAL (R159). -/
def Pillar.writeSteal (x : Pillar) (v : Word) : Act Pillar := do
  check (v.bits 1 0 != 3) 0x17 v
  .ok { x with steal := v &&& (maskBits 31 16 ||| maskBits 1 0) }

/-- A write of TAGCFG (R143); a COUNT above 256 is refused (log entry 46). -/
def Pillar.writeTagcfg (x : Pillar) (v : Word) : Act Pillar := do
  let count := v.bits 24 16
  let base := v.bits 8 0
  check (x.xbKb ≤ base && base + count ≤ 384 && count ≤ 256 && x.tags.slots.entries.all fun e => e.2.state != 1) 0x17 v
  .ok { x with tags := { count := count, baseKb := base } }

/-- A write of SAVEOFF (R384): the window must end within layer 11. -/
def Pillar.writeSaveoff (x : Pillar) (v : Word) : Act Pillar := do
  check (v.bits 27 22 < 48) 0x17 v
  .ok { x with saveOff := v &&& maskBits 27 22 }

/-- A write of CHAIN (R375). -/
def State.writeChain (s : State) (v : Word) : Act State := do
  let st := stackOf s.curP
  check (v.bits 42 40 ≤ 4 && (List.range (v.bits 42 40)).all fun i => stackOf (chainLink v i) == st) 0x17 v
  .ok (s.modStack st fun k => { k with chain := v &&& (maskBits 45 44 ||| maskBits 42 0) })

/-- CALENDAR without its reserved fields (R8, R209). -/
def calendarWord (v : Word) : Word := v &&& (maskBits 48 36 ||| maskBits 21 0)

/-- A write of CALENDAR (R209): at once while CALCLK does not count, else at the next epoch. -/
def State.writeCalendar (s : State) (v : Word) : State :=
  let v := calendarWord v
  let run := (s.stack (stackOf s.curP)).running
  s.modMe fun x =>
    { x with vault := if run then { x.vault with nextCalendar := some v } else { x.vault with calendar := v } }

/-- The DRAM row that an RPMAP entry names (R193, R213). -/
def rpmapRow (v : Word) : Nat := v.bits 14 9 / 4 * 2048 + v.bits 8 0 * 4 + v.bits 14 9 % 4

/-- A write of RPMAP (R213): the row is closed and copied to its spare, which holds the same bytes. -/
def Pillar.writeRpmap (x : Pillar) (n : Nat) (v : Word) : Pillar :=
  let v := v &&& maskBits 15 0
  let close (w : Vault) : Vault := if bitOf v.toNat 15 then { w with openRows := w.openRows.filter (· != rpmapRow v) } else w
  { x with vault := close { x.vault with rpmap := x.vault.rpmap.setIfInBounds n v } }

/-- A write of FWD0 to FWD7 (R376): VALID of FWD0 clears by writing 1 (log entry 47). -/
def Pillar.writeFwd (x : Pillar) (n : Nat) (v : Word) : Pillar :=
  let old := x.fwd[n]?.getD 0
  let new := if n = 0 then if bitOf v.toNat 63 then setBits old 63 63 0 else old else v
  { x with fwd := x.fwd.setIfInBounds n new }

/-- The effect of a write of a system register by the current strand, its level checked (R378, R392). -/
def State.putSys (s : State) (n : Nat) (v : Word) (bad : Bool := false) : Act State :=
  let x := s.me
  let onPillar (r : Act Pillar) : Act State := r.map fun y => s.setPil s.curP y
  if 0x090 ≤ n then .ok (s.modMe fun x => x.writeFwd (n - 0x090) v)
  else if 0x080 ≤ n then .ok (s.modMe fun x => x.writeRpmap (n - 0x080) v)
  else if 0x020 ≤ n then .ok (s.modSt fun t => { t with supervisor := t.supervisor.write (n - 0x020) v bad })
  else
    match n with
    | 0x000 => .ok (s.modSt fun t => { t with status := writeStatusWord t.status v t.lvl })
    | 0x001 => .ok (s.modSt fun t => { t with fmt := v &&& (maskBits 15 8 ||| maskBits 3 0) })
    | 0x002 => onPillar (x.writeXb v)
    | 0x003 => onPillar (x.writeSteal v)
    | 0x004 => .ok (s.modMe fun x => { x with pickNo := v.setWidth 32 })
    | 0x005 => .ok (if bitOf v.toNat 63 then s else s.modMe fun x => x.abandonTile s.curT s.clk)
    | 0x006 | 0x007 | 0x008 | 0x009 | 0x00A | 0x00B =>
      .ok (s.modSt fun t => t.setBank t.lvl ((t.bank t.lvl).write (n - 0x006) v bad))
    | 0x00C => .ok (s.modMe fun x => { x with stvec := v.setWidth 19 &&& 0x7FFFE })
    | 0x00D => .ok (s.modMe fun x => { x with mtvec := v.setWidth 19 &&& 0x7FFFE })
    | 0x011 => .ok (s.modSt fun t => { t with preq := t.preq &&& ~~~(v &&& maskBits 62 61) })
    | 0x013 => onPillar (x.writeTagcfg v)
    | 0x014 => .ok (s.modMe fun x => { x with signal := x.signal &&& ~~~v })
    | 0x015 => s.writeChain v
    | 0x016 => .ok (s.writeCalendar v)
    | 0x01A => onPillar (x.writeSaveoff v)
    | 0x01B => .ok { s with ctxBase := v &&& maskBits 47 16 }
    | _ => .ok s

/-- A write of a system register by the current strand (R378): the level, then the register's own rule. -/
def State.writeSys (s : State) (n : Nat) (v : Word) (bad : Bool := false) : Act State :=
  match writeLevel n with
  | none => .ok s
  | some l => do
    check (l ≤ s.st.lvl) 0x0C 0
    s.putSys n v bad

/-- SYSRD (R378). -/
def execSysrd (f : Fields) (s : State) : Out :=
  finish (.sysrd f) s do
    s.destOk f.dNum
    check (readLevel f.immU ≤ s.st.lvl) 0x0C 0
    .ok (s.setG f.dNum (pword (s.readSys f.immU) (s.sysMark f.immU)))

/-- SYSWR (R378). -/
def execSyswr (f : Fields) (s : State) : Out :=
  finish (.syswr f) s (s.writeSys f.immU (s.g (riA f)).bits (s.g (riA f)).bad)

/-- A write of a system register as an event: what SYSWR does for the current strand, or its trap. -/
def writeEvent (n : Nat) (v : Word) (s : State) : Out :=
  match s.writeSys n v with
  | .ok s => .next s
  | .error (.trap c w) => .next (s.takeTrap { cause := c, tval := w })
  | .error _ => .next s

/-- XB is written (R128). -/
def execXbWrite (v : Word) (s : State) : Out := writeEvent 0x002 v s

/-- TAGCFG is written (R143). -/
def execTagcfgWrite (v : Word) (s : State) : Out := writeEvent 0x013 v s

/-- STEAL is written (R159). -/
def execStealWrite (v : Word) (s : State) : Out := writeEvent 0x003 v s

/-- ROWPROG.VALID is written 0 (R208). -/
def execRowprogAbandon (s : State) : Out := writeEvent 0x005 0 s

/-- FMT is written (R232). -/
def execFmtWrite (v : Word) (s : State) : Out := writeEvent 0x001 v s

/-- STATUS is written (R362). -/
def execStatusWrite (v : Word) (s : State) : Out := writeEvent 0x000 v s

/-- CALENDAR is written (R209). -/
def execCalendarWrite (v : Word) (s : State) : Out := writeEvent 0x016 v s

/-- RPMAP is written (R213). -/
def execRpmapWrite (n : BitVec 4) (v : Word) (s : State) : Out := writeEvent (0x080 + n.toNat) v s

/-- CHAIN is written (R375). -/
def execChainWrite (v : Word) (s : State) : Out := writeEvent 0x015 v s

/-- SAVEOFF is written (R384). -/
def execSaveoffWrite (v : Word) (s : State) : Out := writeEvent 0x01A v s

/-- A register without an entry of its own is written (R8): a system register by a strand, a device register by the
host, whose access is naturally aligned or ends in Unsupported Request (R411). -/
def execRegisterWrite (r : RegTarget) (v : Word) (s : State) : Out :=
  match r with
  | .sys p t n =>
    match writeEvent n.toNat v (s.focus p t) with
    | .next s' => .next (s'.focus s.curP s.curT)
    | o => o
  | .dev off => .next (if off.toNat % 8 = 0 then s.devWrite 4 off.toNat v else s.answer .error)

/-- A strand reaches a chain of words that is no instruction (R26, R27). -/
def execIllegalInstruction (cause : BitVec 8) (tval : Word) (s : State) : Out :=
  .next (s.takeTrap { cause := cause, tval := tval })

/-! ## TRET -/

/-- The mark, beside a strand's number among the discarding strands, that it has executed TRET (R397). -/
def returnedMark (n : Nat) : Nat := 4096 + n

/-- A strand whose outgoing worms are discarded executes TRET: once its twin has too, both send again (R397). -/
def State.endDiscard (s : State) : State :=
  let b := s.integrity
  let me := s.strandNumber
  let twin := (s.twinOf s.curP).toNat * 4 + s.curT.val
  if !b.discarding.has me then s
  else if b.discarding.has (returnedMark twin) || !b.discarding.has twin then
    let d := (((b.discarding.erase me).erase twin).erase (returnedMark twin)).erase (returnedMark me)
    { s with integrity := { b with discarding := d } }
  else { s with integrity := { b with discarding := b.discarding.insert (returnedMark me) } }

/-- TRET (R379): the strand part, the ring entry, and a stopped load or copy (R208). Back at user level with a pre-emption
pending, the strand stops at once (R382). -/
def execTret (f : Fields) (s : State) : Out :=
  finishAt (.tret f) s do
    let lvl := s.st.lvl
    check (lvl != 0) 0x0C 0
    let b := s.st.bank lvl
    check (retStatusOk b.tstatus lvl) 0x0E b.tstatus
    let s := s.modSt fun t =>
      let t := t.leaveTrap (s.aclk s.curP)
      { t with retStop := t.lvl == 0 && s.me.preempt.isSome }
    let s := if bitOf b.tseq.toNat 16 then
      s.modMe fun x => x.modRing (b.tseq.setWidth 16) fun r => { r with handling := false } else s
    .ok ((s.modMe fun x => x.resumeTile s.curT s.clk).endDiscard)

/-! ## Waiting and stopping -/

/-- RCV of a stack's chain (R375). -/
def State.rcv (s : State) (p : PillarId) : StrandId := Fin.ofNat 4 ((s.stack (stackOf p)).chain.bits 45 44)

/-- A forwarded trap that has not been taken waits for a strand (R376, R380). -/
def State.forwarded (s : State) (p : PillarId) (t : StrandId) : Bool :=
  bitOf (((s.pil p).fwd[0]).toNat) 63 && !(s.pil p).fwdTaken && s.rcv p == t

/-- The bits that end WAITI (R380). -/
def State.waitBits (s : State) : Word :=
  let x := s.me
  word (boolNat (x.signal != 0) + 2 * boolNat (s.st.preq.bits 62 61 != 0) + 4 * boolNat (s.forwarded s.curP s.curT) +
    8 * boolNat x.preempt.isSome)

/-- WAITI (R380). -/
def execWaiti (f : Fields) (s : State) : Out :=
  finish (.waiti f) s do
    s.destOk f.dNum
    waitFor (s.waitBits != 0)
    .ok (s.setGw f.dNum s.waitBits)

/-- HALT (R380). -/
def execHalt (f : Fields) (s : State) : Out :=
  finish (.halt f) s do
    check (s.st.lvl != 0) 0x0C 0
    .ok (s.modSt fun t => { t with run := .halted })

/-! ## TLB invalidation -/

/-- A reserved bit of an operand is set: an illegal instruction, at its base word (R356, R27). -/
def reservedBit (i : Instr) (bad : Bool) : Act Unit :=
  let ws := encode i
  let page := match i.row with | some (r, _) => r.page | none => 0
  check (!bad) 0x01 (illegalTval (ws.length - 1) (ws.getLastD 0) page)

/-- The entries that an invalidation drops from a TLB list (R356). -/
def dropTlb (sel : TlbEntry → Bool) (l : List TlbEntry) : List TlbEntry := l.filter fun e => !sel e

/-- Drops entries in every TLB of the package (R356). -/
def State.dropEntries (s : State) (sel : TlbEntry → Bool) : State :=
  { s with
    pillars := { entries := s.pillars.entries.map fun e =>
      (e.1, { e.2 with dataTlb := dropTlb sel e.2.dataTlb, tileTlb := dropTlb sel e.2.tileTlb }) }
    stackUnits := s.stackUnits.map fun k => { k with tlb := dropTlb sel k.tlb } }

/-- The host translations under way whose result an invalidation may drop are restarted (R356): the completion that comes first
is void. A completion may hold for up to the 512 GiB that an H entry hands to the host (R348). -/
def State.restartWalks (s : State) (sel : TlbEntry → Bool) : State :=
  let hit (r : AtsRequest) : Bool :=
    sel { asid := r.asid, global := false, va := r.va.toNat % 2 ^ 57 / 2 ^ 39 * 2 ^ 39, bits := 39, pa := 3 * 2 ^ 46 + 2 ^ 45, user := true,
          write := true, host := true }
  { s with host := { s.host with ats := s.host.ats.map fun r => if hit r then { r with void := r.void + 1 } else r } }

/-- The entries that an invalidation drops, wherever they are. -/
def State.entriesOf (s : State) (sel : TlbEntry → Bool) : List TlbEntry :=
  ((s.pillars.entries.flatMap fun e => e.2.dataTlb ++ e.2.tileTlb) ++
    (s.stackUnits.toList.flatMap fun k => k.tlb)).filter sel

/-- The physical addresses of accesses that have been translated and not performed (R356): pending stores, accesses to
peers, to the host or held, and procedures. -/
def State.inFlightPas (s : State) : List Nat :=
  (s.pillars.entries.flatMap fun e =>
    (e.2.strands.toList.flatMap fun t =>
      (t.stores.map (·.pa)) ++ (match t.blocked with | .remote _ pa _ _ _ _ | .sc _ _ pa _ _ => [pa] | _ => [])) ++
    (e.2.fibres.entries.filterMap fun y => match y.2.parking with
      | .remote _ pa _ _ _ _ _ _ | .queued _ pa _ _ _ _ => some pa
      | _ => none)) ++
  (s.procs.filterMap fun r =>
    match r.phase, r.place with
    | .performed _ _, _ | .failed _ _, _ => none
    | _, .localStore _ _ | _, .signal _ => none
    | _, pl => some (placePa pl))

/-- No access in flight lies in a range. -/
def State.rangesClear (s : State) (ranges : List (Nat × Nat)) : Bool :=
  s.inFlightPas.all fun pa => ranges.all fun r => !(r.1 ≤ pa && pa < r.1 + r.2)

/-- An invalidation (R356): the strand's stores first, then the entries go, then the accesses in flight end. -/
def invalidate (i : Instr) (s : State) (bad : Bool) (sel : TlbEntry → Bool) : Out :=
  finishAt i s do
    check (s.st.lvl != 0) 0x0C 0
    reservedBit i bad
    waitFor (s.fenceDone 4 1)
    let ranges := (s.entriesOf sel).map fun e => (e.pa, 2 ^ e.bits)
    let s' := (s.dropEntries sel).restartWalks sel
    if s'.rangesClear ranges then .ok ((s'.setPc (s.nextPc i)).issueAfter 200)
    else .ok (s'.modSt fun t => { t with blocked := .inval i ranges })

/-- The invalidation's accesses have ended (R356). -/
def State.invalidated (s : State) (i : Instr) : State :=
  (s.modSt fun t => { t.unblock with pc := s.nextPc i }).issueAfter 200

/-- TLBINV (R356): A is in the d field and B in the s field; REG only widens them. -/
def execTlbinv (f : Fields) (s : State) : Out :=
  let va := (s.g f.dNum).bits
  let b := (s.g f.sNum).bits
  let all := bitOf b.toNat 16
  invalidate (.tlbinv f) s (b.bits 63 17 != 0) fun e =>
    canonical va && e.va / 2 ^ e.bits == va.toNat % 2 ^ 57 / 2 ^ e.bits && (all || e.global || e.asid == b.setWidth 16)

/-- TLBINVA (R356). -/
def execTlbinva (f : Fields) (s : State) : Out :=
  let b := (s.g f.sNum).bits
  let all := bitOf b.toNat 16
  invalidate (.tlbinva f) s (b.bits 63 17 != 0) fun e => all || (!e.global && e.asid == b.setWidth 16)

/-- TLBINVP (R356). -/
def execTlbinvp (f : Fields) (s : State) : Out :=
  let b := (s.g f.sNum).bits
  invalidate (.tlbinvp f) s (b.bits 63 10 != 0) fun e => e.pa / 2 ^ 36 == 2048 + b.bits 9 0

/-! ## The dispatch ring -/

/-- A dword of the ring entry of a sequence number, with the poison mark of the operand that it captured (R12, R374, R381). -/
def Pillar.ringDword (x : Pillar) (seq : BitVec 16) (k : Nat) : PWord :=
  match x.ring.get? (seq.toNat % 64) with
  | some r =>
    if r.seq != seq then {}
    else
      let v := r.dwords.getD k {}
      { v with bits := v.bits ||| (if k = 0 && r.ended then maskBits 42 42 else 0) }
  | none => {}

/-- RINGRD (R381). -/
def execRingrd (f : Fields) (s : State) : Out :=
  finish (.ringrd f) s do
    s.destOk f.dNum
    let v := (s.g f.sNum).bits
    check (s.st.lvl != 0) 0x0C 0
    check (v.bits 18 16 ≤ 5 && v.bits 63 19 == 0) 0x0E v
    .ok (s.setG f.dNum (s.me.ringDword (v.setWidth 16) (v.bits 18 16)))

end Sys2Proof.Machine
end

