-- ==== Sys2Proof/Machine/Boundary.lean ====
section
/-! DEFINITION. What a strand may take at an instruction boundary, in the order of R370: late faults, interrupts and
pre-emption points; the trap messages of the handler chain; PREEMPT (15_traps_preemption.md R361-R388). -/

namespace Sys2Proof.Machine

/-! ## Boundaries -/

/-- A wait that an interrupt or a pre-emption abandons: the instruction has taken no effect yet and runs again afterwards
(R382; log entry 84). A scalar access lets its data come, and WAITI, DRAFTREL and the TLB invalidations end first (R109, R279,
R356, R380). -/
def abandonable : Instr → Bool
  | .waiti _ | .draftrel _ | .preempt _ | .tlbinv _ | .tlbinva _ | .tlbinvp _ => false
  | .stl _ | .scld _ | .scst _ | .scamo _ => true
  | i => (memOpOf i).isNone

/-- A wait inside an instruction that has begun to take effect, which ends before anything else happens to the strand: WAITI
never takes an interrupt (R380), a DRAFTREL has cancelled its entries (R279), and a PREEMPT is the point at which the strand
stops (R388). -/
def waitsInside : Instr → Bool
  | .waiti _ | .draftrel _ | .preempt _ => true
  | _ => false

/-- A strand waits for the shuttle inside an instruction that has begun to take effect. A pre-emption stops the shuttle's work, so
that it stops the strand there too, and the wait goes on after the restore (R279, R282, R286). -/
def Strand.waitsShuttle (r : Strand) : Bool :=
  match r.blocked with
  | .pinned _ _ | .wait (.draftrel _) => true
  | _ => false

/-- A running strand has no effect of an instruction under way: its next instruction has not issued, or waits before its effect,
and its division, if it began one, has ended (R370, R89, R109). A late fault may be delivered there, as before HANDOFF takes effect (R97, R368). -/
def State.atStart (s : State) (p : PillarId) (t : StrandId) : Bool :=
  let r := s.strandAt p t
  r.run == .running && (s.pil p).divider != some t &&
    (match r.blocked with | .no => true | .wait i => !waitsInside i | _ => false)

/-- A running strand stands at an instruction boundary: its next instruction has not issued, or is in a wait that may be
abandoned (R370, R382). -/
def State.atBoundary (s : State) (p : PillarId) (t : StrandId) : Bool :=
  s.atStart p t && (match (s.strandAt p t).blocked with | .wait i => abandonable i | _ => true)

/-- The strand's next vector instruction waits for a matrix instruction that the matrix engine, stopping for a pre-emption, does
not accept any more (R168, R244). -/
def Pillar.vectorStuck (x : Pillar) (t : StrandId) : Bool :=
  x.mtx.held && (x.vec.accepted.all fun d => d.strand != t) &&
    (match x.vec.queue t with
    | d :: _ => x.crossHazard d ((x.mtx.unit.queue t).filter fun o => namesVector o.instr)
    | [] => false)

/-- The strand's vector instructions that have issued have completed, or wait behind a late fault (R170, R173). DESIGN CHOICE: those
that wait for a matrix instruction which R244 keeps from being accepted do not hold the strand; they are saved with it (log
entry 108). -/
def State.vectorQuiet (s : State) (p : PillarId) (t : StrandId) : Bool :=
  let x := s.pil p
  (x.vec.pendingOf t).isEmpty || x.vectorFaulted t || x.vectorStuck t

/-- The current strand's own claim to a loom that has not formed. -/
def State.ownsClaim (s : State) : Bool := (s.me.mtx.loom.map fun l => !l.formed && l.strand == s.curT).getD false

/-- Leaves a wait: a waiting runner abandons FRUN, and a LOOMJOIN withdraws its claim (R153, R239). -/
def State.leaveWait (s : State) : State :=
  let s := match s.st.blocked with
    | .wait (.loomjoin _) => if s.ownsClaim then s.modMe fun x => x.modMtx fun m => { m with loom := none } else s
    | _ => s
  s.modSt fun r => r.abandonRun.unblock

/-! ## Late faults and interrupts -/

/-- The late fault that a strand takes next (R368, R370). -/
def State.lateDue (s : State) (p : PillarId) (t : StrandId) : Option LateFault :=
  if s.atStart p t then (s.strandAt p t).deliverable else none

/-- LATE_FAULT_DELIVERY (R368, R370). -/
def execLateFaultDelivery (p : PillarId) (t : StrandId) (s : State) : Out :=
  match s.lateDue p t with
  | some e => .next ((s.focus p t).leaveWait.deliver e)
  | none => .next s

/-- IE, at a bit of STATUS (R362). -/
def Strand.ie (r : Strand) : Bool := bitOf r.status.toNat 8

/-- A forwarded trap waits to be taken (R369). -/
def State.forwardPending (s : State) (p : PillarId) (t : StrandId) : Bool :=
  let r := s.strandAt p t
  s.atBoundary p t && s.forwarded p t && (r.lvl != 3 || r.ie)

/-- A signal waits to be taken (R369). -/
def State.signalPending (s : State) (p : PillarId) (t : StrandId) : Bool :=
  let r := s.strandAt p t
  s.atBoundary p t && (s.pil p).signal != 0 && bitOf r.status.toNat 9 && (r.lvl == 0 || (r.lvl == 1 && r.ie))

/-- A forwarded trap can be taken (R170, R369). -/
def State.forwardDue (s : State) (p : PillarId) (t : StrandId) : Bool := s.forwardPending p t && s.vectorQuiet p t

/-- A signal can be taken (R170, R369). -/
def State.signalDue (s : State) (p : PillarId) (t : StrandId) : Bool := s.signalPending p t && s.vectorQuiet p t

/-- FORWARDED_TRAP_INTERRUPT (R369, R376), after late faults (R370). -/
def execForwardedTrapInterrupt (p : PillarId) (t : StrandId) (s : State) : Out :=
  if (s.lateDue p t).isSome || !s.forwardDue p t then .next s
  else
    let s := (s.focus p t).leaveWait.modMe fun x => { x with fwdTaken := true }
    .next (s.takeTrap { cause := 0x84, tval := s.me.fwd[0], interrupt := true })

/-- SIGNAL_INTERRUPT (R369), after late faults and a forwarded trap (R370). -/
def execSignalInterrupt (p : PillarId) (t : StrandId) (s : State) : Out :=
  if (s.lateDue p t).isSome || s.forwardDue p t || !s.signalDue p t then .next s
  else
    let s := (s.focus p t).leaveWait
    .next (s.takeTrap { cause := 0x80, tval := s.me.signal, interrupt := true })

/-! ## The handler chain -/

/-- A trap message with a number of hops in its FWD0 (R376). -/
def withHops (fwd : Vector Word 8) (hops : Nat) : Vector Word 8 := fwd.set 0 (setBits fwd[0] 45 43 hops)

/-- A trap message goes on to the next link, as if its handler had faulted (R376). -/
def State.passOn (s : State) (p : PillarId) (fwd : Vector Word 8) : State :=
  s.sendTrapMessage p (some (fwd[0].bits 45 43)) (withHops fwd)

/-- TRAP_MESSAGE_ARRIVE: the n-th trap message under way lands, or passes on from a pillar whose FWD0 is valid (R376). -/
def execTrapMessageArrive (n : Nat) (s : State) : Out :=
  match s.trapMessages[n]? with
  | none => .next s
  | some m =>
    let s := { s with trapMessages := s.trapMessages.eraseIdx n }
    let p := s.forward m.dst
    let s := if p == m.dst then s else s.modPil m.dst fun x => x.count 0x4C5
    if bitOf (s.pil p).fwd[0].toNat 63 then .next (s.passOn p m.fwd)
    else .next (s.modPil p fun x => { x with fwd := m.fwd, fwdSince := s.aclk p, fwdTaken := false })

/-- The message in FWD0-FWD7 has waited 65,536 clk (R376). -/
def State.fwdExpired (s : State) (p : PillarId) : Bool :=
  let x := s.pil p
  bitOf x.fwd[0].toNat 63 && !x.fwdTaken && x.fwdSince + 65536 ≤ s.aclk p

/-- TRAP_MESSAGE_TIMEOUT (R376). -/
def execTrapMessageTimeout (p : PillarId) (s : State) : Out :=
  if !s.fwdExpired p then .next s
  else
    let m := (s.pil p).fwd
    .next ((s.modPil p fun x => { x with fwd := x.fwd.set 0 (setBits x.fwd[0] 63 63 0) }).passOn p m)

/-! ## Pre-emption points -/

/-- A request reaches a pillar of its rectangle (R382): the matrix engine accepts nothing more (R244). -/
def State.beginPreempt (s : State) (p : PillarId) : State :=
  s.modPil p fun x =>
    { x with preempt := x.preempt.or (some (s.aclk p)), mtx := { x.mtx with held := true }
             strands := x.strands.map fun r => { r with retStop := false } }

/-- PREEMPT_REQUEST_ARRIVE (R382). A request to a rectangle that is still loading or being restored waits for that to end (R412). -/
def execPreemptRequestArrive (p : PillarId) (s : State) : Out :=
  if !s.preempts.contains p then .next s
  else
    let s := { s with preempts := s.preempts.erase p }
    match s.jobOf p with
    | some j =>
      if !(j.preempting && (s.pil p).phase == .held) then .next s
      else if j.runs then .next (s.beginPreempt p)
      else .next { s with preempts := s.preempts ++ [p] }
    | none => .next s

/-- PREEMPT_AGE_LIMIT: the request is 2^20 clk old (R382). -/
def execPreemptAgeLimit (p : PillarId) (s : State) : Out :=
  match (s.pil p).preempt with
  | some c => if c + 2 ^ 20 ≤ s.aclk p then .next (s.modPil p fun x => { x with preemptAged := true }) else .next s
  | none => .next s

/-- The strand stands at a pre-emption point of a pending request (R382), and neither a late fault nor an interrupt comes
first (R370). -/
def State.stopPending (s : State) (p : PillarId) (t : StrandId) : Bool :=
  let x := s.pil p
  let r := x.strand t
  let inWait := (match r.blocked with | .wait i => abandonable i | _ => false) || r.waitingRunner || r.waitsShuttle
  let stands := s.atBoundary p t || (r.run == .running && r.waitsShuttle)
  x.preempt.isSome && stands && r.lvl == 0 && (!bitOf r.status.toNat 10 || x.preemptAged || inWait || r.retStop) &&
    (s.lateDue p t).isNone && !s.forwardPending p t && !s.signalPending p t

/-- The strand can stop for a pre-emption (R170, R382). -/
def State.stopDue (s : State) (p : PillarId) (t : StrandId) : Bool := s.stopPending p t && s.vectorQuiet p t

/-- PREEMPTION_POINT_STOP (R382). -/
def execPreemptionPointStop (p : PillarId) (t : StrandId) (s : State) : Out :=
  let stop (s : State) : State := s.modSt fun r => { r with run := .stopped, retStop := false }
  if !s.stopDue p t then .next s
  else if (s.strandAt p t).waitsShuttle then .next (stop (s.focus p t))
  else .next (stop (s.focus p t).leaveWait)

/-- PREEMPT (R388): it stops at user level with a request pending, once the strand's vector instructions that have issued have
completed (R170), and the strand resumes after it. -/
def execPreempt (f : Fields) (s : State) : Out :=
  finish (.preempt f) s do
    s.destOk f.dNum
    let pending := s.me.preempt.isSome
    waitFor (!(pending && s.st.lvl == 0) || s.vectorQuiet s.curP s.curT)
    let s' := s.setGw f.dNum (word (boolNat pending))
    .ok (if pending && s.st.lvl == 0 then s'.modSt fun r => { r with run := .stopped } else s')

end Sys2Proof.Machine
end

