-- ==== Sys2Proof/Machine/Digest.lean ====
section
/-! DEFINITION. SHA-256, by which Safelight measures images and forms the digest that it signs (17_host_pod.md R424, R425).
FIPS 180-4 defines it; here its round function runs on the two sequences of words that its working variables a-d and e-h are
windows of, and its constants are computed as the roots of primes that they are. -/

namespace Sys2Proof.Machine

/-! ## Constants -/

/-- The greatest r' ≥ r whose k-th power is at most n, by its lowest b bits. -/
def floorRoot (k n : Nat) : Nat → Nat → Nat
  | 0, r => r
  | b + 1, r => floorRoot k n b (if (r + 2 ^ b) ^ k ≤ n then r + 2 ^ b else r)

/-- A number has no divisor from 2 to m + 1. -/
def undivided (n : Nat) : Nat → Bool
  | 0 => true
  | m + 1 => n % (m + 2) != 0 && undivided n m

/-- The primes below 312: 64 of them. -/
def smallPrimes : List Nat := ((List.range 310).map (· + 2)).filter fun n => undivided n (min (n - 2) 16)

/-- The first 32 bits of the fraction of the k-th root of a number below 2^9. -/
def rootFraction (k n : Nat) : BitVec 32 := BitVec.ofNat 32 (floorRoot k (n * 2 ^ (32 * k)) 37 0)

/-! ## Compression -/

/-- The two sequences of words, newest first, and the sixteen words of the schedule that come next, oldest first. -/
structure Compression where
  a : List (BitVec 32)
  e : List (BitVec 32)
  next : List (BitVec 32)
  deriving DecidableEq, Repr

/-- Two rotations of a word and a third word, joined bit by bit. -/
def mix3 (x : BitVec 32) (m n : Nat) (y : BitVec 32) : BitVec 32 := x.rotateRight m ^^^ x.rotateRight n ^^^ y

/-- The schedule's word, sixteen places on. -/
def laterWord (w : List (BitVec 32)) : BitVec 32 :=
  let get (i : Nat) : BitVec 32 := w.getD i 0
  get 0 + get 9 + mix3 (get 1) 7 18 (get 1 >>> 3) + mix3 (get 14) 17 19 (get 14 >>> 10)

/-- A round with its constant. -/
def Compression.round (c : Compression) (k : BitVec 32) : Compression :=
  let a (i : Nat) : BitVec 32 := c.a.getD i 0
  let e (i : Nat) : BitVec 32 := c.e.getD i 0
  let choice := e 2 ^^^ (e 0 &&& (e 1 ^^^ e 2))
  let majority := (a 0 &&& a 1) ||| (a 2 &&& (a 0 ||| a 1))
  let t := k + c.next.getD 0 0 + e 3 + choice + mix3 (e 0) 6 11 ((e 0).rotateRight 25)
  { a := (t + majority + mix3 (a 0) 2 13 ((a 0).rotateRight 22)) :: c.a
    e := (t + a 3) :: c.e
    next := c.next.drop 1 ++ [laterWord c.next] }

/-- The hash value after a block of sixteen words. -/
def hashBlock (h block : List (BitVec 32)) : List (BitVec 32) :=
  let c := (smallPrimes.map (rootFraction 3)).foldl Compression.round { a := h.take 4, e := h.drop 4, next := block }
  h.zipWith (· + ·) (c.a.take 4 ++ c.e.take 4)

/-! ## Messages -/

/-- A number in n bytes, the most significant first. -/
def bigEndian (n v : Nat) : List Byte := (List.range n).reverse.map fun i => BitVec.ofNat 8 (v / 256 ^ i)

/-- The word of four bytes, the most significant first. -/
def wordAt (m : List Byte) (i : Nat) : BitVec 32 :=
  BitVec.ofNat 32 (((m.drop (4 * i)).take 4).foldl (fun v b => v * 256 + b.toNat) 0)

/-- A message, filled up to whole blocks: a one bit, zeros, and the length in bits. -/
def fillBlocks (m : List Byte) : List Byte :=
  let zeros := 63 - (m.length + 8) % 64
  m ++ 0x80 :: (List.replicate zeros 0 ++ bigEndian 8 (8 * m.length))

/-- SHA-256 of a list of bytes, as 32 bytes. -/
def sha256 (m : List Byte) : List Byte :=
  let bytes := fillBlocks m
  let hash := (List.range (bytes.length / 64)).foldl
    (fun h j => hashBlock h ((List.range 16).map fun i => wordAt bytes (16 * j + i)))
    ((smallPrimes.take 8).map (rootFraction 2))
  hash.flatMap fun w => bigEndian 4 w.toNat

end Sys2Proof.Machine
end

