-- ==== Sys2Proof/Machine/Preempt.lean ====
section
/-! DEFINITION. The save and the restore of a pillar's context, in the layout of the save areas, and migration
(15_traps_preemption.md R383-R391, 11_second_tier_drafts.md R286). -/

namespace Sys2Proof.Machine

/-! ## Draining -/

/-- The strand does not keep its pillar from being saved (R382). -/
def Strand.atRest (r : Strand) : Bool :=
  match r.run with
  | .idle | .exited | .halted | .stopped => r.stores.isEmpty && (r.blocked == .no || r.waitsShuttle)
  | _ => false

/-- A parked fibre does not wait for memory (R158). -/
def FibreSlot.atRest (y : FibreSlot) : Bool :=
  y.state != .parked || (match y.parking with | .none | .word _ _ _ _ | .join _ => true | _ => false)

/-- A message is not in transmission (R297). -/
def OutboxEntry.atRest (e : OutboxEntry) : Bool :=
  match e.phase with | .ready | .refused _ | .paging _ => true | .reserved | .held | .twin _ => false

/-- No CFETCH waits in a queue, unless a stopped operation of its strand holds it there (R132, R208). -/
def Pillar.fetchesTaken (x : Pillar) : Bool :=
  allStrands.all fun t => x.tileHeld t || !(x.tile.unit.queue t).any Dispatched.isFetch

/-- A pillar has stopped and drained (R383): engines, the instructions of the message port but its SENDs, parked accesses,
fetches, and worms. -/
def State.drained (s : State) (p : PillarId) : Bool :=
  let x := s.pil p
  x.strands.toList.all Strand.atRest && x.vec.accepted.isEmpty &&
    x.mtx.array.isNone && x.mtx.port.isNone && x.mtx.drains.isEmpty &&
    x.tile.fetches.isEmpty && x.fetchesTaken && x.tile.writeBacks.isEmpty && x.tile.waitingRows.isEmpty && (x.tile.ops.all fun o => !o.ended) &&
    (s.procs.all fun r => r.p != p) &&
    (x.msg.unit.queues.toList.all fun q => q.all fun d => match d.instr with | .send _ => true | _ => false) &&
    (x.fibres.entries.all fun e => e.2.atRest) && (x.msg.outbox.all OutboxEntry.atRest) &&
    x.msg.inboxes.toList.all fun b => b.reserved == 0

/-- The streaming operation of a drained pillar stops at its row boundary; the operations accepted behind it keep their order (R208).
The wait of a load that readers held is counted (R245). -/
def Pillar.stopLoads (x : Pillar) (clk : Nat) : Pillar :=
  match x.tile.stream with
  | none => x
  | some o =>
    let x := if x.readersHold o then x.count 0x485 (clk - o.due) else x
    if o.row = 0 && o.col = 0 && !o.resumed then x
    else
      let o := o.atBoundary
      let x := { x with tile := { x.tile with ops := x.tile.ops.filter fun q => q.d.seq != o.d.seq } }
      (x.modStrand o.d.strand fun t => { t with rowprog := rowprogWord o, stoppedOp := some o }).unpin clk

/-! ## The image of a context -/

/-- Bytes of a section whose arrangement belongs to the device (R385), in the n-th save. -/
def deviceBytes (n off len : Nat) : List Byte := (List.range len).map fun i => Config.saveByte n (off + i)

/-- The block of a strand (R385). -/
def Strand.block (t : Strand) (n off : Nat) : Memory :=
  let m : Memory := {}
  let m := (t.g.toList.zipIdx).foldl (fun m x => m.write (8 * x.2) 8 x.1.bits.toNat) m
  let m := (t.v.toList.zipIdx).foldl (fun m x => m.write (0x200 + 64 * x.2) 64 x.1.bits.toNat) m
  let m := (t.kRegs.toList.zipIdx).foldl (fun m x => m.write (0xA00 + 8 * x.2) 8 x.1.bits.toNat) m
  let m := (t.sh.toList.zipIdx).foldl (fun m x => m.write (0xA40 + 32 * x.2) 32 x.1.toNat) m
  m.writeList 0xB40 (deviceBytes n (off + 0xB40) 0x4C0)

/-- The full/empty section (R385). -/
def LocalStore.fullBits (l : LocalStore) : Memory :=
  Memory.write {} 0 6144 (l.empty.elems.foldl (fun v w => v - 2 ^ w) (2 ^ 49152 - 1))

/-- The 8-byte units of the save area that hold poisoned values, in the part that bits 0 to 85,503 of the map cover
(R386). -/
def Pillar.badUnits (x : Pillar) : List Nat :=
  let pick (base : Nat) (l : List Bool) : List Nat := (l.zipIdx.filter (·.1)).map fun y => base + y.2
  (allStrands.flatMap fun t =>
    let r := x.strand t
    let base := 0x600 + 0x200 * t.val
    pick base (r.g.toList.map (·.bad)) ++
      pick (base + 0x40) (r.v.toList.flatMap fun v => (List.range 8).map fun k => bitOf v.bad.toNat k) ++
      pick (base + 0x140) (r.kRegs.toList.map (·.bad)) ++
      pick (base + 0x148) (r.shBad.toList.flatMap fun b => (List.range 4).map fun k => bitOf b.toNat k)) ++
    (x.ls.bad.elems.map fun w => 0xE00 + w) ++ x.mtx.slotBad.elems.map fun b => 0xCE00 + b / 8

/-- Sets a bit of a memory. -/
def Memory.setBit (m : Memory) (j : Nat) : Memory := m.set (j / 8) (m.get (j / 8) ||| BitVec.ofNat 8 (2 ^ (j % 8)))

/-! The values of the device sections that can be poisoned, by their numbers in a section. -/

/-- The marks of a dispatched instruction. -/
def Dispatched.marks (d : Dispatched) : List Bool := [d.gs.bad, d.gt.bad, d.gd.bad, d.tainted]

/-- A dispatched instruction with the marks from a number on. -/
def Dispatched.remark (d : Dispatched) (f : Nat → Bool) (n : Nat) : Dispatched :=
  { d with
    gs := { d.gs with bad := f n }, gt := { d.gt with bad := f (n + 1) }, gd := { d.gd with bad := f (n + 2) }
    tainted := f (n + 3) }

/-- The marks of a strand's two places in the queue of an engine. -/
def EngineUnit.marks (u : EngineUnit) (t : StrandId) : List Bool :=
  (List.range 2).flatMap fun i => match (u.queue t)[i]? with | some d => d.marks | none => List.replicate 4 false

/-- The queue of a strand with the marks from a number on. -/
def EngineUnit.remark (u : EngineUnit) (t : StrandId) (f : Nat → Bool) (n : Nat) : EngineUnit :=
  u.setQueue t ((u.queue t).zipIdx.map fun x => x.1.remark f (n + 4 * x.2))

/-- The marks of a strand's section: the queues of its engines, its stopped operation, TSCRATCH of both banks, and what its fibre modes
keep. -/
def Pillar.strandMarks (x : Pillar) (t : StrandId) : List Bool :=
  let r := x.strand t
  ([x.vec, x.mtx.unit, x.tile.unit, x.msg.unit].flatMap fun u => u.marks t) ++
    (match r.stoppedOp with | some o => o.d.marks | none => List.replicate 4 false) ++
    [r.supervisor.tscratch.bad, r.machine.tscratch.bad] ++ r.modes.flatMap fun m => m.saved.toList.map (·.bad)

/-- The marks of the messages: eight in the outbox and eight in each inbox, of 64 words each. -/
def Pillar.messageMarks (x : Pillar) : List Bool :=
  let words (m : Option Message) : List Bool :=
    (List.range 64).map fun k => ((m.bind fun m => m.payload[k]?).map (·.bad)).getD false
  ((List.range 8).flatMap fun i => words ((x.msg.outbox[i]?).map (·.msg))) ++
    x.msg.inboxes.toList.flatMap fun b => (List.range 8).flatMap fun i => words b.messages[i]?

/-- Where a value of a strand's section stands in the save area (R385). -/
def strandOff (t : StrandId) (i : Nat) : Nat := 0x3B40 + 0x1000 * t.val + 8 * (Config.savedUnit 0 i % 152)

/-- Where a register of a fibre slot stands (R385). -/
def fibreOff (j i : Nat) : Nat := 0xE7000 + 80 * j + 8 * (Config.savedUnit 1 i % 10)

/-- Where a word of a message stands (R385). -/
def messageOff (i : Nat) : Nat := 0xEC000 + 8 * (Config.savedUnit 2 i % 2560)

/-- Where the poisoned values of the device sections stand (R386). -/
def Pillar.deviceBad (x : Pillar) : List Nat :=
  let offs (place : Nat → Nat) (l : List Bool) : List Nat := (l.zipIdx.filter (·.1)).map fun y => place y.2
  (allStrands.flatMap fun t => offs (strandOff t) (x.strandMarks t)) ++
    (x.fibres.entries.flatMap fun e => offs (fibreOff e.1) (e.2.regs.toList.map (·.bad))) ++ offs messageOff x.messageMarks

/-- The bit of the poison map that covers the 8 bytes at an offset of a save area (R386). -/
def mapBit (off : Nat) : Nat := if off < 0xA7000 then off / 8 else 85504 + (off - 0xE7000) / 8

/-- The poison section (R386). -/
def Pillar.poisonMap (x : Pillar) : Memory :=
  let m := (x.badUnits ++ x.deviceBad.map mapBit).foldl Memory.setBit {}
  x.mtx.tileBad.elems.foldl (fun m j => m.setBit (0x3000 * 8 + j)) m

/-- Which conditional sections a context has (R385): full/empty, fibre slots, messages, poison. -/
structure Sections where
  fe : Bool
  fibres : Bool
  messages : Bool
  poison : Bool
  deriving DecidableEq, Repr

/-- The conditional sections of a pillar (R385). -/
def Pillar.sections (x : Pillar) : Sections where
  fe := !x.ls.empty.elems.isEmpty
  fibres := x.fibres.entries.any fun e => e.2.state != .free
  messages := !x.msg.outbox.isEmpty || x.msg.inboxes.toList.any fun b => !b.messages.isEmpty
  poison := !x.badUnits.isEmpty || !x.mtx.tileBad.elems.isEmpty || !x.deviceBad.isEmpty

/-- The size of a save in KiB (R385). -/
def Sections.kib (c : Sections) : Nat :=
  916 + 8 * boolNat c.fe + 20 * boolNat c.fibres + 20 * boolNat c.messages + 20 * boolNat c.poison

/-- The start of a save area in the vault of a pillar (R384). -/
def Pillar.areaOff (x : Pillar) (area : Nat) : Nat := x.saveWindow + 0xFC000 * area

/-- The start of a context's save area, as a physical address (R384). -/
def SavedContext.base (c : SavedContext) : Nat := vaultPa c.p c.off

/-- Writes a section of a save area with good ECC (R386). -/
def State.putSection (s : State) (base off n : Nat) (m : Memory) (from_ : Nat := 0) : State :=
  { s with mem := s.mem.splice (base + off) n m from_, memBad := s.memBad.clear ((base + off) / 32) (n / 32) }

/-- Writes the context of a pillar to a save area (R383, R385, R386). -/
def State.writeContext (s : State) (p : PillarId) (area : Nat) : State :=
  let x := s.pil p
  let c := x.sections
  let base := vaultPa p (x.areaOff area)
  let n := s.freeCount
  let dev (off len : Nat) : Memory := Memory.writeList {} 0 (deviceBytes n off len)
  let put (b : Bool) (off len : Nat) (m : Memory) (s : State) : State := if b then s.putSection base off len m else s
  let s := { s with freeCount := n + 1 }
  let s := s.putSection base 0 0x1000 (dev 0 0x1000)
  let s := put c.fe 0x1000 0x2000 x.ls.fullBits s
  let s := allStrands.foldl (fun s t =>
    let off := 0x3000 + 0x1000 * t.val
    s.putSection base off 0x1000 ((x.strand t).block n off)) s
  let s := s.putSection base 0x7000 0x60000 x.ls.bytes
  let s := s.putSection base 0x67000 0x40000 x.mtx.slotBytes
  let s := s.putSection base 0xA7000 0x40000 x.mtx.tileBytes
  let s := put c.fibres 0xE7000 0x5000 (dev 0xE7000 0x5000) s
  let s := put c.messages 0xEC000 0x5000 (dev 0xEC000 0x5000) s
  put c.poison 0xF1000 0x5000 x.poisonMap s

/-- The sections of a save area whose arrangement belongs to the device (R385): offsets and lengths. -/
def SavedContext.deviceSections (c : SavedContext) : List (Nat × Nat) :=
  [(0, 0x1000)] ++ ((List.range 4).map fun t => (0x3B40 + 0x1000 * t, 0x4C0)) ++
    (if c.fibreSection then [(0xE7000, 0x5000)] else []) ++ (if c.messageSection then [(0xEC000, 0x5000)] else [])

/-- The bytes of some spans of a save area as memory holds them. -/
def State.imageOf (s : State) (c : SavedContext) (spans : List (Nat × Nat)) : Memory :=
  spans.foldl (fun m x => m.splice x.1 x.2 s.mem (c.base + x.1)) {}

/-- The device sections of a save area as memory holds them. -/
def State.deviceImage (s : State) (c : SavedContext) : Memory := s.imageOf c c.deviceSections

/-! ## Reading a context back -/

/-- The free context of the n-th restore from altered device sections (R387, log entry 10). -/
opaque alteredContext : Nat → Option Pillar

/-- Some device section of the area does not hold the bytes that were written (R387). -/
def SavedContext.altered (c : SavedContext) (s : State) : Bool :=
  c.deviceSections.any fun x => s.imageOf c [x] != Memory.splice {} x.1 x.2 c.device x.1

/-- What restore reads of a save area: its first byte, and whether the map was written. -/
structure SaveView where
  base : Nat
  hasMap : Bool
  deriving DecidableEq, Repr

/-- The value at an offset of n bytes, n a multiple of 8, is poisoned (R386). -/
def State.savedBad (s : State) (v : SaveView) (off n : Nat) : Bool :=
  s.physBad (v.base + off) n ||
    (v.hasMap && (List.range (n / 8)).any fun i =>
      let j := mapBit off + i
      bitOf (s.mem.get (v.base + 0xF1000 + j / 8)).toNat (j % 8))

/-- The values of a strand's section with the marks that a restore gives them. -/
def Pillar.remarkStrand (x : Pillar) (t : StrandId) (f : Nat → Bool) : Pillar :=
  let saved (m : FibreMode × Nat) : FibreMode :=
    { m.1 with saved := Vector.ofFn fun (k : Fin 8) => { m.1.saved[k] with bad := f (38 + 8 * m.2 + k.val) } }
  let strand (r : Strand) : Strand :=
    { r with
      stoppedOp := r.stoppedOp.map fun o => { o with d := o.d.remark f 32 }
      supervisor := { r.supervisor with tscratch := { r.supervisor.tscratch with bad := f 36 } }
      machine := { r.machine with tscratch := { r.machine.tscratch with bad := f 37 } }
      modes := r.modes.zipIdx.map saved }
  { x.modStrand t strand with
    vec := x.vec.remark t f 0, mtx := { x.mtx with unit := x.mtx.unit.remark t f 8 }
    tile := { x.tile with unit := x.tile.unit.remark t f 16 }, msg := { x.msg with unit := x.msg.unit.remark t f 24 } }

/-- The words of the messages with the marks that a restore gives them. -/
def Pillar.remarkMessages (x : Pillar) (f : Nat → Bool) : Pillar :=
  let msg (n : Nat) (m : Message) : Message :=
    { m with payload := m.payload.zipIdx.map fun w => { w.1 with bad := f (n + w.2) } }
  { x with msg := { x.msg with
    outbox := x.msg.outbox.zipIdx.map fun e => { e.1 with msg := msg (64 * e.2) e.1.msg }
    inboxes := Vector.ofFn fun (i : Fin 4) =>
      let b := x.msg.inboxes[i]
      { b with messages := b.messages.zipIdx.map fun m => msg (512 + 512 * i.val + 64 * m.2) m.1 } } }

/-- The ring entries of queued instructions show the marks of their operands (R374, R387). -/
def Pillar.remarkRing (x : Pillar) : Pillar :=
  let ds := [x.vec, x.mtx.unit, x.tile.unit, x.msg.unit].flatMap fun u => u.queues.toList.flatMap fun q => q
  let remark (r : RingEntry) : RingEntry :=
    match ds.find? fun d => d.seq == r.seq with
    | some d => { r with dwords := r.dwords.take 3 ++ [d.gs, d.gt, d.gd] }
    | none => r
  { x with ring := { entries := x.ring.entries.map fun e => (e.1, remark e.2) } }

/-- The poison marks that a restore gives the values of the device sections (R386): each by the bit of the map that covers it, or by an
uncorrectable error of its bytes. Where in its section a value stands is the device's own (log entry 98). -/
def SavedContext.remark (c : SavedContext) (s : State) (x : Pillar) : Pillar :=
  let bad (off : Nat) : Bool := s.savedBad { base := c.base, hasMap := c.poisonSection } off 8
  let x : Pillar := allStrands.foldl (fun x t => x.remarkStrand t fun i => bad (strandOff t i)) x
  let slot (j : Nat) (y : FibreSlot) : FibreSlot :=
    { y with regs := Vector.ofFn fun (k : Fin 8) => { y.regs[k] with bad := c.fibreSection && bad (fibreOff j k.val) } }
  let x : Pillar := { x with fibres := { entries := x.fibres.entries.map fun e => (e.1, slot e.1 e.2) } }
  (x.remarkMessages fun i => c.messageSection && bad (messageOff i)).remarkRing

/-- A dispatched instruction at user level. -/
def Dispatched.atUser (d : Dispatched) : Dispatched := { d with lvl := 0 }

/-- The queues of an engine at user level, with nothing accepted. -/
def EngineUnit.atUser (u : EngineUnit) : EngineUnit :=
  { u with queues := u.queues.map fun q => q.map Dispatched.atUser, accepted := [] }

/-- A strand whose effects stay within its job: user level, and nothing under way. -/
def Strand.confined (r : Strand) : Strand :=
  { r with
    status := r.status &&& 0x723, stores := [], blocked := .no, sampled := none, preqId := none
    stoppedOp := r.stoppedOp.map fun o => { o with d := o.d.atUser } }

/-- A free context as far as its effects stay within the job's rectangle and address space (R387): user level, links and
messages to pillars of the rectangle, nothing under way outside the pillar, and the place that the pillar has. -/
def Pillar.confined (x : Pillar) (p : PillarId) (place : Option PillarId) (ps : List PillarId) : Pillar :=
  { x with
    standsFor := place, strands := x.strands.map Strand.confined, xbKb := min x.xbKb 384
    fibres := { entries := x.fibres.entries.map fun e => (e.1, { e.2 with link := e.2.link.filter fun l => ps.contains l.1 }) }
    vec := x.vec.atUser
    mtx := { x.mtx with unit := x.mtx.unit.atUser, array := none, port := none, loom := none, drains := [] }
    tile := { x.tile with
      unit := x.tile.unit.atUser, ops := x.tile.ops.map fun o => { o with d := o.d.atUser }
      fetches := [], waitingRows := [], writeBacks := [] }
    msg := { x.msg with
      unit := x.msg.unit.atUser, outstanding := []
      outbox := x.msg.outbox.filter fun e => !e.msg.toHost && ps.contains (BitVec.ofNat 10 e.msg.dst) }
    commands := x.commands.map fun k =>
      { k with lvl := 0, command := k.command.map fun e => { e with pillar := p, request := none, grown := 0 } } }

/-- The part of a context that belongs to the device, as a restore reads it back: what was saved, with poison marks where it cannot be
read (R386), or a free context where the sections have been altered (R387). -/
def SavedContext.devicePart (c : SavedContext) (s : State) : Pillar :=
  if c.altered s then
    let ps := match s.jobOf c.p with | some j => (j.rect.map (s.seats j.number)).getD [c.p] | none => [c.p]
    ((alteredContext s.freeCount).getD c.ctx).confined c.p c.ctx.standsFor ps
  else c.remark s c.ctx

/-- The tile element at an offset is poisoned (R386). -/
def State.savedElemBad (s : State) (v : SaveView) (j : Nat) : Bool :=
  s.physBad (v.base + 0xA7000 + 4 * j) 4 ||
    (v.hasMap && bitOf (s.mem.get (v.base + 0xF4000 + j / 8)).toNat (j % 8))

/-- A 64-bit register at an offset of a save area. -/
def State.savedWord (s : State) (v : SaveView) (off : Nat) : PWord :=
  pword (word (s.mem.read (v.base + off) 8)) (s.savedBad v off 8)

/-- A vector register at an offset of a save area. -/
def State.savedV (s : State) (v : SaveView) (off : Nat) : VReg :=
  { bits := BitVec.ofNat 512 (s.mem.read (v.base + off) 64)
    bad := BitVec.ofNat 8 (((List.range 8).map fun k => boolNat (s.savedBad v (off + 8 * k) 8) * 2 ^ k).sum) }

/-- The registers of a strand's block (R385). -/
def Strand.reload (t : Strand) (s : State) (v : SaveView) (off : Nat) : Strand :=
  { t with
    g := Vector.ofFn fun (n : Fin 64) => s.savedWord v (off + 8 * n.val)
    v := Vector.ofFn fun (n : Fin 32) => s.savedV v (off + 0x200 + 64 * n.val)
    kRegs := Vector.ofFn fun (n : Fin 8) => s.savedWord v (off + 0xA00 + 8 * n.val)
    sh := Vector.ofFn fun (n : Fin 8) => BitVec.ofNat 256 (s.mem.read (v.base + off + 0xA40 + 32 * n.val) 32)
    shBad := Vector.ofFn fun (n : Fin 8) =>
      BitVec.ofNat 4 ((List.range 4).map fun k => boolNat (s.savedBad v (off + 0xA40 + 32 * n.val + 8 * k) 8) * 2 ^ k).sum }

/-- The numbers below n that satisfy a test, as a set. -/
def setBelow (n : Nat) (q : Nat → Bool) : NatSet := { elems := (List.range n).filter q }

/-- The context of a pillar with the bytes that its save area holds now (R387). -/
def SavedContext.reload (c : SavedContext) (s : State) : Pillar :=
  let x := c.devicePart s
  let v : SaveView := { base := c.base, hasMap := c.poisonSection }
  let bytes (off n : Nat) : Memory := Memory.splice {} 0 n s.mem (v.base + off)
  let fe := s.mem.read (v.base + 0x1000) 6144
  { x with
    strands := Vector.ofFn fun t => (x.strand t).reload s v (0x3000 + 0x1000 * t.val)
    ls :=
      { bytes := bytes 0x7000 0x60000
        empty := if c.feSection then setBelow 49152 fun w => !bitOf fe w else {}
        bad := setBelow 49152 fun w => s.savedBad v (0x7000 + 8 * w) 8 }
    mtx := { x.mtx with
      slotBytes := bytes 0x67000 0x40000
      slotBad := setBelow 0x40000 fun b => s.savedBad v (0x67000 + b / 8 * 8) 8
      tileBytes := bytes 0xA7000 0x40000
      tileBad := setBelow 65536 fun j => s.savedElemBad v j } }

/-- The sequence numbers of the instructions that wait in a pillar's queues, or to be streamed. -/
def Pillar.queuedSeqs (x : Pillar) : List (BitVec 16) :=
  ([x.vec, x.mtx.unit, x.tile.unit, x.msg.unit].flatMap fun u => u.queues.toList.flatMap fun q => q.map (·.seq)) ++
    x.tile.ops.map (·.d.seq)

/-- A pillar with the context of another (R385): what a job's context holds comes from it; counters, the vault, TLBs,
trap vectors, forwarding and test state are the pillar's own. The ring keeps the queued instructions (R387), and the vector unit's
pipes are free. -/
def Pillar.withContext (x ctx : Pillar) : Pillar :=
  let seqs := ctx.queuedSeqs
  { x with
    standsFor := x.standsFor.or ctx.standsFor, strands := ctx.strands, lastIssue := ctx.lastIssue, seqCounter := ctx.seqCounter
    ring := { entries := ctx.ring.entries.filter fun e => seqs.contains e.2.seq }
    xbKb := ctx.xbKb, ls := ctx.ls, segs := ctx.segs, tags := ctx.tags, fibres := ctx.fibres, runQueue := ctx.runQueue
    steal := ctx.steal, vec := ctx.vec, mtx := ctx.mtx, signal := ctx.signal, pickNo := ctx.pickNo
    pinBase := ctx.pinBase, commands := ctx.commands, pipes := Vector.replicate 2 0, tile := ctx.tile
    msg := { ctx.msg with
      outbox := ctx.msg.outbox.map fun e => match e.phase with | .paging _ => { e with phase := .ready } | _ => e
      inboxes := Vector.ofFn fun i =>
        { messages := ctx.msg.inboxes[i].messages ++ x.msg.inboxes[i].messages
          reserved := ctx.msg.inboxes[i].reserved + x.msg.inboxes[i].reserved } } }

/-- A stopped strand runs on. -/
def Strand.goOn (r : Strand) : Strand := if r.run == .stopped then { r with run := .running } else r

/-- Stopped strands run on, and stopped loads and copies resume before the operations that follow them, which are accepted again in
their order (R387, R208). -/
def Pillar.restart (x : Pillar) (clk : Nat) : Pillar :=
  let ops := x.tile.ops.map fun o => { o with due := clk + 24, charged := 0 }
  let x := { x with
    preempt := none, preemptAged := false, mtx := { x.mtx with held := false }, tile := { x.tile with ops := [] }
    strands := x.strands.map Strand.goOn }
  let x := allStrands.foldl (fun x t => x.resumeTile t clk) x
  { x with tile := { x.tile with ops := x.tile.ops ++ ops } }

/-! ## PILLAR_SAVE -/

/-- The context of a pillar is in a save area. -/
def State.savedFor (s : State) (n : Nat) (p : PillarId) : Option SavedContext :=
  s.saves.find? fun c => c.job == n && c.p == p

/-- A MIGRATE waits for the pillar. -/
def State.migrating (s : State) (p : PillarId) : Bool :=
  s.pillars.entries.any fun e => e.2.strands.toList.any fun r =>
    match r.blocked with | .migrate _ q => q == p | _ => false

/-- The shuttles let go of a job's drafts, whose entries stand as they are, and of its direct commands (R286). -/
def State.parkDrafts (s : State) (n : Nat) (ps : List PillarId) : State :=
  let ds := (s.drafts.filter fun d => d.job == n).map (·.number)
  let mine (w : ShuttleJob) : Bool := match w with | .entry d _ => ds.contains d | .command p _ => ps.contains p
  let park (q : Shuttle) : Shuttle :=
    { q with parked := q.parked ++ (q.work.filter mine).map fun w => (n, w), work := q.work.filter fun w => !mine w }
  { s with
    drafts := s.drafts.map fun d => if d.job == n then { d with parked := true } else d
    stackUnits := s.stackUnits.map fun k => { k with shuttle := park k.shuttle } }

/-- Messages that have come to a pillar since its save join its context. -/
def State.saveInboxes (s : State) (n : Nat) : State :=
  let late (c : SavedContext) : SavedContext :=
    let boxes := (s.pil c.p).msg.inboxes
    { c with ctx := { c.ctx with msg := { c.ctx.msg with
      inboxes := c.ctx.msg.inboxes.zipWith (fun b now => { b with messages := now.messages }) boxes } } }
  { s with saves := s.saves.map fun c => if c.job == n then late c else c }

/-- Every pillar of a job has been saved: its pillars become free, and it takes state 0x05 (R383, R84). A job that has
left for a test strip keeps its pillars and is restored after it (R404). -/
def State.leaveSilicon (s : State) (j : Job) (ps : List PillarId) : State :=
  let s := s.saveInboxes j.number
  let strip := ps.any fun p => (s.pil p).stripDue
  let s := s.parkDrafts j.number ps
  let s := ps.foldl (fun s p => s.modPil p fun x => { x.scrub with
    counters := x.counters, phase := if strip then .held else .free, job := if strip then x.job else none }) s
  State.settleJobs (s.modJob j.number fun j => { (j.enter 0x05 0) with
    preempting := false, loading := strip, eligibleAt := some s.clk, aged := false, chosen := none })

/-- Saves one drained pillar in its lowest free area (R383, R384, R394). -/
def State.savePillar (s : State) (n : Nat) (p : PillarId) : State :=
  let area := ((List.range 4).find? fun a => !(s.areasUsed p).contains a).getD 0
  let s := s.modPil p fun x => x.stopLoads s.clk
  let x := s.pil p
  let c := x.sections
  let s := s.writeContext p area
  let saved : SavedContext :=
    { p := p, area := area, off := x.areaOff area, job := n, ctx := x, feSection := c.fe, fibreSection := c.fibres, messageSection := c.messages
      poisonSection := c.poison }
  let saved := { saved with device := s.deviceImage saved }
  State.modPil { s with saves := s.saves ++ [saved] } p fun x => (x.count 0x4C3).count 0x4C4 (c.kib * 16)

/-- PILLAR_SAVE (R383): every pillar of the rectangle has stopped and drained, since procedures of one may still reach
another (log entry 48). -/
def execPillarSave (p : PillarId) (s : State) : Out :=
  match s.jobOf p with
  | none => .next s
  | some j =>
    match j.rect with
    | none => .next s
    | some r =>
      let ps := s.seats j.number r
      if !j.preempting || (s.savedFor j.number p).isSome || !(ps.all fun q => (s.pil q).preempt.isSome && s.drained q) ||
          ps.any s.migrating || 4 ≤ (s.areasUsed p).length then .next s
      else
        let s := s.savePillar j.number p
        if ps.all fun q => (s.savedFor j.number q).isSome then .next (s.leaveSilicon j ps) else .next s

/-! ## PILLAR_RESTORE -/

/-- An entry that is not done fails with ERR 6 (R286). -/
def DraftEntry.lost (e : DraftEntry) : DraftEntry := if 4 ≤ e.state then e else { e with state := 5, err := 6, request := none }

/-- An entry continues with the fields it now has (R286). -/
def DraftEntry.reread (e new : DraftEntry) (q : PillarId) : DraftEntry :=
  if 4 ≤ e.state then e
  else
    { e with
      trigger := new.trigger, due := new.due, tierVa := new.tierVa, vaultVa := new.vaultVa, len := new.len, op := new.op
      z := new.z, pillar := q, state := if e.state ≠ 0 && 2 ≤ new.op then 4 else e.state }

/-- Reads an entry of a parked draft again (R286): one that cannot be read or is malformed fails alone. -/
def State.rereadEntry (s : State) (d : Draft) (e : DraftEntry) (i : Nat) : Act DraftEntry :=
  match s.readBytes (launchWalker d.asid) .read (d.va + word (32 * (i + 1))) 32 with
  | .error r => if stopsDraft false r then .error r else .ok e.lost
  | .ok (_, m, bad) =>
    if !bad.elems.isEmpty || entryMalformed m 0 then .ok e.lost
    else
      let new := entryAt m 0
      (s.entryPillar e.pillar d.rect new.vaultVa).map fun q => e.reread new (q.getD e.pillar)

/-- Reads a parked draft again (R286). -/
def State.rereadEntries (s : State) (d : Draft) : Act (List DraftEntry) :=
  match s.readBytes (launchWalker d.asid) .read d.va 32 with
  | .error r => if stopsDraft false r then .error r else .ok (d.entries.map DraftEntry.lost)
  | .ok (_, h, bad) =>
    if !bad.elems.isEmpty || headerCount h != some d.entries.length then .ok (d.entries.map DraftEntry.lost)
    else d.entries.zipIdx.mapM fun x => s.rereadEntry d x.1 x.2

/-- The parked work of a job joins the queues of the shuttles again, in its order (R286, R274). -/
def State.requeueParked (s : State) (n : Nat) : State :=
  let back := s.stackUnits.toList.flatMap fun k => (k.shuttle.parked.filter fun x => x.1 == n).map (·.2)
  let s := { s with stackUnits := s.stackUnits.map fun k => { k with shuttle := { k.shuttle with
    parked := k.shuttle.parked.filter fun x => x.1 != n } } }
  back.foldl (fun s w =>
    match s.workEntry w with
    | some e => if e.state == 1 || e.state == 2 then s.modQueue (stackOf e.pillar) fun l => l ++ [w] else s
    | none => s) s

/-- The shuttles take a job's drafts and direct commands up again (R286), once the drafts have been read. -/
def State.unparkDrafts (s : State) (n : Nat) : Act State := do
  let read ← (s.drafts.filter fun d => d.job == n && d.parked).mapM fun d => (s.rereadEntries d).map fun es => (d.number, es)
  .ok (State.requeueParked (read.foldl (fun s x =>
    s.modDraft x.1 fun d => { d with parked := false, entries := x.2 }) s) n)

/-- Every pillar of a job has been restored: the rectangle restarts (R387, R84); it waits until its drafts have been read. -/
def State.restartJob (s : State) (j : Job) (ps : List PillarId) : State :=
  match s.unparkDrafts j.number with
  | .error e => State.modJob ((s.holdOff e).getD s) j.number fun j => { j with drafting := true }
  | .ok s =>
    let s := ps.foldl (fun s p => s.modPil p fun x => x.restart s.clk) s
    State.flush (s.modJob j.number fun j =>
      { (j.enter (if j.handedOff then 0x03 else 0x02) 0) with loading := false, drafting := false })

/-- A restored job whose drafts could not be read yet tries again (R286, R348). -/
def State.retryRestart (s : State) (job : Word) : State :=
  match s.launch.jobs.find? fun j => j.live && j.record.jobId == job && j.state == 0x05 && j.drafting with
  | some j => (match j.rect with | some r => s.restartJob j (s.seats j.number r) | none => s)
  | none => s

/-- PILLAR_RESTORE (R387): a pillar of a job that has its rectangle again reloads its context, once a test strip on it has
ended (R404). -/
def execPillarRestore (p : PillarId) (s : State) : Out :=
  match s.jobOf p with
  | none => .next s
  | some j =>
    match j.rect, s.savedFor j.number p with
    | some r, some c =>
      let y := s.pil p
      if j.state != 0x05 || !j.loading || y.strip.isSome || y.stripDue || y.failedMark then .next s
      else
        let x := c.reload s
        let s := State.modPil { s with saves := s.saves.filter fun a => !(a.job == j.number && a.p == p), freeCount := s.freeCount + 1 } p fun y =>
          (y.withContext x).count 0x4C4 (x.sections.kib * 16)
        let ps := s.seats j.number r
        if ps.all fun q => (s.savedFor j.number q).isNone then .next (s.restartJob j ps) else .next s
    | _, _ => .next s

/-! ## MIGRATE -/

/-- The bits of MIGRATE's operand that are not defined (R389). -/
def migrateBad (v : Word) : Bool := v.bits 63 22 != 0

/-- The row of a pillar in its stack (R2, R342). -/
def rowInStack (p : PillarId) : Nat := bitsOf p.toNat 7 4

/-- The spare of a pillar's row is there and free (R342). -/
def State.spareFree (s : State) (p : PillarId) : Bool := ((s.stack (stackOf p)).failedColumn.get? (rowInStack p)).isNone

/-- The pillar can give its work away (R389): a job holds it, and has not left it for a save area. -/
def State.canLeave (s : State) (p : PillarId) : Bool :=
  let x := s.pil p
  x.phase == .held &&
    (match s.jobOf p with | some j => !j.preempting || (s.savedFor j.number p).isNone | none => false) && !bitOf x.fwdEnt.toNat 63 && x.strands.toList.all fun r => r.run != .frozen

/-- Copies the populated vault of a pillar to another's (R389, R340): bytes and poison. -/
def State.copyVault (s : State) (src tgt : PillarId) : State :=
  let n := 12 * 2 ^ 24
  let a := vaultPa src 0
  let b := vaultPa tgt 0
  let bad := (s.memBad.elems.filter fun u => a / 32 ≤ u && u < (a + n) / 32).map fun u => u - a / 32
  let keep := s.memBad.clear (b / 32) (n / 32)
  let s := { s with
    mem := s.mem.splice b n s.mem a, memBad := bad.foldl (fun m u => m.insert (b / 32 + u)) keep }
  s.modPil tgt fun x =>
    { x with vault := x.vault.shortLived.keys.foldl (fun v r => v.wholeRow r s.clk) { x.vault with expired := {} } }

/-- A place in SRC becomes the same place in the target (R389). -/
def movePlace (src tgt : PillarId) (pl : Place) : Place :=
  match pl with
  | .vault p o => if p == src then .vault tgt o else pl
  | .localStore p a => if p == src then .localStore tgt a else pl
  | .signal p => if p == src then .signal tgt else pl
  | pl => pl

/-- Work of the shuttle for SRC becomes work for the target (R286). -/
def moveWork (src tgt : PillarId) (w : ShuttleJob) : ShuttleJob :=
  match w with | .command p i => if p == src then .command tgt i else w | w => w

/-- Who a page request is for, after the move. -/
def moveRequester (src tgt : PillarId) (r : Requester) : Requester :=
  match r with
  | .strand p t => if p == src then .strand tgt t else r
  | .fibre p j => if p == src then .fibre tgt j else r
  | .shuttle w => .shuttle (moveWork src tgt w)
  | r => r

/-- A number of a strand in the package, after the move. -/
def moveNumber (src tgt : PillarId) (n : Nat) : Nat := if n / 4 = src.toNat then tgt.toNat * 4 + n % 4 else n

/-- The last queued work moves: everything that other units hold for SRC (R389, R391, R286). -/
def State.moveNames (s : State) (src tgt : PillarId) : State :=
  let at_ (p : PillarId) : PillarId := if p == src then tgt else p
  let shuttle (k : Shuttle) : Shuttle :=
    { work := k.work.map (moveWork src tgt)
      parked := k.parked.map fun x => (x.1, moveWork src tgt x.2)
      records := { entries := k.records.entries.map fun e => (e.1, { e.2 with work := moveWork src tgt e.2.work }) } }
  { s with
    preempts := s.preempts.map at_
    saves := s.saves.map fun c =>
      if c.p == src then { c with p := tgt, ctx := { c.ctx with standsFor := c.ctx.standsFor.or (some src) } } else c
    procs := s.procs.map fun r => { r with p := at_ r.p, place := movePlace src tgt r.place }
    host := { s.host with requests := s.host.requests.map fun q => { q with requester := moveRequester src tgt q.requester } }
    stackUnits := s.stackUnits.map fun k => { k with shuttle := shuttle k.shuttle }
    drafts := s.drafts.map fun d => { d with entries := d.entries.map fun e => { e with pillar := at_ e.pillar } }
    launch := { s.launch with queues := s.launch.queues.map fun q => { q with holder := q.holder.map (moveNumber src tgt) } }
    integrity := { s.integrity with
      held := s.integrity.held.map fun w => { w with p := at_ w.p }
      discarding := { elems := (s.integrity.discarding.elems.foldl (fun m n =>
        NatSet.insert m (if n < 4096 then moveNumber src tgt n else 4096 + moveNumber src tgt (n - 4096))) {}).elems } } }

/-- Join counters of SRC's own fibres stay theirs on the target. -/
def Pillar.moveLinks (x : Pillar) (src tgt : PillarId) : Pillar :=
  { x with fibres := { entries := x.fibres.entries.map fun e =>
      (e.1, { e.2 with link := e.2.link.map fun l => if l.1 == src then (tgt, l.2) else l }) } }

/-- A pillar restarts, unless its whole rectangle is to be pre-empted (R382). -/
def State.restartPillar (s : State) (p : PillarId) : State :=
  let s := s.modPil p fun x => x.restart s.clk
  if ((s.jobOf p).map Job.preempting).getD false then s.beginPreempt p else s

/-- SRC's context becomes the target's, and SRC forwards (R389, R390). -/
def State.switchTo (s : State) (src tgt : PillarId) : State :=
  let s := s.leaveLoom src
  let s := s.copyVault src tgt
  let s := s.moveNames src tgt
  let x := (s.pil src).moveLinks src tgt
  let place := s.position src
  let s := s.modPil tgt fun y =>
    { y.withContext x with phase := .held, job := x.job, asid := x.asid, standsFor := some place }
  let s := s.restartPillar tgt
  s.modPil src fun x => { x.scrub with
    counters := x.counters, phase := .free, job := none, fwdEnt := word (2 ^ 63 + tgt.toNat) }

/-- The other members of a loom whose ply step was stopped go on, unless a request reached them too (R259). -/
def State.releaseHeld (s : State) (ps : List PillarId) : State :=
  ps.foldl (fun s p => s.modPil p fun x =>
    if x.preempt.isNone then { x with mtx := { x.mtx with held := false } } else x) s

/-- The operand of a MIGRATE that a strand executes. -/
def State.migrateOperand (s : State) (f : Fields) : Word := (s.g f.sNum).bits

/-- Ends a MIGRATE with a code (R389). -/
def State.endMigrate (s : State) (f : Fields) (code : Nat) : State :=
  (s.setGw f.dNum (word code)).modSt fun r => { r.unblock with pc := s.nextPc (.migrate f) }

/-- A target that was set aside for a MIGRATE becomes free again. -/
def State.releaseTarget (s : State) (tgt : PillarId) : State :=
  s.modPil tgt fun x => if x.phase == .held && x.job.isNone then { x with phase := .free } else x

/-- SRC has drained (R389): copy, switch, and the end of the instruction; a target that has failed leaves SRC as it
was. -/
def State.finishMigrate (s : State) (f : Fields) (src : PillarId) : State :=
  let v := s.migrateOperand f
  let members := ((s.claimOf src).map (·.members)).getD []
  let tgt : PillarId := BitVec.ofNat 10 (v.bits 19 10)
  let s := s.modPil src fun x => x.stopLoads s.clk
  if !((s.pil src).phase == .held && (s.jobOf src).isSome) then
    let s := if bitOf v.toNat 20 then s else s.releaseTarget tgt
    s.endMigrate f 1
  else if bitOf v.toNat 20 && !s.spareFree src then (((s.restartPillar src).releaseHeld members).endMigrate f 4)
  else if bitOf v.toNat 20 then
    let s := s.modStack (stackOf src) fun k => { k with failedColumn := k.failedColumn.set (rowInStack src) (bitsOf src.toNat 3 0) }
    let s := s.modPil src fun x => { x with failedMark := false }
    (((s.restartPillar src).releaseHeld members).endMigrate f 0)
  else if (s.pil tgt).phase == .held && (s.pil tgt).job.isNone then
    ((s.switchTo src tgt).releaseHeld members).endMigrate f 0
  else (((s.restartPillar src).releaseHeld members).endMigrate f 4)

/-- MIGRATE (R389). -/
def execMigrate (f : Fields) (s : State) : Out :=
  finishAt (.migrate f) s do
    s.destOk f.dNum
    check (s.st.lvl == 3) 0x0C 0
    let v := s.migrateOperand f
    check (!migrateBad v) 0x0E v
    let src : PillarId := BitVec.ofNat 10 (v.bits 9 0)
    let tgt : PillarId := BitVec.ofNat 10 (v.bits 19 10)
    let spare := bitOf v.toNat 20
    if bitOf v.toNat 21 then
      if !bitOf (s.pil src).fwdEnt.toNat 63 then .ok (s.endMigrate f 1)
      else
        .ok ((s.modPil src fun x => { x.scrub with fwdEnt := 0, phase := .free, job := none }).endMigrate f 0)
    else if src == s.curP then .ok (s.endMigrate f 3)
    else if !s.canLeave src then .ok (s.endMigrate f 1)
    else if (if spare then !s.spareFree src else !s.isFree tgt || stackOf tgt != stackOf src) then .ok (s.endMigrate f 2)
    else
      let s := if spare then s else s.modPil tgt fun x => { x with phase := .held }
      .ok ((s.beginPreempt src).modSt fun r => { r with blocked := .migrate (.migrate f) src })

end Sys2Proof.Machine
end

