-- ==== Sys2Proof/Machine/Integrity.lean ====
section
/-! DEFINITION. Link errors, double weave, containment, and test strips with their failure records (16_integrity.md
R396-R408). -/

namespace Sys2Proof.Machine

/-! ## Link errors -/

/-- The number of a mesh port (R106). -/
def portNumber : MeshPort → Nat
  | .north => 0 | .east => 1 | .south => 2 | .west => 3

/-- FLIT_CRC_RESEND (R289, R396): a flit fails its check; a failure no later than 8 clk after the last of its link is in a
row with it, and the sixteenth in a row halts the stack. -/
def execFlitCrcResend (p : PillarId) (port : MeshPort) (s : State) : Out :=
  match neighbour p port with
  | none => .next s
  | some _ =>
    let k := portNumber port
    let x := s.pil p
    let last := x.crcAt[k]?.getD 0
    let now := s.aclk p
    let run := if now ≤ last + 8 then x.crcRuns[k]?.getD 0 + 1 else 1
    let s := s.modPil p fun x =>
      ({ x with crcRuns := x.crcRuns.setIfInBounds k run, crcAt := x.crcAt.setIfInBounds k now } : Pillar).count 0x4A8
    if 16 ≤ run then .next (s.haltStack (stackOf p) none) else .next s

/-- The neighbours of a pillar signal off and on, a bit for each port (R106, R291). -/
def State.linksOff (s : State) (p : PillarId) (request response : BitVec 4) : State :=
  s.modPil p fun x => { x with reqOff := request, rspOff := response }

/-! ## Errors of the memories -/

/-- The 8 bytes that hold an address of local store become poisoned (R396, R138). -/
def Pillar.lsError (x : Pillar) (a : LsAddr) : Pillar :=
  if a.toNat < 0x60000 then { x with ls := { x.ls with bad := x.ls.bad.insert (a.toNat / 8) } } else x

/-- The n-th 8 bytes of the operand slots become poisoned (R396, R221). -/
def Pillar.slotError (x : Pillar) (n : Nat) : Pillar :=
  if n < 32 * 1024 then x.modMtx fun m => { m with slotBad := m.slotBad.putRange (8 * n) true 8 } else x

/-- The n-th 8 bytes of the accumulator tiles, two elements, become poisoned (R396, R229). -/
def Pillar.tileError (x : Pillar) (n : Nat) : Pillar :=
  if n < 16 * 2048 then x.modMtx fun m => { m with tileBad := m.tileBad.putRange (2 * n) true 2 } else x

/-- The 32-byte unit that holds an address of a vault or the second tier becomes poisoned (R396, R465). -/
def State.unitError (s : State) (pa : Nat) : State :=
  match placeOf pa with
  | .vault _ _ | .tier _ => if s.populated pa then { s with memBad := s.memBad.insert (pa / 32) } else s
  | _ => s

/-! ## Double weave -/

/-- TVAL of cause 0x6A (R398). -/
def weaveTval (number : Nat) (twin : PillarId) (timeout : Bool) : Word :=
  word (number % 2 ^ 32 + twin.toNat * 2 ^ 32 + boolNat timeout * 2 ^ 42)

/-- A counter of the integrity block grows, to 2^64 - 1 at most (R407). -/
def satSucc (n : Nat) : Nat := min (n + 1) (2 ^ 64 - 1)

/-- The held worms of a strand, oldest first. -/
def State.heldOf (s : State) (p : PillarId) (t : StrandId) : List HeldWorm :=
  s.integrity.held.filter fun w => w.p == p && w.t == t

/-- A strand's instructions dispatched before a place in its order have worms to send yet, as far as the engines know (R397). -/
def Pillar.owesWorm (x : Pillar) (t : StrandId) (ord : Nat) : Bool :=
  let owes (d : Dispatched) : Bool := d.strand == t && d.ord < ord
  let drains (d : Dispatched) : Bool := owes d && (match d.instr with | .drain _ => true | _ => false)
  (x.tile.unit.queue t ++ x.msg.unit.queue t).any owes || (x.tile.ops.any fun o => !o.ended && owes o.d) ||
    (x.tile.fetches.any fun o => o.matched.isNone && owes o.d) ||
    (x.tile.writeBacks.any fun b => !b.matched && b.strand == t && b.ord < ord) ||
    (match (x.strand t).stoppedOp with | some o => owes o.d | none => false) ||
    (x.mtx.unit.queue t ++ x.mtx.port.toList.map (·.d)).any drains || (x.mtx.drains.any fun o => !o.matched && owes o.d)

/-- The number of a held worm (R397): how many outgoing worms of its strand come before it in dispatch order. -/
def State.wormRank (s : State) (w : HeldWorm) : Nat :=
  let before := (s.strandAt w.p w.t).sent.entries.filter fun e => e.1 < w.number / 2 ^ 32
  (before.map (·.2)).sum + w.number % 2 ^ 32

/-- No instruction before that of a held worm sends more worms: its number stands. -/
def State.wormSettled (s : State) (w : HeldWorm) : Bool := !(s.pil w.p).owesWorm w.t (w.number / 2 ^ 32)

/-- Two worms of twins form a pair (R397): by their numbers, or, while instructions before one of them may send more, by the places of
their instructions and their own among those of the instruction (log entry 94). -/
def State.pairs (s : State) (w v : HeldWorm) : Bool :=
  if s.wormSettled w && s.wormSettled v then s.wormRank w == s.wormRank v else w.number == v.number

/-- The worm of a pillar's twin that forms a pair with a held worm. -/
def State.partner (s : State) (w : HeldWorm) : Option HeldWorm := (s.heldOf (s.twinOf w.p) w.t).find? (s.pairs w)

/-- A worm is no longer held. -/
def State.unhold (s : State) (w : HeldWorm) : State :=
  { s with integrity := { s.integrity with held := s.integrity.held.filter fun a => a != w } }

/-- The procedure of a strand with a sequence number, as it is held. -/
def isHeldProc (p : PillarId) (t : StrandId) (seq : BitVec 16) (r : Procedure) : Bool :=
  r.p == p && r.t == t && r.seq == seq && r.phase == .held

/-- The direct command slot whose start a worm waits for. -/
def Pillar.heldCommand (x : Pillar) (t : StrandId) (seq : BitVec 16) : Option Nat :=
  (List.range 16).find? fun j =>
    let c := x.cmd j
    c.strand == t && c.seq == seq && (match c.command with | some e => e.state == 0 | none => false)

/-- A command that waited for its hash starts. -/
def State.startHeld (s : State) (w : HeldWorm) : State :=
  match (s.pil w.p).heldCommand w.t w.seq with
  | some j => s.startCommand w.p j
  | none => s

/-- The entry of an outbox that waits for its hash. -/
def Pillar.heldEntry (x : Pillar) (t : StrandId) (seq : BitVec 16) : Option OutboxEntry :=
  x.msg.outbox.find? fun e => e.phase == .held && e.msg.strand == t && e.msg.seq == seq

/-- The procedure of a matched worm leaves (R397, R406, R421), and that of the right twin shares its response. -/
def State.sendMatched (s : State) (l r : HeldWorm) : State :=
  let phase (q : Procedure) : ProcPhase := s.leavePhase q.place
  let left := s.procs.filter fun q => l.ringed && isHeldProc l.p l.t l.seq q && phase q == .sent
  let s := { s with
    procs := s.procs.map fun q =>
      if l.ringed && isHeldProc l.p l.t l.seq q then { q with phase := phase q, sent := s.aclk q.p }
      else if r.ringed && isHeldProc r.p r.t r.seq q then { q with phase := .merged l.p l.t l.seq }
      else q }
  left.foldl State.logProc s

/-- The access of a matched worm leaves (R397, R406). -/
def State.noteMatched (s : State) (w : HeldWorm) : State :=
  let note (i : Instr) (pa : Nat) : State := match memOpOf i with | some o => s.noteEgress w.p o pa | none => s
  match (s.pil w.p).parkedOn w.t w.number with
  | some j =>
    match ((s.pil w.p).fibre j).parking with
    | .remote i pa _ _ _ _ _ _ => note i pa
    | _ => s
  | none =>
    match (s.strandAt w.p w.t).blocked with
    | .remote i pa _ _ _ _ => if w.ringed then s else note i pa
    | _ => s

/-- A right fibre that is parked on a matched worm waits for the left one's response. -/
def Pillar.joinParked (x : Pillar) (w : HeldWorm) (number : Nat) : Pillar :=
  let join : Parking → Parking
    | .remote i pa sent va a b t _ => .remote i pa sent va a b t number
    | k => k
  match x.parkedOn w.t w.number with
  | some j => x.modFibre j fun y => { y with parking := join y.parking }
  | none => x

/-- The two worms of a pair are equal (R397): the left one goes on, and the right strand shares its response. -/
def State.pairGoesOn (s : State) (l r : HeldWorm) : State :=
  let s := ((s.unhold l).unhold r).sendMatched l r
  let s := { s with integrity := { s.integrity with dwPairs := satSucc s.integrity.dwPairs } }
  let s := (s.noteMatched l).modPil r.p fun x => x.joinParked r l.number
  let s := (s.startHeld l).startHeld r
  match (s.pil l.p).heldEntry l.t l.seq, (s.pil r.p).heldEntry r.t r.seq with
  | some a, some b =>
    (s.modOutbox l.p a.number (setEntry a.number .ready)).modOutbox r.p b.number (setEntry b.number (.twin a.number))
  | _, _ => s

/-- The instruction that a worm came from. -/
def HeldWorm.sentBy (w : HeldWorm) (d : Dispatched) : Bool := w.ringed && d.strand == w.t && d.seq == w.seq

/-- The access of a strand or a fibre that waits for a worm ends: with a value, or with none, and the PC past it (R397). -/
def State.endAccess (s : State) (w : HeldWorm) (value : Bool) : State :=
  let done (s : State) (i : Instr) (fin : State → MemOp → Nat × Bool → State) : State :=
    match memOpOf i with
    | some o =>
      let o := if value then o else { o with op := .store }
      let (s, v) := if value then s.freeValue o.n else (s, 0)
      fin s o (v, false)
    | none => s
  match (s.strandAt w.p w.t).blocked, (s.pil w.p).parkedOn w.t w.number with
  | _, some j =>
    match ((s.pil w.p).fibre j).parking with
    | .remote i _ _ _ _ _ _ _ => done s i fun s o v => s.modPil w.p fun z => z.wake j (FibreSlot.returned i o v)
    | _ => s
  | .remote i _ _ _ _ _, none => done s i fun s o v => ((s.focus w.p w.t).returnData i o v).focus s.curP s.curT
  | _, none => s

/-- The dispatched instruction of a worm that does not go on ends without effect, but for the late fault (R397). -/
def State.cutDispatched (s : State) (w : HeldWorm) : State :=
  let dropped := s.procs.filter (isHeldProc w.p w.t w.seq)
  let s := { s with procs := s.procs.filter fun q => !isHeldProc w.p w.t w.seq q }
  let s := dropped.foldl (fun s q => s.modPil w.p fun x =>
    (x.endProc w.t w.seq).modStrand w.t fun r => r.unpend (returns q.instr)) s
  let s := match (s.pil w.p).heldEntry w.t w.seq with
    | some e => (s.dropOutbox w.p e.number).modPil w.p fun x => x.endProc w.t w.seq
    | none => s
  s.modPil w.p fun x =>
    let x := match x.tile.stream with
      | some o => if w.sentBy o.d then x.stopStream s.clk else x
      | none => x
    let x := (x.tile.fetches.filter fun o => w.sentBy o.d).foldl (fun x o => x.settleFetch o 3) x
    x.modMtx fun m => { m with drains := m.drains.filter fun o => !w.sentBy o.d }

/-- The write-back that a worm came from. -/
def HeldWorm.isWriteBack (w : HeldWorm) (b : WriteBack) : Bool := !w.ringed && b.strand == w.t && wormNumber b.ord 0 == w.number

/-- The instruction of a worm that does not go on ends without effect (R397). -/
def State.cutWorm (s : State) (w : HeldWorm) : State :=
  let s := s.unhold w
  if w.ringed then s.cutDispatched w
  else
    let s := s.endAccess w false
    s.modPil w.p fun x =>
      let x := { x with tile := { x.tile with writeBacks := x.tile.writeBacks.filter fun b => !w.isWriteBack b } }
      match x.heldCommand w.t w.seq with
      | some j => x.modCmd j fun c => { c with command := none }
      | none => x

/-- An engine's instruction whose worm is discarded no longer waits for its twin: what it would read or write goes nowhere. -/
def Pillar.unmatch (x : Pillar) (w : HeldWorm) : Pillar :=
  let clear (o : TileOp) : TileOp := if w.sentBy o.d then { o with matched := none, passed := false } else o
  let x := { x with tile := { x.tile with
    ops := x.tile.ops.map clear
    fetches := x.tile.fetches.map clear
    writeBacks := x.tile.writeBacks.map fun b => if w.isWriteBack b then { b with matched := false } else b } }
  x.modMtx fun m => { m with drains := m.drains.map fun o => if w.sentBy o.d then { o with matched := false } else o }

/-- A later worm of a strand whose worms are discarded goes nowhere (R397): a value it would return is open (log entry 18). -/
def State.discardWorm (s : State) (w : HeldWorm) : State :=
  let s := (s.unhold w).modPil w.p fun x => x.unmatch w
  if w.ringed then
    let (s, v) := s.freeValue 8
    let free : ProcPhase := .performed { bits := word v } { bits := word v }
    let s := { s with procs := s.procs.map fun q => if isHeldProc w.p w.t w.seq q then { q with phase := free } else q }
    match (s.pil w.p).heldEntry w.t w.seq with
    | some e => (s.dropOutbox w.p e.number).endProcOk w.p w.t w.seq
    | none => s
  else
    match (s.pil w.p).heldCommand w.t w.seq with
    | some j => s.modWork (.command w.p j) fun e => { e with state := 2, moved := e.len / 64 }
    | none => s.endAccess w true

/-- One strand of a pair that failed takes cause 0x6A late (R397): for its worm, or, if that never came, for the
instruction it has reached. -/
def State.failTwin (s : State) (p : PillarId) (t : StrandId) (w : Option HeldWorm) (lvl : BitVec 2) (tval : Word) :
    State :=
  let x := s.pil p
  let seq := match w with | some w => w.seq | none => x.seqCounter
  let ringed := match w with | some w => w.ringed | none => false
  let s := match w with | some w => s.cutWorm w | none => s
  let s := (s.integrity.held.filter fun a => a.p == p && a.t == t).foldl State.discardWorm s
  let s := s.modPil p fun x => x.raiseLate t { seq := seq, lvl := lvl, cause := 0x6A, tval := tval, ringed := ringed }
  { s with integrity := { s.integrity with discarding := s.integrity.discarding.insert (p.toNat * 4 + t.val) } }

/-- A pair differs, or the worm of the other strand did not come in time (R397, R398). -/
def State.pairFails (s : State) (w : HeldWorm) (other : Option HeldWorm) : State :=
  let q := s.twinOf w.p
  let number := s.wormRank w
  let s := s.failTwin w.p w.t (some w) w.lvl (weaveTval number q other.isNone)
  let s := s.failTwin q w.t other w.lvl (weaveTval number w.p other.isNone)
  State.raiseVector { s with integrity := { s.integrity with dwMismatch := satSucc s.integrity.dwMismatch } } 5

/-- The left pillar of a pair of twins, and the right one. -/
def State.leftRight (s : State) (p : PillarId) : PillarId × PillarId :=
  if s.inRightHalf p then (s.twinOf p, p) else (p, s.twinOf p)

/-- DW_HASH_ARRIVE (R397): the oldest worm of the left strand whose pair is complete is compared. Worms whose flits are the same have
the same hash. -/
def execDwHashArrive (p : PillarId) (t : StrandId) (s : State) : Out :=
  if !s.twinned p then .next s
  else
    match (s.heldOf (s.leftRight p).1 t).findSome? fun w => (s.partner w).map fun v => (w, v) with
    | some (w, v) => .next (if w.flits == v.flits then s.pairGoesOn w v else s.pairFails w (some v))
    | none => .next s

/-- A held worm of a strand has waited 65,536 clk for its twin's (R397). -/
def State.weaveLate (s : State) (p : PillarId) (t : StrandId) : Option HeldWorm :=
  (s.heldOf p t).find? fun w => w.since + 65536 ≤ s.aclk p && (s.partner w).isNone

/-- DW_TIMEOUT (R397). -/
def execDwTimeout (p : PillarId) (t : StrandId) (s : State) : Out :=
  match s.weaveLate p t with
  | some w => .next (s.pairFails w none)
  | none => .next s

/-! ## Containment -/

/-- The reset and scrub of a contained pillar (R402, R87): its vault and test state stay (log entry 45). -/
def Pillar.containReset (x : Pillar) : Pillar :=
  { x.scrub with phase := .fenced, job := none, xbKb := 0, stvec := 0, steal := Pillar.reset.steal, signal := 0 }

/-- An agent performs what is left of an RCOPY: at most 49,152 parts of 8 bytes, unless one must wait (R308). -/
def State.finishCopy : Nat → State → Procedure → State
  | 0, s, _ => s
  | fuel + 1, s, r =>
    let s := s.copyStep r
    match s.procs.find? fun q => q.p == r.p && q.t == r.t && q.seq == r.seq with
    | some q => if q.phase.ended || q == r then s else State.finishCopy fuel s q
    | none => s

/-- An agent performs a procedure whole; the requests merged into it end with it (R301, R312). -/
def State.completeProc (s : State) (r : Procedure) : State :=
  match r.instr with
  | .rcopy _ => State.finishCopy 49153 s r
  | _ => s.performWhole r

/-- What a contained agent does with a procedure that stands in its queue (R402, R403): one that it has started is completed, any
other is answered with cause 0x68, and with it those merged into it. -/
def State.fencedAnswer (s : State) (r : Procedure) : State :=
  if r.progress != 0 then s.completeProc r
  else
    match r.place with
    | .localStore q a => s.setPhase r (.failed 0x68 (lsTval 1 q a))
    | .signal q => s.setPhase r (.failed 0x68 (lsTval 1 q 0))
    | _ => s.setPhase r (.failed 0x68 (reachTval 1 r.va))

/-- A procedure stands at the agent of one of some pillars. -/
def State.standsAt (s : State) (ps : List PillarId) (r : Procedure) : Bool :=
  match r.place with
  | .vault _ _ | .localStore _ _ | .signal _ => ps.contains (s.procAgent r)
  | _ => false

/-- The procedures of a containment (R402): those that stand at the contained agents are answered, those that the contained
pillars sent elsewhere complete there, and the responses to these pillars are discarded at the fence. -/
def State.finishProcs (s : State) (ps : List PillarId) : State :=
  let sent := s.procs.filter fun r => r.phase == .sent
  let s := (sent.filter (s.standsAt ps)).foldl State.fencedAnswer s
  let s := (sent.filter fun r => ps.contains r.p && !s.standsAt ps r).foldl State.completeProc s
  { s with procs := s.procs.filter fun r => !ps.contains r.p }

/-- Messages of other pillars and of the host on their way to contained pillars are refused at the fence (R297, R402). -/
def State.refuseInbound (s : State) (ps : List PillarId) : State :=
  let into (a : OutboxEntry) : Bool :=
    a.phase == .reserved && !a.msg.toHost && ps.contains (s.forward (BitVec.ofNat 10 a.msg.dst))
  let senders := (s.pillars.entries.map fun e => (BitVec.ofNat 10 e.1, e.2.msg.outbox)).filter fun x => !ps.contains x.1
  (senders ++ [(servicePillar 0, s.host.sends)]).foldl
    (fun s x => (x.2.filter into).foldl (fun s a => s.messageFailed x.1 a 0x68 (a.msg.tval 1)) s) s

/-- The shuttles give up everything of a job and of its pillars (R286, R402). -/
def State.dropShuttleWork (s : State) (n : Nat) (ps : List PillarId) : State :=
  let ds := (s.drafts.filter fun d => d.job == n).map (·.number)
  let mine (w : ShuttleJob) : Bool := match w with | .entry d _ => ds.contains d | .command p _ => ps.contains p
  let clean (k : Shuttle) : Shuttle :=
    { work := k.work.filter fun w => !mine w
      parked := k.parked.filter fun w => w.1 != n
      records := { entries := k.records.entries.filter fun e => e.2.job != n } }
  { s with
    drafts := s.drafts.filter fun d => d.job != n
    stackUnits := s.stackUnits.map fun k => { k with shuttle := clean k.shuttle } }

/-- The targets that MIGRATE instructions of a pillar's strands have set aside. -/
def Pillar.migrateTargets (x : Pillar) : List PillarId :=
  x.strands.toList.filterMap fun r =>
    match r.blocked with
    | .migrate (.migrate f) _ => some (BitVec.ofNat 10 ((r.waitOperand f.sNum).bits 19 10))
    | _ => none

/-- Queues whose tail a strand of a contained pillar holds let it go (R96). -/
def State.releaseTails (s : State) (ps : List PillarId) : State :=
  (List.range s.launch.queues.size).foldl (fun s n =>
    match (s.lq n).holder with
    | some h => if ps.contains (BitVec.ofNat 10 (h / 4)) then s.releaseTail n else s
    | none => s) s

/-- What a job leaves behind on its pillars is finished or dropped, and the pillars are reset and scrubbed (R402, R88). -/
def State.clearJob (s : State) (j : Job) (r : Rect) : State :=
  let ps := s.seats j.number r
  let s := (ps.flatMap fun p => (s.pil p).migrateTargets).foldl State.releaseTarget s
  let s := s.finishProcs ps
  let s := s.refuseInbound ps
  let s := s.dropShuttleWork j.number ps
  let s := s.releaseTails ps
  let b := s.integrity
  let s := { s with
    integrity := { b with
      held := b.held.filter fun w => !ps.contains w.p
      discarding := { elems := b.discarding.elems.filter fun n => !ps.contains (BitVec.ofNat 10 (n % 4096 / 4)) } }
    preempts := s.preempts.filter fun p => !ps.contains p
    saves := s.saves.filter fun c => c.job != j.number }
  ps.foldl (fun s p => s.modPil p Pillar.containReset) s

/-- A fenced pillar comes out of its reset; one marked failed stays failed (R402). -/
def Pillar.unfence (x : Pillar) : Pillar :=
  if x.phase == .fenced then { x with phase := if x.failedMark then .failed else .free } else x

/-- Steps 1 to 5 of containment for a job on its rectangle (R402). -/
def State.contain (s : State) (j : Job) (r : Rect) : State :=
  let s := s.clearJob j r
  let s := { s with integrity := { s.integrity with containing := some r, containSince := s.clk } }
  (s.killJob j.number).settleJobs

/-- The pillars of a job that a stack halt killed are reset and scrubbed (R377, R88). -/
def State.reap (s : State) (n : Nat) : State :=
  match s.launch.jobs.find? fun j => j.number == n with
  | some j =>
    match j.rect with
    | some r =>
      let mine := (s.seats n r).filter fun p => (s.pil p).job == some n
      let s := if mine.isEmpty then s else s.clearJob j r
      (mine.foldl (fun s p => s.modPil p Pillar.unfence) s).settleJobs
    | none => s.settleJobs
  | none => s

/-- CONTAIN_GO (R401, R402): contains the rectangle that holds a pillar, unless it is free or a containment runs. -/
def execContainGo (p : PillarId) (s : State) : Out :=
  match s.integrity.containing, s.jobOf p with
  | none, some j =>
    match j.rect, (s.pil p).phase with
    | some r, .held | some r, .scrubbing => .next (s.contain j r)
    | _, _ => .next s
  | _, _ => .next s

/-- The pillars whose strip failed during another containment, and whose jobs no spare can take (R407). -/
def State.stillToContain (s : State) : List PillarId :=
  (s.pillars.keys.map (BitVec.ofNat 10)).filter fun p =>
    (s.pil p).failedMark && (s.pil p).phase == .held && !s.spareFree p

/-- CONTAINMENT_DONE (R402): the fences go down; a pillar marked failed stays failed. Jobs whose containment had to wait come
next (R407). -/
def execContainmentDone (p : PillarId) (s : State) : Out :=
  match s.integrity.containing with
  | none => .next s
  | some r =>
    if !r.has p && (s.pil p).phase != .fenced then .next s
    else
      let s : State := { s with
        pillars := { entries := s.pillars.entries.map fun e => (e.1, e.2.unfence) }
        integrity := { s.integrity with containing := none, contains := satSucc s.integrity.contains } }
      .next { s with effects := s.effects ++ s.stillToContain.map DevEffect.contain }

/-! ## Test strips -/

/-- The longest interval between strips (R408). -/
def State.stripInterval (s : State) : Nat := max s.integrity.stripper.toNat (2 ^ 20)

/-- Whether no strip has ended on a pillar for STRIPPER clk (R404). -/
def State.stripLate (s : State) (p : PillarId) : Bool :=
  (s.pil p).stripLast.toNat + s.stripInterval ≤ s.calclk (stackOf p)

/-- A strip can start on a pillar: it is free and idle, or its job has left it for one (R404). DEDUCED: a free pillar is not
idle while a job waits for its place, unless its strip is late (log entry 118). -/
def State.stripPossible (s : State) (p : PillarId) : Bool :=
  let x := s.pil p
  x.strip.isNone && !x.failedMark && s.linkUp p &&
    (match x.phase with
    | .free => !bitOf x.fwdEnt.toNat 63 && (s.stripLate p || !s.launch.jobs.any Job.waitsForPlace)
    | .held => x.stripDue && (match s.jobOf p with | some j => j.state == 0x05 && j.loading | none => false)
    | _ => false)

/-- TEST_STRIP_START (R404). -/
def execTestStripStart (p : PillarId) (s : State) : Out :=
  if !s.stripPossible p then .next s
  else
    let now := s.calclk (stackOf p)
    let s := s.modPil p fun x => { x with strip := some now, stripFrom := s.aclk p, stripDue := false }
    .next { s with integrity := { s.integrity with stripRuns := s.integrity.stripRuns.set p.toNat 0 } }

/-- A held pillar has run no strip for STRIPPER clk and can be pre-empted for one (R404). -/
def State.stripNeeded (s : State) (p : PillarId) : Bool :=
  let x := s.pil p
  x.phase == .held && !x.stripDue && x.strip.isNone && !x.failedMark &&
    s.stripLate p &&
    (match s.jobOf p with | some j => j.runs && !j.preempting && s.canSave j | none => false)

/-- STRIP_INTERVAL_DUE: the scheduler makes a gap by pre-emption (R404, R382). -/
def execStripIntervalDue (p : PillarId) (s : State) : Out :=
  if !s.stripNeeded p then .next s
  else
    match s.jobOf p with
    | some j => .next ((s.modPil p fun x => { x with stripDue := true }).requestPreempt j)
    | none => .next s

/-- The stack and row of a pillar, numbered as STRIPIDX is (R408). -/
def stripRow (p : PillarId) : Nat := 16 * stackOf p + rowInStack p

/-- STRIPIDX of a row advances once every pillar that ran a strip from it has passed (R405). -/
def State.advanceStrip (s : State) (row : Nat) : State :=
  let b := s.integrity
  let mine := b.stripRuns.entries.filter fun e => stripRow (BitVec.ofNat 10 e.1) == row
  if mine.all fun e => e.2 != 0 then
    let n := (mine.map fun e => e.2 - 1).foldl max 0
    { s with integrity := { b with
      stripIdx := b.stripIdx.set row (b.stripIdx.getD row 0 + BitVec.ofNat 12 n)
      stripRuns := { entries := b.stripRuns.entries.filter fun e => stripRow (BitVec.ofNat 10 e.1) != row } } }
  else s

/-- Posts failure records while slots are free (R408). -/
def State.postFailures : Nat → State → State
  | 0, s => s
  | fuel + 1, s =>
    let b := s.integrity
    match b.waiting with
    | [] => s
    | r :: rs =>
      if (b.frtail - b.frhead).toNat = 32 then s
      else
        State.postFailures fuel (State.raiseVector { s with integrity := { b with
          slots := b.slots.set (b.frtail.toNat % 32) r, frtail := b.frtail + 1, waiting := rs } } 6)

/-- A new failure record, behind those that wait (R408). -/
def State.postFailure (s : State) (r : FailureRecord) : State :=
  State.postFailures 1 { s with integrity := { s.integrity with waiting := s.integrity.waiting ++ [r] } }

/-- The failure record of a strip (R407). -/
def State.failureRecord (s : State) (p : PillarId) (start : Nat) (pattern : BitVec 12) (unit : BitVec 4) : FailureRecord :=
  let x := s.pil p
  let n := (x.egress - x.stripEgress).toNat
  { who := word (p.toNat + pattern.toNat * 2 ^ 16 + unit.toNat * 2 ^ 32 + boolNat (3072 < n) * 2 ^ 40)
    jobId := ((s.jobOf p).map fun j => j.record.jobId).getD 0
    wstart := x.stripLast, wend := word start
    egress := word (x.stripEgress.toNat + (if n = 0 then x.stripEgress else x.egress - 1).toNat * 2 ^ 32) }

/-- Strand RCV of the first chain link that is not the failed pillar is to take cause 0x6B (R407). -/
def State.tellChain (s : State) (p : PillarId) : State :=
  let c := (s.stack (stackOf p)).chain
  match chainNext c p none with
  | some i => s.modPil (chainLink c i) fun x => { x with stripFails := x.stripFails ++ [p] }
  | none => s

/-- A strip fails (R407): the mark, the chain, the record; a router fault halts the stack, and without a spare the job is
contained. DESIGN CHOICE: a free pillar that fails becomes *failed* although its row has a spare (log entry 95). -/
def State.stripFailed (s : State) (p : PillarId) (start : Nat) (pattern : BitVec 12) (unit : BitVec 4) : State :=
  let r := s.failureRecord p start pattern unit
  let held := (s.pil p).phase == .held
  let s := s.modPil p fun x => { x with failedMark := true, phase := if held then .held else .failed }
  let s := { s with integrity := { s.integrity with stripFail := satSucc s.integrity.stripFail } }
  let s := (s.tellChain p).postFailure r
  if unit == 5 then s.haltStack (stackOf p) none
  else if held && !s.spareFree p then
    match s.integrity.containing, s.jobOf p with
    | none, some j => (match j.rect with | some r => s.contain j r | none => s)
    | _, _ => s
  else s

/-- TEST_STRIP_END (R405, R407): 42,000 clk of the pillar after its start. -/
def execTestStripEnd (p : PillarId) (r : StripResult) (s : State) : Out :=
  match (s.pil p).strip with
  | none => .next s
  | some start =>
    let now := s.calclk (stackOf p)
    if s.aclk p < (s.pil p).stripFrom + 42000 then .next s
    else
      let s := s.modPil p fun x => { x with strip := none }
      let s := { s with integrity := { s.integrity with strips := satSucc s.integrity.strips } }
      match r with
      | .pass n =>
        let s := s.modPil p fun x => { x with stripLast := word now, stripEgress := x.egress }
        .next (State.advanceStrip { s with integrity := { s.integrity with
          stripRuns := s.integrity.stripRuns.set p.toNat (n + 1) } } (stripRow p))
      | .fail k u => .next (s.stripFailed p start k u)

/-- FRHEAD_WRITE (R408): the host has consumed records, and those that wait are posted. -/
def execFrheadWrite (v : Word) (s : State) : Out :=
  let s := { s with integrity := { s.integrity with frhead := v.setWidth 32 } }
  .next (State.postFailures (s.integrity.waiting.length) s)

/-- Cause 0x6B waits to be taken as an interrupt at machine level (R371, R407), before 0x84 and 0x80 (R370). -/
def State.stripInterruptPending (s : State) (p : PillarId) (t : StrandId) : Bool :=
  let r := s.strandAt p t
  s.atBoundary p t && !(s.pil p).stripFails.isEmpty && s.rcv p == t && (r.lvl != 3 || r.ie) && (s.lateDue p t).isNone

/-- Cause 0x6B can be taken (R170, R407). -/
def State.stripInterruptDue (s : State) (p : PillarId) (t : StrandId) : Bool :=
  s.stripInterruptPending p t && s.vectorQuiet p t

/-- Strand RCV takes cause 0x6B (R407). -/
def State.takeStripInterrupt (s : State) (p : PillarId) (t : StrandId) : State :=
  match (s.pil p).stripFails with
  | q :: qs =>
    let s := (s.focus p t).leaveWait.modMe fun x => { x with stripFails := qs }
    s.takeTrap { cause := 0x6B, tval := q.setWidth 64, interrupt := true }
  | [] => s

end Sys2Proof.Machine
end

