-- ==== Sys2Proof/Machine/HostPod.lean ====
section
/-! DEFINITION. The outside world: the PCIe aperture, host sends, UALink peers, bring-up, measurement and attestation, heat
and phasing (17_host_pod.md R413-R428, 14_translation.md R358, R359). -/

namespace Sys2Proof.Machine

/-! ## The aperture -/

/-- APERBASE_WRITE (R413). -/
def execAperbaseWrite (v : Word) (s : State) : Out :=
  if v.bits 31 0 == 0 && v.bits 63 48 == 0 && v.bits 47 46 ≤ 1 then .next { s with host := { s.host with aperBase := v } }
  else .next s

/-- The memory operation of an access from outside, and its operand; `none` for a form that no such access has. -/
def outsideOp : HostAccess → Option (MemOp × PWord)
  | .read n => some ({ op := .load, n := n, signed := false, d := 0 }, {})
  | .write n v => some ({ op := .store, n := n, signed := false, d := 0 }, { bits := word v })
  | .atomic k n x => if n = 4 || n = 8 then some ({ op := .amo k.toNat, n := n, signed := false, d := 0 }, { bits := x }) else none

/-- The agent of the vault that an access from outside reaches performs its procedure (R314, R413). -/
def State.noteOutside (s : State) (pa : Nat) : State :=
  match placeOf pa with
  | .vault q _ => (s.useRow pa).modPil q fun x => x.count 0x4A3
  | _ => s

/-- Performs an access from outside at a vault or tier address: reads, writes of any length, and atomics. Poisoned bytes do
not travel on (R110). -/
def State.performOutside (s : State) (pa : Nat) (a : HostAccess) : State × HostAnswer :=
  let s := s.noteOutside pa
  match a with
  | .read n =>
    let (v, bad) := s.physRead pa n
    (s, if bad then .error else .data n v)
  | .write n v => (s.physWrite pa n v false, .done)
  | .atomic _ n _ =>
    match outsideOp a with
    | some (o, x) =>
      let (s', old) := s.performMem [] o pa x {}
      if old.2 then (s, .error) else (s', .data n old.1)
    | none => (s, .error)

/-- The bytes of an access from outside. -/
def outsideSize : HostAccess → Nat
  | .read n | .write n _ | .atomic _ n _ => n

/-- Where the n bytes of an access from outside go, or why it fails: none of them may lie in a reserved layer (R194, R403). -/
def State.reachSpan (s : State) (p : PillarId) (pa : Nat) (va : Word) (n : Nat) : Act Nat := do
  let pa' ← s.reachDirect p pa va
  let _ ← s.reachDirect p (pa + n - 1) va
  .ok pa'

/-- An access through PCIe waits, and those behind it (R414, R423). -/
def State.post (s : State) (k : Task) : State := { s with posted := s.posted ++ [k] }

/-- An access at a BAR2 offset has a form that the aperture carries, and names populated addresses (R413, R423). -/
def State.apertureOk (s : State) (off : BitVec 32) (a : HostAccess) : Bool :=
  let pa := s.host.aperBase.toNat + off.toNat
  let n := outsideSize a
  let form := match a with | .atomic _ _ _ => false | _ => true
  bitOf s.safelight.ready.toNat 18 && form && 1 ≤ n && n ≤ 4096 && off.toNat + n ≤ 2 ^ 32 && s.populated pa && s.populated (pa + n - 1)

/-- APERTURE_ACCESS (R413): carried out by the service pillar of stack 0, once the aperture is ready (R423), behind what the host sent
before (R414); anything else ends in Unsupported Request. -/
def execApertureAccess (off : BitVec 32) (a : HostAccess) (s : State) : Out :=
  let pa := s.host.aperBase.toNat + off.toNat
  let wait : Out := .next (s.post (.outside (.aperture off a)))
  if !s.posted.isEmpty then wait
  else if !s.apertureOk off a then .next (s.answer .error)
  else
    match s.reachSpan (servicePillar 0) pa 0 (outsideSize a) with
    | .ok pa' =>
      let (s, r) := (s.noteDirect pa).performOutside pa' a
      .next (s.answer r)
    | .error .wait => wait
    | .error _ => .next ((s.noteDirect pa).answer .error)

/-- An access of the host to BAR0 (R411): a device register, read or written as 8 naturally aligned bytes; any other ends in
Unsupported Request. -/
def State.bar0 (s : State) (off : BitVec 20) (a : HostAccess) : State :=
  if off.toNat % 8 ≠ 0 then s.answer .error
  else
    match a with
    | .read 8 => s.answer (.data 8 (s.devReadAt 4 off.toNat).toNat)
    | .write 8 v => (s.devWrite 4 off.toNat (word v)).answer .done
    | _ => s.answer .error

/-! ## Host sends -/

/-- HOST_SEND_WRITE (R418). -/
def execHostSendWrite (h : BitVec 4) (v : Word) (s : State) : Out :=
  let q := s.hq h.toNat
  let len := v.bits 9 0
  if bitOf q.send.toNat 63 || len % 8 != 0 || 512 < len then .next s
  else
    let m : Message :=
      { src := h.toNat, fromHost := true, dst := v.bits 57 48, inbox := BitVec.ofNat 2 (v.bits 47 46), len := len
        payload := (List.range (len / 8)).map fun i => { bits := word (q.staging.read (8 * i) 8) } }
    let e : OutboxEntry := { number := hostSendNumber h.toNat, msg := m }
    let s := s.setHq h.toNat
      { q with send := (v &&& (maskBits 57 48 ||| maskBits 47 46 ||| maskBits 9 0)) ||| maskBits 63 63 }
    .next { s with host := { s.host with sends := s.host.sends ++ [e] } }

/-! ## UALink -/

/-- A peer's entry in the table (R419). -/
def State.peer (s : State) (n : BitVec 10) : Peer := s.host.peers.getD n.toNat {}

/-- Who translates a peer's requests (R420). -/
def State.inboundWalker (s : State) (peer : BitVec 10) : Walker :=
  { p := servicePillar (s.peerStack peer), asid := s.host.uaAsid, lvl := 0, direct := true }

/-- Where a peer's request lands: the address in a vault or the second tier, and the one it is rewritten to (R390, R420). -/
def State.inboundTarget (s : State) (peer : BitVec 10) (off : BitVec 36) (a : HostAccess) : Act (Nat × Nat) := do
  let va := s.host.uavBase + off.setWidth 64
  let write := match a with | .read _ => false | _ => true
  let w := s.inboundWalker peer
  let x ← s.translateAs w (if write then .write else .read) va
  check (x.pa / 2 ^ 46 % 4 ≤ 1) 0x1E va
  let pa ← s.reachDirect w.p x.pa va
  .ok (x.pa, pa)

/-- Changes a peer's entry in the table. -/
def State.modPeer (s : State) (peer : BitVec 10) (f : Peer → Peer) : State :=
  { s with host := { s.host with peers := s.host.peers.set peer.toNat (f (s.peer peer)) } }

/-- The clock by which a peer's port times it (R4, R358, R421). -/
def State.peerClk (s : State) (peer : BitVec 10) : Nat := s.aclk (servicePillar (peer.toNat % 8 / 2))

/-- A response goes into the peer's buffer (R421). -/
def State.respond (s : State) (peer : BitVec 10) (a : HostAnswer) : State :=
  s.modPeer peer fun e => { e with responses := e.responses ++ [(a, s.peerClk peer)] }

/-- A request has a form that UALink carries (R301, R420): of at most 64 bytes within a 64-byte block. -/
def inboundOk (off : BitVec 36) (a : HostAccess) : Bool :=
  let n := outsideSize a
  1 ≤ n && off.toNat % 64 + n ≤ 64 && (match a with | .atomic _ _ _ => off.toNat % n == 0 | _ => true)

/-- What comes of an inbound request (R301, R420): the state after it with the response, or nothing while it waits for the second tier
(R423). -/
def State.performInbound (s : State) (peer : BitVec 10) (off : BitVec 36) (a : HostAccess) : Option (State × HostAnswer) :=
  if !inboundOk off a then some (s, .error)
  else
    match s.inboundTarget peer off a with
    | .ok (pa, pa') => some ((s.noteDirect pa).performOutside pa' a)
    | .error .wait => none
    | .error _ => some (s, .error)

/-- The oldest request of a peer is performed, if a port carries it and its response has room in the peer's buffer (R419, R420,
R421). -/
def State.peerRequest (s : State) (peer : BitVec 10) : State :=
  let e := s.peer peer
  match e.requests with
  | (off, a) :: rest =>
    if s.portUp && e.responses.length < max 1 e.incred.toNat then
      match s.performInbound peer off a with
      | some (s, r) => (s.modPeer peer fun e => { e with requests := rest }).respond peer r
      | none => s
    else s
  | [] => s

/-- UALINK_INBOUND_REQUEST (R420, R421): performed behind the peer's earlier ones; those of a GONE peer are answered with an error. -/
def execUalinkInboundRequest (peer : BitVec 10) (off : BitVec 36) (a : HostAccess) (s : State) : Out :=
  if !(s.peer peer).up then .next (s.answer .error)
  else .next ((s.modPeer peer fun e => { e with requests := e.requests ++ [(off, a)] }).peerRequest peer)

/-- A peer takes the oldest response from its buffer (R419, R421). -/
def State.peerTakes (s : State) (peer : BitVec 10) : State :=
  match (s.peer peer).responses with
  | r :: rest => if s.portUp then (s.modPeer peer fun e => { e with responses := rest }).answer r.1 else s
  | [] => s

/-- PEER_UP_WRITE (R419). -/
def execPeerUpWrite (peer : BitVec 10) (s : State) : Out :=
  .next (s.modPeer peer fun e => { e with up := true })

/-- The link of a UALink port is trained, or lost (R419). -/
def State.setLink (s : State) (port : BitVec 3) (on : Bool) : State :=
  let i := port.toNat
  { s with host := { s.host with ports := s.host.ports.setIfInBounds i { (s.host.ports[i]?.getD {}) with link := on } } }

/-- UALINK_LINK_TRAINED (R419). -/
def execUalinkLinkTrained (port : BitVec 3) (s : State) : Out := .next (s.setLink port true)

/-- A strand's access to a peer that has gone ends with cause 0x07 at its instruction (R358, R359). -/
def State.loseAccess (s : State) (p : PillarId) (t : StrandId) (va : Word) : State :=
  ((s.focus p t).takeTrap { cause := 0x07, tval := va }).focus s.curP s.curT

/-- A fibre parked on a peer that has gone wakes with cause 0x07 (R158, R359). -/
def Pillar.loseParked (x : Pillar) (j : Nat) : Pillar :=
  match (x.fibre j).parking with
  | .remote _ _ _ va _ _ _ _ | .queued _ _ va _ _ _ => x.wake j fun y => { y with fault := some (0x07, va) }
  | _ => x

/-- The VA that a procedure stands at: a copy, that of the part under way (R352). -/
def Procedure.partVa (r : Procedure) : Word :=
  match r.instr with
  | .rcopy _ => r.va + word r.progress
  | _ => r.va

/-- A peer becomes GONE (R358, R421): entries for it are dropped, what is under way to it ends with cause 0x07, and its buffer is
discarded. -/
def State.losePeer (s : State) (peer : BitVec 10) (why : BitVec 2) : State :=
  let waiting := (s.peer peer).requests
  let s := s.modPeer peer fun e => { e with up := false, why := why, requests := [], responses := [] }
  let s := waiting.foldl (fun s _ => s.answer .error) s
  let s := s.dropEntries fun e => e.pa / 2 ^ 36 == 2048 + peer.toNat
  let procs := s.procs.filter fun r => r.goesTo peer
  let s := procs.foldl (fun s r => s.setPhase r (.failed 0x07 r.partVa)) s
  let s := (s.parkedAt peer).foldl (fun s x => s.modPil x.1 fun z => z.loseParked x.2.1) s
  let s := (s.queuedAt peer).foldl (fun s x => s.modPil x.1 fun z => z.loseParked x.2) s
  let s := (s.waitingFor peer).foldl (fun s x => s.loseAccess x.1 x.2.1 x.2.2.1) s
  (s.countStack (s.peerStack peer) 0x4BE).raiseVector 10

/-- PEER_GONE_EVENT (R358). -/
def execPeerGoneEvent (peer : BitVec 10) (why : BitVec 2) (s : State) : Out :=
  if (s.peer peer).up then .next (s.losePeer peer why) else .next s

/-- PEERTO of a peer; 0 acts as 1 (R419). -/
def Peer.timeout (e : Peer) : Nat := max 1 e.peerTo.toNat

/-- An access to a peer, or the oldest response that it has not taken, is older than PEERTO (R358, R421). -/
def State.peerLate (s : State) (peer : BitVec 10) : Bool :=
  let late (p : PillarId) (sent : Nat) : Bool := sent + (s.peer peer).timeout ≤ s.aclk p
  let untaken := match (s.peer peer).responses with
    | (_, came) :: _ => came + (s.peer peer).timeout ≤ s.peerClk peer
    | [] => false
  (s.peer peer).up &&
    (untaken || ((s.waitingFor peer).any fun x => late x.1 x.2.2.2) || ((s.parkedAt peer).any fun x => late x.1 x.2.2) ||
      s.procs.any fun r => r.phase != .queued && r.goesTo peer && late r.p r.sent)

/-- PEER_TIMEOUT (R358). -/
def execPeerTimeout (peer : BitVec 10) (s : State) : Out :=
  if s.peerLate peer then .next (s.losePeer peer 3) else .next s

/-! ## Measurement and attestation -/

/-- The bytes of a 32-byte register, lowest address first. -/
def bytes32 (x : BitVec 256) : List Byte := bytesOfNat 32 x.toNat

/-- A 32-byte register from its bytes. -/
def of32 (l : List Byte) : BitVec 256 := BitVec.ofNat 256 (natOfBytes l)

/-- MEASr after an image has been loaded into role r (R424). -/
def extendMeasure (old : BitVec 256) (image : List Byte) : BitVec 256 := of32 (sha256 (bytes32 old ++ sha256 image))

/-- Measures an image into a role (R424). -/
def State.measure (s : State) (r : Nat) (image : List Byte) : State :=
  { s with safelight := { s.safelight with
    meas := s.safelight.meas.setIfInBounds r (extendMeasure (s.safelight.meas[r]?.getD 0) image) } }

/-- Measures an image, if there is one. -/
def State.measureAny (s : State) (r : Nat) (image : List Byte) : State := if image.isEmpty then s else s.measure r image

/-- HOST_IMAGE_SUBMIT (R424): roles 4 to 7. -/
def execHostImageSubmit (role : BitVec 3) (image : List Byte) (s : State) : Out :=
  if 4 ≤ role.toNat then .next (s.measure role.toNat image) else .next s

/-- What Safelight signs (R425). -/
def Safelight.message (b : Safelight) : List Byte :=
  bytes32 b.nonce ++ b.meas.toList.flatMap bytes32 ++ bytesOfNat 16 b.identity.toNat

/-- ATTGO_WRITE (R425). -/
def execAttgoWrite (v : Word) (s : State) : Out :=
  if !bitOf v.toNat 0 || s.safelight.attGo then .next s
  else
    let (r, x) := Config.signature (natOfBytes (sha256 s.safelight.message))
    .next { s with safelight := { s.safelight with sigR := BitVec.ofNat 256 r, sigS := BitVec.ofNat 256 x, attGo := false } }

/-! ## Bring-up -/

/-- The firmware store, MTVEC and the vault registers of a pillar (R422, R363, R365). -/
def Pillar.bringUp (x : Pillar) (p : PillarId) (cfg : BringUp) (firmware : Memory) : Pillar :=
  let v := match cfg.calendar.find? fun c => c.1 == p with
    | some c => { x.vault with calendar := calendarWord c.2 }
    | none => x.vault
  let x := { x with
    firmware := firmware, mtvec := cfg.mtvec, vault := v
    phase := if cfg.failedPillars.contains p then .failed else x.phase }
  (cfg.rpmap.filter fun c => c.1 == p).foldl (fun x c => x.writeRpmap c.2.1.toNat c.2.2) x

/-- The state of a stack at bring-up: CHAIN, and the columns whose work the spares do (R422, R342). -/
def Stack.bringUp (k : Stack) (n : Nat) (cfg : BringUp) : Stack :=
  let chain := match cfg.chain.find? fun c => c.1.toNat == n with | some c => c.2 | none => k.chain
  let cols := cfg.failedColumns.filter fun c => c.1.toNat / 16 == n
  { k with
    chain := chain
    failedColumn := cols.foldl (fun m c => m.set (c.1.toNat % 16) c.2.toNat) k.failedColumn }

/-- POWER_ON (R422): Safelight measures its image, writes the firmware stores, RPMAP, CALENDAR and CHAIN while the stacks
are held in reset, and takes the pod configuration. -/
def execPowerOn (cfg : BringUp) (s : State) : Out :=
  let firmware := Memory.writeList {} 0 (cfg.firmware.take 32768)
  let s := s.measure 0 cfg.image
  let s := s.measureAny 1 cfg.firmware
  let s := s.measureAny 2 cfg.chainFirmware
  let s := s.measureAny 3 cfg.configuration
  let s := allPillars.foldl (fun s p => s.modPil p fun x => x.bringUp p cfg firmware) s
  let s := (List.range 4).foldl (fun s n => s.modStack n fun k => k.bringUp n cfg) s
  .next { s with
    ctxBase := cfg.ctxBase
    host := { s.host with peerId := cfg.peerId }
    safelight := { s.safelight with tierFailed := cfg.tierFails } }

/-- The bit of a function in READY (R422). -/
def readyBit : Function → Option Nat
  | .stack n => some n.toNat
  | .shuttle n => some (4 + n.toNat)
  | .port n => some (8 + n.toNat)
  | .tier => some 16
  | .launch => some 17
  | .aperture => some 18
  | .pillar _ => none

/-- What else becomes usable with a function: a stack leaves its reset, a port can be up, a pillar can be placed. -/
def State.startFunction (s : State) : Function → State
  | .stack n => s.modStack n.toNat fun k => { k with running := true, resetAt := s.clk }
  | .port n => { s with host := { s.host with
      ports := s.host.ports.setIfInBounds n.toNat { (s.host.ports[n.toNat]?.getD {}) with ready := true } } }
  | .pillar p => State.modPil { s with safelight := { s.safelight with pillarReady := s.safelight.pillarReady.insert p.toNat } } p id
  | _ => s

/-- What a function depends on (R422, R423): a pillar and a shuttle on their stack, the tier on its bring-up. -/
def State.dependenciesMet (s : State) : Function → Bool
  | .tier => !s.safelight.tierFailed
  | .pillar p => bitOf s.safelight.ready.toNat (stackOf p) && (s.pil p).phase != .failed
  | .shuttle n => bitOf s.safelight.ready.toNat n.toNat
  | _ => true

/-- FUNCTION_READY (R422). -/
def execFunctionReady (fn : Function) (s : State) : Out :=
  if !s.dependenciesMet fn then .next s
  else
    let s := s.startFunction fn
    let s := match readyBit fn with
      | some k => { s with safelight := { s.safelight with ready := s.safelight.ready ||| BitVec.ofNat 19 (2 ^ k) } }
      | none => s
    .next (s.raiseVector 8)

/-- A pillar after a reset of its stack. -/
def Pillar.stackReset (x : Pillar) : Pillar :=
  { x.containReset with phase := if x.phase == .failed || x.failedMark then .failed else .free }

/-- STACK_RESET (R377): a halted stack is reset; it, its shuttle and its pillars become ready anew (R422). -/
def execStackReset (stack : BitVec 2) (s : State) : Out :=
  let n := stack.toNat
  if !(s.stack n).halted then .next s
  else
    let s := (allPillars.filter fun p => stackOf p == n).foldl (fun s p => s.modPil p Pillar.stackReset) s
    let s := s.modStack n fun k =>
      { k with halted := false, running := false, resetAt := s.clk, tlb := [], shuttle := {}, clockSteps := 0
               pilClkAtChange := s.pilClk n, clockChangedAt := s.clk }
    let gone := 2 ^ n + 2 ^ (4 + n)
    .next { s with safelight := { s.safelight with
      ready := s.safelight.ready &&& ~~~(BitVec.ofNat 19 gone)
      pillarReady := { elems := s.safelight.pillarReady.elems.filter fun p => p / 256 != n } } }

/-! ## Heat and phasing -/

/-- A stack's clock runs a number of steps of 100 MHz below 2.1 GHz from now on; PILCLK goes on from its count (R426, R427). -/
def State.setClock (s : State) (n steps : Nat) : State :=
  let count := s.pilClk n
  s.modStack n fun k => { k with clockSteps := steps, pilClkAtChange := count, clockChangedAt := s.clk }

/-- THERMAL_STEP (R426): the temperature is reported in units of 0.25 °C. Up to 95 °C the stack runs at 2.1 GHz; above, its clock
falls by 100 MHz, with vector 9; and above 110 °C it halts too. DEDUCED: it returns to 2.1 GHz in one change, without a vector
(log entry 105). -/
def execThermalStep (stack : BitVec 2) (temp : Word) (s : State) : Out :=
  let n := stack.toNat
  let s := s.modStack n fun k => { k with stkTemp := temp }
  let steps := (s.stack n).clockSteps
  if temp.toNat ≤ 380 then .next (if steps = 0 then s else s.setClock n 0)
  else
    let s := (s.setClock n (min (steps + 1) 20)).raiseVector 9
    .next (if temp.toNat ≤ 440 then s else s.haltStack n none)

/-- OVERTEMP_STACK_HALT (R426): the stack reports a temperature above 110 °C, and halts. -/
def execOvertempStackHalt (stack : BitVec 2) (s : State) : Out :=
  let n := stack.toNat
  let (s, v) := s.freeValue 4
  let temp := max (s.stack n).stkTemp.toNat (441 + v)
  .next ((s.modStack n fun k => { k with stkTemp := word temp }).haltStack n none)

/-- PHASE_PERIOD_BOUNDARY (R428): the period number is a function of the package-wide count, so a new period changes nothing
else; `phaseAllows` reads it. -/
def execPhasePeriodBoundary (s : State) : Out := .next s

end Sys2Proof.Machine
end

