-- ==== Sys2Proof/Machine/Ready.lean ====
section
/-! DEFINITION. Fetch, and when a strand is ready: its next instruction has been fetched, and neither an operand interlock nor a
unit that the instruction needs holds it (01_instruction_words.md R26-R30, 03_pillars_strands_jobs.md R89, R93,
04_general_registers.md R100, R109, R117, 05_local_store.md R129-R130, 07_vector_registers.md R190, 15_traps_preemption.md
R363, R373). -/

namespace Sys2Proof.Machine

/-! ## Fetch -/

/-- Why the word at an address cannot be fetched: a cause and its TVAL (R129, R130, R363, R372). -/
def Pillar.fetchFault (x : Pillar) (fws : Bool) (a : Nat) : Option (BitVec 8 × Word) :=
  if fws then if 0x8000 ≤ a then some (0x11, word a) else none
  else if x.xb ≤ a then some (0x11, word a)
  else
    match (List.range 16).find? fun n =>
      let g := x.segs[n]?.getD {}
      (g.state == 1 || g.state == 3) && g.baseKb * 1024 ≤ a && a < g.endAddr with
    | some n => some (0x12, word (a + n * 2 ^ 20 + (x.segs[n]?.getD {}).state.toNat * 2 ^ 24))
    | none => if x.ls.bad.has (a / 8) then some (0x0D, word (2 ^ 62 + a)) else none

/-- The halfword at an address, in local store or in the firmware store (R363). -/
def Pillar.fetchWord (x : Pillar) (fws : Bool) (a : Nat) : Halfword :=
  BitVec.ofNat 16 ((if fws then x.firmware else x.ls.bytes).read a 2)

/-- The address of the k-th word from a PC (R29). -/
def fetchAddr (pc : LsAddr) (k : Nat) : Nat := (pc + BitVec.ofNat 19 (2 * k)).toNat

/-- The words from an address, up to a number of them or to the first that cannot be fetched. -/
def Pillar.fetchFrom (x : Pillar) (fws : Bool) (pc : LsAddr) : Nat → Nat → List Halfword
  | 0, _ => []
  | n + 1, k =>
    let a := fetchAddr pc k
    if (x.fetchFault fws a).isSome then [] else x.fetchWord fws a :: x.fetchFrom fws pc n (k + 1)

/-- The words at the PC of the current strand, at most five (R14). -/
def State.fetchWords (s : State) : List Halfword := s.me.fetchFrom s.st.fws s.st.pc 5 0

/-- What the words at the PC of the current strand decode to. -/
def State.fetched (s : State) : DecodeResult := decode s.fetchWords

/-! ## Operand interlocks -/

/-- The general registers that an instruction names (R23, R100, R330). -/
def usedRegs (i : Instr) : List Nat :=
  match i.row with
  | some (r, f) =>
    let (d, s, t) := fieldClasses r f
    let pick (c : Cls) (n : Nat) : List Nat := if c == .g then [n] else []
    let pair : List Nat := match i with | .cas _ | .rcas _ | .rwrd _ => [f.dNum + 1] | _ => []
    pick d f.dNum ++ pick s f.sNum ++ pick t f.tNum ++ pair
  | none => []

/-- The instructions at which a fibre can leave its runner (R156, R157). -/
def isFibreBoundary : Instr → Bool
  | .lldf _ | .llde _ | .join _ | .rwait _ | .fyield _ | .fexit _ => true
  | i => (memOpOf i).isSome && !isSc i

/-- An operand interlock holds an instruction (R100); in fibre code the fibre's pending registers hold the instructions at
which it can leave its runner (R303). -/
def Strand.interlock (r : Strand) (i : Instr) : Bool :=
  ((usedRegs i).any fun n => r.pending.contains n) || (r.inFibre && isFibreBoundary i && !r.pending.isEmpty)

/-! ## What an instruction needs -/

/-- The engine that an instruction is dispatched to (R93): pages 3 and 4; the tile instructions of page 5, CFETCH and TFILL;
the instructions of pages 6 and 7 with work for the matrix engine; page 9 but RECV, RECVP and RWAIT. -/
def engineOf (i : Instr) : Option Engine :=
  match i.row with
  | none => none
  | some (r, _) =>
    match r.page with
    | 2 => if [24, 28].contains r.op then some .tile else none
    | 3 | 4 => some .vector
    | 5 => if [4, 5, 6].contains r.op then none else some .tile
    | 6 => if [3, 4, 5, 6, 7, 8, 11, 12, 16].contains r.op then some .matrix else none
    | 7 => if r.op = 4 then none else some .matrix
    | 9 => if [1, 2, 14].contains r.op then none else some .message
    | _ => none

/-- The queue of an instruction's engine has room, and a page 9 instruction is at most the sixteenth outstanding (R93, R303). -/
def State.queueRoom (s : State) (e : Engine) : Bool :=
  ((s.me.engine e).queue s.curT).length < 2 && (e != .message || s.me.outstandingOf s.curT < 16)

/-- An instruction is a division (R117). -/
def isDivision : Instr → Bool
  | .div _ | .divn _ | .rem _ | .remn _ => true
  | _ => false

/-- An ST into the own vault meets a full store buffer (R109). -/
def State.bufferFull (s : State) (i : Instr) : Bool :=
  match memOpOf i, i.row with
  | some o, some (r, f) =>
    r.page == 0 && o.op == .store && 8 ≤ s.st.stores.length &&
      (match s.accessAddr i f o with
      | .ok (pa, _) => (match placeOf pa with | .vault q _ => q == s.curP | _ => false)
      | .error _ => false)
  | _, _ => false

/-- The bytes that LLD and LST in steps of one to eight bytes access, by opcode of page 2 (R135, R140). -/
def localSizes : List Nat := [1, 2, 4, 8, 1, 2, 4, 1, 2, 4, 8, 8, 8, 8]

/-- The range that a scalar instruction on local store accesses (R190). -/
def State.localRange (s : State) (i : Instr) : Option (Nat × Nat) :=
  match i.row with
  | some (r, f) =>
    if r.page != 2 then none
    else
      match localSizes[r.op]? with
      | some n => (match s.mAddr f with | .ok ea => some (ea.toNat, n) | .error _ => none)
      | none => if r.op = 14 || r.op = 15 then some ((s.g (rrA f)).bits.toNat, (s.g (rrB f)).bits.toNat) else none
  | none => none

/-- An instruction writes memory or local store, itself or through an engine or a shuttle (R324, R331). -/
def isStore (i : Instr) : Bool :=
  (match memOpOf i with | some o => o.op.writes | none => false) || (accessKinds i).2 ||
    (match i with
    | .lstI8 _ | .lstI16 _ | .lstI32 _ | .lstI64 _ | .llde _ | .lstf _ | .feset _ | .feclr _ | .shst _ => true
    | .cfetch _ | .tfill _ | .tevict _ | .bcopy _ | .bcopyt _ | .bcopyc _ | .bcopyx _ | .mst _ | .pjoin _ => true
    | .dfetch _ | .devict _ => true
    | _ => false)

/-- No unit that the current strand's instruction needs is taken (R89, R93, R109, R117, R190, R303), but for the dispatch
ring, and no FENCE holds it back (R331). -/
def State.unitsFree (s : State) (i : Instr) : Bool :=
  (match engineOf i with | some e => s.queueRoom e | none => true) && !(isDivision i && s.me.divider.isSome) &&
    !s.bufferFull i && !(s.st.fence.isSome && isStore i) && (match s.localRange i with | some (a, n) => !s.me.vectorBusy s.curT a n | none => true)

/-- The ring entry that the next dispatch of a pillar would overwrite is kept (R373). -/
def Pillar.ringKept (x : Pillar) : Bool :=
  match x.ring.get? (x.seqCounter.toNat % 64) with | some r => r.kept | none => false

/-- A strand runs and is not blocked, and its next instruction may be fetched (R89, R109, R377). -/
def State.awake (s : State) (p : PillarId) (t : StrandId) : Bool :=
  let r := s.strandAt p t
  r.run == .running && r.blocked == .no && (s.pil p).phase == .held && !(s.stack (stackOf p)).halted && !r.waitingRunner &&
    r.notBefore ≤ s.aclk p

/-- The next instruction of a strand waits only for a kept ring entry (R373). -/
def State.ringWaits (s : State) (p : PillarId) (t : StrandId) : Bool :=
  s.awake p t && (s.pil p).ringKept &&
    (match (s.focus p t).fetched with
    | .ok i _ => (engineOf i).isSome && !(s.strandAt p t).interlock i && (s.focus p t).unitsFree i
    | _ => false)

/-- A strand is ready (R89, R373): it runs and is not blocked, its next instruction has been fetched, and no operand interlock,
full queue or kept ring entry holds it. -/
def State.ready (s : State) (p : PillarId) (t : StrandId) : Bool :=
  s.awake p t &&
    (match (s.focus p t).fetched with
    | .ok i _ =>
      !(s.strandAt p t).interlock i && (s.focus p t).unitsFree i && !((engineOf i).isSome && (s.pil p).ringKept)
    | _ => true)

end Sys2Proof.Machine
end

