-- ==== Sys2Proof/Machine/Scalar.lean ====
section
/-! DEFINITION. Pages 0 and 1 but for loads and stores: arithmetic, moves, constants, branches, jumps, calls of the
supervisor, multiplication and division, counts, bit fields and funnel shifts (04_general_registers.md R112-R125). -/

namespace Sys2Proof.Machine

/-! ## The shapes of the scalar instructions -/

/-- A two-source RR instruction: g[d] from A and B, poisoned if either is (R110, R112). -/
def scalar2 (i : Instr) (f : Fields) (s : State) (op : Word → Word → Word) : Out :=
  finish i s do
    s.destOk f.dNum
    let a := s.g (rrA f)
    let b := s.g (rrB f)
    .ok (s.setG f.dNum (pword (op a.bits b.bits) (a.bad || b.bad)))

/-- A two-source RR instruction that also reads d (R110, R116, R120). -/
def scalar3 (i : Instr) (f : Fields) (s : State) (op : Word → Word → Word → Word) : Out :=
  finish i s do
    s.destOk f.dNum
    let d := s.g f.dNum
    let a := s.g (rrA f)
    let b := s.g (rrB f)
    .ok (s.setG f.dNum (pword (op d.bits a.bits b.bits) (d.bad || a.bad || b.bad)))

/-- A one-source RR instruction (R113, R118). -/
def scalar1 (i : Instr) (f : Fields) (s : State) (op : Word → Word) : Out :=
  finish i s do
    s.destOk f.dNum
    let a := s.g f.sNum
    .ok (s.setG f.dNum (pword (op a.bits) a.bad))

/-- An RI instruction: g[d] from A, poisoned if A is (R110, R114). -/
def scalarImm (i : Instr) (f : Fields) (s : State) (op : Word → Word) : Out :=
  finish i s do
    s.destOk f.dNum
    let a := s.g (riA f)
    .ok (s.setG f.dNum (pword (op a.bits) a.bad))

/-- An RI instruction that reads no register (R115). -/
def scalarConst (i : Instr) (f : Fields) (s : State) (v : Word) : Out :=
  finish i s do
    s.destOk f.dNum
    .ok (s.setGw f.dNum v)

/-- A branch (R110, R122): poisoned compare operands trap; the target is PC + 2 × disp. -/
def branch (i : Instr) (f : Fields) (s : State) (taken : Word → Word → Bool) : Out :=
  finishAt i s do
    let a ← notPoison 0 f.dNum (s.g f.dNum)
    let b ← notPoison 1 f.sNum (s.g f.sNum)
    if taken a b then .ok ((s.setPc (s.st.pc + BitVec.ofInt 19 (2 * f.disp))).issueAfter 3)
    else .ok (s.setPc (s.nextPc i))

/-- A division occupies the divider of the pillar for 38 clk; while it is busy a strand at a division is not ready, and the
dividing strand issues nothing (R109, R117). -/
def divide (i : Instr) (f : Fields) (s : State) (op : Word → Word → Word) : Out :=
  finish i s do
    s.destOk f.dNum
    waitFor s.me.divider.isNone
    let a := s.g (rrA f)
    let b := s.g (rrB f)
    let s := s.setG f.dNum (pword (op a.bits b.bits) (a.bad || b.bad))
    .ok ((s.modMe fun x => { x with divider := some s.curT }).issueAfter 38)

/-- SVC and BRK: the trap with the immediate and the length in TVAL (R125). -/
def callTrap (i : Instr) (f : Fields) (s : State) (cause : BitVec 8) : Out :=
  finish i s (.error (.trap cause (word (f.immU % 65536 + instrLen i * 65536))))

/-! ## The functions of one value -/

/-- A shifted left by B<5:0> (R112). -/
def shiftLeft (a b : Word) : Word := a <<< b.bits 5 0

/-- A shifted right by B<5:0>, zeros entering (R112). -/
def shiftRight (a b : Word) : Word := a >>> b.bits 5 0

/-- A shifted right by B<5:0>, copies of the sign entering (R112). -/
def shiftRightS (a b : Word) : Word := a.sshiftRight (b.bits 5 0)

/-- The high half of the signed product (R116). -/
def mulHigh (a b : Word) : Word := wordOfInt (a.toInt * b.toInt / 2 ^ 64)

/-- The high half of the unsigned product (R116). -/
def mulHighU (a b : Word) : Word := word (a.toNat * b.toNat / 2 ^ 64)

/-- DIV with its special cases (R117). -/
def divS (a b : Word) : Word := if b = 0 then -1 else wordOfInt (Int.tdiv a.toInt b.toInt)

/-- REM with its special cases (R117). -/
def remS (a b : Word) : Word := if b = 0 then a else wordOfInt (a.toInt - Int.tdiv a.toInt b.toInt * b.toInt)

/-- DIVN (R117). -/
def divU (a b : Word) : Word := if b = 0 then -1 else word (a.toNat / b.toNat)

/-- REMN (R117). -/
def remU (a b : Word) : Word := if b = 0 then a else word (a.toNat % b.toNat)

/-- The number of leading zero bits of n bits (R118). -/
def leadingZeros (x : Nat) : Nat → Nat
  | 0 => 0
  | n + 1 => if bitOf x n then 0 else leadingZeros x n + 1

/-- The number of trailing zero bits from bit i on, of n bits (R118). -/
def trailingZeros (x i : Nat) : Nat → Nat
  | 0 => 0
  | n + 1 => if bitOf x i then 0 else trailingZeros x (i + 1) n + 1

/-- The number of one bits among the low n (R118). -/
def popCount (x : Nat) : Nat → Nat
  | 0 => 0
  | n + 1 => boolNat (bitOf x n) + popCount x n

/-- The bytes in reverse order (R118). -/
def byteSwap (x : Word) : Word := word (natOfBytes (bytesOfNat 8 x.toNat).reverse)

/-- The low n bits in reverse order: bit i goes to bit n - 1 - i (R118). -/
def bitReverse (x : Nat) : Nat → Nat
  | 0 => 0
  | n + 1 => boolNat (bitOf x n) + 2 * bitReverse x n

/-- Position of a bit field (R119). -/
def fieldPos (f : Fields) : Nat := bitsOf f.immU 5 0

/-- Length of a bit field (R119). -/
def fieldLen (f : Fields) : Nat := bitsOf f.immU 11 6 + 1

/-- The field of A (R119). -/
def fieldOf (f : Fields) (a : Word) : Nat := bitsOf a.toNat (fieldPos f + fieldLen f - 1) (fieldPos f)

/-- d shifted left by n with A's top bits entering (R120). -/
def funnelLeft (d a b : Word) : Word := word ((d.toNat * 2 ^ 64 + a.toNat) * 2 ^ b.bits 5 0 / 2 ^ 64)

/-- d shifted right by n with A's low bits entering (R120). -/
def funnelRight (d a b : Word) : Word := word ((a.toNat * 2 ^ 64 + d.toNat) / 2 ^ b.bits 5 0)

/-! ## The instructions -/

/-- ADD (R112). -/
def execAdd (f : Fields) (s : State) : Out :=
  scalar2 (.add f) f s (· + ·)

/-- SUB (R112). -/
def execSub (f : Fields) (s : State) : Out :=
  scalar2 (.sub f) f s (· - ·)

/-- AND (R112). -/
def execAnd (f : Fields) (s : State) : Out :=
  scalar2 (.and f) f s (· &&& ·)

/-- OR (R112). -/
def execOr (f : Fields) (s : State) : Out :=
  scalar2 (.or f) f s (· ||| ·)

/-- XOR (R112). -/
def execXor (f : Fields) (s : State) : Out :=
  scalar2 (.xor f) f s (· ^^^ ·)

/-- ANDN (R112). -/
def execAndn (f : Fields) (s : State) : Out :=
  scalar2 (.andn f) f s (fun a b => a &&& ~~~b)

/-- SHL (R112). -/
def execShl (f : Fields) (s : State) : Out :=
  scalar2 (.shl f) f s shiftLeft

/-- SHR (R112). -/
def execShr (f : Fields) (s : State) : Out :=
  scalar2 (.shr f) f s shiftRight

/-- SAR (R112). -/
def execSar (f : Fields) (s : State) : Out :=
  scalar2 (.sar f) f s shiftRightS

/-- SLT (R112). -/
def execSlt (f : Fields) (s : State) : Out :=
  scalar2 (.slt f) f s (fun a b => boolWord (ltS a b))

/-- SLTN (R112). -/
def execSltn (f : Fields) (s : State) : Out :=
  scalar2 (.sltn f) f s (fun a b => boolWord (ltU a b))

/-- MIN (R112). -/
def execMin (f : Fields) (s : State) : Out :=
  scalar2 (.min f) f s minS

/-- MAX (R112). -/
def execMax (f : Fields) (s : State) : Out :=
  scalar2 (.max f) f s maxS

/-- MOV (R113). -/
def execMov (f : Fields) (s : State) : Out :=
  scalar1 (.mov f) f s id

/-- SEL: replaces g[d] by B if A is not zero (R113). -/
def execSel (f : Fields) (s : State) : Out :=
  scalar3 (.sel f) f s fun d a b => if a = 0 then d else b

/-- SELZ: replaces g[d] by B if A is zero (R113). -/
def execSelz (f : Fields) (s : State) : Out :=
  scalar3 (.selz f) f s fun d a b => if a = 0 then b else d

/-- ADDI (R114). -/
def execAddi (f : Fields) (s : State) : Out :=
  scalarImm (.addi f) f s fun a => a + immWord f

/-- ANDI (R114). -/
def execAndi (f : Fields) (s : State) : Out :=
  scalarImm (.andi f) f s fun a => a &&& immWord f

/-- ORI (R114). -/
def execOri (f : Fields) (s : State) : Out :=
  scalarImm (.ori f) f s fun a => a ||| immWord f

/-- XORI (R114). -/
def execXori (f : Fields) (s : State) : Out :=
  scalarImm (.xori f) f s fun a => a ^^^ immWord f

/-- SHLI (R114). -/
def execShli (f : Fields) (s : State) : Out :=
  scalarImm (.shli f) f s fun a => a <<< f.immU

/-- SHRI (R114). -/
def execShri (f : Fields) (s : State) : Out :=
  scalarImm (.shri f) f s fun a => a >>> f.immU

/-- SARI (R114). -/
def execSari (f : Fields) (s : State) : Out :=
  scalarImm (.sari f) f s fun a => a.sshiftRight f.immU

/-- SLTI (R114). -/
def execSlti (f : Fields) (s : State) : Out :=
  scalarImm (.slti f) f s fun a => boolWord (ltS a (immWord f))

/-- LI (R115). -/
def execLi (f : Fields) (s : State) : Out :=
  scalarConst (.li f) f s (immWord f)

/-- LPC: the address of its first word plus the immediate, modulo 2^19 (R115). -/
def execLpc (f : Fields) (s : State) : Out :=
  scalarConst (.lpc f) f s ((s.st.pc + BitVec.ofInt 19 f.immS).setWidth 64)

/-- JAL (R123). -/
def execJal (f : Fields) (s : State) : Out :=
  finishAt (.jal f) s do
    s.destOk f.dNum
    .ok (((s.setGw f.dNum ((s.nextPc (.jal f)).setWidth 64)).setPc (s.st.pc + BitVec.ofInt 19 (2 * f.immS))).issueAfter 3)

/-- JR: bit 0 and bits 63:19 of the target are ignored (R29, R124). -/
def execJr (f : Fields) (s : State) : Out :=
  finishAt (.jr f) s do
    s.destOk f.dNum
    let a ← notPoison 0 f.sNum (s.g f.sNum)
    .ok (((s.setGw f.dNum ((s.nextPc (.jr f)).setWidth 64)).setPc (a.setWidth 19 &&& 0x7FFFE)).issueAfter 3)

/-- SVC: cause 0x08 from user, 0x09 from supervisor, 0x01 from machine (R125). -/
def execSvc (f : Fields) (s : State) : Out :=
  callTrap (.svc f) f s (if s.st.lvl = 0 then 0x08 else if s.st.lvl = 1 then 0x09 else 0x01)

/-- BRK: cause 0x0A (R125). -/
def execBrk (f : Fields) (s : State) : Out :=
  callTrap (.brk f) f s 0x0A

/-- BEQ (R122). -/
def execBeq (f : Fields) (s : State) : Out :=
  branch (.beq f) f s (fun a b => a == b)

/-- BNE (R122). -/
def execBne (f : Fields) (s : State) : Out :=
  branch (.bne f) f s (fun a b => a != b)

/-- BLT (R122). -/
def execBlt (f : Fields) (s : State) : Out :=
  branch (.blt f) f s ltS

/-- BGE (R122). -/
def execBge (f : Fields) (s : State) : Out :=
  branch (.bge f) f s (fun a b => !ltS a b)

/-- BLTN (R122). -/
def execBltn (f : Fields) (s : State) : Out :=
  branch (.bltn f) f s ltU

/-- BGEN (R122). -/
def execBgen (f : Fields) (s : State) : Out :=
  branch (.bgen f) f s (fun a b => !ltU a b)

/-- MUL (R116). -/
def execMul (f : Fields) (s : State) : Out :=
  scalar2 (.mul f) f s (· * ·)

/-- MULH (R116). -/
def execMulh (f : Fields) (s : State) : Out :=
  scalar2 (.mulh f) f s mulHigh

/-- MULHN (R116). -/
def execMulhn (f : Fields) (s : State) : Out :=
  scalar2 (.mulhn f) f s mulHighU

/-- MADD: adds A × B to g[d] (R116). -/
def execMadd (f : Fields) (s : State) : Out :=
  scalar3 (.madd f) f s fun d a b => d + a * b

/-- DIV (R117). -/
def execDiv (f : Fields) (s : State) : Out :=
  divide (.div f) f s divS

/-- DIVN (R117). -/
def execDivn (f : Fields) (s : State) : Out :=
  divide (.divn f) f s divU

/-- REM (R117). -/
def execRem (f : Fields) (s : State) : Out :=
  divide (.rem f) f s remS

/-- REMN (R117). -/
def execRemn (f : Fields) (s : State) : Out :=
  divide (.remn f) f s remU

/-- CLZ (R118). -/
def execClz (f : Fields) (s : State) : Out :=
  scalar1 (.clz f) f s fun a => word (leadingZeros a.toNat 64)

/-- CTZ (R118). -/
def execCtz (f : Fields) (s : State) : Out :=
  scalar1 (.ctz f) f s fun a => word (trailingZeros a.toNat 0 64)

/-- POPC (R118). -/
def execPopc (f : Fields) (s : State) : Out :=
  scalar1 (.popc f) f s fun a => word (popCount a.toNat 64)

/-- BSWAP (R118). -/
def execBswap (f : Fields) (s : State) : Out :=
  scalar1 (.bswap f) f s byteSwap

/-- BREV (R118). -/
def execBrev (f : Fields) (s : State) : Out :=
  scalar1 (.brev f) f s fun a => word (bitReverse a.toNat 64)

/-- BFX (R119). -/
def execBfx (f : Fields) (s : State) : Out :=
  scalarImm (.bfx f) f s fun a => wordOfInt (sextNat (fieldOf f a) (fieldLen f))

/-- BFXN (R119). -/
def execBfxn (f : Fields) (s : State) : Out :=
  scalarImm (.bfxn f) f s fun a => word (fieldOf f a)

/-- BFI: bits pos+len-1:pos of g[d] become A<len-1:0> (R119). -/
def execBfi (f : Fields) (s : State) : Out :=
  finish (.bfi f) s do
    s.destOk f.dNum
    let d := s.g f.dNum
    let a := s.g (riA f)
    .ok (s.setG f.dNum (pword (setBits d.bits (fieldPos f + fieldLen f - 1) (fieldPos f) a.bits.toNat) (d.bad || a.bad)))

/-- FSHL (R120). -/
def execFshl (f : Fields) (s : State) : Out :=
  scalar3 (.fshl f) f s funnelLeft

/-- FSHR (R120). -/
def execFshr (f : Fields) (s : State) : Out :=
  scalar3 (.fshr f) f s funnelRight

end Sys2Proof.Machine
end

