-- ==== Sys2Proof/Machine/Retry.lean ====
section
/-! DEFINITION. The instructions run again after a wait: an instruction whose strand was not ready (R89) takes its effect from
the beginning when its condition holds. -/

namespace Sys2Proof.Machine

/-- Runs an instruction again for the current strand, which has stopped waiting; an event never waits (R89). -/
def retry (i : Instr) (s : State) : Out :=
  match i with
  | .add f => execAdd f s
  | .sub f => execSub f s
  | .and f => execAnd f s
  | .or f => execOr f s
  | .xor f => execXor f s
  | .andn f => execAndn f s
  | .shl f => execShl f s
  | .shr f => execShr f s
  | .sar f => execSar f s
  | .slt f => execSlt f s
  | .sltn f => execSltn f s
  | .min f => execMin f s
  | .max f => execMax f s
  | .mov f => execMov f s
  | .sel f => execSel f s
  | .selz f => execSelz f s
  | .addi f => execAddi f s
  | .andi f => execAndi f s
  | .ori f => execOri f s
  | .xori f => execXori f s
  | .shli f => execShli f s
  | .shri f => execShri f s
  | .sari f => execSari f s
  | .slti f => execSlti f s
  | .li f => execLi f s
  | .lpc f => execLpc f s
  | .ldI8 f => execLdI8 f s
  | .ldI16 f => execLdI16 f s
  | .ldI32 f => execLdI32 f s
  | .ldI64 f => execLdI64 f s
  | .ldN8 f => execLdN8 f s
  | .ldN16 f => execLdN16 f s
  | .ldN32 f => execLdN32 f s
  | .stI8 f => execStI8 f s
  | .stI16 f => execStI16 f s
  | .stI32 f => execStI32 f s
  | .stI64 f => execStI64 f s
  | .jal f => execJal f s
  | .jr f => execJr f s
  | .svc f => execSvc f s
  | .brk f => execBrk f s
  | .beq f => execBeq f s
  | .bne f => execBne f s
  | .blt f => execBlt f s
  | .bge f => execBge f s
  | .bltn f => execBltn f s
  | .bgen f => execBgen f s
  | .mul f => execMul f s
  | .mulh f => execMulh f s
  | .mulhn f => execMulhn f s
  | .madd f => execMadd f s
  | .div f => execDiv f s
  | .divn f => execDivn f s
  | .rem f => execRem f s
  | .remn f => execRemn f s
  | .clz f => execClz f s
  | .ctz f => execCtz f s
  | .popc f => execPopc f s
  | .bswap f => execBswap f s
  | .brev f => execBrev f s
  | .bfx f => execBfx f s
  | .bfxn f => execBfxn f s
  | .bfi f => execBfi f s
  | .fshl f => execFshl f s
  | .fshr f => execFshr f s
  | .lldI8 f => execLldI8 f s
  | .lldI16 f => execLldI16 f s
  | .lldI32 f => execLldI32 f s
  | .lldI64 f => execLldI64 f s
  | .lldN8 f => execLldN8 f s
  | .lldN16 f => execLldN16 f s
  | .lldN32 f => execLldN32 f s
  | .lstI8 f => execLstI8 f s
  | .lstI16 f => execLstI16 f s
  | .lstI32 f => execLstI32 f s
  | .lstI64 f => execLstI64 f s
  | .lldf f => execLldf f s
  | .llde f => execLlde f s
  | .lstf f => execLstf f s
  | .feset f => execFeset f s
  | .feclr f => execFeclr f s
  | .lda f => execLda f s
  | .stl f => execStl f s
  | .scld f => execScld f s
  | .scst f => execScst f s
  | .amo f => execAmo f s
  | .cas f => execCas f s
  | .scamo f => execScamo f s
  | .fence f => execFence f s
  | .cfetch f => execCfetch f s
  | .cwait f => execCwait f s
  | .jmpf f => execJmpf f s
  | .tlook f => execTlook f s
  | .tfill f => execTfill f s
  | .tevict f => execTevict f s
  | .tinval f => execTinval f s
  | .vadd f => execVadd f s
  | .vsub f => execVsub f s
  | .vmul f => execVmul f s
  | .vdiv f => execVdiv f s
  | .vmin f => execVmin f s
  | .vmax f => execVmax f s
  | .vfma f => execVfma f s
  | .vfms f => execVfms f s
  | .vabs f => execVabs f s
  | .vneg f => execVneg f s
  | .vsqrt f => execVsqrt f s
  | .vand f => execVand f s
  | .vor f => execVor f s
  | .vxor f => execVxor f s
  | .vandn f => execVandn f s
  | .vshl f => execVshl f s
  | .vshr f => execVshr f s
  | .vsar f => execVsar f s
  | .vcmp f => execVcmp f s
  | .vsel f => execVsel f s
  | .vmov f => execVmov f s
  | .vbcast f => execVbcast f s
  | .vins f => execVins f s
  | .vext f => execVext f s
  | .vld f => execVld f s
  | .vst f => execVst f s
  | .vgather f => execVgather f s
  | .vscatter f => execVscatter f s
  | .kand f => execKand f s
  | .kor f => execKor f s
  | .knot f => execKnot f s
  | .kmovg f => execKmovg f s
  | .kmovk f => execKmovk f s
  | .kpopc f => execKpopc f s
  | .vcvt f => execVcvt f s
  | .vquant f => execVquant f s
  | .vdequant f => execVdequant f s
  | .vbscale f => execVbscale f s
  | .vexp2 f => execVexp2 f s
  | .vlog2 f => execVlog2 f s
  | .vrcp f => execVrcp f s
  | .vrsqrt f => execVrsqrt f s
  | .vred f => execVred f s
  | .vperm f => execVperm f s
  | .vshuf f => execVshuf f s
  | .vrot f => execVrot f s
  | .vcompress f => execVcompress f s
  | .vexpand f => execVexpand f s
  | .vdot f => execVdot f s
  | .rowact f => execRowact f s
  | .rowclose f => execRowclose f s
  | .rowshort f => execRowshort f s
  | .rowkeep f => execRowkeep f s
  | .shld f => execShld f s
  | .shst f => execShst f s
  | .shset f => execShset f s
  | .tld f => execTld f s
  | .tldt f => execTldt f s
  | .tldc f => execTldc f s
  | .tldtc f => execTldtc f s
  | .bcopy f => execBcopy f s
  | .bcopyt f => execBcopyt f s
  | .bcopyc f => execBcopyc f s
  | .bcopyx f => execBcopyx f s
  | .spoolcfg f => execSpoolcfg f s
  | .await f => execAwait f s
  | .release f => execRelease f s
  | .mma f => execMma f s
  | .mmabs f => execMmabs f s
  | .mmv f => execMmv f s
  | .mzero f => execMzero f s
  | .mld f => execMld f s
  | .mst f => execMst f s
  | .mcommit f => execMcommit f s
  | .mwait f => execMwait f s
  | .sldv f => execSldv f s
  | .sstv f => execSstv f s
  | .loomjoin f => execLoomjoin f s
  | .loomgo f => execLoomgo f s
  | .loomsplit f => execLoomsplit f s
  | .drain f => execDrain f s
  | .psplita f => execPsplita f s
  | .psplitb f => execPsplitb f s
  | .pmma f => execPmma f s
  | .pjoin f => execPjoin f s
  | .pstat f => execPstat f s
  | .draft f => execDraft f s
  | .draftrel f => execDraftrel f s
  | .pick f => execPick f s
  | .drwait f => execDrwait f s
  | .drstat f => execDrstat f s
  | .dfetch f => execDfetch f s
  | .devict f => execDevict f s
  | .dpin f => execDpin f s
  | .dunpin f => execDunpin f s
  | .send f => execSend f s
  | .recv f => execRecv f s
  | .recvp f => execRecvp f s
  | .rld f => execRld f s
  | .rst f => execRst f s
  | .ramo f => execRamo f s
  | .rcas f => execRcas f s
  | .rfill f => execRfill f s
  | .rdecw f => execRdecw f s
  | .rwadd f => execRwadd f s
  | .rwrd f => execRwrd f s
  | .rfadd f => execRfadd f s
  | .rcopy f => execRcopy f s
  | .rsig f => execRsig f s
  | .rwait f => execRwait f s
  | .frun f => execFrun f s
  | .fstop f => execFstop f s
  | .fork f => execFork f s
  | .join f => execJoin f s
  | .fyield f => execFyield f s
  | .fexit f => execFexit f s
  | .launch f => execLaunch f s
  | .handoff f => execHandoff f s
  | .exit f => execExit f s
  | .sysrd f => execSysrd f s
  | .syswr f => execSyswr f s
  | .tret f => execTret f s
  | .halt f => execHalt f s
  | .waiti f => execWaiti f s
  | .tlbinv f => execTlbinv f s
  | .tlbinva f => execTlbinva f s
  | .tlbinvp f => execTlbinvp f s
  | .ringrd f => execRingrd f s
  | .preempt f => execPreempt f s
  | .migrate f => execMigrate f s
  | _ => .next s

end Sys2Proof.Machine
end

