-- ==== Sys2Proof/Machine/Events.lean ====
section
/-! DEFINITION. The events of issue, of engine queues, of accesses that return, of waits that end, of SC operations, of page
walks, host translations and page requests (03_pillars_strands_jobs.md R89-R94, 04_general_registers.md R109-R117,
13_memory_order.md R326-R330, 14_translation.md R346-R359). -/

namespace Sys2Proof.Machine

/-! ## Issue and engine queues -/

/-- ISSUE_PROMOTION (R91): a ready strand whose wait count is 64 or more is promoted for one issue. -/
def execIssuePromotion (p : PillarId) (t : StrandId) (s : State) : Out :=
  if s.ready p t && 64 ≤ (s.strandAt p t).waitCount then
    .next (s.modStrand p t fun r => { r with promoted := true })
  else .next s

/-- ENGINE_ACCEPT (R93): the engine takes an instruction from its queues; the vector unit takes no more, and the tile load pipe
only fetches, while the pillar drains (R132, R383). -/
def execEngineAccept (p : PillarId) (e : Engine) (s : State) : Out :=
  if (s.stack (stackOf p)).halted then .next s
  else
    match e with
    | .vector => .next (if (s.pil p).stopping then s else s.acceptVector p)
    | .matrix => .next (s.acceptMatrix p)
    | .tile => .next (s.acceptTile p)
    | .message => .next (s.acceptMessage p)

/-- A strand waits for the divider. -/
def Strand.atDivision (r : Strand) : Bool :=
  match r.blocked with
  | .wait (.div _) | .wait (.divn _) | .wait (.rem _) | .wait (.remn _) => true
  | _ => false

/-- DIVIDER_FREE (R117): the division ends, and the strands that wait for the divider are ready again, with the counts they
had. Its result stands since its issue, and its strand has issued nothing since. -/
def execDividerFree (p : PillarId) (s : State) : Out :=
  let free (r : Strand) : Strand := if r.atDivision then r.unblock else r
  .next (s.modPil p fun x => { x with divider := none, strands := x.strands.map free })

/-! ## Accesses that return -/

/-- STORE_BUFFER_DRAIN (R109): the oldest store of the strand is performed. -/
def execStoreBufferDrain (p : PillarId) (t : StrandId) (s : State) : Out := .next (s.drainStore p t)

/-- A remote access of the current strand returns with data, or ends with a trap. -/
def State.endRemote (s : State) (i : Instr) (o : MemOp) (r : Except (BitVec 8 × Word) (Nat × Bool)) : State :=
  match r with
  | .ok v => s.returnData i o v
  | .error (c, v) => s.takeTrap { cause := c, tval := v }

/-- The strands that an access ends for: its own, and that of its right twin (R397). -/
def State.sharers (s : State) (p : PillarId) (t : StrandId) (pa : Nat) : List (PillarId × StrandId × Instr) :=
  let of (q : PillarId) : List (PillarId × StrandId × Instr) :=
    match (s.strandAt q t).blocked with
    | .remote i _ _ _ _ _ => [(q, t, i)]
    | _ => []
  if s.outgoing p (placeOf pa) then of p ++ of (s.twinOf p) else of p

/-- An access to a peer, to the host, or of a pair of twins whose worms matched, is performed and returns (R109, R397): the
left twin's is performed, and its strand and the right one end alike. -/
def State.returnRemote (s : State) (p : PillarId) (t : StrandId) (i : Instr) (pa : Nat) (va : Word) (x y : PWord) : State :=
  match memOpOf i with
  | none => s
  | some o =>
    let s := s.focus p t
    let all := s.sharers p t pa
    let finishAll (s : State) (r : Except (BitVec 8 × Word) (Nat × Bool)) : State :=
      all.foldl (fun s x => (s.focus x.1 x.2.1).endRemote x.2.2 o r) s
    match s.reach p pa va with
    | .error (.trap c v) => finishAll s (.error (c, v))
    | .error _ => s
    | .ok pa' =>
      let (s, v) := s.performRemote p false o pa' x y
      finishAll s (.ok v)

/-- The data of a blocked access can return (R109): a worm that is held for its twin's hash goes first, and the right
twin's access ends with the left one's (R397). -/
def State.canReturn (s : State) (p : PillarId) (t : StrandId) : Bool :=
  match (s.strandAt p t).blocked with
  | .access => true
  | .remote _ pa _ _ _ _ => s.remoteReady p t pa
  | _ => false

/-- LOAD_DATA_RETURN (R109). -/
def execLoadDataReturn (p : PillarId) (t : StrandId) (s : State) : Out :=
  if !s.canReturn p t then .next s
  else
    match (s.strandAt p t).blocked with
    | .access => .next (s.modStrand p t Strand.unblock)
    | .remote i pa _ va x y => .next (s.returnRemote p t i pa va x y)
    | _ => .next s

/-! ## Waits -/

/-- An instruction that waited goes on: a PICK and a JOIN from their check, which they have reached once, any other from its
beginning (R89, R156, R287). -/
def resume (i : Instr) (s : State) : Out :=
  match i with
  | .pick f => checkPick f true s
  | .join f => resumeJoin f s
  | i => retry i s

/-- The current strand has come to the end of a turn: if it waits in no instruction, no sample stays (R108). -/
def State.dropSample (s : State) : State := s.modSt fun r => if r.blocked == .no then { r with sampled := none } else r

/-- BLOCKED_WAIT_END (R89): an instruction that waits runs again, on the window values of its issue (R108), and, when its
condition holds, completes; a TLB invalidation, a LAUNCH, a pin or a MIGRATE whose wait is over ends (R356, R96, R282, R389). -/
def execBlockedWaitEnd (p : PillarId) (t : StrandId) (s : State) : Out :=
  let r := s.strandAt p t
  if r.run != .running || (s.stack (stackOf p)).halted then .next s
  else
    match r.blocked with
    | .wait i => mapNext State.dropSample (resume i ((s.focus p t).modSt fun r => { r with blocked := .no }))
    | .launch i m => .next ((s.focus p t).resumeLaunch i m)
    | .pinned i e => .next ((s.focus p t).endPinned i e)
    | .inval i ranges => if s.rangesClear ranges then .next ((s.focus p t).invalidated i) else .next s
    | .migrate (.migrate f) src => if s.drained src then .next ((s.focus p t).finishMigrate f src) else .next s
    | _ => .next s

/-! ## SC operations -/

/-- The physical bytes of a strand's announced SC operation (R328). -/
def State.scBytes (s : State) (p : PillarId) (t : StrandId) : Option (Nat × Nat) :=
  match (s.strandAt p t).blocked with
  | .sc i _ pa va _ =>
    match memOpOf i, s.reach p pa va with
    | some o, .ok pa => some (pa, o.n)
    | _, _ => none
  | _ => none

/-- The announced SC operations: pillar, strand, count. -/
def State.announced (s : State) : List (PillarId × StrandId × Nat) :=
  s.pillars.entries.flatMap fun e => allStrands.filterMap fun t =>
    match (e.2.strand t).blocked with
    | .sc _ c _ _ _ => some (BitVec.ofNat 10 e.1, t, c)
    | _ => none

/-- The order S (R327): by window, then by logical pillar number, then by strand number. -/
def scBefore (a b : Nat × Nat × Nat) : Bool :=
  a.1 < b.1 || (a.1 == b.1 && (a.2.1 < b.2.1 || (a.2.1 == b.2.1 && a.2.2 < b.2.2)))

/-- The rank of an SC operation in S (R326, R327). -/
def scRank (p : PillarId) (t : StrandId) (count : Nat) : Nat × Nat × Nat := (count / 32, p.toNat, t.val)

/-- The bytes of a strand's SC operation whose turn has come, and which waits for its twin's or its response (R328, R397). -/
def Strand.scHeld (r : Strand) : Option (Nat × Nat) :=
  match r.blocked with
  | .remote i pa _ _ _ _ => if isSc i then (memOpOf i).map fun o => (pa, o.n) else none
  | _ => none

/-- The SC operations whose accesses have begun and not ended: their bytes. -/
def State.scUnderWay (s : State) : List (Nat × Nat) := s.pillars.entries.flatMap fun e => e.2.strands.toList.filterMap Strand.scHeld

/-- An operation of the SC order S that touches a byte of a strand's has not ended, and comes before it (R328). -/
def State.scBehind (s : State) (p : PillarId) (t : StrandId) (count : Nat) : Bool :=
  match s.scBytes p t with
  | some (a, n) =>
    (s.scUnderWay.any fun b => overlaps a n b.1 b.2) ||
      s.announced.any fun x =>
        scBefore (scRank x.1 x.2.1 x.2.2) (scRank p t count) &&
          (match s.scBytes x.1 x.2.1 with | some (b, m) => overlaps a n b m | none => false)
  | none => false

/-- The turn of a strand's SC operation has come (R328): its window is known everywhere, and no operation before it in S
touches a byte of it. In a twinned job it is also the turn of the operation whose pair waits for it (R397). -/
def State.scTurn (s : State) (p : PillarId) (t : StrandId) : Bool :=
  match (s.strandAt p t).blocked with
  | .sc _ c _ _ _ =>
    32 * (c / 32 + 1) + 96 ≤ s.clk &&
      (!s.scBehind p t c || (s.twinned p && (s.strandAt (s.twinOf p) t).scHeld.isSome))
  | _ => false

/-- The access of an announced SC operation (R328, R330): performed alone, with nothing left in the store buffer. -/
def State.scAccess (s : State) (i : Instr) (o : MemOp) (pa : Nat) (va : Word) (x : PWord) : Act State := do
  let pa' ← s.reach s.curP pa va
  let s' ← (s.noteForward s.curP pa).performAt i o pa' va x {}
  .ok (s'.count 0x4B2)

/-- SC_ACCESS_START (R328, R330): the access of the operation, in its turn. -/
def execScAccessStart (p : PillarId) (t : StrandId) (s : State) : Out :=
  if !s.scTurn p t then .next s
  else
    match (s.strandAt p t).blocked with
    | .sc i _ pa va x =>
      match memOpOf i with
      | some o =>
        let s := (s.focus p t).modSt fun r => { r with blocked := .no }
        finishAt i s (s.scAccess i o pa va x)
      | none => .next s
    | _ => .next s

/-! ## Walks and host translations -/

/-- The highest level at which an access of a pillar may have asked for a walk. -/
def Pillar.walkLevel (x : Pillar) : Nat := if x.strands.toList.any fun r => r.run == .running && r.lvl != 0 then 1 else 0

/-- PAGE_WALK (R347, R353): a walker of the pillar's stack translates an address that the TLBs miss, and they hold the
entry, unless the access is refused; the faults of a walk belong to the access that asked for it. -/
def execPageWalk (p : PillarId) (va : Word) (kind : AccessKind) (s : State) : Out :=
  let w : Walker := { p := p, asid := (s.pil p).asid, lvl := (s.pil p).walkLevel, tile := kind == .tile }
  if !canonical va || (s.lookup w va).isSome then .next s
  else
    match s.walk w.asid va with
    | .entry e =>
      match s.useEntry e w.lvl kind va with
      | .ok x => .next (s.noteXlate w x)
      | .error _ => .next s
    | _ => .next s

/-- The largest of the seven page and group sizes that a range covers (R346, R348). -/
def atsBits (bits : Nat) : Option Nat := [39, 34, 30, 25, 21, 16, 12].find? fun n => n ≤ bits

/-- The entry of an ATS completion (R348): its R and W bits stand in place of U and W. -/
def atsEntry (asid : BitVec 16) (c : AtsCompletion) (bits : Nat) : TlbEntry :=
  { asid := asid, global := false, va := c.va.toNat % 2 ^ 57 / 2 ^ bits * 2 ^ bits, bits := bits
    pa := 3 * 2 ^ 46 + 2 ^ 45 + c.pa.toNat % 2 ^ 45 / 2 ^ bits * 2 ^ bits
    user := c.r, write := c.w, host := true }

/-- An ATS Translation Request asked for a page of an ASID. -/
def AtsRequest.asks (r : AtsRequest) (asid : BitVec 16) (va : Word) : Bool := r.asid == asid && r.va.bits 63 12 == va.bits 63 12

/-- A completion that answers a request which an Invalidate Request has restarted is void (R349, R356). -/
def AtsRequest.voided (r : AtsRequest) (asid : BitVec 16) (va : Word) : AtsRequest :=
  if r.asks asid va then { r with void := r.void - 1 } else r

/-- The completion of the requests in flight for a page (R348): the range is cached for the stacks whose units asked, unless it
gives no right (R353). -/
def State.completeAts (s : State) (asid : BitVec 16) (c : AtsCompletion) (bits : Nat) : State :=
  let asked (n : Nat) : Bool := s.host.ats.any fun r => r.asks asid c.va && r.stack == n
  let h := { s.host with ats := s.host.ats.filter fun r => !r.asks asid c.va }
  if c.r || c.w then
    { s with host := h, stackUnits := s.stackUnits.mapIdx fun n k =>
        if asked n then { k with tlb := touchTlb 8192 k.tlb (atsEntry asid c bits) } else k }
  else { s with host := { h with noRights := (asid, c.va.bits 56 12) :: h.noRights } }

/-- ATS_TRANSLATION_COMPLETION (R348, R349): the answer to a Translation Request in flight. -/
def execAtsTranslationCompletion (asid : BitVec 16) (c : AtsCompletion) (s : State) : Out :=
  match s.host.ats.find? (·.asks asid c.va), atsBits c.bits with
  | some r, some bits =>
    if r.void = 0 then .next (s.completeAts asid c bits)
    else .next { s with host := { s.host with ats := s.host.ats.map fun r => r.voided asid c.va } }
  | _, _ => .next s

/-- The host translations of an ASID that share an address with a range. -/
def hostEntryIn (asid : BitVec 16) (va n : Nat) (e : TlbEntry) : Bool :=
  e.host && e.asid == asid && overlaps e.va (2 ^ e.bits) va n

/-- Sends the Invalidate Completions of requests whose accesses have ended (R349). -/
def State.settleInvalidates (s : State) : State :=
  let h := s.host
  let (done, rest) := h.invalidating.partition fun r => s.rangesClear r
  { s with host := { h with invalidating := rest, invalidated := h.invalidated + done.length } }

/-- A Translation Request whose completion may hold addresses of a range is restarted: the completion that comes first is void (R349,
R356). A completion may hold for up to the 512 GiB that an H entry hands to the host (R348). -/
def AtsRequest.restart (r : AtsRequest) (asid : BitVec 16) (va n : Nat) : AtsRequest :=
  if r.asid == asid && overlaps (r.va.toNat % 2 ^ 57 / 2 ^ 39 * 2 ^ 39) (2 ^ 39) va n then { r with void := r.void + 1 } else r

/-- ATS_INVALIDATE_REQUEST (R349): the entries of a range of `size` bytes go, the Translation Requests in flight for it are
restarted, and the completion is sent once the accesses translated through the entries have ended. -/
def execAtsInvalidateRequest (asid : BitVec 16) (va : Word) (size : Nat) (s : State) : Out :=
  let sel := hostEntryIn asid (va.toNat % 2 ^ 57) size
  let ranges := (s.entriesOf sel).map fun e => (e.pa, 2 ^ e.bits)
  let s := s.dropEntries sel
  let h := { s.host with
    invalidating := s.host.invalidating ++ [ranges]
    ats := s.host.ats.map fun r => r.restart asid (va.toNat % 2 ^ 57) size }
  .next (State.settleInvalidates { s with host := h })

/-! ## Page requests -/

/-- The response to a strand's latest request (R351). -/
def Strand.answered (id : Nat) (ok : Bool) (r : Strand) : Strand :=
  if r.preqId == some id then
    { r with preqId := none, preq := (r.preq &&& ~~~(maskBits 63 61)) ||| (if ok then maskBits 62 62 else maskBits 61 61) }
  else r

/-- The response to a fibre's request (R161): it becomes ready, with cause 0x0B at the VA that faulted if the request failed
(R352). -/
def Pillar.answerFibre (id : Nat) (ok : Bool) (x : Pillar) : Pillar :=
  match x.fibres.entries.find? fun e => e.2.request == some id with
  | some (j, _) => x.wake j fun y => { y with request := none, fault := if ok then y.fault else some (0x0B, y.faultVa) }
  | none => x

/-- The response to the requests of a pillar's strands and fibres. -/
def Pillar.answer (id : Nat) (ok : Bool) (x : Pillar) : Pillar :=
  Pillar.answerFibre id ok { x with strands := x.strands.map (Strand.answered id ok) }

/-- The response reaches the strand or fibre, on its pillar or in its saved context (R351, R387). -/
def State.answerContexts (s : State) (id : Nat) (ok : Bool) : State :=
  { s with
    pillars := { entries := s.pillars.entries.map fun e => (e.1, e.2.answer id ok) }
    saves := s.saves.map fun c => { c with ctx := c.ctx.answer id ok } }

/-- The response to a command's request in a saved context (R286, R387). -/
def CommandSlot.answer (id : Nat) (ok write : Bool) (w : ShuttleJob) (c : CommandSlot) : CommandSlot :=
  { c with command := c.command.map fun e =>
      if e.request != some id then e
      else if ok then { e with request := none }
      else failEntry w (e.requestErr write) e }

/-- The response to the shuttle's request (R281): the entry goes on, or fails; a command may have been saved by now (R286). -/
def State.answerShuttle (s : State) (id : Nat) (ok write : Bool) (w : ShuttleJob) : State :=
  let saved (s : State) : State :=
    match w with
    | .command p j => { s with saves := s.saves.map fun c =>
        if c.p == p then { c with ctx := c.ctx.modCmd j (CommandSlot.answer id ok write w) } else c }
    | .entry _ _ => s
  match s.workEntry w with
  | some e =>
    if e.request != some id then saved s
    else if ok then s.modWork w fun e => { e with request := none }
    else s.failWork w (e.requestErr write)
  | none => saved s

/-- The response to a RETRY's request (R284, R350): it goes on, or its entry fails with ERR 1 and the record stays. -/
def State.answerGrowth (s : State) (id : Nat) (ok : Bool) (st n : Nat) : State :=
  match (s.stack st).shuttle.records.get? n with
  | some g =>
    if g.request != some id then s
    else if ok then (s.setGrowth st n { g with request := none }).stepGrowth st n
    else (s.failGrowth g 1).keepGrowth st n g
  | none => s

/-- The response to the request for a job's image (R78, R352). -/
def State.answerImage (s : State) (n : Nat) (ok : Bool) : State :=
  let s := s.modJob n fun j => { j with request := none }
  if ok then s
  else
    match s.launch.jobs.find? fun j => j.number == n && j.live with
    | some j => (match j.rect with | some r => s.imageFailed j r | none => s)
    | none => s

/-- The response to the request for a job's status word (R79). -/
def State.answerStatus (s : State) (n : Nat) (ok : Bool) : State :=
  let s := s.modJob n fun j => { j with statusRequest := none, statusQueue := if ok then j.statusQueue else j.statusQueue.drop 1 }
  (if ok then s else s.countLaunch 6).flush

/-- The outbox entries, with their pillars, that wait for a request of their host queue (R417). -/
def State.pagingEntries (s : State) (id : Nat) : List (PillarId × OutboxEntry) :=
  s.pillars.entries.flatMap fun e => (e.2.msg.outbox.filter fun a => a.phase == .paging id).map fun a => (BitVec.ofNat 10 e.1, a)

/-- The response to a host queue's request (R417): the message is sent again, or fails with reason 6. -/
def State.answerHost (s : State) (id : Nat) (ok : Bool) : State :=
  (s.pagingEntries id).foldl (fun s x =>
    if ok then s.modOutbox x.1 x.2.number (setEntry x.2.number .ready)
    else s.messageFailed x.1 x.2 0x60 (x.2.msg.tval 6)) s

/-- A launch queue's request ends (R79, R96), unless who made it has ended. -/
def QueueRequest.answer (q : QueueRequest) (id : Nat) (ok : Bool) : QueueRequest :=
  if q.id == some id then { id := none, failed := !ok } else q

/-- What a response does for who asked (R352). -/
def State.answerRequester (s : State) (r : PageRequest) (ok : Bool) : State :=
  match r.requester with
  | .strand _ _ | .fibre _ _ => s.answerContexts r.id ok
  | .shuttle w => s.answerShuttle r.id ok r.write w
  | .growth st n => s.answerGrowth r.id ok st n
  | .image n => s.answerImage n ok
  | .record n => s.setLq n { s.lq n with reading := (s.lq n).reading.answer r.id ok }
  | .slot n => s.setLq n { s.lq n with writing := (s.lq n).writing.answer r.id ok }
  | .status n => s.answerStatus n ok
  | .host => s.answerHost r.id ok

/-- PAGE_REQUEST_RESPONSE (R350): success or failure; after a Response Failure later requests fail at once, until the host enables
PRI again (R350: `State.enablePri`). The host translation of the page is asked for again. -/
def execPageRequestResponse (req : Nat) (r : PriResponse) (s : State) : Out :=
  match s.host.requests.find? fun q => q.id == req with
  | none => .next s
  | some q =>
    let h := { s.host with
      requests := s.host.requests.filter fun q => q.id != req
      priEnabled := s.host.priEnabled && r != .responseFailure }
    let s := State.dropEntries { s with host := h } (hostEntryIn q.asid (q.va.toNat % 2 ^ 57) 4096)
    .next (s.answerRequester q (r == .success))

/-- The host enables PRI again (R350). -/
def State.enablePri (s : State) : State := { s with host := { s.host with priEnabled := true } }

end Sys2Proof.Machine
end

