-- ==== Sys2Proof/Machine/Dispatch.lean ====
section
/-! DEFINITION. One arm for each constructor of Instr: a direct call of its meaning. -/

namespace Sys2Proof.Machine

/-- The meaning of an instruction or event at a state. -/
def exec (i : Instr) (s : State) : Host.Outcome State Fault Refusal :=
  match i with
  | .add f => Sys2Proof.Machine.execAdd f s
  | .sub f => Sys2Proof.Machine.execSub f s
  | .and f => Sys2Proof.Machine.execAnd f s
  | .or f => Sys2Proof.Machine.execOr f s
  | .xor f => Sys2Proof.Machine.execXor f s
  | .andn f => Sys2Proof.Machine.execAndn f s
  | .shl f => Sys2Proof.Machine.execShl f s
  | .shr f => Sys2Proof.Machine.execShr f s
  | .sar f => Sys2Proof.Machine.execSar f s
  | .slt f => Sys2Proof.Machine.execSlt f s
  | .sltn f => Sys2Proof.Machine.execSltn f s
  | .min f => Sys2Proof.Machine.execMin f s
  | .max f => Sys2Proof.Machine.execMax f s
  | .mov f => Sys2Proof.Machine.execMov f s
  | .sel f => Sys2Proof.Machine.execSel f s
  | .selz f => Sys2Proof.Machine.execSelz f s
  | .addi f => Sys2Proof.Machine.execAddi f s
  | .andi f => Sys2Proof.Machine.execAndi f s
  | .ori f => Sys2Proof.Machine.execOri f s
  | .xori f => Sys2Proof.Machine.execXori f s
  | .shli f => Sys2Proof.Machine.execShli f s
  | .shri f => Sys2Proof.Machine.execShri f s
  | .sari f => Sys2Proof.Machine.execSari f s
  | .slti f => Sys2Proof.Machine.execSlti f s
  | .li f => Sys2Proof.Machine.execLi f s
  | .lpc f => Sys2Proof.Machine.execLpc f s
  | .ldI8 f => Sys2Proof.Machine.execLdI8 f s
  | .ldI16 f => Sys2Proof.Machine.execLdI16 f s
  | .ldI32 f => Sys2Proof.Machine.execLdI32 f s
  | .ldI64 f => Sys2Proof.Machine.execLdI64 f s
  | .ldN8 f => Sys2Proof.Machine.execLdN8 f s
  | .ldN16 f => Sys2Proof.Machine.execLdN16 f s
  | .ldN32 f => Sys2Proof.Machine.execLdN32 f s
  | .stI8 f => Sys2Proof.Machine.execStI8 f s
  | .stI16 f => Sys2Proof.Machine.execStI16 f s
  | .stI32 f => Sys2Proof.Machine.execStI32 f s
  | .stI64 f => Sys2Proof.Machine.execStI64 f s
  | .jal f => Sys2Proof.Machine.execJal f s
  | .jr f => Sys2Proof.Machine.execJr f s
  | .svc f => Sys2Proof.Machine.execSvc f s
  | .brk f => Sys2Proof.Machine.execBrk f s
  | .beq f => Sys2Proof.Machine.execBeq f s
  | .bne f => Sys2Proof.Machine.execBne f s
  | .blt f => Sys2Proof.Machine.execBlt f s
  | .bge f => Sys2Proof.Machine.execBge f s
  | .bltn f => Sys2Proof.Machine.execBltn f s
  | .bgen f => Sys2Proof.Machine.execBgen f s
  | .mul f => Sys2Proof.Machine.execMul f s
  | .mulh f => Sys2Proof.Machine.execMulh f s
  | .mulhn f => Sys2Proof.Machine.execMulhn f s
  | .madd f => Sys2Proof.Machine.execMadd f s
  | .div f => Sys2Proof.Machine.execDiv f s
  | .divn f => Sys2Proof.Machine.execDivn f s
  | .rem f => Sys2Proof.Machine.execRem f s
  | .remn f => Sys2Proof.Machine.execRemn f s
  | .clz f => Sys2Proof.Machine.execClz f s
  | .ctz f => Sys2Proof.Machine.execCtz f s
  | .popc f => Sys2Proof.Machine.execPopc f s
  | .bswap f => Sys2Proof.Machine.execBswap f s
  | .brev f => Sys2Proof.Machine.execBrev f s
  | .bfx f => Sys2Proof.Machine.execBfx f s
  | .bfxn f => Sys2Proof.Machine.execBfxn f s
  | .bfi f => Sys2Proof.Machine.execBfi f s
  | .fshl f => Sys2Proof.Machine.execFshl f s
  | .fshr f => Sys2Proof.Machine.execFshr f s
  | .lldI8 f => Sys2Proof.Machine.execLldI8 f s
  | .lldI16 f => Sys2Proof.Machine.execLldI16 f s
  | .lldI32 f => Sys2Proof.Machine.execLldI32 f s
  | .lldI64 f => Sys2Proof.Machine.execLldI64 f s
  | .lldN8 f => Sys2Proof.Machine.execLldN8 f s
  | .lldN16 f => Sys2Proof.Machine.execLldN16 f s
  | .lldN32 f => Sys2Proof.Machine.execLldN32 f s
  | .lstI8 f => Sys2Proof.Machine.execLstI8 f s
  | .lstI16 f => Sys2Proof.Machine.execLstI16 f s
  | .lstI32 f => Sys2Proof.Machine.execLstI32 f s
  | .lstI64 f => Sys2Proof.Machine.execLstI64 f s
  | .lldf f => Sys2Proof.Machine.execLldf f s
  | .llde f => Sys2Proof.Machine.execLlde f s
  | .lstf f => Sys2Proof.Machine.execLstf f s
  | .feset f => Sys2Proof.Machine.execFeset f s
  | .feclr f => Sys2Proof.Machine.execFeclr f s
  | .lda f => Sys2Proof.Machine.execLda f s
  | .stl f => Sys2Proof.Machine.execStl f s
  | .scld f => Sys2Proof.Machine.execScld f s
  | .scst f => Sys2Proof.Machine.execScst f s
  | .amo f => Sys2Proof.Machine.execAmo f s
  | .cas f => Sys2Proof.Machine.execCas f s
  | .scamo f => Sys2Proof.Machine.execScamo f s
  | .fence f => Sys2Proof.Machine.execFence f s
  | .cfetch f => Sys2Proof.Machine.execCfetch f s
  | .cwait f => Sys2Proof.Machine.execCwait f s
  | .jmpf f => Sys2Proof.Machine.execJmpf f s
  | .tlook f => Sys2Proof.Machine.execTlook f s
  | .tfill f => Sys2Proof.Machine.execTfill f s
  | .tevict f => Sys2Proof.Machine.execTevict f s
  | .tinval f => Sys2Proof.Machine.execTinval f s
  | .vadd f => Sys2Proof.Machine.execVadd f s
  | .vsub f => Sys2Proof.Machine.execVsub f s
  | .vmul f => Sys2Proof.Machine.execVmul f s
  | .vdiv f => Sys2Proof.Machine.execVdiv f s
  | .vmin f => Sys2Proof.Machine.execVmin f s
  | .vmax f => Sys2Proof.Machine.execVmax f s
  | .vfma f => Sys2Proof.Machine.execVfma f s
  | .vfms f => Sys2Proof.Machine.execVfms f s
  | .vabs f => Sys2Proof.Machine.execVabs f s
  | .vneg f => Sys2Proof.Machine.execVneg f s
  | .vsqrt f => Sys2Proof.Machine.execVsqrt f s
  | .vand f => Sys2Proof.Machine.execVand f s
  | .vor f => Sys2Proof.Machine.execVor f s
  | .vxor f => Sys2Proof.Machine.execVxor f s
  | .vandn f => Sys2Proof.Machine.execVandn f s
  | .vshl f => Sys2Proof.Machine.execVshl f s
  | .vshr f => Sys2Proof.Machine.execVshr f s
  | .vsar f => Sys2Proof.Machine.execVsar f s
  | .vcmp f => Sys2Proof.Machine.execVcmp f s
  | .vsel f => Sys2Proof.Machine.execVsel f s
  | .vmov f => Sys2Proof.Machine.execVmov f s
  | .vbcast f => Sys2Proof.Machine.execVbcast f s
  | .vins f => Sys2Proof.Machine.execVins f s
  | .vext f => Sys2Proof.Machine.execVext f s
  | .vld f => Sys2Proof.Machine.execVld f s
  | .vst f => Sys2Proof.Machine.execVst f s
  | .vgather f => Sys2Proof.Machine.execVgather f s
  | .vscatter f => Sys2Proof.Machine.execVscatter f s
  | .kand f => Sys2Proof.Machine.execKand f s
  | .kor f => Sys2Proof.Machine.execKor f s
  | .knot f => Sys2Proof.Machine.execKnot f s
  | .kmovg f => Sys2Proof.Machine.execKmovg f s
  | .kmovk f => Sys2Proof.Machine.execKmovk f s
  | .kpopc f => Sys2Proof.Machine.execKpopc f s
  | .vcvt f => Sys2Proof.Machine.execVcvt f s
  | .vquant f => Sys2Proof.Machine.execVquant f s
  | .vdequant f => Sys2Proof.Machine.execVdequant f s
  | .vbscale f => Sys2Proof.Machine.execVbscale f s
  | .vexp2 f => Sys2Proof.Machine.execVexp2 f s
  | .vlog2 f => Sys2Proof.Machine.execVlog2 f s
  | .vrcp f => Sys2Proof.Machine.execVrcp f s
  | .vrsqrt f => Sys2Proof.Machine.execVrsqrt f s
  | .vred f => Sys2Proof.Machine.execVred f s
  | .vperm f => Sys2Proof.Machine.execVperm f s
  | .vshuf f => Sys2Proof.Machine.execVshuf f s
  | .vrot f => Sys2Proof.Machine.execVrot f s
  | .vcompress f => Sys2Proof.Machine.execVcompress f s
  | .vexpand f => Sys2Proof.Machine.execVexpand f s
  | .vdot f => Sys2Proof.Machine.execVdot f s
  | .rowact f => Sys2Proof.Machine.execRowact f s
  | .rowclose f => Sys2Proof.Machine.execRowclose f s
  | .rowshort f => Sys2Proof.Machine.execRowshort f s
  | .rowkeep f => Sys2Proof.Machine.execRowkeep f s
  | .shld f => Sys2Proof.Machine.execShld f s
  | .shst f => Sys2Proof.Machine.execShst f s
  | .shset f => Sys2Proof.Machine.execShset f s
  | .tld f => Sys2Proof.Machine.execTld f s
  | .tldt f => Sys2Proof.Machine.execTldt f s
  | .tldc f => Sys2Proof.Machine.execTldc f s
  | .tldtc f => Sys2Proof.Machine.execTldtc f s
  | .bcopy f => Sys2Proof.Machine.execBcopy f s
  | .bcopyt f => Sys2Proof.Machine.execBcopyt f s
  | .bcopyc f => Sys2Proof.Machine.execBcopyc f s
  | .bcopyx f => Sys2Proof.Machine.execBcopyx f s
  | .spoolcfg f => Sys2Proof.Machine.execSpoolcfg f s
  | .await f => Sys2Proof.Machine.execAwait f s
  | .release f => Sys2Proof.Machine.execRelease f s
  | .mma f => Sys2Proof.Machine.execMma f s
  | .mmabs f => Sys2Proof.Machine.execMmabs f s
  | .mmv f => Sys2Proof.Machine.execMmv f s
  | .mzero f => Sys2Proof.Machine.execMzero f s
  | .mld f => Sys2Proof.Machine.execMld f s
  | .mst f => Sys2Proof.Machine.execMst f s
  | .mcommit f => Sys2Proof.Machine.execMcommit f s
  | .mwait f => Sys2Proof.Machine.execMwait f s
  | .sldv f => Sys2Proof.Machine.execSldv f s
  | .sstv f => Sys2Proof.Machine.execSstv f s
  | .loomjoin f => Sys2Proof.Machine.execLoomjoin f s
  | .loomgo f => Sys2Proof.Machine.execLoomgo f s
  | .loomsplit f => Sys2Proof.Machine.execLoomsplit f s
  | .drain f => Sys2Proof.Machine.execDrain f s
  | .psplita f => Sys2Proof.Machine.execPsplita f s
  | .psplitb f => Sys2Proof.Machine.execPsplitb f s
  | .pmma f => Sys2Proof.Machine.execPmma f s
  | .pjoin f => Sys2Proof.Machine.execPjoin f s
  | .pstat f => Sys2Proof.Machine.execPstat f s
  | .draft f => Sys2Proof.Machine.execDraft f s
  | .draftrel f => Sys2Proof.Machine.execDraftrel f s
  | .pick f => Sys2Proof.Machine.execPick f s
  | .drwait f => Sys2Proof.Machine.execDrwait f s
  | .drstat f => Sys2Proof.Machine.execDrstat f s
  | .dfetch f => Sys2Proof.Machine.execDfetch f s
  | .devict f => Sys2Proof.Machine.execDevict f s
  | .dpin f => Sys2Proof.Machine.execDpin f s
  | .dunpin f => Sys2Proof.Machine.execDunpin f s
  | .send f => Sys2Proof.Machine.execSend f s
  | .recv f => Sys2Proof.Machine.execRecv f s
  | .recvp f => Sys2Proof.Machine.execRecvp f s
  | .rld f => Sys2Proof.Machine.execRld f s
  | .rst f => Sys2Proof.Machine.execRst f s
  | .ramo f => Sys2Proof.Machine.execRamo f s
  | .rcas f => Sys2Proof.Machine.execRcas f s
  | .rfill f => Sys2Proof.Machine.execRfill f s
  | .rdecw f => Sys2Proof.Machine.execRdecw f s
  | .rwadd f => Sys2Proof.Machine.execRwadd f s
  | .rwrd f => Sys2Proof.Machine.execRwrd f s
  | .rfadd f => Sys2Proof.Machine.execRfadd f s
  | .rcopy f => Sys2Proof.Machine.execRcopy f s
  | .rsig f => Sys2Proof.Machine.execRsig f s
  | .rwait f => Sys2Proof.Machine.execRwait f s
  | .frun f => Sys2Proof.Machine.execFrun f s
  | .fstop f => Sys2Proof.Machine.execFstop f s
  | .fork f => Sys2Proof.Machine.execFork f s
  | .join f => Sys2Proof.Machine.execJoin f s
  | .fyield f => Sys2Proof.Machine.execFyield f s
  | .fexit f => Sys2Proof.Machine.execFexit f s
  | .launch f => Sys2Proof.Machine.execLaunch f s
  | .handoff f => Sys2Proof.Machine.execHandoff f s
  | .exit f => Sys2Proof.Machine.execExit f s
  | .sysrd f => Sys2Proof.Machine.execSysrd f s
  | .syswr f => Sys2Proof.Machine.execSyswr f s
  | .tret f => Sys2Proof.Machine.execTret f s
  | .halt f => Sys2Proof.Machine.execHalt f s
  | .waiti f => Sys2Proof.Machine.execWaiti f s
  | .tlbinv f => Sys2Proof.Machine.execTlbinv f s
  | .tlbinva f => Sys2Proof.Machine.execTlbinva f s
  | .tlbinvp f => Sys2Proof.Machine.execTlbinvp f s
  | .ringrd f => Sys2Proof.Machine.execRingrd f s
  | .preempt f => Sys2Proof.Machine.execPreempt f s
  | .migrate f => Sys2Proof.Machine.execMigrate f s
  | .lqtailWrite q v => Sys2Proof.Machine.execLqtailWrite q v s
  | .jobAdmit q => Sys2Proof.Machine.execJobAdmit q s
  | .jobPlace => Sys2Proof.Machine.execJobPlace s
  | .backfillAgeLimit job => Sys2Proof.Machine.execBackfillAgeLimit job s
  | .imageLoaded job => Sys2Proof.Machine.execImageLoaded job s
  | .pillarScrubDone p => Sys2Proof.Machine.execPillarScrubDone p s
  | .issuePromotion p t => Sys2Proof.Machine.execIssuePromotion p t s
  | .engineAccept p e => Sys2Proof.Machine.execEngineAccept p e s
  | .vectorComplete p t => Sys2Proof.Machine.execVectorComplete p t s
  | .storeBufferDrain p t => Sys2Proof.Machine.execStoreBufferDrain p t s
  | .loadDataReturn p t => Sys2Proof.Machine.execLoadDataReturn p t s
  | .blockedWaitEnd p t => Sys2Proof.Machine.execBlockedWaitEnd p t s
  | .segmentLand p n => Sys2Proof.Machine.execSegmentLand p n s
  | .tagFillComplete p slot => Sys2Proof.Machine.execTagFillComplete p slot s
  | .tevictWritebackDone p => Sys2Proof.Machine.execTevictWritebackDone p s
  | .runnerLoadFibre p t => Sys2Proof.Machine.execRunnerLoadFibre p t s
  | .fibreWake p slot => Sys2Proof.Machine.execFibreWake p slot s
  | .stealRound p t => Sys2Proof.Machine.execStealRound p t s
  | .stealBackoffExpiry p t => Sys2Proof.Machine.execStealBackoffExpiry p t s
  | .pageRequestResponse req r => Sys2Proof.Machine.execPageRequestResponse req r s
  | .rowActivationDone p bank => Sys2Proof.Machine.execRowActivationDone p bank s
  | .tileBeatArrive p => Sys2Proof.Machine.execTileBeatArrive p s
  | .tileLoadFill p => Sys2Proof.Machine.execTileLoadFill p s
  | .throttleTrap p => Sys2Proof.Machine.execThrottleTrap p s
  | .refreshWindowStart p bank => Sys2Proof.Machine.execRefreshWindowStart p bank s
  | .refreshWindowEnd p bank => Sys2Proof.Machine.execRefreshWindowEnd p bank s
  | .refreshEpochStart stack => Sys2Proof.Machine.execRefreshEpochStart stack s
  | .vthermChange p layer hot warm throt => Sys2Proof.Machine.execVthermChange p layer hot warm throt s
  | .retentionDeadline p row => Sys2Proof.Machine.execRetentionDeadline p row s
  | .copyComplete p => Sys2Proof.Machine.execCopyComplete p s
  | .matrixComplete p u => Sys2Proof.Machine.execMatrixComplete p u s
  | .loomStepStart p => Sys2Proof.Machine.execLoomStepStart p s
  | .drainWritesDone p t => Sys2Proof.Machine.execDrainWritesDone p t s
  | .draftEntryTrigger p => Sys2Proof.Machine.execDraftEntryTrigger p s
  | .shuttleBlockMove p h => Sys2Proof.Machine.execShuttleBlockMove p h s
  | .draftEntryComplete p index => Sys2Proof.Machine.execDraftEntryComplete p index s
  | .ovfRetry stack n => Sys2Proof.Machine.execOvfRetry stack n s
  | .ovfDrop stack n => Sys2Proof.Machine.execOvfDrop stack n s
  | .directCommandComplete p slot => Sys2Proof.Machine.execDirectCommandComplete p slot s
  | .flitCrcResend p port => Sys2Proof.Machine.execFlitCrcResend p port s
  | .messageHeadArrive p n => Sys2Proof.Machine.execMessageHeadArrive p n s
  | .messageResend p n => Sys2Proof.Machine.execMessageResend p n s
  | .messageDeliver p n => Sys2Proof.Machine.execMessageDeliver p n s
  | .agentProcedure p => Sys2Proof.Machine.execAgentProcedure p s
  | .procedureResponse p t seq => Sys2Proof.Machine.execProcedureResponse p t seq s
  | .routerCombine p later => Sys2Proof.Machine.execRouterCombine p later s
  | .scAccessStart p t => Sys2Proof.Machine.execScAccessStart p t s
  | .pageWalk p va kind => Sys2Proof.Machine.execPageWalk p va kind s
  | .atsTranslationCompletion asid c => Sys2Proof.Machine.execAtsTranslationCompletion asid c s
  | .atsInvalidateRequest asid va size => Sys2Proof.Machine.execAtsInvalidateRequest asid va size s
  | .peerGoneEvent peer why => Sys2Proof.Machine.execPeerGoneEvent peer why s
  | .peerTimeout peer => Sys2Proof.Machine.execPeerTimeout peer s
  | .lateFaultDelivery p t => Sys2Proof.Machine.execLateFaultDelivery p t s
  | .signalInterrupt p t => Sys2Proof.Machine.execSignalInterrupt p t s
  | .forwardedTrapInterrupt p t => Sys2Proof.Machine.execForwardedTrapInterrupt p t s
  | .trapMessageArrive n => Sys2Proof.Machine.execTrapMessageArrive n s
  | .trapMessageTimeout p => Sys2Proof.Machine.execTrapMessageTimeout p s
  | .preemptRequestArrive p => Sys2Proof.Machine.execPreemptRequestArrive p s
  | .preemptionPointStop p t => Sys2Proof.Machine.execPreemptionPointStop p t s
  | .preemptAgeLimit p => Sys2Proof.Machine.execPreemptAgeLimit p s
  | .pillarSave p => Sys2Proof.Machine.execPillarSave p s
  | .pillarRestore p => Sys2Proof.Machine.execPillarRestore p s
  | .dwHashArrive p t => Sys2Proof.Machine.execDwHashArrive p t s
  | .dwTimeout p t => Sys2Proof.Machine.execDwTimeout p t s
  | .containGo p => Sys2Proof.Machine.execContainGo p s
  | .containmentDone p => Sys2Proof.Machine.execContainmentDone p s
  | .testStripStart p => Sys2Proof.Machine.execTestStripStart p s
  | .stripIntervalDue p => Sys2Proof.Machine.execStripIntervalDue p s
  | .testStripEnd p r => Sys2Proof.Machine.execTestStripEnd p r s
  | .frheadWrite v => Sys2Proof.Machine.execFrheadWrite v s
  | .preemptreqWrite v => Sys2Proof.Machine.execPreemptreqWrite v s
  | .aperbaseWrite v => Sys2Proof.Machine.execAperbaseWrite v s
  | .apertureAccess off a => Sys2Proof.Machine.execApertureAccess off a s
  | .hostSendWrite h v => Sys2Proof.Machine.execHostSendWrite h v s
  | .ualinkInboundRequest peer off a => Sys2Proof.Machine.execUalinkInboundRequest peer off a s
  | .peerUpWrite peer => Sys2Proof.Machine.execPeerUpWrite peer s
  | .powerOn cfg => Sys2Proof.Machine.execPowerOn cfg s
  | .functionReady fn => Sys2Proof.Machine.execFunctionReady fn s
  | .stackReset stack => Sys2Proof.Machine.execStackReset stack s
  | .attgoWrite v => Sys2Proof.Machine.execAttgoWrite v s
  | .thermalStep stack temp => Sys2Proof.Machine.execThermalStep stack temp s
  | .phasePeriodBoundary => Sys2Proof.Machine.execPhasePeriodBoundary s
  | .xbWrite v => Sys2Proof.Machine.execXbWrite v s
  | .tagcfgWrite v => Sys2Proof.Machine.execTagcfgWrite v s
  | .stealWrite v => Sys2Proof.Machine.execStealWrite v s
  | .rowprogAbandon => Sys2Proof.Machine.execRowprogAbandon s
  | .fmtWrite v => Sys2Proof.Machine.execFmtWrite v s
  | .statusWrite v => Sys2Proof.Machine.execStatusWrite v s
  | .calendarWrite v => Sys2Proof.Machine.execCalendarWrite v s
  | .rpmapWrite n v => Sys2Proof.Machine.execRpmapWrite n v s
  | .chainWrite v => Sys2Proof.Machine.execChainWrite v s
  | .saveoffWrite v => Sys2Proof.Machine.execSaveoffWrite v s
  | .registerWrite r v => Sys2Proof.Machine.execRegisterWrite r v s
  | .illegalInstruction cause tval => Sys2Proof.Machine.execIllegalInstruction cause tval s
  | .dividerFree p => Sys2Proof.Machine.execDividerFree p s
  | .cutTailFlitArrive p inbox => Sys2Proof.Machine.execCutTailFlitArrive p inbox s
  | .ualinkLinkTrained port => Sys2Proof.Machine.execUalinkLinkTrained port s
  | .overtempStackHalt stack => Sys2Proof.Machine.execOvertempStackHalt stack s
  | .hostImageSubmit role image => Sys2Proof.Machine.execHostImageSubmit role image s

end Sys2Proof.Machine
end

