-- ==== Sys2Proof/Machine/Schedule.lean ====
section
/-! DEFINITION. What a step does: fetch, the boundary of a strand, the arbiter, and the package's own work of a clk
(01_instruction_words.md R26-R30, 03_pillars_strands_jobs.md R89-R93, 05_local_store.md R129-R130, 15_traps_preemption.md
R361-R372). Which of the things that may happen comes next is a choice: the agenda holds it (log entry 4). -/

namespace Sys2Proof.Machine

/-! ## The next instruction -/

/-- The instruction at the PC of the current strand takes its effect, or the trap of its fetch or decoding
(R26, R27, R129). -/
def State.runFetched (s : State) : Out :=
  match s.fetched with
  | .ok i _ => exec i s
  | .illegal c pos w page => execIllegalInstruction c (illegalTval pos w page) s
  | .short k =>
    match s.me.fetchFault s.st.fws (fetchAddr s.st.pc k) with
    | some (c, v) => .next (s.takeTrap { cause := c, tval := v })
    | none => .next s

/-! ## Boundaries -/

/-- The strand has something to do at its boundary before its next instruction (R370). -/
def State.boundaryDue (s : State) (p : PillarId) (t : StrandId) : Bool :=
  (s.lateDue p t).isSome || s.stripInterruptDue p t || s.forwardDue p t || s.signalDue p t || s.stopDue p t

/-- An interrupt or a stop comes at the boundary once the strand's vector instructions have completed (R170). -/
def State.boundaryComing (s : State) (p : PillarId) (t : StrandId) : Bool :=
  s.stripInterruptPending p t || s.forwardPending p t || s.signalPending p t || s.stopPending p t

/-- The strand can issue its next instruction: it is ready, and nothing comes first (R89, R370). -/
def State.canIssue (s : State) (p : PillarId) (t : StrandId) : Bool :=
  s.ready p t && !s.boundaryDue p t && !s.boundaryComing p t

/-- A strand takes the first of what is due at its boundary (R370). -/
def State.runBoundary (s : State) (p : PillarId) (t : StrandId) : Out :=
  if (s.lateDue p t).isSome then execLateFaultDelivery p t s
  else if s.stripInterruptDue p t then .next (s.takeStripInterrupt p t)
  else if s.forwardDue p t then execForwardedTrapInterrupt p t s
  else if s.signalDue p t then execSignalInterrupt p t s
  else execPreemptionPointStop p t s

/-! ## Issue -/

/-- What a strand that waits keeps of g56 to g63, as they were at its issue (R108). -/
def Strand.keepSample (r : Strand) (w : Option (Vector Word 8)) : Strand :=
  { r with sampled := if r.blocked == .no then none else w }

/-- A strand has issued (R90, R91, R108): its wait count and promotion end, it is the last at its priority, and if it waits in its
instruction, the window values of the issue stay. -/
def State.noteIssue (p : PillarId) (t : StrandId) (pri : Nat) (w : Option (Vector Word 8)) (s : State) : State :=
  s.modPil p fun x =>
    { x.modStrand t fun r => { r.keepSample w with waitCount := 0, promoted := false } with
      lastIssue := x.lastIssue.setIfInBounds pri t }

/-- The window values that a strand samples at its issue (R108). -/
def State.issueSample (s : State) (p : PillarId) (t : StrandId) : Option (Vector Word 8) :=
  if (s.strandAt p t).cw then some (s.focus p t).sample else none

/-- A strand issues its next instruction. -/
def State.issueOne (s : State) (p : PillarId) (t : StrandId) : Out :=
  mapNext (State.noteIssue p t (s.strandAt p t).pri (s.issueSample p t)) (s.focus p t).runFetched

/-- A strand's turn: what is due at its boundary, or its next instruction, if it can issue (R370). -/
def State.issueTurn (s : State) (p : PillarId) (t : StrandId) : Out :=
  if s.boundaryDue p t then s.runBoundary p t
  else if s.canIssue p t then s.issueOne p t
  else .next s

/-- The strand that issues (R90, R91): a promoted one, or the first at the highest priority after the strand that last
issued at it. -/
def State.arbiter (s : State) (p : PillarId) (ts : List StrandId) : Option StrandId :=
  let x := s.pil p
  match ts.find? fun t => (x.strand t).promoted || 64 ≤ (x.strand t).waitCount with
  | some t => some t
  | none =>
    let top := (ts.map fun t => (x.strand t).pri).foldl max 0
    (roundRobin (x.lastIssue[top]?.getD 3)).find? fun t => ts.contains t && (x.strand t).pri == top

/-- A ready strand that does not issue (R91). -/
def Strand.lose (r : Strand) : Strand := { r with waitCount := r.waitCount + 1 }

/-- The issue slot of a pillar in a clk (R90, R91). -/
def State.issueSlot (s : State) (p : PillarId) : Out :=
  let ts := allStrands.filter fun t => s.canIssue p t
  match s.arbiter p ts with
  | none => .next s
  | some t => ((ts.filter (· != t)).foldl (fun s u => s.modStrand p u Strand.lose) s).issueOne p t

/-! ## The package's own work -/

/-- The work of a strand. -/
def runStrand (p : PillarId) (t : StrandId) (w : StrandWork) (s : State) : Out :=
  match w with
  | .boundary => if s.boundaryDue p t then s.runBoundary p t else .next s
  | .promotion => execIssuePromotion p t s
  | .storeDrain => execStoreBufferDrain p t s
  | .fenceEnd => .next (s.endFence p t)
  | .dataReturn => execLoadDataReturn p t s
  | .waitEnd => execBlockedWaitEnd p t s
  | .vectorDone => vectorWork p t s
  | .drainDone => execDrainWritesDone p t s
  | .scStart => execScAccessStart p t s
  | .runnerLoad => execRunnerLoadFibre p t s
  | .stealExpiry => execStealBackoffExpiry p t s
  | .stealRound => execStealRound p t s
  | .hashArrive => execDwHashArrive p t s
  | .weaveTimeout => execDwTimeout p t s

/-- The banks of the activations that are done by now (R196), and that no refresh keeps closed (R210). -/
def State.activationsDue (s : State) (p : PillarId) : List Nat :=
  let v := (s.pil p).vault
  ((v.activating.filter fun a => a.2 ≤ s.clk).map fun a => bankOf a.1).filter fun b => (v.refreshing.get? b).isNone

/-- An operation on a unit of the matrix engine is due (R231). -/
def State.matrixDue (s : State) (p : PillarId) (o : Option MatrixOp) : Bool :=
  match o with | some o => o.due ≤ s.aclk p | none => false

/-- The oldest tile load, or copy, whose last beat has arrived is done (R205, R218). -/
def State.opDue (s : State) (p : PillarId) (load : Bool) : Bool :=
  let mine (o : TileOp) : Bool := o.ended && (match tileKind o.d.instr with | some k => (k < 4) == load | none => false)
  match (s.pil p).tile.ops.find? mine with | some o => o.due ≤ s.clk | none => false

/-- The work of a pillar. A strip that nothing from outside ends passes, after a free number of patterns (R405). -/
def runPillar (p : PillarId) (w : PillarWork) (s : State) : Out :=
  let x := s.pil p
  match w with
  | .divider =>
    (match x.divider with
    | some t => if (x.strand t).notBefore ≤ s.aclk p then execDividerFree p s else .next s
    | none => .next s)
  | .activation =>
    (match s.activationsDue p with
    | b :: _ => execRowActivationDone p b s
    | [] => .next (s.modPil p fun x => x.retryRows s.clk))
  | .beat => (match x.tile.stream with | some o => if o.due ≤ s.clk then execTileBeatArrive p s else .next s | none => .next s)
  | .fill => if s.opDue p true then execTileLoadFill p s else .next s
  | .throttle => execThrottleTrap p s
  | .copyDone => if s.opDue p false then execCopyComplete p s else .next s
  | .evictDone => execTevictWritebackDone p s
  | .arrayDone => if s.matrixDue p x.mtx.array then execMatrixComplete p .array s else .next s
  | .portDone => if s.matrixDue p x.mtx.port then execMatrixComplete p .port s else .next s
  | .loomStart => execLoomStepStart p s
  | .trigger => execDraftEntryTrigger p s
  | .agent => execAgentProcedure p s
  | .trapTimeout => execTrapMessageTimeout p s
  | .preemptArrive => execPreemptRequestArrive p s
  | .preemptAge => execPreemptAgeLimit p s
  | .save => execPillarSave p s
  | .restore => execPillarRestore p s
  | .scrub => execPillarScrubDone p s
  | .containDone => execContainmentDone p s
  | .stripStart => execTestStripStart p s
  | .stripDue => execStripIntervalDue p s
  | .stripEnd =>
    let n := (Config.freeWord s.freeCount).toNat % 4097
    mapNext (fun s' => { s' with freeCount := s.freeCount + 1 }) (execTestStripEnd p (.pass n) s)

/-- The work of a numbered part of a pillar. -/
def runPart (p : PillarId) (w : PartWork) (n : Nat) (s : State) : Out :=
  match w with
  | .segment => execSegmentLand p (BitVec.ofNat 4 n) s
  | .tagFill => execTagFillComplete p (BitVec.ofNat 8 n) s
  | .fibre => execFibreWake p (BitVec.ofNat 8 n) s
  | .refreshStart => execRefreshWindowStart p n s
  | .refreshEnd => execRefreshWindowEnd p n s
  | .retention => execRetentionDeadline p n s
  | .entryDone => execDraftEntryComplete p n s
  | .commandDone => execDirectCommandComplete p (BitVec.ofNat 4 n) s
  | .headArrive => execMessageHeadArrive p n s
  | .resend => execMessageResend p n s
  | .deliver => execMessageDeliver p n s
  | .cutTail => execCutTailFlitArrive p (BitVec.ofNat 2 n) s

/-- The work of the package. -/
def runPackage (w : PackageWork) (s : State) : Out :=
  match w with
  | .takeIn q => execJobAdmit q s
  | .place => execJobPlace s
  | .image job => execImageLoaded job s
  | .age job => execBackfillAgeLimit job s
  | .status => .next s.flush
  | .epoch stack => execRefreshEpochStart stack s
  | .trapArrive => execTrapMessageArrive 0 s
  | .peerLate n => execPeerTimeout n (s.sendQueued n)
  | .invalidate => .next s.settleInvalidates
  | .reread job => .next (s.retryRestart job)
  | .growth st n => .next (s.stepGrowth st n)
  | .posted => .next s
  | .peerRequest n => .next (s.peerRequest n)

/-- An act from outside that no event of the opcode table stands for (log entry 82). -/
def runOutside (w : OutsideWork) (s : State) : State :=
  match w with
  | .priEnable => s.enablePri
  | .lsError p a => s.modPil p fun x => x.lsError a
  | .slotError p n => s.modPil p fun x => x.slotError n
  | .tileError p n => s.modPil p fun x => x.tileError n
  | .unitError pa => s.unitError pa
  | .linksOff p req rsp => s.linksOff p req rsp
  | .bar0 off a => s.bar0 off a
  | .aperture off a => match execApertureAccess off a s with | .next s => s | _ => s
  | .peerTakes n => s.peerTakes n
  | .portDown port => s.setLink port false

/-- The host sends it through BAR0 or BAR2 (R411-R414). -/
def Task.posts : Task → Bool
  | .input (.lqtailWrite _ _) | .input (.preemptreqWrite _) | .input (.frheadWrite _) | .input (.aperbaseWrite _) => true
  | .input (.apertureAccess _ _) | .input (.hostSendWrite _ _) | .input (.peerUpWrite _) | .input (.attgoWrite _) => true
  | .input (.containGo _) | .input (.ovfRetry _ _) | .input (.ovfDrop _ _) | .input (.registerWrite (.dev _) _) => true
  | .outside (.bar0 _ _) | .outside (.aperture _ _) => true
  | _ => false

/-- What a task does, when nothing that came before it waits. From outside come events, not instructions. -/
def Task.perform (k : Task) (s : State) : Out :=
  match k with
  | .input i => if i.isEvent then exec i s else .next s
  | .issue p t => s.issueTurn p t
  | .slot p => s.issueSlot p
  | .accept p e => execEngineAccept p e s
  | .strand p t w => runStrand p t w s
  | .pillar p w => runPillar p w s
  | .part p w n => runPart p w n s
  | .response p t seq => execProcedureResponse p t seq s
  | .block p h => execShuttleBlockMove p h s
  | .package w => runPackage w s
  | .outside w => .next (runOutside w s)

/-- The oldest access of the host that waits is tried again; what stands behind it stays so (R414). -/
def State.runPosted (s : State) : Out :=
  match s.posted with
  | [] => .next s
  | k :: ks => mapNext (fun s' => { s' with posted := s'.posted ++ ks }) (k.perform { s with posted := [] })

/-- What a task does (R414): the host's accesses are performed in the order in which they came. -/
def Task.run (k : Task) (s : State) : Out :=
  match k with
  | .package .posted => s.runPosted
  | k => if k.posts && !s.posted.isEmpty then .next (s.post k) else k.perform s

/-- What another unit does after a write of a device register, or after a stack halt. -/
def DevEffect.run (e : DevEffect) (s : State) : Out :=
  match e with
  | .lqtail n v => execLqtailWrite n v s
  | .preemptreq v => execPreemptreqWrite v s
  | .hostSend h v => execHostSendWrite h v s
  | .ovfDrop st n => execOvfDrop st n s
  | .ovfRetry st n => execOvfRetry st n s
  | .contain p => execContainGo p s
  | .frhead v => execFrheadWrite v s
  | .peerUp p => execPeerUpWrite p s
  | .attgo v => execAttgoWrite v s
  | .aperbase v => execAperbaseWrite v s
  | .reap n => .next (s.reap n)

/-! ## The work of a clk -/

/-- The work of a strand that comes before the issue slot: its waits, its runner's takes (R151), and its worms. -/
def earlyWorks : List StrandWork :=
  [.boundary, .promotion, .storeDrain, .fenceEnd, .dataReturn, .waitEnd, .scStart, .runnerLoad, .stealExpiry, .hashArrive, .weaveTimeout]

/-- The work of a pillar after the issue slot. -/
def lateWorks : List PillarWork :=
  [.activation, .beat, .fill, .throttle, .copyDone, .evictDone, .arrayDone, .portDone, .loomStart, .trigger, .agent,
    .trapTimeout, .preemptArrive, .preemptAge, .save, .restore, .scrub, .containDone, .stripStart, .stripDue, .stripEnd]

/-- The numbered parts of a pillar that may have work. -/
def State.partTasks (s : State) (p : PillarId) : List Task :=
  let x := s.pil p
  let all (w : PartWork) (l : List Nat) : List Task := l.map fun n => Task.part p w n
  let banks := List.range bankCount
  let out := x.msg.outbox.map (·.number) ++ (if p == servicePillar 0 then s.host.sends.map (·.number) else [])
  all .refreshStart banks ++ all .refreshEnd banks ++ all .retention x.vault.shortLived.keys ++
    all .segment (List.range 16) ++ all .tagFill x.tags.slots.keys ++ all .fibre x.fibres.keys ++
    all .entryDone (match s.draftOf p with | some d => List.range d.entries.length | none => []) ++
    all .commandDone (List.range 16) ++ all .headArrive out ++ all .resend out ++ all .deliver out ++
    all .cutTail (List.range 4)

/-- The block that each shuttle moves next (R274). -/
def State.blockTasks (s : State) : List Task :=
  (List.range 4).filterMap fun st =>
    match (s.movers st).head? with
    | some (.command q j) => some (.block q (.command (BitVec.ofNat 4 j)))
    | some (.entry n i) => (s.workEntry (.entry n i)).map fun e => .block e.pillar (.entry i)
    | none => none

/-- A kind of work of all four strands of a pillar. -/
def strandTasks (p : PillarId) (ws : List StrandWork) : List Task :=
  allStrands.flatMap fun t => ws.map fun w => .strand p t w

/-- What a pillar does in a clk before its issue slot: the vector unit has two pipes (R167). -/
def earlyTasks (p : PillarId) : List Task :=
  strandTasks p earlyWorks ++ [.pillar p .divider] ++
    [Engine.vector, .vector, .matrix, .tile, .message].map fun e => Task.accept p e

/-- What a pillar does after its vector instructions of the clk (R190). -/
def State.lateTasks (s : State) (p : PillarId) : List Task :=
  s.partTasks p ++ strandTasks p [.drainDone] ++ (lateWorks.map fun w => Task.pillar p w) ++
    ((s.procs.filter fun r => r.p == p).map fun r => Task.response p r.t r.seq)

/-- The tasks of the package. -/
def State.packageTasks (s : State) : List Task :=
  let jobs := s.launch.jobs.map fun j => j.record.jobId
  ((List.range 16).map fun n => Task.package (.takeIn (BitVec.ofNat 4 n))) ++ [.package .place] ++
    (jobs.map fun j => .package (.image j)) ++ (jobs.map fun j => .package (.age j)) ++ [.package .status] ++
    ((List.range 4).map fun n => .package (.epoch (BitVec.ofNat 2 n))) ++
    (s.trapMessages.map fun _ => .package .trapArrive) ++
    (s.host.peers.keys.flatMap fun n => [.package (.peerRequest (BitVec.ofNat 10 n)), .package (.peerLate (BitVec.ofNat 10 n))]) ++
    (s.posted.map fun _ => .package .posted) ++ [.package .invalidate] ++
    (jobs.map fun j => .package (.reread j)) ++
    ((List.range 4).flatMap fun st => (s.stack st).shuttle.records.keys.map fun n => .package (.growth st n))

/-- A task would change the state, apart from which strand was the last to run. -/
def State.hasWork (s : State) (k : Task) : Bool :=
  match k.run s with
  | .next s' => s'.focus s.curP s.curT != s
  | _ => true

/-- The pillars that may have work: those the state lists, those at which a procedure is to be performed, and the
service pillar from which the sends of the host leave (R301, R418). -/
def State.workPillars (s : State) : List PillarId :=
  let ps : List PillarId := s.pillars.keys.map fun n => BitVec.ofNat 10 n
  let agents := (s.procs.filter fun r => r.phase == .sent).map s.procAgent
  let host := if s.host.sends.isEmpty then [] else [servicePillar 0]
  ps ++ ((agents ++ host).filter fun p => !ps.contains p).eraseDups

/-- What the package does in a clk. The issue slots of the pillars whose clock ticks come after the waits that end and the engines'
acceptances; the vector writes before those of agents, DRAINs and fills (R190); and steals last, behind a victim's own takes
(R151). A pillar of a halted stack does nothing (R377). -/
def State.tasks (s : State) (ticks : PillarId → Bool) : List Task :=
  let ps := s.workPillars.filter fun p => !(s.stack (stackOf p)).halted
  ((s.packageTasks ++ ps.flatMap earlyTasks).filter s.hasWork) ++ ((ps.filter ticks).map fun p => .slot p) ++
    ((ps.flatMap fun p => strandTasks p [.vectorDone]) ++ ps.flatMap s.lateTasks ++ s.blockTasks ++
      (ps.flatMap fun p => strandTasks p [.stealRound])).filter s.hasWork

/-! ## Counting clk -/

/-- How many strands of a pillar wait in an instruction of a kind. -/
def Pillar.waitingIn (x : Pillar) (kind : Instr → Bool) : Nat :=
  (x.strands.toList.filter fun r => match r.blocked with | .wait i => kind i | .sc i _ _ _ _ => kind i | _ => false).length

/-- The matrix engine holds an instruction only because of phasing (R428, R394). -/
def State.phaseWait (s : State) (p : PillarId) : Bool :=
  !s.phaseAllows p && allStrands.any (State.matrixAcceptable { s with phasing := {} } p)

/-- The queue of a pillar's agent signals off: it holds 14 requests or more (R301, R314). -/
def State.agentOff (s : State) (p : PillarId) : Bool :=
  14 ≤ (s.procs.filter fun r => r.phase == .sent && s.procAgent r == p).length

/-- The counters of clk of a pillar (R394 and the lists of counters of each chapter). -/
def State.countPillar (s : State) (p : PillarId) (x : Pillar) : Pillar :=
  let fe (i : Instr) : Bool := match i with | .lldf _ | .llde _ => true | _ => false
  let await (i : Instr) : Bool := match i with | .await _ => true | _ => false
  let loom (i : Instr) : Bool := match i with | .loomjoin _ | .loomgo _ => true | _ => false
  let pick (i : Instr) : Bool := match i with | .pick _ => true | _ => false
  let fence (i : Instr) : Bool := match i with | .fence _ | .stl _ => true | _ => false
  let x := x.count 0x406 (x.waitingIn fe)
  let x := x.count 0x417 (if x.runQueue.isEmpty then (x.strands.toList.filter Strand.waitingRunner).length else 0)
  let x := x.count 0x422 (boolNat (x.pipes.any fun d => s.aclk p < d))
  let x := x.count 0x423 (boolNat (allStrands.any fun t => 2 ≤ (x.vec.queue t).length))
  let x := x.count 0x484 (x.waitingIn await)
  let x := x.count 0x486 (x.waitingIn loom)
  let x := x.count 0x492 (x.waitingIn pick)
  let x := x.count 0x4A4 (boolNat (s.agentOff p))
  let x := x.count 0x4A7 (boolNat (x.reqOff != 0 || x.rspOff != 0))
  let x := x.count 0x4B1 (x.waitingIn fence)
  let x := x.count 0x4B3 (x.waitingIn isSc)
  let x := x.count 0x4C2 (boolNat (allStrands.any fun t => s.ringWaits p t))
  x.count 0x4C8 (boolNat (s.phaseWait p))

/-- A clk of a pillar's own clock ends with this one (R4). -/
def State.ticksNext (s : State) (p : PillarId) : Bool := ({ s with clk := s.clk + 1 } : State).aclk p != s.aclk p

/-- The short-lived rows whose deadlines have come are poisoned before any read of the clk (R216). -/
def State.expireRows (s : State) : State :=
  s.pillars.entries.foldl (fun s e => (e.2.vault.rowsDue s.clk).foldl (State.expireRow (BitVec.ofNat 10 e.1)) s) s

/-- A clk ends (R3): the counters of clk, each by the clock of its pillar or stack (R4), and the package-wide count. -/
def State.nextClk (s : State) : State :=
  let ticks (n : Nat) : Bool := s.ticksNext (BitVec.ofNat 10 n)
  let count (e : Nat × Pillar) : Nat × Pillar := (e.1, if ticks e.1 then s.countPillar (BitVec.ofNat 10 e.1) e.2 else e.2)
  let runs (e : Nat × Pillar) : Bool := ticks e.1 && e.2.phase == .held && e.2.strands.toList.any fun r => r.run == .running
  let running := (s.pillars.entries.filter runs).length
  let full := (List.range 4).filter fun st => s.ovfFull st && s.ticksNext (servicePillar st)
  let s := { s with pillars := { entries := s.pillars.entries.map count }, clk := s.clk + 1 }
  let s := if running = 0 then s else s.countLaunch 5 running
  (full.foldl (fun s st => s.countStack st 0x49A) s).expireRows

/-- A new clk, with its work. -/
def State.newClk (s : State) : State :=
  let s' := s.nextClk
  { s' with agenda := s'.tasks s.ticksNext }

end Sys2Proof.Machine
end

