-- ==== Sys2Proof/Machine/Step.lean ====
section
/-! DEFINITION. One step of the package, and how an instruction is put where the next step fetches it. -/

namespace Sys2Proof.Machine

/-- One step: what a write of a device register brings about comes first; then the head of the agenda; and when the agenda is
empty, a new clk with the package's own work (log entry 4). -/
def step (s : State) : Host.Outcome State Fault Refusal :=
  match s.effects with
  | e :: es => e.run { s with effects := es }
  | [] =>
    match s.agenda with
    | k :: ks => k.run { s with agenda := ks }
    | [] => .next s.newClk

/-- The bytes of words in the order that the hardware stores them, each word little-endian (R6). -/
def wordBytes (ws : List Halfword) : List Byte := ws.flatMap fun w => bytesOfNat 2 w.toNat

/-- A strand that runs at user level from local store, and is ready. -/
def Strand.readyToFetch (r : Strand) : Strand :=
  { r.unblock with run := .running, fence := none, notBefore := 0, modes := [], lates := [], pending := [], status := 0 }

/-- The pillar holds the words at an address, as code: XB lies above them (R129). -/
def Pillar.withCode (x : Pillar) (pc : LsAddr) (t : StrandId) (ws : List Halfword) : Pillar :=
  { x with
    phase := .held, xbKb := max x.xbKb (min 384 (pc.toNat / 1024 + 1)), segs := Vector.replicate 16 {}, preempt := none, signal := 0
    ls := { x.ls with bytes := x.ls.bytes.writeList pc.toNat (wordBytes ws), bad := {} }
    strands := x.strands.set t (x.strand t).readyToFetch }

/-- The state with an instruction placed at the PC of the current strand, which is to issue next: it stands for the load of a
program from outside (log entry 49). -/
def State.withFetchWord (s : State) (nbits w : Nat) : State :=
  let s := s.modMe fun x => x.withCode s.st.pc s.curT (tableWordsPadded nbits w)
  { s with effects := [], agenda := [.issue s.curP s.curT] }

end Sys2Proof.Machine
end

