-- ==== Sys2Proof/Safety.lean ====
section
/-! DEFINITION. What a safe run is, and the words in which the statements about the machine are made: how an
instruction ends, when its operands let it run, and what it leaves unchanged. -/

namespace Sys2Proof.Machine

/-! ## Runs -/

/-- The machine goes on: it neither stops nor refuses. -/
def State.goesOn (s : State) : Prop := ∃ t, step s = .next t

/-- A run of a number of steps that never stops is safe. -/
def SafeRun (k : Nat) (s : State) : Prop := ∃ t, Sys2Proof.core.run k s = .next t

/-! ## How an instruction ends -/

/-- The instruction ends with a next state. -/
def Runs (i : Instr) (s t : State) : Prop := exec i s = .next t

/-- The instruction takes a precise trap (R366) with a cause and a value. -/
def Traps (i : Instr) (s : State) (cause : BitVec 8) (tval : Word) : Prop :=
  exec i s = .next (s.takeTrap { cause := cause, tval := tval })

/-- The instruction is not ready, and the strand runs it again later (R89). -/
def Waits (i : Instr) (s : State) : Prop := exec i s = .next (s.modSt fun r => { r with blocked := .wait i })

/-- Whenever the instruction ends without a trap, a page fault or a wait, the next state has a property. -/
def Leaves (i : Instr) (s : State) (frame : State → Prop) : Prop :=
  ∀ t, Runs i s t → (∃ e, t = s.stopped i e) ∨ frame t

/-- A state with the PC after an instruction of the state s (R29). -/
def State.past (s : State) (i : Instr) (t : State) : State := t.setPc (s.nextPc i)

/-! ## When operands let an instruction run -/

/-- Fibre code may name a register as a destination (R102, R152). -/
def State.destFree (s : State) (d : Nat) : Prop := s.st.inFibre = true → d < 9

/-- The base of an M form, and its index if it has one, carry no poison (R110). -/
def State.addrClean (s : State) (f : Fields) : Prop :=
  (s.g f.sNum).bad = false ∧ (f.qNum ≠ 0 → (s.g f.tNum).bad = false)

/-- The effective address of an M form: base + index × 2^(q-1) + displacement, modulo 2^64 (R18, R121). -/
def State.effAddr (s : State) (f : Fields) : Word :=
  BitVec.ofInt 64 ((s.g f.sNum).bits.toNat + (if f.qNum = 0 then 0 else (s.g f.tNum).bits.toNat * 2 ^ (f.qNum - 1)) + f.disp)

/-- n bytes at an address lie aligned in local store, outside the code (R126, R135). -/
def State.lsRange (s : State) (ea n : Nat) : Prop := ea % n = 0 ∧ s.me.xb ≤ ea ∧ ea + n ≤ lsEnd

/-! ## What an instruction leaves unchanged -/

/-- Nothing changes but in the current pillar. -/
def SameElsewhere (s t : State) : Prop :=
  { t with pillars := s.pillars } = s ∧ ∀ p, p ≠ s.curP → t.pil p = s.pil p

/-- Of a pillar, nothing changes but one strand. -/
def SameButStrand (x y : Pillar) (u : StrandId) : Prop :=
  { y with strands := x.strands } = x ∧ ∀ w, w ≠ u → y.strand w = x.strand w

/-- Of a strand, nothing changes but one general register, the PC and the clk of its next issue: its other registers,
STATUS, its trap banks and all else stay. -/
def SameButReg (r r' : Strand) (d : Nat) : Prop :=
  (∀ n, n ≠ d → r'.reg n = r.reg n) ∧ { r' with g := r.g, pc := r.pc, notBefore := r.notBefore } = r

/-- Every byte of every local store and of the vaults and the second tier reads as before. -/
def SameBytes (s t : State) : Prop :=
  (∀ p a, (t.pil p).ls.bytes.get a = (s.pil p).ls.bytes.get a) ∧ ∀ a, t.mem.get a = s.mem.get a

/-- Every byte reads as before but n bytes of the current pillar's local store. -/
def SameBytesButLocal (s t : State) (ea n : Nat) : Prop :=
  (∀ p a, p ≠ s.curP ∨ a < ea ∨ ea + n ≤ a → (t.pil p).ls.bytes.get a = (s.pil p).ls.bytes.get a) ∧
    ∀ a, t.mem.get a = s.mem.get a

/-! ## Canonical states -/

/-- A set of numbers stands in its one form: rising, without repeats. -/
def NatSet.Rising (m : NatSet) : Prop := m.elems.Pairwise (· < ·)

/-- The memories of a pillar and their poison sets stand in canonical form. -/
def Pillar.Canonical (x : Pillar) : Prop :=
  x.ls.bytes.wf = true ∧ x.ls.bad.Rising ∧ x.ls.empty.Rising ∧ x.mtx.slotBytes.wf = true ∧ x.mtx.slotBad.Rising ∧
    x.mtx.tileBytes.wf = true ∧ x.mtx.tileBad.Rising

/-- The memories of the machine and their poison sets stand in canonical form. -/
def State.Canonical (s : State) : Prop :=
  s.mem.wf = true ∧ s.memBad.Rising ∧ ∀ e ∈ s.pillars.entries, e.2.Canonical

end Sys2Proof.Machine
end

