-- ==== Sys2Proof/Certificates/Slice0/Obligations.lean ====
section
/-! DEFINITION. The statements for the provers. Each says which rules of the spec it formalises; log entries are named
where a statement rests on a choice of the model. -/

open Sys2Proof Sys2Proof.Machine

/-! ## Scalar instructions -/

/-- Opcodes and functions of the two-source forms of pages 0 and 1 (R112, R116), as arithmetic on integers. -/
def Sys2Proof.Claims.twoSource : List ((Fields → Instr) × (Word → Word → Word)) :=
  [(.add, fun a b => BitVec.ofNat 64 (a.toNat + b.toNat)),
   (.sub, fun a b => BitVec.ofInt 64 ((a.toNat : Int) - b.toNat)),
   (.and, fun a b => a &&& b),
   (.or, fun a b => a ||| b),
   (.xor, fun a b => a ^^^ b),
   (.andn, fun a b => a &&& ~~~b),
   (.shl, fun a b => BitVec.ofNat 64 (a.toNat * 2 ^ (b.toNat % 64))),
   (.shr, fun a b => BitVec.ofNat 64 (a.toNat / 2 ^ (b.toNat % 64))),
   (.sar, fun a b => BitVec.ofInt 64 (a.toInt / 2 ^ (b.toNat % 64))),
   (.slt, fun a b => if a.toInt < b.toInt then 1 else 0),
   (.sltn, fun a b => if a.toNat < b.toNat then 1 else 0),
   (.min, fun a b => if a.toInt ≤ b.toInt then a else b),
   (.max, fun a b => if a.toInt ≤ b.toInt then b else a),
   (.mul, fun a b => BitVec.ofNat 64 (a.toNat * b.toNat)),
   (.mulh, fun a b => BitVec.ofInt 64 (a.toInt * b.toInt / 2 ^ 64)),
   (.mulhn, fun a b => BitVec.ofNat 64 (a.toNat * b.toNat / 2 ^ 64))]

/-- R110, R112, R116: a two-source instruction writes g[d] with the function of A and B, poisoned if a source is, and goes
on at the next instruction; in fibre code d lies below g9 (R102). A write to g0 is discarded by `setG` (see
`GeneralRegisterFile`). -/
def Sys2Proof.Claims.twoSourceResults : Prop :=
  ∀ e ∈ Claims.twoSource, ∀ (f : Fields) (s : State), s.destFree f.dNum →
    let a := s.g (rrA f)
    let b := s.g (rrB f)
    Runs (e.1 f) s (s.past (e.1 f) (s.setG f.dNum (pword (e.2 a.bits b.bits) (a.bad || b.bad))))

/-- The forms that also read d (R113, R116, R120). -/
def Sys2Proof.Claims.threeSource : List ((Fields → Instr) × (Word → Word → Word → Word)) :=
  [(.sel, fun d a b => if a.toNat = 0 then d else b),
   (.selz, fun d a b => if a.toNat = 0 then b else d),
   (.madd, fun d a b => BitVec.ofNat 64 (d.toNat + a.toNat * b.toNat)),
   (.fshl, fun d a b => BitVec.ofNat 64 ((d.toNat * 2 ^ 64 + a.toNat) * 2 ^ (b.toNat % 64) / 2 ^ 64)),
   (.fshr, fun d a b => BitVec.ofNat 64 ((a.toNat * 2 ^ 64 + d.toNat) / 2 ^ (b.toNat % 64)))]

/-- The four divisions (R117): truncating on signed values and on unsigned values, with the cases of a zero divisor. -/
def Sys2Proof.Claims.divisions : List ((Fields → Instr) × (Word → Word → Word)) :=
  [(.div, fun a b => if b.toNat = 0 then BitVec.ofNat 64 (2 ^ 64 - 1) else BitVec.ofInt 64 (a.toInt.tdiv b.toInt)),
   (.rem, fun a b => if b.toNat = 0 then a else BitVec.ofInt 64 (a.toInt - a.toInt.tdiv b.toInt * b.toInt)),
   (.divn, fun a b => if b.toNat = 0 then BitVec.ofNat 64 (2 ^ 64 - 1) else BitVec.ofNat 64 (a.toNat / b.toNat)),
   (.remn, fun a b => if b.toNat = 0 then a else BitVec.ofNat 64 (a.toNat % b.toNat))]

/-- R110, R113, R116, R117, R120: the forms that read the old g[d] write the function of it, A and B, poisoned if any of the
three is. A division whose divider is free writes its quotient or remainder, holds the divider, and its strand issues
nothing for 38 clk; while the divider is busy the strand is not ready. That a division writes at issue and holds its strand
for the 38 clk, which R109 and R117 give as a latency, is the model's choice (log entries 14 and 79). -/
def Sys2Proof.Claims.threeSourceAndDivisions : Prop :=
  (∀ e ∈ Claims.threeSource, ∀ (f : Fields) (s : State), s.destFree f.dNum →
    let d := s.g f.dNum
    let a := s.g (rrA f)
    let b := s.g (rrB f)
    Runs (e.1 f) s (s.past (e.1 f) (s.setG f.dNum (pword (e.2 d.bits a.bits b.bits) (d.bad || a.bad || b.bad))))) ∧
  ∀ e ∈ Claims.divisions, ∀ (f : Fields) (s : State), s.destFree f.dNum →
    (s.me.divider = none →
      let a := s.g (rrA f)
      let b := s.g (rrB f)
      let t := s.setG f.dNum (pword (e.2 a.bits b.bits) (a.bad || b.bad))
      Runs (e.1 f) s (s.past (e.1 f) ((t.modMe fun x => { x with divider := some s.curT }).issueAfter 38))) ∧
    (s.me.divider.isSome → Waits (e.1 f) s)

/-- R110, R112, R113, R116, R117, R120: the instructions of two and of three sources, and the divisions. -/
def Obligations.TwoAndThreeSourceResults : Prop := Claims.twoSourceResults ∧ Claims.threeSourceAndDivisions

/-- The one-source forms (R113, R118), each as a relation between the source and the result. -/
def Sys2Proof.Claims.oneSource : List ((Fields → Instr) × (Word → Word → Prop)) :=
  [(.mov, fun a r => r = a),
   (.clz, fun a r => r.toNat ≤ 64 ∧ a.toNat < 2 ^ (64 - r.toNat) ∧ (r.toNat < 64 → 2 ^ (63 - r.toNat) ≤ a.toNat)),
   (.ctz, fun a r => r.toNat ≤ 64 ∧ a.toNat % 2 ^ r.toNat = 0 ∧ (r.toNat < 64 → a.getLsbD r.toNat = true)),
   (.popc, fun a r => r.toNat = ((List.range 64).filter fun n => a.getLsbD n).length),
   (.bswap, fun a r => ∀ n, n < 64 → r.getLsbD n = a.getLsbD (8 * (7 - n / 8) + n % 8)),
   (.brev, fun a r => ∀ n, n < 64 → r.getLsbD n = a.getLsbD (63 - n))]

/-- R110, R113, R118: a one-source instruction writes g[d] with its function of g[s], poisoned if g[s] is. -/
def Sys2Proof.Claims.oneSourceResults : Prop :=
  ∀ e ∈ Claims.oneSource, ∀ (f : Fields) (s : State), s.destFree f.dNum →
    ∃ r, e.2 (s.g f.sNum).bits r ∧
      Runs (e.1 f) s (s.past (e.1 f) (s.setG f.dNum (pword r (s.g f.sNum).bad)))

/-- The immediate forms with one source (R114, R119), each as a relation between the source and the result. -/
def Sys2Proof.Claims.immediate : List ((Fields → Instr) × (Fields → Word → Word → Prop)) :=
  [(.addi, fun f a r => r = BitVec.ofInt 64 (a.toNat + f.immS)),
   (.andi, fun f a r => r = a &&& BitVec.ofInt 64 f.immS),
   (.ori, fun f a r => r = a ||| BitVec.ofInt 64 f.immS),
   (.xori, fun f a r => r = a ^^^ BitVec.ofInt 64 f.immS),
   (.shli, fun f a r => r = BitVec.ofNat 64 (a.toNat * 2 ^ f.immU)),
   (.shri, fun f a r => r = BitVec.ofNat 64 (a.toNat / 2 ^ f.immU)),
   (.sari, fun f a r => r = BitVec.ofInt 64 (a.toInt / 2 ^ f.immU)),
   (.slti, fun f a r => r = if a.toInt < f.immS then 1 else 0),
   (.bfxn, fun f a r => ∀ n, n < 64 → r.getLsbD n = (decide (n < fieldLen f) && a.getLsbD (fieldPos f + n))),
   (.bfx, fun f a r => ∀ n, n < 64 → r.getLsbD n = a.getLsbD (fieldPos f + min n (fieldLen f - 1)))]

/-- R110, R114, R115, R119: the immediate forms. The well-formed ones have shift amounts up to 63 and bit fields within 64
bits; BFI also reads g[d]; LI and LPC read no register. -/
def Sys2Proof.Claims.immediateResults : Prop :=
  (∀ e ∈ Claims.immediate, ∀ (f : Fields) (s : State), (e.1 f).wf = true → s.destFree f.dNum →
    ∃ r, e.2 f (s.g (riA f)).bits r ∧
      Runs (e.1 f) s (s.past (e.1 f) (s.setG f.dNum (pword r (s.g (riA f)).bad)))) ∧
  (∀ (f : Fields) (s : State), (Instr.bfi f).wf = true → s.destFree f.dNum →
    ∃ r : Word,
      (∀ n, n < 64 → r.getLsbD n =
        if fieldPos f ≤ n ∧ n < fieldPos f + fieldLen f then (s.g (riA f)).bits.getLsbD (n - fieldPos f)
        else (s.g f.dNum).bits.getLsbD n) ∧
      Runs (.bfi f) s
        (s.past (.bfi f) (s.setG f.dNum (pword r ((s.g f.dNum).bad || (s.g (riA f)).bad))))) ∧
  ∀ (f : Fields) (s : State), s.destFree f.dNum →
    Runs (.li f) s (s.past (.li f) (s.setG f.dNum { bits := BitVec.ofInt 64 f.immS })) ∧
    Runs (.lpc f) s
      (s.past (.lpc f) (s.setG f.dNum { bits := BitVec.ofNat 64 (((s.st.pc.toNat : Int) + f.immS) % 2 ^ 19).toNat }))

/-- The one-source forms and the immediate forms: both parts. -/
def Obligations.OneSourceAndImmediateResults : Prop := Claims.oneSourceResults ∧ Claims.immediateResults

/-- When each branch is taken (R122). -/
def Sys2Proof.Claims.branches : List ((Fields → Instr) × (Word → Word → Prop)) :=
  [(.beq, fun a b => a = b), (.bne, fun a b => a ≠ b), (.blt, fun a b => a.toInt < b.toInt),
   (.bge, fun a b => b.toInt ≤ a.toInt), (.bltn, fun a b => a.toNat < b.toNat), (.bgen, fun a b => b.toNat ≤ a.toNat)]

/-- The strand goes on at an address, and issues again no earlier than 3 clk later (R109). -/
def Sys2Proof.Claims.jumped (s : State) (pc : LsAddr) : State := (s.setPc pc).issueAfter 3

/-- R110, R122: with unpoisoned operands a taken branch goes to PC + 2 × disp modulo 2^19 and one not taken to the next
instruction; a poisoned operand takes the poison trap, the first one first. -/
def Sys2Proof.Claims.branchOutcomes : Prop :=
  ∀ e ∈ Claims.branches, ∀ (f : Fields) (s : State),
    let a := s.g f.dNum
    let b := s.g f.sNum
    (a.bad = false → b.bad = false →
      (e.2 a.bits b.bits → Runs (e.1 f) s (Claims.jumped s (s.st.pc + BitVec.ofInt 19 (2 * f.disp)))) ∧
      (¬ e.2 a.bits b.bits → Runs (e.1 f) s (s.past (e.1 f) s))) ∧
    (a.bad = true → Traps (e.1 f) s 0x0D (word f.dNum)) ∧
    (a.bad = false → b.bad = true → Traps (e.1 f) s 0x0D (word (64 + f.sNum)))

/-- R29, R123, R124, R134: JAL, JR and JMPF write the address after themselves to g[d] and go to their target; JR and JMPF
drop bits 63:19 and bit 0 of g[s]. JMPF's target lies below XB and in no segment that is loading or failed; otherwise it takes
the overlay trap or the segment trap. A poisoned target takes the poison trap. -/
def Sys2Proof.Claims.jumpAndLink : Prop :=
  ∀ (f : Fields) (s : State), s.destFree f.dNum →
    let link (i : Instr) : State := s.setG f.dNum { bits := (s.nextPc i).setWidth 64 }
    let a := s.g f.sNum
    let tgt : LsAddr := BitVec.ofNat 19 (a.bits.toNat / 2 * 2)
    Runs (.jal f) s (Claims.jumped (link (.jal f)) (s.st.pc + BitVec.ofInt 19 (2 * f.immS))) ∧
    (a.bad = false → Runs (.jr f) s (Claims.jumped (link (.jr f)) tgt)) ∧
    (a.bad = false → tgt.toNat < s.me.xb → s.me.segAt [1, 3] tgt.toNat = none →
      Runs (.jmpf f) s (Claims.jumped (link (.jmpf f)) tgt)) ∧
    (a.bad = true → Traps (.jr f) s 0x0D (word f.sNum) ∧ Traps (.jmpf f) s 0x0D (word f.sNum)) ∧
    (a.bad = false → s.me.xb ≤ tgt.toNat → Traps (.jmpf f) s 0x11 (tgt.setWidth 64)) ∧
    ∀ j, a.bad = false → tgt.toNat < s.me.xb → s.me.segAt [1, 3] tgt.toNat = some j →
      Traps (.jmpf f) s 0x12 (word (tgt.toNat + j * 2 ^ 20 + (s.me.seg j).state.toNat * 2 ^ 24))

/-- Branches, jumps and the condition of a branch: both parts. -/
def Obligations.ControlTransfer : Prop := Claims.branchOutcomes ∧ Claims.jumpAndLink

/-- R125: SVC and BRK take their trap, precisely, with the immediate and the length in words in TVAL. -/
def Sys2Proof.Claims.supervisorCallAndBreakpoint : Prop :=
  ∀ (f : Fields) (s : State),
    let tval (i : Instr) : Word := word (f.immU % 65536 + instrLen i * 65536)
    (s.st.lvl = 0 → Traps (.svc f) s 0x08 (tval (.svc f))) ∧
    (s.st.lvl = 1 → Traps (.svc f) s 0x09 (tval (.svc f))) ∧
    (s.st.lvl = 3 → Traps (.svc f) s 0x01 (tval (.svc f))) ∧
    Traps (.brk f) s 0x0A (tval (.brk f))

/-- The scalar instructions but the divisions that write one general register with a form of pages 0 and 1. -/
def Sys2Proof.Claims.scalarWriters : List (Fields → Instr) :=
  Claims.twoSource.map (·.1) ++ Claims.threeSource.map (·.1) ++ Claims.oneSource.map (·.1) ++ Claims.immediate.map (·.1) ++ [.bfi, .li, .lpc, .jal, .jr]

/-- Other instructions that write g[d]: of local store, the tag table, memory, the engines' answers and drafts. -/
def Sys2Proof.Claims.otherWriters : List (Fields → Instr) :=
  [.lldI8, .lldI16, .lldI32, .lldI64, .lldN8, .lldN16, .lldN32, .lldf, .llde, .cwait, .jmpf, .tlook, .tevict, .ldI8, .ldI16, .ldI32,
   .ldI64, .ldN8, .ldN16, .ldN32, .lda, .amo, .cas, .scld, .scamo, .vext, .kmovg, .kpopc, .vbscale, .mcommit, .pstat, .draft,
   .draftrel, .drwait, .drstat, .dfetch, .devict, .dpin, .dunpin, .rwait, .sysrd, .frun, .fork, .launch, .waiti, .ringrd,
   .preempt, .migrate, .recv, .recvp, .rld, .rcas, .rwrd]

/-- R102: in fibre code an instruction whose destination lies in g9 to g63 faults at issue with the runner-register cause, before any
other effect. RAMO, RFADD and RDECW have a destination unless they are of the form that returns nothing; RWRD has g[d] and
g[d+1]. -/
def Sys2Proof.Claims.fibreDestinationRefused : Prop :=
  (∀ mk ∈ Claims.scalarWriters ++ Claims.divisions.map (·.1) ++ Claims.otherWriters, ∀ (f : Fields) (s : State), s.st.inFibre = true →
    9 ≤ f.dNum → Traps (mk f) s 0x1B (word f.dNum)) ∧
  (∀ mk ∈ ([.ramo, .rfadd, .rdecw] : List (Fields → Instr)), ∀ (f : Fields) (s : State), s.st.inFibre = true → 9 ≤ f.dNum →
    bitOf f.flags 0 = false → Traps (mk f) s 0x1B (word f.dNum)) ∧
  ∀ (f : Fields) (s : State), s.st.inFibre = true → f.dNum = 8 → Traps (.rwrd f) s 0x1B 9

/-- SVC and BRK take their traps, and fibre code may not write g9 to g63: both parts. -/
def Obligations.CallsAndFibreRule : Prop := Claims.supervisorCallAndBreakpoint ∧ Claims.fibreDestinationRefused

/-- The frame of the scalar instructions (R10, R99): one that neither traps nor waits changes nothing but g[d], the PC and
the clk from which its strand issues again; a division also holds the divider of its pillar; a branch writes no register. Every
byte of memory reads as before. -/
def Sys2Proof.Claims.scalarFrame : Prop :=
  (∀ mk ∈ Claims.scalarWriters, ∀ (f : Fields) (s : State), Leaves (mk f) s fun t =>
    SameElsewhere s t ∧ SameBytes s t ∧ SameButReg s.st t.st f.dNum ∧ SameButStrand s.me t.me s.curT) ∧
  (∀ e ∈ Claims.divisions, ∀ (f : Fields) (s : State), Leaves (e.1 f) s fun t =>
    SameElsewhere s t ∧ SameBytes s t ∧ SameButReg s.st t.st f.dNum ∧
      SameButStrand s.me { t.me with divider := s.me.divider } s.curT) ∧
  ∀ e ∈ Claims.branches, ∀ (f : Fields) (s : State), Leaves (e.1 f) s fun t =>
    SameElsewhere s t ∧ SameBytes s t ∧ SameButReg s.st t.st 0 ∧ SameButStrand s.me t.me s.curT

/-! ## Local store -/

/-- n bytes as a register value: sign-extended, or zero-extended (R11). -/
def Sys2Proof.Claims.extended (signed : Bool) (n v : Nat) : Word :=
  if signed = true ∧ 2 ^ (8 * n - 1) ≤ v then BitVec.ofInt 64 ((v : Int) - 2 ^ (8 * n)) else BitVec.ofNat 64 v

/-- The loads of page 2: bytes, and whether the value is sign-extended (R135). -/
def Sys2Proof.Claims.localLoads : List ((Fields → Instr) × Nat × Bool) :=
  [(.lldI8, 1, true), (.lldI16, 2, true), (.lldI32, 4, true), (.lldI64, 8, true), (.lldN8, 1, false), (.lldN16, 2, false),
   (.lldN32, 4, false)]

/-- The stores of page 2: bytes (R135). -/
def Sys2Proof.Claims.localStores : List ((Fields → Instr) × Nat) := [(.lstI8, 1), (.lstI16, 2), (.lstI32, 4), (.lstI64, 8)]

/-- The address checks of a local-store form that writes d, in order: the destination in fibre code, poison in the base and
the index, alignment, the end of local store, XB (R110, R126, R135). -/
def Sys2Proof.Claims.localChecks (i : Instr) (f : Fields) (s : State) (n : Nat) : Prop :=
  let ea := s.effAddr f
  ((s.g f.sNum).bad = true → Traps i s 0x0D (word (128 + f.sNum))) ∧
  ((s.g f.sNum).bad = false → f.qNum ≠ 0 → (s.g f.tNum).bad = true → Traps i s 0x0D (word (192 + f.tNum))) ∧
  (s.addrClean f → ea.toNat % n ≠ 0 → Traps i s 0x1A ea) ∧
  (s.addrClean f → ea.toNat % n = 0 → lsEnd < ea.toNat + n → Traps i s 0x13 ea) ∧
  (s.addrClean f → ea.toNat % n = 0 → ea.toNat + n ≤ lsEnd → ea.toNat < s.me.xb → Traps i s 0x14 ea)

/-- R135, R137: a load of local store at an aligned address at or above XB writes the extended bytes, poisoned if a word it
touches is, once no earlier vector access of the strand to those bytes is under way (R190); otherwise it waits. -/
def Sys2Proof.Claims.localLoadResults : Prop :=
  ∀ e ∈ Claims.localLoads, ∀ (f : Fields) (s : State), s.destFree f.dNum →
    let i := e.1 f
    let ea := (s.effAddr f).toNat
    (s.addrClean f → s.lsRange ea e.2.1 →
      (s.me.vectorBusy s.curT ea e.2.1 = false →
        Runs i s (s.past i (s.setG f.dNum
          (pword (Claims.extended e.2.2 e.2.1 (s.me.ls.bytes.read ea e.2.1)) (s.me.ls.bad.has (ea / 8)))))) ∧
      (s.me.vectorBusy s.curT ea e.2.1 = true → Waits i s)) ∧
    Claims.localChecks i f s e.2.1

/-- R135, R138: a store to local store at an aligned address at or above XB writes the low bytes of g[d] with its poison. -/
def Sys2Proof.Claims.localStoreResults : Prop :=
  ∀ e ∈ Claims.localStores, ∀ (f : Fields) (s : State),
    let i := e.1 f
    let ea := (s.effAddr f).toNat
    let v := s.g f.dNum
    (s.addrClean f → s.lsRange ea e.2 →
      (s.me.vectorBusy s.curT ea e.2 = false →
        Runs i s (s.past i (s.modMe fun x => x.lsWrite ea e.2 v.bits.toNat v.bad))) ∧
      (s.me.vectorBusy s.curT ea e.2 = true → Waits i s)) ∧
    Claims.localChecks i f s e.2

/-- R6, R126, R137, R138, R139: what a write of 1, 2, 4 or 8 aligned bytes to local store does. The bytes read back as
written, little-endian; every other byte is as before; the word is poisoned by poisoned data and cleared only by eight good
bytes; no full/empty bit changes; and the canonical form of the memory is kept. -/
def Sys2Proof.Claims.localStoreThenLoad : Prop :=
  ∀ (x : Pillar) (a n v : Nat) (bad : Bool), n = 1 ∨ n = 2 ∨ n = 4 ∨ n = 8 → a % n = 0 →
    let y := x.lsWrite a n v bad
    y.ls.bytes.read a n = v % 2 ^ (8 * n) ∧
    (∀ b, b < a ∨ a + n ≤ b → y.ls.bytes.get b = x.ls.bytes.get b) ∧
    (∀ k, k < n → y.ls.bytes.get (a + k) = BitVec.ofNat 8 (v / 256 ^ k)) ∧
    y.ls.bad.has (a / 8) = (bad || (x.ls.bad.has (a / 8) && n != 8)) ∧
    (∀ w, w ≠ a / 8 → y.ls.bad.has w = x.ls.bad.has w) ∧
    y.ls.empty = x.ls.empty ∧
    (x.ls.bytes.wf = true → y.ls.bytes.wf = true)

/-- R135, R137, R138: what LLD reads, what LST writes, and that LLD reads it back. -/
def Obligations.LocalLoadAndStoreResults : Prop :=
  Claims.localLoadResults ∧ Claims.localStoreResults ∧ Claims.localStoreThenLoad

/-- R139, R140: LLDF and LLDE take a full word at once, LLDE leaving it empty; on an empty word a strand outside fibre code
is not ready. LSTF writes the word and leaves it full. -/
def Sys2Proof.Claims.fullEmptyResults : Prop :=
  ∀ (f : Fields) (s : State),
    let ea := (s.effAddr f).toNat
    let v := pword (BitVec.ofNat 64 (s.me.ls.bytes.read ea 8)) (s.me.ls.bad.has (ea / 8))
    let d := s.g f.dNum
    s.addrClean f → s.lsRange ea 8 → s.me.vectorBusy s.curT ea 8 = false →
      (s.destFree f.dNum → s.me.ls.empty.has (ea / 8) = false →
        Runs (.lldf f) s (s.past (.lldf f) ((s.modMe id).setG f.dNum v)) ∧
        Runs (.llde f) s (s.past (.llde f)
          ((s.modMe fun x => { x with ls := { x.ls with empty := x.ls.empty.insert (ea / 8) } }).setG f.dNum v))) ∧
      (s.st.inFibre = false → s.me.ls.empty.has (ea / 8) = true → Waits (.lldf f) s ∧ Waits (.llde f) s) ∧
      Runs (.lstf f) s (s.past (.lstf f) (s.modMe fun x =>
        let y := x.lsWrite ea 8 d.bits.toNat d.bad
        { y with ls := { y.ls with empty := y.ls.empty.erase (ea / 8) } }))

/-- R142: FESET and FECLR with an aligned range at or above XB set the full/empty bits of its words, and take one clk for
each 64 words; a length of zero does nothing. That 0x13 comes before 0x14 (log entry 93) and that poisoned operands act with
their bits (log entry 92) are the model's choices. -/
def Sys2Proof.Claims.fullEmptyRanges : Prop :=
  ∀ e ∈ [((Instr.feset : Fields → Instr), false), (Instr.feclr, true)], ∀ (f : Fields) (s : State),
    let i := e.1 f
    let a := (s.g (rrA f)).bits
    let b := (s.g (rrB f)).bits
    (a.toNat % 8 = 0 → b = 0 → Runs i s (s.past i s)) ∧
    (a.toNat % 8 = 0 → b.toNat % 8 = 0 → b ≠ 0 → s.me.xb ≤ a.toNat → a.toNat + b.toNat ≤ lsEnd →
      s.me.vectorBusy s.curT a.toNat b.toNat = false →
      Runs i s (s.past i ((s.modMe fun x =>
        { x with ls := { x.ls with empty := x.ls.empty.putRange (a.toNat / 8) e.2 (b.toNat / 8) } }).issueAfter
          ((b.toNat + 511) / 512)))) ∧
    (¬ (a.toNat % 8 = 0 ∧ b.toNat % 8 = 0) → Traps i s 0x1A a) ∧
    (a.toNat % 8 = 0 → b.toNat % 8 = 0 → b ≠ 0 → lsEnd < a.toNat + b.toNat → Traps i s 0x13 a) ∧
    (a.toNat % 8 = 0 → b.toNat % 8 = 0 → b ≠ 0 → a.toNat + b.toNat ≤ lsEnd → a.toNat < s.me.xb → Traps i s 0x14 a)

/-- The full/empty forms on words and on ranges: both parts. -/
def Obligations.FullEmptyResults : Prop := Claims.fullEmptyResults ∧ Claims.fullEmptyRanges

/-- R132, R133: CFETCH with a well-formed descriptor of a range below XB that no loading segment meets dispatches to the
tile engine, and its segment is loading at once; the loaded and failed segments that overlap it are dropped. CWAIT writes the
state of a segment that is not loading, and waits for one that is. That poisoned operands act with their bits (log
entry 92) and that CWAIT does not wait for a late fault of a lower level (log entry 91) are the model's choices. -/
def Obligations.SegmentResults : Prop :=
  ∀ (f : Fields) (s : State),
    let n := f.mod.toNat % 16
    let va := (s.g (rrA f)).bits
    let b := (s.g (rrB f)).bits
    let dst := b.toNat % 2 ^ 19
    let len := b.toNat / 2 ^ 32 % 512 * 1024
    (va.toNat % 64 = 0 → b.toNat % 1024 = 0 → b.toNat / 2 ^ 19 % 2 ^ 13 = 0 → b.toNat / 2 ^ 41 = 0 → len ≠ 0 →
      dst + len ≤ s.me.xb → (s.me.seg n).state ≠ 1 →
      (∀ k, k < 16 → (s.me.seg k).state = 1 → (s.me.seg k).meets dst len = false) → s.canDispatch .tile = true →
      Runs (.cfetch f) s (s.past (.cfetch f)
        ((s.dispatchAs .tile { s.capture (.cfetch f) with slot := n, aux := dst }).modMe fun x =>
          (x.dropSegs [2, 3] dst len).setSeg n { lenKb := len / 1024, baseKb := dst / 1024, state := 1 }))) ∧
    (s.destFree f.dNum → (s.me.seg n).state ≠ 1 → s.st.deliverable = none →
      Runs (.cwait f) s (s.past (.cwait f) (s.setG f.dNum { bits := (s.me.seg n).state.setWidth 64 }))) ∧
    (s.destFree f.dNum → (s.me.seg n).state = 1 → Waits (.cwait f) s)

/-- R146: the tag-table instructions with a table of COUNT slots. TLOOK of a tag that a slot holds gives the address in the
block, makes the slot the most recent and counts a hit; of one that no slot holds, what R146 gives for a miss. TFILL of an
aligned block into a free slot dispatches the fill, empties the 128 words and tags the slot. TEVICT writes a dirty block back
(1) or not (0), and the slot is invalid. TINVAL makes a slot, or every slot, invalid. With a table of no slots they fault with
reason 1. That a poisoned operand acts with its bits, the result being marked, is the model's choice (log entry 92). -/
def Obligations.TagTableResults : Prop :=
  ∀ (f : Fields) (s : State), s.destFree f.dNum →
    let g := s.me.tags
    let va := (s.g f.sNum).bits
    let j := (s.g f.sNum).bits.toNat % 256
    let a := (s.g (rrA f)).bits
    let k := (s.g (rrB f)).bits.toNat % 256
    let base (n : Nat) : Nat := g.baseKb * 1024 + n * 1024
    (g.count = 0 → Traps (.tlook f) s 0x16 (word 256) ∧ Traps (.tfill f) s 0x16 (word (256 + k)) ∧
      Traps (.tevict f) s 0x16 (word (256 + j)) ∧
      (f.mod.toNat % 2 = 0 → Traps (.tinval f) s 0x16 (word (256 + j)))) ∧
    (∀ n, g.count ≠ 0 → g.find (BitVec.ofNat 54 (va.toNat / 1024)) = some n →
      Runs (.tlook f) s (s.past (.tlook f)
        (((s.setG f.dNum (pword (word (base n + va.toNat % 1024)) (s.g f.sNum).bad)).modMe fun x => { x with tags := x.tags.touch n }).count 0x403))) ∧
    (g.count ≠ 0 → g.find (BitVec.ofNat 54 (va.toNat / 1024)) = none →
      Runs (.tlook f) s (s.past (.tlook f) ((s.setG f.dNum (pword g.missWord (s.g f.sNum).bad)).count 0x404))) ∧
    (k < g.count → a.toNat % 1024 = 0 → (g.slot k).state ≠ 1 →
      (∀ n, g.find (BitVec.ofNat 54 (a.toNat / 1024)) = some n → n = k) → s.canDispatch .tile = true →
      Runs (.tfill f) s (s.past (.tfill f)
        ((s.dispatchAs .tile { s.capture (.tfill f) with slot := k, aux := base k }).modMe fun x =>
          { x.setEmpty (base k / 8) true 128 with
            tags := (x.tags.setSlot k { tag := BitVec.ofNat 54 (a.toNat / 1024), state := 1 }).touch k }))) ∧
    (j < g.count → (g.slot j).state ≠ 1 → ¬ ((g.slot j).state = 2 ∧ (g.slot j).dirty = true) →
      Runs (.tevict f) s (s.past (.tevict f)
        ((s.setG f.dNum (pword 0 (s.g f.sNum).bad)).modMe fun x => { x with tags := x.tags.setSlot j {} }))) ∧
    (j < g.count → (g.slot j).state = 2 → (g.slot j).dirty = true →
      Runs (.tevict f) s (s.past (.tevict f)
        ((((((s.setG f.dNum (pword 1 (s.g f.sNum).bad)).modMe fun x =>
          { x with tile := { x.tile with writeBacks := x.tile.writeBacks ++ [s.writeBack j] } }).modSt fun r =>
            { r with worms := r.worms + 1 }).modMe fun x =>
            { x with tags := x.tags.setSlot j {} }).issueAfter 16).count 0x405))) ∧
    (f.mod.toNat % 2 = 0 → j < g.count → (g.slot j).state ≠ 1 →
      Runs (.tinval f) s (s.past (.tinval f) (s.modMe fun x => { x with tags := x.tags.setSlot j {} }))) ∧
    (f.mod.toNat % 2 = 1 → (∀ e ∈ g.slots.entries, e.2.state ≠ 1) →
      Runs (.tinval f) s (s.past (.tinval f) (s.modMe fun x => { x with tags := { x.tags with slots := {} } })))

/-- R99, R135, R138, R139, R140: the frame of the local-store forms. A load changes g[d], the PC and nothing else; a store
changes only its n bytes, at the address its meaning computes, with their poison marks and the dirty marks of the tag table, and no register. -/
def Sys2Proof.Claims.localStoreFrame : Prop :=
  (∀ e ∈ Claims.localLoads, ∀ (f : Fields) (s : State), Leaves (e.1 f) s fun t =>
    SameElsewhere s t ∧ SameBytes s t ∧ SameButReg s.st t.st f.dNum ∧ SameButStrand s.me t.me s.curT) ∧
  ∀ e ∈ Claims.localStores, ∀ (f : Fields) (s : State), Leaves (e.1 f) s fun t =>
    SameElsewhere s t ∧ SameButReg s.st t.st 0 ∧
      (∀ ea, s.mAddr f = .ok ea → SameBytesButLocal s t ea.toNat e.2) ∧
      SameButStrand s.me
        { t.me with tags := { t.me.tags with slots := s.me.tags.slots }
                    ls := { t.me.ls with bytes := s.me.ls.bytes, bad := s.me.ls.bad } } s.curT

/-- R10, R99, R135, R138: what the scalar instructions and the local-store forms leave as it was. -/
def Obligations.ScalarAndLocalStoreFrames : Prop := Claims.scalarFrame ∧ Claims.localStoreFrame

/-! ## Memory -/

/-- The loads: bytes, and whether the value is sign-extended (R34, R121, R330). -/
def Sys2Proof.Claims.loads : List ((Fields → Instr) × (Fields → Nat) × (Fields → Bool)) :=
  [(.ldI8, fun _ => 1, fun _ => true), (.ldI16, fun _ => 2, fun _ => true), (.ldI32, fun _ => 4, fun _ => true),
   (.ldI64, fun _ => 8, fun _ => true), (.ldN8, fun _ => 1, fun _ => false), (.ldN16, fun _ => 2, fun _ => false),
   (.ldN32, fun _ => 4, fun _ => false), (.lda, fun f => 2 ^ (f.mod.toNat % 4), fun f => f.mod.getLsbD 2)]

/-- The plain stores: bytes (R121). -/
def Sys2Proof.Claims.stores : List ((Fields → Instr) × Nat) := [(.stI8, 1), (.stI16, 2), (.stI32, 4), (.stI64, 8)]

/-- An access of n bytes at the effective address is aligned, translates to a page that is not compressed, and reaches the
physical address pa (R121, R347, R390). -/
def Sys2Proof.Claims.lands (s : State) (f : Fields) (kind : AccessKind) (n pa : Nat) (x : Xlate) : Prop :=
  s.addrClean f ∧ (s.effAddr f).toNat % n = 0 ∧ s.xlate s.walker kind (s.effAddr f) = .ok x ∧ x.entry.allot = 0 ∧
    s.reach s.curP x.pa (s.effAddr f) = .ok pa

/-- A physical address of a vault or of the second tier (R340). -/
def Sys2Proof.Claims.inMemory (pa : Nat) : Prop := pa / 2 ^ 46 % 4 < 2

/-- The stores of the strand that a read of pa sees: its own vault's store buffer holds them (R320). -/
def Sys2Proof.Claims.seenStores (s : State) (pa : Nat) : List PendingStore :=
  match placeOf pa with
  | .vault _ _ => s.st.stores
  | _ => []

/-- The strand t' has gone past i and waits for an access to return, with STATUS as before (R109). -/
def Sys2Proof.Claims.awaits (s t : State) (i : Instr) : Prop :=
  t.st.pc = s.nextPc i ∧ t.st.blocked = .access ∧ t.st.status = s.st.status

/-- R109, R121, R320, R330, R465: outside fibre code a load that lands in a vault or the second tier, from a pillar whose
accesses are not compared with a twin's, writes the extended bytes as the strand sees them, with their poison, and the strand
blocks until they return; no other register, and no byte of memory, changes. In fibre code the fibre parks with the value.
That the access is performed and its register written at issue is the model's choice (log entries 79 and 80). -/
def Obligations.MemoryLoadResults : Prop :=
  ∀ e ∈ Claims.loads, ∀ (f : Fields) (s : State) (pa : Nat) (x : Xlate),
    let i := e.1 f
    let n := e.2.1 f
    let v := s.readThrough (Claims.seenStores s pa) pa n
    let r := pword (Claims.extended (e.2.2 f) n v.1) v.2
    Claims.lands s f .read n pa x → Claims.inMemory x.pa → s.outgoing s.curP (placeOf pa) = false → s.destFree f.dNum →
    ∃ t, Runs i s t ∧ SameBytes s t ∧
      (s.st.inFibre = false → Claims.awaits s t i ∧ t.st.reg f.dNum = (if f.dNum = 0 then {} else r) ∧
        ∀ k, k ≠ f.dNum → t.st.reg k = s.st.reg k) ∧
      (s.st.inFibre = true → (t.me.fibre s.st.slot).state = .parked ∧ (t.me.fibre s.st.slot).pc = s.nextPc i ∧
        (t.me.fibre s.st.slot).parking = .load f.dNum r)

/-- The bytes of the vaults and the second tier but n at an address read as before. -/
def Sys2Proof.Claims.memoryBut (s t : State) (pa n : Nat) : Prop :=
  ∀ a, a < pa ∨ pa + n ≤ a → t.mem.get a = s.mem.get a

/-- R109, R121, R320, R323: a store into the strand's own vault goes into its store buffer, which holds eight, and the strand
goes on; with a full buffer it is not ready. One into another vault or the second tier writes its n bytes, little-endian, and
the strand blocks until the acknowledgment. STL first waits for everything that a fence of its scope and all types waits for.
That such a write is performed at issue is the model's choice (log entry 80). -/
def Obligations.MemoryStoreResults : Prop :=
  ∀ e ∈ Claims.stores.map (fun e => (e.1, fun (_ : Fields) => e.2, fun (_ : State) (_ : Fields) => True)) ++
      [(Instr.stl, fun (f : Fields) => 2 ^ (f.mod.toNat % 4),
        fun (s : State) (f : Fields) => s.fenceDone (f.mod.toNat / 16 % 8) 15 = true)],
    ∀ (f : Fields) (s : State) (pa : Nat) (x : Xlate),
    let i := e.1 f
    let n := e.2.1 f
    let d := s.g f.dNum
    let own := ∃ off, placeOf pa = .vault s.curP off
    Claims.lands s f .write n pa x → Claims.inMemory x.pa → s.outgoing s.curP (placeOf pa) = false → e.2.2 s f →
    (own → s.st.stores.length < 8 → ∃ t, Runs i s t ∧ SameBytes s t ∧ t.st.pc = s.nextPc i ∧ t.st.blocked = s.st.blocked ∧
      t.st.g = s.st.g ∧
      t.st.stores = s.st.stores ++ [{ pa := pa, n := n, data := d.bits.toNat % 2 ^ (8 * n), bad := d.bad }]) ∧
    (own → 8 ≤ s.st.stores.length → Waits i s) ∧
    (¬ own → (∀ q ∈ s.st.stores, overlaps q.pa q.n pa n = false) → s.st.inFibre = false →
      ∃ t, Runs i s t ∧ Claims.awaits s t i ∧ t.st.g = s.st.g ∧ Claims.memoryBut s t pa n ∧
        t.mem.read pa n = d.bits.toNat % 2 ^ (8 * n) ∧ ∀ p, (t.pil p).ls = (s.pil p).ls)

/-- The signed value of n bytes (R11). -/
def Sys2Proof.Claims.signedVal (n v : Nat) : Int := if v < 2 ^ (8 * n - 1) then v else (v : Int) - 2 ^ (8 * n)

/-- What an atomic operation leaves in memory, by op code (R34). -/
def Sys2Proof.Claims.atomicSpec (op n old x : Nat) : Nat :=
  match op with
  | 0 => (old + x) % 2 ^ (8 * n)
  | 1 => old &&& x
  | 2 => old ||| x
  | 3 => old ^^^ x
  | 4 => if Claims.signedVal n x < Claims.signedVal n old then x else old
  | 5 => if Claims.signedVal n old < Claims.signedVal n x then x else old
  | 6 => min old x
  | 7 => max old x
  | _ => x

/-- R330 (performed at issue: log entry 80): AMO and CAS that land in a vault or the second tier, with no store of the strand to those bytes under way, read the
old value into g[d] and leave in memory what the operation gives: for CAS the low bytes of g[d+1] if the old value is that
of g[d]. -/
def Sys2Proof.Claims.atomicResults : Prop :=
  ∀ (f : Fields) (s : State) (pa : Nat) (x : Xlate),
    let n := 2 ^ (f.mod.toNat % 4)
    let old := s.mem.read pa n
    let a := (s.g f.dNum).bits.toNat % 2 ^ (8 * n)
    let b := (s.g (f.dNum + 1)).bits.toNat % 2 ^ (8 * n)
    Claims.lands s f .write n pa x → Claims.inMemory x.pa → s.outgoing s.curP (placeOf pa) = false → s.destFree f.dNum →
    s.st.inFibre = false → (∀ q ∈ s.st.stores, overlaps q.pa q.n pa n = false) →
    ∀ c ∈ [(Instr.amo f, Claims.atomicSpec (f.mod.toNat / 8 % 16) n old a), (Instr.cas f, if old = a then b else old)],
    ∃ t, Runs c.1 s t ∧ Claims.awaits s t c.1 ∧ Claims.memoryBut s t pa n ∧ t.mem.read pa n = c.2 ∧
      (f.dNum ≠ 0 → (t.st.reg f.dNum).bits = Claims.extended (f.mod.getLsbD 2) n old) ∧
      ∀ k, k ≠ f.dNum → t.st.reg k = s.st.reg k

/-- R326, R328, R330, R331: a FENCE that orders earlier accesses before later loads (.ll or .sl) completes once everything it
selects has been performed, and waits until then. One that orders them only before later stores completes at once, and if
something that it selects is under way the strand holds its later stores until that is performed; it waits while an earlier
one holds them (R338; log entry 100). The SC forms, after their checks and a package-scope fence of all types, announce
themselves with the package-wide count and block, with the address and the data that they have read. -/
def Sys2Proof.Claims.fenceAndScAnnouncement : Prop :=
  (∀ (f : Fields) (s : State),
    let scope := f.mod.toNat / 16 % 8
    let types := f.mod.toNat % 16
    let loads := f.mod.getLsbD 3 || f.mod.getLsbD 1
    let done := s.fenceDone scope types
    (done = true → (loads = true ∨ s.st.fence = none) → Runs (.fence f) s (s.past (.fence f) (s.count 0x4B0))) ∧
    (done = false → loads = true → Waits (.fence f) s) ∧
    (done = false → loads = false → s.st.fence = none →
      Runs (.fence f) s (s.past (.fence f) ((s.count 0x4B0).modSt fun r => { r with fence := some (scope, types) }))) ∧
    (loads = false → s.st.fence.isSome → Waits (.fence f) s)) ∧
  ∀ e ∈ [((Instr.scld : Fields → Instr), AccessKind.read, true), (Instr.scst, .write, false), (Instr.scamo, .write, true)],
    ∀ (f : Fields) (s : State) (pa : Nat) (x : Xlate),
    let i := e.1 f
    Claims.lands s f e.2.1 (2 ^ (f.mod.toNat % 4)) pa x → Claims.inMemory x.pa → (e.2.2 = true → s.destFree f.dNum) →
    (s.fenceDone 4 15 = true → Runs i s ((s.noteXlate s.walker x).modSt fun r =>
      { r with blocked := .sc i s.clk x.pa (s.effAddr f) (s.g f.dNum) })) ∧
    (s.fenceDone 4 15 = false → Waits i s)

/-- The atomic operations, and fences with the announcement of the SC forms: both parts. -/
def Obligations.AtomicsAndFences : Prop := Claims.atomicResults ∧ Claims.fenceAndScAnnouncement

/-- A strand waits for an access to return, with the clk of its pillar in which it left, and the operands read at its issue
(R108, R109). -/
def Sys2Proof.Claims.remoteWait (s : State) (i : Instr) (f : Fields) (pa : Nat) : Blocked :=
  .remote i pa (s.aclk s.curP) (s.effAddr f) (s.g f.dNum) (s.g (f.dNum + 1))

/-- R109, R121, R397, R411: accesses outside memory, from a pillar that is not doubled and outside fibre code. One to a UALink
peer or the I/O and host region blocks the strand until it returns, and waits while 256 requests are outstanding at the peer; a
store leaves with an entry of 16 bytes in the egress log (R406), and no other byte changes. A load of eight bytes from a device
register by supervisor or machine code acts at once, and so does a store of unpoisoned data. -/
def Sys2Proof.Claims.outsideAccesses : Prop :=
  ∀ (f : Fields) (s : State) (pa : Nat) (x : Xlate),
    s.st.inFibre = false → s.outgoing s.curP (placeOf pa) = false →
    (Claims.lands s f .read 8 pa x → pa = x.pa →
      ((∃ n off, placeOf pa = .peer n off) ∨ (∃ off, placeOf pa = .host off) → s.peerFull (placeOf pa) = false →
        ∃ t, Runs (.ldI64 f) s t ∧ SameBytes s t ∧ t.st.blocked = Claims.remoteWait s (.ldI64 f) f pa ∧ t.st.pc = s.st.pc ∧
          t.st.g = s.st.g) ∧
      (s.peerFull (placeOf pa) = true → Waits (.ldI64 f) s) ∧
      ∀ off, placeOf pa = .device off →
        (s.st.lvl ≠ 0 → ∃ t, Runs (.ldI64 f) s t ∧ Claims.awaits s t (.ldI64 f) ∧
          t.st.reg f.dNum =
            (if f.dNum = 0 then {} else { bits := BitVec.ofNat 64 (((s.noteXlate s.walker x).devReadAt s.st.lvl off).toNat) }))) ∧
    (∀ off, Claims.lands s f .write 8 pa x → pa = x.pa → placeOf pa = .device off → s.st.lvl ≠ 0 →
      ((s.g f.dNum).bad = false →
        let w := (s.noteXlate s.walker x).devWrite s.st.lvl off (s.g f.dNum).bits
        Runs (.stI64 f) s (w.modSt fun r => { r with pc := w.nextPc (.stI64 f), blocked := .access })) ∧
      ((s.g f.dNum).bad = true → Traps (.stI64 f) s 0x0D (word (2 ^ 63 + (s.effAddr f).toNat % 2 ^ 57)))) ∧
    (∀ n off, Claims.lands s f .write 8 pa x → pa = x.pa → placeOf pa = .peer n off ∨ placeOf pa = .host off →
      ((s.g f.dNum).bad = false → s.peerFull (placeOf pa) = false →
        ∃ t, Runs (.stI64 f) s t ∧ t.st.blocked = Claims.remoteWait s (.stI64 f) f pa ∧ t.st.pc = s.st.pc ∧
          t.me.egress = s.me.egress + 1 ∧ (∀ p, (t.pil p).ls = (s.pil p).ls) ∧
          Claims.memoryBut s t (vaultPa s.curP (s.me.saveWindow + 0x3F0000 + 16 * (s.me.egress.toNat % 3072))) 16) ∧
      (s.peerFull (placeOf pa) = true → (s.g f.dNum).bad = false → Waits (.stI64 f) s) ∧
      ((s.g f.dNum).bad = true → Traps (.stI64 f) s 0x0D (word (2 ^ 63 + (s.effAddr f).toNat % 2 ^ 57))))

/-- R330, R411: a scalar access that translates to a device register traps at user level, and with a size other than eight bytes;
an atomic or SC form traps at any level. -/
def Sys2Proof.Claims.deviceFaults : Prop :=
  (∀ e ∈ Claims.loads.map (fun e => (e.1, e.2.1, AccessKind.read)) ++
      Claims.stores.map (fun e => (e.1, fun (_ : Fields) => e.2, AccessKind.write)) ++
      [(Instr.stl, fun (f : Fields) => 2 ^ (f.mod.toNat % 4), AccessKind.write)],
    ∀ (f : Fields) (s : State) (x : Xlate) (off : Nat),
    let ea := s.effAddr f
    (e.2.2 = .read → s.destFree f.dNum) → s.addrClean f → ea.toNat % e.2.1 f = 0 → s.xlate s.walker e.2.2 ea = .ok x → x.entry.allot = 0 →
    placeOf x.pa = .device off →
    (s.st.lvl = 0 → Traps (e.1 f) s 0x0C 0) ∧ (s.st.lvl ≠ 0 → e.2.1 f ≠ 8 → Traps (e.1 f) s 0x1E ea)) ∧
  ∀ e ∈ [((Instr.amo : Fields → Instr), AccessKind.write, true), (.cas, .write, true), (.scamo, .write, true), (.scld, .read, true),
      (.scst, .write, false)],
    ∀ (f : Fields) (s : State) (x : Xlate) (off : Nat),
    let ea := s.effAddr f
    (e.2.2 = true → s.destFree f.dNum) → s.addrClean f → ea.toNat % 2 ^ (f.mod.toNat % 4) = 0 → s.xlate s.walker e.2.1 ea = .ok x →
    x.entry.allot = 0 → placeOf x.pa = .device off → Traps (e.1 f) s 0x1E ea

/-- R102, R110, R121, R352, R360: the traps of a scalar access before it is performed: poison, alignment, a page fault outside
fibre code (with a page request) or another fault of translation. A fault that a walk ended in counts its misses. While the
second tier, where a table lies, is not ready the access waits; once it has failed the cause is 0x69 (R423). -/
def Sys2Proof.Claims.accessFaults : Prop :=
  ∀ e ∈ Claims.loads.map (fun e => (e.1, e.2.1, AccessKind.read)) ++
      Claims.stores.map (fun e => (e.1, fun (_ : Fields) => e.2, AccessKind.write)),
    ∀ (f : Fields) (s : State), (e.2.2 = .read → s.destFree f.dNum) →
    let i := e.1 f
    let ea := s.effAddr f
    ((s.g f.sNum).bad = true → Traps i s 0x0D (word (128 + f.sNum))) ∧
    (s.addrClean f → ea.toNat % e.2.1 f ≠ 0 → Traps i s 0x1A ea) ∧
    (s.addrClean f → ea.toNat % e.2.1 f = 0 → ∀ c, s.xlate s.walker e.2.2 ea = .error (.cause c) →
      (c = 0x03 ∨ c = 0x04 → s.st.inFibre = false →
        Runs i s (((s.noteMiss s.walker ea).requestFor s.curP s.curT ea (e.2.2 == .write)).takeTrap { cause := c, tval := ea })) ∧
      (c ≠ 0x03 → c ≠ 0x04 → c ≠ 0x05 → c ≠ 0x69 → Traps i s c ea) ∧
      (c = 0x69 → Traps i s c (word (2 ^ 60 + ea.toNat % 2 ^ 57))) ∧
      (c = 0x05 → Runs i s ((s.noteMiss s.walker ea).takeTrap { cause := c, tval := ea }))) ∧
    (s.addrClean f → ea.toNat % e.2.1 f = 0 → s.xlate s.walker e.2.2 ea = .error .wait → Waits i s)

/-- Accesses outside memory, the traps at device registers, and the traps of an access before it is performed: all parts. -/
def Obligations.AccessFaultsAndOutside : Prop := Claims.outsideAccesses ∧ Claims.deviceFaults ∧ Claims.accessFaults

/-! ## Dispatch and the vector unit -/

/-- R93, R100, R101, R373: what the dispatch of an instruction to an engine does. The instruction joins the end of its strand's
queue with its sequence number, its level, its FMT and the values that its general registers have now; its ring entry is
written, not ended; the sequence counter goes up by one, and the strand's dispatch order (R397); and nothing else changes, in registers or in memory. Two queued
instructions, or a kept ring entry, hold the strand back. -/
def Sys2Proof.Claims.dispatchEffect : Prop :=
  ∀ (s : State) (e : Engine) (i : Instr),
    let t := s.dispatch e i
    let d := s.capture i
    SameElsewhere s t ∧ SameBytes s t ∧ t.st = { s.st with worms := s.st.worms + 1 } ∧
      (∀ w, w ≠ s.curT → t.me.strand w = s.me.strand w) ∧
      (t.me.engine e).queue s.curT = (s.me.engine e).queue s.curT ++ [d] ∧
      t.me.seqCounter = s.me.seqCounter + 1 ∧
      (t.me.ring.get? (s.me.seqCounter.toNat % 64)).map (fun r => (r.seq, r.ended, r.faulting, r.handling)) =
        some (s.me.seqCounter, false, false, false) ∧
      { (t.me.modEngine e fun _ => s.me.engine e) with
        ring := s.me.ring, seqCounter := s.me.seqCounter, strands := s.me.strands } = s.me ∧
      d.seq = s.me.seqCounter ∧ d.strand = s.curT ∧ d.instr = i ∧ d.fmt = s.st.fmt ∧ d.ord = s.st.worms ∧
      (∀ r f, i.row = some (r, f) →
        d.gd = (if (fieldClasses r f).1 = .g then s.g f.dNum else {}) ∧
        d.gs = (if (fieldClasses r f).2.1 = .g then s.g f.sNum else {}) ∧
        d.gt = (if (fieldClasses r f).2.2 = .g then s.g f.tNum else {})) ∧
      (s.canDispatch e = true ↔ ((s.me.engine e).queue s.curT).length < 2 ∧
        ∀ r, s.me.ring.get? (s.me.seqCounter.toNat % 64) = some r → r.kept = false)

/-- The vector instructions that name no general register as a destination and no address. -/
def Sys2Proof.Claims.vectorForms : List (Fields → Instr) :=
  [.vadd, .vsub, .vmul, .vdiv, .vmin, .vmax, .vfma, .vfms, .vabs, .vneg, .vsqrt, .vand, .vor, .vxor, .vandn, .vshl, .vshr,
   .vsar, .vcmp, .vsel, .vmov, .vbcast, .vins, .kand, .kor, .knot, .kmovk, .vcvt, .vquant, .vdequant, .vexp2, .vlog2, .vrcp,
   .vrsqrt, .vred, .vperm, .vshuf, .vrot, .vcompress, .vexpand, .vdot]

/-- R93, R100, R173, R178, R179: a vector instruction dispatches to the vector unit when its queue has room, and its strand
goes on; otherwise it waits. Those that write a general register make it pending. VLD and VST check their 64 bytes first;
VGATHER and VSCATTER check their base for poison. -/
def Sys2Proof.Claims.vectorDispatch : Prop :=
  ∀ (f : Fields) (s : State),
    (∀ mk ∈ Claims.vectorForms,
      (s.canDispatch .vector = true → Runs (mk f) s (s.past (mk f) (s.dispatch .vector (mk f)))) ∧
      (s.canDispatch .vector = false → Waits (mk f) s)) ∧
    (∀ mk ∈ [(Instr.vext : Fields → Instr), .kmovg, .kpopc, .vbscale], s.destFree f.dNum →
      (s.canDispatch .vector = true → Runs (mk f) s (s.past (mk f) ((s.dispatch .vector (mk f)).pend f.dNum))) ∧
      (s.canDispatch .vector = false → Waits (mk f) s)) ∧
    (∀ mk ∈ [(Instr.vld : Fields → Instr), .vst], s.addrClean f →
      let ea := s.effAddr f
      (ea.toNat % ((typeOf .f32 f).width / 8) = 0 → s.me.xb ≤ ea.toNat → ea.toNat + 64 ≤ lsEnd →
        (s.canDispatch .vector = true →
          Runs (mk f) s (s.past (mk f) (s.dispatchAs .vector { s.capture (mk f) with slot := ea.toNat }))) ∧
        (s.canDispatch .vector = false → Waits (mk f) s)) ∧
      (ea.toNat % ((typeOf .f32 f).width / 8) ≠ 0 → Traps (mk f) s 0x1A ea) ∧
      (ea.toNat % ((typeOf .f32 f).width / 8) = 0 → lsEnd < ea.toNat + 64 → Traps (mk f) s 0x13 ea) ∧
      (ea.toNat % ((typeOf .f32 f).width / 8) = 0 → ea.toNat + 64 ≤ lsEnd → ea.toNat < s.me.xb → Traps (mk f) s 0x14 ea)) ∧
    ∀ mk ∈ [(Instr.vgather : Fields → Instr), .vscatter],
      ((s.g f.sNum).bad = false →
        (s.canDispatch .vector = true → Runs (mk f) s (s.past (mk f) (s.dispatch .vector (mk f)))) ∧
        (s.canDispatch .vector = false → Waits (mk f) s)) ∧
      ((s.g f.sNum).bad = true → Traps (mk f) s 0x0D (word (128 + f.sNum)))

/-- R93, R100, R101, R173, R178, R179, R373: dispatch to an engine, and the dispatch of every vector instruction. -/
def Obligations.VectorUnitDispatch : Prop := Claims.dispatchEffect ∧ Claims.vectorDispatch

/-- R167, R172, R173: the oldest accepted vector instruction of a strand completes. It leaves the unit and its ring entry has
ended; with its effect, if the effect succeeds; otherwise with a late fault held for its strand. With none accepted the event
does nothing. -/
def Sys2Proof.Claims.vectorCompletion : Prop :=
  ∀ (p : PillarId) (t : StrandId) (s : State),
    let oldest := (s.pil p).vec.accepted.find? fun d => d.strand == t
    (oldest = none → exec (.vectorComplete p t) s = .next s) ∧
    ∀ d e f, oldest = some d → vectorEffect d = some (e, f) →
      (∀ r, e d f (s.focus p t) = .ok r → exec (.vectorComplete p t) s =
        .next ((r.modMe fun x => Pillar.endSeq { x with vec := { x.vec with accepted := x.vec.accepted.erase d } } d.seq).focus
          s.curP s.curT)) ∧
      ∀ c v, e d f (s.focus p t) = .error (c, v) → exec (.vectorComplete p t) s =
        .next (s.modPil p fun x => Pillar.raiseLate { x with vec := { x.vec with accepted := x.vec.accepted.erase d } } t
          { d.late c v with vector := true })

/-- The least and the greatest value of an integer type (R21, R175). -/
def Sys2Proof.Claims.typeRange (ty : EType) : Int × Int :=
  match ty with
  | .i8 => (-128, 127) | .i16 => (-32768, 32767) | .i32 => (-2147483648, 2147483647)
  | .i64 => (-9223372036854775808, 9223372036854775807)
  | .n8 => (0, 255) | .n16 => (0, 65535) | .n32 => (0, 4294967295) | _ => (0, 18446744073709551615)

/-- The value of a lane of an integer type (R175). -/
def Sys2Proof.Claims.laneInt (ty : EType) (v : Nat) : Int :=
  if (Claims.typeRange ty).2 < (v : Int) then (v : Int) - 2 ^ ty.width else v

/-- An exact integer result as a lane: clamped to the type under SAT and wrapped without (R175). -/
def Sys2Proof.Claims.intLane (ty : EType) (sat : Bool) (x : Int) : Int :=
  (if sat then max (Claims.typeRange ty).1 (min (Claims.typeRange ty).2 x) else x) % 2 ^ ty.width

/-- The lane-wise instructions on integers, as functions of the old lane of D and the lanes of A and B (R175, R176, R177). -/
def Sys2Proof.Claims.laneForms : List ((Fields → Instr) × EType × (Fields → EType → Int → Int → Int → Int)) :=
  [(.vadd, .f32, fun f ty _ a b => Claims.intLane ty (f.flags / 4 % 2 == 1) (a + b)),
   (.vsub, .f32, fun f ty _ a b => Claims.intLane ty (f.flags / 4 % 2 == 1) (a - b)),
   (.vmul, .f32, fun f ty _ a b => Claims.intLane ty (f.flags / 4 % 2 == 1) (a * b)),
   (.vfma, .f32, fun f ty c a b => Claims.intLane ty (f.flags / 4 % 2 == 1) (c + a * b)),
   (.vfms, .f32, fun f ty c a b => Claims.intLane ty (f.flags / 4 % 2 == 1) (c - a * b)),
   (.vmin, .f32, fun _ ty _ a b => Claims.intLane ty false (min a b)),
   (.vmax, .f32, fun _ ty _ a b => Claims.intLane ty false (max a b)),
   (.vshl, .i32, fun _ ty _ a b => Claims.intLane ty false (a * 2 ^ (b % ty.width).toNat)),
   (.vsar, .i32, fun _ ty _ a b => Claims.intLane ty false (a / 2 ^ (b % ty.width).toNat))]

/-- R20, R166, R171, R172, R175, R176: the lanes that a lane-wise instruction on integers writes when it completes. With A
and B the sources of its form, every active lane of D (and of D + 1 under the pair flag) takes the function of the lanes of
the state before; an inactive lane becomes zero under Z and keeps its value without. VSAR is stated for the signed types. -/
def Sys2Proof.Claims.vectorIntegerLanes : Prop :=
  ∀ e ∈ Claims.laneForms, ∀ (p : PillarId) (t : StrandId) (s : State) (d : Dispatched) (f : Fields) (i : Nat),
    let ty := typeOf e.2.1 f
    let r := s.strandAt p t
    let lane (n : Nat) : Int := Claims.laneInt ty (r.lane n ty.width i).1
    (s.pil p).vec.accepted.find? (fun d => d.strand == t) = some d → d.instr = e.1 f → (e.1 f).wf = true →
    isI ty = true → (Claims.typeRange ty).1 < 0 ∨ (∀ g, e.1 g ≠ .vsar g) → i < pairRegs f * (512 / ty.width) →
    ∃ s', exec (.vectorComplete p t) s = .next s' ∧
      ((r.k f.kNum).bits.getLsbD i = true →
        (((s'.strandAt p t).lane f.dNum ty.width i).1 : Int) =
          e.2.2 f ty (lane f.dNum) (lane (rrA f)) (lane (rrB f))) ∧
      ((r.k f.kNum).bits.getLsbD i = false →
        ((s'.strandAt p t).lane f.dNum ty.width i).1 = if f.flags / 8 % 2 = 1 then 0 else (r.lane f.dNum ty.width i).1)

/-- How a vector instruction completes, and the lanes of the integer ones: both parts. -/
def Obligations.VectorCompletionAndLanes : Prop := Claims.vectorCompletion ∧ Claims.vectorIntegerLanes

/-- R164, R177, R180: what the mask instructions and the moves between g, k and v registers do when they complete: KAND, KOR,
KNOT and KMOVK write a k register (a write to k0 is discarded); KMOVG, KPOPC and VEXT write a general register, which is then
no longer pending, VEXT with the lane sign-extended for the signed types and zero-extended for the others; VINS writes one lane with the low bits of the captured g register. -/
def Sys2Proof.Claims.maskAndMoveCompletion : Prop :=
  ∀ (p : PillarId) (t : StrandId) (s : State) (d : Dispatched) (f : Fields),
    (s.pil p).vec.accepted.find? (fun d => d.strand == t) = some d →
    let r := s.strandAt p t
    let a := r.k (rrA f)
    let b := r.k (rrB f)
    let c := r.k f.sNum
    let w := (typeOf .f32 f).width
    let after (q : Strand → Prop) : Prop := ∃ s', exec (.vectorComplete p t) s = .next s' ∧ q (s'.strandAt p t)
    (f.dNum < 8 → f.dNum ≠ 0 →
      (d.instr = .kand f → after fun r' => r'.k f.dNum = pword (a.bits &&& b.bits) (a.bad || b.bad)) ∧
      (d.instr = .kor f → after fun r' => r'.k f.dNum = pword (a.bits ||| b.bits) (a.bad || b.bad)) ∧
      (d.instr = .knot f → after fun r' => r'.k f.dNum = pword (~~~c.bits) c.bad) ∧
      (d.instr = .kmovk f → after fun r' => r'.k f.dNum = d.gs)) ∧
    (f.dNum = 0 → d.instr = .kand f ∨ d.instr = .kor f ∨ d.instr = .knot f ∨ d.instr = .kmovk f →
      after fun r' => r' = r) ∧
    (f.dNum < 64 → f.dNum ≠ 0 →
      (d.instr = .kmovg f → after fun r' => r'.reg f.dNum = c ∧ r'.pending = r.pending.erase f.dNum) ∧
      (d.instr = .kpopc f → after fun r' =>
        r'.reg f.dNum = pword (BitVec.ofNat 64 ((List.range 64).filter fun n => c.bits.getLsbD n).length) c.bad ∧
          r'.pending = r.pending.erase f.dNum) ∧
      (d.instr = .vext f → f.tNum < 512 / w → w = 8 ∨ w = 16 ∨ w = 32 ∨ w = 64 → after fun r' =>
        r'.reg f.dNum = pword (Claims.extended (isSignedType (typeOf .f32 f)) (w / 8) (r.lane f.sNum w f.tNum).1)
          (r.lane f.sNum w f.tNum).2 ∧
          r'.pending = r.pending.erase f.dNum)) ∧
    (d.instr = .vins f → f.dNum < 32 → f.tNum < 512 / w → w = 8 ∨ w = 16 ∨ w = 32 ∨ w = 64 → after fun r' =>
      (r'.lane f.dNum w f.tNum).1 = d.gs.bits.toNat % 2 ^ w ∧
      ∀ j, j < 512 / w → j ≠ f.tNum → (r'.lane f.dNum w j).1 = (r.lane f.dNum w j).1)

/-- R138, R172, R178, R179, R191: the vector accesses to local store when they complete. With e bytes an element, VLD gives
an active lane i the e bytes at the captured address + e × i, and an inactive lane zero under Z and its old value without. VST
writes each active lane to its bytes and no other byte of any memory. -/
def Sys2Proof.Claims.vectorMemoryCompletion : Prop :=
  ∀ (p : PillarId) (t : StrandId) (s : State) (d : Dispatched) (f : Fields),
    let x := s.pil p
    let r := x.strand t
    let w := (typeOf .f32 f).width
    let e := w / 8
    x.vec.accepted.find? (fun d => d.strand == t) = some d → 8 ≤ w → f.dNum < 32 →
    (d.instr = .vld f → ∃ s', exec (.vectorComplete p t) s = .next s' ∧ SameBytes s s' ∧ ∀ i, i < 512 / w →
      ((s'.strandAt p t).lane f.dNum w i).1 =
        if (r.k f.kNum).bits.getLsbD i = true then x.ls.bytes.read (d.slot + e * i) e
        else if f.flags / 8 % 2 = 1 then 0 else (r.lane f.dNum w i).1) ∧
    (d.instr = .vst f → ∃ s', exec (.vectorComplete p t) s = .next s' ∧ (s'.strandAt p t) = r ∧
      (∀ i, i < 512 / w → (r.k f.kNum).bits.getLsbD i = true →
        (s'.pil p).ls.bytes.read (d.slot + e * i) e = (r.lane f.dNum w i).1) ∧
      (∀ b, (∀ i, i < 512 / w → (r.k f.kNum).bits.getLsbD i = true → b < d.slot + e * i ∨ d.slot + e * i + e ≤ b) →
        (s'.pil p).ls.bytes.get b = x.ls.bytes.get b) ∧
      (∀ a, s'.mem.get a = s.mem.get a) ∧ ∀ q, q ≠ p → (s'.pil q).ls = (s.pil q).ls)

/-- The address of lane i of VGATHER or VSCATTER (R179). -/
def Sys2Proof.Claims.laneAddress (d : Dispatched) (f : Fields) (r : Strand) (i : Nat) : Word :=
  let w := (typeOf .f32 f).width
  BitVec.ofInt 64 (d.gs.bits.toNat + Claims.signedVal (w / 8) (r.lane f.tNum w i).1 * 2 ^ (f.qNum - 1) + f.disp)

/-- R173, R179, R191: VGATHER and VSCATTER when they complete. If an active lane fails its checks (alignment, the end of local
store, XB) and no element has moved yet, the lowest such lane ends the instruction with a late fault. Otherwise VGATHER gives an
active lane the bytes at its address, or what it took before, and VSCATTER stores the lanes that it has not stored yet, in
ascending order, the highest lane of an address last, and no other byte. -/
def Sys2Proof.Claims.gatherCompletion : Prop :=
  ∀ (p : PillarId) (t : StrandId) (s : State) (d : Dispatched) (f : Fields),
    let x := s.pil p
    let r := x.strand t
    let w := (typeOf .f32 f).width
    let e := w / 8
    let addr (i : Nat) : Nat := (Claims.laneAddress d f r i).toNat
    let active (i : Nat) : Prop := i < 512 / w ∧ (r.k f.kNum).bits.getLsbD i = true
    let good (i : Nat) : Prop := addr i % e = 0 ∧ addr i + e ≤ lsEnd ∧ x.xb ≤ addr i
    x.vec.accepted.find? (fun d => d.strand == t) = some d → w = 8 ∨ w = 16 ∨ w = 32 ∨ w = 64 →
    (d.instr = .vgather f ∨ d.instr = .vscatter f → d.moved = [] → ∀ i, active i → ¬ good i →
      (∀ j, j < i → active j → good j) →
      let c : BitVec 8 := if addr i % e ≠ 0 then 0x1A else if lsEnd < addr i + e then 0x13 else 0x14
      exec (.vectorComplete p t) s = .next (s.modPil p fun y =>
        Pillar.raiseLate { y with vec := { y.vec with accepted := y.vec.accepted.erase d } } t
          { d.late c (Claims.laneAddress d f r i) with vector := true })) ∧
    ((d.moved = [] → ∀ i, active i → good i) →
      (d.instr = .vgather f → f.dNum < 32 → ∃ s', exec (.vectorComplete p t) s = .next s' ∧ SameBytes s s' ∧ ∀ i, i < 512 / w →
        ((s'.strandAt p t).lane f.dNum w i).1 =
          if (r.k f.kNum).bits.getLsbD i = true then
            (match d.moved[i]? with | some v => v.1 % 2 ^ w | none => x.ls.bytes.read (addr i) e)
          else if f.flags / 8 % 2 = 1 then 0 else (r.lane f.dNum w i).1) ∧
      (d.instr = .vscatter f → ∃ s', exec (.vectorComplete p t) s = .next s' ∧ (s'.strandAt p t) = r ∧
        (∀ i, active i → d.moved.length ≤ i → (∀ j, i < j → active j → addr j + e ≤ addr i ∨ addr i + e ≤ addr j) →
          (s'.pil p).ls.bytes.read (addr i) e = (r.lane f.dNum w i).1) ∧
        (∀ b, (∀ i, active i → d.moved.length ≤ i → b < addr i ∨ addr i + e ≤ b) →
          (s'.pil p).ls.bytes.get b = x.ls.bytes.get b) ∧
        (∀ a, s'.mem.get a = s.mem.get a) ∧ ∀ q, q ≠ p → (s'.pil q).ls = (s.pil q).ls))

/-- Masks, moves and accesses of the vector unit: all parts. -/
def Obligations.VectorMoveAndMemoryCompletion : Prop :=
  Claims.maskAndMoveCompletion ∧ Claims.vectorMemoryCompletion ∧ Claims.gatherCompletion

/-- A vector instruction completes, and every lane of its destination takes a value where the mask bit is 1; elsewhere it becomes
zero under Z and keeps its value without (R166, R172). No byte of memory changes. -/
def Sys2Proof.Claims.lanesBecome (p : PillarId) (t : StrandId) (s : State) (f : Fields) (w regs : Nat) (val : Nat → Nat) : Prop :=
  let r := s.strandAt p t
  ∃ s', exec (.vectorComplete p t) s = .next s' ∧ SameBytes s s' ∧ ∀ i, i < regs * (512 / w) →
    ((s'.strandAt p t).lane f.dNum w i).1 =
      if (r.k f.kNum).bits.getLsbD i = true then val i % 2 ^ w
      else if f.flags / 8 % 2 = 1 then 0 else (r.lane f.dNum w i).1

/-- The oldest accepted vector instruction of a strand is this well-formed one. -/
def Sys2Proof.Claims.completes (p : PillarId) (t : StrandId) (s : State) (d : Dispatched) (i : Instr) : Prop :=
  (s.pil p).vec.accepted.find? (fun d => d.strand == t) = some d ∧ d.instr = i ∧ i.wf = true

/-- The lane-wise instructions on floating-point values, as functions of the rounding mode and the values of the old lane of D and
the lanes of A and B, and whether SAT applies (R56, R57, R62, R175). -/
def Sys2Proof.Claims.floatForms : List ((Fields → Instr) × (Nat → FVal → FVal → FVal → FVal) × Bool) :=
  [(.vadd, fun m _ a b => sumExact m [a, b], true), (.vsub, fun m _ a b => sumExact m [a, b.negate], true),
   (.vmul, fun _ _ a b => mulExact a b, true), (.vdiv, fun _ _ a b => divValue a b, true),
   (.vfma, fun m c a b => sumExact m [c, mulExact a b], true), (.vfms, fun m c a b => sumExact m [c, (mulExact a b).negate], true),
   (.vmin, fun _ _ a b => if a.isNan || b.isNan then .nan else if ltValue true b a then b else a, false),
   (.vmax, fun _ _ a b => if a.isNan || b.isNan then .nan else if ltValue true a b then b else a, false)]

/-- R52, R54, R55, R57, R169, R172, R175: a lane-wise instruction on floating-point lanes gives the exact value of its function,
rounded once under the captured VRM and, where it applies, the SAT flag. VSQRT gives the rounded square root. -/
def Sys2Proof.Claims.vectorFloatLanes : Prop :=
  ∀ (p : PillarId) (t : StrandId) (s : State) (d : Dispatched) (f : Fields),
    let ty := typeOf .f32 f
    let m := d.fmt.toNat % 4
    let sat := f.flags / 4 % 2 == 1
    let val (n i : Nat) : FVal := valueOf ty ((s.strandAt p t).lane n ty.width i).1
    isF ty = true →
    (∀ e ∈ Claims.floatForms, Claims.completes p t s d (e.1 f) → Claims.lanesBecome p t s f ty.width (pairRegs f) fun i =>
      encodeValue ty m (e.2.2 && sat) (e.2.1 m (val f.dNum i) (val (rrA f) i) (val (rrB f) i))) ∧
    (Claims.completes p t s d (.vsqrt f) → Claims.lanesBecome p t s f ty.width (pairRegs f) fun i =>
      encodeValue ty m sat (sqrtValue (val f.sNum i)))

/-- The bit-wise instructions on lanes of a width (R176). -/
def Sys2Proof.Claims.bitForms : List ((Fields → Instr) × (Nat → Nat → Nat → Nat)) :=
  [(.vand, fun _ a b => a &&& b), (.vor, fun _ a b => a ||| b), (.vxor, fun _ a b => a ^^^ b),
   (.vandn, fun w a b => a &&& (2 ^ w - 1 - b)), (.vshr, fun w a b => a / 2 ^ (b % w))]

/-- R50, R172, R175, R176, R177: VABS and VNEG touch the sign bit alone of a float and give the magnitude and the negative of an
integer, clamped under SAT; the bit-wise forms; VMOV copies; VBCAST writes the captured g register; VSEL writes every lane, from
B where the mask bit is 1 and from A elsewhere. -/
def Sys2Proof.Claims.vectorBitLanes : Prop :=
  ∀ (p : PillarId) (t : StrandId) (s : State) (d : Dispatched) (f : Fields),
    let ty := typeOf .f32 f
    let sat := f.flags / 4 % 2 == 1
    let r := s.strandAt p t
    let lane (n i : Nat) : Nat := (r.lane n ty.width i).1
    (Claims.completes p t s d (.vabs f) → Claims.lanesBecome p t s f ty.width (pairRegs f) fun i =>
      if isF ty then lane f.sNum i % 2 ^ (ty.width - 1) else (Claims.intLane ty sat (Claims.laneInt ty (lane f.sNum i)).natAbs).toNat) ∧
    (Claims.completes p t s d (.vneg f) → Claims.lanesBecome p t s f ty.width (pairRegs f) fun i =>
      if isF ty then lane f.sNum i ^^^ 2 ^ (ty.width - 1) else (Claims.intLane ty sat (-(Claims.laneInt ty (lane f.sNum i)))).toNat) ∧
    (∀ e ∈ Claims.bitForms, Claims.completes p t s d (e.1 f) →
      let w := (typeOf .i32 f).width
      Claims.lanesBecome p t s f w (pairRegs f) fun i => e.2 w (r.lane (rrA f) w i).1 (r.lane (rrB f) w i).1) ∧
    (Claims.completes p t s d (.vmov f) → Claims.lanesBecome p t s f ty.width (pairRegs f) fun i => lane f.sNum i) ∧
    (Claims.completes p t s d (.vbcast f) → Claims.lanesBecome p t s f ty.width 1 fun _ => d.gs.bits.toNat) ∧
    (Claims.completes p t s d (.vsel f) → ∃ s', exec (.vectorComplete p t) s = .next s' ∧
      ∀ i, i < pairRegs f * (512 / ty.width) → ((s'.strandAt p t).lane f.dNum ty.width i).1 =
        if (r.k f.kNum).bits.getLsbD i = true then lane (rrB f) i else lane (rrA f) i)

/-- The predicates of VCMP on values, by code (R34, R177). -/
def Sys2Proof.Claims.predicate (pred : Nat) (x y : FVal) : Bool :=
  match pred with
  | 0 => eqValue x y
  | 1 => !eqValue x y
  | 2 => ltValue false x y
  | 3 => !x.isNan && !y.isNan && !ltValue false y x
  | 4 => ltValue false y x
  | 5 => !x.isNan && !y.isNan && !ltValue false x y
  | _ => x.isNan || y.isNan

/-- R164, R177: VCMP sets the bit of each active lane of k[d] to the predicate; an inactive bit keeps its value or is cleared under
Z, and the bits above the lanes are cleared. A write to k0 is discarded. -/
def Sys2Proof.Claims.vectorCompare : Prop :=
  ∀ (p : PillarId) (t : StrandId) (s : State) (d : Dispatched) (f : Fields),
    let ty := typeOf .f32 f
    let r := s.strandAt p t
    let val (n i : Nat) : FVal := valueOf ty (r.lane n ty.width i).1
    Claims.completes p t s d (.vcmp f) → ∃ s', exec (.vectorComplete p t) s = .next s' ∧ SameBytes s s' ∧
      (f.dNum = 0 → (s'.strandAt p t).kRegs = r.kRegs) ∧
      (f.dNum ≠ 0 → ∀ i, i < 64 → ((s'.strandAt p t).k f.dNum).bits.getLsbD i =
        (decide (i < 512 / ty.width) &&
          if (r.k f.kNum).bits.getLsbD i then Claims.predicate f.mod.toNat (val (rrA f) i) (val (rrB f) i)
          else f.flags / 8 % 2 == 0 && (r.k f.dNum).bits.getLsbD i))

/-- The lanes of page 3 beside the integer arithmetic: floating point, bits, moves and compares, in three parts. -/
def Obligations.VectorFloatAndBitLanes : Prop := Claims.vectorFloatLanes ∧ Claims.vectorBitLanes ∧ Claims.vectorCompare

/-! ## Page 4 -/

/-- R59, R60, R186, R188: the lanes of the transcendental instructions (in f32 and f64 the device's value within the bound, log
entry 9) and of the permutes. VPERM takes lane B[i] mod L of A; VSHUF lane B[i] mod 2L of A followed by the old D; VROT lane
(i + imm) mod L of A; VEXPAND the lane of the source whose number is the count of active lanes below; VCOMPRESS packs the active
lanes, and the lanes above them are kept, or zeroed under Z. -/
def Sys2Proof.Claims.permuteLanes : Prop :=
  ∀ (p : PillarId) (t : StrandId) (s : State) (d : Dispatched) (f : Fields),
    let ty := typeOf .f32 f
    let w := ty.width
    let l := 512 / w
    let r := s.strandAt p t
    let lane (n i : Nat) : Nat := (r.lane n w i).1
    let active (n : Nat) : List Nat := (List.range n).filter fun i => (r.k f.kNum).bits.getLsbD i
    (∀ e ∈ [((Instr.vexp2 : Fields → Instr), Transc.exp2), (.vlog2, .log2), (.vrcp, .rcp), (.vrsqrt, .rsqrt)],
      Claims.completes p t s d (e.1 f) → Claims.lanesBecome p t s f w (pairRegs f) fun i => transcendental e.2 ty (lane f.sNum i)) ∧
    (Claims.completes p t s d (.vperm f) → Claims.lanesBecome p t s f w 1 fun i => lane (rrA f) (lane (rrB f) i % l)) ∧
    (Claims.completes p t s d (.vshuf f) → Claims.lanesBecome p t s f w 1 fun i =>
      let j := lane (rrB f) i % (2 * l)
      if j < l then lane (rrA f) j else lane f.dNum (j - l)) ∧
    (Claims.completes p t s d (.vrot f) → Claims.lanesBecome p t s f w 1 fun i => lane (riA f) ((i + f.immU) % l)) ∧
    (Claims.completes p t s d (.vexpand f) → Claims.lanesBecome p t s f w 1 fun i => lane f.sNum (active i).length) ∧
    (Claims.completes p t s d (.vcompress f) → ∃ s', exec (.vectorComplete p t) s = .next s' ∧
      ∀ i, i < l → ((s'.strandAt p t).lane f.dNum w i).1 =
        match (active l)[i]? with
        | some j => lane f.sNum j
        | none => if f.flags / 8 % 2 = 1 then 0 else lane f.dNum i)

/-- The mask bit and the source lane that lane i of the destination of a conversion takes from widths ws to wd in part q; none for
an element outside the part, which keeps its value (R183). -/
def Sys2Proof.Claims.convertedFrom (ws wd q i : Nat) : Option (Nat × Nat) :=
  if wd < ws then if i / (512 / ws) = q then some (i % (512 / ws), i % (512 / ws)) else none
  else some (i, (if ws < wd then q * (512 / wd) else 0) + i)

/-- A conversion from a source register completes, with a function of each element (R183). -/
def Sys2Proof.Claims.convertsLanes (p : PillarId) (t : StrandId) (s : State) (f : Fields) (a : Nat) (src dst : EType)
    (conv : Nat → Nat) : Prop :=
  let r := s.strandAt p t
  ∃ s', exec (.vectorComplete p t) s = .next s' ∧ SameBytes s s' ∧ ∀ i, i < 512 / dst.width →
    ((s'.strandAt p t).lane f.dNum dst.width i).1 =
      match Claims.convertedFrom src.width dst.width f.qNum i with
      | none => (r.lane f.dNum dst.width i).1
      | some (m, j) =>
        if (r.k f.kNum).bits.getLsbD m = true then conv (r.lane a src.width j).1 % 2 ^ dst.width
        else if f.flags / 8 % 2 = 1 then 0 else (r.lane f.dNum dst.width i).1

/-- R58, R183, R184, R185: the conversions by part: VCVT converts under VRM and SAT; VQUANT rounds each value times 2^(127 - c),
saturated, and VDEQUANT each times 2^(c - 127), with c the low byte of the captured g register and NaN for 0xFF. VBSCALE writes
the block scale of the active lanes to g[d], which is then no longer pending. -/
def Sys2Proof.Claims.conversionLanes : Prop :=
  ∀ (p : PillarId) (t : StrandId) (s : State) (d : Dispatched) (f : Fields),
    let m := d.fmt.toNat % 4
    let sat := f.flags / 4 % 2 == 1
    let src := fromType f
    let c := (if f.reg.isSome then d.gt else d.gs).bits.toNat % 256
    let times (x : FVal) (n : Int) : FVal := if c = 255 then .nan else mulExact x (.fin false 1 n)
    (Claims.completes p t s d (.vcvt f) →
      Claims.convertsLanes p t s f f.sNum src (typeOf .f32 f) (convert src (typeOf .f32 f) m sat)) ∧
    (Claims.completes p t s d (.vquant f) → Claims.convertsLanes p t s f (rrA f) src (typeOf .e4m3 f) fun a =>
      encodeValue (typeOf .e4m3 f) m true (times (valueOf src a) (127 - c))) ∧
    (Claims.completes p t s d (.vdequant f) → Claims.convertsLanes p t s f (rrA f) src (typeOf .f32 f) fun a =>
      encodeValue (typeOf .f32 f) m sat (times (valueOf src a) ((c : Int) - 127))) ∧
    (Claims.completes p t s d (.vbscale f) → f.dNum ≠ 0 → ∃ s', exec (.vectorComplete p t) s = .next s' ∧
      let ty := typeOf .f32 f
      let r := s.strandAt p t
      let xs := ((List.range (512 / ty.width)).filter fun i => (r.k f.kNum).bits.getLsbD i).map fun i =>
        valueOf ty (r.lane f.sNum ty.width i).1
      ((s'.strandAt p t).reg f.dNum).bits = BitVec.ofNat 64 (blockScale (scaleTop (typeCode (f.mod.setWidth 4))) xs) ∧
      (s'.strandAt p t).pending = r.pending.erase f.dNum)

/-- R64, R65, R187, R189: VRED writes to every lane, whatever the mask, the tree of its operation over the active lanes, with the
identity for the others. VDOT adds to each active 32-bit lane the exact sum of the products of the elements packed in it, wrapped
or clamped for integers, and rounded once into f32 for floating point. -/
def Sys2Proof.Claims.reductionLanes : Prop :=
  ∀ (p : PillarId) (t : StrandId) (s : State) (d : Dispatched) (f : Fields),
    let m := d.fmt.toNat % 4
    let sat := f.flags / 4 % 2 == 1
    let r := s.strandAt p t
    (Claims.completes p t s d (.vred f) → ∃ s', exec (.vectorComplete p t) s = .next s' ∧
      let ty := typeOf .f32 f
      let w := ty.width
      let xs := (List.range (512 / w)).map fun i =>
        if (r.k f.kNum).bits.getLsbD i then (r.lane f.sNum w i).1 else redIdentity ty f.mod.toNat
      ∀ i, i < 512 / w → ((s'.strandAt p t).lane f.dNum w i).1 =
        redTree (redOp ty m f.mod.toNat) (Nat.log2 (512 / w)) xs % 2 ^ w) ∧
    (Claims.completes p t s d (.vdot f) → Claims.lanesBecome p t s f 32 1 fun i =>
      let ty := typeOf .i8 f
      let n := 32 / ty.width
      let elem (g j : Nat) : Nat := (r.lane g ty.width (n * i + j)).1
      let old := (r.lane f.dNum 32 i).1
      if isI ty then
        (Claims.intLane .i32 sat (Claims.laneInt .i32 old + ((List.range n).map fun j =>
          Claims.laneInt ty (elem (rrA f) j) * Claims.laneInt ty (elem (rrB f) j)).sum)).toNat
      else
        encodeValue .f32 m sat (sumExact m (valueOf .f32 old :: (List.range n).map fun j =>
          mulExact (valueOf ty (elem (rrA f) j)) (valueOf ty (elem (rrB f) j)))))

/-- The lanes of page 4: transcendentals and permutes, conversions, reductions, in three parts. -/
def Obligations.PageFourLanes : Prop := Claims.permuteLanes ∧ Claims.conversionLanes ∧ Claims.reductionLanes

/-! ## The vault and the tile engine -/

/-- R197, R201, R204, R217, R218, R219, R226: dispatch to the tile engine with room. A row instruction whose record passes the
checks of R197 (or that names a VA or all rows) captures the record. A tile load whose record passes R201 takes the next slot of
its spool, which is then loading with tag 0, and one more entry of the spool is out; a spool of no slots, a full spool and a
slot that is resident are faults. A copy captures both records and the address of its done word. A poisoned record taints what
comes through it (R12). -/
def Obligations.TileDispatch : Prop :=
  ∀ (f : Fields) (s : State), s.canDispatch .tile = true →
    let r := s.st.shape f.sNum
    let dst := s.st.shape f.dNum
    (∀ mk ∈ [(Instr.rowact : Fields → Instr), .rowclose, .rowshort, .rowkeep],
      (f.mod.toNat % 4 = 0 → r.rowFault = none) →
      Runs (mk f) s (s.past (mk f) (s.dispatchAs .tile { s.capture (mk f) with src := r }))) ∧
    (∀ e ∈ [((Instr.tld : Fields → Instr), false, false), (.tldt, true, false), (.tldc, false, true), (.tldtc, true, true)],
      let i := e.1 f
      let n := f.mod.toNat % 8
      let q := s.me.mtx.spool n
      let j := q.base + (q.rd + q.out) % q.count
      r.sourceFault true false e.2.1 e.2.2 = none →
      (q.count = 0 → Traps i s 0x29 (word (3 + n * 16))) ∧
      (q.count ≠ 0 → q.out = q.count → Traps i s 0x2D (word (1 + n * 16 + j * 128))) ∧
      (q.count ≠ 0 → q.out ≠ q.count → (s.me.mtx.slot j).state = 4 → Traps i s 0x2D (word (2 + n * 16 + j * 128))) ∧
      (q.count ≠ 0 → q.out ≠ q.count → (s.me.mtx.slot j).state ≠ 4 →
        Runs i s (s.past i ((s.dispatchAs .tile
          { s.capture i with src := r, slot := j, aux := n, tainted := s.st.shapeBad f.sNum != 0 }).modMe fun x =>
          x.modMtx fun m => (m.modSlot j fun h => { h with state := 1, tag := 0, poison := m.slotBad.hasAny (8192 * j) 8192 }).setSpool
            n { q with out := q.out + 1 })))) ∧
    (∀ e ∈ [((Instr.bcopy : Fields → Instr), false, false, false), (.bcopyt, true, false, false),
        (.bcopyc, false, true, false), (.bcopyx, false, true, true)],
      let i := e.1 f
      let w := (s.g f.tNum).bits
      r.sourceFault false e.2.2.2 e.2.1 e.2.2.1 = none → dst.destFault r = none →
      (∀ g, e.1 g = .bcopy g) ∨ spansMeet r dst = false → w = 0 ∨ s.lsRange w.toNat 8 →
      Runs i s (s.past i (s.dispatchAs .tile { s.capture i with
        src := r, dst := dst, gt := { bits := w }, tainted := s.st.shapeBad f.sNum ||| s.st.shapeBad f.dNum != 0 }))) ∧
    ∀ c mk, mk ∈ [(Instr.rowact : Fields → Instr), .rowclose, .rowshort, .rowkeep] → f.mod.toNat % 4 = 0 →
      r.rowFault = some c → Traps (mk f) s 0x20 (word (c + f.sNum % 8 * 16))

/-- R12, R198, R202, R203: the shape registers. SHLD reads 32 aligned bytes of local store with the poison marks of their four words,
SHST writes them, and a record stored and loaded again is the same with its marks. SHSET replaces one field and leaves every other
bit; it poisons the dword of the field if g[s] is poisoned, and clears its mark only by good data for the whole dword. -/
def Obligations.ShapeRegisterResults : Prop :=
  ∀ (f : Fields) (s : State),
    let ea := (s.effAddr f).toNat
    (s.addrClean f → s.lsRange ea 32 → s.me.vectorBusy s.curT ea 32 = false →
      Runs (.shld f) s (s.past (.shld f)
        (s.modSt fun t => { t with
          sh := t.sh.setIfInBounds f.dNum (BitVec.ofNat 256 (s.me.ls.bytes.read ea 32))
          shBad := t.shBad.setIfInBounds f.dNum (s.me.ls.recordBad ea) })) ∧
      (∀ n, n < 4 → (s.me.ls.recordBad ea).getLsbD n = s.me.ls.bad.has (ea / 8 + n)) ∧
      let y := s.me.storeRecord ea (s.st.shape f.dNum) (s.st.shapeBad f.dNum)
      Runs (.shst f) s (s.past (.shst f) (s.modMe fun x => x.storeRecord ea (s.st.shape f.dNum) (s.st.shapeBad f.dNum))) ∧
      y.ls.bytes.read ea 32 = (s.st.shape f.dNum).toNat ∧ y.ls.recordBad ea = s.st.shapeBad f.dNum) ∧
    ∀ e ∈ [(0, 0, 64), (1, 64, 40), (2, 128, 14), (3, 144, 14), (4, 164, 4), (5, 168, 6), (6, 192, 64)], f.mod.toNat = e.1 → f.dNum < 8 →
      ∃ t, Runs (.shset f) s t ∧ t.st.pc = s.nextPc (.shset f) ∧
        (∀ n, n < 256 → (t.st.shape f.dNum).getLsbD n =
          if e.2.1 ≤ n ∧ n < e.2.1 + e.2.2 then (s.g f.sNum).bits.getLsbD (n - e.2.1)
          else (s.st.shape f.dNum).getLsbD n) ∧
        ∀ n, n < 4 → (t.st.shapeBad f.dNum).getLsbD n =
          (n == e.2.1 / 64 && (s.g f.sNum).bad || (s.st.shapeBad f.dNum).getLsbD n && !(n == e.2.1 / 64 && e.2.2 == 64))

/-- R195, R196, R205, R208, R218, R226: events of the tile pipe. An activation that is done opens its row, but in a bank that
refreshes. A beat of the streaming operation on an open row that no repair delays pins the row and gives what the beat's transfer
gives, but for the beats of other users that came while it was late, which delay it first (R206); one on a closed row of the own
vault that may open requests its activation; with nothing streaming there is no beat. The oldest load whose last beat has arrived fills its slot, and the oldest such copy writes 0
to its done word, which is full; the instruction has ended. -/
def Obligations.TilePipeEvents : Prop :=
  ∀ (p : PillarId) (s : State),
    let x := s.pil p
    (∀ bank row done, x.vault.activating.find? (fun a => bankOf a.1 == bank) = some (row, done) →
      ((x.vault.refreshing.get? bank).isSome = true → Runs (.rowActivationDone p bank) s s) ∧
      (x.vault.refreshing.get? bank = none →
        let v := { x.vault with activating := x.vault.activating.erase (row, done) }
        Runs (.rowActivationDone p bank) s (s.setPil p (Pillar.retryRows { x with vault := v.opened row s.clk } s.clk)))) ∧
    (x.tile.stream = none → Runs (.tileBeatArrive p) s s) ∧
    (∀ o row, x.tile.stream = some o → x.opHeld o = false → o.col < o.d.src.rowBytes → s.beatRow p o = some row →
      x.vault.refreshing.get? (bankOf row) = none → x.vault.openRows.contains row = false →
      x.vault.isActivating row = false → x.vault.canOpen row s.clk = true →
      Runs (.tileBeatArrive p) s (s.modPil p fun x => { x with vault := x.vault.request row s.clk })) ∧
    (∀ o row s', x.tile.stream = some o → x.opHeld o = false → o.col < o.d.src.rowBytes → s.beatRow p o = some row →
      x.vault.refreshing.get? (bankOf row) = none → x.vault.openRows.contains row = true → o.taken = 0 →
      x.vault.repairDelay o row = 0 →
      (s.modPil p fun x => (x.chargeBeat s.clk o row).pin row).beat p { o with lastRow := some row } = .ok s' →
      Runs (.tileBeatArrive p) s s') ∧
    (∀ o row, x.tile.stream = some o → x.opHeld o = false → o.col < o.d.src.rowBytes → s.beatRow p o = some row →
      x.vault.refreshing.get? (bankOf row) = none → x.vault.openRows.contains row = true → o.taken ≠ 0 →
      ∃ t q, Runs (.tileBeatArrive p) s t ∧ (t.pil p).tile.stream = some q ∧ q.due = s.clk + o.taken ∧ q.taken = 0) ∧
    (∀ o, x.tile.ops.find? (fun o => o.ended && (match tileKind o.d.instr with | some k => k < 4 | none => false)) = some o →
      Runs (.tileLoadFill p) s (s.setPil p ((x.modMtx fun m => m.fill o.d).endOp o)) ∧
      (o.d.slot < 32 → ((x.modMtx fun m => m.fill o.d).mtx.slot o.d.slot).state = 2)) ∧
    ∀ o, x.tile.ops.find? (fun o => o.ended && (match tileKind o.d.instr with | some k => 4 ≤ k | none => false)) = some o →
      Runs (.copyComplete p) s (s.setPil p (Pillar.endOp
        (if o.d.gt.bits = 0 then x else x.lsWriteFull o.d.gt.bits.toNat 0 false) o))

/-- R132, R133, R139, R146: the ends of code and cache transfers. A CFETCH whose bytes all arrive makes its segment loaded, and
one that faults makes it failed with a late fault. A TFILL whose block arrives makes its slot valid. The oldest write-back of a
TEVICT leaves the queue when it has been performed, and one that faults leaves with a late fault. A twinned strand's go on once its
twin's worm has matched (R397). What a poisoned address fetches is poisoned (R12). That a segment, a block or a write-back lands
in one event (log entry 37) and that a write-back's late fault has no ring entry (log entry 23) are the model's choices. -/
def Obligations.FetchAndFillEvents : Prop :=
  ∀ (p : PillarId) (s : State) (o : TileOp),
    let x := s.pil p
    let w := s.opWalker p o.d (matched := o.matched.isSome)
    let reg (f : Fields) : PWord := if f.reg.isSome then o.d.gs else o.d.gd
    let va (f : Fields) : Word := (reg f).bits
    let goes (f : Fields) : Prop := s.wormHeld p o.d.strand = false ∧ s.fetchHeld p o (va f) = false
    let settle (n : Nat) (st : BitVec 2) (x : Pillar) : Pillar := (x.dropFetch o).setSeg n { x.seg n with state := st }
    (∀ (n : BitVec 4) f, x.tile.fetch (fun i => match i with | .cfetch _ => true | _ => false) n.toNat = some o →
      o.d.instr = .cfetch f → goes f →
      let len := (x.seg n.toNat).lenKb * 1024
      let copied := State.copyIn w (reg f).bad len (s.noteBulk w .tile (va f)) (va f) o.d.aux len
      (∀ s', copied = (s', none) →
        Runs (.segmentLand p n) s (s'.modPil p fun x => ((settle n.toNat 2 x).count 0x402 len).endSeq o.d.seq)) ∧
      ∀ s' e, s.holdOff e = none → copied = (s', some e) →
        Runs (.segmentLand p n) s ((s'.modPil p (settle n.toNat 3)).raiseStop p o.d.strand o.d.seq o.d.lvl e (tile := true))) ∧
    (∀ (j : BitVec 8) f s' m bad, x.tile.fetch (fun i => match i with | .tfill _ => true | _ => false) j.toNat = some o →
      o.d.instr = .tfill f → goes f → s.readBytes w .tile (va f) 1024 = .ok (s', m, bad) →
      ∃ t, Runs (.tagFillComplete p j) s t ∧
        ∀ y, (s'.pil p).tags.slot j.toNat = y → y.state = 1 → ((t.pil p).tags.slot j.toNat) = { y with state := 2 }) ∧
    ∀ b bs, x.tile.writeBacks = b :: bs → s.wormHeld p b.strand = false → s.writeBackHeld p b = false →
      let drop (s : State) : State := s.modPil p fun x => { x with tile := { x.tile with writeBacks := bs } }
      let w := { s.engineWalker p b.lvl true with discard := !b.matched && s.discards p b.strand }
      let r := s.writeBytes w b.va 1024 b.block b.badBytes 0 {}
      (∀ s' m, r = .ok (s', m) → Runs (.tevictWritebackDone p) s (drop s')) ∧
      (∀ e, s.holdOff e = none → r = .error e →
        Runs (.tevictWritebackDone p) s ((drop s).raiseUnringed p b.strand b.seq b.lvl e (tile := true)))

/-- R209, R210, R211, R214, R216: events of the DRAM. A refresh window closes the rows of its bank, pinned or not, and marks it
refreshing until its end. A new CALENDAR takes effect on the vaults of its stack at the start of an epoch. A threshold crossing
sets the three bits of its layer in VTHERM. A short-lived row whose deadline has come is poisoned whole,
its bits as before, and one whose deadline has not come stays. A beat that has waited 4,096 clk for the activation of its row in
a throttled layer, beside what refresh took, stops the stream with the throttle trap (log entry 101); one less late does not. -/
def Obligations.DramEvents : Prop :=
  ∀ (p : PillarId) (s : State),
    let x := s.pil p
    (∀ bank, x.vault.refreshing.get? bank = none → s.inRefresh p bank = true →
      ∃ t, Runs (.refreshWindowStart p bank) s t ∧ ((t.pil p).vault.refreshing.get? bank).isSome = true ∧
        ∀ r, r ∈ (t.pil p).vault.openRows ↔ r ∈ x.vault.openRows ∧ bankOf r ≠ bank) ∧
    (∀ bank, (x.vault.refreshing.get? bank).isSome = true → s.inRefresh p bank = false →
      ∃ t, Runs (.refreshWindowEnd p bank) s t ∧ (t.pil p).vault.refreshing.get? bank = none ∧
        (t.pil p).vault.openRows = x.vault.openRows) ∧
    (∀ st : BitVec 2, s.calclk st.toNat % 2 ^ 22 = 0 →
      ∃ t, Runs (.refreshEpochStart st) s t ∧ ∀ c, x.vault.nextCalendar = some c → stackOf p = st.toNat →
        (s.pillars.get? p.toNat).isSome → (t.pil p).vault.calendar = c ∧ (t.pil p).vault.nextCalendar = none) ∧
    (∀ layer hot warm throt, layer < 12 →
      ∃ t, Runs (.vthermChange p layer hot warm throt) s t ∧ ∀ n, n < 64 → (t.pil p).vault.vtherm.getLsbD n =
        if n = layer then hot else if n = 12 + layer then warm else if n = 24 + layer then throt
        else x.vault.vtherm.getLsbD n) ∧
    (∀ row,
      (∀ due, x.vault.shortLived.get? row = some due → due ≠ 0 → due ≤ s.clk →
        ∃ t, Runs (.retentionDeadline p row) s t ∧ t.mem = s.mem ∧ (t.pil p).vault.expired.has row = true ∧
          ∀ a, a < 8192 → t.physBad (vaultPa p (8192 * row) + a) 1 = true) ∧
      ((∀ e ∈ x.vault.shortLived.entries, e.1 = row → e.2 = 0 ∨ s.clk < e.2) → Runs (.retentionDeadline p row) s s)) ∧
    ∀ o row, x.tile.stream = some o → s.beatRow p o = some row →
      (x.opHeld o = false → x.vault.vtherm.getLsbD (24 + row / 2048) = true → o.col < o.d.src.rowBytes →
        x.vault.openRows.contains row = false → x.vault.refreshing.get? (bankOf row) = none → 4096 ≤ o.late s.clk →
        Runs (.throttleTrap p) s (s.stopTile p o (.trap 0x22 (word (row / 2048 + row % 4 * 16 + 4096 * 2 ^ 32))))) ∧
      (o.late s.clk < 4096 ∨ x.vault.openRows.contains row = true → Runs (.throttleTrap p) s s)

/-! ## The matrix engine -/

/-- R222, R224, R225: the spool instructions. SPOOLCFG with counts that fit, while no slot is in use and no strand has a
stopped load, gives spool k the slots after those of the spools before it, all free with tag 0. AWAIT goes on once the slot it
names has been filled, and waits while it is loading. RELEASE frees the k oldest slots of a spool, or lets those that still
have readers drain. -/
def Sys2Proof.Claims.spoolResults : Prop :=
  ∀ (f : Fields) (s : State),
    let m := s.me.mtx
    let v := (s.g f.sNum).bits
    let c (k : Nat) : Nat := v.toNat / 2 ^ (6 * k) % 64
    let q := m.spool f.dNum
    let k := f.immU
    (v.toNat < 2 ^ 48 → ((List.range 8).map c).sum ≤ 32 →
      (∀ j, j < 32 → (m.slot j).state ≠ 1 ∧ (m.slot j).state ≠ 4 ∧ (m.slot j).state ≠ 5 ∧ (m.slot j).readers = 0) →
      (∀ u, (s.me.strand u).rowprog.getLsbD 63 = false) →
      ∃ t, Runs (.spoolcfg f) s t ∧ t.st.pc = s.nextPc (.spoolcfg f) ∧ t.st.notBefore = s.aclk s.curP + 4 ∧
        (∀ n, n < 8 → t.me.mtx.spool n =
          { out := 0, rd := 0, count := c n, base := ((List.range n).map c).sum % 32 }) ∧
        ∀ j, j < 32 → t.me.mtx.slot j = { m.slot j with state := 0, tag := 0 }) ∧
    (2 ^ 48 ≤ v.toNat → Traps (.spoolcfg f) s 0x29 1) ∧
    (k < q.count →
      let st := (m.slot (q.base + (q.rd + k) % q.count)).state
      (k < q.out → st = 2 ∨ st = 3 → Runs (.await f) s (s.past (.await f) s)) ∧
      (q.out ≤ k ∨ (st ≠ 2 ∧ st ≠ 3) → Waits (.await f) s)) ∧
    (q.count ≤ k → Traps (.await f) s 0x29 (word (3 + f.dNum * 16))) ∧
    (k ≤ q.out → q.out ≤ q.count → 0 < q.count → q.base + q.count ≤ 32 → f.dNum < 8 →
      (∀ i, i < k → (m.slot (q.base + (q.rd + i) % q.count)).state ≠ 1) →
      ∃ t, Runs (.release f) s t ∧ t.st.pc = s.nextPc (.release f) ∧
        t.me.mtx.spool f.dNum = { q with rd := (q.rd + k) % q.count, out := q.out - k } ∧
        ∀ i, i < k → (t.me.mtx.slot (q.base + (q.rd + i) % q.count)).state =
          if (m.slot (q.base + (q.rd + i) % q.count)).readers = 0 then 0 else 5) ∧
    (q.out < k → Traps (.release f) s 0x2D (word (3 + f.dNum * 16)))

/-- R221, R222, R227, R228: the schedule check names the slot at an offset of a spool if it is out, filled and holds the expected
tag, and otherwise says why not; SLDV reads through it, and SSTV writes into the next slot of its spool, which a seal hands on. -/
def Sys2Proof.Claims.slotTransfers : Prop :=
  ∀ (f : Fields) (s : State),
    let m := s.me.mtx
    let v := (s.g f.sNum).bits
    let n := f.mod.toNat % 8
    let q := m.spool n
    (∀ off tag b : Nat,
      let j := q.base + (q.rd + off) % q.count
      let h := m.slot j
      let fault (reason : Nat) : Stop := .trap 0x28
        (word (tag + h.tag.toNat * 2 ^ 16 + n * 2 ^ 32 + j * 2 ^ 35 + reason * 2 ^ 40 + b * 2 ^ 43))
      (q.count ≤ off → s.schedCheck n off tag b = .error (.trap 0x29 (word (3 + n * 16)))) ∧
      (off < q.count →
        (q.out ≤ off → s.schedCheck n off tag b = .error (fault 2)) ∧
        (off < q.out → h.state = 1 → h.splitter ≠ some s.curT → s.schedCheck n off tag b = .error (fault 1)) ∧
        (off < q.out → h.state = 3 → s.schedCheck n off tag b = .error (fault 4)) ∧
        (off < q.out → h.state ≠ 1 → h.state ≠ 3 → h.tag.toNat ≠ tag → s.schedCheck n off tag b = .error (fault 3)) ∧
        (off < q.out → h.state ≠ 1 → h.state ≠ 3 → h.tag.toNat = tag → s.schedCheck n off tag b = .ok j))) ∧
    (∀ j, v.toNat % 64 = 0 → v.toNat / 2 ^ 16 % 2 ^ 32 = 0 → s.schedCheck n (v.bits 15 13) (v.bits 63 48) 0 = .ok j →
      s.canDispatch .matrix = true →
      Runs (.sldv f) s (s.past (.sldv f)
        ((s.dispatchAs .matrix { s.capture (.sldv f) with slot := packSlots [j] }).modMe fun x =>
          x.modMtx fun m => m.modSlot j fun h => { h with readers := h.readers + 1 }))) ∧
    (v.toNat % 64 = 0 → v.bits 15 13 = 0 → q.count ≠ 0 → q.out ≠ q.count → s.canDispatch .matrix = true →
      let j := q.base + (q.rd + q.out) % q.count
      let writing := (m.slot j).state ≠ 5 ∧ (m.slot j).state ≠ 1
      let seal_ := f.mod.getLsbD 3
      (writing → (if seal_ = true then sealOk v = true else v.toNat < 2 ^ 16) →
        Runs (.sstv f) s (s.past (.sstv f)
          ((s.dispatchAs .matrix { s.capture (.sstv f) with aux := j }).modMe fun x => x.modMtx fun m =>
            let m := m.modSlot j fun h => { h with state := 4, tag := 0 }
            if seal_ = true then m.setSpool n { q with out := q.out + 1 } else m))))

/-- Spools, and the transfers between slots and vector registers: both parts. -/
def Obligations.SpoolAndSlotResults : Prop := Claims.spoolResults ∧ Claims.slotTransfers

/-- The tiles that a product of a strand writes: one, or under `.loom` one for each member of its loom (R235, R240). -/
def Sys2Proof.Claims.productTiles (f : Fields) (s : State) (size : Nat) : Prop :=
  if f.mod.getLsbD 6 = true then s.loomCheck = .ok size ∧ f.dNum + size ≤ 16 else size = 1

/-- R229, R233, R235, R236, R237: dispatch of the products. With supported formats, zero reserved fields, both schedule checks
passed, operands of those formats that fit their slots, tiles of the right kind and none in flight for another, MMA and MMABS
dispatch: their slots gain a reader each and their tiles join the strand's open batch. MMV has one slot and one tile. MZERO sets
the kind of its tile at once. -/
def Sys2Proof.Claims.productDispatch : Prop :=
  ∀ (f : Fields) (s : State), s.canDispatch .matrix = true →
    let m := s.me.mtx
    (∀ e ∈ [((Instr.mma : Fields → Instr), false), (.mmabs, true)], ∀ a b size : Nat,
      let i := e.1 f
      let d := s.capture i
      let g := geometryOf d.gt.bits
      let x := d.gs.bits
      let tiles := (List.range size).map (f.dNum + ·)
      (if e.2 then d.ma = .e2m1 ∧ d.mb = .e2m1 else mmaPair d.ma d.mb = true) →
      x.toNat < 2 ^ 38 → d.gt.bits.toNat < 2 ^ 40 →
      s.schedCheck (f.mod.toNat % 8) (x.bits 34 32) (x.bits 15 0) 0 = .ok a →
      s.schedCheck (f.mod.toNat / 8 % 8) (x.bits 37 35) (x.bits 31 16) 1 = .ok b →
      typeCode (m.slot a).type = d.ma → typeCode (m.slot b).type = d.mb →
      g.fits (m.slot a) (m.slot b) d.ma.width d.mb.width = true →
      (e.2 = true → g.bkm = true ∧ g.k0 = 0 ∧ g.k % 32 = 0 ∧ g.k * 17 / 32 ≤ (m.slot a).olen ∧
        g.k * 17 / 32 ≤ (m.slot b).olen) →
      Claims.productTiles f s size → (∀ t ∈ tiles, (m.tile t).kind = kindFor d.ma) →
      (∀ t ∈ tiles, s.me.tileFree s.curT true t = true) →
      Runs i s (s.past i (((((s.dispatchAs .matrix { d with
          slot := packSlots [a, b], read := m.shapeOf [a, b], interval := s.loomInterval }).modMe fun y =>
        y.modMtx fun m => m.enterSlots [a, b]).joinBatch d.seq tiles).countLoom (f.mod.getLsbD 6))))) ∧
    (∀ a : Nat,
      let d := s.capture (.mmv f)
      let x := d.gs.bits
      let k := x.bits 37 31 + 1
      let h := m.slot a
      let l := 512 / d.mb.width
      mmaPair d.ma d.mb = true → x.toNat < 2 ^ 46 →
      s.schedCheck (f.mod.toNat % 8) (x.bits 18 16) (x.bits 15 0) 0 = .ok a → typeCode h.type = d.ma →
      x.bits 24 19 + 1 ≤ h.orows → (32 * x.bits 45 38 + k) * d.ma.width ≤ h.olen * 8 → k ≤ 2 * l →
      (k ≤ l ∨ f.tNum % 2 = 0) → (m.tile f.dNum).kind = kindFor d.ma → s.me.tileFree s.curT true f.dNum = true →
      Runs (.mmv f) s (s.past (.mmv f) (((s.dispatchAs .matrix { d with slot := packSlots [a], read := m.shapeOf [a] }).modMe
        fun y => y.modMtx fun m => m.enterSlots [a]).joinBatch d.seq [f.dNum]))) ∧
    (s.me.tileFree s.curT true f.dNum = true →
      Runs (.mzero f) s (s.past (.mzero f) (((s.dispatch .matrix (.mzero f)).modMe fun x =>
        x.modMtx fun m => m.modTile f.dNum fun h => { h with kind := if typeOf .f32 f = .i32 then 0 else 1, plies := 0 }).joinBatch
          s.me.seqCounter [f.dNum]))) ∧
    (s.me.tileFree s.curT true f.dNum = false → Traps (.mzero f) s 0x2B (s.me.inFlightTval f.dNum))

/-- R238, R242: dispatch of the tile moves. An MLD or MST of whole rows at an aligned address of local store, with a type that
suits the tile, sets MOVING; an MLD of all 64 rows also sets the kind of its tile. DRAIN captures its destination. -/
def Sys2Proof.Claims.tileMoveDispatch : Prop :=
  ∀ (f : Fields) (s : State) (ty : EType), s.canDispatch .matrix = true → moveRow0 f + moveRows f ≤ 64 →
    s.me.tileFree s.curT false f.dNum = true → moveType (s.me.mtx.tile f.dNum).kind f = .ok ty →
    let kind := (s.me.mtx.tile f.dNum).kind
    let ea := s.effAddr f
    let len := moveRows f * 64 * (ty.width / 8)
    let at_ (i : Instr) : State :=
      (s.dispatchAs .matrix { s.capture i with slot := ea.toNat, aux := ty.code.toNat + 16 * len }).startMove f.dNum
    (s.addrClean f → ea.toNat % 8 = 0 → s.me.xb ≤ ea.toNat → ea.toNat + len ≤ lsEnd →
      s.me.vectorBusy s.curT ea.toNat len = false →
      (moveFloat ty = true ∨ ty = .i32 →
        (moveRows f ≠ 64 → moveKind ty = kind → Runs (.mld f) s (s.past (.mld f) (at_ (.mld f)))) ∧
        (moveRows f = 64 → Runs (.mld f) s (s.past (.mld f) ((at_ (.mld f)).modMe fun x => x.modMtx fun m =>
          m.modTile f.dNum fun h => { h with kind := moveKind ty, pair := 0, steps := 0, plies := 0 })))) ∧
      (storeTypeOk kind ty = true → Runs (.mst f) s (s.past (.mst f) (at_ (.mst f))))) ∧
    (storeTypeOk kind ty = true →
      drainFields (f.mod.getLsbD 6) (s.capture (.drain f)).gs.bits (s.capture (.drain f)).gt.bits (ty.width / 8) = true →
      Runs (.drain f) s (s.past (.drain f)
        ((s.dispatchAs .matrix { s.capture (.drain f) with aux := ty.code.toNat }).startMove f.dNum)))

/-- Products, and the moves of tiles: both parts. -/
def Obligations.MatrixDispatch : Prop := Claims.productDispatch ∧ Claims.tileMoveDispatch

/-- R233, R234: MCOMMIT closes the open batch under the next number, which it writes to g[d], while fewer than four batches are
unfinished, and waits otherwise. MWAIT goes on once the batch of a number, or with zero the last one, has finished, waits until
then, and faults on a number that has not been given. That MWAIT goes on past a late fault of a lower level is the model's
choice (log entry 91). -/
def Sys2Proof.Claims.batchResults : Prop :=
  ∀ (f : Fields) (s : State),
    let b := s.st.batches
    let v : BitVec 32 := (s.g f.sNum).bits.setWidth 32
    let n := if v = 0 then b.last else v
    (s.destFree f.dNum →
      ((b.last - b.done).toNat < 4 →
        let c : Batches :=
          { b with last := b.last + 1, committed := b.committed ++ [{ b.current with number := b.last + 1 }], current := {} }
        Runs (.mcommit f) s (s.past (.mcommit f)
          ((s.modSt fun t => { t with batches := c.settle }).setG f.dNum { bits := (b.last + 1).setWidth 64 }))) ∧
      (4 ≤ (b.last - b.done).toNat → Waits (.mcommit f) s)) ∧
    ((b.last - n).toNat < 2 ^ 31 → s.st.deliverable = none →
      ((b.done - n).toNat < 2 ^ 31 → Runs (.mwait f) s (s.past (.mwait f) s)) ∧
      (2 ^ 31 ≤ (b.done - n).toNat → Waits (.mwait f) s)) ∧
    (2 ^ 31 ≤ (b.last - n).toNat → Traps (.mwait f) s 0x2F 1)

/-- R239, R240, R241: the loom instructions. LOOMJOIN with a claim that no published claim conflicts with completes after 8 clk
when every other member has published the same claim, which forms the loom on all of them, and waits otherwise; a conflict
refuses it, and the waiting pillars that it conflicts with; a pillar with a claim goes on at once in its loom, after 8 clk when its
loom has been formed, waits before, and traps on another claim or a broken loom. LOOMGO completes after 8 clk when every other member
waits in its own with the same count of `.loom` instructions, and waits while one does not; a member that has its verdict takes it.
LOOMSPLIT leaves the loom once no `.loom` instruction of the pillar is under way, and a broken loom at once. Code 3 for another
claim on a pillar whose own claim is published but not formed is an inference of the model (log entry 111). The 8 clk count as
LOOMWAITCLK (R245). -/
def Sys2Proof.Claims.loomResults : Prop :=
  ∀ (f : Fields) (s : State),
    let v := (s.g f.sNum).bits
    let named := s.loomMembers s.curP (v.bits 4 0) (v.bits 8 5 + 1)
    let claim (ms : List PillarId) : Loom := { col0 := v.bits 4 0, members := ms, strand := s.curT }
    let join := Instr.loomjoin f
    (512 ≤ v.toNat ∨ named = none → Traps join s 0x2E 1) ∧
    (∀ ms, v.toNat < 512 → named = some ms →
      (s.me.mtx.loom = none →
        (s.loomConflicts s.curP (claim ms) = [] →
          ((∀ q ∈ ms, q ≠ s.curP → ∃ o, s.claimOf q = some o ∧ o.members = ms ∧ o.formed = false) →
            ∃ t, Runs join s t ∧ t.st.pc = s.nextPc join ∧ t.st.notBefore = s.aclk s.curP + 8 ∧
              ∀ q ∈ ms, (t.claimOf q).map (·.formed) = some true) ∧
          ((∃ q ∈ ms, q ≠ s.curP ∧ ∀ o, s.claimOf q = some o → o.members ≠ ms ∨ o.formed = true) →
            ∃ t, Runs join s t ∧ t.st.pc = s.st.pc ∧ t.st.blocked = .wait join ∧ t.claimOf s.curP = some (claim ms))) ∧
        (s.loomConflicts s.curP (claim ms) ≠ [] → Runs join s
          (((s.loomConflicts s.curP (claim ms)).foldl State.refuseClaim s).takeTrap { cause := 0x2E, tval := 2 }))) ∧
      (∀ l, s.me.mtx.loom = some l →
        (l.members ≠ ms → Traps join s 0x2E 3) ∧
        (l.members = ms → l.broken = true → Traps join s 0x2E 7) ∧
        (l.members = ms → l.broken = false →
          (l.joined = true → Runs join s (s.past join s)) ∧
          (l.joined = false → l.formed = true →
            Runs join s (((s.past join (s.modLoom s.curP fun l => { l with joined := true })).issueAfter 8).count 0x486 8)) ∧
          (l.joined = false → l.formed = false → Waits join s)))) ∧
    (∀ l, s.me.mtx.loom = some l → l.formed = true → l.strand = s.curT → s.curP ∈ l.members →
      let go := Instr.loomgo f
      let open_ (t : State) : State := t.modLoom s.curP fun l => { l with waiting := false, verdict := none }
      (l.broken = true → l.verdict = none → Traps go s 0x2E 7) ∧
      (l.waiting = true → ∀ c, l.verdict = some c →
        (c = 0 → Runs go s (((s.past go (open_ s)).issueAfter 8).count 0x486 8)) ∧
        (c ≠ 0 → Runs go s ((open_ s).takeTrap { cause := 0x2E, tval := word c }))) ∧
      (l.broken = false → l.waiting = false → l.verdict = none →
        ((∀ q ∈ l.members, q ≠ s.curP → ∃ o, s.claimOf q = some o ∧ o.gos = l.gos + 1 ∧ o.waiting = true ∧ o.verdict = none ∧
            o.count = l.count) →
          ∃ t, Runs go s t ∧ t.st.pc = s.nextPc go ∧ t.st.notBefore = s.aclk s.curP + 8 ∧
            ∀ q ∈ l.members, q ≠ s.curP → (t.claimOf q).bind (·.verdict) = some 0) ∧
        ((∃ q ∈ l.members, q ≠ s.curP ∧ ∀ o, s.claimOf q = some o → o.waiting = false) →
          ∃ t, Runs go s t ∧ t.st.pc = s.st.pc ∧ t.st.blocked = .wait go))) ∧
    (s.me.mtx.loom = none → Traps (.loomgo f) s 0x2E 4 ∧ Runs (.loomsplit f) s (s.past (.loomsplit f) s)) ∧
    ∀ l, s.me.mtx.loom = some l →
      (l.broken = true → Runs (.loomsplit f) s
        (s.past (.loomsplit f) ((s.modMe fun x => x.faultStep s.clk 7).leaveLoom s.curP))) ∧
      (l.broken = false → s.me.loomBusy = false → Runs (.loomsplit f) s (s.past (.loomsplit f) (s.leaveLoom s.curP))) ∧
      (l.broken = false → s.me.loomBusy = true → Waits (.loomsplit f) s)

/-- Batches and looms: both parts. -/
def Obligations.BatchAndLoomResults : Prop := Claims.batchResults ∧ Claims.loomResults

/-- R249, R250, R254, R256, R257: dispatch of the ply instructions. A split of float slots of one type and shape dispatches with
a reader on each and takes one ply slot for each ply; a scan takes none. A PMMA that starts its group, or goes on with it,
dispatches with its plies; under `.loom` only the root reads A. A PJOIN of a whole group into an aligned output dispatches. PSTAT writes ACCn. -/
def Obligations.PlyDispatch : Prop :=
  ∀ (f : Fields) (s : State), s.canDispatch .matrix = true →
    let m := s.me.mtx
    (∀ i ∈ [Instr.psplita f, Instr.psplitb f], ∀ js m' plies,
      let d := s.capture i
      let x := d.gs.bits
      let scan := f.mod.getLsbD 6
      let ty := typeCode (m.slot (js.headD 0)).type
      let k := (js.map fun j => (m.slot j).olen).sum / (ty.width / 8)
      x.toNat < 2 ^ 41 → (scan = true → f.dNum = 0 ∧ x.bits 40 38 = 0 ∧ x.bits 31 16 = 0) → f.tNum % 2 = 0 →
      s.schedChecks (f.mod.toNat % 8) (x.bits 34 32) (x.bits 15 0) 0 (x.bits 37 35 + 1) = .ok js → js ≠ [] →
      ty = .f64 ∨ ty = .f32 → (∀ j ∈ js, typeCode (m.slot j).type = ty ∧ (m.slot j).orows = (m.slot (js.headD 0)).orows) →
      (m.slot (js.headD 0)).orows ≤ 64 → k ≤ 128 →
      (if scan then Except.ok (m, []) else MatrixEngine.takeWriteSlots f.dNum (x.bits 40 38 + 1) m) = Except.ok (m', plies) →
      Runs i s (s.past i (((s.modMe fun y =>
        { y with mtx := (m'.markPlies s.curT (x.bits 31 16) (m.slot (js.headD 0)).orows k plies).enterSlots js }).dispatchAs
          .matrix { d with slot := packSlots js, aux := packSlots plies, read := m.shapeOf js }).joinBatch d.seq []))) ∧
    (∀ as bs reads,
      let d := s.capture (.pmma f)
      let x := d.gs.bits
      let y := d.gt.bits
      let p := y.bits 21 19 + 1
      let tiles := (List.range p).map (f.dNum + ·)
      let fits (n : Nat) (j : Nat) : Prop := n ≤ (m.slot j).orows ∧ y.bits 18 12 + 1 ≤ (m.slot j).olen
      x.toNat < 2 ^ 38 → f.dNum + p ≤ 16 →
      (f.mod.getLsbD 6 = false → y.toNat < 2 ^ 23 ∧ reads = true) →
      (f.mod.getLsbD 6 = true → y.toNat < 2 ^ 27 ∧ ∃ l, m.loom = some l ∧ s.loomCheck = .ok l.members.length ∧
        y.bits 26 23 < l.members.length ∧ reads = (l.members[y.bits 26 23]? == some s.curP)) →
      (if reads then s.schedChecks (f.mod.toNat % 8) (x.bits 34 32) (x.bits 15 0) 0 p = .ok as else as = []) →
      s.schedChecks (f.mod.toNat / 8 % 8) (x.bits 37 35) (x.bits 31 16) 1 p = .ok bs →
      (∀ j ∈ as ++ bs, typeCode (m.slot j).type = .i8) → (∀ j ∈ as, fits (y.bits 5 0 + 1) j) →
      (∀ j ∈ bs, fits (y.bits 11 6 + 1) j) → (y.getLsbD 22 = false → s.groupCheck f.dNum p tiles = .ok ()) →
      (∀ t ∈ tiles, s.me.tileFree s.curT true t = true) →
      Runs (.pmma f) s (s.past (.pmma f)
        ((((s.dispatchAs .matrix { d with slot := packSlots as, aux := packSlots bs, interval := s.loomInterval }).modMe fun z =>
          z.modMtx fun m =>
          let m := m.enterSlots (as ++ bs)
          if y.getLsbD 22 = true then m.modTiles tiles fun h => { h with kind := 2, plies := p } else m).joinBatch
            d.seq tiles).countLoom (f.mod.getLsbD 6)))) ∧
    (let d := s.capture (.pjoin f)
      let x := d.gs.bits
      let e := (typeOf .f64 f).width / 8
      let p := (m.tile f.dNum).plies
      let tiles := (List.range p).map (f.dNum + ·)
      let ea := x.toNat % 2 ^ 19
      let len := joinLen x e
      x.toNat < 2 ^ 48 → x.getLsbD 19 = false → f.tNum % 4 = 0 → p ≠ 0 → f.dNum + p ≤ 16 →
      (∀ t ∈ tiles, (m.tile t).kind = 2 ∧ (m.tile t).plies = p ∧ s.me.tileFree s.curT true t = true) →
      x.bits 35 20 % 8 = 0 → (x.bits 47 42 + 1) * e ≤ x.bits 35 20 → ea % 8 = 0 → s.me.xb ≤ ea → ea + len ≤ lsEnd →
      s.me.vectorBusy s.curT ea len = false →
      Runs (.pjoin f) s (s.past (.pjoin f)
        ((s.dispatchAs .matrix { d with slot := ea, aux := 16 * len + p }).joinBatch d.seq tiles))) ∧
    (s.destFree f.dNum → Runs (.pstat f) s (s.past (.pstat f) (s.setG f.dNum { bits := s.me.accWord f.sNum })))

/-- R231, R237, R238, R240, R242: events of the matrix engine (of an instruction whose batch EXIT has not discarded, R98). A unit that holds nothing completes nothing. An MZERO that
completes leaves every element of its tile +0 without poison, and the array free. An SLDV that completes gives v[d] the 64 bytes
of its slot. A `.loom` step starts on every member once every member has accepted its own; on a broken loom it faults with code
7. The writes of a DRAIN of a pillar that is not doubled, once they are all acknowledged, end it. -/
def Sys2Proof.Claims.matrixEvents : Prop :=
  ∀ (p : PillarId) (s : State),
    let x := s.pil p
    (x.mtx.array = none → Runs (.matrixComplete p .array) s s) ∧ (x.mtx.port = none → Runs (.matrixComplete p .port) s s) ∧
    (∀ o f, x.mtx.array = some o → o.started = true → o.discarded = false → o.d.instr = .mzero f →
      ∃ t, Runs (.matrixComplete p .array) s t ∧ (t.pil p).mtx.array = none ∧
        ∀ e, e < 4096 → (t.pil p).mtx.elem f.dNum e = (0, false)) ∧
    (∀ o f, x.mtx.port = some o → o.d.instr = .sldv f → f.dNum < 32 →
      ∃ t, Runs (.matrixComplete p .port) s t ∧ (t.pil p).mtx.port = none ∧
        ((t.pil p).strand o.d.strand).vreg f.dNum =
          x.mtx.readV (8192 * (unpackSlots 16 o.d.slot).headD 0 + slotByte o.d.gs.bits)) ∧
    (∀ l d, x.mtx.loom = some l → s.waitingStep p = some d →
      (l.broken = true → Runs (.loomStepStart p) s (s.modPil p fun x => x.faultStep s.clk 7)) ∧
      (l.broken = false → x.mtx.held = false → (∃ q ∈ l.members, s.waitingStep q = none) → Runs (.loomStepStart p) s s) ∧
      (l.broken = false → (∀ q ∈ l.members, (s.waitingStep q).map loomKey = some (loomKey d)) →
        Runs (.loomStepStart p) s (l.members.foldl (fun t q => t.modPil q fun x => x.startStep (t.aclk q)
          (l.members.any fun q => (((s.pil q).mtx.array).map (·.bubble)).getD false)) s))) ∧
    ∀ t o f, x.mtx.drains.find? (fun o => o.d.strand == t) = some o → o.d.instr = .drain f →
      (∀ h ∈ s.integrity.held, ¬ (h.p = p ∧ h.t = t)) → s.drainOutgoing p o f = false →
      Runs (.drainWritesDone p t) s (s.drainOut p o f)

/-- R61, R63, R229, R235: what an integer MMA does when it completes on a pillar alone: every element (m, n) of its tile gains
the sum over k of A(m, k) × B(k, n), modulo 2^32, and the elements outside M × N keep their value. -/
def Sys2Proof.Claims.integerProduct : Prop :=
  ∀ (p : PillarId) (s : State) (o : MatrixOp) (f : Fields),
    let x := s.pil p
    let d := o.d
    let g := geometryOf d.gt.bits
    let a := (unpackSlots 16 d.slot).headD 0
    let b := (unpackSlots 16 d.slot).getD 1 0
    let term (m n k : Nat) : Int :=
      intOf d.ma (x.mtx.slotElem a (d.read.lens.headD 0) m 8 (g.k0 + k)).1 *
        intOf d.mb (if g.bkm then x.mtx.slotElem b (d.read.lens.getD 1 0) (g.c0 + n) 8 (g.k0 + k)
          else x.mtx.slotElem b (d.read.lens.getD 1 0) (g.k0 + k) 8 (g.c0 + n)).1
    x.mtx.array = some o → o.started = true → o.discarded = false → d.instr = .mma f → f.mod.getLsbD 6 = false →
    byteInt d.ma = true → byteInt d.mb = true → f.dNum < 16 →
    ∃ t, Runs (.matrixComplete p .array) s t ∧ (t.pil p).mtx.array = none ∧ ∀ m n, m < 64 → n < 64 →
      (((t.pil p).mtx.elem f.dNum (64 * m + n)).1 : Int) =
        if m < g.m ∧ n < g.n then
          (((x.mtx.elem f.dNum (64 * m + n)).1 : Int) + ((List.range g.k).map (term m n)).sum) % 4294967296
        else (x.mtx.elem f.dNum (64 * m + n)).1

/-- What completes in the matrix engine, and the values of an integer product: both parts. -/
def Obligations.MatrixCompletion : Prop := Claims.matrixEvents ∧ Claims.integerProduct

/-- The update of an accumulator C by k products (R61, R62): groups of 32 in ascending k, each an exact sum rounded once into f32,
the lanes beyond k of the last group adding an exact +0. -/
def Sys2Proof.Claims.grouped (mode c k : Nat) (term : Nat → FVal) : Nat :=
  (List.range ((k + 31) / 32)).foldl (fun c j =>
    encodeValue .f32 mode false (sumExact mode (valueOf .f32 c :: (List.range 32).map fun i =>
      if 32 * j + i < k then term (32 * j + i) else .fin false 0 0))) c

/-- An element after k products of two lists of codes: integers modulo 2^32, floating point by groups (R61, R63). -/
def Sys2Proof.Claims.accumulated (d : Dispatched) (c k : Nat) (a b : Nat → Nat) (scale : Nat → FVal → FVal) : Nat :=
  (if byteInt d.ma then (((c : Int) + ((List.range k).map fun i => intOf d.ma (a i) * intOf d.mb (b i)).sum) % 4294967296).toNat
  else Claims.grouped d.mrm c k fun i => scale i (mulExact (valueOf d.ma (a i)) (valueOf d.mb (b i)))) % 4294967296

/-- R61, R63, R229, R235, R240: what MMA and MMABS do when they complete, alone or as a step of a loom: tile d + c of the pillar gains
the product of the A slot of member c with the pillar's own B slot, element by element, under MMABS with the scales of both
blocks; the elements outside M × N keep their value. -/
def Sys2Proof.Claims.productValues : Prop :=
  ∀ (p : PillarId) (s : State) (o : MatrixOp) (f : Fields) (scaled : Bool),
    let x := s.pil p
    let d := o.d
    let g := geometryOf d.gt.bits
    let bj := (unpackSlots 16 d.slot).getD 1 0
    let bl := d.read.lens.getD 1 0
    let b (n k : Nat) : Nat :=
      (if g.bkm then x.mtx.slotElem bj bl (g.c0 + n) d.mb.width (g.k0 + k) else x.mtx.slotElem bj bl (g.k0 + k) d.mb.width (g.c0 + n)).1
    let ms := if f.mod.getLsbD 6 then ((x.mtx.loom).map (·.members)).getD [p] else [p]
    x.mtx.array = some o → o.started = true → o.discarded = false → d.instr = (if scaled then .mmabs f else .mma f) →
    (scaled = true → byteInt d.ma = false) → p ∈ ms → ms.Nodup → (∀ q ∈ ms, (s.pil q).mtx.array.isSome) →
    ∃ t, Runs (.matrixComplete p .array) s t ∧ (t.pil p).mtx.array = none ∧
      ∀ c q oq, ms[c]? = some q → (s.pil q).mtx.array = some oq → ∀ m n, m < 64 → n < 64 →
        let am := (s.pil q).mtx
        let aj := (unpackSlots 16 oq.d.slot).headD 0
        let al := oq.d.read.lens.headD 0
        let old := (x.mtx.elem (f.dNum + c) (64 * m + n)).1
        ((t.pil p).mtx.elem (f.dNum + c) (64 * m + n)).1 =
          if m < g.m ∧ n < g.n then
            Claims.accumulated d old g.k (fun k => (am.slotElem aj al m d.ma.width (g.k0 + k)).1) (b n) fun k v =>
              if scaled then mulExact v (mulExact (am.scaleOf aj al m k g.k).1 (x.mtx.scaleOf bj bl n k g.k).1) else v
          else old

/-- R236: what MMV does when it completes: element m of its row gains the product of row m of the A slot with the vector; every other
element of the tile keeps its value. -/
def Sys2Proof.Claims.vectorProduct : Prop :=
  ∀ (p : PillarId) (s : State) (o : MatrixOp) (f : Fields),
    let x := s.pil p
    let d := o.d
    let v := d.gs.bits
    let aj := (unpackSlots 16 d.slot).headD 0
    x.mtx.array = some o → o.started = true → o.discarded = false → d.instr = .mmv f →
    ∃ t, Runs (.matrixComplete p .array) s t ∧ (t.pil p).mtx.array = none ∧ ∀ e, e < 4096 →
      let old := (x.mtx.elem f.dNum e).1
      ((t.pil p).mtx.elem f.dNum e).1 =
        if e / 64 = v.bits 30 25 ∧ e % 64 < v.bits 24 19 + 1 then
          Claims.accumulated d old (v.bits 37 31 + 1)
            (fun k => (x.mtx.slotElem aj (d.read.lens.headD 0) (e % 64) d.ma.width (32 * v.bits 45 38 + k)).1)
            (fun k => ((x.strand d.strand).lane f.tNum d.mb.width k).1) fun _ v => v
        else old

/-- R228, R238: the tile port. MLD fills its rows from local store, f16 and bf16 converted exactly; MST writes its rows to local
store, rounded to its type under the captured VRM, and no other byte; SSTV writes the 64 bytes of v[d] into its slot, and a seal
stamps the header and hands the slot on. -/
def Sys2Proof.Claims.tilePort : Prop :=
  ∀ (p : PillarId) (s : State) (o : MatrixOp) (f : Fields),
    let x := s.pil p
    let d := o.d
    let ty := typeCode (BitVec.ofNat 4 (d.aux % 16))
    let e := ty.width / 8
    let first := 64 * moveRow0 f
    let count := 64 * moveRows f
    let plain := ty = .i32 ∨ ty = .f32
    x.mtx.port = some o →
    (d.instr = .mld f → ty = .i32 ∨ moveFloat ty = true → first + count ≤ 4096 →
      ∃ t, Runs (.matrixComplete p .port) s t ∧ (t.pil p).mtx.port = none ∧ ∀ i, i < 4096 →
        (first ≤ i ∧ i < first + count →
          let v := x.ls.bytes.read (d.slot + (i - first) * e) e
          (plain → ((t.pil p).mtx.elem f.dNum i).1 = v) ∧
          (¬ plain → ((t.pil p).mtx.elem f.dNum i).1 = encodeValue .f32 0 false (valueOf ty v) % 4294967296)) ∧
        (i < first ∨ first + count ≤ i → (t.pil p).mtx.elem f.dNum i = x.mtx.elem f.dNum i)) ∧
    (d.instr = .mst f → ty = .i32 ∨ moveFloat ty = true →
      ∃ t, Runs (.matrixComplete p .port) s t ∧ (t.pil p).mtx.port = none ∧
        (∀ i, i < count →
          let v := (x.mtx.elem f.dNum (first + i)).1
          (plain → (t.pil p).ls.bytes.read (d.slot + i * e) e = v) ∧
          (¬ plain → (t.pil p).ls.bytes.read (d.slot + i * e) e =
            encodeValue ty (d.fmt.toNat % 4) false (valueOf .f32 v) % 2 ^ (8 * e))) ∧
        (∀ a, a < d.slot ∨ d.slot + count * e ≤ a → (t.pil p).ls.bytes.get a = x.ls.bytes.get a) ∧
        (∀ a, t.mem.get a = s.mem.get a) ∧ ∀ q, q ≠ p → (t.pil q).ls = (s.pil q).ls) ∧
    (d.instr = .sstv f → d.aux < 32 →
      let v := d.gs.bits
      let a := 8192 * d.aux + v.bits 12 0
      ∃ t, Runs (.matrixComplete p .port) s t ∧ (t.pil p).mtx.port = none ∧
        (t.pil p).mtx.slotBytes.read a 64 = ((x.strand d.strand).vreg f.dNum).bits.toNat ∧
        (∀ b, b < a ∨ a + 64 ≤ b → (t.pil p).mtx.slotBytes.get b = x.mtx.slotBytes.get b) ∧
        (f.mod.getLsbD 3 = true → (t.pil p).mtx.slot d.aux =
          { x.mtx.slot d.aux with
            tag := BitVec.ofNat 16 (v.bits 63 48), type := BitVec.ofNat 4 (v.bits 47 44), orows := v.bits 43 30
            olen := v.bits 29 16, state := 2 }) ∧
        (f.mod.getLsbD 3 = false → (t.pil p).mtx.slot d.aux = x.mtx.slot d.aux))

/-- The values that the products, MMV and the tile port leave: three parts. -/
def Obligations.MatrixValues : Prop := Claims.productValues ∧ Claims.vectorProduct ∧ Claims.tilePort

/-- The plies of an integer, ply 1 first: the digits to the base 128 that R247 gives, all but the first from -64 to 63. -/
def Sys2Proof.Claims.pliesAre (x : Int) (p : Nat) (ds : List Int) : Prop :=
  ds.length = p ∧ ds.foldl (fun a d => 128 * a + d) 0 = x ∧ ∀ d ∈ ds.drop 1, -64 ≤ d ∧ d ≤ 63

/-- R247, R248, R249, R250: a PSPLIT completes. The scan form leaves in lane r of the scale pair the greater of it and the code of
row r. A split whose rows all lie within their given codes writes to byte k of row r of every ply slot its digit of the element's
integer, zero where a code is the zero or the special one, and fills the slots; otherwise it ends with a late fault and its slots
are void. -/
def Sys2Proof.Claims.splitValues : Prop :=
  ∀ (p : PillarId) (s : State) (o : MatrixOp) (f : Fields),
    let x := s.pil p
    let d := o.d
    let r := x.strand d.strand
    let plies := unpackSlots 16 d.aux
    let ty := typeCode d.read.type
    let row (n : Nat) : List FVal := (x.mtx.splitRow ((unpackSlots 16 d.slot).zip d.read.lens) ty n).map (·.1)
    let lane (n : Nat) : Int := (r.scaleLane f.tNum n).1
    let refused (n : Nat) : Prop := n < d.read.rows ∧ plyRange (rowCode (row n)) (lane n) = true
    x.mtx.array = some o → o.started = true → d.instr = .psplita f ∨ d.instr = .psplitb f → f.tNum < 31 → d.read.rows ≤ 64 →
    (f.mod.getLsbD 6 = true → ∃ t, Runs (.matrixComplete p .array) s t ∧ (t.pil p).mtx.array = none ∧ ∀ n, n < 64 →
      (((t.pil p).strand d.strand).lane f.tNum 16 n).1 =
        if n < d.read.rows then ((max (lane n) (rowCode (row n))) % 65536).toNat else (r.lane f.tNum 16 n).1) ∧
    (f.mod.getLsbD 6 = false → (∀ n, ¬ refused n) → plies ≠ [] → plies.Nodup → (∀ j ∈ plies, j < 32) → (∀ n, (row n).length ≤ 128) →
      ∃ t, Runs (.matrixComplete p .array) s t ∧ (t.pil p).mtx.array = none ∧
        (∀ j ∈ plies, ((t.pil p).mtx.slot j).state = 2) ∧
        ∀ n k v, n < d.read.rows → (row n)[k]? = some v → ∃ ds,
          (if lane n = 0x7FFF ∨ lane n = -0x8000 ∨ rowCode (row n) = -0x8000 then ds = plies.map fun _ => 0
            else Claims.pliesAre (nearestInt (mulExact v (.fin false 1 (7 * plies.length - lane n)))) plies.length ds) ∧
          ∀ i j, plies[i]? = some j →
            (t.pil p).mtx.slotBytes.get (8192 * j + 128 * n + k) = BitVec.ofInt 8 (ds.getD i 0)) ∧
    (f.mod.getLsbD 6 = false → (∃ n, refused n) → (∀ j ∈ plies, j < 32) →
      ∃ t, Runs (.matrixComplete p .array) s t ∧ (t.pil p).mtx.array = none ∧ ((t.pil p).strand d.strand).v = r.v ∧
        (∀ j ∈ plies, ((t.pil p).mtx.slot j).state = 3) ∧ ∃ e ∈ ((t.pil p).strand d.strand).lates, e.cause = 0x31)

/-- R252, R254, R255: a slice pair of a PMMA is done. Tile d + i + j - 2 gains the exact integer products of ply i of A, the root's
under `.loom`, with ply j of the pillar's own B, modulo 2^32; the first pair of a FIRST starts from zero in the whole group. PAIR
goes up; after the last pair it is zero, STEPS has gone up and the array is free. -/
def Sys2Proof.Claims.pairValues : Prop :=
  ∀ (p : PillarId) (s : State) (o oq : MatrixOp) (f : Fields) (q : PillarId) (i j : Nat),
    let x := s.pil p
    let d := o.d
    let y := d.gt.bits
    let n := y.bits 21 19 + 1
    let at_ := (x.mtx.tile f.dNum).pair
    let fresh := at_ = 0 ∧ y.getLsbD 22 = true
    let ms := if f.mod.getLsbD 6 then ((x.mtx.loom).map (·.members)).getD [p] else [p]
    let aj := (unpackSlots 16 oq.d.slot).getD (i - 1) 0
    let bj := (unpackSlots 16 d.aux).getD (j - 1) 0
    let last := (slicePairs n).length ≤ at_ + 1
    let steps (u : Nat) : Nat := if fresh then 0 else (x.mtx.tile (f.dNum + u)).steps
    x.mtx.array = some o → o.started = true → o.discarded = false → d.instr = .pmma f → f.dNum + n ≤ 16 → p ∈ ms → ms.Nodup →
    (if f.mod.getLsbD 6 then ms.getD (y.bits 26 23) p else p) = q → (s.pil q).mtx.array = some oq →
    (slicePairs n)[at_]? = some (i, j) →
    ∃ t, Runs (.matrixComplete p .array) s t ∧
      (∀ u, u < n → (∀ a b, a < 64 → b < 64 →
        let old := if fresh then 0 else (x.mtx.elem (f.dNum + u) (64 * a + b)).1
        (((t.pil p).mtx.elem (f.dNum + u) (64 * a + b)).1 : Int) =
          if u + 2 = i + j ∧ a < y.bits 5 0 + 1 ∧ b < y.bits 11 6 + 1 then
            ((old : Int) + ((List.range (y.bits 18 12 + 1)).map fun k =>
              intOf .i8 ((s.pil q).mtx.slotElem aj 128 a 8 k).1 * intOf .i8 (x.mtx.slotElem bj 128 b 8 k).1).sum) % 4294967296
          else old) ∧
        ((t.pil p).mtx.tile (f.dNum + u)).pair = (if last then 0 else at_ + 1) ∧
        ((t.pil p).mtx.tile (f.dNum + u)).steps = if last then steps u + 1 else steps u) ∧
      (last → (t.pil p).mtx.array = none)

/-- R56, R66, R248, R251, R256: a row of a PJOIN is done. Element (row, n) becomes the sum of the group's elements, each times 2 to the
power of both codes less 7 (u + 2), exactly, with the old value under `.add`, rounded once; a NaN under a special code; no other
byte of local store changes. -/
def Sys2Proof.Claims.joinValues : Prop :=
  ∀ (p : PillarId) (s : State) (o : MatrixOp) (f : Fields) (n : Nat),
    let x := s.pil p
    let d := o.d
    let v := d.gs.bits
    let r := x.strand d.strand
    let ty := typeOf .f64 f
    let e := ty.width / 8
    let row := (x.mtx.tile f.dNum).pair
    let base := v.bits 18 0 + row * v.bits 35 20
    let ga := (r.scaleLane f.tNum row).1
    let gb := (r.scaleLane (f.tNum + 2) n).1
    let zero := ga = -0x8000 ∨ gb = -0x8000
    let term (u : Nat) : FVal :=
      mulExact (.ofInt (intOf .i32 (x.mtx.elem (f.dNum + u) (64 * row + n)).1)) (.fin false 1 (ga + gb - 7 * (u + 2)))
    let sum := sumExact d.mrm ((if zero then [] else (List.range (d.aux % 16)).map term) ++
      if f.mod.getLsbD 0 then [valueOf ty (x.ls.bytes.read (base + n * e) e)] else [])
    let value : FVal := if ga = 0x7FFF ∨ gb = 0x7FFF then .nan else match sum with | .fin _ 0 _ => .fin (d.mrm == 2) 0 0 | z => z
    x.mtx.array = some o → o.started = true → d.instr = .pjoin f → (Instr.pjoin f).wf = true → n < v.bits 47 42 + 1 →
    ∃ t, Runs (.matrixComplete p .array) s t ∧
      (t.pil p).ls.bytes.read (base + n * e) e =
        encodeValue ty d.mrm (f.flags / 4 % 2 == 1) value % 2 ^ ty.width ∧
      ∀ a, a < base ∨ base + (v.bits 47 42 + 1) * e ≤ a → (t.pil p).ls.bytes.get a = x.ls.bytes.get a

/-- The values that the ply instructions leave: three parts. -/
def Obligations.PlyValues : Prop := Claims.splitValues ∧ Claims.pairValues ∧ Claims.joinValues

/-! ## Drafts and the shuttle -/

/-- R270, R279: DRAFT and DRAFTREL. A misaligned draft address traps. With a draft installed for the rectangle or half the code
is 1; a draft that the checks refuse gives the code with its index and pillar; one that passes is installed, with code 0.
DRAFTREL without a draft gives 0; with one it cancels what has not started, and once nothing is queued or moving it frees the
draft and gives the number cancelled; until then it waits. -/
def Obligations.DraftInstallAndRelease : Prop :=
  ∀ (f : Fields) (s : State), s.destFree f.dNum →
    let va := (s.g f.sNum).bits
    let gives (s' : State) (v : Nat) : State := s.past (.draft f) (s'.setG f.dNum { bits := word v })
    (va.toNat % 32 ≠ 0 → Traps (.draft f) s 0x1A va) ∧
    (va.toNat % 32 = 0 → (s.draftOf s.curP).isSome → Runs (.draft f) s (gives s 1)) ∧
    (va.toNat % 32 = 0 → s.draftOf s.curP = none →
      (∀ s' c i q, s.checkDraft s.curP s.walker va true = .ok (s', .refused c i q) →
        Runs (.draft f) s (gives s' (c + i * 2 ^ 16 + q * 2 ^ 32))) ∧
      ∀ s' es, s.checkDraft s.curP s.walker va true = .ok (s', .installed es) →
        Runs (.draft f) s (gives (s'.installEntries s.curP va es) 0)) ∧
    (s.draftOf s.curP = none → Runs (.draftrel f) s (s.past (.draftrel f) (s.setG f.dNum { bits := 0 }))) ∧
    ∀ d, s.draftOf s.curP = some d →
      let s' := s.cancelQueued d
      let d' := (s'.draftOf s.curP).getD d
      ((∀ e ∈ d'.entries, 4 ≤ e.state) →
        ∃ t, Runs (.draftrel f) s t ∧ (∀ e ∈ t.drafts, e.number ≠ d'.number) ∧
          (f.dNum ≠ 0 → f.dNum < 64 →
            t.st.reg f.dNum = { bits := word (d'.entries.filter fun e => e.state == 6).length })) ∧
      ((∃ e ∈ d'.entries, e.state < 4) → Runs (.draftrel f) s (s'.modSt fun r => { r with blocked := .wait (.draftrel f) }))

/-- R276, R277, R278: PICK n raises PICKNO to n, and with every entry of the pillar that is due by n done, or with no draft, it
goes on. A failed one of them is the draft fault. One that is not done stalls the strand under DSTALL and is the late-draft
fault without. -/
def Sys2Proof.Claims.pickResults : Prop :=
  ∀ (f : Fields) (s : State),
    let n := f.immU
    let s' := s.modMe fun x => { x with pickNo := BitVec.ofNat 32 (max x.pickNo.toNat n) }
    let due (d : Draft) (i : Nat) (e : DraftEntry) : Prop := d.entries[i]? = some e ∧ e.pillar = s.curP ∧ e.due ≤ n
    ((s'.draftOf s.curP = none ∨ ∃ d, s'.draftOf s.curP = some d ∧ ∀ i e, due d i e → e.state = 4) →
      Runs (.pick f) s ((s.past (.pick f) s').count 0x490)) ∧
    ∀ d, s'.draftOf s.curP = some d →
      (∀ i e, due d i e → e.state = 5 → (∀ j e', j < i → due d j e' → e'.state ≠ 5) →
        Runs (.pick f) s (s'.takeTrap { cause := 0x39, tval := word (i + e.err * 2 ^ 16) })) ∧
      (∀ i e, due d i e → e.state ≠ 4 → (∀ j e', due d j e' → e'.state ≠ 5) → (∀ j e', j < i → due d j e' → e'.state = 4) →
        ((s'.count 0x491).dstall s.curP = true →
          Runs (.pick f) s ((s'.count 0x491).modSt fun r => { r with blocked := .wait (.pick f) })) ∧
        ((s'.count 0x491).dstall s.curP = false →
          Runs (.pick f) s ((s'.count 0x491).takeTrap { cause := 0x38, tval := word (i + n * 2 ^ 16) })))

/-- R275, R280, R282: the status that DRSTAT gives at once, and DRWAIT once the state it shows is 4 or more. An entry handle names
an entry of the installed draft, and reads 7 without one or at an index beyond its entries; a command handle names a command slot,
and reads 4 once the slot has another generation or holds no command. That a completed command keeps its status while its
generation is current, and the state shown, are inferences of the model (log entries 55 and 56). -/
def Sys2Proof.Claims.draftStatusResults : Prop :=
  ∀ (f : Fields) (s : State), s.destFree f.dNum →
    let h := (s.g f.sNum).bits.toNat % 2 ^ 16
    let v := s.handleStatus h
    Runs (.drstat f) s (s.past (.drstat f) (s.setG f.dNum { bits := v })) ∧
    (4 ≤ v.toNat % 16 → Runs (.drwait f) s (s.past (.drwait f) (s.setG f.dNum { bits := v }))) ∧
    (v.toNat % 16 < 4 → Waits (.drwait f) s) ∧
    (h < 2 ^ 15 → s.draftOf s.curP = none → v = 7) ∧
    (∀ d, h < 2 ^ 15 → s.draftOf s.curP = some d → d.entries[h % 2 ^ 12]? = none → v = 7) ∧
    (2 ^ 15 ≤ h → (s.me.cmd (h % 16)).command = none → v = 4) ∧
    (∀ d e, h < 2 ^ 15 → s.draftOf s.curP = some d → d.entries[h % 2 ^ 12]? = some e → v = s.statusOf e) ∧
    (2 ^ 15 ≤ h → (s.me.cmd (h % 16)).gen.toNat ≠ h / 16 % 2 ^ 11 → v = 4) ∧
    ∀ e, 2 ^ 15 ≤ h → (s.me.cmd (h % 16)).gen.toNat = h / 16 % 2 ^ 11 → (s.me.cmd (h % 16)).command = some e →
      v = s.statusOf e

/-- PICK, and the status of drafts and commands: both parts. -/
def Obligations.PickAndDraftStatus : Prop := Claims.pickResults ∧ Claims.draftStatusResults

/-- R282: the direct commands. A well-formed command whose vault range lies in the rectangle, whose residency is not refused
and for which a command slot is free takes the lowest free slot (the model's choice, log entry 115) under its next generation, changes PINBASE if it is a pin or
unpin, gives its handle, and starts; a refused pin gives 0; with no free slot the strand waits, a pin with PINBASE changed. (In a doubled job a fetch or
evict is compared first and is not stated here.) -/
def Obligations.DirectCommandResults : Prop :=
  ∀ c ∈ [((Instr.dfetch : Fields → Instr), 0), (.devict, 1), (.dpin, 2), (.dunpin, 3)], ∀ (f : Fields) (s : State),
    s.destFree f.dNum → ∀ e s' p, s.readCommand (s.g f.sNum).bits c.2 = .ok e → s.commandPillar e = .ok (s', p) →
    let i := c.1 f
    (s'.pinResult p e = none → Runs i s (s.past i (s'.setG f.dNum { bits := 0 }))) ∧
    ∀ pin, s'.pinResult p e = some pin →
      ((∀ j, j < 16 → (s'.me.cmd j).free = false) →
        (c.2 < 2 → Waits i s) ∧
        (2 ≤ c.2 → Runs i s ((s'.modPil p fun x => { x with pinBase := pin }).modSt fun r =>
          { r with blocked := .pinned i { e with pillar := p, state := 0 } }))) ∧
      ∀ j, j < 16 → (s'.me.cmd j).free = true → (∀ k, k < j → (s'.me.cmd k).free = false) →
        c.2 ≥ 2 ∨ s.twinned s.curP = false →
        ∃ t, Runs i s t ∧ t.st.pc = s.nextPc i ∧
          (f.dNum ≠ 0 → f.dNum < 64 → t.st.reg f.dNum =
            { bits := word (2 ^ 15 + ((s'.me.cmd j).gen + 1).toNat * 16 + j) }) ∧
          (t.me.cmd j).gen = (s'.me.cmd j).gen + 1 ∧
          (t.me.cmd j).command = some { e with pillar := p, state := 2 } ∧ (t.pil p).pinBase = pin

/-- R274, R275, R281, R282, R283: events of the shuttles. A command that has moved all its bytes, or a pin, is done, and one that
has failed frees its slot with a late fault. An entry of a draft that has moved all its bytes with no block waiting is done. A
pillar's PICKNO triggers the entries it has reached. A block move of work that can
move gives what the move of its block gives; a handle whose work cannot move changes nothing. RETRY of a record whose page is
now plain writes the block and frees the record. DROP frees a growth record
and fails its entry with ERR 5. RETRY of a free record does nothing. -/
def Obligations.ShuttleEvents : Prop :=
  ∀ (p : PillarId) (s : State),
    (∀ (j : BitVec 4) e, ((s.pil p).cmd j.toNat).command = some e → e.state = 2 →
      let c := (s.pil p).cmd j.toNat
      (e.err = 0 → 2 ≤ e.op ∨ (e.moved * 64 = e.len ∧ e.grown = 0) →
        Runs (.directCommandComplete p j) s
          ((s.modPil p fun x => x.modCmd j.toNat fun c => { c with command := some { e with state := 4 } }).modQueue
            (stackOf e.pillar) fun l => l.filter (· != .command p j.toNat))) ∧
      (e.err ≠ 0 → Runs (.directCommandComplete p j) s
        ((s.modPil p fun x => x.modCmd j.toNat fun c => { c with command := some { e with state := 5 } }).raiseUnringed p
          c.strand c.seq c.lvl (.trap 0x3A (word (2 ^ 15 + c.gen.toNat * 16 + j.toNat + e.err * 2 ^ 16)))))) ∧
    (s.draftOf p = none → Runs (.draftEntryTrigger p) s s) ∧
    (∀ d, s.draftOf p = some d →
      Runs (.draftEntryTrigger p) s (s.trigger d.number fun e => e.pillar == p && e.trigger ≤ (s.pil p).pickNo.toNat)) ∧
    (∀ d i e, s.draftOf p = some d → d.entries[i]? = some e →
      (e.state = 2 → e.len ≤ e.moved * 64 → e.grown = 0 → Runs (.draftEntryComplete p i) s
        ((s.modEntry d.number i fun e => { e with state := 4 }).modQueue (stackOf e.pillar) fun l =>
          l.filter (· != .entry d.number i))) ∧
      (e.state ≠ 2 → Runs (.draftEntryComplete p i) s s)) ∧
    (∀ h w e, s.workOf p h = some w → s.workEntry w = some e → s.canMove w e = false → Runs (.shuttleBlockMove p h) s s) ∧
    (∀ h w e, s.workOf p h = some w → s.workEntry w = some e → s.canMove w e = true →
      let last := ((s.movers (stackOf e.pillar)).getLast?).getD w
      let s1 := (s.modWork w fun e => { e with state := 2 }).modQueue (stackOf e.pillar) (rotateWork w last)
      let k := s.shuttleWalker w e.pillar
      (∀ s2, e.z = false → State.moveParts w k (s.vaultOk w e) 64 s1 { e with state := 2 } = (s2, none) →
        Runs (.shuttleBlockMove p h) s s2) ∧
      ∀ s2, e.z = true → s1.moveCompressed w k (s.vaultOk w e) { e with state := 2 } = .ok s2 →
        Runs (.shuttleBlockMove p h) s s2) ∧
    ∀ (st : BitVec 2) (n : BitVec 6),
      ((s.stack st.toNat).shuttle.records.get? n.toNat = none → Runs (.ovfRetry st n) s s ∧ Runs (.ovfDrop st n) s s) ∧
      (∀ g s' x a, (s.stack st.toNat).shuttle.records.get? n.toNat = some g → g.request = none →
        let g' := { g with retrying := true }
        let s0 := s.setGrowth st.toNat n.toNat g'
        s0.moveXlate (s0.growthWalker st.toNat g') .write g.va 1 = .ok (s', x) → placeOf x.pa = .tier a →
        x.entry.allot = 0 →
        Runs (.ovfRetry st n) s
          (((s'.physWrite x.pa 4096 (g.block.read 0 4096) false).settleGrowth g').freeGrowth st.toNat n.toNat)) ∧
      ∀ g, (s.stack st.toNat).shuttle.records.get? n.toNat = some g →
        Runs (.ovfDrop st n) s (((s.settleGrowth g).failGrowth g 5).freeGrowth st.toNat n.toNat)

/-! ## Messages and procedures -/

/-- The procedures with an address in memory, and the alignment of each (R303-R308). -/
def Sys2Proof.Claims.remotes : List ((Fields → Instr) × (Fields → Nat)) :=
  [(.rld, fun f => (typeOf .i64 f).width / 8), (.rst, fun f => (typeOf .i64 f).width / 8), (.ramo, fun f => 2 ^ (f.mod.toNat % 4)),
   (.rcas, fun f => 2 ^ (f.mod.toNat % 4)), (.rdecw, fun _ => 16), (.rwadd, fun _ => 64), (.rwrd, fun _ => 64),
   (.rfadd, fun f => (typeOf .f64 f).width / 8)]

/-- The general registers that a procedure writes when it ends (R303, R305, R307). -/
def Sys2Proof.Claims.returned (i : Instr) : List Nat :=
  match i with
  | .rld f | .rcas f => [f.dNum]
  | .ramo f | .rfadd f | .rdecw f => if f.flags % 2 = 1 then [] else [f.dNum]
  | .rwrd f => [f.dNum, f.dNum + 1]
  | _ => []

/-- The strand has fewer than 16 procedures outstanding, and the message port has room for one (R93, R303). -/
def Sys2Proof.Claims.portFree (s : State) : Prop := s.me.outstandingOf s.curT < 16 ∧ s.canDispatch .message = true

/-- R93, R299, R303-R309: the twelve forms of the message port, RLD, RST, RAMO, RCAS, RDECW, RWADD, RWRD, RFADD, RFILL, RSIG, RCOPY
and SEND, complete (`exec` answers the next state given) under conditions on the state and the operands alone: with room at the port, and
with operands that pass the instruction's own checks, the instruction joins the port's queue and counts as outstanding, the registers it
will write become pending, and the strand goes on. Without room it waits; with operands that fail a check it traps. A SEND traps with
0x13 or 0x14 where its payload leaves the local store or begins below XB, and a SEND with .rel waits until the strand's earlier work is
done. -/
def Obligations.MessageDispatch : Prop :=
  ∀ (f : Fields) (s : State),
    (∀ e ∈ Claims.remotes, s.addrClean f → (∀ d ∈ Claims.returned (e.1 f), s.destFree d) →
      let ea := s.effAddr f
      (ea.toNat % e.2 f ≠ 0 → Traps (e.1 f) s 0x1A ea) ∧
      (ea.toNat % e.2 f = 0 →
        (Claims.portFree s → Runs (e.1 f) s
          (s.past (e.1 f) (s.dispatchProc (e.1 f) ea.toNat (packValue (s.g (f.dNum + 1)))))) ∧
        (¬ Claims.portFree s → Waits (e.1 f) s))) ∧
    (s.addrClean f →
      let ea := s.effAddr f
      let ok := ea.toNat / 2 ^ 58 = 0 ∧ ea.toNat / 2 ^ 19 % 2 ^ 29 = 0 ∧ ea.toNat % 8 = 0
      (ok → Claims.portFree s → Runs (.rfill f) s (s.past (.rfill f) (s.dispatchProc (.rfill f) ea.toNat 0))) ∧
      (ok → ¬ Claims.portFree s → Waits (.rfill f) s) ∧
      (¬ ok → Traps (.rfill f) s 0x61 2)) ∧
    (let a := (s.g (rrA f)).bits
     (a.toNat < 2 ^ 10 → Claims.portFree s →
       Runs (.rsig f) s (s.past (.rsig f) (s.dispatchProc (.rsig f) a.toNat (packValue (s.g (rrB f)))))) ∧
     (a.toNat < 2 ^ 10 → ¬ Claims.portFree s → Waits (.rsig f) s) ∧
     (2 ^ 10 ≤ a.toNat → Traps (.rsig f) s 0x61 2)) ∧
    (let a := (s.g (rrA f)).bits
     let b := (s.g (rrB f)).bits
     let ok := b.toNat / 2 ^ 58 = 0 ∧ b.toNat / 2 ^ 45 % 8 = 0 ∧ b.toNat / 2 ^ 19 % 2 ^ 13 = 0 ∧ b.toNat % 64 = 0 ∧
       1 ≤ b.toNat / 2 ^ 32 % 2 ^ 13 ∧ b.toNat / 2 ^ 32 % 2 ^ 13 ≤ 6144
     (a.toNat % 64 = 0 → ok → Claims.portFree s →
       Runs (.rcopy f) s (s.past (.rcopy f) (s.dispatchProc (.rcopy f) a.toNat b.toNat))) ∧
     (a.toNat % 64 = 0 → ok → ¬ Claims.portFree s → Waits (.rcopy f) s) ∧
     (a.toNat % 64 ≠ 0 → Traps (.rcopy f) s 0x1A a) ∧
     (a.toNat % 64 = 0 → ¬ ok → Traps (.rcopy f) s 0x61 3)) ∧
    (let a := (s.g (rrA f)).bits
     let b := (s.g (rrB f)).bits
     let len := b.toNat / 2 ^ 19 % 2 ^ 10
     let ok := a.toNat < 2 ^ 11 ∧ (a.toNat / 2 ^ 10 = 1 → a.toNat / 2 ^ 4 % 2 ^ 6 = 0 ∧ f.mod.toNat % 4 = 0) ∧
       b.toNat < 2 ^ 29 ∧ b.toNat % 8 = 0 ∧ len % 8 = 0 ∧ len ≤ 512
     let at' := b.toNat % 2 ^ 19
     let fits := len = 0 ∨ (s.me.xb ≤ at' ∧ at' + len ≤ lsEnd)
     let ready := (f.mod.toNat / 4 % 2 = 1 → s.workDone = true ∧ s.fenceDone 4 15 = true) ∧ Claims.portFree s
     (ok → fits → ready → Runs (.send f) s (s.past (.send f) (s.dispatchProc (.send f) a.toNat b.toNat))) ∧
     (ok → fits → ¬ ready → Waits (.send f) s) ∧
     (ok → len ≠ 0 → lsEnd < at' + len → Traps (.send f) s 0x13 (word at')) ∧
     (ok → len ≠ 0 → at' + len ≤ lsEnd → at' < s.me.xb → Traps (.send f) s 0x14 (word at')) ∧
     (¬ ok → Traps (.send f) s 0x61 1)) ∧
    ∀ i a b,
      let t := s.dispatchProc i a b
      (t.me.msg.unit.queue s.curT) = (s.me.msg.unit.queue s.curT) ++ [{ s.capture i with slot := a, aux := b }] ∧
        t.me.msg.outstanding = s.me.msg.outstanding ++ [(s.curT, s.me.seqCounter)] ∧ t.me.seqCounter = s.me.seqCounter + 1 ∧
        t.st.g = s.st.g ∧ SameBytes s t ∧
        ∀ d, d ∈ t.st.pending ↔ d ∈ s.st.pending ∨ (d ≠ 0 ∧ d ∈ Claims.returned i)

/-- R310, R300: RWAIT, RECV and RECVP. RWAIT writes the number of outstanding page 9 instructions once it is at most the limit
and no late fault is to be delivered; until then it waits, or in fibre code the fibre parks. RECV and RECVP take the oldest
message of an inbox: its words are written to local store, full and with their poison, and g[d] gets the source, whether it is
the host's, and the length. With an empty inbox RECV waits and RECVP writes -1. -/
def Obligations.MessageReceipt : Prop :=
  ∀ (f : Fields) (s : State), s.destFree f.dNum →
    let n := s.me.outstandingOf s.curT
    let limit := (s.g f.sNum).bits.toNat % 32
    (n ≤ limit → s.st.deliverable = none →
      Runs (.rwait f) s (s.past (.rwait f) (s.setG f.dNum { bits := word n }))) ∧
    (limit < n → s.st.inFibre = false → Waits (.rwait f) s) ∧
    (limit < n → s.st.inFibre = true → s.st.deliverable = none → ∃ t, Runs (.rwait f) s t ∧
      (t.me.fibre s.st.slot).state = .parked ∧ (t.me.fibre s.st.slot).pc = s.nextPc (.rwait f)) ∧
    let a := (s.g f.sNum).bits
    let box := f.mod.toNat % 4
    (¬ (a.toNat < 2 ^ 19 ∧ a.toNat % 8 = 0) → Traps (.recv f) s 0x61 1 ∧ Traps (.recvp f) s 0x61 1) ∧
    (a.toNat < 2 ^ 19 → a.toNat % 8 = 0 → s.me.xb ≤ a.toNat → a.toNat + 512 ≤ lsEnd →
      ((s.me.inbox box).messages = [] →
        Waits (.recv f) s ∧ Runs (.recvp f) s (s.past (.recvp f) (s.setG f.dNum { bits := -1 }))) ∧
      ∀ m ms i, (s.me.inbox box).messages = m :: ms → i ∈ [Instr.recv f, .recvp f] →
        s.me.vectorBusy s.curT a.toNat m.len = false →
        ∃ t, Runs i s t ∧ t.st.pc = s.nextPc i ∧ (t.me.inbox box).messages = ms ∧
          (f.dNum ≠ 0 → f.dNum < 64 → t.st.reg f.dNum =
            { bits := word (m.src + (if m.fromHost then 2 ^ 10 else 0) + m.len * 2 ^ 16) }) ∧
          ∀ j v, m.payload[j]? = some v →
            t.me.ls.load (a.toNat + 8 * j) 8 = (v.bits.toNat, v.bad) ∧ t.me.isFull (a.toNat + 8 * j) = true)

/-- A procedure of an instruction at an address of a vault that its request reaches. -/
def Sys2Proof.Claims.atVault (s : State) (r : Procedure) (q : PillarId) (pa : Nat) : Prop :=
  (∃ q' off, r.place = .vault q' off) ∧ s.reach r.p (placePa r.place) r.va = .ok pa ∧ ∃ off, placeOf pa = .vault q off

/-- R304, R305, R306, R307: what an agent does to the bytes of its vault. RLD returns them extended, RST leaves the low
bytes of g[d], RAMO and RCAS leave what their operations give and return the old value. RDECW subtracts, and where a positive
counter reaches zero or less and the wake word is armed, disarms it and writes the signal value into local store, full. RWADD
with init leaves a cell whose header is g[d] and whose sum is zero. -/
def Sys2Proof.Claims.agentResults : Prop :=
  ∀ (s : State) (r : Procedure) (q : PillarId) (pa : Nat), Claims.atVault s r q pa →
    (∀ f, r.instr = .rld f → ∃ t b, s.performProc r = .ok (t, b, {}) ∧ SameBytes s t ∧
      b.bits = Claims.extended (isSignedType (typeOf .i64 f)) ((typeOf .i64 f).width / 8)
        (s.mem.read pa ((typeOf .i64 f).width / 8))) ∧
    (∀ f, r.instr = .rst f → ∃ t b, s.performProc r = .ok (t, b, {}) ∧
      Claims.memoryBut s t pa ((typeOf .i64 f).width / 8) ∧
      t.mem.read pa ((typeOf .i64 f).width / 8) = r.x.bits.toNat % 2 ^ (8 * ((typeOf .i64 f).width / 8))) ∧
    (∀ f, r.instr = .ramo f ∨ r.instr = .rcas f →
      let n := 2 ^ (f.mod.toNat % 4)
      let old := s.mem.read pa n
      let a := r.x.bits.toNat % 2 ^ (8 * n)
      ∃ t b, s.performProc r = .ok (t, b, {}) ∧ Claims.memoryBut s t pa n ∧
        b.bits = Claims.extended (f.mod.getLsbD 2) n old ∧
        (r.instr = .ramo f → t.mem.read pa n = Claims.atomicSpec (f.mod.toNat / 8 % 16) n old a) ∧
        (r.instr = .rcas f → t.mem.read pa n = if old = a then r.y.bits.toNat % 2 ^ (8 * n) else old)) ∧
    (∀ f, r.instr = .rdecw f →
      let c := (BitVec.ofNat 64 (s.mem.read pa 8)).toInt
      let w := s.mem.read (pa + 8) 8
      let a := w % 2 ^ 19
      (w / 2 ^ 19 % 2 ^ 13 ≠ 0 → ∃ v, s.performProc r = .error (0x60, v)) ∧
      (w / 2 ^ 19 % 2 ^ 13 = 0 → a % 8 = 0 → (s.pil q).xb ≤ a → a + 8 ≤ lsEnd →
        ∃ t b, s.performProc r = .ok (t, b, {}) ∧ Claims.memoryBut s t pa 16 ∧ b.bits = BitVec.ofInt 64 c ∧
          BitVec.ofNat 64 (t.mem.read pa 8) = BitVec.ofInt 64 (c - r.k) ∧
          (0 < c ∧ c - r.k ≤ 0 ∧ 2 ^ 63 ≤ w → t.mem.read (pa + 8) 8 = w - 2 ^ 63 ∧
            (t.pil q).ls.bytes.read a 8 = w / 2 ^ 32 % 2 ^ 31 ∧ (t.pil q).isFull a = true) ∧
          (¬ (0 < c ∧ c - r.k ≤ 0 ∧ 2 ^ 63 ≤ w) → t.mem.read (pa + 8) 8 = w ∧ ∀ p, (t.pil p).ls = (s.pil p).ls))) ∧
    ∀ f, r.instr = .rwadd f → f.flags / 2 % 2 = 1 → initOk r.x.bits.toNat (typeOf .f64 f) = true →
      ∃ t, s.performProc r = .ok (t, {}, {}) ∧ Claims.memoryBut s t pa 64 ∧ t.mem.read pa 64 = r.x.bits.toNat * 2 ^ 448

/-- The number that the low n bits of a natural number stand for in two's complement. -/
def Sys2Proof.Claims.twos (n v : Nat) : Int := (BitVec.ofNat n v).toInt

/-- A header describes a cell of a type (R67): KIND, the exponent and the reserved bits. -/
def Sys2Proof.Claims.describes (h : Nat) (t : EType) : Prop :=
  let e := Claims.twos 12 (h / 2 ^ 40)
  h / 2 ^ 52 % 2 ^ 10 = 0 ∧ h / 2 ^ 5 % 2 ^ 35 = 0 ∧
    (t = .f32 ∧ h / 2 ^ 62 % 4 = 1 ∧ e = -149 ∨ t = .f64 ∧ h / 2 ^ 62 % 4 = 2 ∧ -1074 ≤ e ∧ e ≤ 1023)

/-- A wide cell of 512 bits with V and a header (R67). -/
def Sys2Proof.Claims.cellOf (v : Int) (h : Nat) : Nat := (BitVec.ofInt 448 v).toNat + h * 2 ^ 448

/-- R68: what an f64 cell holds after a contribution x: a mark for a NaN or an infinity; else V plus x in units of 2^E0, rounded to
nearest and clamped, each with its mark. -/
def Sys2Proof.Claims.cellPlus (v : Int) (h : Nat) (x : FVal) : Nat :=
  match x with
  | .nan => Claims.cellOf v (h ||| 1)
  | .inf s => Claims.cellOf v (h ||| if s then 4 else 2)
  | .fin s m e =>
    let q := Claims.twos 12 (h / 2 ^ 40)
    let y := roundAt 0 s m e q
    let c := min y (2 ^ 400 - 1)
    Claims.cellOf (if s then v - c else v + c)
      (h ||| (if eqValue (.fin false m e) (.fin false y q) then 0 else 8) ||| if 2 ^ 400 ≤ y then 16 else 0)

/-- R69: the value of a cell. -/
def Sys2Proof.Claims.cellValue (v : Int) (h : Nat) (mode : Nat) : FVal :=
  if h.testBit 0 ∨ (h.testBit 1 ∧ h.testBit 2) then .nan
  else if h.testBit 1 then .inf false
  else if h.testBit 2 then .inf true
  else .fin (if v = 0 then mode = 2 else v < 0) v.natAbs (Claims.twos 12 (h / 2 ^ 40))

/-- R57, R68, R69, R304, R307, R312: RFADD leaves the rounded sum and returns the old bits. RWADD and RWRD fail at a block whose header
describes no cell of their type. RWADD adds its contribution: in an f32 cell the exact integer that the request carries, which combining
may have summed, and its marks; in an f64 cell by R68. RWRD returns the rounded value and the flags, and with .clr clears V and the
flags. -/
def Sys2Proof.Claims.cellResults : Prop :=
  ∀ (s : State) (r : Procedure) (q : PillarId) (pa : Nat) (f : Fields), Claims.atVault s r q pa →
    let t := typeOf .f64 f
    let c := s.mem.read pa 64
    let v := Claims.twos 448 c
    let h := c / 2 ^ 448
    let x := valueOf t (r.x.bits.toNat % 2 ^ t.width)
    (t = .f32 ∨ t = .f64) →
    (r.instr = .rfadd f →
      let old := s.mem.read pa (t.width / 8)
      ∃ u b, s.performProc r = .ok (u, b, {}) ∧ b.bits = word old ∧ Claims.memoryBut s u pa (t.width / 8) ∧
        u.mem.read pa (t.width / 8) =
          encodeValue t r.vrm.toNat false (sumExact r.vrm.toNat [valueOf t old, x])) ∧
    (r.instr = .rwadd f ∧ f.flags / 2 % 2 = 0 ∨ r.instr = .rwrd f → ¬ Claims.describes h t →
      ∃ e, s.performProc r = .error (0x60, e)) ∧
    (r.instr = .rwadd f → f.flags / 2 % 2 = 0 → Claims.describes h t →
      ∃ u, s.performProc r = .ok (u, {}, {}) ∧ Claims.memoryBut s u pa 64 ∧
        (t = .f32 → u.mem.read pa 64 = Claims.cellOf (v + r.sum) (h ||| r.marks.toNat)) ∧
        (t = .f64 → u.mem.read pa 64 = Claims.cellPlus v h (valueOf .f64 r.x.bits.toNat))) ∧
    (r.instr = .rwrd f → Claims.describes h t →
      ∃ u a b, s.performProc r = .ok (u, a, b) ∧ b.bits = word (h % 32) ∧
        a.bits = word (encodeValue t r.vrm.toNat false (Claims.cellValue v h r.vrm.toNat)) ∧ Claims.memoryBut s u pa 64 ∧
        u.mem.read pa 64 = if f.flags / 2 % 2 = 1 then (h - h % 32) * 2 ^ 448 else c)

/-- R304, R308, R309, R312: RFILL leaves its word full in the local store that it reaches, RSIG sets its bits in SIGNAL, and each fails
where the pillar refuses it. RCOPY moves its next 8 bytes from memory into a full word of the destination, and ends after the last; a
failure of the source or the destination stops it. The f32 contribution of a single RWADD is its value in units of 2^-149. -/
def Sys2Proof.Claims.directResults : Prop :=
  (∀ (s : State) (r : Procedure) (q : PillarId) (a : Nat), r.place = .localStore q a →
    (∀ q', s.lsTarget r.p q a 8 = .ok q' → a % 8 = 0 →
      ∃ u, s.performProc r = .ok (u, {}, {}) ∧ (u.pil q').ls.load a 8 = (r.x.bits.toNat, r.x.bad) ∧ (u.pil q').isFull a = true ∧
        u.mem = s.mem ∧ ∀ p, p ≠ q' → u.pil p = s.pil p) ∧
    ∀ c v, s.lsTarget r.p q a 8 = .error (.trap c v) → s.performProc r = .error (c, v)) ∧
  (∀ (s : State) (r : Procedure) (q : PillarId), r.place = .signal q →
    (s.reachPillar r.p (s.forward q) = .ok () →
      ∃ u, s.performProc r = .ok (u, {}, {}) ∧ (u.pil (s.forward q)).signal = (s.pil (s.forward q)).signal ||| r.x.bits ∧
        SameBytes s u ∧ ∀ p, p ≠ s.forward q → u.pil p = s.pil p) ∧
    ∀ c e, s.reachPillar r.p (s.forward q) = .error (c, e) → s.performProc r = .error (c, lsTval e q 0)) ∧
  (∀ (s : State) (r : Procedure),
    let va := r.va + word r.progress
    let y := r.y.bits.toNat
    let dst := BitVec.ofNat 10 (y / 2 ^ 48)
    let a := y % 2 ^ 19 + r.progress
    ∀ s1 v bad, s.readPart (s.engineWalker r.p r.lvl false) .read va 8 (r.progress == 0 || va.toNat % 128 == 0) = .ok (s1, v, bad) →
      let s2 := if r.progress % 512 = 0 then s1.noteRewrite r.p dst else s1
      (∀ q, s2.lsTarget r.p dst a 8 = .ok q →
        let s3 := s2.modPil q fun x => x.lsWriteFull a v !bad.isEmpty
        s.performCopy r = .ok (s3, none) ∧
          (64 * (y / 2 ^ 32 % 2 ^ 13) ≤ r.progress + 8 → s.copyStep r = s3.setPhase r (.performed {} {})) ∧
          (r.progress + 8 < 64 * (y / 2 ^ 32 % 2 ^ 13) → r ∈ s3.procs →
            ∃ r' ∈ (s.copyStep r).procs, r'.progress = r.progress + 8 ∧ r'.phase = r.phase ∧ r'.instr = r.instr)) ∧
      ∀ c e, s2.lsTarget r.p dst a 8 = .error (.trap c e) → s.copyStep r = s2.stopCopy r (.trap c e)) ∧
  (∀ (s : State) (p : PillarId) (d : Dispatched) (pl : Place) (va : Word) (x y : PWord),
    let r := s.procOf p d pl va x y
    r.k = 1 ∧ r.requesters = 1 ∧ match valueOf .f32 (x.bits.toNat % 2 ^ 32) with
      | .nan => r.sum = 0 ∧ r.marks = 1
      | .inf s => r.sum = 0 ∧ r.marks = if s then 4 else 2
      | .fin s m e => r.marks = 0 ∧ r.sum = (if s then -1 else 1) * ((m * 2 ^ (e + 149).toNat : Nat) : Int))

/-- R68, R69, R304, R305, R306, R307, R308, R309: what the procedures do at their agents. -/
def Obligations.ProcedureResults : Prop := Claims.agentResults ∧ Claims.cellResults ∧ Claims.directResults

/-- R295, R296, R297, R301, R303, R312: events of messages and procedures. An agent performs the oldest procedure that has come to
its pillar. A response writes the registers it returns, which stop being pending, and the instruction is no longer outstanding;
a failed one is a late fault. Two combinable requests on one route become one. A message's head reserves an inbox slot, is
refused for 64 clks where eight are held, or fails; a refused one is ready again; the last flit puts it at the inbox's end. A
cut tail frees a reserved slot that no message holds. -/
def Obligations.MessageEvents : Prop :=
  ∀ (p : PillarId) (s : State),
    let sent (r : Procedure) : Bool := r.phase == .sent && s.procAgent r == p && !s.procWaits r
    (s.procs.find? sent = none → Runs (.agentProcedure p) s s) ∧
    (∀ r q o t a b, s.procs.find? sent = some r → r.place = .vault q o → (∀ f, r.instr ≠ .rcopy f) →
      s.performProc r = .ok (t, a, b) →
      Runs (.agentProcedure p) s ((t.setPhase r (.performed a b)).countAgent p r)) ∧
    (∀ r f, s.procs.find? sent = some r → r.instr = .rcopy f →
      Runs (.agentProcedure p) s ((s.copyStep r).countAgent p r)) ∧
    (∀ r q f t a b, s.procs.find? sent = some r → r.place = .signal q ∨ (∃ o, r.place = .localStore q o) →
      r.instr = .rfill f ∨ r.instr = .rsig f → (s.countForward q).performProc r = .ok (t, a, b) →
      Runs (.agentProcedure p) s ((t.setPhase r (.performed a b)).countAgent p r)) ∧
    (∀ r q o c v, s.procs.find? sent = some r → r.place = .vault q o → (∀ f, r.instr ≠ .rcopy f) →
      s.performProc r = .error (c, v) →
      Runs (.agentProcedure p) s ((s.setPhase r (.failed c v)).countAgent p r)) ∧
    (∀ t seq,
      let mine (r : Procedure) : Bool := r.p == p && r.t == t && r.seq == seq
      let rest := { s with procs := s.procs.filter fun r => !mine r }
      (s.procs.find? mine = none → Runs (.procedureResponse p t seq) s s) ∧
      (∀ r a b, s.procs.find? mine = some r → r.phase = .performed a b → Claims.returned r.instr = [] →
        Runs (.procedureResponse p t seq) s (rest.endProcOk p t seq)) ∧
      (∀ r a b d, s.procs.find? mine = some r → r.phase = .performed a b → Claims.returned r.instr = [d] →
        Runs (.procedureResponse p t seq) s
          ((rest.modStrand p t fun q => (q.setReg d a).unpend [d]).endProcOk p t seq)) ∧
      (∀ r a b d e, s.procs.find? mine = some r → r.phase = .performed a b → Claims.returned r.instr = [d, e] →
        Runs (.procedureResponse p t seq) s
          (((rest.modStrand p t fun q => (q.setReg d a).unpend [d]).modStrand p t fun q =>
            (q.setReg e b).unpend [e]).endProcOk p t seq)) ∧
      ∀ r c v, s.procs.find? mine = some r → r.phase = .failed c v →
        Runs (.procedureResponse p t seq) s (rest.failProc p t seq r.lvl r.instr (.trap c v))) ∧
    (∀ k, s.procs[k]? = none → Runs (.routerCombine p k) s s) ∧
    (∀ a b k, s.procs = [a, b] → k = 1 → a.phase = .sent → b.phase = .sent → a.key = b.key → b.key ≠ none → a ≠ b →
      onRoute a.p (s.procAgent b) p = true → onRoute b.p (s.procAgent b) p = true → a.requesters + b.requesters ≤ 8 →
      a.entry = none ∨ a.entry = some p →
      ∃ t, Runs (.routerCombine p k) s t ∧ t.procs =
        [{ a with
            k := a.k + b.k, sum := a.sum + b.sum, marks := a.marks ||| b.marks, requesters := a.requesters + b.requesters
            entry := some p
            x := { bits := a.x.bits + b.x.bits, bad := a.x.bad || b.x.bad } },
         { b with phase := .merged a.p a.t a.seq }]) ∧
    (∀ b, s.procs = [b] → b.phase = .sent → b.key ≠ none → onRoute b.p (s.procAgent b) p = true → b.entry = none →
      Runs (.routerCombine p 0) s { s with procs := [{ b with entry := some p }] }) ∧
    (∀ n e, s.outboxEntry p n = some e → e.phase = .ready → s.behindOther p e = false → e.msg.toHost = false →
      let s1 := s.countForward (BitVec.ofNat 10 e.msg.dst)
      (∀ c v, s1.messageTarget p e.msg = .error (c, v) →
        Runs (.messageHeadArrive p n) s (s1.messageFailed p e c (e.msg.tval v))) ∧
      ∀ q, s1.messageTarget p e.msg = .ok q →
        let b := (s1.pil q).inbox e.msg.inbox.toNat
        (8 ≤ b.messages.length + b.reserved → Runs (.messageHeadArrive p n) s (s1.refuse p e)) ∧
        (b.messages.length + b.reserved < 8 → Runs (.messageHeadArrive p n) s
          ((s1.modPil q fun x => x.modInbox e.msg.inbox.toNat fun b => { b with reserved := b.reserved + 1 }).modOutbox
            p n (setEntry n .reserved)))) ∧
    (∀ n e u, s.outboxEntry p n = some e → e.phase = .refused u →
      (u ≤ s.aclk p → Runs (.messageResend p n) s (s.modOutbox p n (setEntry n .ready))) ∧
      (s.aclk p < u → Runs (.messageResend p n) s s)) ∧
    (∀ n e q, s.outboxEntry p n = some e → e.phase = .reserved → e.msg.toHost = false →
      q = s.forward (BitVec.ofNat 10 e.msg.dst) →
      Runs (.messageDeliver p n) s ((s.modPil q fun x => x.modInbox e.msg.inbox.toNat fun b =>
        { messages := b.messages ++ [e.msg], reserved := b.reserved - 1 }).messageDone p e)) ∧
    ∀ box, let held := ((s.pil p).inbox box.toNat).reserved
      (s.heads p box < held → Runs (.cutTailFlitArrive p box) s
        (s.modPil p fun x => x.modInbox box.toNat fun b => { b with reserved := b.reserved - 1 })) ∧
      (held ≤ s.heads p box → Runs (.cutTailFlitArrive p box) s s)

/-! ## Fibres -/

/-- The strand has given up the fibre that it ran, and its PC is the runner's (R154). -/
def Sys2Proof.Claims.leftFibre (s t : State) : Prop :=
  ∀ m ms, s.st.modes = m :: ms → t.st.modes = { m with slot := none, since := s.aclk s.curP } :: ms ∧ t.st.pc = m.pc

/-- R153, R155, R156, R157: FRUN, FSTOP, FORK, JOIN, FYIELD and FEXIT. FRUN enters fibre mode and keeps g1-g8, its PC and the
PC after it; in fibre code it traps. FSTOP asks every strand in fibre mode that its bits name to stop. FORK takes the lowest
free slot for a child with the parent's g1-g8 at the target, at the near end of the run queue, and counts it; with no slot free
it gives -1. FORK with a free slot, and FEXIT with a counter, wait for the strand's earlier accesses. JOIN returns at COUNT 0, and otherwise waits or parks the fibre with WAIT and WSLOT set; a second joiner traps.
FYIELD puts the fibre at the far end. FEXIT frees the slot and takes one from the counter, waking the joiner of the last; that a slot
which WSLOT names and which is not parked in a JOIN stays as it is, is the model's choice (log entry 97), as is that poisoned operands
and counters act with their bits (log entry 92). A counter that another pillar refuses is a late fault. -/
def Obligations.FibreInstructions : Prop :=
  ∀ (f : Fields) (s : State),
    (s.destFree f.dNum →
      (s.st.inFibre = true → Traps (.frun f) s 0x1C 0) ∧
      (s.st.inFibre = false → s.twinned s.curP = false → ∃ t, Runs (.frun f) s t ∧ SameBytes s t ∧ t.st.g = s.st.g ∧
        t.st.pc = s.st.pc ∧ t.st.stopReq = false ∧ ∃ m : FibreMode, t.st.modes = m :: s.st.modes ∧ m.slot = none ∧
          m.dest = f.dNum ∧ m.once = f.mod.getLsbD 0 ∧ m.pc = s.st.pc ∧ m.ret = s.nextPc (.frun f) ∧ m.saved = s.st.g18)) ∧
    (∃ t, Runs (.fstop f) s t ∧ t.st.pc = s.nextPc (.fstop f) ∧ SameBytes s t ∧ ∀ u : StrandId,
      (t.me.strand u).stopReq = ((s.me.strand u).stopReq || ((s.g f.sNum).bits.getLsbD u.val && !(s.me.strand u).modes.isEmpty))) ∧
    (s.destFree f.dNum → s.twinned s.curP = false →
      let ca := (s.g (riA f)).bits
      let v := s.me.ls.bytes.read ca.toNat 8
      (ca = 0 ∨ s.lsRange ca.toNat 8 →
        (s.me.freeSlot = none → Runs (.fork f) s (s.past (.fork f) ((s.setG f.dNum { bits := -1 }).count 0x411))) ∧
        (s.me.freeSlot ≠ none → s.fenceDone 3 15 = false → Waits (.fork f) s) ∧
        (∀ j, s.me.freeSlot = some j → s.fenceDone 3 15 = true → ca ≠ 0 → 2 ^ 25 ≤ v ∨ v % 2 ^ 16 = 65535 →
          Traps (.fork f) s 0x1D ca) ∧
        ∀ j, s.me.freeSlot = some j → s.fenceDone 3 15 = true → ca = 0 ∨ (v < 2 ^ 25 ∧ v % 2 ^ 16 < 65535) →
          ∃ t, Runs (.fork f) s t ∧ t.st.pc = s.nextPc (.fork f) ∧ t.me.runQueue = j :: s.me.runQueue ∧
            t.me.fibre j = { state := .ready, pc := s.st.pc + BitVec.ofInt 19 (2 * f.immS), regs := s.st.g18,
                             link := if ca = 0 then none else some (s.curP, ca.setWidth 19) } ∧
            (f.dNum ≠ 0 → f.dNum < 64 → t.st.reg f.dNum = { bits := word j }) ∧
            (∀ k, k ≠ f.dNum → t.st.reg k = s.st.reg k) ∧
            (ca ≠ 0 → t.me.ls.bytes.read ca.toNat 8 = v + 1))) ∧
    (let ca := (s.g f.sNum).bits
     let v := s.me.ls.bytes.read ca.toNat 8
     s.lsRange ca.toNat 8 →
      (2 ^ 25 ≤ v → Traps (.join f) s 0x1D ca) ∧
      (v < 2 ^ 25 → v % 2 ^ 16 = 0 → Runs (.join f) s (s.past (.join f) s)) ∧
      (v < 2 ^ 25 → v % 2 ^ 16 ≠ 0 → 2 ^ 16 ≤ v % 2 ^ 17 → Traps (.join f) s 0x1D ca) ∧
      (v < 2 ^ 25 → v % 2 ^ 16 ≠ 0 → v % 2 ^ 17 < 2 ^ 16 → s.st.inFibre = false → Waits (.join f) s) ∧
      (v < 2 ^ 25 → v % 2 ^ 16 ≠ 0 → v % 2 ^ 17 < 2 ^ 16 → s.st.inFibre = true →
        ∃ t, Runs (.join f) s t ∧ Claims.leftFibre s t ∧ (t.me.fibre s.st.slot).state = .parked ∧
          (t.me.fibre s.st.slot).pc = s.st.pc ∧ (t.me.fibre s.st.slot).regs = s.st.g18 ∧
          t.me.ls.bytes.read ca.toNat 8 = v % 2 ^ 16 + 2 ^ 16 + s.st.slot * 2 ^ 17)) ∧
    (s.st.inFibre = false → Traps (.fyield f) s 0x1C 0 ∧ Traps (.fexit f) s 0x1C 0) ∧
    (s.st.inFibre = true →
      (∃ t, Runs (.fyield f) s t ∧ Claims.leftFibre s t ∧ SameBytes s t ∧ (t.me.fibre s.st.slot).state = .ready ∧
        (t.me.fibre s.st.slot).pc = s.nextPc (.fyield f) ∧ (t.me.fibre s.st.slot).regs = s.st.g18 ∧
        t.me.runQueue = s.me.runQueue ++ [s.st.slot]) ∧
      ((s.me.fibre s.st.slot).link = none → ∃ t, Runs (.fexit f) s t ∧ Claims.leftFibre s t ∧ SameBytes s t ∧
        t.me.fibre s.st.slot = {} ∧ t.me.runQueue = s.me.runQueue) ∧
      ∀ p ca, (s.me.fibre s.st.slot).link = some (p, ca) →
        let q := s.linkHome p
        let v := (s.pil q).ls.bytes.read ca.toNat 8
        (q = s.curP → ∀ c, s.me.lsFault ca.toNat 8 = some c → Traps (.fexit f) s c (ca.setWidth 64)) ∧
        ((q = s.curP → s.me.lsFault ca.toNat 8 = none) →
          let k := v / 2 ^ 17 % 256
          let y := (s.pil q).fibre k
          let wakes := v % 2 ^ 17 = 2 ^ 16 + 1 ∧ (q ≠ s.curP ∨ k ≠ s.st.slot) ∧ y.state = .parked ∧ ∃ ea, y.parking = .join ea
          (s.lsTarget s.curP p ca.toNat 8 = .ok q → 2 ^ 25 ≤ v → Traps (.fexit f) s 0x1D (ca.setWidth 64)) ∧
          (v < 2 ^ 25 → s.fenceDone 3 15 = false → Waits (.fexit f) s) ∧
          (v < 2 ^ 25 → s.fenceDone 3 15 = true → s.lsTarget s.curP p ca.toNat 8 = .ok q →
            ∃ t, Runs (.fexit f) s t ∧ Claims.leftFibre s t ∧ t.me.fibre s.st.slot = {} ∧
              (t.pil q).ls.bytes.read ca.toNat 8 =
                (if v % 2 ^ 16 = 0 then v else if v % 2 ^ 17 = 2 ^ 16 + 1 then v - 1 - 2 ^ 16 else v - 1) ∧
              (wakes → ((t.pil q).fibre k).state = .ready ∧ (t.pil q).runQueue = k :: (s.pil q).runQueue) ∧
              (¬ wakes → (t.pil q).runQueue = (s.pil q).runQueue)) ∧
          (∀ c e, s.fenceDone 3 15 = true → s.lsTarget s.curP p ca.toNat 8 = .error (.trap c e) →
            ∃ t, Runs (.fexit f) s t ∧ Claims.leftFibre s t ∧ SameBytes s t ∧ t.me.fibre s.st.slot = {} ∧
              ∃ l ∈ t.st.lates, l.cause = c ∧ l.tval = e)))

/-- FRUN of a strand has returned a code: the mode is left, g1-g8 are those it kept but for its destination, and the strand
goes on after it (R153). -/
def Sys2Proof.Claims.runReturns (r : Strand) (m : FibreMode) (ms : List FibreMode) (code : Nat) : Prop :=
  r.modes = ms ∧ r.pc = m.ret ∧ (m.dest ≠ 0 → m.dest < 64 → r.reg m.dest = { bits := word code }) ∧
    ∀ k : Fin 8, k.val + 1 ≠ m.dest → r.reg (k.val + 1) = m.saved[k]

/-- R153, R154, R157, R158, R159: events of runners and fibres. A runner without a fibre returns 2 when asked to stop, loads the
nearest ready fibre with its PC and g1-g8, which takes its fault if its access failed while it was parked, and with nothing ready
returns 1 if it runs once, and 0 if no fibre runs, is parked or faulted and it may not steal; else it backs off. A parked
fibre whose value has come is ready at the near end with it, or with its fault. A runner that may steal takes the far end of the first
other run queue in its domain with an entry for it, once the victim's accesses have been performed; where there is none it returns 0 on a
quiescent pillar and else backs off, until the time is over. -/
def Obligations.FibreEvents : Prop :=
  ∀ (p : PillarId) (u : StrandId) (s : State),
    let x := s.pil p
    let r := x.strand u
    (∀ m ms, r.run = .running → r.modes = m :: ms → m.slot = none →
      (r.stopReq = true → ∃ t, Runs (.runnerLoadFibre p u) s t ∧ Claims.runReturns ((t.pil p).strand u) m ms 2 ∧
        ((t.pil p).strand u).stopReq = false) ∧
      (r.stopReq = false → ∀ j q, x.runQueue = j :: q → (x.fibre j).fault = none → ∃ t, Runs (.runnerLoadFibre p u) s t ∧
        SameBytes s t ∧ ((t.pil p).fibre j).state = .running ∧ ((t.pil p).strand u).pc = (x.fibre j).pc ∧
        (∀ k : Fin 8, ((t.pil p).strand u).reg (k.val + 1) = (x.fibre j).regs[k]) ∧
        ((t.pil p).strand u).modes = { m with slot := some (BitVec.ofNat 8 j), backoff := 0 } :: ms ∧
        (t.pil p).runQueue = x.runQueue.filter (· != j)) ∧
      (r.stopReq = false → ∀ j q c v, x.runQueue = j :: q → (x.fibre j).fault = some (c, v) → ∃ t,
        Runs (.runnerLoadFibre p u) s (t.takeTrap { cause := c, tval := v }) ∧ t.curP = p ∧ t.curT = u ∧ SameBytes s t ∧
          (t.me.fibre j).state = .running ∧ t.st.pc = (x.fibre j).pc ∧
          t.st.modes = { m with slot := some (BitVec.ofNat 8 j), backoff := 0 } :: ms ∧ t.me.runQueue = x.runQueue.filter (· != j)) ∧
      (r.stopReq = false → x.runQueue = [] →
        (m.once = true → ∃ t, Runs (.runnerLoadFibre p u) s t ∧ Claims.runReturns ((t.pil p).strand u) m ms 1) ∧
        (m.once = false → m.backoff = 0 → s.canSteal p u = false → x.quiescent = true →
          ∃ t, Runs (.runnerLoadFibre p u) s t ∧ Claims.runReturns ((t.pil p).strand u) m ms 0) ∧
        (m.once = false → m.backoff = 0 → s.canSteal p u = false → x.quiescent = false →
          ∃ t, Runs (.runnerLoadFibre p u) s t ∧ SameBytes s t ∧ ((t.pil p).strand u).pc = r.pc ∧
            ((t.pil p).strand u).modes = { m with backoff := s.aclk p + x.stealBackoff } :: ms) ∧
        (m.once = false → m.backoff ≠ 0 ∨ s.canSteal p u = true → Runs (.runnerLoadFibre p u) s s))) ∧
    ((r.run ≠ .running ∨ r.modes = [] ∨ ∃ m ms, r.modes = m :: ms ∧ m.slot ≠ none) → Runs (.runnerLoadFibre p u) s s) ∧
    (∀ j : BitVec 8,
      let y := x.fibre j.toNat
      let wakes (z : Pillar) (y' : FibreSlot) : Prop := Runs (.fibreWake p j) s (s.setPil p
        { z with fibres := z.fibres.set j.toNat { y' with state := .ready, parking := .none }, runQueue := j.toNat :: z.runQueue })
      (y.state ≠ .parked → Runs (.fibreWake p j) s s) ∧
      (y.state = .parked →
        (∀ d v, y.parking = .load d v → wakes x (y.setReg d v)) ∧
        (y.parking = .ack → wakes x y) ∧
        (∀ c v, y.parking = .failed c v → wakes x { y with fault := some (c, v) }) ∧
        (∀ ea, y.parking = .join ea → Runs (.fibreWake p j) s s) ∧
        (∀ i o pa l va a b w n, y.parking = .remote i pa l va a b w n → memOpOf i = some o →
          let s' := s.focus p w
          let woken (t : State) (f : FibreSlot → FibreSlot) : State := t.modPil p fun z => z.wake j.toNat f
          (s.remoteReady p w pa = false → Runs (.fibreWake p j) s s) ∧
          (s.remoteReady p w pa = true → s'.outgoing p (placeOf pa) = false →
            (∀ c v, s'.reach p pa va = .error (.trap c v) →
              Runs (.fibreWake p j) s (woken s' fun y => { y with fault := some (c, v) })) ∧
            ∀ pa', s'.reach p pa va = .ok pa' →
              let r := s'.performRemote p false o pa' a b
              Runs (.fibreWake p j) s (woken r.1 (FibreSlot.returned i o r.2)))) ∧
        (∀ i pa va a b w, y.parking = .queued i pa va a b w →
          (s.peerRoom pa = false → Runs (.fibreWake p j) s s) ∧
          (s.peerRoom pa = true → ∃ t, Runs (.fibreWake p j) s t ∧ (t.pil p).runQueue = x.runQueue ∧
            (t.pil p).fibre j.toNat = { y with parking := .remote i pa (s.aclk p) va a b w 0 })) ∧
        (∀ ea d take next, y.parking = .word ea d take next →
          (x.isFull ea.toNat = false → Runs (.fibreWake p j) s s) ∧
          (x.isFull ea.toNat = true → wakes (x.takeWord ea.toNat take).1
            { y.setReg d (x.takeWord ea.toNat take).2 with pc := next })) ∧
        ∀ w limit d, y.parking = .procedures w limit d →
          (x.outstandingOf w ≤ limit → (x.strand w).lates = [] → wakes x (y.setReg d { bits := word (x.outstandingOf w) })) ∧
          (limit < x.outstandingOf w → Runs (.fibreWake p j) s s))) ∧
    (s.canSteal p u = false → Runs (.stealRound p u) s s) ∧
    (s.canSteal p u = true →
      (∀ q j, (s.stealOrder p).find? (s.stealable p) = some q → x.freeSlot = some j → q ≠ p →
        let d := s.drainAll q
        let k := (d.pil q).runQueue.getLastD 0
        (s.releasable q = false → Runs (.stealRound p u) s s) ∧
        (s.releasable q = true → ∃ t, Runs (.stealRound p u) s t ∧ SameBytes d t ∧
          (t.pil p).runQueue = j :: (d.pil p).runQueue ∧ (t.pil p).fibre j = (d.pil q).fibre k ∧
          (t.pil q).runQueue = (d.pil q).runQueue.dropLast ∧ (t.pil q).fibre k = {})) ∧
      ((s.stealOrder p).find? (s.stealable p) = none → ∀ m ms, r.modes = m :: ms → ∃ t, Runs (.stealRound p u) s t ∧
        SameBytes s t ∧ (x.quiescent = true → Claims.runReturns ((t.pil p).strand u) m ms 0) ∧
        (x.quiescent = false → ((t.pil p).strand u).modes = { m with backoff := s.aclk p + x.stealBackoff } :: ms))) ∧
    ∀ m ms, r.modes = m :: ms → ∃ t, Runs (.stealBackoffExpiry p u) s t ∧ SameBytes s t ∧
      ((t.pil p).strand u).modes = { m with backoff := if m.backoff ≤ s.aclk p then 0 else m.backoff } :: ms

/-! ## Jobs -/

/-- What HANDOFF and EXIT wait for has come, and no late fault is to be delivered (R97). -/
def Sys2Proof.Claims.handoffReady (s : State) : Prop :=
  s.workDone = true ∧ s.fenceDone 3 15 = true ∧ s.st.deliverable = none

/-- R96, R97, R98: HANDOFF, EXIT and LAUNCH. HANDOFF waits for the strand's work, hands it off once and tells the launch unit.
EXIT does so too, discards an open batch, keeps the exit code and ends the strand; in fibre code it traps. LAUNCH gives 2 for a
queue that is not enabled, not for devices, or at user level not for users or of another context, and 1 for a full ring, with
nothing written. With room in the ring, a record read without poison and a slot that is written it gives 0, the tail goes up by
one, and the slot holds the record. -/
def Obligations.JobInstructions : Prop :=
  ∀ (f : Fields) (s : State),
    (Claims.handoffReady s →
      (s.st.handedOff = true → Runs (.handoff f) s (s.past (.handoff f) s)) ∧
      (s.st.handedOff = false → Runs (.handoff f) s
        (s.past (.handoff f) (s.modSt fun t => { t with handedOff := true }).notifyHandoff)) ∧
      (s.st.inFibre = false →
        let d := s.me.discardOpen s.curT s.clk
        let s' := (s.setPil s.curP d).modSt fun t =>
          { t with exitCode := BitVec.ofNat 16 ((s.g f.sNum).bits.toNat % 2 ^ 16), handedOff := true, run := .exited, blocked := .no, sampled := none }
        (s'.me.allStopped = false → Runs (.exit f) s s'.notifyHandoff) ∧
        (s'.me.allStopped = true → Runs (.exit f) s (s'.leaveLoom s.curP).notifyHandoff))) ∧
    (¬ Claims.handoffReady s → Waits (.handoff f) s ∧ (s.st.inFibre = false → Waits (.exit f) s)) ∧
    (s.st.inFibre = true → Traps (.exit f) s 0x18 0) ∧
    (s.destFree f.dNum →
      let va := (s.g f.sNum).bits
      let n := f.mod.toNat % 16
      let q := s.lq n
      let gives (s' : State) (c : Nat) : State := s.past (.launch f) (s'.setG f.dNum { bits := word c })
      let closed := q.ctl.getLsbD 0 = false ∨ q.ctl.getLsbD 1 = false ∨
        (s.st.lvl = 0 ∧ (q.ctl.getLsbD 2 = false ∨ q.asid ≠ s.me.asid))
      (va.toNat % 128 ≠ 0 → Traps (.launch f) s 0x1A va) ∧
      (va.toNat % 128 = 0 → closed → Runs (.launch f) s (gives s 2)) ∧
      (va.toNat % 128 = 0 → ¬ closed → s.fenceDone 3 15 = false → Waits (.launch f) s) ∧
      (va.toNat % 128 = 0 → ¬ closed → s.fenceDone 3 15 = true → q.holder = none → q.writing = {} → q.doorbells = [] →
        ∀ s1 m, s.readBytes s.walker .read va 128 = .ok (s1, m, {}) →
          (q.count = 2 ^ ringExp q.ctl → Runs (.launch f) s (gives s1 1)) ∧
          ∀ s2 b, q.count ≠ 2 ^ ringExp q.ctl → s1.lq n = q →
            s1.writeBytes (launchWalker q.asid) (q.slotVa q.tail) 128 m {} 0 {} = .ok (s2, b) →
            s2.st.pc = s.st.pc → s2.curP = s.curP → s2.curT = s.curT → s2.lq n = q →
            ∃ t, Runs (.launch f) s t ∧ t.mem = s2.mem ∧ t.st.pc = s.nextPc (.launch f) ∧ (t.lq n).tail = q.tail + 1 ∧
              (t.lq n).holder = none ∧ (f.dNum ≠ 0 → f.dNum < 64 → t.st.reg f.dNum = { bits := 0 })))

/-- R85: the state in which the strands of a job start: ARG0-ARG3 in g1-g4, the place in the rectangle half, the strand number,
the shape, JOBID, the pillar and the half in g5-g10, zero in the other registers, user level with PRI and CW 0, ENTRY as the PC;
only the first NSTR strands run. The pillar's local store holds the image's bytes, XB is XBKB × 1,024, and above the image local
store is as before. -/
def Obligations.JobStart : Prop :=
  ∀ (j : Job) (r : Rect) (p : PillarId) (x : Pillar) (image : Memory) (bad : NatSet),
    let y := x.start j r p image bad
    (∀ (t : StrandId),
      let z := y.strand t
      let col := gridCol p - r.col0
      let right := j.twin = true ∧ j.wid ≤ col
      (∀ k : Fin 4, z.reg (k.val + 1) = { bits := j.record.args[k] }) ∧
      (¬ right → z.reg 5 = { bits := word ((gridRow p - r.row0) * 256 + col) } ∧ z.reg 10 = { bits := 0 }) ∧
      (right → z.reg 5 = { bits := word ((gridRow p - r.row0) * 256 + (col - j.wid)) } ∧ z.reg 10 = { bits := 1 }) ∧
      z.reg 6 = { bits := word t.val } ∧ z.reg 7 = { bits := word (j.record.hgt * 256 + j.record.wid) } ∧
      z.reg 8 = { bits := j.record.jobId } ∧ z.reg 9 = { bits := word p.toNat } ∧
      (∀ k, 10 < k → z.reg k = {}) ∧ z.v = Strand.reset.v ∧ z.kRegs = Strand.reset.kRegs ∧ z.sh = Strand.reset.sh ∧
      z.pc = BitVec.ofNat 19 j.record.entry ∧ z.lvl = 0 ∧ z.cw = false ∧ z.status = Strand.reset.status ∧
      (t.val < j.record.nstr → z.run = .running) ∧ (j.record.nstr ≤ t.val → z.run = .idle)) ∧
    y.xb = j.record.xbKb * 1024 ∧
    ∀ a, y.ls.bytes.get a = if a < j.record.codeKb * 1024 then image.get a else x.ls.bytes.get a

/-- R73, R80, R82, R83, R84, R85, R87, R412: events of the launch unit. A tail write that overfills the ring or goes back sets ERR
and is ignored, and one behind a LAUNCH that holds the tail waits. Admission takes the head record of the queue whose turn it is, and admits or refuses it. Placement does what the
waiting jobs' turn gives; that a job whose rectangle is being cleared holds the later ones back, and that one which no longer fits is
refused at any attempt, are the model's choice (log entries 116 and 117). A job that has waited long enough has aged. A request pre-empts
a job that holds its rectangle, loading or running, and can be saved. With the image read every pillar starts, a migrated one at its new
place, and the job's state is 2. A pillar that has been scrubbed becomes free. -/
def Obligations.LaunchEvents : Prop :=
  ∀ (s : State),
    (∀ (q : BitVec 4) (v : BitVec 32),
      let l := s.lq q.toNat
      let bad := 2 ^ ringExp l.ctl < (v - l.head).toNat ∨ (v - l.head).toNat < (l.tail - l.head).toNat
      (l.holder = none → bad → Runs (.lqtailWrite q v) s (s.setLq q.toNat { l with ctl := l.ctl ||| 8 })) ∧
      (l.holder = none → ¬ bad → Runs (.lqtailWrite q v) s (s.setLq q.toNat { l with tail := v })) ∧
      (l.holder ≠ none → Runs (.lqtailWrite q v) s (s.setLq q.toNat { l with doorbells := l.doorbells ++ [v] })) ∧
      (s.admitOpen = false ∨ s.admitOrder.head? ≠ some q.toNat → Runs (.jobAdmit q) s s) ∧
      (s.admitOpen = true → s.admitOrder.head? = some q.toNat → l.reading.failed = false →
        (∀ s' m, s.readBytes (launchWalker l.asid) .read (l.slotVa l.head) 128 = .ok (s', m, {}) →
          Runs (.jobAdmit q) s (s'.takeIn q.toNat (recordOf m)
            (((recordOf m).fault ((s'.launch.jobs.filter Job.live).map fun j => j.record.jobId)).map fun c =>
              BitVec.ofNat 8 c))) ∧
        ∀ c v, s.readBytes (launchWalker l.asid) .read (l.slotVa l.head) 128 = .error (.trap c v) →
          Runs (.jobAdmit q) s ((s.noteFault (launchWalker l.asid) (.trap c v)).takeIn q.toNat {} (some 10)))) ∧
    (let s' := s.settleJobs
     (s'.placeStep s'.placeOrder = .nothing → Runs .jobPlace s s') ∧
     (∀ j, s'.placeStep s'.placeOrder = .refuse j → Runs .jobPlace s (s'.retire j 0x11 0).settleJobs) ∧
     (∀ j r, s'.placeStep s'.placeOrder = .place j r →
       (j.state = 0x05 → Runs .jobPlace s (s'.holdRect j r)) ∧ (j.state ≠ 0x05 → Runs .jobPlace s (s'.placeNew j r))) ∧
     ∀ k r, s'.placeStep s'.placeOrder = .preempt k r → ∃ t, Runs .jobPlace s t ∧
       ∀ j ∈ s'.launch.jobs, j.runs = true → j.preempting = false →
         (∃ p ∈ s'.seats k.number r, (s'.pil p).job = some j.number) → ∀ q, j.rect = some q →
         ∀ p ∈ s'.seats j.number q, p ∈ t.preempts) ∧
    (∀ job, ∃ t, Runs (.backfillAgeLimit job) s t ∧ t.launch.jobs.length = s.launch.jobs.length ∧
      ∀ (n : Nat) (j : Job), s.launch.jobs[n]? = some j → t.launch.jobs[n]? = some
        { j with aged := j.aged || (j.record.jobId == job && j.waitsForPlace && (j.eligibleAt.any fun c => c + 2 ^ 20 ≤ s.clk)) }) ∧
    (∀ v : Word,
      let p : PillarId := v.setWidth 10
      (s.jobOf p = none → Runs (.preemptreqWrite v) s s) ∧
      ∀ j, s.jobOf p = some j →
        ((s.pil p).phase = .held → j.preempting = false → s.canSave j = true →
          Runs (.preemptreqWrite v) s (s.requestPreempt j)) ∧
        (s.canSave j = false → Runs (.preemptreqWrite v) s s)) ∧
    (∀ job j r s' m bad, (s.launch.jobs.find? fun j => j.live && j.record.jobId == job && j.loading && j.state == 0x01 &&
        j.request.isNone) = some j → j.rect = some r → j.drafting = false →
      s.readBytes (launchWalker j.asid) .read j.record.codeVa (j.record.codeKb * 1024) = .ok (s', m, bad) →
      Runs (.imageLoaded job) s
        (((r.pillars.foldl (fun s p => s.modPil (s.seat j.number p) fun x => x.start j r p m bad) s').modJob j.number fun j =>
          { (j.enter 0x02 0) with loading := false }).flush)) ∧
    ∀ p : PillarId, let x := s.pil p
      (x.phase ≠ .scrubbing ∨ s.shuttleDone p = false → Runs (.pillarScrubDone p) s s) ∧
      (x.phase = .scrubbing → s.shuttleDone p = true →
        (s.draftOf p = none →
          Runs (.pillarScrubDone p) s (s.setPil p { x.scrub with phase := .free, job := none }).flush) ∧
        ∀ d, s.draftOf p = some d → Runs (.pillarScrubDone p) s
          ((s.freeDraft d).modPil p fun x => { x.scrub with phase := .free, job := none }).flush)

/-! ## System registers, traps and the system instructions -/

/-- The level that may read each system register (R392). -/
def Sys2Proof.Claims.readableAt (n : Nat) : Nat :=
  if n ∈ [0x006, 0x007, 0x008, 0x009, 0x00A, 0x00B, 0x00C, 0x011, 0x015, 0x01A, 0x01B, 0x01C, 0x01D] then 1
  else if n ∈ [0x00D, 0x020, 0x021, 0x022, 0x023, 0x024, 0x025, 0x090, 0x091, 0x092, 0x093, 0x094, 0x095, 0x096, 0x097] then 3
  else 0

/-- A write of a system register: its number, the level that may write it (R392), the values that its rule accepts, and the
state after the write. -/
structure Sys2Proof.Claims.SysWrite where
  number : Nat
  level : Nat
  accepts : Prop
  after : State

/-- What each write does (R8, R92, R128, R143, R159, R208, R209, R213, R232, R362, R364, R365, R375, R384): only the fields that
a level may write are stored; TSCRATCH keeps the poison mark of the value too (R11). -/
def Sys2Proof.Claims.sysWrites (s : State) (v : Word) (bad : Bool) : List Claims.SysWrite :=
  let x := s.me
  let kb := v.toNat / 2 ^ 10 % 2 ^ 9
  let base := v.toNat % 2 ^ 9
  let count := v.toNat / 2 ^ 16 % 2 ^ 9
  let vec := BitVec.ofNat 19 (v.toNat % 2 ^ 19 / 2 * 2)
  let links := v.toNat / 2 ^ 40 % 8
  let st := stackOf s.curP
  let cal : Word := v &&& 0x1FFF0003FFFFF
  let me (y : Pillar) : State := s.setPil s.curP y
  [{ number := 0x000, level := 0, accepts := True, after := s.modSt fun r => { r with status := writeStatusWord r.status v r.lvl } },
   { number := 0x001, level := 0, accepts := True, after := s.modSt fun r => { r with fmt := v &&& 0xFF0F } },
   { number := 0x002, level := 0
     accepts := kb ≤ 384 ∧ (∀ g ∈ x.segs.toList, g.state = 1 → g.endAddr ≤ kb * 1024) ∧ (x.tags.count = 0 ∨ kb ≤ x.tags.baseKb)
     after := me { x with
       xbKb := kb, segs := x.segs.map fun g => if g.state = 2 ∧ kb * 1024 < g.endAddr then { g with state := 0 } else g } },
   { number := 0x003, level := 0, accepts := v.toNat % 4 ≠ 3, after := me { x with steal := v &&& 0xFFFF0003 } },
   { number := 0x004, level := 1, accepts := True, after := me { x with pickNo := BitVec.ofNat 32 v.toNat } },
   { number := 0x005, level := 0, accepts := True
     after := if v.getLsbD 63 then s else me (x.abandonTile s.curT s.clk) },
   { number := 0x00C, level := 1, accepts := True, after := me { x with stvec := vec } },
   { number := 0x00D, level := 3, accepts := True, after := me { x with mtvec := vec } },
   { number := 0x011, level := 1, accepts := True
     after := s.modSt fun r => { r with preq := r.preq &&& ~~~(v &&& 0x6000000000000000) } },
   { number := 0x013, level := 0
     accepts := x.xbKb ≤ base ∧ base + count ≤ 384 ∧ count ≤ 256 ∧ ∀ e ∈ x.tags.slots.entries, e.2.state ≠ 1
     after := me { x with tags := { count := count, baseKb := base } } },
   { number := 0x014, level := 0, accepts := True, after := me { x with signal := x.signal &&& ~~~v } },
   { number := 0x015, level := 3, accepts := links ≤ 4 ∧ ∀ i, i < links → stackOf (chainLink v i) = st
     after := s.modStack st fun k => { k with chain := v &&& 0x37FFFFFFFFFF } },
   { number := 0x016, level := 3, accepts := True
     after := me { x with vault := if (s.stack st).running then { x.vault with nextCalendar := some cal }
                                   else { x.vault with calendar := cal } } },
   { number := 0x01A, level := 3, accepts := v.toNat / 2 ^ 22 % 64 < 48, after := me { x with saveOff := v &&& 0xFC00000 } },
   { number := 0x01B, level := 3, accepts := True, after := { s with ctxBase := v &&& 0xFFFFFFFF0000 } }] ++
  ((List.range 16).map fun n => { number := 0x080 + n, level := 3, accepts := True, after := me (x.writeRpmap n v) }) ++
  ((List.range 8).map fun n => { number := 0x090 + n, level := 3, accepts := True, after := me (x.writeFwd n v) }) ++
  ((List.range 6).map fun n =>
    { number := 0x006 + n, level := 1, accepts := True
      after := s.modSt fun r => r.setBank r.lvl ((r.bank r.lvl).write n v bad) }) ++
  ((List.range 6).map fun n =>
    { number := 0x020 + n, level := 3, accepts := True
      after := s.modSt fun r => { r with supervisor := r.supervisor.write n v bad } })

/-- The instruction is the event that writes v to system register n (R128, R143, R159, R209, R213, R232, R362, R375, R384). -/
def Sys2Proof.Claims.writesAs (v : Word) (n : Nat) (i : Instr) : Prop :=
  (n = 0x000 ∧ i = .statusWrite v) ∨ (n = 0x001 ∧ i = .fmtWrite v) ∨ (n = 0x002 ∧ i = .xbWrite v) ∨
    (n = 0x003 ∧ i = .stealWrite v) ∨ (n = 0x013 ∧ i = .tagcfgWrite v) ∨ (n = 0x015 ∧ i = .chainWrite v) ∨
    (n = 0x016 ∧ i = .calendarWrite v) ∨ (n = 0x01A ∧ i = .saveoffWrite v) ∨
    ∃ k : BitVec 4, n = 0x080 + k.toNat ∧ i = .rpmapWrite k v

/-- R362, R378, R392: SYSRD, SYSWR and the events of register writes. A write of a register that no level writes changes nothing. A level below the register's is cause 0x0C with TVAL 0; a
refused value is cause 0x17 with the value, and nothing is written; an accepted one has the write's effect. A misaligned write of the
host ends in an error answer (R411). Each bit of STATUS
after a write is the value's where the level may write it, with PRI 3 kept as 2 at user level, and stays otherwise; LVL never
changes. -/
def Obligations.SystemRegisters : Prop :=
  (∀ (f : Fields) (s : State), s.destFree f.dNum →
    (Claims.readableAt f.immU ≤ s.st.lvl →
      let mark := if f.immU = 0x00B then (s.st.bank s.st.lvl).tscratch.bad
        else if f.immU = 0x025 then s.st.supervisor.tscratch.bad else false
      Runs (.sysrd f) s (s.past (.sysrd f) (s.setG f.dNum { bits := s.readSys f.immU, bad := mark }))) ∧
    (s.st.lvl < Claims.readableAt f.immU → Traps (.sysrd f) s 0x0C 0)) ∧
  (∀ (f : Fields) (s : State),
    let v := (s.g (riA f)).bits
    ∀ w ∈ Claims.sysWrites s v (s.g (riA f)).bad, f.immU = w.number →
      (s.st.lvl < w.level → Traps (.syswr f) s 0x0C 0) ∧
      (w.level ≤ s.st.lvl → w.accepts → Runs (.syswr f) s (s.past (.syswr f) w.after)) ∧
      (w.level ≤ s.st.lvl → ¬ w.accepts → Traps (.syswr f) s 0x17 v)) ∧
  (∀ (f : Fields) (s : State), f.immU ∈ [0x00E, 0x00F, 0x010, 0x012, 0x017, 0x018, 0x01C, 0x01D] ∨ (0x030 ≤ f.immU ∧ f.immU < 0x080) →
    Runs (.syswr f) s (s.past (.syswr f) s)) ∧
  (∀ (s : State) (v : Word), ∀ w ∈ Claims.sysWrites s v false, ∀ i, Claims.writesAs v w.number i →
    (s.st.lvl < w.level → Traps i s 0x0C 0) ∧
    (w.level ≤ s.st.lvl → w.accepts → Runs i s w.after) ∧
    (w.level ≤ s.st.lvl → ¬ w.accepts → Traps i s 0x17 v)) ∧
  (∀ (s : State), Runs .rowprogAbandon s (s.modMe fun x => x.abandonTile s.curT s.clk)) ∧
  (∀ (s : State) (p : PillarId) (t : StrandId) (v : Word), ∀ w ∈ Claims.sysWrites (s.focus p t) v false,
    w.level ≤ (s.strandAt p t).lvl → w.accepts →
    Runs (.registerWrite (.sys p t (BitVec.ofNat 12 w.number)) v) s (w.after.focus s.curP s.curT)) ∧
  (∀ (s : State) (off : BitVec 20) (v : Word), Runs (.registerWrite (.dev off) v) s
    (if off.toNat % 8 = 0 then s.devWrite 4 off.toNat v else s.answer .error)) ∧
  ∀ (old v : Word) (l : Nat) (n : Nat), n < 64 → (writeStatusWord old v l).getLsbD n =
    if n = 0 ∨ n = 1 then (if l = 0 ∧ v.toNat % 4 = 3 then decide (n = 1) else v.getLsbD n)
    else if n = 5 ∨ n = 9 ∨ n = 10 ∨ (n = 8 ∧ l ≠ 0) ∨ (n = 11 ∧ l = 3) then v.getLsbD n
    else old.getLsbD n

/-- Machine level handles causes 0x09, 0x6B and 0x84; supervisor level the others (R371). -/
def Sys2Proof.Claims.levelOf (c : BitVec 8) : Nat := if c ∈ [0x09, 0x6B, 0x84] then 3 else 1

/-- R362, R364, R366, R371, R376, R379: taking a trap and returning from one. A trap that is not forwarded goes to the higher of
its cause's level and the strand's, and a fault of supervisor code to machine level; it saves PC, cause, origin, value, sequence
number and STATUS in the bank of that level, sets LVL to it, IE and CW to 0 and FWS for machine level, and goes on at STVEC or
MTVEC after 6 clk; other bits of STATUS, the other bank and every register stay. A fault at machine level freezes the strand and
sends its message along the chain. TRET checks the level and the saved STATUS, and goes back to the saved PC and STATUS after 3 clk,
releasing the ring entry of the trap. The event of an illegal instruction takes its trap. -/
def Obligations.TrapEntryAndReturn : Prop :=
  (∀ (s : State) (e : TrapEvent),
    let r := s.st
    let cur := r.lvl
    let top := max (Claims.levelOf e.cause) cur
    let tgt := if e.interrupt = false ∧ top = 1 ∧ cur = 1 then 3 else top
    let t := s.takeTrap e
    cur ≠ 2 →
    (e.interrupt = false → cur = 3 →
      t = State.sendTrapMessage ((s.countCause e.cause).modSt fun r => { r with run := .frozen, blocked := .no, sampled := none }) s.curP
        (if r.machine.tcause.toNat % 256 = 0x84 then some (r.machine.tval.toNat / 2 ^ 43 % 8) else none)
        (r.trapMessage s.curP s.curT e)) ∧
    (e.interrupt = true ∨ cur ≠ 3 →
      SameBytes s t ∧ SameElsewhere s t ∧ t.st.g = r.g ∧ t.st.v = r.v ∧ t.st.kRegs = r.kRegs ∧ t.st.sh = r.sh ∧
        t.st.bank (4 - tgt) = r.bank (4 - tgt) ∧
        t.st.bank tgt = { tpc := r.pc, tval := e.tval, tstatus := r.status, tscratch := (r.bank tgt).tscratch
                          tseq := match e.late with | some q => word (2 ^ 16 + q.toNat) | none => 0
                          tcause := word (e.cause.toNat + (if e.late = none then 0 else 2 ^ 14) +
                            (if r.inFibre then 2 ^ 15 + r.slot * 2 ^ 24 else 0) + cur * 2 ^ 16) } ∧
        t.st.pc = (if tgt = 1 then s.me.stvec else s.me.mtvec) ∧ t.st.notBefore = s.aclk s.curP + 6 ∧ t.st.lvl = tgt ∧
        (∀ n, n < 64 → n ≠ 6 → n ≠ 7 → t.st.status.getLsbD n =
          if n = 8 ∨ n = 5 then false else if n = 11 then decide (tgt = 3) else r.status.getLsbD n))) ∧
  (∀ (f : Fields) (s : State),
    let l := s.st.lvl
    let b := s.st.bank l
    let back := b.tstatus.toNat / 2 ^ 6 % 4
    let ok := back ≠ 2 ∧ back ≤ l ∧ (b.tstatus.getLsbD 11 = true → l = 3)
    (l = 0 → Traps (.tret f) s 0x0C 0) ∧
    (l ≠ 0 → ¬ ok → Traps (.tret f) s 0x0E b.tstatus) ∧
    (l ≠ 0 → ok → ∃ t, Runs (.tret f) s t ∧ SameBytes s t ∧ t.st.pc = b.tpc ∧ t.st.status = b.tstatus &&& 0xFE3 ∧
      t.st.notBefore = s.aclk s.curP + 3 ∧ (b.tseq.getLsbD 16 = true →
        ∀ r, t.me.ring.get? (b.tseq.toNat % 64) = some r → r.seq = b.tseq.setWidth 16 → r.handling = false) ∧
      t.st.g = s.st.g ∧ t.st.supervisor = s.st.supervisor ∧ t.st.machine = s.st.machine ∧
      (b.tcause.getLsbD 15 = false → t.st.modes = s.st.modes) ∧
      (b.tcause.getLsbD 15 = true → t.st.modes = resumeFibre s.st.modes (b.tcause.toNat / 2 ^ 24 % 2 ^ 8)))) ∧
  ∀ (s : State) (c : BitVec 8) (v : Word), Runs (.illegalInstruction c v) s (s.takeTrap { cause := c, tval := v })

/-- The entries that a TLB invalidation names (R356). -/
def Sys2Proof.Claims.named (s : State) (i : Instr) (e : TlbEntry) : Bool :=
  match i with
  | .tlbinv f =>
    let va := (s.g (rrA f)).bits
    let b := (s.g (rrB f)).bits
    canonical va && decide (e.va / 2 ^ e.bits = va.toNat % 2 ^ 57 / 2 ^ e.bits) &&
      (b.getLsbD 16 || e.global || decide (e.asid.toNat = b.toNat % 2 ^ 16))
  | .tlbinva f =>
    let b := (s.g f.sNum).bits
    b.getLsbD 16 || (!e.global && decide (e.asid.toNat = b.toNat % 2 ^ 16))
  | .tlbinvp f => decide (e.pa / 2 ^ 36 = 2048 + (s.g f.sNum).bits.toNat % 2 ^ 10)
  | _ => false

/-- R356, R380, R381, R388, R389: WAITI, HALT, the TLB invalidations, RINGRD, PREEMPT and MIGRATE. WAITI writes the reasons that
hold, and waits without one. HALT stops the strand for good. An invalidation with no reserved bit set, after the fence it
implies, drops the named entries from every TLB and ends when no access through them is under way, and otherwise waits for the
last. RINGRD reads a dword of the ring, with its poison mark. PREEMPT tells whether a pre-emption is pending, and at user level is a
point of it, once the strand's issued vector instructions have completed (R170; log entry 108).
MIGRATE with CLEAR frees a pillar that forwards; it gives codes 1 to 3 where it can do nothing; otherwise it sets the target
aside, stops the source and blocks, and once the source has drained what BLOCKED_WAIT_END does ends it. -/
def Obligations.SystemInstructions : Prop :=
  ∀ (f : Fields) (s : State),
    (s.destFree f.dNum →
      (s.waitBits ≠ 0 → Runs (.waiti f) s (s.past (.waiti f) (s.setG f.dNum { bits := s.waitBits }))) ∧
      (s.waitBits = 0 → Waits (.waiti f) s)) ∧
    s.waitBits.getLsbD 0 = (s.me.signal != 0) ∧ s.waitBits.getLsbD 1 = (s.st.preq.toNat / 2 ^ 61 % 4 != 0) ∧
    s.waitBits.getLsbD 2 = s.forwarded s.curP s.curT ∧ s.waitBits.getLsbD 3 = s.me.preempt.isSome ∧
    (s.st.lvl = 0 → Traps (.halt f) s 0x0C 0) ∧
    (s.st.lvl ≠ 0 → Runs (.halt f) s (s.past (.halt f) (s.modSt fun r => { r with run := .halted }))) ∧
    (∀ c ∈ [(Instr.tlbinv f, (s.g (rrB f)).bits.toNat / 2 ^ 17), (.tlbinva f, (s.g f.sNum).bits.toNat / 2 ^ 17),
        (.tlbinvp f, (s.g f.sNum).bits.toNat / 2 ^ 10)],
      (s.st.lvl = 0 → Traps c.1 s 0x0C 0) ∧
      (s.st.lvl ≠ 0 → c.2 = 0 → s.fenceDone 4 1 = false → Waits c.1 s) ∧
      (s.st.lvl ≠ 0 → c.2 = 0 → s.fenceDone 4 1 = true →
        let ranges := (s.entriesOf (Claims.named s c.1)).map fun e => (e.pa, 2 ^ e.bits)
        ∃ t, Runs c.1 s t ∧ SameBytes s t ∧ t.st.g = s.st.g ∧
          (∀ p, (t.pil p).dataTlb = (s.pil p).dataTlb.filter (fun e => !Claims.named s c.1 e) ∧
            (t.pil p).tileTlb = (s.pil p).tileTlb.filter (fun e => !Claims.named s c.1 e)) ∧
          (∀ n, n < 4 → (t.stack n).tlb = (s.stack n).tlb.filter (fun e => !Claims.named s c.1 e)) ∧
          (s.rangesClear ranges = true → t.st.pc = s.nextPc c.1 ∧ t.st.blocked = s.st.blocked) ∧
          (s.rangesClear ranges = false → t.st.blocked = .inval c.1 ranges))) ∧
    (s.destFree f.dNum →
      let v := (s.g f.sNum).bits
      let q := BitVec.ofNat 16 (v.toNat % 2 ^ 16)
      (s.st.lvl = 0 → Traps (.ringrd f) s 0x0C 0) ∧
      (s.st.lvl ≠ 0 → 2 ^ 19 ≤ v.toNat ∨ 5 < v.toNat / 2 ^ 16 → Traps (.ringrd f) s 0x0E v) ∧
      (s.st.lvl ≠ 0 → v.toNat / 2 ^ 16 ≤ 5 →
        Runs (.ringrd f) s (s.past (.ringrd f) (s.setG f.dNum (s.me.ringDword q (v.toNat / 2 ^ 16)))))) ∧
    (s.destFree f.dNum →
      let s' := s.setG f.dNum { bits := if s.me.preempt = none then 0 else 1 }
      (s.me.preempt = none ∨ s.st.lvl ≠ 0 → Runs (.preempt f) s (s.past (.preempt f) s')) ∧
      (s.me.preempt ≠ none → s.st.lvl = 0 → s.vectorQuiet s.curP s.curT = false → Waits (.preempt f) s) ∧
      (s.me.preempt ≠ none → s.st.lvl = 0 → s.vectorQuiet s.curP s.curT = true →
        Runs (.preempt f) s (s.past (.preempt f) (s'.modSt fun r => { r with run := .stopped })))) ∧
    (s.destFree f.dNum → s.st.lvl ≠ 3 → Traps (.migrate f) s 0x0C 0) ∧
    (s.destFree f.dNum → s.st.lvl = 3 →
      let v := (s.g f.sNum).bits
      let src : PillarId := BitVec.ofNat 10 (v.toNat % 2 ^ 10)
      let dst : PillarId := BitVec.ofNat 10 (v.toNat / 2 ^ 10 % 2 ^ 10)
      let noTarget := if v.getLsbD 20 then s.spareFree src = false else s.isFree dst = false ∨ stackOf dst ≠ stackOf src
      (2 ^ 22 ≤ v.toNat → Traps (.migrate f) s 0x0E v) ∧
      (v.toNat < 2 ^ 22 → v.getLsbD 21 = true →
        ((s.pil src).fwdEnt.getLsbD 63 = false → Runs (.migrate f) s (s.endMigrate f 1)) ∧
        ((s.pil src).fwdEnt.getLsbD 63 = true → Runs (.migrate f) s
          ((s.modPil src fun x => { x.scrub with fwdEnt := 0, phase := .free, job := none }).endMigrate f 0))) ∧
      (v.toNat < 2 ^ 22 → v.getLsbD 21 = false →
        (src = s.curP → Runs (.migrate f) s (s.endMigrate f 3)) ∧
        (src ≠ s.curP → s.canLeave src = false → Runs (.migrate f) s (s.endMigrate f 1)) ∧
        (src ≠ s.curP → s.canLeave src = true → noTarget → Runs (.migrate f) s (s.endMigrate f 2)) ∧
        (src ≠ s.curP → s.canLeave src = true → ¬ noTarget → ∃ t, Runs (.migrate f) s t ∧
          t.st.blocked = .migrate (.migrate f) src ∧ (t.pil src).preempt.isSome ∧ (t.pil src).mtx.held = true ∧
          (v.getLsbD 20 = false → (t.pil dst).phase = .held))))

/-! ## Issue, returns, waits and translations -/

/-- R89, R91, R93, R94, R109, R117, R326, R328, R347, R348, R349, R350, R351, R356: events of issue, of accesses and of
translation. A ready strand that has lost 64 slots is promoted. An engine takes the head of a queue, in turn among the strands.
The divider's end makes the strands that wait for it ready. The oldest buffered store is performed; an access that returns frees
its strand, one to a peer or the host with the value that it brings, or with the trap of one that is gone. An instruction that
waits goes on, with the window values of its issue until it ends. An SC operation performs its access in its turn. A walk that ends in an
entry which the access may use fills the TLBs; an ATS completion
that answers a request fills those of the stacks that asked, or is void after an invalidation;
an ATS invalidation drops what it names. A page request's response ends it, and sets DONE or FAIL of its strand's PREQ. -/
def Obligations.IssueAndAccessEvents : Prop :=
  ∀ (p : PillarId) (t : StrandId) (s : State),
    let x := s.pil p
    let r := x.strand t
    let run := (s.stack (stackOf p)).halted = false
    (s.ready p t = true → 64 ≤ r.waitCount →
      Runs (.issuePromotion p t) s (s.modStrand p t fun r => { r with promoted := true })) ∧
    (s.ready p t = false ∨ r.waitCount < 64 → Runs (.issuePromotion p t) s s) ∧
    (¬ run → ∀ e, Runs (.engineAccept p e) s s) ∧
    (run →
      (∀ u d q, (roundRobin x.vec.last).find? (x.vectorGoes (s.aclk p)) = some u → x.vec.queue u = d :: q → x.stopping = false →
        ∃ s', Runs (.engineAccept p .vector) s s' ∧ (s'.pil p).vec.accepted = x.vec.accepted ++ [d] ∧
          (s'.pil p).vec.queue u = q ∧ (s'.pil p).vec.last = u ∧ ∀ w, w ≠ u → (s'.pil p).vec.queue w = x.vec.queue w) ∧
      (x.stopping = true → Runs (.engineAccept p .vector) s s) ∧ Runs (.engineAccept p .tile) s (s.acceptTile p) ∧
      Runs (.engineAccept p .matrix) s (s.acceptMatrix p) ∧ Runs (.engineAccept p .message) s (s.acceptMessage p)) ∧
    (∃ s', Runs (.dividerFree p) s s' ∧ SameBytes s s' ∧ (s'.pil p).divider = none ∧ ∀ u,
      (s'.pil p).strand u = if (x.strand u).atDivision then { x.strand u with blocked := .no, sampled := none } else x.strand u) ∧
    (r.stores = [] → Runs (.storeBufferDrain p t) s s) ∧
    (∀ b bs, r.stores = b :: bs → ∃ s', Runs (.storeBufferDrain p t) s s' ∧ ((s'.pil p).strand t).stores = bs ∧
      Claims.memoryBut s s' b.pa b.n ∧ s'.mem.read b.pa b.n = b.data % 2 ^ (8 * b.n)) ∧
    (r.blocked = .access → Runs (.loadDataReturn p t) s (s.modStrand p t fun r => { r with blocked := .no, sampled := none })) ∧
    (r.blocked = .no → Runs (.loadDataReturn p t) s s) ∧
    (∀ i o pa n va a b, r.blocked = .remote i pa n va a b → s.canReturn p t = true → s.outgoing p (placeOf pa) = false →
      memOpOf i = some o →
      (∀ pa', (s.focus p t).reach p pa va = .ok pa' →
        let back := (s.focus p t).performRemote p false o pa' a b
        Runs (.loadDataReturn p t) s ((back.1.focus p t).returnData i o back.2)) ∧
      ∀ c v, (s.focus p t).reach p pa va = .error (.trap c v) →
        Runs (.loadDataReturn p t) s ((s.focus p t).takeTrap { cause := c, tval := v })) ∧
    (r.run = .running → run →
      (∀ i s', r.blocked = .wait i → resume i ((s.focus p t).modSt fun r => { r with blocked := .no }) = .next s' →
        Runs (.blockedWaitEnd p t) s (s'.modSt fun r => { r with sampled := if r.blocked = .no then none else r.sampled })) ∧
      (∀ i m, r.blocked = .launch i m → Runs (.blockedWaitEnd p t) s ((s.focus p t).resumeLaunch i m)) ∧
      ∀ i e, r.blocked = .pinned i e → Runs (.blockedWaitEnd p t) s ((s.focus p t).endPinned i e)) ∧
    (∀ i ranges, r.blocked = .inval i ranges → r.run = .running → run →
      (s.rangesClear ranges = true → Runs (.blockedWaitEnd p t) s ((s.focus p t).invalidated i)) ∧
      (s.rangesClear ranges = false → Runs (.blockedWaitEnd p t) s s)) ∧
    (∀ f src, r.blocked = .migrate (.migrate f) src → r.run = .running → run →
      (s.drained src = true → Runs (.blockedWaitEnd p t) s ((s.focus p t).finishMigrate f src)) ∧
      (s.drained src = false → Runs (.blockedWaitEnd p t) s s)) ∧
    (s.scTurn p t = false → Runs (.scAccessStart p t) s s) ∧
    (∀ i n o pa va a, r.blocked = .sc i n pa va a → s.scTurn p t = true → memOpOf i = some o →
      let s0 := (s.focus p t).modSt fun r => { r with blocked := .no }
      (∀ s', s0.scAccess i o pa va a = .ok s' → Runs (.scAccessStart p t) s s') ∧
      ∀ e, s0.scAccess i o pa va a = .error e → Runs (.scAccessStart p t) s (s0.stopped i e)) ∧
    (∀ va kind,
      let above := ∃ u : StrandId, (x.strand u).run = .running ∧ (x.strand u).lvl ≠ 0
      let w : Walker := { p := p, asid := x.asid, lvl := if above then 1 else 0, tile := kind == .tile }
      (canonical va = false ∨ s.lookup w va ≠ none → Runs (.pageWalk p va kind) s s) ∧
      (∀ c, s.walk x.asid va = .fault c → Runs (.pageWalk p va kind) s s) ∧
      ∀ e, canonical va = true → s.lookup w va = none → s.walk x.asid va = .entry e →
        (∀ c, s.useEntry e w.lvl kind va = .error c → Runs (.pageWalk p va kind) s s) ∧
        ∀ y, s.useEntry e w.lvl kind va = .ok y → Runs (.pageWalk p va kind) s (s.noteXlate w y)) ∧
    (∀ asid (c : AtsCompletion),
      ((∀ q ∈ s.host.ats, q.asks asid c.va = false) ∨ c.bits < 12 → Runs (.atsTranslationCompletion asid c) s s) ∧
      ∀ q n, s.host.ats.find? (·.asks asid c.va) = some q → n ∈ [12, 16, 21, 25, 30, 34, 39] → n ≤ c.bits →
        (∀ m ∈ [12, 16, 21, 25, 30, 34, 39], n < m → c.bits < m) →
        let asked (k : Fin 4) : Prop := ∃ q ∈ s.host.ats, q.asks asid c.va = true ∧ q.stack = k.val
        ∃ s', Runs (.atsTranslationCompletion asid c) s s' ∧
          (q.void = 0 → (∀ q ∈ s'.host.ats, q.asks asid c.va = false) ∧
            (c.r = false → c.w = false → s'.host.noRights = (asid, c.va.bits 56 12) :: s.host.noRights) ∧
            (c.r = true ∨ c.w = true → ∀ k, asked k → ∃ e,
              (s'.stack k.val).tlb = touchTlb 8192 (s.stack k.val).tlb e ∧ e.asid = asid ∧ e.bits = n ∧ e.host = true ∧
              e.va = c.va.toNat % 2 ^ 57 / 2 ^ n * 2 ^ n ∧ e.write = c.w ∧ e.user = c.r)) ∧
          (q.void ≠ 0 → s'.host.ats = s.host.ats.map fun q => q.voided asid c.va) ∧
          ∀ k, ¬ (asked k ∧ q.void = 0 ∧ (c.r = true ∨ c.w = true)) → (s'.stack k.val).tlb = (s.stack k.val).tlb) ∧
    (∀ asid va size, ∃ s', Runs (.atsInvalidateRequest asid va size) s s' ∧
      (∀ q e, e ∈ (s'.pil q).dataTlb → e ∈ (s.pil q).dataTlb ∧ hostEntryIn asid (va.toNat % 2 ^ 57) size e = false) ∧
      s'.host.invalidating.length + s'.host.invalidated =
        s.host.invalidating.length + s.host.invalidated + 1) ∧
    ∀ n a,
      ((s.host.requests.find? fun q => q.id == n) = none → Runs (.pageRequestResponse n a) s s) ∧
      ∀ q, (s.host.requests.find? fun q => q.id == n) = some q → q.requester = .strand p t → r.preqId = some n →
        ∃ s', Runs (.pageRequestResponse n a) s s' ∧ (∀ q' ∈ s'.host.requests, q'.id ≠ n) ∧
          ((s'.pil p).strand t).preqId = none ∧
          ∀ b, b < 64 → ((s'.pil p).strand t).preq.getLsbD b =
            if b = 63 then false else if b = 62 then decide (a = .success) else if b = 61 then decide (a ≠ .success)
            else r.preq.getLsbD b

/-! ## Boundaries, pre-emption and saved contexts -/

/-- R368, R369, R370, R376, R382, R383, R384, R387: what a strand takes at a boundary, the handler chain, and pre-emption. The
late fault, the forwarded trap, the signal or the stop that is due is taken, in this order, and nothing happens where it is not
due. A trap message lands in FWD0-FWD7, or passes on where they hold one; one that waits too long passes on. A request reaches
the pillars of its job once that runs, and ages. Saving a drained pillar takes its lowest free area; restoring gives the pillar the context. -/
def Obligations.BoundaryAndPreemptionEvents : Prop :=
  ∀ (p : PillarId) (t : StrandId) (s : State),
    let x := s.pil p
    let r := x.strand t
    let go := (s.focus p t).leaveWait
    (∀ e, s.lateDue p t = some e → Runs (.lateFaultDelivery p t) s (go.deliver e)) ∧
    (s.lateDue p t = none →
      Runs (.lateFaultDelivery p t) s s ∧
      (s.forwardDue p t = true → Runs (.forwardedTrapInterrupt p t) s
        ((go.modMe fun x => { x with fwdTaken := true }).takeTrap { cause := 0x84, tval := x.fwd[0], interrupt := true })) ∧
      (s.forwardDue p t = false → Runs (.forwardedTrapInterrupt p t) s s) ∧
      (s.forwardDue p t = false → s.signalDue p t = true →
        Runs (.signalInterrupt p t) s (go.takeTrap { cause := 0x80, tval := x.signal, interrupt := true })) ∧
      (s.signalDue p t = false → Runs (.signalInterrupt p t) s s)) ∧
    (s.stopDue p t = true →
      (r.waitsShuttle = false → Runs (.preemptionPointStop p t) s (go.modSt fun r => { r with run := .stopped, retStop := false })) ∧
      (r.waitsShuttle = true →
        Runs (.preemptionPointStop p t) s ((s.focus p t).modSt fun r => { r with run := .stopped, retStop := false }))) ∧
    (s.stopDue p t = false → Runs (.preemptionPointStop p t) s s) ∧
    (∀ n, s.trapMessages[n]? = none → Runs (.trapMessageArrive n) s s) ∧
    (∀ n m, s.trapMessages[n]? = some m → s.forward m.dst = m.dst →
      let s1 := { s with trapMessages := s.trapMessages.eraseIdx n }
      let y := s.pil m.dst
      (y.fwd[0].getLsbD 63 = false →
        Runs (.trapMessageArrive n) s (s1.setPil m.dst { y with fwd := m.fwd, fwdSince := s.aclk m.dst, fwdTaken := false })) ∧
      (y.fwd[0].getLsbD 63 = true → Runs (.trapMessageArrive n) s (s1.passOn m.dst m.fwd))) ∧
    (s.fwdExpired p = false → Runs (.trapMessageTimeout p) s s) ∧
    (x.fwd[0].getLsbD 63 = true → x.fwdTaken = false → x.fwdSince + 65536 ≤ s.aclk p → Runs (.trapMessageTimeout p) s
      ((s.setPil p { x with fwd := x.fwd.set 0 (x.fwd[0] &&& 0x7FFFFFFFFFFFFFFF) }).passOn p x.fwd)) ∧
    (p ∉ s.preempts → Runs (.preemptRequestArrive p) s s) ∧
    (p ∈ s.preempts →
      (s.jobOf p = none ∨ x.phase ≠ .held ∨ (∃ j, s.jobOf p = some j ∧ j.preempting = false) →
        Runs (.preemptRequestArrive p) s { s with preempts := s.preempts.erase p }) ∧
      ∀ j, s.jobOf p = some j → j.preempting = true → x.phase = .held →
        (j.runs = false → Runs (.preemptRequestArrive p) s { s with preempts := s.preempts.erase p ++ [p] }) ∧
        (j.runs = true → ∃ s', Runs (.preemptRequestArrive p) s s' ∧ s'.preempts = s.preempts.erase p ∧
          (s'.pil p).preempt = x.preempt.or (some (s.aclk p)) ∧ (s'.pil p).mtx.held = true)) ∧
    (∀ c, x.preempt = some c → c + 2 ^ 20 ≤ s.aclk p →
      Runs (.preemptAgeLimit p) s (s.setPil p { x with preemptAged := true })) ∧
    (x.preempt = none → Runs (.preemptAgeLimit p) s s) ∧
    (s.jobOf p = none → Runs (.pillarSave p) s s ∧ Runs (.pillarRestore p) s s) ∧
    (∀ j r, s.jobOf p = some j → j.rect = some r →
      let ps := s.seats j.number r
      (s.savedFor j.number p = none → j.preempting = true → (∀ q ∈ ps, (s.pil q).preempt.isSome ∧ s.drained q = true) →
        (∀ q ∈ ps, s.migrating q = false) → (s.areasUsed p).length < 4 →
        let s1 := s.savePillar j.number p
        ((∀ q ∈ ps, (s1.savedFor j.number q).isSome) → Runs (.pillarSave p) s (s1.leaveSilicon j ps)) ∧
        ((∃ q ∈ ps, s1.savedFor j.number q = none) → Runs (.pillarSave p) s s1) ∧
        ∃ c, s1.saves = s.saves ++ [c] ∧ c.p = p ∧ c.job = j.number ∧ c.area < 4 ∧ c.area ∉ s.areasUsed p ∧
          ∀ a, a < c.area → a ∈ s.areasUsed p) ∧
      (j.preempting = false → Runs (.pillarSave p) s s) ∧
      (∀ c, s.savedFor j.number p = some c → j.state = 0x05 → j.loading = true → x.strip = none → x.stripDue = false →
        x.failedMark = false →
        let y := c.reload s
        let s1 := State.modPil { s with saves := s.saves.filter fun a => !(a.job == j.number && a.p == p), freeCount := s.freeCount + 1 } p fun x =>
          (x.withContext y).count 0x4C4 (y.sections.kib * 16)
        ((∀ q ∈ s1.seats j.number r, s1.savedFor j.number q = none) →
          Runs (.pillarRestore p) s (s1.restartJob j (s1.seats j.number r))) ∧
        ((∃ q ∈ s1.seats j.number r, (s1.savedFor j.number q).isSome) → Runs (.pillarRestore p) s s1)) ∧
      (s.savedFor j.number p = none → Runs (.pillarRestore p) s s))

/-! ## Integrity -/

/-- The neighbour of a pillar at a port, in the package grid, lies on it (R290). -/
def Sys2Proof.Claims.hasNeighbour (p : PillarId) (port : MeshPort) : Prop := neighbour p port ≠ none

/-- R289, R396, R397, R398, R402, R404, R405, R407, R408: events of integrity. A failed flit check counts, and the sixteenth in a
row halts the stack. The oldest pair of twin worms goes on if they are equal, and fails if they differ, or if one's twin never comes; how
worms are paired while earlier instructions may still send some is log entry 94, and which free pillar is idle is log entry 118.
CONTAIN_GO contains the job of a pillar; the end of a containment lowers the fences. A strip starts where one is possible, is
made room for where one is needed, and after 42,000 clk passes, with the time of its end, or fails with its record. The host's
write of FRHEAD posts the records that wait. -/
def Obligations.IntegrityEvents : Prop :=
  ∀ (p : PillarId) (t : StrandId) (s : State),
    let x := s.pil p
    (∀ port, ¬ Claims.hasNeighbour p port → Runs (.flitCrcResend p port) s s) ∧
    (∀ port, Claims.hasNeighbour p port →
      let k := portNumber port
      let run := if s.aclk p ≤ (x.crcAt[k]?.getD 0) + 8 then x.crcRuns[k]?.getD 0 + 1 else 1
      let s1 := s.modPil p fun x =>
        Pillar.count { x with crcRuns := x.crcRuns.setIfInBounds k run, crcAt := x.crcAt.setIfInBounds k (s.aclk p) } 0x4A8
      (run < 16 → Runs (.flitCrcResend p port) s s1) ∧
      (16 ≤ run → Runs (.flitCrcResend p port) s (s1.haltStack (stackOf p) none))) ∧
    (s.twinned p = false → Runs (.dwHashArrive p t) s s) ∧
    (s.twinned p = true → s.inRightHalf p = false →
      ((∀ a ∈ s.heldOf p t, s.partner a = none) → Runs (.dwHashArrive p t) s s) ∧
      ∀ as a bs b, s.heldOf p t = as ++ a :: bs → (∀ c ∈ as, s.partner c = none) → s.partner a = some b →
        (a.flits = b.flits → Runs (.dwHashArrive p t) s (s.pairGoesOn a b)) ∧
        (a.flits ≠ b.flits → Runs (.dwHashArrive p t) s (s.pairFails a (some b)))) ∧
    (s.weaveLate p t = none → Runs (.dwTimeout p t) s s) ∧
    (∀ a, s.weaveLate p t = some a → Runs (.dwTimeout p t) s (s.pairFails a none)) ∧
    (s.jobOf p = none → Runs (.containGo p) s s) ∧
    (s.integrity.containing ≠ none → Runs (.containGo p) s s) ∧
    (∀ j r, s.integrity.containing = none → s.jobOf p = some j → j.rect = some r → x.phase = .held ∨ x.phase = .scrubbing →
      Runs (.containGo p) s (s.contain j r)) ∧
    (s.integrity.containing = none → Runs (.containmentDone p) s s) ∧
    (∀ r, s.integrity.containing = some r → r.has p = true → ∃ s', Runs (.containmentDone p) s s' ∧
      s'.integrity.containing = none ∧ s'.integrity.contains = min (s.integrity.contains + 1) (2 ^ 64 - 1) ∧
      ∀ q, (s'.pil q).phase = if (s.pil q).phase = .fenced then (if (s.pil q).failedMark then .failed else .free)
        else (s.pil q).phase) ∧
    (s.stripPossible p = false → Runs (.testStripStart p) s s) ∧
    (s.stripPossible p = true → ∃ s', Runs (.testStripStart p) s s' ∧
      (s'.pil p).strip = some (s.calclk (stackOf p)) ∧ (s'.pil p).stripFrom = s.aclk p ∧ (s'.pil p).stripDue = false) ∧
    (s.stripNeeded p = false → Runs (.stripIntervalDue p) s s) ∧
    (∀ j, s.stripNeeded p = true → s.jobOf p = some j →
      Runs (.stripIntervalDue p) s ((s.setPil p { x with stripDue := true }).requestPreempt j)) ∧
    (∀ res, x.strip = none → Runs (.testStripEnd p res) s s) ∧
    (∀ start, x.strip = some start →
      let now := s.calclk (stackOf p)
      (∀ res, s.aclk p < x.stripFrom + 42000 → Runs (.testStripEnd p res) s s) ∧
      (x.stripFrom + 42000 ≤ s.aclk p →
        (∀ n, ∃ s', Runs (.testStripEnd p (.pass n)) s s' ∧ (s'.pil p).strip = none ∧ (s'.pil p).stripLast = word now ∧
          s'.integrity.strips = min (s.integrity.strips + 1) (2 ^ 64 - 1)) ∧
        ∀ k u, Runs (.testStripEnd p (.fail k u)) s
          (State.stripFailed { s.setPil p { x with strip := none } with
            integrity := { s.integrity with strips := min (s.integrity.strips + 1) (2 ^ 64 - 1) } } p start k u))) ∧
    ∀ v : Word, Runs (.frheadWrite v) s (State.postFailures s.integrity.waiting.length
      { s with integrity := { s.integrity with frhead := v.setWidth 32 } })

/-! ## The host, the pod and bring-up -/

/-- An answer to the outside is appended. -/
def Sys2Proof.Claims.answers (s : State) (a : HostAnswer) : State :=
  { s with host := { s.host with answers := s.host.answers ++ [a] } }

/-- What a store from outside leaves: the bytes of memory but those of the write read as before. -/
def Sys2Proof.Claims.wrote (s t : State) (pa n v : Nat) : Prop :=
  Claims.memoryBut s t pa n ∧ t.mem.read pa n = v % 2 ^ (8 * n)

/-- What a read from outside brings: the data, or an error where they are poisoned. -/
def Sys2Proof.Claims.readAnswer (s : State) (pa n : Nat) : HostAnswer :=
  if s.physBad pa n then .error else .data n (s.mem.read pa n)

/-- The state with a request of a peer behind the ones that it has sent before (R420). -/
def Sys2Proof.Claims.peerWaits (s : State) (peer : BitVec 10) (off : BitVec 36) (a : HostAccess) : State :=
  let e : Peer := { s.peer peer with requests := (s.peer peer).requests ++ [(off, a)] }
  { s with host := { s.host with peers := s.host.peers.set peer.toNat e } }

/-- The state with a response in a peer's buffer, and no request of it that waits (R421). -/
def Sys2Proof.Claims.responded (s t : State) (peer : BitVec 10) (a : HostAnswer) : Prop :=
  (t.peer peer).responses = (s.peer peer).responses ++ [(a, s.aclk (servicePillar (peer.toNat % 8 / 2)))] ∧
    (t.peer peer).requests = [] ∧ t.host.answers = s.host.answers

/-- The bit of READY of a function (R422). -/
def Sys2Proof.Claims.readyBitOf : Function → Option Nat
  | .stack n => some n.toNat
  | .shuttle n => some (4 + n.toNat)
  | .port n => some (8 + n.toNat)
  | .tier => some 16
  | .launch => some 17
  | .aperture => some 18
  | .pillar _ => none

/-- R358, R377, R413, R418, R419, R420, R422, R424, R425, R426, R428: events of the host, the pod and bring-up. APERBASE takes
what its rule allows. An aperture access within the aperture to populated memory reads or writes it, behind what the host sent before,
and waits for the second tier; any other is an error. A host send with a good length is under way once its queue is not busy. A peer's request of at most 64 bytes to its translated
address reads or writes it, and its response goes into the peer's buffer; it waits while no port is up or the buffer is full. That of a
peer that is not up is an error. A peer that goes, or is late, is up no more. A submitted
image is measured into roles 4 to 7, and ATTGO signs. Bring-up measures and configures, and a function becomes ready once what
it depends on is. A halted stack is reset; above 95 °C the clock falls a step; above 110 °C the stack halts. A new period of
phasing changes no state. -/
def Obligations.HostAndPodEvents : Prop :=
  ∀ (s : State),
    (∀ v : Word,
      (v.toNat % 2 ^ 32 = 0 → v.toNat < 2 ^ 47 →
        Runs (.aperbaseWrite v) s { s with host := { s.host with aperBase := v } }) ∧
      (v.toNat % 2 ^ 32 ≠ 0 ∨ 2 ^ 47 ≤ v.toNat → Runs (.aperbaseWrite v) s s)) ∧
    (∀ (off : BitVec 32) (n v : Nat),
      let pa := s.host.aperBase.toNat + off.toNat
      let served := s.safelight.ready.getLsbD 18 = true ∧ 1 ≤ n ∧ n ≤ 4096 ∧ off.toNat + n ≤ 2 ^ 32 ∧ s.populated pa = true ∧
        s.populated (pa + n - 1) = true
      let last := s.reachDirect (servicePillar 0) (pa + n - 1) 0
      let refused (e : Except Stop Nat) : Prop := ∃ c w, e = .error (.trap c w)
      let waits (a : HostAccess) : Prop :=
        Runs (.apertureAccess off a) s { s with posted := s.posted ++ [.outside (.aperture off a)] }
      (s.posted ≠ [] → ∀ a, waits a) ∧
      (s.posted = [] →
        (∀ pa' pb, served → s.reachDirect (servicePillar 0) pa 0 = .ok pa' → last = .ok pb →
          (∃ t, Runs (.apertureAccess off (.read n)) s t ∧ t.mem = s.mem ∧
            t.host.answers = s.host.answers ++ [Claims.readAnswer s pa' n]) ∧
          ∃ t, Runs (.apertureAccess off (.write n v)) s t ∧ Claims.wrote s t pa' n v ∧ t.host.answers = s.host.answers ++ [.done]) ∧
        (∀ a ∈ [HostAccess.read n, .write n v], served → s.reachDirect (servicePillar 0) pa 0 = .error .wait → waits a) ∧
        (∀ a ∈ [HostAccess.read n, .write n v], served →
          refused (s.reachDirect (servicePillar 0) pa 0) ∨ (∃ q, s.reachDirect (servicePillar 0) pa 0 = .ok q) ∧ refused last →
          ∃ t, Runs (.apertureAccess off a) s t ∧ t.mem = s.mem ∧ t.host.answers = s.host.answers ++ [.error]) ∧
        (¬ served → Runs (.apertureAccess off (.read n)) s (Claims.answers s .error) ∧
          Runs (.apertureAccess off (.write n v)) s (Claims.answers s .error)) ∧
        ∀ k x, Runs (.apertureAccess off (.atomic k n x)) s (Claims.answers s .error))) ∧
    (∀ (h : BitVec 4) (v : Word),
      let q := s.hq h.toNat
      let len := v.toNat % 2 ^ 10
      (q.send.getLsbD 63 = true ∨ len % 8 ≠ 0 ∨ 512 < len → Runs (.hostSendWrite h v) s s) ∧
      (q.send.getLsbD 63 = false → len % 8 = 0 → len ≤ 512 → ∃ t e, Runs (.hostSendWrite h v) s t ∧
        t.host.sends = s.host.sends ++ [e] ∧ e.msg.fromHost = true ∧ e.msg.src = h.toNat ∧ e.msg.len = len ∧
        e.msg.dst = v.toNat / 2 ^ 48 % 2 ^ 10 ∧ e.msg.inbox.toNat = v.toNat / 2 ^ 46 % 4 ∧
        (∀ i, i < len / 8 → e.msg.payload[i]? = some { bits := BitVec.ofNat 64 (q.staging.read (8 * i) 8) }) ∧
        (t.hq h.toNat).send.getLsbD 63 = true)) ∧
    (∀ (peer : BitVec 10) (off : BitVec 36) (n v : Nat),
      let fits := 1 ≤ n ∧ off.toNat % 64 + n ≤ 64
      let e := s.peer peer
      let open_ := e.up = true ∧ e.requests = [] ∧ s.portUp = true ∧ e.responses.length < max 1 e.incred.toNat
      ((s.peer peer).up = false → ∀ a, Runs (.ualinkInboundRequest peer off a) s (Claims.answers s .error)) ∧
      (e.up = true → s.portUp = false ∨ max 1 e.incred.toNat ≤ e.responses.length → ∀ a,
        Runs (.ualinkInboundRequest peer off a) s (Claims.peerWaits s peer off a)) ∧
      (open_ → ¬ fits → ∀ a ∈ [HostAccess.read n, .write n v],
        ∃ t, Runs (.ualinkInboundRequest peer off a) s t ∧ t.mem = s.mem ∧ Claims.responded s t peer .error) ∧
      (∀ pa0 pa, open_ → fits → (s.inboundTarget peer off (.read n) = .ok (pa0, pa)) →
        ∃ t, Runs (.ualinkInboundRequest peer off (.read n)) s t ∧ t.mem = s.mem ∧
          Claims.responded s t peer (Claims.readAnswer s pa n)) ∧
      (∀ pa0 pa, open_ → fits → s.inboundTarget peer off (.write n v) = .ok (pa0, pa) →
        ∃ t, Runs (.ualinkInboundRequest peer off (.write n v)) s t ∧ Claims.wrote s t pa n v ∧ Claims.responded s t peer .done) ∧
      (∃ t, Runs (.peerUpWrite peer) s t ∧ (t.peer peer).up = true) ∧
      (∀ why, (s.peer peer).up = false → Runs (.peerGoneEvent peer why) s s) ∧
      (∀ why, (s.peer peer).up = true → Runs (.peerGoneEvent peer why) s (s.losePeer peer why)) ∧
      (s.peerLate peer = true → Runs (.peerTimeout peer) s (s.losePeer peer 3)) ∧
      (s.peerLate peer = false → Runs (.peerTimeout peer) s s)) ∧
    (∀ port : BitVec 3, ∃ t, Runs (.ualinkLinkTrained port) s t ∧ (t.host.ports[port.toNat]?.map (·.link)) = some true) ∧
    (∀ (role : BitVec 3) (image : List Byte),
      (role.toNat < 4 → Runs (.hostImageSubmit role image) s s) ∧
      (4 ≤ role.toNat → ∃ t, Runs (.hostImageSubmit role image) s t ∧ ∀ k : Fin 8, t.safelight.meas[k] =
        if k.val = role.toNat then of32 (sha256 (bytes32 s.safelight.meas[k] ++ sha256 image)) else s.safelight.meas[k])) ∧
    (∀ v : Word,
      (v.getLsbD 0 = false ∨ s.safelight.attGo = true → Runs (.attgoWrite v) s s) ∧
      (v.getLsbD 0 = true → s.safelight.attGo = false →
        let sig := Config.signature (natOfBytes (sha256 (bytes32 s.safelight.nonce ++
          s.safelight.meas.toList.flatMap bytes32 ++ bytesOfNat 16 s.safelight.identity.toNat)))
        Runs (.attgoWrite v) s { s with safelight := { s.safelight with
          sigR := BitVec.ofNat 256 sig.1, sigS := BitVec.ofNat 256 sig.2, attGo := false } })) ∧
    (∀ cfg : BringUp, ∃ t, Runs (.powerOn cfg) s t ∧ t.ctxBase = cfg.ctxBase ∧ t.host.peerId = cfg.peerId ∧
      t.safelight.tierFailed = cfg.tierFails ∧ SameBytes s t ∧
      t.safelight.meas[0] = of32 (sha256 (bytes32 s.safelight.meas[0] ++ sha256 cfg.image)) ∧
      ∀ p, (t.pil p).mtvec = cfg.mtvec ∧ (p ∈ cfg.failedPillars → (t.pil p).phase = .failed) ∧
        ∀ a, a < 32768 → (t.pil p).firmware.get a = cfg.firmware[a]?.getD 0) ∧
    (∀ fn : Function,
      (s.dependenciesMet fn = false → Runs (.functionReady fn) s s) ∧
      (s.dependenciesMet fn = true → ∃ t, Runs (.functionReady fn) s t ∧
        (∀ b, b < 19 → t.safelight.ready.getLsbD b =
          (s.safelight.ready.getLsbD b || decide (Claims.readyBitOf fn = some b))) ∧
        (∀ p, fn = .pillar p → t.safelight.pillarReady.has p.toNat = true) ∧
        ∀ n, fn = .stack n → (t.stack n.toNat).running = true ∧ (t.stack n.toNat).resetAt = s.clk)) ∧
    (∀ k : BitVec 2,
      ((s.stack k.toNat).halted = false → Runs (.stackReset k) s s) ∧
      ((s.stack k.toNat).halted = true → ∃ t, Runs (.stackReset k) s t ∧ (t.stack k.toNat).halted = false ∧
        t.safelight.ready.getLsbD k.toNat = false ∧ t.safelight.ready.getLsbD (4 + k.toNat) = false ∧
        t.mem = s.mem ∧ ∀ p, p.toNat / 256 ≠ k.toNat → t.pil p = s.pil p) ∧
      (∀ temp : Word, temp.toNat ≤ 380 → ∃ t, Runs (.thermalStep k temp) s t ∧ (t.stack k.toNat).stkTemp = temp ∧
        (t.stack k.toNat).clockSteps = 0 ∧ t.pilClk k.toNat = s.pilClk k.toNat ∧ SameBytes s t ∧ t.pillars = s.pillars) ∧
      (∀ temp : Word, 380 < temp.toNat → ∃ t, Runs (.thermalStep k temp) s t ∧ (t.stack k.toNat).stkTemp = temp ∧
        (t.stack k.toNat).clockSteps = min ((s.stack k.toNat).clockSteps + 1) 20 ∧ t.pilClk k.toNat = s.pilClk k.toNat ∧
        ((t.stack k.toNat).halted = true ↔ 440 < temp.toNat ∨ (s.stack k.toNat).halted = true)) ∧
      ∃ t, Runs (.overtempStackHalt k) s t ∧ (t.stack k.toNat).halted = true) ∧
    Runs .phasePeriodBoundary s s

/-! ## Encodings -/

/-- R13-R20, R22-R25, R32: for every well-formed instruction, decoding its words, whatever follows them, gives the instruction with
every field, and its length. No instruction is longer than five words. -/
def Obligations.DecodeEncode : Prop :=
  ∀ (i : Instr) (ws : List Halfword), i.isEvent = false → i.wf = true →
    decode (encode i ++ ws) = .ok i (encode i).length ∧ (encode i).length = instrLen i ∧ (encode i).length ≤ 5

/-- A REG prefix with a t field alone (R19). -/
def Sys2Proof.Claims.regT (t : BitVec 6) : Option RegFields := some { dh := false, sh := false, t := t, q := 0 }

/-- Words that the spec writes out, with the instruction that each chain is. -/
def Sys2Proof.Claims.writtenOut : List (List Halfword × Instr) :=
  [([0xE940, 0xE003, 0xE000, 0x4120], .addi { d := 9, reg := Claims.regT 40, imx := [3, 0] }),
   ([0xF180, 0xF9A0, 0x6089], .vld { d := 4, s := 9, qual := some { k := 1, type := 10, flags := 0 } }),
   ([0xEC00, 0xC300], .beq { d := 24, reg := some { dh := true, sh := false, t := 0, q := 0 } }),
   ([0xF503, 0x192A], .launch { mod := 3, d := 9, s := 10 }),
   ([0xF500, 0x2000], .exit {}),
   ([0xF100, 0xE010, 0x0CBE], .lldI64 { d := 5, s := 30, imx := [16] }),
   ([0xF102, 0x60A6], .cfetch { mod := 2, d := 5, s := 6 }),
   ([0xF100, 0x6BE8], .jmpf { d := 31, s := 8 }),
   ([0xF100, 0x6D25], .tlook { d := 9, s := 5 }),
   ([0xF107, 0x5486], .cas { mod := 7, d := 4, s := 6 }),
   ([0xF500, 0xE850, 0x096D], .fork { d := 11, s := 13, reg := Claims.regT 10 }),
   ([0xF1C0, 0xE860, 0x1888], .vfma { mod := 64, d := 4, s := 8, reg := Claims.regT 12 }),
   ([0xF20A, 0xE848, 0xF8C0, 0x0443], .vquant { mod := 10, d := 2, s := 3, reg := Claims.regT 9, qual := some { k := 0, type := 12, flags := 0 } }),
   ([0xF280, 0x1034], .shld { d := 1, s := 20 }),
   ([0xF282, 0x1D21], .tld { mod := 2, d := 9, s := 1 }),
   ([0xF308, 0xE850, 0x0C49], .mma { mod := 8, d := 2, s := 9, reg := Claims.regT 10 }),
   ([0xF388, 0xE850, 0x0849], .pmma { mod := 8, d := 2, s := 9, reg := Claims.regT 10 }),
   ([0xF400, 0xE001, 0x0808], .pick { s := 8, imx := [1] }),
   ([0xF485, 0x012A], .send { mod := 5, d := 9, s := 10 }),
   ([0xF483, 0xF801, 0x1534], .ramo { mod := 3, d := 9, s := 20, qual := some { k := 0, type := 0, flags := 1 } }),
   ([0xF580, 0xE002, 0x0124], .sysrd { d := 9, s := 4, imx := [2] }),
   ([0xF580, 0x152A], .tlbinv { d := 9, s := 10 })]

/-- R13-R25: the decoder reads these words, which the spec writes out from its encodings, as the instructions it gives. -/
def Obligations.DecodeWords : Prop := ∀ e ∈ Claims.writtenOut, decode e.1 = .ok e.2 e.1.length

/-- The PAGE word of a page with a modifier (R22). -/
def Sys2Proof.Claims.pageWord (page : Nat) (m : BitVec 7) : Halfword := BitVec.ofNat 16 (0xF000 + page * 2 ^ 7 + m.toNat)

/-! ## Steps -/

/-- The machine is about to give a strand its turn: nothing else comes first, and the strand can issue (R89, R370). -/
def Sys2Proof.Claims.turn (s : State) (p : PillarId) (t : StrandId) (ks : List Task) : Prop :=
  s.effects = [] ∧ s.agenda = .issue p t :: ks ∧ ({ s with agenda := ks } : State).boundaryDue p t = false ∧
    ({ s with agenda := ks } : State).canIssue p t = true

/-- The state in which a strand's instruction runs. -/
def Sys2Proof.Claims.running (s : State) (p : PillarId) (t : StrandId) (ks : List Task) : State :=
  ({ s with agenda := ks } : State).focus p t

/-- R13, R29, R89, R90, R129, R363: when the words at the PC of the strand whose turn it is can be fetched and are those of a
well-formed instruction, the step is that instruction's exec for that strand, and then the note that it has issued, which
touches only the wait count, the promotion, the last strand at its priority, and, while the strand waits in the instruction, the window
values of its issue (R108). A strand that cannot issue does nothing. Whose turn it is the agenda says, which is the model's choice (log entry 4). -/
def Obligations.StepRunsDecoded : Prop :=
  (∀ (s : State) (p : PillarId) (t : StrandId) (ks : List Task) (i : Instr), Claims.turn s p t ks →
    i.isEvent = false → i.wf = true →
    let s' := Claims.running s p t ks
    (∀ k w, (encode i)[k]? = some w → s'.me.fetchFault s'.st.fws (fetchAddr s'.st.pc k) = none ∧
      s'.me.fetchWord s'.st.fws (fetchAddr s'.st.pc k) = w) →
    s'.fetched = .ok i (encode i).length ∧ step s = mapNext (State.noteIssue p t s'.st.pri (if s'.st.cw then some s'.sample else none)) (exec i s')) ∧
  (∀ (s : State) (p : PillarId) (t : StrandId) (pri : Nat) (w : Option (Vector Word 8)),
    let s' := s.noteIssue p t pri w
    (s'.strandAt p t).sampled = (if (s.strandAt p t).blocked = .no then none else w) ∧
    SameBytes s s' ∧ (s'.strandAt p t).g = (s.strandAt p t).g ∧ (s'.strandAt p t).pc = (s.strandAt p t).pc ∧
      (s'.strandAt p t).status = (s.strandAt p t).status ∧ ∀ q, q ≠ p → s'.pil q = s.pil q) ∧
  ∀ (s : State) (p : PillarId) (t : StrandId) (ks : List Task), s.effects = [] → s.agenda = .issue p t :: ks →
    ({ s with agenda := ks } : State).boundaryDue p t = false → ({ s with agenda := ks } : State).canIssue p t = false →
    step s = .next { s with agenda := ks }

/-- R27: on cause 0x01 or 0x02 of the words at the PC, TPC holds the address of the instruction's first word; TVAL bits 15:0
hold the word at which the check failed, which for a base word is the base word; bits 18:16 its position; bits 22:19 the page in
effect, which is 0 before a PAGE word has been decoded and for the PAGE word that is refused; and the other bits are zero. -/
def Obligations.IllegalInstructionTrap : Prop :=
  ∀ (s : State) (p : PillarId) (t : StrandId) (ks : List Task) (c : BitVec 8) (k : Nat) (w : Halfword) (page : Nat),
    Claims.turn s p t ks →
    let s' := Claims.running s p t ks
    s'.fetched = .illegal c k w page →
    (c = 0x01 ∨ c = 0x02) ∧ s'.fetchWords[k]? = some w ∧
      (∀ j u, j < k → s'.fetchWords[j]? = some u → isPrefixWord u = true) ∧
      (k = 0 → page = 0) ∧ (c = 0x02 → page = 0 ∧ 12 ≤ w.toNat / 2 ^ 7 % 16) ∧
      (∀ m q, s'.fetchWords[0]? = some (Claims.pageWord q m) → q < 16 → 0 < k → page = q) ∧
      (∀ u, s'.fetchWords[0]? = some u → prefixKind u ≠ 2 ∨ isPrefixWord u = false → page = 0) ∧
      ∃ s1 tval, step s = .next s1 ∧ tval = illegalTval k w page ∧
        tval.toNat = w.toNat + k * 2 ^ 16 + page * 2 ^ 19 ∧ k < 8 ∧ page < 16 ∧
        (s'.st.lvl = 0 → (s1.st.bank 1).tpc = s'.st.pc ∧ (s1.st.bank 1).tval = tval ∧ (s1.st.bank 1).tcause.toNat % 256 = c.toNat) ∧
        (s'.st.lvl = 1 → (s1.st.bank 3).tpc = s'.st.pc ∧ (s1.st.bank 3).tval = tval ∧ (s1.st.bank 3).tcause.toNat % 256 = c.toNat)

/-- The prefix words of an instruction on a page, in the order of R16. -/
def Sys2Proof.Claims.prefixWords (page : Nat) (f : Fields) : List Halfword :=
  (if page = 0 then [] else [Claims.pageWord page f.mod]) ++ (f.reg.toList.map fun r => prefixWord 1 r.payload) ++
    (f.qual.toList.map fun q => prefixWord 3 q.payload) ++ f.imx.map fun x => prefixWord 0 x

/-- A chain of prefixes that R16 allows. -/
def Sys2Proof.Claims.chainOk (page : Nat) (f : Fields) : Prop :=
  page < 12 ∧ (page = 0 → f.mod = 0) ∧ f.imx.length ≤ 3 ∧ (Claims.prefixWords page f).length ≤ 4

/-- A further prefix word after a chain breaks R16: it is a fifth prefix, a second of its kind, out of order, or a fourth IMX. -/
def Sys2Proof.Claims.breaks (page : Nat) (f : Fields) (w : Halfword) : Prop :=
  (Claims.prefixWords page f).length = 4 ∨ (prefixKind w = 2 ∧ Claims.prefixWords page f ≠ []) ∨
    (prefixKind w = 1 ∧ (f.reg ≠ none ∨ f.qual ≠ none ∨ f.imx ≠ [])) ∨
    (prefixKind w = 3 ∧ (f.qual ≠ none ∨ f.imx ≠ [])) ∨ (prefixKind w = 0 ∧ f.imx.length = 3)

/-- R16, R22, R24, R25, R26, R129, R130: what the decoder and the fetch refuse. A PAGE word that names page 0 is cause 0x01, and pages
12 to 15 cause 0x02. After any chain of prefixes that R16 allows, at every position: a prefix out of order, a second of a kind, a
fourth IMX and a fifth prefix are cause 0x01 at that word; so is a base word whose opcode is not assigned on the page in effect, and one
of an instruction whose rules the fields break, among them a register out of its class or an unused field that is not zero, a QUAL or an
IMX word that the form does not accept, and a modifier that the entry does not define. Nothing else than a well-formed instruction
decodes. A word that cannot be fetched is the trap of its fetch. -/
def Obligations.ReservedEncodings : Prop :=
  (∀ m ws, decode (Claims.pageWord 0 m :: ws) = .illegal 0x01 0 (Claims.pageWord 0 m) 0) ∧
  (∀ q m ws, 12 ≤ q → q < 16 → decode (Claims.pageWord q m :: ws) = .illegal 0x02 0 (Claims.pageWord q m) 0) ∧
  (∀ (page : Nat) (f : Fields) (w : Halfword) (ws : List Halfword), Claims.chainOk page f → isPrefixWord w = true →
    Claims.breaks page f w →
    decode (Claims.prefixWords page f ++ w :: ws) = .illegal 0x01 (Claims.prefixWords page f).length w page) ∧
  (∀ (page op : Nat) (f : Fields) (ws : List Halfword), Claims.chainOk page f → op < 56 →
    let b := baseWord op f.d f.s
    let n := (Claims.prefixWords page f).length
    (constructorOf page op = none → decode (Claims.prefixWords page f ++ b :: ws) = .illegal 0x01 n b page) ∧
    ∀ mk, constructorOf page op = some mk →
      ((mk f).wf = false → decode (Claims.prefixWords page f ++ b :: ws) = .illegal 0x01 n b page) ∧
      ((mk f).wf = true → decode (Claims.prefixWords page f ++ b :: ws) = .ok (mk f) (n + 1))) ∧
  (∀ (i : Instr) (r : Row) (f : Fields), i.row = some (r, f) →
    r.fieldsOk f = false ∨ (r.qual = .refused ∧ f.qual ≠ none) ∨ r.imx < f.imx.length ∨ r.mod f.mod = false → i.wf = false) ∧
  (∀ ws i n, decode ws = .ok i n → i.isEvent = false ∧ i.wf = true ∧ n ≤ 5 ∧ ws.take n = encode i) ∧
  ∀ (s : State) (p : PillarId) (t : StrandId) (ks : List Task) (k : Nat) (c : BitVec 8) (v : Word), Claims.turn s p t ks →
    let s' := Claims.running s p t ks
    s'.fetched = .short k → s'.me.fetchFault s'.st.fws (fetchAddr s'.st.pc k) = some (c, v) →
    ∃ w, step s = mapNext (State.noteIssue p t s'.st.pri w) (.next (s'.takeTrap { cause := c, tval := v }))

/-- R10, R89, R366: no event of the spec stops the machine (log entry 4 orders them, and is the model's choice): every step of every state gives a next state, so a run of any
length goes on. -/
def Obligations.StepGoesOn : Prop := (∀ s : State, s.goesOn) ∧ ∀ k (s : State), SafeRun k s

/-- R6, R11, R385: an invariant that every step keeps. In a canonical state the bytes of the vaults and of the second tier, of every local
store and of the slots and tiles of every matrix engine stand in their one canonical form, as do the sets of poisoned units, words,
bytes and elements and of empty words (log entry 2). Every step of every canonical state gives a canonical state. -/
def Obligations.StepKeepsCanonicalForm : Prop := ∀ s t : State, s.Canonical → step s = .next t → t.Canonical

/-! ## Registers and reset -/

/-- R99, R104: the general registers. g0 reads as zero, and a write to it changes no register; any other reads as it was last
written, and a write leaves every other register of every strand. While CW is 1 a read of g56 to g63 gives the window, and a write
goes to the contents that it hides. -/
def Obligations.GeneralRegisterFile : Prop :=
  (∀ r : Strand, r.reg 0 = {}) ∧
  ∀ (s : State) (n : Nat) (v : PWord),
    let t := s.setG n v
    (n = 0 ∨ 64 ≤ n → ∀ p u k, (t.strandAt p u).reg k = (s.strandAt p u).reg k) ∧
    (n ≠ 0 → n < 64 → t.st.reg n = v ∧ (s.st.cw = false ∨ n < 56 → t.g n = v) ∧ (s.st.cw = true → 56 ≤ n → t.g n = s.g n)) ∧
    (∀ k, k ≠ n → t.st.reg k = s.st.reg k ∧ t.g k = s.g k) ∧
    (∀ p u, p ≠ s.curP ∨ u ≠ s.curT → t.strandAt p u = s.strandAt p u) ∧
    (s.st.cw = true → ∀ k, 56 ≤ k → s.g k = { bits := s.window k }) ∧ (s.st.cw = false → ∀ k, s.g k = s.st.reg k) ∧
    SameBytes s t ∧ t.st.status = s.st.status ∧ t.st.pc = s.st.pc

/-- R105, R106, R107, R108: under the window the registers of an instruction in which the strand has waited read as they were at its
issue; otherwise they show this clk. g60 shows, a byte for each of north, east, south and west, whether the link is trained, the
neighbour has signalled off requests or responses, and it lies beyond a fence; a port without a neighbour reads 0. g56 to g59 give the messages that wait in inboxes 0 to 3, up to eight, and whether all eight slots
hold one, with every other bit zero, and are zero exactly when the inbox is empty. g61 gives the total in bits 9:4 and, in bit n,
whether inbox n holds a message, every other bit zero, for at most 32 messages; it is zero exactly when all four are empty. g62
and g63 read as zero. -/
def Obligations.ConditionWindow : Prop :=
  (∀ s : State, s.st.cw = true → ∀ w, s.st.sampled = some w → ∀ k : Fin 8, s.g (56 + k.val) = { bits := w[k] }) ∧
  (∀ s : State, ∀ k : Fin 8, s.sample[k] = s.windowNow (56 + k.val)) ∧
  ∀ s : State, s.st.cw = true → s.st.sampled = none →
    let port (k : Nat) (d : MeshPort) : Prop :=
      let b := (s.g 60).bits.toNat / 256 ^ k % 256
      (neighbour s.curP d = none → b = 0) ∧
      ∀ q, neighbour s.curP d = some q → b =
        (if s.linkTrained s.curP q then 1 else 0) + (if s.me.reqOff.toNat.testBit k then 2 else 0) +
          (if s.me.rspOff.toNat.testBit k then 4 else 0) + (if s.fenced s.curP q then 8 else 0)
    (port 0 .north ∧ port 1 .east ∧ port 2 .south ∧ port 3 .west ∧ (s.g 60).bad = false ∧ (s.g 60).bits.toNat < 2 ^ 32) ∧
    let n (i : Fin 4) : Nat := (s.me.msg.inboxes[i]).messages.length
    let total := n 0 + n 1 + n 2 + n 3
    (∀ i : Fin 4, let v := s.g (56 + i.val)
      v.bad = false ∧ v.bits.toNat = min (n i) 8 + (if 8 ≤ n i then 16 else 0) ∧ (v.bits = 0 ↔ n i = 0)) ∧
    (total ≤ 32 → let v := s.g 61
      v.bad = false ∧ v.bits.toNat / 16 = total ∧ (∀ i : Fin 4, v.bits.getLsbD i.val = decide (n i ≠ 0)) ∧
        (v.bits = 0 ↔ total = 0)) ∧
    s.g 62 = {} ∧ s.g 63 = {}

/-- R52, R71, R72, R127, R143, R159, R209, R222, R362, R364, R375, R384, R423: what reset leaves of the values that the spec gives:
STATUS 0, FMT 0x8800, XB 0, STEAL with BACKOFF 256 and no domain, SAVEOFF 0x2F, CALENDAR with SPACING 5,461, TAGCFG 0, CHAIN 0, q0
with all 32 slots, launch queues 0, no function ready, no pillar placed and no job. Memory reads zero (log entry 2), lists
nothing, and every form is canonical; the registers of strands are zero (log entry 1). -/
def Obligations.ResetState : Prop :=
  let s := State.reset
  s.Canonical ∧ s.mem.wf = true ∧ (∀ a, s.mem.get a = 0) ∧ s.effects = [] ∧ s.launch.jobs = [] ∧ s.safelight.ready = 0 ∧ s.ctxBase = 0 ∧
    (∀ n, n < 16 → (s.lq n).base = 0 ∧ (s.lq n).ctl = 0 ∧ (s.lq n).head = 0 ∧ (s.lq n).tail = 0) ∧
    (∀ n, n < 4 → (s.stack n).chain = 0 ∧ (s.stack n).running = false) ∧
    ∀ p : PillarId, let x := s.pil p
      x.phase = .free ∧ s.safelight.pillarReady.has p.toNat = false ∧ x.xb = 0 ∧ x.steal = 0x1000000 ∧ x.saveOff = 0xBC00000 ∧
        x.vault.calendar = 5461 * 2 ^ 36 ∧ x.tags.count = 0 ∧ x.tags.baseKb = 0 ∧ x.signal = 0 ∧ x.pickNo = 0 ∧
        (x.mtx.spool 0).count = 32 ∧ (∀ q, 0 < q → q < 8 → (x.mtx.spool q).count = 0) ∧
        ∀ t : StrandId, let r := x.strand t
          r.status = 0 ∧ r.fmt = 0x8800 ∧ r.supervisor.tcause = 0 ∧ r.machine.tcause = 0 ∧ (∀ n, r.reg n = {}) ∧ r.run = .idle
end

