-- ==== Sys2Proof/Laws/Exec.lean ====
section
/-! SUPPORT. One equation an instruction: exec is its meaning. -/

namespace Sys2Proof.Machine

@[simp] theorem exec_add (f : Fields) (s : State) : exec (.add f) s = execAdd f s := rfl
@[simp] theorem exec_sub (f : Fields) (s : State) : exec (.sub f) s = execSub f s := rfl
@[simp] theorem exec_and (f : Fields) (s : State) : exec (.and f) s = execAnd f s := rfl
@[simp] theorem exec_or (f : Fields) (s : State) : exec (.or f) s = execOr f s := rfl
@[simp] theorem exec_xor (f : Fields) (s : State) : exec (.xor f) s = execXor f s := rfl
@[simp] theorem exec_andn (f : Fields) (s : State) : exec (.andn f) s = execAndn f s := rfl
@[simp] theorem exec_shl (f : Fields) (s : State) : exec (.shl f) s = execShl f s := rfl
@[simp] theorem exec_shr (f : Fields) (s : State) : exec (.shr f) s = execShr f s := rfl
@[simp] theorem exec_sar (f : Fields) (s : State) : exec (.sar f) s = execSar f s := rfl
@[simp] theorem exec_slt (f : Fields) (s : State) : exec (.slt f) s = execSlt f s := rfl
@[simp] theorem exec_sltn (f : Fields) (s : State) : exec (.sltn f) s = execSltn f s := rfl
@[simp] theorem exec_min (f : Fields) (s : State) : exec (.min f) s = execMin f s := rfl
@[simp] theorem exec_max (f : Fields) (s : State) : exec (.max f) s = execMax f s := rfl
@[simp] theorem exec_mov (f : Fields) (s : State) : exec (.mov f) s = execMov f s := rfl
@[simp] theorem exec_sel (f : Fields) (s : State) : exec (.sel f) s = execSel f s := rfl
@[simp] theorem exec_selz (f : Fields) (s : State) : exec (.selz f) s = execSelz f s := rfl
@[simp] theorem exec_addi (f : Fields) (s : State) : exec (.addi f) s = execAddi f s := rfl
@[simp] theorem exec_andi (f : Fields) (s : State) : exec (.andi f) s = execAndi f s := rfl
@[simp] theorem exec_ori (f : Fields) (s : State) : exec (.ori f) s = execOri f s := rfl
@[simp] theorem exec_xori (f : Fields) (s : State) : exec (.xori f) s = execXori f s := rfl
@[simp] theorem exec_shli (f : Fields) (s : State) : exec (.shli f) s = execShli f s := rfl
@[simp] theorem exec_shri (f : Fields) (s : State) : exec (.shri f) s = execShri f s := rfl
@[simp] theorem exec_sari (f : Fields) (s : State) : exec (.sari f) s = execSari f s := rfl
@[simp] theorem exec_slti (f : Fields) (s : State) : exec (.slti f) s = execSlti f s := rfl
@[simp] theorem exec_li (f : Fields) (s : State) : exec (.li f) s = execLi f s := rfl
@[simp] theorem exec_lpc (f : Fields) (s : State) : exec (.lpc f) s = execLpc f s := rfl
@[simp] theorem exec_ldI8 (f : Fields) (s : State) : exec (.ldI8 f) s = execLdI8 f s := rfl
@[simp] theorem exec_ldI16 (f : Fields) (s : State) : exec (.ldI16 f) s = execLdI16 f s := rfl
@[simp] theorem exec_ldI32 (f : Fields) (s : State) : exec (.ldI32 f) s = execLdI32 f s := rfl
@[simp] theorem exec_ldI64 (f : Fields) (s : State) : exec (.ldI64 f) s = execLdI64 f s := rfl
@[simp] theorem exec_ldN8 (f : Fields) (s : State) : exec (.ldN8 f) s = execLdN8 f s := rfl
@[simp] theorem exec_ldN16 (f : Fields) (s : State) : exec (.ldN16 f) s = execLdN16 f s := rfl
@[simp] theorem exec_ldN32 (f : Fields) (s : State) : exec (.ldN32 f) s = execLdN32 f s := rfl
@[simp] theorem exec_stI8 (f : Fields) (s : State) : exec (.stI8 f) s = execStI8 f s := rfl
@[simp] theorem exec_stI16 (f : Fields) (s : State) : exec (.stI16 f) s = execStI16 f s := rfl
@[simp] theorem exec_stI32 (f : Fields) (s : State) : exec (.stI32 f) s = execStI32 f s := rfl
@[simp] theorem exec_stI64 (f : Fields) (s : State) : exec (.stI64 f) s = execStI64 f s := rfl
@[simp] theorem exec_jal (f : Fields) (s : State) : exec (.jal f) s = execJal f s := rfl
@[simp] theorem exec_jr (f : Fields) (s : State) : exec (.jr f) s = execJr f s := rfl
@[simp] theorem exec_svc (f : Fields) (s : State) : exec (.svc f) s = execSvc f s := rfl
@[simp] theorem exec_brk (f : Fields) (s : State) : exec (.brk f) s = execBrk f s := rfl
@[simp] theorem exec_beq (f : Fields) (s : State) : exec (.beq f) s = execBeq f s := rfl
@[simp] theorem exec_bne (f : Fields) (s : State) : exec (.bne f) s = execBne f s := rfl
@[simp] theorem exec_blt (f : Fields) (s : State) : exec (.blt f) s = execBlt f s := rfl
@[simp] theorem exec_bge (f : Fields) (s : State) : exec (.bge f) s = execBge f s := rfl
@[simp] theorem exec_bltn (f : Fields) (s : State) : exec (.bltn f) s = execBltn f s := rfl
@[simp] theorem exec_bgen (f : Fields) (s : State) : exec (.bgen f) s = execBgen f s := rfl
@[simp] theorem exec_mul (f : Fields) (s : State) : exec (.mul f) s = execMul f s := rfl
@[simp] theorem exec_mulh (f : Fields) (s : State) : exec (.mulh f) s = execMulh f s := rfl
@[simp] theorem exec_mulhn (f : Fields) (s : State) : exec (.mulhn f) s = execMulhn f s := rfl
@[simp] theorem exec_madd (f : Fields) (s : State) : exec (.madd f) s = execMadd f s := rfl
@[simp] theorem exec_div (f : Fields) (s : State) : exec (.div f) s = execDiv f s := rfl
@[simp] theorem exec_divn (f : Fields) (s : State) : exec (.divn f) s = execDivn f s := rfl
@[simp] theorem exec_rem (f : Fields) (s : State) : exec (.rem f) s = execRem f s := rfl
@[simp] theorem exec_remn (f : Fields) (s : State) : exec (.remn f) s = execRemn f s := rfl
@[simp] theorem exec_clz (f : Fields) (s : State) : exec (.clz f) s = execClz f s := rfl
@[simp] theorem exec_ctz (f : Fields) (s : State) : exec (.ctz f) s = execCtz f s := rfl
@[simp] theorem exec_popc (f : Fields) (s : State) : exec (.popc f) s = execPopc f s := rfl
@[simp] theorem exec_bswap (f : Fields) (s : State) : exec (.bswap f) s = execBswap f s := rfl
@[simp] theorem exec_brev (f : Fields) (s : State) : exec (.brev f) s = execBrev f s := rfl
@[simp] theorem exec_bfx (f : Fields) (s : State) : exec (.bfx f) s = execBfx f s := rfl
@[simp] theorem exec_bfxn (f : Fields) (s : State) : exec (.bfxn f) s = execBfxn f s := rfl
@[simp] theorem exec_bfi (f : Fields) (s : State) : exec (.bfi f) s = execBfi f s := rfl
@[simp] theorem exec_fshl (f : Fields) (s : State) : exec (.fshl f) s = execFshl f s := rfl
@[simp] theorem exec_fshr (f : Fields) (s : State) : exec (.fshr f) s = execFshr f s := rfl
@[simp] theorem exec_lldI8 (f : Fields) (s : State) : exec (.lldI8 f) s = execLldI8 f s := rfl
@[simp] theorem exec_lldI16 (f : Fields) (s : State) : exec (.lldI16 f) s = execLldI16 f s := rfl
@[simp] theorem exec_lldI32 (f : Fields) (s : State) : exec (.lldI32 f) s = execLldI32 f s := rfl
@[simp] theorem exec_lldI64 (f : Fields) (s : State) : exec (.lldI64 f) s = execLldI64 f s := rfl
@[simp] theorem exec_lldN8 (f : Fields) (s : State) : exec (.lldN8 f) s = execLldN8 f s := rfl
@[simp] theorem exec_lldN16 (f : Fields) (s : State) : exec (.lldN16 f) s = execLldN16 f s := rfl
@[simp] theorem exec_lldN32 (f : Fields) (s : State) : exec (.lldN32 f) s = execLldN32 f s := rfl
@[simp] theorem exec_lstI8 (f : Fields) (s : State) : exec (.lstI8 f) s = execLstI8 f s := rfl
@[simp] theorem exec_lstI16 (f : Fields) (s : State) : exec (.lstI16 f) s = execLstI16 f s := rfl
@[simp] theorem exec_lstI32 (f : Fields) (s : State) : exec (.lstI32 f) s = execLstI32 f s := rfl
@[simp] theorem exec_lstI64 (f : Fields) (s : State) : exec (.lstI64 f) s = execLstI64 f s := rfl
@[simp] theorem exec_lldf (f : Fields) (s : State) : exec (.lldf f) s = execLldf f s := rfl
@[simp] theorem exec_llde (f : Fields) (s : State) : exec (.llde f) s = execLlde f s := rfl
@[simp] theorem exec_lstf (f : Fields) (s : State) : exec (.lstf f) s = execLstf f s := rfl
@[simp] theorem exec_feset (f : Fields) (s : State) : exec (.feset f) s = execFeset f s := rfl
@[simp] theorem exec_feclr (f : Fields) (s : State) : exec (.feclr f) s = execFeclr f s := rfl
@[simp] theorem exec_lda (f : Fields) (s : State) : exec (.lda f) s = execLda f s := rfl
@[simp] theorem exec_stl (f : Fields) (s : State) : exec (.stl f) s = execStl f s := rfl
@[simp] theorem exec_scld (f : Fields) (s : State) : exec (.scld f) s = execScld f s := rfl
@[simp] theorem exec_scst (f : Fields) (s : State) : exec (.scst f) s = execScst f s := rfl
@[simp] theorem exec_amo (f : Fields) (s : State) : exec (.amo f) s = execAmo f s := rfl
@[simp] theorem exec_cas (f : Fields) (s : State) : exec (.cas f) s = execCas f s := rfl
@[simp] theorem exec_scamo (f : Fields) (s : State) : exec (.scamo f) s = execScamo f s := rfl
@[simp] theorem exec_fence (f : Fields) (s : State) : exec (.fence f) s = execFence f s := rfl
@[simp] theorem exec_cfetch (f : Fields) (s : State) : exec (.cfetch f) s = execCfetch f s := rfl
@[simp] theorem exec_cwait (f : Fields) (s : State) : exec (.cwait f) s = execCwait f s := rfl
@[simp] theorem exec_jmpf (f : Fields) (s : State) : exec (.jmpf f) s = execJmpf f s := rfl
@[simp] theorem exec_tlook (f : Fields) (s : State) : exec (.tlook f) s = execTlook f s := rfl
@[simp] theorem exec_tfill (f : Fields) (s : State) : exec (.tfill f) s = execTfill f s := rfl
@[simp] theorem exec_tevict (f : Fields) (s : State) : exec (.tevict f) s = execTevict f s := rfl
@[simp] theorem exec_tinval (f : Fields) (s : State) : exec (.tinval f) s = execTinval f s := rfl
@[simp] theorem exec_vadd (f : Fields) (s : State) : exec (.vadd f) s = execVadd f s := rfl
@[simp] theorem exec_vsub (f : Fields) (s : State) : exec (.vsub f) s = execVsub f s := rfl
@[simp] theorem exec_vmul (f : Fields) (s : State) : exec (.vmul f) s = execVmul f s := rfl
@[simp] theorem exec_vdiv (f : Fields) (s : State) : exec (.vdiv f) s = execVdiv f s := rfl
@[simp] theorem exec_vmin (f : Fields) (s : State) : exec (.vmin f) s = execVmin f s := rfl
@[simp] theorem exec_vmax (f : Fields) (s : State) : exec (.vmax f) s = execVmax f s := rfl
@[simp] theorem exec_vfma (f : Fields) (s : State) : exec (.vfma f) s = execVfma f s := rfl
@[simp] theorem exec_vfms (f : Fields) (s : State) : exec (.vfms f) s = execVfms f s := rfl
@[simp] theorem exec_vabs (f : Fields) (s : State) : exec (.vabs f) s = execVabs f s := rfl
@[simp] theorem exec_vneg (f : Fields) (s : State) : exec (.vneg f) s = execVneg f s := rfl
@[simp] theorem exec_vsqrt (f : Fields) (s : State) : exec (.vsqrt f) s = execVsqrt f s := rfl
@[simp] theorem exec_vand (f : Fields) (s : State) : exec (.vand f) s = execVand f s := rfl
@[simp] theorem exec_vor (f : Fields) (s : State) : exec (.vor f) s = execVor f s := rfl
@[simp] theorem exec_vxor (f : Fields) (s : State) : exec (.vxor f) s = execVxor f s := rfl
@[simp] theorem exec_vandn (f : Fields) (s : State) : exec (.vandn f) s = execVandn f s := rfl
@[simp] theorem exec_vshl (f : Fields) (s : State) : exec (.vshl f) s = execVshl f s := rfl
@[simp] theorem exec_vshr (f : Fields) (s : State) : exec (.vshr f) s = execVshr f s := rfl
@[simp] theorem exec_vsar (f : Fields) (s : State) : exec (.vsar f) s = execVsar f s := rfl
@[simp] theorem exec_vcmp (f : Fields) (s : State) : exec (.vcmp f) s = execVcmp f s := rfl
@[simp] theorem exec_vsel (f : Fields) (s : State) : exec (.vsel f) s = execVsel f s := rfl
@[simp] theorem exec_vmov (f : Fields) (s : State) : exec (.vmov f) s = execVmov f s := rfl
@[simp] theorem exec_vbcast (f : Fields) (s : State) : exec (.vbcast f) s = execVbcast f s := rfl
@[simp] theorem exec_vins (f : Fields) (s : State) : exec (.vins f) s = execVins f s := rfl
@[simp] theorem exec_vext (f : Fields) (s : State) : exec (.vext f) s = execVext f s := rfl
@[simp] theorem exec_vld (f : Fields) (s : State) : exec (.vld f) s = execVld f s := rfl
@[simp] theorem exec_vst (f : Fields) (s : State) : exec (.vst f) s = execVst f s := rfl
@[simp] theorem exec_vgather (f : Fields) (s : State) : exec (.vgather f) s = execVgather f s := rfl
@[simp] theorem exec_vscatter (f : Fields) (s : State) : exec (.vscatter f) s = execVscatter f s := rfl
@[simp] theorem exec_kand (f : Fields) (s : State) : exec (.kand f) s = execKand f s := rfl
@[simp] theorem exec_kor (f : Fields) (s : State) : exec (.kor f) s = execKor f s := rfl
@[simp] theorem exec_knot (f : Fields) (s : State) : exec (.knot f) s = execKnot f s := rfl
@[simp] theorem exec_kmovg (f : Fields) (s : State) : exec (.kmovg f) s = execKmovg f s := rfl
@[simp] theorem exec_kmovk (f : Fields) (s : State) : exec (.kmovk f) s = execKmovk f s := rfl
@[simp] theorem exec_kpopc (f : Fields) (s : State) : exec (.kpopc f) s = execKpopc f s := rfl
@[simp] theorem exec_vcvt (f : Fields) (s : State) : exec (.vcvt f) s = execVcvt f s := rfl
@[simp] theorem exec_vquant (f : Fields) (s : State) : exec (.vquant f) s = execVquant f s := rfl
@[simp] theorem exec_vdequant (f : Fields) (s : State) : exec (.vdequant f) s = execVdequant f s := rfl
@[simp] theorem exec_vbscale (f : Fields) (s : State) : exec (.vbscale f) s = execVbscale f s := rfl
@[simp] theorem exec_vexp2 (f : Fields) (s : State) : exec (.vexp2 f) s = execVexp2 f s := rfl
@[simp] theorem exec_vlog2 (f : Fields) (s : State) : exec (.vlog2 f) s = execVlog2 f s := rfl
@[simp] theorem exec_vrcp (f : Fields) (s : State) : exec (.vrcp f) s = execVrcp f s := rfl
@[simp] theorem exec_vrsqrt (f : Fields) (s : State) : exec (.vrsqrt f) s = execVrsqrt f s := rfl
@[simp] theorem exec_vred (f : Fields) (s : State) : exec (.vred f) s = execVred f s := rfl
@[simp] theorem exec_vperm (f : Fields) (s : State) : exec (.vperm f) s = execVperm f s := rfl
@[simp] theorem exec_vshuf (f : Fields) (s : State) : exec (.vshuf f) s = execVshuf f s := rfl
@[simp] theorem exec_vrot (f : Fields) (s : State) : exec (.vrot f) s = execVrot f s := rfl
@[simp] theorem exec_vcompress (f : Fields) (s : State) : exec (.vcompress f) s = execVcompress f s := rfl
@[simp] theorem exec_vexpand (f : Fields) (s : State) : exec (.vexpand f) s = execVexpand f s := rfl
@[simp] theorem exec_vdot (f : Fields) (s : State) : exec (.vdot f) s = execVdot f s := rfl
@[simp] theorem exec_rowact (f : Fields) (s : State) : exec (.rowact f) s = execRowact f s := rfl
@[simp] theorem exec_rowclose (f : Fields) (s : State) : exec (.rowclose f) s = execRowclose f s := rfl
@[simp] theorem exec_rowshort (f : Fields) (s : State) : exec (.rowshort f) s = execRowshort f s := rfl
@[simp] theorem exec_rowkeep (f : Fields) (s : State) : exec (.rowkeep f) s = execRowkeep f s := rfl
@[simp] theorem exec_shld (f : Fields) (s : State) : exec (.shld f) s = execShld f s := rfl
@[simp] theorem exec_shst (f : Fields) (s : State) : exec (.shst f) s = execShst f s := rfl
@[simp] theorem exec_shset (f : Fields) (s : State) : exec (.shset f) s = execShset f s := rfl
@[simp] theorem exec_tld (f : Fields) (s : State) : exec (.tld f) s = execTld f s := rfl
@[simp] theorem exec_tldt (f : Fields) (s : State) : exec (.tldt f) s = execTldt f s := rfl
@[simp] theorem exec_tldc (f : Fields) (s : State) : exec (.tldc f) s = execTldc f s := rfl
@[simp] theorem exec_tldtc (f : Fields) (s : State) : exec (.tldtc f) s = execTldtc f s := rfl
@[simp] theorem exec_bcopy (f : Fields) (s : State) : exec (.bcopy f) s = execBcopy f s := rfl
@[simp] theorem exec_bcopyt (f : Fields) (s : State) : exec (.bcopyt f) s = execBcopyt f s := rfl
@[simp] theorem exec_bcopyc (f : Fields) (s : State) : exec (.bcopyc f) s = execBcopyc f s := rfl
@[simp] theorem exec_bcopyx (f : Fields) (s : State) : exec (.bcopyx f) s = execBcopyx f s := rfl
@[simp] theorem exec_spoolcfg (f : Fields) (s : State) : exec (.spoolcfg f) s = execSpoolcfg f s := rfl
@[simp] theorem exec_await (f : Fields) (s : State) : exec (.await f) s = execAwait f s := rfl
@[simp] theorem exec_release (f : Fields) (s : State) : exec (.release f) s = execRelease f s := rfl
@[simp] theorem exec_mma (f : Fields) (s : State) : exec (.mma f) s = execMma f s := rfl
@[simp] theorem exec_mmabs (f : Fields) (s : State) : exec (.mmabs f) s = execMmabs f s := rfl
@[simp] theorem exec_mmv (f : Fields) (s : State) : exec (.mmv f) s = execMmv f s := rfl
@[simp] theorem exec_mzero (f : Fields) (s : State) : exec (.mzero f) s = execMzero f s := rfl
@[simp] theorem exec_mld (f : Fields) (s : State) : exec (.mld f) s = execMld f s := rfl
@[simp] theorem exec_mst (f : Fields) (s : State) : exec (.mst f) s = execMst f s := rfl
@[simp] theorem exec_mcommit (f : Fields) (s : State) : exec (.mcommit f) s = execMcommit f s := rfl
@[simp] theorem exec_mwait (f : Fields) (s : State) : exec (.mwait f) s = execMwait f s := rfl
@[simp] theorem exec_sldv (f : Fields) (s : State) : exec (.sldv f) s = execSldv f s := rfl
@[simp] theorem exec_sstv (f : Fields) (s : State) : exec (.sstv f) s = execSstv f s := rfl
@[simp] theorem exec_loomjoin (f : Fields) (s : State) : exec (.loomjoin f) s = execLoomjoin f s := rfl
@[simp] theorem exec_loomgo (f : Fields) (s : State) : exec (.loomgo f) s = execLoomgo f s := rfl
@[simp] theorem exec_loomsplit (f : Fields) (s : State) : exec (.loomsplit f) s = execLoomsplit f s := rfl
@[simp] theorem exec_drain (f : Fields) (s : State) : exec (.drain f) s = execDrain f s := rfl
@[simp] theorem exec_psplita (f : Fields) (s : State) : exec (.psplita f) s = execPsplita f s := rfl
@[simp] theorem exec_psplitb (f : Fields) (s : State) : exec (.psplitb f) s = execPsplitb f s := rfl
@[simp] theorem exec_pmma (f : Fields) (s : State) : exec (.pmma f) s = execPmma f s := rfl
@[simp] theorem exec_pjoin (f : Fields) (s : State) : exec (.pjoin f) s = execPjoin f s := rfl
@[simp] theorem exec_pstat (f : Fields) (s : State) : exec (.pstat f) s = execPstat f s := rfl
@[simp] theorem exec_draft (f : Fields) (s : State) : exec (.draft f) s = execDraft f s := rfl
@[simp] theorem exec_draftrel (f : Fields) (s : State) : exec (.draftrel f) s = execDraftrel f s := rfl
@[simp] theorem exec_pick (f : Fields) (s : State) : exec (.pick f) s = execPick f s := rfl
@[simp] theorem exec_drwait (f : Fields) (s : State) : exec (.drwait f) s = execDrwait f s := rfl
@[simp] theorem exec_drstat (f : Fields) (s : State) : exec (.drstat f) s = execDrstat f s := rfl
@[simp] theorem exec_dfetch (f : Fields) (s : State) : exec (.dfetch f) s = execDfetch f s := rfl
@[simp] theorem exec_devict (f : Fields) (s : State) : exec (.devict f) s = execDevict f s := rfl
@[simp] theorem exec_dpin (f : Fields) (s : State) : exec (.dpin f) s = execDpin f s := rfl
@[simp] theorem exec_dunpin (f : Fields) (s : State) : exec (.dunpin f) s = execDunpin f s := rfl
@[simp] theorem exec_send (f : Fields) (s : State) : exec (.send f) s = execSend f s := rfl
@[simp] theorem exec_recv (f : Fields) (s : State) : exec (.recv f) s = execRecv f s := rfl
@[simp] theorem exec_recvp (f : Fields) (s : State) : exec (.recvp f) s = execRecvp f s := rfl
@[simp] theorem exec_rld (f : Fields) (s : State) : exec (.rld f) s = execRld f s := rfl
@[simp] theorem exec_rst (f : Fields) (s : State) : exec (.rst f) s = execRst f s := rfl
@[simp] theorem exec_ramo (f : Fields) (s : State) : exec (.ramo f) s = execRamo f s := rfl
@[simp] theorem exec_rcas (f : Fields) (s : State) : exec (.rcas f) s = execRcas f s := rfl
@[simp] theorem exec_rfill (f : Fields) (s : State) : exec (.rfill f) s = execRfill f s := rfl
@[simp] theorem exec_rdecw (f : Fields) (s : State) : exec (.rdecw f) s = execRdecw f s := rfl
@[simp] theorem exec_rwadd (f : Fields) (s : State) : exec (.rwadd f) s = execRwadd f s := rfl
@[simp] theorem exec_rwrd (f : Fields) (s : State) : exec (.rwrd f) s = execRwrd f s := rfl
@[simp] theorem exec_rfadd (f : Fields) (s : State) : exec (.rfadd f) s = execRfadd f s := rfl
@[simp] theorem exec_rcopy (f : Fields) (s : State) : exec (.rcopy f) s = execRcopy f s := rfl
@[simp] theorem exec_rsig (f : Fields) (s : State) : exec (.rsig f) s = execRsig f s := rfl
@[simp] theorem exec_rwait (f : Fields) (s : State) : exec (.rwait f) s = execRwait f s := rfl
@[simp] theorem exec_frun (f : Fields) (s : State) : exec (.frun f) s = execFrun f s := rfl
@[simp] theorem exec_fstop (f : Fields) (s : State) : exec (.fstop f) s = execFstop f s := rfl
@[simp] theorem exec_fork (f : Fields) (s : State) : exec (.fork f) s = execFork f s := rfl
@[simp] theorem exec_join (f : Fields) (s : State) : exec (.join f) s = execJoin f s := rfl
@[simp] theorem exec_fyield (f : Fields) (s : State) : exec (.fyield f) s = execFyield f s := rfl
@[simp] theorem exec_fexit (f : Fields) (s : State) : exec (.fexit f) s = execFexit f s := rfl
@[simp] theorem exec_launch (f : Fields) (s : State) : exec (.launch f) s = execLaunch f s := rfl
@[simp] theorem exec_handoff (f : Fields) (s : State) : exec (.handoff f) s = execHandoff f s := rfl
@[simp] theorem exec_exit (f : Fields) (s : State) : exec (.exit f) s = execExit f s := rfl
@[simp] theorem exec_sysrd (f : Fields) (s : State) : exec (.sysrd f) s = execSysrd f s := rfl
@[simp] theorem exec_syswr (f : Fields) (s : State) : exec (.syswr f) s = execSyswr f s := rfl
@[simp] theorem exec_tret (f : Fields) (s : State) : exec (.tret f) s = execTret f s := rfl
@[simp] theorem exec_halt (f : Fields) (s : State) : exec (.halt f) s = execHalt f s := rfl
@[simp] theorem exec_waiti (f : Fields) (s : State) : exec (.waiti f) s = execWaiti f s := rfl
@[simp] theorem exec_tlbinv (f : Fields) (s : State) : exec (.tlbinv f) s = execTlbinv f s := rfl
@[simp] theorem exec_tlbinva (f : Fields) (s : State) : exec (.tlbinva f) s = execTlbinva f s := rfl
@[simp] theorem exec_tlbinvp (f : Fields) (s : State) : exec (.tlbinvp f) s = execTlbinvp f s := rfl
@[simp] theorem exec_ringrd (f : Fields) (s : State) : exec (.ringrd f) s = execRingrd f s := rfl
@[simp] theorem exec_preempt (f : Fields) (s : State) : exec (.preempt f) s = execPreempt f s := rfl
@[simp] theorem exec_migrate (f : Fields) (s : State) : exec (.migrate f) s = execMigrate f s := rfl
@[simp] theorem exec_lqtailWrite {q v} (s : State) : exec (.lqtailWrite q v) s = execLqtailWrite q v s := rfl
@[simp] theorem exec_jobAdmit {q} (s : State) : exec (.jobAdmit q) s = execJobAdmit q s := rfl
@[simp] theorem exec_jobPlace (s : State) : exec .jobPlace s = execJobPlace s := rfl
@[simp] theorem exec_backfillAgeLimit {job} (s : State) : exec (.backfillAgeLimit job) s = execBackfillAgeLimit job s := rfl
@[simp] theorem exec_imageLoaded {job} (s : State) : exec (.imageLoaded job) s = execImageLoaded job s := rfl
@[simp] theorem exec_pillarScrubDone {p} (s : State) : exec (.pillarScrubDone p) s = execPillarScrubDone p s := rfl
@[simp] theorem exec_issuePromotion {p t} (s : State) : exec (.issuePromotion p t) s = execIssuePromotion p t s := rfl
@[simp] theorem exec_engineAccept {p e} (s : State) : exec (.engineAccept p e) s = execEngineAccept p e s := rfl
@[simp] theorem exec_vectorComplete {p t} (s : State) : exec (.vectorComplete p t) s = execVectorComplete p t s := rfl
@[simp] theorem exec_storeBufferDrain {p t} (s : State) : exec (.storeBufferDrain p t) s = execStoreBufferDrain p t s := rfl
@[simp] theorem exec_loadDataReturn {p t} (s : State) : exec (.loadDataReturn p t) s = execLoadDataReturn p t s := rfl
@[simp] theorem exec_blockedWaitEnd {p t} (s : State) : exec (.blockedWaitEnd p t) s = execBlockedWaitEnd p t s := rfl
@[simp] theorem exec_segmentLand {p n} (s : State) : exec (.segmentLand p n) s = execSegmentLand p n s := rfl
@[simp] theorem exec_tagFillComplete {p slot} (s : State) : exec (.tagFillComplete p slot) s = execTagFillComplete p slot s := rfl
@[simp] theorem exec_tevictWritebackDone {p} (s : State) : exec (.tevictWritebackDone p) s = execTevictWritebackDone p s := rfl
@[simp] theorem exec_runnerLoadFibre {p t} (s : State) : exec (.runnerLoadFibre p t) s = execRunnerLoadFibre p t s := rfl
@[simp] theorem exec_fibreWake {p slot} (s : State) : exec (.fibreWake p slot) s = execFibreWake p slot s := rfl
@[simp] theorem exec_stealRound {p t} (s : State) : exec (.stealRound p t) s = execStealRound p t s := rfl
@[simp] theorem exec_stealBackoffExpiry {p t} (s : State) : exec (.stealBackoffExpiry p t) s = execStealBackoffExpiry p t s := rfl
@[simp] theorem exec_pageRequestResponse {req r} (s : State) : exec (.pageRequestResponse req r) s = execPageRequestResponse req r s := rfl
@[simp] theorem exec_rowActivationDone {p bank} (s : State) : exec (.rowActivationDone p bank) s = execRowActivationDone p bank s := rfl
@[simp] theorem exec_tileBeatArrive {p} (s : State) : exec (.tileBeatArrive p) s = execTileBeatArrive p s := rfl
@[simp] theorem exec_tileLoadFill {p} (s : State) : exec (.tileLoadFill p) s = execTileLoadFill p s := rfl
@[simp] theorem exec_throttleTrap {p} (s : State) : exec (.throttleTrap p) s = execThrottleTrap p s := rfl
@[simp] theorem exec_refreshWindowStart {p bank} (s : State) : exec (.refreshWindowStart p bank) s = execRefreshWindowStart p bank s := rfl
@[simp] theorem exec_refreshWindowEnd {p bank} (s : State) : exec (.refreshWindowEnd p bank) s = execRefreshWindowEnd p bank s := rfl
@[simp] theorem exec_refreshEpochStart {stack} (s : State) : exec (.refreshEpochStart stack) s = execRefreshEpochStart stack s := rfl
@[simp] theorem exec_vthermChange {p layer hot warm throt} (s : State) : exec (.vthermChange p layer hot warm throt) s = execVthermChange p layer hot warm throt s := rfl
@[simp] theorem exec_retentionDeadline {p row} (s : State) : exec (.retentionDeadline p row) s = execRetentionDeadline p row s := rfl
@[simp] theorem exec_copyComplete {p} (s : State) : exec (.copyComplete p) s = execCopyComplete p s := rfl
@[simp] theorem exec_matrixComplete {p u} (s : State) : exec (.matrixComplete p u) s = execMatrixComplete p u s := rfl
@[simp] theorem exec_loomStepStart {p} (s : State) : exec (.loomStepStart p) s = execLoomStepStart p s := rfl
@[simp] theorem exec_drainWritesDone {p t} (s : State) : exec (.drainWritesDone p t) s = execDrainWritesDone p t s := rfl
@[simp] theorem exec_draftEntryTrigger {p} (s : State) : exec (.draftEntryTrigger p) s = execDraftEntryTrigger p s := rfl
@[simp] theorem exec_shuttleBlockMove {p h} (s : State) : exec (.shuttleBlockMove p h) s = execShuttleBlockMove p h s := rfl
@[simp] theorem exec_draftEntryComplete {p index} (s : State) : exec (.draftEntryComplete p index) s = execDraftEntryComplete p index s := rfl
@[simp] theorem exec_ovfRetry {stack n} (s : State) : exec (.ovfRetry stack n) s = execOvfRetry stack n s := rfl
@[simp] theorem exec_ovfDrop {stack n} (s : State) : exec (.ovfDrop stack n) s = execOvfDrop stack n s := rfl
@[simp] theorem exec_directCommandComplete {p slot} (s : State) : exec (.directCommandComplete p slot) s = execDirectCommandComplete p slot s := rfl
@[simp] theorem exec_flitCrcResend {p port} (s : State) : exec (.flitCrcResend p port) s = execFlitCrcResend p port s := rfl
@[simp] theorem exec_messageHeadArrive {p n} (s : State) : exec (.messageHeadArrive p n) s = execMessageHeadArrive p n s := rfl
@[simp] theorem exec_messageResend {p n} (s : State) : exec (.messageResend p n) s = execMessageResend p n s := rfl
@[simp] theorem exec_messageDeliver {p n} (s : State) : exec (.messageDeliver p n) s = execMessageDeliver p n s := rfl
@[simp] theorem exec_agentProcedure {p} (s : State) : exec (.agentProcedure p) s = execAgentProcedure p s := rfl
@[simp] theorem exec_procedureResponse {p t seq} (s : State) : exec (.procedureResponse p t seq) s = execProcedureResponse p t seq s := rfl
@[simp] theorem exec_routerCombine {p later} (s : State) : exec (.routerCombine p later) s = execRouterCombine p later s := rfl
@[simp] theorem exec_scAccessStart {p t} (s : State) : exec (.scAccessStart p t) s = execScAccessStart p t s := rfl
@[simp] theorem exec_pageWalk {p va kind} (s : State) : exec (.pageWalk p va kind) s = execPageWalk p va kind s := rfl
@[simp] theorem exec_atsTranslationCompletion {asid c} (s : State) : exec (.atsTranslationCompletion asid c) s = execAtsTranslationCompletion asid c s := rfl
@[simp] theorem exec_atsInvalidateRequest {asid va size} (s : State) : exec (.atsInvalidateRequest asid va size) s = execAtsInvalidateRequest asid va size s := rfl
@[simp] theorem exec_peerGoneEvent {peer why} (s : State) : exec (.peerGoneEvent peer why) s = execPeerGoneEvent peer why s := rfl
@[simp] theorem exec_peerTimeout {peer} (s : State) : exec (.peerTimeout peer) s = execPeerTimeout peer s := rfl
@[simp] theorem exec_lateFaultDelivery {p t} (s : State) : exec (.lateFaultDelivery p t) s = execLateFaultDelivery p t s := rfl
@[simp] theorem exec_signalInterrupt {p t} (s : State) : exec (.signalInterrupt p t) s = execSignalInterrupt p t s := rfl
@[simp] theorem exec_forwardedTrapInterrupt {p t} (s : State) : exec (.forwardedTrapInterrupt p t) s = execForwardedTrapInterrupt p t s := rfl
@[simp] theorem exec_trapMessageArrive {n} (s : State) : exec (.trapMessageArrive n) s = execTrapMessageArrive n s := rfl
@[simp] theorem exec_trapMessageTimeout {p} (s : State) : exec (.trapMessageTimeout p) s = execTrapMessageTimeout p s := rfl
@[simp] theorem exec_preemptRequestArrive {p} (s : State) : exec (.preemptRequestArrive p) s = execPreemptRequestArrive p s := rfl
@[simp] theorem exec_preemptionPointStop {p t} (s : State) : exec (.preemptionPointStop p t) s = execPreemptionPointStop p t s := rfl
@[simp] theorem exec_preemptAgeLimit {p} (s : State) : exec (.preemptAgeLimit p) s = execPreemptAgeLimit p s := rfl
@[simp] theorem exec_pillarSave {p} (s : State) : exec (.pillarSave p) s = execPillarSave p s := rfl
@[simp] theorem exec_pillarRestore {p} (s : State) : exec (.pillarRestore p) s = execPillarRestore p s := rfl
@[simp] theorem exec_dwHashArrive {p t} (s : State) : exec (.dwHashArrive p t) s = execDwHashArrive p t s := rfl
@[simp] theorem exec_dwTimeout {p t} (s : State) : exec (.dwTimeout p t) s = execDwTimeout p t s := rfl
@[simp] theorem exec_containGo {p} (s : State) : exec (.containGo p) s = execContainGo p s := rfl
@[simp] theorem exec_containmentDone {p} (s : State) : exec (.containmentDone p) s = execContainmentDone p s := rfl
@[simp] theorem exec_testStripStart {p} (s : State) : exec (.testStripStart p) s = execTestStripStart p s := rfl
@[simp] theorem exec_stripIntervalDue {p} (s : State) : exec (.stripIntervalDue p) s = execStripIntervalDue p s := rfl
@[simp] theorem exec_testStripEnd {p r} (s : State) : exec (.testStripEnd p r) s = execTestStripEnd p r s := rfl
@[simp] theorem exec_frheadWrite {v} (s : State) : exec (.frheadWrite v) s = execFrheadWrite v s := rfl
@[simp] theorem exec_preemptreqWrite {v} (s : State) : exec (.preemptreqWrite v) s = execPreemptreqWrite v s := rfl
@[simp] theorem exec_aperbaseWrite {v} (s : State) : exec (.aperbaseWrite v) s = execAperbaseWrite v s := rfl
@[simp] theorem exec_apertureAccess {off a} (s : State) : exec (.apertureAccess off a) s = execApertureAccess off a s := rfl
@[simp] theorem exec_hostSendWrite {h v} (s : State) : exec (.hostSendWrite h v) s = execHostSendWrite h v s := rfl
@[simp] theorem exec_ualinkInboundRequest {peer off a} (s : State) : exec (.ualinkInboundRequest peer off a) s = execUalinkInboundRequest peer off a s := rfl
@[simp] theorem exec_peerUpWrite {peer} (s : State) : exec (.peerUpWrite peer) s = execPeerUpWrite peer s := rfl
@[simp] theorem exec_powerOn {cfg} (s : State) : exec (.powerOn cfg) s = execPowerOn cfg s := rfl
@[simp] theorem exec_functionReady {fn} (s : State) : exec (.functionReady fn) s = execFunctionReady fn s := rfl
@[simp] theorem exec_stackReset {stack} (s : State) : exec (.stackReset stack) s = execStackReset stack s := rfl
@[simp] theorem exec_attgoWrite {v} (s : State) : exec (.attgoWrite v) s = execAttgoWrite v s := rfl
@[simp] theorem exec_thermalStep {stack temp} (s : State) : exec (.thermalStep stack temp) s = execThermalStep stack temp s := rfl
@[simp] theorem exec_phasePeriodBoundary (s : State) : exec .phasePeriodBoundary s = execPhasePeriodBoundary s := rfl
@[simp] theorem exec_xbWrite {v} (s : State) : exec (.xbWrite v) s = execXbWrite v s := rfl
@[simp] theorem exec_tagcfgWrite {v} (s : State) : exec (.tagcfgWrite v) s = execTagcfgWrite v s := rfl
@[simp] theorem exec_stealWrite {v} (s : State) : exec (.stealWrite v) s = execStealWrite v s := rfl
@[simp] theorem exec_rowprogAbandon (s : State) : exec .rowprogAbandon s = execRowprogAbandon s := rfl
@[simp] theorem exec_fmtWrite {v} (s : State) : exec (.fmtWrite v) s = execFmtWrite v s := rfl
@[simp] theorem exec_statusWrite {v} (s : State) : exec (.statusWrite v) s = execStatusWrite v s := rfl
@[simp] theorem exec_calendarWrite {v} (s : State) : exec (.calendarWrite v) s = execCalendarWrite v s := rfl
@[simp] theorem exec_rpmapWrite {n v} (s : State) : exec (.rpmapWrite n v) s = execRpmapWrite n v s := rfl
@[simp] theorem exec_chainWrite {v} (s : State) : exec (.chainWrite v) s = execChainWrite v s := rfl
@[simp] theorem exec_saveoffWrite {v} (s : State) : exec (.saveoffWrite v) s = execSaveoffWrite v s := rfl
@[simp] theorem exec_registerWrite {r v} (s : State) : exec (.registerWrite r v) s = execRegisterWrite r v s := rfl
@[simp] theorem exec_illegalInstruction {cause tval} (s : State) : exec (.illegalInstruction cause tval) s = execIllegalInstruction cause tval s := rfl
@[simp] theorem exec_dividerFree {p} (s : State) : exec (.dividerFree p) s = execDividerFree p s := rfl
@[simp] theorem exec_cutTailFlitArrive {p inbox} (s : State) : exec (.cutTailFlitArrive p inbox) s = execCutTailFlitArrive p inbox s := rfl
@[simp] theorem exec_ualinkLinkTrained {port} (s : State) : exec (.ualinkLinkTrained port) s = execUalinkLinkTrained port s := rfl
@[simp] theorem exec_overtempStackHalt {stack} (s : State) : exec (.overtempStackHalt stack) s = execOvertempStackHalt stack s := rfl
@[simp] theorem exec_hostImageSubmit {role image} (s : State) : exec (.hostImageSubmit role image) s = execHostImageSubmit role image s := rfl

end Sys2Proof.Machine
end

