-- ==== Sys2Proof/Laws/Store.lean ====
section
/-! SUPPORT. What the operations on sparse data do: a read after a write, what a write leaves alone, and that every
memory operation keeps the canonical form. -/

namespace Sys2Proof.Machine

/-! ## One byte of a list of cells -/

theorem getCell_dropCell (m : List Host.Cell) (a x : Nat) :
    getCell (dropCell m a) x = if x = a then unwrittenByte else getCell m x := by
  induction m with
  | nil => simp [dropCell, getCell]
  | cons c m ih =>
    obtain ⟨k, b⟩ := c
    simp only [dropCell, List.filter_cons] at ih ⊢
    by_cases hk : k = a
    · subst hk; simp only [bne_self_eq_false, Bool.false_eq_true, if_false, ih, getCell]
      split_ifs with h1 h2 <;> simp_all
    · have hk' : (k != a) = true := by simpa using hk
      simp only [hk', if_true, getCell, ih]
      split_ifs with h1 h2 <;> simp_all

theorem getCell_putCell (m : List Host.Cell) (a x : Nat) (b : Byte) :
    getCell (putCell m a b) x = if x = a then b else getCell m x := by
  induction m with
  | nil =>
    simp only [putCell, getCell]
    by_cases h : a = x
    · simp [h]
    · simp [h, Ne.symm h]
  | cons c m ih =>
    obtain ⟨k, b'⟩ := c
    simp only [putCell]
    split_ifs with h1 h2 <;> simp only [getCell, ih] <;> split_ifs <;> first | rfl | omega

/-! ## One byte of memory -/

/-- A read after a write of one byte. -/
theorem Memory.get_set (m : Memory) (a x : Nat) (b : Byte) : (m.set a b).get x = if x = a then b else m.get x := by
  unfold Memory.set Memory.get
  by_cases hb : b = unwrittenByte
  · simp only [hb, if_true]; exact getCell_dropCell m.cells a x
  · simp only [hb, if_false]; exact getCell_putCell m.cells a x b

@[simp] theorem Memory.get_set_same (m : Memory) (a : Nat) (b : Byte) : (m.set a b).get a = b := by
  simp [Memory.get_set]

theorem Memory.get_set_other (m : Memory) {a x : Nat} (b : Byte) (h : x ≠ a) : (m.set a b).get x = m.get x := by
  simp [Memory.get_set, h]

@[simp] theorem Memory.get_empty (a : Nat) : ({} : Memory).get a = unwrittenByte := rfl

/-! ## Ranges of bytes -/

/-- A write of n bytes, byte by byte (R6). -/
theorem Memory.get_write (m : Memory) (a n v x : Nat) :
    (m.write a n v).get x = if a ≤ x ∧ x < a + n then BitVec.ofNat 8 (v / 256 ^ (x - a)) else m.get x := by
  induction n generalizing m a v with
  | zero =>
    have : ¬ (a ≤ x ∧ x < a + 0) := by omega
    simp only [Memory.write, if_neg this]
  | succ n ih =>
    simp only [Memory.write, ih, Memory.get_set]
    by_cases h1 : a + 1 ≤ x ∧ x < a + 1 + n
    · have e : x - a = x - (a + 1) + 1 := by omega
      rw [if_pos h1, if_pos (by omega), e, Nat.pow_succ', Nat.div_div_eq_div_mul]
    · rw [if_neg h1]
      by_cases h2 : x = a
      · subst h2; simp
      · rw [if_neg h2, if_neg (by omega)]

/-- A write leaves every byte outside its range alone. -/
theorem Memory.get_write_other (m : Memory) {a n x : Nat} (v : Nat) (h : x < a ∨ a + n ≤ x) :
    (m.write a n v).get x = m.get x := by
  rw [Memory.get_write, if_neg (by omega)]

/-- A read depends only on the bytes of its range. -/
theorem Memory.read_congr {m m' : Memory} {a n : Nat} (h : ∀ x, a ≤ x → x < a + n → m.get x = m'.get x) :
    m.read a n = m'.read a n := by
  induction n generalizing a with
  | zero => rfl
  | succ n ih =>
    simp only [Memory.read]
    rw [h a (by omega) (by omega), ih fun x h1 h2 => h x (by omega) (by omega)]

/-- A read of n bytes is a number of n bytes. -/
theorem Memory.read_lt (m : Memory) (a n : Nat) : m.read a n < 256 ^ n := by
  induction n generalizing a with
  | zero => simp [Memory.read]
  | succ n ih =>
    have h1 := ih (a + 1)
    have h2 := (m.get a).isLt
    simp only [Memory.read, Nat.pow_succ']
    omega

/-- A read after a write of the same n bytes (R6). -/
theorem Memory.read_write (m : Memory) (a n v : Nat) : (m.write a n v).read a n = v % 256 ^ n := by
  induction n generalizing m a v with
  | zero => simp [Memory.read, Nat.mod_one]
  | succ n ih =>
    have h1 : ((m.set a (BitVec.ofNat 8 v)).write (a + 1) n (v / 256)).get a = BitVec.ofNat 8 v := by
      rw [Memory.get_write_other _ _ (by omega), Memory.get_set_same]
    simp only [Memory.write, Memory.read]
    rw [h1, ih, BitVec.toNat_ofNat, Nat.pow_succ' (n := n), Nat.mod_mul]

/-- A write leaves a read of a range apart from its own alone. -/
theorem Memory.read_write_other (m : Memory) {a n b k : Nat} (v : Nat) (h : b + k ≤ a ∨ a + n ≤ b) :
    (m.write a n v).read b k = m.read b k :=
  Memory.read_congr fun x h1 h2 => Memory.get_write_other m v (by omega)

/-- A written list of bytes, byte by byte. -/
theorem Memory.get_writeList (m : Memory) (a : Nat) (bs : List Byte) (x : Nat) :
    (m.writeList a bs).get x = if a ≤ x ∧ x < a + bs.length then bs.getD (x - a) 0 else m.get x := by
  induction bs generalizing m a with
  | nil =>
    have : ¬ (a ≤ x ∧ x < a + 0) := by omega
    simp only [Memory.writeList, List.length_nil, if_neg this]
  | cons b bs ih =>
    simp only [Memory.writeList, ih, Memory.get_set, List.length_cons]
    by_cases h1 : a + 1 ≤ x ∧ x < a + 1 + bs.length
    · have e : x - a = x - (a + 1) + 1 := by omega
      rw [if_pos h1, if_pos (by omega), e, List.getD_cons_succ]
    · rw [if_neg h1]
      by_cases h2 : x = a
      · subst h2; simp
      · rw [if_neg h2, if_neg (by omega)]

theorem getCell_filter (m : List Host.Cell) (p : Nat → Bool) (x : Nat) :
    getCell (m.filter fun c => p c.1) x = if p x then getCell m x else unwrittenByte := by
  induction m with
  | nil => simp [getCell]
  | cons c m ih =>
    obtain ⟨k, b⟩ := c
    by_cases hk : p k = true
    · simp only [List.filter_cons, hk, if_true, getCell, ih]
      split_ifs with h1 h2 <;> simp_all
    · simp only [List.filter_cons, hk, Bool.false_eq_true, if_false, getCell, ih]
      split_ifs with h1 h2 <;> simp_all

/-- A cleared range reads as unwritten, and nothing else changes. -/
theorem Memory.get_clear (m : Memory) (a n x : Nat) :
    (m.clear a n).get x = if a ≤ x ∧ x < a + n then unwrittenByte else m.get x := by
  unfold Memory.clear Memory.get
  rw [getCell_filter m.cells (fun k => !(a ≤ k && k < a + n)) x]
  by_cases h : a ≤ x ∧ x < a + n
  · simp [h]
  · rw [if_neg h, if_pos]
    rw [Bool.not_eq_true', Bool.and_eq_false_iff, decide_eq_false_iff_not, decide_eq_false_iff_not]
    omega

/-! ## The canonical form -/

theorem cellsWf_mono {lo lo' : Nat} {m : List Host.Cell} (h : cellsWf lo m = true) (hl : lo' ≤ lo) :
    cellsWf lo' m = true := by
  cases m with
  | nil => rfl
  | cons c m =>
    obtain ⟨k, b⟩ := c
    simp only [cellsWf, Bool.and_eq_true, decide_eq_true_eq] at h ⊢
    exact ⟨⟨by omega, h.1.2⟩, h.2⟩

theorem cellsWf_filter {lo : Nat} {m : List Host.Cell} (p : Host.Cell → Bool) (h : cellsWf lo m = true) :
    cellsWf lo (m.filter p) = true := by
  induction m generalizing lo with
  | nil => rfl
  | cons c m ih =>
    obtain ⟨k, b⟩ := c
    simp only [cellsWf, Bool.and_eq_true, decide_eq_true_eq] at h
    rw [List.filter_cons]
    split
    · simp only [cellsWf, Bool.and_eq_true, decide_eq_true_eq]
      exact ⟨h.1, ih h.2⟩
    · exact cellsWf_mono (ih h.2) (by omega)

theorem cellsWf_putCell {lo a : Nat} {m : List Host.Cell} {b : Byte} (h : cellsWf lo m = true) (ha : lo ≤ a)
    (hb : b ≠ unwrittenByte) : cellsWf lo (putCell m a b) = true := by
  induction m generalizing lo with
  | nil => simp [putCell, cellsWf, ha, hb]
  | cons c m ih =>
    obtain ⟨k, b'⟩ := c
    simp only [cellsWf, Bool.and_eq_true, decide_eq_true_eq, bne_iff_ne] at h
    simp only [putCell]
    split_ifs with h1 h2
    · simp only [cellsWf, Bool.and_eq_true, decide_eq_true_eq, bne_iff_ne]
      exact ⟨⟨ha, hb⟩, ⟨by omega, h.1.2⟩, h.2⟩
    · subst h2
      simp only [cellsWf, Bool.and_eq_true, decide_eq_true_eq, bne_iff_ne]
      exact ⟨⟨ha, hb⟩, h.2⟩
    · simp only [cellsWf, Bool.and_eq_true, decide_eq_true_eq, bne_iff_ne]
      exact ⟨h.1, ih h.2 (by omega)⟩

theorem cellsWf_append {lo mid : Nat} {m m' : List Host.Cell} (h : cellsWf lo m = true) (h' : cellsWf mid m' = true)
    (hl : lo ≤ mid) (hm : ∀ c ∈ m, c.1 < mid) : cellsWf lo (m ++ m') = true := by
  induction m generalizing lo with
  | nil => exact cellsWf_mono h' hl
  | cons c m ih =>
    obtain ⟨k, b⟩ := c
    simp only [cellsWf, Bool.and_eq_true, decide_eq_true_eq, List.cons_append] at h ⊢
    have hk : k < mid := hm (k, b) (by simp)
    exact ⟨h.1, ih h.2 (by omega) fun c hc => hm c (by simp [hc])⟩

theorem cellsWf_raise {lo lo' : Nat} {m : List Host.Cell} (h : cellsWf lo m = true) (hm : ∀ c ∈ m, lo' ≤ c.1) :
    cellsWf lo' m = true := by
  cases m with
  | nil => rfl
  | cons c m =>
    obtain ⟨k, b⟩ := c
    simp only [cellsWf, Bool.and_eq_true, decide_eq_true_eq] at h ⊢
    exact ⟨⟨hm (k, b) (by simp), h.1.2⟩, h.2⟩

theorem cellsWf_shift {lo a b : Nat} {m : List Host.Cell} (h : cellsWf lo m = true) (hb : b ≤ lo) :
    cellsWf (lo - b + a) (m.map fun c => (c.1 - b + a, c.2)) = true := by
  induction m generalizing lo with
  | nil => rfl
  | cons c m ih =>
    obtain ⟨k, v⟩ := c
    simp only [cellsWf, Bool.and_eq_true, decide_eq_true_eq, List.map_cons] at h ⊢
    refine ⟨⟨by omega, h.1.2⟩, ?_⟩
    have h2 := ih h.2 (by omega)
    rwa [show k + 1 - b + a = k - b + a + 1 from by omega] at h2

/-- The canonical form holds of empty memory. -/
theorem Memory.wf_empty : ({} : Memory).wf = true := rfl

/-- A write of one byte keeps the canonical form. -/
theorem Memory.wf_set {m : Memory} (a : Nat) (b : Byte) (h : m.wf = true) : (m.set a b).wf = true := by
  unfold Memory.wf at *
  unfold Memory.set
  split
  · exact cellsWf_filter _ h
  · exact cellsWf_putCell h (Nat.zero_le a) ‹_›

/-- A write of n bytes keeps the canonical form. -/
theorem Memory.wf_write {m : Memory} (a n v : Nat) (h : m.wf = true) : (m.write a n v).wf = true := by
  induction n generalizing m a v with
  | zero => exact h
  | succ n ih => exact ih (a + 1) (v / 256) (Memory.wf_set a _ h)

/-- A written list of bytes keeps the canonical form. -/
theorem Memory.wf_writeList {m : Memory} (a : Nat) (bs : List Byte) (h : m.wf = true) : (m.writeList a bs).wf = true := by
  induction bs generalizing m a with
  | nil => exact h
  | cons b bs ih => exact ih (a + 1) (Memory.wf_set a b h)

/-- Clearing a range keeps the canonical form. -/
theorem Memory.wf_clear {m : Memory} (a n : Nat) (h : m.wf = true) : (m.clear a n).wf = true := cellsWf_filter _ h

/-- Splicing keeps the canonical form. -/
theorem Memory.wf_splice {m src : Memory} (a n b : Nat) (h : m.wf = true) (hs : src.wf = true) :
    (m.splice a n src b).wf = true := by
  have low : cellsWf 0 (m.cells.filter fun c => c.1 < a) = true := cellsWf_filter _ h
  have high : cellsWf (a + n) (m.cells.filter fun c => a + n ≤ c.1) = true :=
    cellsWf_raise (cellsWf_filter _ h) fun c hc => by simpa using (List.mem_filter.mp hc).2
  have mid : cellsWf a ((src.cells.filter fun c => b ≤ c.1 && c.1 < b + n).map fun c => (c.1 - b + a, c.2)) = true := by
    have h1 : cellsWf b (src.cells.filter fun c => b ≤ c.1 && c.1 < b + n) = true :=
      cellsWf_raise (cellsWf_filter _ hs) fun c hc => by
        have := (List.mem_filter.mp hc).2
        simp only [Bool.and_eq_true, decide_eq_true_eq] at this
        exact this.1
    have h2 := cellsWf_shift (a := a) h1 (Nat.le_refl b)
    rwa [Nat.sub_self, Nat.zero_add] at h2
  refine cellsWf_append (mid := a + n) (cellsWf_append (mid := a) low mid (Nat.zero_le a) ?_) high (Nat.zero_le _) ?_
  · intro c hc
    simpa using (List.mem_filter.mp hc).2
  · intro c hc
    rcases List.mem_append.mp hc with hc | hc
    · have := (List.mem_filter.mp hc).2
      simp only [decide_eq_true_eq] at this
      omega
    · obtain ⟨e, he, rfl⟩ := List.mem_map.mp hc
      have := (List.mem_filter.mp he).2
      simp only [Bool.and_eq_true, decide_eq_true_eq] at this
      show e.1 - b + a < a + n
      omega

/-! ## Maps -/

theorem findEntry_putEntry {α : Type} (m : List (Nat × α)) (k x : Nat) (a : α) :
    findEntry (putEntry m k a) x = if x = k then some a else findEntry m x := by
  induction m with
  | nil =>
    simp only [putEntry, findEntry]
    by_cases h : k = x
    · simp [h]
    · simp [h, Ne.symm h]
  | cons c m ih =>
    obtain ⟨j, b⟩ := c
    simp only [putEntry]
    split_ifs with h1 h2 <;> simp only [findEntry, ih] <;> split_ifs <;> first | rfl | omega

/-- A lookup after an entry is put. -/
theorem NatMap.get?_set {α : Type} (m : NatMap α) (k x : Nat) (a : α) :
    (m.set k a).get? x = if x = k then some a else m.get? x := findEntry_putEntry m.entries k x a

@[simp] theorem NatMap.get?_set_same {α : Type} (m : NatMap α) (k : Nat) (a : α) : (m.set k a).get? k = some a := by
  simp [NatMap.get?_set]

theorem NatMap.getD_set {α : Type} (m : NatMap α) (k x : Nat) (a d : α) :
    (m.set k a).getD x d = if x = k then a else m.getD x d := by
  unfold NatMap.getD
  rw [NatMap.get?_set]
  split <;> rfl

@[simp] theorem NatMap.getD_set_same {α : Type} (m : NatMap α) (k : Nat) (a d : α) : (m.set k a).getD k d = a := by
  simp [NatMap.getD_set]

theorem NatMap.getD_set_other {α : Type} (m : NatMap α) {k x : Nat} (a d : α) (h : x ≠ k) :
    (m.set k a).getD x d = m.getD x d := by
  simp [NatMap.getD_set, h]

theorem putEntry_putEntry {α : Type} (m : List (Nat × α)) (k : Nat) (a b : α) :
    putEntry (putEntry m k a) k b = putEntry m k b := by
  induction m with
  | nil => simp [putEntry]
  | cons c m ih =>
    obtain ⟨j, x⟩ := c
    simp only [putEntry]
    split_ifs with h1 h2 <;> simp_all [putEntry]

/-- Of two entries put at one key the later stays. -/
@[simp] theorem NatMap.set_set {α : Type} (m : NatMap α) (k : Nat) (a b : α) : (m.set k a).set k b = m.set k b := by
  simp [NatMap.set, putEntry_putEntry]

/-! ## Sets -/

theorem mem_putElem (m : List Nat) (k x : Nat) : x ∈ putElem m k ↔ x = k ∨ x ∈ m := by
  induction m with
  | nil => simp [putElem]
  | cons j m ih =>
    simp only [putElem]
    split_ifs with h1 h2
    · simp
    · subst h2; simp
    · simp only [List.mem_cons, ih]; tauto

@[simp] theorem NatSet.has_insert (m : NatSet) (k x : Nat) : (m.insert k).has x = (x == k || m.has x) := by
  rw [Bool.eq_iff_iff]
  simp [NatSet.has, NatSet.insert, mem_putElem]

@[simp] theorem NatSet.has_erase (m : NatSet) (k x : Nat) : (m.erase k).has x = (x != k && m.has x) := by
  rw [Bool.eq_iff_iff]
  simp [NatSet.has, NatSet.erase, and_comm]

theorem NatSet.has_put (m : NatSet) (k x : Nat) (b : Bool) : (m.put k b).has x = if x = k then b else m.has x := by
  unfold NatSet.put
  cases b <;> by_cases h : x = k <;> simp [h]

/-- Membership after n numbers are added or removed. -/
theorem NatSet.has_putRange (m : NatSet) (k n x : Nat) (b : Bool) :
    (m.putRange k b n).has x = if k ≤ x ∧ x < k + n then b else m.has x := by
  induction n generalizing m k with
  | zero =>
    have : ¬ (k ≤ x ∧ x < k + 0) := by omega
    simp only [NatSet.putRange, if_neg this]
  | succ n ih =>
    simp only [NatSet.putRange, ih, NatSet.has_put]
    split_ifs <;> first | rfl | omega

end Sys2Proof.Machine
end

