-- ==== Sys2Proof/Laws/State.lean ====
section
/-! SUPPORT. Each update of the state, field by field: what it leaves alone, true by definition, and what a read of
a unit gives after it. -/

namespace Sys2Proof.Machine


/-! ## State.setPil changes nothing but pillars -/

@[simp] theorem State.setPil_stackUnits (s : State) (p : PillarId) (x : Pillar) : (s.setPil p x).stackUnits = s.stackUnits := rfl
@[simp] theorem State.setPil_mem (s : State) (p : PillarId) (x : Pillar) : (s.setPil p x).mem = s.mem := rfl
@[simp] theorem State.setPil_memBad (s : State) (p : PillarId) (x : Pillar) : (s.setPil p x).memBad = s.memBad := rfl
@[simp] theorem State.setPil_ctxBase (s : State) (p : PillarId) (x : Pillar) : (s.setPil p x).ctxBase = s.ctxBase := rfl
@[simp] theorem State.setPil_launch (s : State) (p : PillarId) (x : Pillar) : (s.setPil p x).launch = s.launch := rfl
@[simp] theorem State.setPil_host (s : State) (p : PillarId) (x : Pillar) : (s.setPil p x).host = s.host := rfl
@[simp] theorem State.setPil_integrity (s : State) (p : PillarId) (x : Pillar) : (s.setPil p x).integrity = s.integrity := rfl
@[simp] theorem State.setPil_safelight (s : State) (p : PillarId) (x : Pillar) : (s.setPil p x).safelight = s.safelight := rfl
@[simp] theorem State.setPil_phasing (s : State) (p : PillarId) (x : Pillar) : (s.setPil p x).phasing = s.phasing := rfl
@[simp] theorem State.setPil_drafts (s : State) (p : PillarId) (x : Pillar) : (s.setPil p x).drafts = s.drafts := rfl
@[simp] theorem State.setPil_nextDraft (s : State) (p : PillarId) (x : Pillar) : (s.setPil p x).nextDraft = s.nextDraft := rfl
@[simp] theorem State.setPil_procs (s : State) (p : PillarId) (x : Pillar) : (s.setPil p x).procs = s.procs := rfl
@[simp] theorem State.setPil_trapMessages (s : State) (p : PillarId) (x : Pillar) : (s.setPil p x).trapMessages = s.trapMessages := rfl
@[simp] theorem State.setPil_preempts (s : State) (p : PillarId) (x : Pillar) : (s.setPil p x).preempts = s.preempts := rfl
@[simp] theorem State.setPil_saves (s : State) (p : PillarId) (x : Pillar) : (s.setPil p x).saves = s.saves := rfl
@[simp] theorem State.setPil_clk (s : State) (p : PillarId) (x : Pillar) : (s.setPil p x).clk = s.clk := rfl
@[simp] theorem State.setPil_curP (s : State) (p : PillarId) (x : Pillar) : (s.setPil p x).curP = s.curP := rfl
@[simp] theorem State.setPil_curT (s : State) (p : PillarId) (x : Pillar) : (s.setPil p x).curT = s.curT := rfl
@[simp] theorem State.setPil_agenda (s : State) (p : PillarId) (x : Pillar) : (s.setPil p x).agenda = s.agenda := rfl
@[simp] theorem State.setPil_effects (s : State) (p : PillarId) (x : Pillar) : (s.setPil p x).effects = s.effects := rfl
@[simp] theorem State.setPil_posted (s : State) (p : PillarId) (x : Pillar) : (s.setPil p x).posted = s.posted := rfl
@[simp] theorem State.setPil_freeCount (s : State) (p : PillarId) (x : Pillar) : (s.setPil p x).freeCount = s.freeCount := rfl

/-! ## State.modPil changes nothing but pillars -/

@[simp] theorem State.modPil_stackUnits (s : State) (p : PillarId) (f : Pillar → Pillar) : (s.modPil p f).stackUnits = s.stackUnits := rfl
@[simp] theorem State.modPil_mem (s : State) (p : PillarId) (f : Pillar → Pillar) : (s.modPil p f).mem = s.mem := rfl
@[simp] theorem State.modPil_memBad (s : State) (p : PillarId) (f : Pillar → Pillar) : (s.modPil p f).memBad = s.memBad := rfl
@[simp] theorem State.modPil_ctxBase (s : State) (p : PillarId) (f : Pillar → Pillar) : (s.modPil p f).ctxBase = s.ctxBase := rfl
@[simp] theorem State.modPil_launch (s : State) (p : PillarId) (f : Pillar → Pillar) : (s.modPil p f).launch = s.launch := rfl
@[simp] theorem State.modPil_host (s : State) (p : PillarId) (f : Pillar → Pillar) : (s.modPil p f).host = s.host := rfl
@[simp] theorem State.modPil_integrity (s : State) (p : PillarId) (f : Pillar → Pillar) : (s.modPil p f).integrity = s.integrity := rfl
@[simp] theorem State.modPil_safelight (s : State) (p : PillarId) (f : Pillar → Pillar) : (s.modPil p f).safelight = s.safelight := rfl
@[simp] theorem State.modPil_phasing (s : State) (p : PillarId) (f : Pillar → Pillar) : (s.modPil p f).phasing = s.phasing := rfl
@[simp] theorem State.modPil_drafts (s : State) (p : PillarId) (f : Pillar → Pillar) : (s.modPil p f).drafts = s.drafts := rfl
@[simp] theorem State.modPil_nextDraft (s : State) (p : PillarId) (f : Pillar → Pillar) : (s.modPil p f).nextDraft = s.nextDraft := rfl
@[simp] theorem State.modPil_procs (s : State) (p : PillarId) (f : Pillar → Pillar) : (s.modPil p f).procs = s.procs := rfl
@[simp] theorem State.modPil_trapMessages (s : State) (p : PillarId) (f : Pillar → Pillar) : (s.modPil p f).trapMessages = s.trapMessages := rfl
@[simp] theorem State.modPil_preempts (s : State) (p : PillarId) (f : Pillar → Pillar) : (s.modPil p f).preempts = s.preempts := rfl
@[simp] theorem State.modPil_saves (s : State) (p : PillarId) (f : Pillar → Pillar) : (s.modPil p f).saves = s.saves := rfl
@[simp] theorem State.modPil_clk (s : State) (p : PillarId) (f : Pillar → Pillar) : (s.modPil p f).clk = s.clk := rfl
@[simp] theorem State.modPil_curP (s : State) (p : PillarId) (f : Pillar → Pillar) : (s.modPil p f).curP = s.curP := rfl
@[simp] theorem State.modPil_curT (s : State) (p : PillarId) (f : Pillar → Pillar) : (s.modPil p f).curT = s.curT := rfl
@[simp] theorem State.modPil_agenda (s : State) (p : PillarId) (f : Pillar → Pillar) : (s.modPil p f).agenda = s.agenda := rfl
@[simp] theorem State.modPil_effects (s : State) (p : PillarId) (f : Pillar → Pillar) : (s.modPil p f).effects = s.effects := rfl
@[simp] theorem State.modPil_posted (s : State) (p : PillarId) (f : Pillar → Pillar) : (s.modPil p f).posted = s.posted := rfl
@[simp] theorem State.modPil_freeCount (s : State) (p : PillarId) (f : Pillar → Pillar) : (s.modPil p f).freeCount = s.freeCount := rfl

/-! ## State.modStrand changes nothing but pillars -/

@[simp] theorem State.modStrand_stackUnits (s : State) (p : PillarId) (t : StrandId) (f : Strand → Strand) : (s.modStrand p t f).stackUnits = s.stackUnits := rfl
@[simp] theorem State.modStrand_mem (s : State) (p : PillarId) (t : StrandId) (f : Strand → Strand) : (s.modStrand p t f).mem = s.mem := rfl
@[simp] theorem State.modStrand_memBad (s : State) (p : PillarId) (t : StrandId) (f : Strand → Strand) : (s.modStrand p t f).memBad = s.memBad := rfl
@[simp] theorem State.modStrand_ctxBase (s : State) (p : PillarId) (t : StrandId) (f : Strand → Strand) : (s.modStrand p t f).ctxBase = s.ctxBase := rfl
@[simp] theorem State.modStrand_launch (s : State) (p : PillarId) (t : StrandId) (f : Strand → Strand) : (s.modStrand p t f).launch = s.launch := rfl
@[simp] theorem State.modStrand_host (s : State) (p : PillarId) (t : StrandId) (f : Strand → Strand) : (s.modStrand p t f).host = s.host := rfl
@[simp] theorem State.modStrand_integrity (s : State) (p : PillarId) (t : StrandId) (f : Strand → Strand) : (s.modStrand p t f).integrity = s.integrity := rfl
@[simp] theorem State.modStrand_safelight (s : State) (p : PillarId) (t : StrandId) (f : Strand → Strand) : (s.modStrand p t f).safelight = s.safelight := rfl
@[simp] theorem State.modStrand_phasing (s : State) (p : PillarId) (t : StrandId) (f : Strand → Strand) : (s.modStrand p t f).phasing = s.phasing := rfl
@[simp] theorem State.modStrand_drafts (s : State) (p : PillarId) (t : StrandId) (f : Strand → Strand) : (s.modStrand p t f).drafts = s.drafts := rfl
@[simp] theorem State.modStrand_nextDraft (s : State) (p : PillarId) (t : StrandId) (f : Strand → Strand) : (s.modStrand p t f).nextDraft = s.nextDraft := rfl
@[simp] theorem State.modStrand_procs (s : State) (p : PillarId) (t : StrandId) (f : Strand → Strand) : (s.modStrand p t f).procs = s.procs := rfl
@[simp] theorem State.modStrand_trapMessages (s : State) (p : PillarId) (t : StrandId) (f : Strand → Strand) : (s.modStrand p t f).trapMessages = s.trapMessages := rfl
@[simp] theorem State.modStrand_preempts (s : State) (p : PillarId) (t : StrandId) (f : Strand → Strand) : (s.modStrand p t f).preempts = s.preempts := rfl
@[simp] theorem State.modStrand_saves (s : State) (p : PillarId) (t : StrandId) (f : Strand → Strand) : (s.modStrand p t f).saves = s.saves := rfl
@[simp] theorem State.modStrand_clk (s : State) (p : PillarId) (t : StrandId) (f : Strand → Strand) : (s.modStrand p t f).clk = s.clk := rfl
@[simp] theorem State.modStrand_curP (s : State) (p : PillarId) (t : StrandId) (f : Strand → Strand) : (s.modStrand p t f).curP = s.curP := rfl
@[simp] theorem State.modStrand_curT (s : State) (p : PillarId) (t : StrandId) (f : Strand → Strand) : (s.modStrand p t f).curT = s.curT := rfl
@[simp] theorem State.modStrand_agenda (s : State) (p : PillarId) (t : StrandId) (f : Strand → Strand) : (s.modStrand p t f).agenda = s.agenda := rfl
@[simp] theorem State.modStrand_effects (s : State) (p : PillarId) (t : StrandId) (f : Strand → Strand) : (s.modStrand p t f).effects = s.effects := rfl
@[simp] theorem State.modStrand_posted (s : State) (p : PillarId) (t : StrandId) (f : Strand → Strand) : (s.modStrand p t f).posted = s.posted := rfl
@[simp] theorem State.modStrand_freeCount (s : State) (p : PillarId) (t : StrandId) (f : Strand → Strand) : (s.modStrand p t f).freeCount = s.freeCount := rfl

/-! ## State.modMe changes nothing but pillars -/

@[simp] theorem State.modMe_stackUnits (s : State) (f : Pillar → Pillar) : (s.modMe f).stackUnits = s.stackUnits := rfl
@[simp] theorem State.modMe_mem (s : State) (f : Pillar → Pillar) : (s.modMe f).mem = s.mem := rfl
@[simp] theorem State.modMe_memBad (s : State) (f : Pillar → Pillar) : (s.modMe f).memBad = s.memBad := rfl
@[simp] theorem State.modMe_ctxBase (s : State) (f : Pillar → Pillar) : (s.modMe f).ctxBase = s.ctxBase := rfl
@[simp] theorem State.modMe_launch (s : State) (f : Pillar → Pillar) : (s.modMe f).launch = s.launch := rfl
@[simp] theorem State.modMe_host (s : State) (f : Pillar → Pillar) : (s.modMe f).host = s.host := rfl
@[simp] theorem State.modMe_integrity (s : State) (f : Pillar → Pillar) : (s.modMe f).integrity = s.integrity := rfl
@[simp] theorem State.modMe_safelight (s : State) (f : Pillar → Pillar) : (s.modMe f).safelight = s.safelight := rfl
@[simp] theorem State.modMe_phasing (s : State) (f : Pillar → Pillar) : (s.modMe f).phasing = s.phasing := rfl
@[simp] theorem State.modMe_drafts (s : State) (f : Pillar → Pillar) : (s.modMe f).drafts = s.drafts := rfl
@[simp] theorem State.modMe_nextDraft (s : State) (f : Pillar → Pillar) : (s.modMe f).nextDraft = s.nextDraft := rfl
@[simp] theorem State.modMe_procs (s : State) (f : Pillar → Pillar) : (s.modMe f).procs = s.procs := rfl
@[simp] theorem State.modMe_trapMessages (s : State) (f : Pillar → Pillar) : (s.modMe f).trapMessages = s.trapMessages := rfl
@[simp] theorem State.modMe_preempts (s : State) (f : Pillar → Pillar) : (s.modMe f).preempts = s.preempts := rfl
@[simp] theorem State.modMe_saves (s : State) (f : Pillar → Pillar) : (s.modMe f).saves = s.saves := rfl
@[simp] theorem State.modMe_clk (s : State) (f : Pillar → Pillar) : (s.modMe f).clk = s.clk := rfl
@[simp] theorem State.modMe_curP (s : State) (f : Pillar → Pillar) : (s.modMe f).curP = s.curP := rfl
@[simp] theorem State.modMe_curT (s : State) (f : Pillar → Pillar) : (s.modMe f).curT = s.curT := rfl
@[simp] theorem State.modMe_agenda (s : State) (f : Pillar → Pillar) : (s.modMe f).agenda = s.agenda := rfl
@[simp] theorem State.modMe_effects (s : State) (f : Pillar → Pillar) : (s.modMe f).effects = s.effects := rfl
@[simp] theorem State.modMe_posted (s : State) (f : Pillar → Pillar) : (s.modMe f).posted = s.posted := rfl
@[simp] theorem State.modMe_freeCount (s : State) (f : Pillar → Pillar) : (s.modMe f).freeCount = s.freeCount := rfl

/-! ## State.modSt changes nothing but pillars -/

@[simp] theorem State.modSt_stackUnits (s : State) (f : Strand → Strand) : (s.modSt f).stackUnits = s.stackUnits := rfl
@[simp] theorem State.modSt_mem (s : State) (f : Strand → Strand) : (s.modSt f).mem = s.mem := rfl
@[simp] theorem State.modSt_memBad (s : State) (f : Strand → Strand) : (s.modSt f).memBad = s.memBad := rfl
@[simp] theorem State.modSt_ctxBase (s : State) (f : Strand → Strand) : (s.modSt f).ctxBase = s.ctxBase := rfl
@[simp] theorem State.modSt_launch (s : State) (f : Strand → Strand) : (s.modSt f).launch = s.launch := rfl
@[simp] theorem State.modSt_host (s : State) (f : Strand → Strand) : (s.modSt f).host = s.host := rfl
@[simp] theorem State.modSt_integrity (s : State) (f : Strand → Strand) : (s.modSt f).integrity = s.integrity := rfl
@[simp] theorem State.modSt_safelight (s : State) (f : Strand → Strand) : (s.modSt f).safelight = s.safelight := rfl
@[simp] theorem State.modSt_phasing (s : State) (f : Strand → Strand) : (s.modSt f).phasing = s.phasing := rfl
@[simp] theorem State.modSt_drafts (s : State) (f : Strand → Strand) : (s.modSt f).drafts = s.drafts := rfl
@[simp] theorem State.modSt_nextDraft (s : State) (f : Strand → Strand) : (s.modSt f).nextDraft = s.nextDraft := rfl
@[simp] theorem State.modSt_procs (s : State) (f : Strand → Strand) : (s.modSt f).procs = s.procs := rfl
@[simp] theorem State.modSt_trapMessages (s : State) (f : Strand → Strand) : (s.modSt f).trapMessages = s.trapMessages := rfl
@[simp] theorem State.modSt_preempts (s : State) (f : Strand → Strand) : (s.modSt f).preempts = s.preempts := rfl
@[simp] theorem State.modSt_saves (s : State) (f : Strand → Strand) : (s.modSt f).saves = s.saves := rfl
@[simp] theorem State.modSt_clk (s : State) (f : Strand → Strand) : (s.modSt f).clk = s.clk := rfl
@[simp] theorem State.modSt_curP (s : State) (f : Strand → Strand) : (s.modSt f).curP = s.curP := rfl
@[simp] theorem State.modSt_curT (s : State) (f : Strand → Strand) : (s.modSt f).curT = s.curT := rfl
@[simp] theorem State.modSt_agenda (s : State) (f : Strand → Strand) : (s.modSt f).agenda = s.agenda := rfl
@[simp] theorem State.modSt_effects (s : State) (f : Strand → Strand) : (s.modSt f).effects = s.effects := rfl
@[simp] theorem State.modSt_posted (s : State) (f : Strand → Strand) : (s.modSt f).posted = s.posted := rfl
@[simp] theorem State.modSt_freeCount (s : State) (f : Strand → Strand) : (s.modSt f).freeCount = s.freeCount := rfl

/-! ## State.setPc changes nothing but pillars -/

@[simp] theorem State.setPc_stackUnits (s : State) (pc : LsAddr) : (s.setPc pc).stackUnits = s.stackUnits := rfl
@[simp] theorem State.setPc_mem (s : State) (pc : LsAddr) : (s.setPc pc).mem = s.mem := rfl
@[simp] theorem State.setPc_memBad (s : State) (pc : LsAddr) : (s.setPc pc).memBad = s.memBad := rfl
@[simp] theorem State.setPc_ctxBase (s : State) (pc : LsAddr) : (s.setPc pc).ctxBase = s.ctxBase := rfl
@[simp] theorem State.setPc_launch (s : State) (pc : LsAddr) : (s.setPc pc).launch = s.launch := rfl
@[simp] theorem State.setPc_host (s : State) (pc : LsAddr) : (s.setPc pc).host = s.host := rfl
@[simp] theorem State.setPc_integrity (s : State) (pc : LsAddr) : (s.setPc pc).integrity = s.integrity := rfl
@[simp] theorem State.setPc_safelight (s : State) (pc : LsAddr) : (s.setPc pc).safelight = s.safelight := rfl
@[simp] theorem State.setPc_phasing (s : State) (pc : LsAddr) : (s.setPc pc).phasing = s.phasing := rfl
@[simp] theorem State.setPc_drafts (s : State) (pc : LsAddr) : (s.setPc pc).drafts = s.drafts := rfl
@[simp] theorem State.setPc_nextDraft (s : State) (pc : LsAddr) : (s.setPc pc).nextDraft = s.nextDraft := rfl
@[simp] theorem State.setPc_procs (s : State) (pc : LsAddr) : (s.setPc pc).procs = s.procs := rfl
@[simp] theorem State.setPc_trapMessages (s : State) (pc : LsAddr) : (s.setPc pc).trapMessages = s.trapMessages := rfl
@[simp] theorem State.setPc_preempts (s : State) (pc : LsAddr) : (s.setPc pc).preempts = s.preempts := rfl
@[simp] theorem State.setPc_saves (s : State) (pc : LsAddr) : (s.setPc pc).saves = s.saves := rfl
@[simp] theorem State.setPc_clk (s : State) (pc : LsAddr) : (s.setPc pc).clk = s.clk := rfl
@[simp] theorem State.setPc_curP (s : State) (pc : LsAddr) : (s.setPc pc).curP = s.curP := rfl
@[simp] theorem State.setPc_curT (s : State) (pc : LsAddr) : (s.setPc pc).curT = s.curT := rfl
@[simp] theorem State.setPc_agenda (s : State) (pc : LsAddr) : (s.setPc pc).agenda = s.agenda := rfl
@[simp] theorem State.setPc_effects (s : State) (pc : LsAddr) : (s.setPc pc).effects = s.effects := rfl
@[simp] theorem State.setPc_posted (s : State) (pc : LsAddr) : (s.setPc pc).posted = s.posted := rfl
@[simp] theorem State.setPc_freeCount (s : State) (pc : LsAddr) : (s.setPc pc).freeCount = s.freeCount := rfl

/-! ## State.issueAfter changes nothing but pillars -/

@[simp] theorem State.issueAfter_stackUnits (s : State) (n : Nat) : (s.issueAfter n).stackUnits = s.stackUnits := rfl
@[simp] theorem State.issueAfter_mem (s : State) (n : Nat) : (s.issueAfter n).mem = s.mem := rfl
@[simp] theorem State.issueAfter_memBad (s : State) (n : Nat) : (s.issueAfter n).memBad = s.memBad := rfl
@[simp] theorem State.issueAfter_ctxBase (s : State) (n : Nat) : (s.issueAfter n).ctxBase = s.ctxBase := rfl
@[simp] theorem State.issueAfter_launch (s : State) (n : Nat) : (s.issueAfter n).launch = s.launch := rfl
@[simp] theorem State.issueAfter_host (s : State) (n : Nat) : (s.issueAfter n).host = s.host := rfl
@[simp] theorem State.issueAfter_integrity (s : State) (n : Nat) : (s.issueAfter n).integrity = s.integrity := rfl
@[simp] theorem State.issueAfter_safelight (s : State) (n : Nat) : (s.issueAfter n).safelight = s.safelight := rfl
@[simp] theorem State.issueAfter_phasing (s : State) (n : Nat) : (s.issueAfter n).phasing = s.phasing := rfl
@[simp] theorem State.issueAfter_drafts (s : State) (n : Nat) : (s.issueAfter n).drafts = s.drafts := rfl
@[simp] theorem State.issueAfter_nextDraft (s : State) (n : Nat) : (s.issueAfter n).nextDraft = s.nextDraft := rfl
@[simp] theorem State.issueAfter_procs (s : State) (n : Nat) : (s.issueAfter n).procs = s.procs := rfl
@[simp] theorem State.issueAfter_trapMessages (s : State) (n : Nat) : (s.issueAfter n).trapMessages = s.trapMessages := rfl
@[simp] theorem State.issueAfter_preempts (s : State) (n : Nat) : (s.issueAfter n).preempts = s.preempts := rfl
@[simp] theorem State.issueAfter_saves (s : State) (n : Nat) : (s.issueAfter n).saves = s.saves := rfl
@[simp] theorem State.issueAfter_clk (s : State) (n : Nat) : (s.issueAfter n).clk = s.clk := rfl
@[simp] theorem State.issueAfter_curP (s : State) (n : Nat) : (s.issueAfter n).curP = s.curP := rfl
@[simp] theorem State.issueAfter_curT (s : State) (n : Nat) : (s.issueAfter n).curT = s.curT := rfl
@[simp] theorem State.issueAfter_agenda (s : State) (n : Nat) : (s.issueAfter n).agenda = s.agenda := rfl
@[simp] theorem State.issueAfter_effects (s : State) (n : Nat) : (s.issueAfter n).effects = s.effects := rfl
@[simp] theorem State.issueAfter_posted (s : State) (n : Nat) : (s.issueAfter n).posted = s.posted := rfl
@[simp] theorem State.issueAfter_freeCount (s : State) (n : Nat) : (s.issueAfter n).freeCount = s.freeCount := rfl

/-! ## State.setG changes nothing but pillars -/

@[simp] theorem State.setG_stackUnits (s : State) (n : Nat) (v : PWord) : (s.setG n v).stackUnits = s.stackUnits := rfl
@[simp] theorem State.setG_mem (s : State) (n : Nat) (v : PWord) : (s.setG n v).mem = s.mem := rfl
@[simp] theorem State.setG_memBad (s : State) (n : Nat) (v : PWord) : (s.setG n v).memBad = s.memBad := rfl
@[simp] theorem State.setG_ctxBase (s : State) (n : Nat) (v : PWord) : (s.setG n v).ctxBase = s.ctxBase := rfl
@[simp] theorem State.setG_launch (s : State) (n : Nat) (v : PWord) : (s.setG n v).launch = s.launch := rfl
@[simp] theorem State.setG_host (s : State) (n : Nat) (v : PWord) : (s.setG n v).host = s.host := rfl
@[simp] theorem State.setG_integrity (s : State) (n : Nat) (v : PWord) : (s.setG n v).integrity = s.integrity := rfl
@[simp] theorem State.setG_safelight (s : State) (n : Nat) (v : PWord) : (s.setG n v).safelight = s.safelight := rfl
@[simp] theorem State.setG_phasing (s : State) (n : Nat) (v : PWord) : (s.setG n v).phasing = s.phasing := rfl
@[simp] theorem State.setG_drafts (s : State) (n : Nat) (v : PWord) : (s.setG n v).drafts = s.drafts := rfl
@[simp] theorem State.setG_nextDraft (s : State) (n : Nat) (v : PWord) : (s.setG n v).nextDraft = s.nextDraft := rfl
@[simp] theorem State.setG_procs (s : State) (n : Nat) (v : PWord) : (s.setG n v).procs = s.procs := rfl
@[simp] theorem State.setG_trapMessages (s : State) (n : Nat) (v : PWord) : (s.setG n v).trapMessages = s.trapMessages := rfl
@[simp] theorem State.setG_preempts (s : State) (n : Nat) (v : PWord) : (s.setG n v).preempts = s.preempts := rfl
@[simp] theorem State.setG_saves (s : State) (n : Nat) (v : PWord) : (s.setG n v).saves = s.saves := rfl
@[simp] theorem State.setG_clk (s : State) (n : Nat) (v : PWord) : (s.setG n v).clk = s.clk := rfl
@[simp] theorem State.setG_curP (s : State) (n : Nat) (v : PWord) : (s.setG n v).curP = s.curP := rfl
@[simp] theorem State.setG_curT (s : State) (n : Nat) (v : PWord) : (s.setG n v).curT = s.curT := rfl
@[simp] theorem State.setG_agenda (s : State) (n : Nat) (v : PWord) : (s.setG n v).agenda = s.agenda := rfl
@[simp] theorem State.setG_effects (s : State) (n : Nat) (v : PWord) : (s.setG n v).effects = s.effects := rfl
@[simp] theorem State.setG_posted (s : State) (n : Nat) (v : PWord) : (s.setG n v).posted = s.posted := rfl
@[simp] theorem State.setG_freeCount (s : State) (n : Nat) (v : PWord) : (s.setG n v).freeCount = s.freeCount := rfl

/-! ## State.count changes nothing but pillars -/

@[simp] theorem State.count_stackUnits (s : State) (n k : Nat) : (s.count n k).stackUnits = s.stackUnits := rfl
@[simp] theorem State.count_mem (s : State) (n k : Nat) : (s.count n k).mem = s.mem := rfl
@[simp] theorem State.count_memBad (s : State) (n k : Nat) : (s.count n k).memBad = s.memBad := rfl
@[simp] theorem State.count_ctxBase (s : State) (n k : Nat) : (s.count n k).ctxBase = s.ctxBase := rfl
@[simp] theorem State.count_launch (s : State) (n k : Nat) : (s.count n k).launch = s.launch := rfl
@[simp] theorem State.count_host (s : State) (n k : Nat) : (s.count n k).host = s.host := rfl
@[simp] theorem State.count_integrity (s : State) (n k : Nat) : (s.count n k).integrity = s.integrity := rfl
@[simp] theorem State.count_safelight (s : State) (n k : Nat) : (s.count n k).safelight = s.safelight := rfl
@[simp] theorem State.count_phasing (s : State) (n k : Nat) : (s.count n k).phasing = s.phasing := rfl
@[simp] theorem State.count_drafts (s : State) (n k : Nat) : (s.count n k).drafts = s.drafts := rfl
@[simp] theorem State.count_nextDraft (s : State) (n k : Nat) : (s.count n k).nextDraft = s.nextDraft := rfl
@[simp] theorem State.count_procs (s : State) (n k : Nat) : (s.count n k).procs = s.procs := rfl
@[simp] theorem State.count_trapMessages (s : State) (n k : Nat) : (s.count n k).trapMessages = s.trapMessages := rfl
@[simp] theorem State.count_preempts (s : State) (n k : Nat) : (s.count n k).preempts = s.preempts := rfl
@[simp] theorem State.count_saves (s : State) (n k : Nat) : (s.count n k).saves = s.saves := rfl
@[simp] theorem State.count_clk (s : State) (n k : Nat) : (s.count n k).clk = s.clk := rfl
@[simp] theorem State.count_curP (s : State) (n k : Nat) : (s.count n k).curP = s.curP := rfl
@[simp] theorem State.count_curT (s : State) (n k : Nat) : (s.count n k).curT = s.curT := rfl
@[simp] theorem State.count_agenda (s : State) (n k : Nat) : (s.count n k).agenda = s.agenda := rfl
@[simp] theorem State.count_effects (s : State) (n k : Nat) : (s.count n k).effects = s.effects := rfl
@[simp] theorem State.count_posted (s : State) (n k : Nat) : (s.count n k).posted = s.posted := rfl
@[simp] theorem State.count_freeCount (s : State) (n k : Nat) : (s.count n k).freeCount = s.freeCount := rfl

/-! ## State.focus changes nothing but curP and curT -/

@[simp] theorem State.focus_pillars (s : State) (p : PillarId) (t : StrandId) : (s.focus p t).pillars = s.pillars := rfl
@[simp] theorem State.focus_stackUnits (s : State) (p : PillarId) (t : StrandId) : (s.focus p t).stackUnits = s.stackUnits := rfl
@[simp] theorem State.focus_mem (s : State) (p : PillarId) (t : StrandId) : (s.focus p t).mem = s.mem := rfl
@[simp] theorem State.focus_memBad (s : State) (p : PillarId) (t : StrandId) : (s.focus p t).memBad = s.memBad := rfl
@[simp] theorem State.focus_ctxBase (s : State) (p : PillarId) (t : StrandId) : (s.focus p t).ctxBase = s.ctxBase := rfl
@[simp] theorem State.focus_launch (s : State) (p : PillarId) (t : StrandId) : (s.focus p t).launch = s.launch := rfl
@[simp] theorem State.focus_host (s : State) (p : PillarId) (t : StrandId) : (s.focus p t).host = s.host := rfl
@[simp] theorem State.focus_integrity (s : State) (p : PillarId) (t : StrandId) : (s.focus p t).integrity = s.integrity := rfl
@[simp] theorem State.focus_safelight (s : State) (p : PillarId) (t : StrandId) : (s.focus p t).safelight = s.safelight := rfl
@[simp] theorem State.focus_phasing (s : State) (p : PillarId) (t : StrandId) : (s.focus p t).phasing = s.phasing := rfl
@[simp] theorem State.focus_drafts (s : State) (p : PillarId) (t : StrandId) : (s.focus p t).drafts = s.drafts := rfl
@[simp] theorem State.focus_nextDraft (s : State) (p : PillarId) (t : StrandId) : (s.focus p t).nextDraft = s.nextDraft := rfl
@[simp] theorem State.focus_procs (s : State) (p : PillarId) (t : StrandId) : (s.focus p t).procs = s.procs := rfl
@[simp] theorem State.focus_trapMessages (s : State) (p : PillarId) (t : StrandId) : (s.focus p t).trapMessages = s.trapMessages := rfl
@[simp] theorem State.focus_preempts (s : State) (p : PillarId) (t : StrandId) : (s.focus p t).preempts = s.preempts := rfl
@[simp] theorem State.focus_saves (s : State) (p : PillarId) (t : StrandId) : (s.focus p t).saves = s.saves := rfl
@[simp] theorem State.focus_clk (s : State) (p : PillarId) (t : StrandId) : (s.focus p t).clk = s.clk := rfl
@[simp] theorem State.focus_agenda (s : State) (p : PillarId) (t : StrandId) : (s.focus p t).agenda = s.agenda := rfl
@[simp] theorem State.focus_effects (s : State) (p : PillarId) (t : StrandId) : (s.focus p t).effects = s.effects := rfl
@[simp] theorem State.focus_posted (s : State) (p : PillarId) (t : StrandId) : (s.focus p t).posted = s.posted := rfl
@[simp] theorem State.focus_freeCount (s : State) (p : PillarId) (t : StrandId) : (s.focus p t).freeCount = s.freeCount := rfl

/-! ## State.modStack changes nothing but stackUnits -/

@[simp] theorem State.modStack_pillars (s : State) (n : Nat) (f : Stack → Stack) : (s.modStack n f).pillars = s.pillars := rfl
@[simp] theorem State.modStack_mem (s : State) (n : Nat) (f : Stack → Stack) : (s.modStack n f).mem = s.mem := rfl
@[simp] theorem State.modStack_memBad (s : State) (n : Nat) (f : Stack → Stack) : (s.modStack n f).memBad = s.memBad := rfl
@[simp] theorem State.modStack_ctxBase (s : State) (n : Nat) (f : Stack → Stack) : (s.modStack n f).ctxBase = s.ctxBase := rfl
@[simp] theorem State.modStack_launch (s : State) (n : Nat) (f : Stack → Stack) : (s.modStack n f).launch = s.launch := rfl
@[simp] theorem State.modStack_host (s : State) (n : Nat) (f : Stack → Stack) : (s.modStack n f).host = s.host := rfl
@[simp] theorem State.modStack_integrity (s : State) (n : Nat) (f : Stack → Stack) : (s.modStack n f).integrity = s.integrity := rfl
@[simp] theorem State.modStack_safelight (s : State) (n : Nat) (f : Stack → Stack) : (s.modStack n f).safelight = s.safelight := rfl
@[simp] theorem State.modStack_phasing (s : State) (n : Nat) (f : Stack → Stack) : (s.modStack n f).phasing = s.phasing := rfl
@[simp] theorem State.modStack_drafts (s : State) (n : Nat) (f : Stack → Stack) : (s.modStack n f).drafts = s.drafts := rfl
@[simp] theorem State.modStack_nextDraft (s : State) (n : Nat) (f : Stack → Stack) : (s.modStack n f).nextDraft = s.nextDraft := rfl
@[simp] theorem State.modStack_procs (s : State) (n : Nat) (f : Stack → Stack) : (s.modStack n f).procs = s.procs := rfl
@[simp] theorem State.modStack_trapMessages (s : State) (n : Nat) (f : Stack → Stack) : (s.modStack n f).trapMessages = s.trapMessages := rfl
@[simp] theorem State.modStack_preempts (s : State) (n : Nat) (f : Stack → Stack) : (s.modStack n f).preempts = s.preempts := rfl
@[simp] theorem State.modStack_saves (s : State) (n : Nat) (f : Stack → Stack) : (s.modStack n f).saves = s.saves := rfl
@[simp] theorem State.modStack_clk (s : State) (n : Nat) (f : Stack → Stack) : (s.modStack n f).clk = s.clk := rfl
@[simp] theorem State.modStack_curP (s : State) (n : Nat) (f : Stack → Stack) : (s.modStack n f).curP = s.curP := rfl
@[simp] theorem State.modStack_curT (s : State) (n : Nat) (f : Stack → Stack) : (s.modStack n f).curT = s.curT := rfl
@[simp] theorem State.modStack_agenda (s : State) (n : Nat) (f : Stack → Stack) : (s.modStack n f).agenda = s.agenda := rfl
@[simp] theorem State.modStack_effects (s : State) (n : Nat) (f : Stack → Stack) : (s.modStack n f).effects = s.effects := rfl
@[simp] theorem State.modStack_posted (s : State) (n : Nat) (f : Stack → Stack) : (s.modStack n f).posted = s.posted := rfl
@[simp] theorem State.modStack_freeCount (s : State) (n : Nat) (f : Stack → Stack) : (s.modStack n f).freeCount = s.freeCount := rfl
@[simp] theorem State.focus_curP (s : State) (p : PillarId) (t : StrandId) : (s.focus p t).curP = p := rfl
@[simp] theorem State.focus_curT (s : State) (p : PillarId) (t : StrandId) : (s.focus p t).curT = t := rfl

/-! ## Pillar.setStrand changes nothing but strands -/

@[simp] theorem Pillar.setStrand_phase (x : Pillar) (t : StrandId) (r : Strand) : (x.setStrand t r).phase = x.phase := rfl
@[simp] theorem Pillar.setStrand_job (x : Pillar) (t : StrandId) (r : Strand) : (x.setStrand t r).job = x.job := rfl
@[simp] theorem Pillar.setStrand_standsFor (x : Pillar) (t : StrandId) (r : Strand) : (x.setStrand t r).standsFor = x.standsFor := rfl
@[simp] theorem Pillar.setStrand_asid (x : Pillar) (t : StrandId) (r : Strand) : (x.setStrand t r).asid = x.asid := rfl
@[simp] theorem Pillar.setStrand_lastIssue (x : Pillar) (t : StrandId) (r : Strand) : (x.setStrand t r).lastIssue = x.lastIssue := rfl
@[simp] theorem Pillar.setStrand_seqCounter (x : Pillar) (t : StrandId) (r : Strand) : (x.setStrand t r).seqCounter = x.seqCounter := rfl
@[simp] theorem Pillar.setStrand_ring (x : Pillar) (t : StrandId) (r : Strand) : (x.setStrand t r).ring = x.ring := rfl
@[simp] theorem Pillar.setStrand_xbKb (x : Pillar) (t : StrandId) (r : Strand) : (x.setStrand t r).xbKb = x.xbKb := rfl
@[simp] theorem Pillar.setStrand_ls (x : Pillar) (t : StrandId) (r : Strand) : (x.setStrand t r).ls = x.ls := rfl
@[simp] theorem Pillar.setStrand_firmware (x : Pillar) (t : StrandId) (r : Strand) : (x.setStrand t r).firmware = x.firmware := rfl
@[simp] theorem Pillar.setStrand_stvec (x : Pillar) (t : StrandId) (r : Strand) : (x.setStrand t r).stvec = x.stvec := rfl
@[simp] theorem Pillar.setStrand_mtvec (x : Pillar) (t : StrandId) (r : Strand) : (x.setStrand t r).mtvec = x.mtvec := rfl
@[simp] theorem Pillar.setStrand_segs (x : Pillar) (t : StrandId) (r : Strand) : (x.setStrand t r).segs = x.segs := rfl
@[simp] theorem Pillar.setStrand_tags (x : Pillar) (t : StrandId) (r : Strand) : (x.setStrand t r).tags = x.tags := rfl
@[simp] theorem Pillar.setStrand_fibres (x : Pillar) (t : StrandId) (r : Strand) : (x.setStrand t r).fibres = x.fibres := rfl
@[simp] theorem Pillar.setStrand_runQueue (x : Pillar) (t : StrandId) (r : Strand) : (x.setStrand t r).runQueue = x.runQueue := rfl
@[simp] theorem Pillar.setStrand_steal (x : Pillar) (t : StrandId) (r : Strand) : (x.setStrand t r).steal = x.steal := rfl
@[simp] theorem Pillar.setStrand_vec (x : Pillar) (t : StrandId) (r : Strand) : (x.setStrand t r).vec = x.vec := rfl
@[simp] theorem Pillar.setStrand_pipes (x : Pillar) (t : StrandId) (r : Strand) : (x.setStrand t r).pipes = x.pipes := rfl
@[simp] theorem Pillar.setStrand_mtx (x : Pillar) (t : StrandId) (r : Strand) : (x.setStrand t r).mtx = x.mtx := rfl
@[simp] theorem Pillar.setStrand_tile (x : Pillar) (t : StrandId) (r : Strand) : (x.setStrand t r).tile = x.tile := rfl
@[simp] theorem Pillar.setStrand_msg (x : Pillar) (t : StrandId) (r : Strand) : (x.setStrand t r).msg = x.msg := rfl
@[simp] theorem Pillar.setStrand_vault (x : Pillar) (t : StrandId) (r : Strand) : (x.setStrand t r).vault = x.vault := rfl
@[simp] theorem Pillar.setStrand_dataTlb (x : Pillar) (t : StrandId) (r : Strand) : (x.setStrand t r).dataTlb = x.dataTlb := rfl
@[simp] theorem Pillar.setStrand_tileTlb (x : Pillar) (t : StrandId) (r : Strand) : (x.setStrand t r).tileTlb = x.tileTlb := rfl
@[simp] theorem Pillar.setStrand_divider (x : Pillar) (t : StrandId) (r : Strand) : (x.setStrand t r).divider = x.divider := rfl
@[simp] theorem Pillar.setStrand_signal (x : Pillar) (t : StrandId) (r : Strand) : (x.setStrand t r).signal = x.signal := rfl
@[simp] theorem Pillar.setStrand_pickNo (x : Pillar) (t : StrandId) (r : Strand) : (x.setStrand t r).pickNo = x.pickNo := rfl
@[simp] theorem Pillar.setStrand_pinBase (x : Pillar) (t : StrandId) (r : Strand) : (x.setStrand t r).pinBase = x.pinBase := rfl
@[simp] theorem Pillar.setStrand_commands (x : Pillar) (t : StrandId) (r : Strand) : (x.setStrand t r).commands = x.commands := rfl
@[simp] theorem Pillar.setStrand_fwdEnt (x : Pillar) (t : StrandId) (r : Strand) : (x.setStrand t r).fwdEnt = x.fwdEnt := rfl
@[simp] theorem Pillar.setStrand_fwd (x : Pillar) (t : StrandId) (r : Strand) : (x.setStrand t r).fwd = x.fwd := rfl
@[simp] theorem Pillar.setStrand_fwdSince (x : Pillar) (t : StrandId) (r : Strand) : (x.setStrand t r).fwdSince = x.fwdSince := rfl
@[simp] theorem Pillar.setStrand_fwdTaken (x : Pillar) (t : StrandId) (r : Strand) : (x.setStrand t r).fwdTaken = x.fwdTaken := rfl
@[simp] theorem Pillar.setStrand_saveOff (x : Pillar) (t : StrandId) (r : Strand) : (x.setStrand t r).saveOff = x.saveOff := rfl
@[simp] theorem Pillar.setStrand_stripLast (x : Pillar) (t : StrandId) (r : Strand) : (x.setStrand t r).stripLast = x.stripLast := rfl
@[simp] theorem Pillar.setStrand_strip (x : Pillar) (t : StrandId) (r : Strand) : (x.setStrand t r).strip = x.strip := rfl
@[simp] theorem Pillar.setStrand_stripFrom (x : Pillar) (t : StrandId) (r : Strand) : (x.setStrand t r).stripFrom = x.stripFrom := rfl
@[simp] theorem Pillar.setStrand_stripDue (x : Pillar) (t : StrandId) (r : Strand) : (x.setStrand t r).stripDue = x.stripDue := rfl
@[simp] theorem Pillar.setStrand_failedMark (x : Pillar) (t : StrandId) (r : Strand) : (x.setStrand t r).failedMark = x.failedMark := rfl
@[simp] theorem Pillar.setStrand_stripEgress (x : Pillar) (t : StrandId) (r : Strand) : (x.setStrand t r).stripEgress = x.stripEgress := rfl
@[simp] theorem Pillar.setStrand_stripFails (x : Pillar) (t : StrandId) (r : Strand) : (x.setStrand t r).stripFails = x.stripFails := rfl
@[simp] theorem Pillar.setStrand_preempt (x : Pillar) (t : StrandId) (r : Strand) : (x.setStrand t r).preempt = x.preempt := rfl
@[simp] theorem Pillar.setStrand_preemptAged (x : Pillar) (t : StrandId) (r : Strand) : (x.setStrand t r).preemptAged = x.preemptAged := rfl
@[simp] theorem Pillar.setStrand_egress (x : Pillar) (t : StrandId) (r : Strand) : (x.setStrand t r).egress = x.egress := rfl
@[simp] theorem Pillar.setStrand_reqOff (x : Pillar) (t : StrandId) (r : Strand) : (x.setStrand t r).reqOff = x.reqOff := rfl
@[simp] theorem Pillar.setStrand_rspOff (x : Pillar) (t : StrandId) (r : Strand) : (x.setStrand t r).rspOff = x.rspOff := rfl
@[simp] theorem Pillar.setStrand_crcRuns (x : Pillar) (t : StrandId) (r : Strand) : (x.setStrand t r).crcRuns = x.crcRuns := rfl
@[simp] theorem Pillar.setStrand_crcAt (x : Pillar) (t : StrandId) (r : Strand) : (x.setStrand t r).crcAt = x.crcAt := rfl
@[simp] theorem Pillar.setStrand_counters (x : Pillar) (t : StrandId) (r : Strand) : (x.setStrand t r).counters = x.counters := rfl

/-! ## Pillar.modStrand changes nothing but strands -/

@[simp] theorem Pillar.modStrand_phase (x : Pillar) (t : StrandId) (f : Strand → Strand) : (x.modStrand t f).phase = x.phase := rfl
@[simp] theorem Pillar.modStrand_job (x : Pillar) (t : StrandId) (f : Strand → Strand) : (x.modStrand t f).job = x.job := rfl
@[simp] theorem Pillar.modStrand_standsFor (x : Pillar) (t : StrandId) (f : Strand → Strand) : (x.modStrand t f).standsFor = x.standsFor := rfl
@[simp] theorem Pillar.modStrand_asid (x : Pillar) (t : StrandId) (f : Strand → Strand) : (x.modStrand t f).asid = x.asid := rfl
@[simp] theorem Pillar.modStrand_lastIssue (x : Pillar) (t : StrandId) (f : Strand → Strand) : (x.modStrand t f).lastIssue = x.lastIssue := rfl
@[simp] theorem Pillar.modStrand_seqCounter (x : Pillar) (t : StrandId) (f : Strand → Strand) : (x.modStrand t f).seqCounter = x.seqCounter := rfl
@[simp] theorem Pillar.modStrand_ring (x : Pillar) (t : StrandId) (f : Strand → Strand) : (x.modStrand t f).ring = x.ring := rfl
@[simp] theorem Pillar.modStrand_xbKb (x : Pillar) (t : StrandId) (f : Strand → Strand) : (x.modStrand t f).xbKb = x.xbKb := rfl
@[simp] theorem Pillar.modStrand_ls (x : Pillar) (t : StrandId) (f : Strand → Strand) : (x.modStrand t f).ls = x.ls := rfl
@[simp] theorem Pillar.modStrand_firmware (x : Pillar) (t : StrandId) (f : Strand → Strand) : (x.modStrand t f).firmware = x.firmware := rfl
@[simp] theorem Pillar.modStrand_stvec (x : Pillar) (t : StrandId) (f : Strand → Strand) : (x.modStrand t f).stvec = x.stvec := rfl
@[simp] theorem Pillar.modStrand_mtvec (x : Pillar) (t : StrandId) (f : Strand → Strand) : (x.modStrand t f).mtvec = x.mtvec := rfl
@[simp] theorem Pillar.modStrand_segs (x : Pillar) (t : StrandId) (f : Strand → Strand) : (x.modStrand t f).segs = x.segs := rfl
@[simp] theorem Pillar.modStrand_tags (x : Pillar) (t : StrandId) (f : Strand → Strand) : (x.modStrand t f).tags = x.tags := rfl
@[simp] theorem Pillar.modStrand_fibres (x : Pillar) (t : StrandId) (f : Strand → Strand) : (x.modStrand t f).fibres = x.fibres := rfl
@[simp] theorem Pillar.modStrand_runQueue (x : Pillar) (t : StrandId) (f : Strand → Strand) : (x.modStrand t f).runQueue = x.runQueue := rfl
@[simp] theorem Pillar.modStrand_steal (x : Pillar) (t : StrandId) (f : Strand → Strand) : (x.modStrand t f).steal = x.steal := rfl
@[simp] theorem Pillar.modStrand_vec (x : Pillar) (t : StrandId) (f : Strand → Strand) : (x.modStrand t f).vec = x.vec := rfl
@[simp] theorem Pillar.modStrand_pipes (x : Pillar) (t : StrandId) (f : Strand → Strand) : (x.modStrand t f).pipes = x.pipes := rfl
@[simp] theorem Pillar.modStrand_mtx (x : Pillar) (t : StrandId) (f : Strand → Strand) : (x.modStrand t f).mtx = x.mtx := rfl
@[simp] theorem Pillar.modStrand_tile (x : Pillar) (t : StrandId) (f : Strand → Strand) : (x.modStrand t f).tile = x.tile := rfl
@[simp] theorem Pillar.modStrand_msg (x : Pillar) (t : StrandId) (f : Strand → Strand) : (x.modStrand t f).msg = x.msg := rfl
@[simp] theorem Pillar.modStrand_vault (x : Pillar) (t : StrandId) (f : Strand → Strand) : (x.modStrand t f).vault = x.vault := rfl
@[simp] theorem Pillar.modStrand_dataTlb (x : Pillar) (t : StrandId) (f : Strand → Strand) : (x.modStrand t f).dataTlb = x.dataTlb := rfl
@[simp] theorem Pillar.modStrand_tileTlb (x : Pillar) (t : StrandId) (f : Strand → Strand) : (x.modStrand t f).tileTlb = x.tileTlb := rfl
@[simp] theorem Pillar.modStrand_divider (x : Pillar) (t : StrandId) (f : Strand → Strand) : (x.modStrand t f).divider = x.divider := rfl
@[simp] theorem Pillar.modStrand_signal (x : Pillar) (t : StrandId) (f : Strand → Strand) : (x.modStrand t f).signal = x.signal := rfl
@[simp] theorem Pillar.modStrand_pickNo (x : Pillar) (t : StrandId) (f : Strand → Strand) : (x.modStrand t f).pickNo = x.pickNo := rfl
@[simp] theorem Pillar.modStrand_pinBase (x : Pillar) (t : StrandId) (f : Strand → Strand) : (x.modStrand t f).pinBase = x.pinBase := rfl
@[simp] theorem Pillar.modStrand_commands (x : Pillar) (t : StrandId) (f : Strand → Strand) : (x.modStrand t f).commands = x.commands := rfl
@[simp] theorem Pillar.modStrand_fwdEnt (x : Pillar) (t : StrandId) (f : Strand → Strand) : (x.modStrand t f).fwdEnt = x.fwdEnt := rfl
@[simp] theorem Pillar.modStrand_fwd (x : Pillar) (t : StrandId) (f : Strand → Strand) : (x.modStrand t f).fwd = x.fwd := rfl
@[simp] theorem Pillar.modStrand_fwdSince (x : Pillar) (t : StrandId) (f : Strand → Strand) : (x.modStrand t f).fwdSince = x.fwdSince := rfl
@[simp] theorem Pillar.modStrand_fwdTaken (x : Pillar) (t : StrandId) (f : Strand → Strand) : (x.modStrand t f).fwdTaken = x.fwdTaken := rfl
@[simp] theorem Pillar.modStrand_saveOff (x : Pillar) (t : StrandId) (f : Strand → Strand) : (x.modStrand t f).saveOff = x.saveOff := rfl
@[simp] theorem Pillar.modStrand_stripLast (x : Pillar) (t : StrandId) (f : Strand → Strand) : (x.modStrand t f).stripLast = x.stripLast := rfl
@[simp] theorem Pillar.modStrand_strip (x : Pillar) (t : StrandId) (f : Strand → Strand) : (x.modStrand t f).strip = x.strip := rfl
@[simp] theorem Pillar.modStrand_stripFrom (x : Pillar) (t : StrandId) (f : Strand → Strand) : (x.modStrand t f).stripFrom = x.stripFrom := rfl
@[simp] theorem Pillar.modStrand_stripDue (x : Pillar) (t : StrandId) (f : Strand → Strand) : (x.modStrand t f).stripDue = x.stripDue := rfl
@[simp] theorem Pillar.modStrand_failedMark (x : Pillar) (t : StrandId) (f : Strand → Strand) : (x.modStrand t f).failedMark = x.failedMark := rfl
@[simp] theorem Pillar.modStrand_stripEgress (x : Pillar) (t : StrandId) (f : Strand → Strand) : (x.modStrand t f).stripEgress = x.stripEgress := rfl
@[simp] theorem Pillar.modStrand_stripFails (x : Pillar) (t : StrandId) (f : Strand → Strand) : (x.modStrand t f).stripFails = x.stripFails := rfl
@[simp] theorem Pillar.modStrand_preempt (x : Pillar) (t : StrandId) (f : Strand → Strand) : (x.modStrand t f).preempt = x.preempt := rfl
@[simp] theorem Pillar.modStrand_preemptAged (x : Pillar) (t : StrandId) (f : Strand → Strand) : (x.modStrand t f).preemptAged = x.preemptAged := rfl
@[simp] theorem Pillar.modStrand_egress (x : Pillar) (t : StrandId) (f : Strand → Strand) : (x.modStrand t f).egress = x.egress := rfl
@[simp] theorem Pillar.modStrand_reqOff (x : Pillar) (t : StrandId) (f : Strand → Strand) : (x.modStrand t f).reqOff = x.reqOff := rfl
@[simp] theorem Pillar.modStrand_rspOff (x : Pillar) (t : StrandId) (f : Strand → Strand) : (x.modStrand t f).rspOff = x.rspOff := rfl
@[simp] theorem Pillar.modStrand_crcRuns (x : Pillar) (t : StrandId) (f : Strand → Strand) : (x.modStrand t f).crcRuns = x.crcRuns := rfl
@[simp] theorem Pillar.modStrand_crcAt (x : Pillar) (t : StrandId) (f : Strand → Strand) : (x.modStrand t f).crcAt = x.crcAt := rfl
@[simp] theorem Pillar.modStrand_counters (x : Pillar) (t : StrandId) (f : Strand → Strand) : (x.modStrand t f).counters = x.counters := rfl

/-! ## Pillar.count changes nothing but counters -/

@[simp] theorem Pillar.count_phase (x : Pillar) (n k : Nat) : (x.count n k).phase = x.phase := rfl
@[simp] theorem Pillar.count_job (x : Pillar) (n k : Nat) : (x.count n k).job = x.job := rfl
@[simp] theorem Pillar.count_standsFor (x : Pillar) (n k : Nat) : (x.count n k).standsFor = x.standsFor := rfl
@[simp] theorem Pillar.count_asid (x : Pillar) (n k : Nat) : (x.count n k).asid = x.asid := rfl
@[simp] theorem Pillar.count_strands (x : Pillar) (n k : Nat) : (x.count n k).strands = x.strands := rfl
@[simp] theorem Pillar.count_lastIssue (x : Pillar) (n k : Nat) : (x.count n k).lastIssue = x.lastIssue := rfl
@[simp] theorem Pillar.count_seqCounter (x : Pillar) (n k : Nat) : (x.count n k).seqCounter = x.seqCounter := rfl
@[simp] theorem Pillar.count_ring (x : Pillar) (n k : Nat) : (x.count n k).ring = x.ring := rfl
@[simp] theorem Pillar.count_xbKb (x : Pillar) (n k : Nat) : (x.count n k).xbKb = x.xbKb := rfl
@[simp] theorem Pillar.count_ls (x : Pillar) (n k : Nat) : (x.count n k).ls = x.ls := rfl
@[simp] theorem Pillar.count_firmware (x : Pillar) (n k : Nat) : (x.count n k).firmware = x.firmware := rfl
@[simp] theorem Pillar.count_stvec (x : Pillar) (n k : Nat) : (x.count n k).stvec = x.stvec := rfl
@[simp] theorem Pillar.count_mtvec (x : Pillar) (n k : Nat) : (x.count n k).mtvec = x.mtvec := rfl
@[simp] theorem Pillar.count_segs (x : Pillar) (n k : Nat) : (x.count n k).segs = x.segs := rfl
@[simp] theorem Pillar.count_tags (x : Pillar) (n k : Nat) : (x.count n k).tags = x.tags := rfl
@[simp] theorem Pillar.count_fibres (x : Pillar) (n k : Nat) : (x.count n k).fibres = x.fibres := rfl
@[simp] theorem Pillar.count_runQueue (x : Pillar) (n k : Nat) : (x.count n k).runQueue = x.runQueue := rfl
@[simp] theorem Pillar.count_steal (x : Pillar) (n k : Nat) : (x.count n k).steal = x.steal := rfl
@[simp] theorem Pillar.count_vec (x : Pillar) (n k : Nat) : (x.count n k).vec = x.vec := rfl
@[simp] theorem Pillar.count_pipes (x : Pillar) (n k : Nat) : (x.count n k).pipes = x.pipes := rfl
@[simp] theorem Pillar.count_mtx (x : Pillar) (n k : Nat) : (x.count n k).mtx = x.mtx := rfl
@[simp] theorem Pillar.count_tile (x : Pillar) (n k : Nat) : (x.count n k).tile = x.tile := rfl
@[simp] theorem Pillar.count_msg (x : Pillar) (n k : Nat) : (x.count n k).msg = x.msg := rfl
@[simp] theorem Pillar.count_vault (x : Pillar) (n k : Nat) : (x.count n k).vault = x.vault := rfl
@[simp] theorem Pillar.count_dataTlb (x : Pillar) (n k : Nat) : (x.count n k).dataTlb = x.dataTlb := rfl
@[simp] theorem Pillar.count_tileTlb (x : Pillar) (n k : Nat) : (x.count n k).tileTlb = x.tileTlb := rfl
@[simp] theorem Pillar.count_divider (x : Pillar) (n k : Nat) : (x.count n k).divider = x.divider := rfl
@[simp] theorem Pillar.count_signal (x : Pillar) (n k : Nat) : (x.count n k).signal = x.signal := rfl
@[simp] theorem Pillar.count_pickNo (x : Pillar) (n k : Nat) : (x.count n k).pickNo = x.pickNo := rfl
@[simp] theorem Pillar.count_pinBase (x : Pillar) (n k : Nat) : (x.count n k).pinBase = x.pinBase := rfl
@[simp] theorem Pillar.count_commands (x : Pillar) (n k : Nat) : (x.count n k).commands = x.commands := rfl
@[simp] theorem Pillar.count_fwdEnt (x : Pillar) (n k : Nat) : (x.count n k).fwdEnt = x.fwdEnt := rfl
@[simp] theorem Pillar.count_fwd (x : Pillar) (n k : Nat) : (x.count n k).fwd = x.fwd := rfl
@[simp] theorem Pillar.count_fwdSince (x : Pillar) (n k : Nat) : (x.count n k).fwdSince = x.fwdSince := rfl
@[simp] theorem Pillar.count_fwdTaken (x : Pillar) (n k : Nat) : (x.count n k).fwdTaken = x.fwdTaken := rfl
@[simp] theorem Pillar.count_saveOff (x : Pillar) (n k : Nat) : (x.count n k).saveOff = x.saveOff := rfl
@[simp] theorem Pillar.count_stripLast (x : Pillar) (n k : Nat) : (x.count n k).stripLast = x.stripLast := rfl
@[simp] theorem Pillar.count_strip (x : Pillar) (n k : Nat) : (x.count n k).strip = x.strip := rfl
@[simp] theorem Pillar.count_stripFrom (x : Pillar) (n k : Nat) : (x.count n k).stripFrom = x.stripFrom := rfl
@[simp] theorem Pillar.count_stripDue (x : Pillar) (n k : Nat) : (x.count n k).stripDue = x.stripDue := rfl
@[simp] theorem Pillar.count_failedMark (x : Pillar) (n k : Nat) : (x.count n k).failedMark = x.failedMark := rfl
@[simp] theorem Pillar.count_stripEgress (x : Pillar) (n k : Nat) : (x.count n k).stripEgress = x.stripEgress := rfl
@[simp] theorem Pillar.count_stripFails (x : Pillar) (n k : Nat) : (x.count n k).stripFails = x.stripFails := rfl
@[simp] theorem Pillar.count_preempt (x : Pillar) (n k : Nat) : (x.count n k).preempt = x.preempt := rfl
@[simp] theorem Pillar.count_preemptAged (x : Pillar) (n k : Nat) : (x.count n k).preemptAged = x.preemptAged := rfl
@[simp] theorem Pillar.count_egress (x : Pillar) (n k : Nat) : (x.count n k).egress = x.egress := rfl
@[simp] theorem Pillar.count_reqOff (x : Pillar) (n k : Nat) : (x.count n k).reqOff = x.reqOff := rfl
@[simp] theorem Pillar.count_rspOff (x : Pillar) (n k : Nat) : (x.count n k).rspOff = x.rspOff := rfl
@[simp] theorem Pillar.count_crcRuns (x : Pillar) (n k : Nat) : (x.count n k).crcRuns = x.crcRuns := rfl
@[simp] theorem Pillar.count_crcAt (x : Pillar) (n k : Nat) : (x.count n k).crcAt = x.crcAt := rfl

/-! ## Strand.setReg changes nothing but the general registers -/

@[simp] theorem Strand.setReg_v (r : Strand) (n : Nat) (v : PWord) : (r.setReg n v).v = r.v := by
  unfold Strand.setReg; split <;> rfl
@[simp] theorem Strand.setReg_kRegs (r : Strand) (n : Nat) (v : PWord) : (r.setReg n v).kRegs = r.kRegs := by
  unfold Strand.setReg; split <;> rfl
@[simp] theorem Strand.setReg_sh (r : Strand) (n : Nat) (v : PWord) : (r.setReg n v).sh = r.sh := by
  unfold Strand.setReg; split <;> rfl
@[simp] theorem Strand.setReg_shBad (r : Strand) (n : Nat) (v : PWord) : (r.setReg n v).shBad = r.shBad := by
  unfold Strand.setReg; split <;> rfl
@[simp] theorem Strand.setReg_pc (r : Strand) (n : Nat) (v : PWord) : (r.setReg n v).pc = r.pc := by
  unfold Strand.setReg; split <;> rfl
@[simp] theorem Strand.setReg_status (r : Strand) (n : Nat) (v : PWord) : (r.setReg n v).status = r.status := by
  unfold Strand.setReg; split <;> rfl
@[simp] theorem Strand.setReg_fmt (r : Strand) (n : Nat) (v : PWord) : (r.setReg n v).fmt = r.fmt := by
  unfold Strand.setReg; split <;> rfl
@[simp] theorem Strand.setReg_rowprog (r : Strand) (n : Nat) (v : PWord) : (r.setReg n v).rowprog = r.rowprog := by
  unfold Strand.setReg; split <;> rfl
@[simp] theorem Strand.setReg_stoppedOp (r : Strand) (n : Nat) (v : PWord) : (r.setReg n v).stoppedOp = r.stoppedOp := by
  unfold Strand.setReg; split <;> rfl
@[simp] theorem Strand.setReg_supervisor (r : Strand) (n : Nat) (v : PWord) : (r.setReg n v).supervisor = r.supervisor := by
  unfold Strand.setReg; split <;> rfl
@[simp] theorem Strand.setReg_machine (r : Strand) (n : Nat) (v : PWord) : (r.setReg n v).machine = r.machine := by
  unfold Strand.setReg; split <;> rfl
@[simp] theorem Strand.setReg_fbcur (r : Strand) (n : Nat) (v : PWord) : (r.setReg n v).fbcur = r.fbcur := by
  unfold Strand.setReg; split <;> rfl
@[simp] theorem Strand.setReg_fuval (r : Strand) (n : Nat) (v : PWord) : (r.setReg n v).fuval = r.fuval := by
  unfold Strand.setReg; split <;> rfl
@[simp] theorem Strand.setReg_batches (r : Strand) (n : Nat) (v : PWord) : (r.setReg n v).batches = r.batches := by
  unfold Strand.setReg; split <;> rfl
@[simp] theorem Strand.setReg_preq (r : Strand) (n : Nat) (v : PWord) : (r.setReg n v).preq = r.preq := by
  unfold Strand.setReg; split <;> rfl
@[simp] theorem Strand.setReg_preqId (r : Strand) (n : Nat) (v : PWord) : (r.setReg n v).preqId = r.preqId := by
  unfold Strand.setReg; split <;> rfl
@[simp] theorem Strand.setReg_run (r : Strand) (n : Nat) (v : PWord) : (r.setReg n v).run = r.run := by
  unfold Strand.setReg; split <;> rfl
@[simp] theorem Strand.setReg_blocked (r : Strand) (n : Nat) (v : PWord) : (r.setReg n v).blocked = r.blocked := by
  unfold Strand.setReg; split <;> rfl
@[simp] theorem Strand.setReg_waitCount (r : Strand) (n : Nat) (v : PWord) : (r.setReg n v).waitCount = r.waitCount := by
  unfold Strand.setReg; split <;> rfl
@[simp] theorem Strand.setReg_promoted (r : Strand) (n : Nat) (v : PWord) : (r.setReg n v).promoted = r.promoted := by
  unfold Strand.setReg; split <;> rfl
@[simp] theorem Strand.setReg_modes (r : Strand) (n : Nat) (v : PWord) : (r.setReg n v).modes = r.modes := by
  unfold Strand.setReg; split <;> rfl
@[simp] theorem Strand.setReg_stopReq (r : Strand) (n : Nat) (v : PWord) : (r.setReg n v).stopReq = r.stopReq := by
  unfold Strand.setReg; split <;> rfl
@[simp] theorem Strand.setReg_retStop (r : Strand) (n : Nat) (v : PWord) : (r.setReg n v).retStop = r.retStop := by
  unfold Strand.setReg; split <;> rfl
@[simp] theorem Strand.setReg_handedOff (r : Strand) (n : Nat) (v : PWord) : (r.setReg n v).handedOff = r.handedOff := by
  unfold Strand.setReg; split <;> rfl
@[simp] theorem Strand.setReg_exitCode (r : Strand) (n : Nat) (v : PWord) : (r.setReg n v).exitCode = r.exitCode := by
  unfold Strand.setReg; split <;> rfl
@[simp] theorem Strand.setReg_stores (r : Strand) (n : Nat) (v : PWord) : (r.setReg n v).stores = r.stores := by
  unfold Strand.setReg; split <;> rfl
@[simp] theorem Strand.setReg_lates (r : Strand) (n : Nat) (v : PWord) : (r.setReg n v).lates = r.lates := by
  unfold Strand.setReg; split <;> rfl
@[simp] theorem Strand.setReg_pending (r : Strand) (n : Nat) (v : PWord) : (r.setReg n v).pending = r.pending := by
  unfold Strand.setReg; split <;> rfl
@[simp] theorem Strand.setReg_loomCount (r : Strand) (n : Nat) (v : PWord) : (r.setReg n v).loomCount = r.loomCount := by
  unfold Strand.setReg; split <;> rfl
@[simp] theorem Strand.setReg_worms (r : Strand) (n : Nat) (v : PWord) : (r.setReg n v).worms = r.worms := by
  unfold Strand.setReg; split <;> rfl
@[simp] theorem Strand.setReg_sent (r : Strand) (n : Nat) (v : PWord) : (r.setReg n v).sent = r.sent := by
  unfold Strand.setReg; split <;> rfl
@[simp] theorem Strand.setReg_sampled (r : Strand) (n : Nat) (v : PWord) : (r.setReg n v).sampled = r.sampled := by
  unfold Strand.setReg; split <;> rfl
@[simp] theorem Strand.setReg_fence (r : Strand) (n : Nat) (v : PWord) : (r.setReg n v).fence = r.fence := by
  unfold Strand.setReg; split <;> rfl
@[simp] theorem Strand.setReg_notBefore (r : Strand) (n : Nat) (v : PWord) : (r.setReg n v).notBefore = r.notBefore := by
  unfold Strand.setReg; split <;> rfl

/-! ## Strands of a pillar -/

@[simp] theorem Pillar.strand_setStrand (x : Pillar) (t : StrandId) (r : Strand) : (x.setStrand t r).strand t = r := by
  simp [Pillar.setStrand, Pillar.strand]

theorem Pillar.strand_setStrand_other (x : Pillar) {t u : StrandId} (r : Strand) (h : u ≠ t) :
    (x.setStrand t r).strand u = x.strand u := by
  have h' : t.val ≠ u.val := fun e => h (Fin.ext e.symm)
  simp [Pillar.setStrand, Pillar.strand, h']

@[simp] theorem Pillar.setStrand_setStrand (x : Pillar) (t : StrandId) (r r' : Strand) :
    (x.setStrand t r).setStrand t r' = x.setStrand t r' := by
  simp only [Pillar.setStrand, Pillar.mk.injEq, true_and, and_true]
  apply Vector.ext
  intro i hi
  simp only [Vector.getElem_set]
  split <;> rfl

@[simp] theorem Pillar.strand_modStrand (x : Pillar) (t : StrandId) (f : Strand → Strand) :
    (x.modStrand t f).strand t = f (x.strand t) := Pillar.strand_setStrand x t _

theorem Pillar.strand_modStrand_other (x : Pillar) {t u : StrandId} (f : Strand → Strand) (h : u ≠ t) :
    (x.modStrand t f).strand u = x.strand u := Pillar.strand_setStrand_other x _ h

@[simp] theorem Pillar.modStrand_modStrand (x : Pillar) (t : StrandId) (f f' : Strand → Strand) :
    (x.modStrand t f).modStrand t f' = x.modStrand t fun r => f' (f r) := by
  simp [Pillar.modStrand]

/-! ## Pillars of the package -/

@[simp] theorem State.pil_setPil (s : State) (p : PillarId) (x : Pillar) : (s.setPil p x).pil p = x :=
  NatMap.getD_set_same _ _ _ _

theorem State.pil_setPil_other (s : State) {p q : PillarId} (x : Pillar) (h : q ≠ p) : (s.setPil p x).pil q = s.pil q :=
  NatMap.getD_set_other _ _ _ fun e => h (BitVec.eq_of_toNat_eq e)

@[simp] theorem State.setPil_setPil (s : State) (p : PillarId) (x y : Pillar) :
    (s.setPil p x).setPil p y = s.setPil p y := by
  simp [State.setPil]

@[simp] theorem State.pil_modPil (s : State) (p : PillarId) (f : Pillar → Pillar) : (s.modPil p f).pil p = f (s.pil p) :=
  State.pil_setPil s p _

theorem State.pil_modPil_other (s : State) {p q : PillarId} (f : Pillar → Pillar) (h : q ≠ p) :
    (s.modPil p f).pil q = s.pil q := State.pil_setPil_other s _ h

@[simp] theorem State.modPil_modPil (s : State) (p : PillarId) (f f' : Pillar → Pillar) :
    (s.modPil p f).modPil p f' = s.modPil p fun x => f' (f x) := by
  simp [State.modPil]

@[simp] theorem State.me_modMe (s : State) (f : Pillar → Pillar) : (s.modMe f).me = f s.me := State.pil_modPil s s.curP f

theorem State.pil_modMe_other (s : State) {q : PillarId} (f : Pillar → Pillar) (h : q ≠ s.curP) :
    (s.modMe f).pil q = s.pil q := State.pil_modPil_other s f h

@[simp] theorem State.modMe_modMe (s : State) (f f' : Pillar → Pillar) : (s.modMe f).modMe f' = s.modMe fun x => f' (f x) :=
  State.modPil_modPil s s.curP f f'

theorem State.st_eq (s : State) : s.st = s.me.strand s.curT := rfl

theorem State.modSt_eq (s : State) (f : Strand → Strand) : s.modSt f = s.modMe fun x => x.modStrand s.curT f := rfl

@[simp] theorem State.me_modSt (s : State) (f : Strand → Strand) : (s.modSt f).me = s.me.modStrand s.curT f :=
  State.pil_modPil s s.curP _

@[simp] theorem State.st_modSt (s : State) (f : Strand → Strand) : (s.modSt f).st = f s.st := by
  rw [State.st_eq, State.me_modSt, State.modSt_curT, Pillar.strand_modStrand, ← State.st_eq]

@[simp] theorem State.modSt_modSt (s : State) (f f' : Strand → Strand) : (s.modSt f).modSt f' = s.modSt fun r => f' (f r) := by
  simp [State.modSt_eq]

theorem State.st_modMe (s : State) (f : Pillar → Pillar) (h : ∀ x, (f x).strands = x.strands) : (s.modMe f).st = s.st := by
  simp only [State.st_eq, State.me_modMe, State.modMe_curT, Pillar.strand, h]

/-! ## General registers -/

@[simp] theorem Strand.reg_zero (r : Strand) : r.reg 0 = {} := rfl

/-- A write of g0 is discarded (R99). -/
@[simp] theorem Strand.setReg_zero (r : Strand) (v : PWord) : r.setReg 0 v = r := rfl

/-- A read of a register after a write of another, or of the same (R99). -/
theorem Strand.reg_setReg (r : Strand) (n d : Nat) (v : PWord) (hd : d < 64) :
    (r.setReg d v).reg n = if n = d ∧ d ≠ 0 then v else r.reg n := by
  unfold Strand.setReg Strand.reg
  by_cases h0 : d = 0
  · simp [h0]
  · by_cases hn : n = d
    · subst hn; simp [h0, hd]
    · simp [h0, hn, Ne.symm hn]

theorem Strand.reg_setReg_other (r : Strand) {n d : Nat} (v : PWord) (h : n ≠ d) : (r.setReg d v).reg n = r.reg n := by
  unfold Strand.setReg Strand.reg
  by_cases h0 : d = 0
  · simp [h0]
  · simp [h0, Ne.symm h]

/-- The registers of two strands that differ in other fields. -/
theorem Strand.reg_congr {r r' : Strand} (h : r'.g = r.g) (n : Nat) : r'.reg n = r.reg n := by
  unfold Strand.reg; rw [h]

@[simp] theorem State.setG_zero (s : State) (v : PWord) : s.setG 0 v = s.modSt id := rfl

/-! ## Reset -/

theorem State.reset_mem_wf : State.reset.mem.wf = true := rfl

theorem State.reset_pil (p : PillarId) : State.reset.pil p = Pillar.reset := rfl

theorem Pillar.reset_ls_wf : Pillar.reset.ls.bytes.wf = true := rfl

end Sys2Proof.Machine
end

