-- ==== Sys2Proof/Laws/Operands.lean ====
section
/-! SUPPORT. What the shared operations of every meaning do: bit fields, how an instruction ends, the checks that
come before an effect, and effective addresses. -/

namespace Sys2Proof.Machine

/-! ## Bit fields and words -/

/-- Bits h..l as a quotient and a remainder. -/
theorem bitsOf_eq (x h l : Nat) : bitsOf x h l = x / 2 ^ l % 2 ^ (h + 1 - l) := by
  simp [bitsOf, Nat.shiftRight_eq_div_pow]

theorem wordBits_eq (x : Word) (h l : Nat) : Word.bits x h l = x.toNat / 2 ^ l % 2 ^ (h + 1 - l) := bitsOf_eq x.toNat h l

/-- One bit as the remainder of a quotient. -/
theorem bitOf_eq (x i : Nat) : bitOf x i = decide (x / 2 ^ i % 2 = 1) := by
  rw [Bool.eq_iff_iff]
  simp [bitOf, Nat.shiftRight_eq_div_pow]

/-- One bit of a number is its test bit. -/
theorem bitOf_testBit (x i : Nat) : bitOf x i = x.testBit i := by
  rw [Bool.eq_iff_iff]
  simp only [bitOf, Nat.testBit, Nat.one_and_eq_mod_two, beq_iff_eq, bne_iff_ne]
  omega

/-- An integer stored in a word is its value modulo 2^64 (R9). -/
theorem wordOfInt_eq (x : Int) : wordOfInt x = BitVec.ofInt 64 x := by
  apply BitVec.eq_of_toNat_eq
  unfold wordOfInt lowBits
  rw [BitVec.toNat_ofNat, BitVec.toNat_ofInt]
  omega

theorem word_eq (n : Nat) : word n = BitVec.ofNat 64 n := rfl

/-! ## How an instruction ends -/

@[simp] theorem finishAt_ok (i : Instr) (s t : State) : finishAt i s (.ok t) = .next t := rfl

@[simp] theorem finishAt_error (i : Instr) (s : State) (e : Stop) : finishAt i s (.error e) = .next (s.stopped i e) := rfl

@[simp] theorem finish_ok (i : Instr) (s t : State) : finish i s (.ok t) = .next (s.past i t) := rfl

@[simp] theorem finish_error (i : Instr) (s : State) (e : Stop) : finish i s (.error e) = .next (s.stopped i e) := rfl

/-- Everything that an instruction which sets the PC itself can end with. -/
theorem finishAt_cases {i : Instr} {s : State} {r : Act State} {t : State} (h : finishAt i s r = .next t) :
    r = .ok t ∨ ∃ e, r = .error e ∧ t = s.stopped i e := by
  cases r with
  | ok u => left; injection h with h; rw [h]
  | error e => right; injection h with h; exact ⟨e, rfl, h.symm⟩

/-- Everything that an instruction can end with: its effect and the PC after it, or a stop of the state before (R10). -/
theorem finish_cases {i : Instr} {s : State} {r : Act State} {t : State} (h : finish i s r = .next t) :
    (∃ u, r = .ok u ∧ t = s.past i u) ∨ ∃ e, r = .error e ∧ t = s.stopped i e := by
  cases r with
  | ok u => left; injection h with h; exact ⟨u, rfl, h.symm⟩
  | error e => right; injection h with h; exact ⟨e, rfl, h.symm⟩

/-- No instruction that ends this way refuses or faults. -/
theorem finishAt_next (i : Instr) (s : State) (r : Act State) : ∃ t, finishAt i s r = .next t := by
  cases r <;> exact ⟨_, rfl⟩

theorem finish_next (i : Instr) (s : State) (r : Act State) : ∃ t, finish i s r = .next t := finishAt_next i s _

/-- A part that succeeds, before the rest. -/
theorem act_bind_ok {α β : Type} {x : Act α} {f : α → Act β} {b : β} (h : (x >>= f) = .ok b) :
    ∃ a, x = .ok a ∧ f a = .ok b := by
  cases x with
  | ok a => exact ⟨a, rfl, h⟩
  | error e => cases h

@[simp] theorem act_ok_bind {α β : Type} (a : α) (f : α → Act β) : ((Except.ok a : Act α) >>= f) = f a := rfl

@[simp] theorem act_error_bind {α β : Type} (e : Stop) (f : α → Act β) : ((Except.error e : Act α) >>= f) = .error e := rfl

/-- A precise trap is what the state stops with (R366); one of a malformed translation also counts its misses (R360). -/
theorem stopped_trap (s : State) (i : Instr) (c : BitVec 8) (v : Word) (h : c ≠ 0x05) :
    s.stopped i (.trap c v) = s.takeTrap { cause := c, tval := v } := by
  have e : (c == 0x05) = false := beq_eq_false_iff_ne.mpr h
  simp only [State.stopped, State.noteFault, e, Bool.false_eq_true, if_false]

theorem stopped_wait (s : State) (i : Instr) : s.stopped i .wait = s.modSt fun r => { r with blocked := .wait i } := rfl

/-! ## Checks -/

@[simp] theorem check_true (c : BitVec 8) (v : Word) : check true c v = .ok () := rfl

@[simp] theorem check_false (c : BitVec 8) (v : Word) : check false c v = .error (.trap c v) := rfl

theorem check_ok {ok : Bool} {c : BitVec 8} {v : Word} {u : Unit} (h : check ok c v = .ok u) : ok = true := by
  cases ok with
  | true => rfl
  | false => cases h

@[simp] theorem waitFor_true : waitFor true = .ok () := rfl

@[simp] theorem waitFor_false : waitFor false = .error .wait := rfl

theorem waitFor_ok {ok : Bool} {u : Unit} (h : waitFor ok = .ok u) : ok = true := by
  cases ok with
  | true => rfl
  | false => cases h

/-- A destination that fibre code may name, or any outside fibre code, passes (R102). -/
theorem State.destOk_free {s : State} {d : Nat} (h : s.destFree d) : s.destOk d = .ok () := by
  have e : (!(s.st.inFibre && decide (9 ≤ d))) = true := by
    cases hf : s.st.inFibre with
    | false => rfl
    | true => have := h hf; simp; omega
  simp only [State.destOk, e, check_true]

/-- Fibre code may not write g9 to g63 (R102, R152). -/
theorem State.destOk_refused {s : State} {d : Nat} (h : s.st.inFibre = true) (hd : 9 ≤ d) :
    s.destOk d = .error (.trap 0x1B (word d)) := by
  simp [State.destOk, h, hd]

/-- The destination check depends on the strand alone. -/
theorem State.destOk_cases (s : State) (d : Nat) :
    (s.destFree d ∧ s.destOk d = .ok ()) ∨ (s.st.inFibre = true ∧ 9 ≤ d ∧ s.destOk d = .error (.trap 0x1B (word d))) := by
  by_cases h : s.destFree d
  · exact .inl ⟨h, State.destOk_free h⟩
  · unfold State.destFree at h
    have h1 : s.st.inFibre = true := by by_contra hn; exact h fun hf => absurd hf hn
    have h2 : 9 ≤ d := by by_contra hn; exact h fun _ => by omega
    exact .inr ⟨h1, h2, State.destOk_refused h1 h2⟩

theorem notPoison_good {role n : Nat} {v : PWord} (h : v.bad = false) : notPoison role n v = .ok v.bits := by
  simp [notPoison, h]

/-- A poisoned register operand takes the poison trap (R110, R372). -/
theorem notPoison_bad {role n : Nat} {v : PWord} (h : v.bad = true) :
    notPoison role n v = .error (.trap 0x0D (word (role * 64 + n))) := by
  simp [notPoison, h, poisonReg]

/-! ## Effective addresses -/

theorem shiftLeft_word (a : Word) (n : Nat) : a <<< n = BitVec.ofNat 64 (a.toNat * 2 ^ n) := by
  apply BitVec.eq_of_toNat_eq
  rw [BitVec.toNat_shiftLeft, BitVec.toNat_ofNat, Nat.shiftLeft_eq]

/-- The address of an M form without poison (R18, R121). -/
theorem State.mAddr_clean {s : State} {f : Fields} (h : s.addrClean f) : s.mAddr f = .ok (s.effAddr f) := by
  have sum (a b : Word) (k : Nat) (z : Int) :
      a + b <<< k + BitVec.ofInt 64 z = BitVec.ofInt 64 ((a.toNat : Int) + (b.toNat : Int) * 2 ^ k + z) := by
    rw [shiftLeft_word, BitVec.ofInt_add, BitVec.ofInt_add]
    congr 2
    · simp
  have sum0 (a : Word) (z : Int) : a + 0 + BitVec.ofInt 64 z = BitVec.ofInt 64 ((a.toNat : Int) + z) := by
    have := sum a 0 0 z
    simpa using this
  obtain ⟨h1, h2⟩ := h
  by_cases hq : f.qNum = 0
  · simp only [State.mAddr, State.mIndex, hq, notPoison_good h1, act_ok_bind, if_true, dispWord, wordOfInt_eq, sum0,
      State.effAddr]
    simp
  · simp only [State.mAddr, State.mIndex, hq, notPoison_good h1, notPoison_good (h2 hq), act_ok_bind, if_false,
      dispWord, wordOfInt_eq, sum, State.effAddr]
    push_cast
    rfl

/-- A poisoned base takes the poison trap (R110, R372). -/
theorem State.mAddr_badBase {s : State} {f : Fields} (h : (s.g f.sNum).bad = true) :
    s.mAddr f = .error (.trap 0x0D (word (128 + f.sNum))) := by
  simp [State.mAddr, notPoison_bad h]

/-- A poisoned index takes the poison trap (R110, R372). -/
theorem State.mAddr_badIndex {s : State} {f : Fields} (h : (s.g f.sNum).bad = false) (hq : f.qNum ≠ 0)
    (ht : (s.g f.tNum).bad = true) : s.mAddr f = .error (.trap 0x0D (word (192 + f.tNum))) := by
  simp [State.mAddr, State.mIndex, notPoison_good h, notPoison_bad ht, hq]

/-- An address that is computed comes from operands without poison, and is the effective address. -/
theorem State.mAddr_ok {s : State} {f : Fields} {ea : Word} (h : s.mAddr f = .ok ea) :
    s.addrClean f ∧ ea = s.effAddr f := by
  have hc : s.addrClean f := by
    refine ⟨?_, fun hq => ?_⟩
    · cases hb : (s.g f.sNum).bad with
      | false => rfl
      | true => rw [State.mAddr_badBase hb] at h; cases h
    · cases hb : (s.g f.sNum).bad with
      | true => rw [State.mAddr_badBase hb] at h; cases h
      | false =>
        cases ht : (s.g f.tNum).bad with
        | false => rfl
        | true => rw [State.mAddr_badIndex hb hq ht] at h; cases h
  rw [State.mAddr_clean hc] at h
  exact ⟨hc, by injection h with h; exact h.symm⟩

/-! ## Local store -/

/-- The checks of an aligned range outside the code pass (R126, R135). -/
theorem State.lsCheck_range {s : State} {ea : Word} {n : Nat} (h : s.lsRange ea.toNat n) : s.lsCheck ea n = .ok () := by
  obtain ⟨a, b, c⟩ := h
  have h1 : ¬ ea.toNat + n > lsEnd := by omega
  have h2 : ¬ ea.toNat < s.me.xb := by omega
  simp [State.lsCheck, Pillar.lsFault, a, h1, h2]

/-- The checks pass only on such a range. -/
theorem State.lsCheck_ok {s : State} {ea : Word} {n : Nat} {u : Unit} (h : s.lsCheck ea n = .ok u) :
    s.lsRange ea.toNat n := by
  unfold State.lsCheck at h
  obtain ⟨_, h1, h2⟩ := act_bind_ok h
  have h1 := check_ok h1
  unfold Pillar.lsFault at h2
  refine ⟨by simpa using h1, ?_⟩
  by_cases c1 : ea.toNat + n > lsEnd
  · rw [if_pos c1] at h2; cases h2
  · rw [if_neg c1] at h2
    by_cases c2 : ea.toNat < s.me.xb
    · rw [if_pos c2] at h2; cases h2
    · omega

theorem State.lsCheck_unaligned {s : State} {ea : Word} {n : Nat} (h : ea.toNat % n ≠ 0) :
    s.lsCheck ea n = .error (.trap 0x1A ea) := by
  simp only [State.lsCheck, beq_eq_false_iff_ne.mpr h, check_false, act_error_bind]

theorem State.lsCheck_past {s : State} {ea : Word} {n : Nat} (h : ea.toNat % n = 0) (he : lsEnd < ea.toNat + n) :
    s.lsCheck ea n = .error (.trap 0x13 ea) := by
  simp [State.lsCheck, Pillar.lsFault, h, he]

theorem State.lsCheck_code {s : State} {ea : Word} {n : Nat} (h : ea.toNat % n = 0) (he : ea.toNat + n ≤ lsEnd)
    (hx : ea.toNat < s.me.xb) : s.lsCheck ea n = .error (.trap 0x14 ea) := by
  have h1 : ¬ ea.toNat + n > lsEnd := by omega
  simp [State.lsCheck, Pillar.lsFault, h, h1, hx]

end Sys2Proof.Machine
end

