-- ==== Sys2Proof/Laws/Frames.lean ====
section
/-! SUPPORT. What an update leaves unchanged: frames of the updates of one strand and of the current pillar. -/

namespace Sys2Proof.Machine

/-! ## Elsewhere -/

/-- An update of the current pillar changes nothing else. -/
theorem sameElsewhere_modMe (s : State) (f : Pillar → Pillar) : SameElsewhere s (s.modMe f) :=
  ⟨rfl, fun _ hp => State.pil_modMe_other s f hp⟩

theorem sameElsewhere_modSt (s : State) (f : Strand → Strand) : SameElsewhere s (s.modSt f) := sameElsewhere_modMe s _

theorem sameElsewhere_trans {s t u : State} (h : SameElsewhere s t) (h' : SameElsewhere t u) : SameElsewhere s u := by
  obtain ⟨a, b⟩ := h
  obtain ⟨c, d⟩ := h'
  have e : t.curP = s.curP := by rw [← a]
  refine ⟨?_, fun p hp => ?_⟩
  · rw [← a, ← c]
  · rw [d p (by rw [e]; exact hp), b p hp]

theorem sameElsewhere_curP {s t : State} (h : SameElsewhere s t) : t.curP = s.curP := by
  rw [← h.1]

theorem sameElsewhere_curT {s t : State} (h : SameElsewhere s t) : t.curT = s.curT := by
  rw [← h.1]

theorem sameElsewhere_mem {s t : State} (h : SameElsewhere s t) : t.mem = s.mem := by
  rw [← h.1]

/-! ## One strand -/

/-- An update of a strand that leaves all of it but a register, the PC and the next issue. -/
theorem sameButReg_refl (r : Strand) (d : Nat) : SameButReg r r d := ⟨fun _ _ => rfl, rfl⟩

theorem sameButReg_setReg (r : Strand) (d : Nat) (v : PWord) : SameButReg r (r.setReg d v) d := by
  refine ⟨fun n hn => Strand.reg_setReg_other r v hn, ?_⟩
  unfold Strand.setReg
  split <;> rfl

/-- The PC and the next issue may change as well. -/
theorem sameButReg_move {r r' : Strand} {d : Nat} (h : SameButReg r r' d) (pc : LsAddr) (nb : Nat) :
    SameButReg r { r' with pc := pc, notBefore := nb } d :=
  ⟨fun n hn => (Strand.reg_congr rfl n).trans (h.1 n hn), h.2⟩

theorem sameButReg_trans {r r' r'' : Strand} {d : Nat} (h : SameButReg r r' d) (h' : SameButReg r' r'' d) :
    SameButReg r r'' d := by
  refine ⟨fun n hn => (h'.1 n hn).trans (h.1 n hn), ?_⟩
  have a := h.2
  have b := h'.2
  rw [← b] at a
  exact a

theorem sameButStrand_modStrand (x : Pillar) (t : StrandId) (f : Strand → Strand) : SameButStrand x (x.modStrand t f) t :=
  ⟨rfl, fun _ hw => Pillar.strand_modStrand_other x f hw⟩

/-- The frame of an update of the current strand. -/
theorem frame_modSt {s : State} {f : Strand → Strand} {d : Nat} (h : SameButReg s.st (f s.st) d) :
    SameElsewhere s (s.modSt f) ∧ SameBytes s (s.modSt f) ∧ SameButReg s.st (s.modSt f).st d ∧
      SameButStrand s.me (s.modSt f).me s.curT := by
  refine ⟨sameElsewhere_modSt s f, ⟨fun p a => ?_, fun a => rfl⟩, ?_, ?_⟩
  · by_cases hp : p = s.curP
    · subst hp
      rw [show (s.modSt f).pil s.curP = _ from State.me_modSt s f]
      rfl
    · rw [(sameElsewhere_modSt s f).2 p hp]
  · rw [State.st_modSt]
    exact h
  · rw [State.me_modSt]
    exact sameButStrand_modStrand s.me s.curT f

/-- The frame of a register's new value and the next PC. -/
theorem frame_setG (s : State) (i : Instr) (d : Nat) (v : PWord) :
    SameElsewhere s (s.past i (s.setG d v)) ∧ SameBytes s (s.past i (s.setG d v)) ∧
      SameButReg s.st (s.past i (s.setG d v)).st d ∧ SameButStrand s.me (s.past i (s.setG d v)).me s.curT := by
  have e : s.past i (s.setG d v) = s.modSt fun r => { r.setReg d v with pc := s.nextPc i } := by
    simp only [State.past, State.setPc, State.setG, State.modSt_modSt]
  rw [e]
  exact frame_modSt (sameButReg_move (sameButReg_setReg s.st d v) (s.nextPc i) _)

/-- The frame of the next PC alone. -/
theorem frame_past (s : State) (i : Instr) (d : Nat) :
    SameElsewhere s (s.past i s) ∧ SameBytes s (s.past i s) ∧ SameButReg s.st (s.past i s).st d ∧
      SameButStrand s.me (s.past i s).me s.curT :=
  frame_modSt (sameButReg_move (sameButReg_refl s.st d) (s.nextPc i) _)

end Sys2Proof.Machine
end

