-- ==== Sys2Proof/Tests/Slice0.lean ====
section
/-! SUPPORT. Tests: a decoding for every instruction, the refusals of well-formedness, single steps with results worked out
from the rules, and for every statement with hypotheses a state and operands that meet them (names beginning `witness_`). -/

namespace Sys2Proof.Tests

open Sys2Proof.Machine

/-! ## Decoding: for every instruction a word of the opcode table, its fields filled in by hand -/

/-- The REG fields of a word 0xE820: T = 4 (R19). -/
def t4 : Option RegFields := some { dh := false, sh := false, t := 4, q := 0 }

theorem test_decode_arithmetic_loads_branches_a :
    ∀ e ∈ ([([0x0044], .add { d := 2, s := 4 }),
      ([0x0444], .sub { d := 2, s := 4 }),
      ([0x0844], .and { d := 2, s := 4 }),
      ([0x0C44], .or { d := 2, s := 4 }),
      ([0x1044], .xor { d := 2, s := 4 }),
      ([0x1444], .andn { d := 2, s := 4 }),
      ([0x1844], .shl { d := 2, s := 4 }),
      ([0x1C44], .shr { d := 2, s := 4 }),
      ([0x2044], .sar { d := 2, s := 4 }),
      ([0x2444], .slt { d := 2, s := 4 }),
      ([0x2844], .sltn { d := 2, s := 4 }),
      ([0x2C44], .min { d := 2, s := 4 }),
      ([0x3044], .max { d := 2, s := 4 }),
      ([0x3444], .mov { d := 2, s := 4 }),
      ([0x3844], .sel { d := 2, s := 4 }),
      ([0x3C44], .selz { d := 2, s := 4 })] : List (List Halfword × Instr)),
      decode e.1 = .ok e.2 e.1.length := by
  decide

theorem test_decode_arithmetic_loads_branches_b :
    ∀ e ∈ ([([0x4044], .addi { d := 2, s := 4 }),
      ([0x4444], .andi { d := 2, s := 4 }),
      ([0x4844], .ori { d := 2, s := 4 }),
      ([0x4C44], .xori { d := 2, s := 4 }),
      ([0x5044], .shli { d := 2, s := 4 }),
      ([0x5444], .shri { d := 2, s := 4 }),
      ([0x5844], .sari { d := 2, s := 4 }),
      ([0x5C44], .slti { d := 2, s := 4 }),
      ([0x6044], .li { d := 2, s := 4 }),
      ([0x6444], .lpc { d := 2, s := 4 }),
      ([0x8044], .ldI8 { d := 2, s := 4 }),
      ([0x8444], .ldI16 { d := 2, s := 4 }),
      ([0x8844], .ldI32 { d := 2, s := 4 }),
      ([0x8C44], .ldI64 { d := 2, s := 4 }),
      ([0x9044], .ldN8 { d := 2, s := 4 }),
      ([0x9444], .ldN16 { d := 2, s := 4 })] : List (List Halfword × Instr)),
      decode e.1 = .ok e.2 e.1.length := by
  decide

theorem test_decode_arithmetic_loads_branches_c :
    ∀ e ∈ ([([0x9844], .ldN32 { d := 2, s := 4 }),
      ([0x9C44], .stI8 { d := 2, s := 4 }),
      ([0xA044], .stI16 { d := 2, s := 4 }),
      ([0xA444], .stI32 { d := 2, s := 4 }),
      ([0xA844], .stI64 { d := 2, s := 4 }),
      ([0xB044], .jal { d := 2, s := 4 }),
      ([0xB444], .jr { d := 2, s := 4 }),
      ([0xB802], .svc { s := 2 }),
      ([0xBC02], .brk { s := 2 }),
      ([0xC044], .beq { d := 2, s := 4 }),
      ([0xC444], .bne { d := 2, s := 4 }),
      ([0xC844], .blt { d := 2, s := 4 }),
      ([0xCC44], .bge { d := 2, s := 4 }),
      ([0xD044], .bltn { d := 2, s := 4 }),
      ([0xD444], .bgen { d := 2, s := 4 })] : List (List Halfword × Instr)),
      decode e.1 = .ok e.2 e.1.length := by
  decide

theorem test_decode_multiplication_bit_fields_a :
    ∀ e ∈ ([([0xF080, 0x0044], .mul { d := 2, s := 4 }),
      ([0xF080, 0x0444], .mulh { d := 2, s := 4 }),
      ([0xF080, 0x0844], .mulhn { d := 2, s := 4 }),
      ([0xF080, 0x0C44], .madd { d := 2, s := 4 }),
      ([0xF080, 0x1044], .div { d := 2, s := 4 }),
      ([0xF080, 0x1444], .divn { d := 2, s := 4 }),
      ([0xF080, 0x1844], .rem { d := 2, s := 4 }),
      ([0xF080, 0x1C44], .remn { d := 2, s := 4 }),
      ([0xF080, 0x2044], .clz { d := 2, s := 4 }),
      ([0xF080, 0x2444], .ctz { d := 2, s := 4 }),
      ([0xF080, 0x2844], .popc { d := 2, s := 4 }),
      ([0xF080, 0x2C44], .bswap { d := 2, s := 4 }),
      ([0xF080, 0x3044], .brev { d := 2, s := 4 }),
      ([0xF080, 0x3444], .bfx { d := 2, s := 4 }),
      ([0xF080, 0x3844], .bfxn { d := 2, s := 4 }),
      ([0xF080, 0x3C44], .bfi { d := 2, s := 4 })] : List (List Halfword × Instr)),
      decode e.1 = .ok e.2 e.1.length := by
  decide

theorem test_decode_multiplication_bit_fields_b :
    ∀ e ∈ ([([0xF080, 0x4044], .fshl { d := 2, s := 4 }),
      ([0xF080, 0x4444], .fshr { d := 2, s := 4 })] : List (List Halfword × Instr)),
      decode e.1 = .ok e.2 e.1.length := by
  decide

theorem test_decode_local_store_order_a :
    ∀ e ∈ ([([0xF100, 0x0044], .lldI8 { d := 2, s := 4 }),
      ([0xF100, 0x0444], .lldI16 { d := 2, s := 4 }),
      ([0xF100, 0x0844], .lldI32 { d := 2, s := 4 }),
      ([0xF100, 0x0C44], .lldI64 { d := 2, s := 4 }),
      ([0xF100, 0x1044], .lldN8 { d := 2, s := 4 }),
      ([0xF100, 0x1444], .lldN16 { d := 2, s := 4 }),
      ([0xF100, 0x1844], .lldN32 { d := 2, s := 4 }),
      ([0xF100, 0x1C44], .lstI8 { d := 2, s := 4 }),
      ([0xF100, 0x2044], .lstI16 { d := 2, s := 4 }),
      ([0xF100, 0x2444], .lstI32 { d := 2, s := 4 }),
      ([0xF100, 0x2844], .lstI64 { d := 2, s := 4 }),
      ([0xF100, 0x2C44], .lldf { d := 2, s := 4 }),
      ([0xF100, 0x3044], .llde { d := 2, s := 4 }),
      ([0xF100, 0x3444], .lstf { d := 2, s := 4 }),
      ([0xF100, 0x3844], .feset { d := 2, s := 4 }),
      ([0xF100, 0x3C44], .feclr { d := 2, s := 4 })] : List (List Halfword × Instr)),
      decode e.1 = .ok e.2 e.1.length := by
  decide

theorem test_decode_local_store_order_b :
    ∀ e ∈ ([([0xF100, 0x4044], .lda { d := 2, s := 4 }),
      ([0xF100, 0x4444], .stl { d := 2, s := 4 }),
      ([0xF100, 0x4844], .scld { d := 2, s := 4 }),
      ([0xF100, 0x4C44], .scst { d := 2, s := 4 }),
      ([0xF100, 0x5044], .amo { d := 2, s := 4 }),
      ([0xF100, 0x5444], .cas { d := 2, s := 4 }),
      ([0xF100, 0x5844], .scamo { d := 2, s := 4 }),
      ([0xF100, 0x6044], .cfetch { d := 2, s := 4 }),
      ([0xF100, 0x6420], .cwait { d := 1 }),
      ([0xF100, 0x6844], .jmpf { d := 2, s := 4 }),
      ([0xF100, 0x6C44], .tlook { d := 2, s := 4 }),
      ([0xF100, 0x7044], .tfill { d := 2, s := 4 }),
      ([0xF100, 0x7444], .tevict { d := 2, s := 4 }),
      ([0xF100, 0x7802], .tinval { s := 2 }),
      ([0xF11F, 0x5C00], .fence { mod := 0x1F })] : List (List Halfword × Instr)),
      decode e.1 = .ok e.2 e.1.length := by
  decide

theorem test_decode_vector_a :
    ∀ e ∈ ([([0xF180, 0x0044], .vadd { d := 2, s := 4 }),
      ([0xF180, 0x0444], .vsub { d := 2, s := 4 }),
      ([0xF180, 0x0844], .vmul { d := 2, s := 4 }),
      ([0xF180, 0x0C44], .vdiv { d := 2, s := 4 }),
      ([0xF180, 0x1044], .vmin { d := 2, s := 4 }),
      ([0xF180, 0x1444], .vmax { d := 2, s := 4 }),
      ([0xF180, 0x1844], .vfma { d := 2, s := 4 }),
      ([0xF180, 0x1C44], .vfms { d := 2, s := 4 }),
      ([0xF180, 0x2044], .vabs { d := 2, s := 4 }),
      ([0xF180, 0x2444], .vneg { d := 2, s := 4 }),
      ([0xF180, 0x2844], .vsqrt { d := 2, s := 4 }),
      ([0xF180, 0x2C44], .vand { d := 2, s := 4 }),
      ([0xF180, 0x3044], .vor { d := 2, s := 4 }),
      ([0xF180, 0x3444], .vxor { d := 2, s := 4 }),
      ([0xF180, 0x3844], .vandn { d := 2, s := 4 }),
      ([0xF180, 0x3C44], .vshl { d := 2, s := 4 })] : List (List Halfword × Instr)),
      decode e.1 = .ok e.2 e.1.length := by
  decide

theorem test_decode_vector_b :
    ∀ e ∈ ([([0xF180, 0x4044], .vshr { d := 2, s := 4 }),
      ([0xF180, 0x4444], .vsar { d := 2, s := 4 }),
      ([0xF180, 0x4844], .vcmp { d := 2, s := 4 }),
      ([0xF180, 0x4C44], .vsel { d := 2, s := 4 }),
      ([0xF180, 0x5044], .vmov { d := 2, s := 4 }),
      ([0xF180, 0x5444], .vbcast { d := 2, s := 4 }),
      ([0xF180, 0x5844], .vins { d := 2, s := 4 }),
      ([0xF180, 0x5C44], .vext { d := 2, s := 4 }),
      ([0xF180, 0x6044], .vld { d := 2, s := 4 }),
      ([0xF180, 0x6444], .vst { d := 2, s := 4 }),
      ([0xF180, 0x7044], .kand { d := 2, s := 4 }),
      ([0xF180, 0x7444], .kor { d := 2, s := 4 }),
      ([0xF180, 0x7844], .knot { d := 2, s := 4 }),
      ([0xF180, 0x7C44], .kmovg { d := 2, s := 4 }),
      ([0xF180, 0x8044], .kmovk { d := 2, s := 4 }),
      ([0xF180, 0x8444], .kpopc { d := 2, s := 4 })] : List (List Halfword × Instr)),
      decode e.1 = .ok e.2 e.1.length := by
  decide

theorem test_decode_vector_c :
    ∀ e ∈ ([([0xF180, 0xE823, 0x6822], .vgather { d := 1, s := 2, reg := some { dh := false, sh := false, t := 4, q := 3 } }),
      ([0xF180, 0xE823, 0x6C22], .vscatter { d := 1, s := 2, reg := some { dh := false, sh := false, t := 4, q := 3 } })] : List (List Halfword × Instr)),
      decode e.1 = .ok e.2 e.1.length := by
  decide

theorem test_decode_vector_conversions :
    ∀ e ∈ ([([0xF200, 0x0044], .vcvt { d := 2, s := 4 }),
      ([0xF200, 0x0844], .vdequant { d := 2, s := 4 }),
      ([0xF200, 0x0C44], .vbscale { d := 2, s := 4 }),
      ([0xF200, 0x1044], .vexp2 { d := 2, s := 4 }),
      ([0xF200, 0x1444], .vlog2 { d := 2, s := 4 }),
      ([0xF200, 0x1844], .vrcp { d := 2, s := 4 }),
      ([0xF200, 0x1C44], .vrsqrt { d := 2, s := 4 }),
      ([0xF200, 0x2044], .vred { d := 2, s := 4 }),
      ([0xF200, 0x2444], .vperm { d := 2, s := 4 }),
      ([0xF200, 0x2844], .vshuf { d := 2, s := 4 }),
      ([0xF200, 0x2C44], .vrot { d := 2, s := 4 }),
      ([0xF200, 0x3044], .vcompress { d := 2, s := 4 }),
      ([0xF200, 0x3444], .vexpand { d := 2, s := 4 }),
      ([0xF200, 0x3844], .vdot { d := 2, s := 4 }),
      ([0xF20A, 0xF8C0, 0x0444], .vquant { mod := 10, d := 2, s := 4, qual := some { k := 0, type := 12, flags := 0 } })] : List (List Halfword × Instr)),
      decode e.1 = .ok e.2 e.1.length := by
  decide

theorem test_decode_vault_tiles :
    ∀ e ∈ ([([0xF280, 0x0002], .rowact { s := 2 }),
      ([0xF280, 0x0402], .rowclose { s := 2 }),
      ([0xF280, 0x0802], .rowshort { s := 2 }),
      ([0xF280, 0x0C02], .rowkeep { s := 2 }),
      ([0xF280, 0x1044], .shld { d := 2, s := 4 }),
      ([0xF280, 0x1444], .shst { d := 2, s := 4 }),
      ([0xF280, 0x1844], .shset { d := 2, s := 4 }),
      ([0xF280, 0x1C44], .tld { d := 2, s := 4 }),
      ([0xF280, 0x2044], .tldt { d := 2, s := 4 }),
      ([0xF280, 0x2444], .tldc { d := 2, s := 4 }),
      ([0xF280, 0x2844], .tldtc { d := 2, s := 4 }),
      ([0xF280, 0x2C44], .bcopy { d := 2, s := 4 }),
      ([0xF280, 0x3044], .bcopyt { d := 2, s := 4 }),
      ([0xF280, 0x3444], .bcopyc { d := 2, s := 4 }),
      ([0xF280, 0x3844], .bcopyx { d := 2, s := 4 })] : List (List Halfword × Instr)),
      decode e.1 = .ok e.2 e.1.length := by
  decide

theorem test_decode_matrix_a :
    ∀ e ∈ ([([0xF300, 0x0002], .spoolcfg { s := 2 }),
      ([0xF300, 0x0444], .await { d := 2, s := 4 }),
      ([0xF300, 0x0844], .release { d := 2, s := 4 }),
      ([0xF300, 0x1820], .mzero { d := 1 }),
      ([0xF300, 0x1C44], .mld { d := 2, s := 4 }),
      ([0xF300, 0x2044], .mst { d := 2, s := 4 }),
      ([0xF300, 0x2420], .mcommit { d := 1 }),
      ([0xF300, 0x2802], .mwait { s := 2 }),
      ([0xF300, 0x2C44], .sldv { d := 2, s := 4 }),
      ([0xF300, 0x3044], .sstv { d := 2, s := 4 }),
      ([0xF300, 0x3402], .loomjoin { s := 2 }),
      ([0xF300, 0x3800], .loomgo {}),
      ([0xF300, 0x3C00], .loomsplit {}),
      ([0xF300, 0xE820, 0x0C22], .mma { d := 1, s := 2, reg := t4 }),
      ([0xF300, 0xE820, 0x1022], .mmabs { d := 1, s := 2, reg := t4 }),
      ([0xF300, 0xE820, 0x1422], .mmv { d := 1, s := 2, reg := t4 })] : List (List Halfword × Instr)),
      decode e.1 = .ok e.2 e.1.length := by
  decide

theorem test_decode_matrix_b :
    ∀ e ∈ ([([0xF300, 0xE820, 0x4022], .drain { d := 1, s := 2, reg := t4 })] : List (List Halfword × Instr)),
      decode e.1 = .ok e.2 e.1.length := by
  decide

theorem test_decode_plies :
    ∀ e ∈ ([([0xF380, 0x1044], .pstat { d := 2, s := 4 }),
      ([0xF380, 0xE820, 0x0022], .psplita { d := 1, s := 2, reg := t4 }),
      ([0xF380, 0xE820, 0x0422], .psplitb { d := 1, s := 2, reg := t4 }),
      ([0xF380, 0xE820, 0x0822], .pmma { d := 1, s := 2, reg := t4 }),
      ([0xF380, 0xE820, 0x0C22], .pjoin { d := 1, s := 2, reg := t4 })] : List (List Halfword × Instr)),
      decode e.1 = .ok e.2 e.1.length := by
  decide

theorem test_decode_drafts :
    ∀ e ∈ ([([0xF400, 0x0044], .draft { d := 2, s := 4 }),
      ([0xF400, 0x0420], .draftrel { d := 1 }),
      ([0xF400, 0x0802], .pick { s := 2 }),
      ([0xF400, 0x0C44], .drwait { d := 2, s := 4 }),
      ([0xF400, 0x1044], .drstat { d := 2, s := 4 }),
      ([0xF400, 0x1444], .dfetch { d := 2, s := 4 }),
      ([0xF400, 0x1844], .devict { d := 2, s := 4 }),
      ([0xF400, 0x1C44], .dpin { d := 2, s := 4 }),
      ([0xF400, 0x2044], .dunpin { d := 2, s := 4 })] : List (List Halfword × Instr)),
      decode e.1 = .ok e.2 e.1.length := by
  decide

theorem test_decode_messages :
    ∀ e ∈ ([([0xF480, 0x0044], .send { d := 2, s := 4 }),
      ([0xF480, 0x0444], .recv { d := 2, s := 4 }),
      ([0xF480, 0x0844], .recvp { d := 2, s := 4 }),
      ([0xF480, 0x0C44], .rld { d := 2, s := 4 }),
      ([0xF480, 0x1044], .rst { d := 2, s := 4 }),
      ([0xF480, 0x1444], .ramo { d := 2, s := 4 }),
      ([0xF480, 0x1844], .rcas { d := 2, s := 4 }),
      ([0xF480, 0x1C44], .rfill { d := 2, s := 4 }),
      ([0xF480, 0x2044], .rdecw { d := 2, s := 4 }),
      ([0xF480, 0x2444], .rwadd { d := 2, s := 4 }),
      ([0xF480, 0x2844], .rwrd { d := 2, s := 4 }),
      ([0xF480, 0x2C44], .rfadd { d := 2, s := 4 }),
      ([0xF480, 0x3044], .rcopy { d := 2, s := 4 }),
      ([0xF480, 0x3444], .rsig { d := 2, s := 4 }),
      ([0xF480, 0x3844], .rwait { d := 2, s := 4 })] : List (List Halfword × Instr)),
      decode e.1 = .ok e.2 e.1.length := by
  decide

theorem test_decode_fibres_jobs :
    ∀ e ∈ ([([0xF500, 0x0020], .frun { d := 1 }),
      ([0xF500, 0x0402], .fstop { s := 2 }),
      ([0xF500, 0x0844], .fork { d := 2, s := 4 }),
      ([0xF500, 0x0C02], .join { s := 2 }),
      ([0xF500, 0x1000], .fyield {}),
      ([0xF500, 0x1400], .fexit {}),
      ([0xF500, 0x1844], .launch { d := 2, s := 4 }),
      ([0xF500, 0x1C00], .handoff {}),
      ([0xF500, 0x2002], .exit { s := 2 })] : List (List Halfword × Instr)),
      decode e.1 = .ok e.2 e.1.length := by
  decide

theorem test_decode_system :
    ∀ e ∈ ([([0xF580, 0x0044], .sysrd { d := 2, s := 4 }),
      ([0xF580, 0x0444], .syswr { d := 2, s := 4 }),
      ([0xF580, 0x0800], .tret {}),
      ([0xF580, 0x0C00], .halt {}),
      ([0xF580, 0x1020], .waiti { d := 1 }),
      ([0xF580, 0x1444], .tlbinv { d := 2, s := 4 }),
      ([0xF580, 0x1802], .tlbinva { s := 2 }),
      ([0xF580, 0x1C02], .tlbinvp { s := 2 }),
      ([0xF580, 0x2044], .ringrd { d := 2, s := 4 }),
      ([0xF580, 0x2420], .preempt { d := 1 }),
      ([0xF580, 0x2844], .migrate { d := 2, s := 4 })] : List (List Halfword × Instr)),
      decode e.1 = .ok e.2 e.1.length := by
  decide

/-! ## Well-formedness: a term that each check refuses, and terms that pass -/

/-- A QUAL prefix with an element type. -/
def qual (type : BitVec 4) (flags : BitVec 4 := 0) (k : BitVec 3 := 0) : Option QualFields :=
  some { k := k, type := type, flags := flags }

/-- R16, R19, R20, R23-R25: the checks of every row. In order: an IMX word on a form without one; four IMX words; a
REG-only form without REG; a modifier where none is allowed; QUAL where it is refused; a type, a flag, a mask that the
entry does not accept; a register out of its class; a field that is not used and not zero, by form; q where it is zero. -/
theorem test_wf_refuses_rows :
    ∀ i ∈ ([.add { imx := [1] }, .li { imx := [1, 2, 3, 4] }, .mma { d := 1, s := 2 }, .add { mod := 1 },
      .add { qual := qual 0 }, .vdiv { qual := qual 0 }, .vmin { qual := qual 10 4 }, .kand { qual := qual 0 0 1 },
      .vmov { s := 1, reg := some { dh := false, sh := true, t := 0, q := 0 } }, .kand { d := 9, s := 1 },
      .mma { d := 17, s := 2, reg := t4 }, .mov { d := 1, s := 2, reg := t4 },
      .feset { d := 1, s := 2, reg := t4 }, .addi { d := 1, reg := some { dh := false, sh := true, t := 4, q := 0 } },
      .syswr { d := 1, s := 1, reg := t4 }, .ldI8 { d := 1, s := 2, reg := t4 }, .beq { d := 1, s := 2, reg := t4 },
      .tlbinv { d := 1, s := 2, reg := t4 },
      .add { d := 1, s := 2, reg := some { dh := false, sh := false, t := 4, q := 1 } }] : List Instr), i.wf = false := by
  decide

/-- The rules of single entries: R25, R34, R119, R146, R171, R175, R177, R179, R182-R184, R187, R195, R238, R256, R277, R303,
R305, R307, R329, R378. -/
theorem test_wf_refuses_entries :
    ∀ i ∈ ([.bfx { s := 1, imx := [126] }, .shli { s := 0, imx := [2] }, .vadd { mod := 64, d := 1 },
      .vadd { mod := 64, qual := qual 0 }, .vcmp { mod := 6, qual := qual 0 }, .vins { reg := some { dh := false, sh := false, t := 16, q := 0 } },
      .vext { qual := qual 10 0 1 }, .vgather { reg := t4 }, .vcvt { mod := 10 }, .vcvt { mod := 11, reg := some { dh := false, sh := false, t := 0, q := 2 } },
      .vquant { mod := 0 }, .vdequant { mod := 10 }, .vred { mod := 4 }, .rowclose { mod := 2, s := 1 }, .mld { qual := qual 10 7 },
      .pjoin { reg := t4, qual := qual 8 }, .pick { imx := [32, 0, 0] }, .rcas { d := 1 }, .rwrd { d := 3 },
      .cas { d := 5 }, .stl { mod := 4 }, .amo { mod := 0x48 }, .lda { mod := 0x60 }, .fence { mod := 0x10 }, .sysrd { s := 25 },
      .tinval { mod := 1, s := 1 }] : List Instr), i.wf = false := by
  decide

/-- The numbers of an event: bank, layer, row, entry, size, data, atomic code, range of a translation, tests, register. -/
theorem test_wf_refuses_events :
    ∀ i ∈ ([.rowActivationDone 0 48, .vthermChange 0 12 true true true, .retentionDeadline 0 24576, .draftEntryComplete 0 65536,
      .apertureAccess 0 (.read 65), .apertureAccess 0 (.write 1 256), .ualinkInboundRequest 0 0 (.atomic 9 8 0),
      .ualinkInboundRequest 0 0 (.atomic 0 3 0), .atsTranslationCompletion 0 { va := 0, bits := 11, pa := 0, r := true, w := true },
      .testStripEnd 0 (.pass 4097), .registerWrite (.sys 0 0 0x19) 0] : List Instr), i.wf = false := by
  decide

/-- Terms beside those at the edge of each check. -/
theorem test_wf_accepts :
    ∀ i ∈ ([.li { imx := [1, 2, 3] }, .mma { d := 15, s := 2, reg := t4 }, .vmin { qual := qual 10 8 1 }, .kand { d := 7, s := 1 },
      .bfx { imx := [126] }, .shli { s := 31, imx := [1] }, .vadd { mod := 64, d := 2, s := 4 }, .vcmp { mod := 6 },
      .vins { reg := some { dh := false, sh := false, t := 15, q := 0 } }, .pick { s := 31, imx := [31, 2047, 2047] }, .cas { d := 4 },
      .stl { mod := 7 }, .amo { mod := 0x40 }, .lda { mod := 0x50 }, .sysrd { s := 24 }, .rowActivationDone 0 47,
      .vthermChange 0 11 true true true, .apertureAccess 0 (.read 64), .testStripEnd 0 (.pass 4096)] : List Instr), i.wf = true := by
  decide

/-! ## Small states -/

/-- Reset with the current strand changed. -/
def ofStrand (f : Strand → Strand) : State := State.reset.modSt f

/-- Reset with the current pillar changed. -/
def ofPillar (f : Pillar → Pillar) : State := State.reset.modMe f

/-- A strand at a level (R362). -/
def atLevel (l : Nat) : State := ofStrand fun r => { r with status := word (l * 64) }

/-- A fibre mode in which a fibre runs (R153). -/
def mode (slot : Option (BitVec 8)) : FibreMode :=
  { once := false, dest := 1, pc := 4, ret := 6, saved := Vector.replicate 8 {}, slot := slot, since := 0, backoff := 0 }

/-- The strand runs the fibre of slot 3. -/
def inFibre3 : State := ofStrand fun r => { r with modes := [mode (some 3)] }

/-- Registers g1, g2 and g3 with values, unpoisoned. -/
def regs (a b c : Word) : State :=
  ofStrand fun r => ((r.setReg 1 { bits := a }).setReg 2 { bits := b }).setReg 3 { bits := c }

/-- g2 is poisoned. -/
def bad2 : State := ofStrand fun r => r.setReg 2 { bad := true }

/-- A dispatched instruction of strand 0. -/
def queued (i : Instr) (slot : Nat := 0) (aux : Nat := 0) : Dispatched :=
  { seq := 0, strand := 0, lvl := 0, instr := i, slot := slot, aux := aux }

/-- A full queue of strand 0 in an engine. -/
def full (e : Engine) : State := ofPillar fun x => x.modEngine e fun u => u.setQueue 0 [queued (.kmovg {}), queued (.kmovg {})]

/-- One UALink port is trained and ready (R419). -/
def ported (s : State) : State :=
  { s with host := { s.host with ports := s.host.ports.set 7 { link := true, ready := true } } }

/-- A late fault waits for the strand (R368). -/
def late : State := ofStrand fun r => { r with lates := [{ seq := 0, lvl := 0, cause := 0x03, tval := 0 }] }

/-- An M form with base g1. -/
def base1 : Fields := { d := 8, s := 1 }

/-- An M form with base g1 and index g2, scaled by 1. -/
def base1index2 : Fields := { d := 8, s := 1, reg := some { dh := false, sh := false, t := 2, q := 1 } }

/-! ## Witnesses: scalar instructions -/

/-- Destinations that fibre code may and may not name (`TwoAndThreeSourceResults`, `OneSourceAndImmediateResults`,
`CallsAndFibreRule`): g8, g9 and, outside fibre code, g63. -/
theorem witness_destinations :
    inFibre3.st.inFibre = true ∧ inFibre3.destFree 8 ∧ ¬ inFibre3.destFree 9 ∧ State.reset.destFree 63 := by
  unfold State.destFree; decide

/-- A free and a busy divider (`TwoAndThreeSourceResults`). -/
theorem witness_divider :
    State.reset.me.divider = none ∧ (ofPillar fun x => { x with divider := some 1 }).me.divider.isSome = true := by decide

/-- Well-formed immediates at the edges of their ranges (`OneSourceAndImmediateResults`). -/
theorem witness_immediates :
    inFibre3.destFree 8 ∧ (Instr.shli { d := 8, s := 31, imx := [1] }).wf = true ∧ (Instr.bfx { d := 8, imx := [126] }).wf = true ∧
      (Instr.bfxn { d := 8, s := 31 }).wf = true ∧ (Instr.bfi { d := 8, imx := [126] }).wf = true ∧
      (Instr.addi { d := 8, s := 31, imx := [2047, 2047, 2047] }).wf = true := by
  unfold State.destFree; decide

/-- Operands on which each branch is taken and is not taken, unpoisoned, and poisoned ones (`ControlTransfer`). -/
theorem witness_branches :
    let s := regs 1 (-1) 1
    let a := (s.g 1).bits
    let b := (s.g 2).bits
    let c := (s.g 3).bits
    (s.g 1).bad = false ∧ (s.g 2).bad = false ∧ a = c ∧ a ≠ b ∧ b.toInt < a.toInt ∧ ¬ a.toInt < c.toInt ∧ b.toInt ≤ a.toInt ∧
      ¬ a.toInt ≤ b.toInt ∧ a.toNat < b.toNat ∧ ¬ a.toNat < c.toNat ∧ c.toNat ≤ a.toNat ∧ ¬ b.toNat ≤ a.toNat ∧
      (bad2.g 2).bad = true ∧ (bad2.g 1).bad = false := by decide

/-- Targets of JMPF just below XB with no segment, and at XB; a poisoned target (`ControlTransfer`). -/
theorem witness_jumps :
    let s := (regs 1023 1024 0).modMe fun x => { x with xbKb := 1 }
    (s.g 1).bad = false ∧ (BitVec.ofNat 19 ((s.g 1).bits.toNat / 2 * 2)).toNat < s.me.xb ∧ s.me.segAt [1, 3] 1022 = none ∧
      (s.g 2).bad = false ∧ s.me.xb ≤ (BitVec.ofNat 19 ((s.g 2).bits.toNat / 2 * 2)).toNat ∧ (bad2.g 2).bad = true := by decide

/-- The three levels (`CallsAndFibreRule`). -/
theorem witness_levels : (atLevel 0).st.lvl = 0 ∧ (atLevel 1).st.lvl = 1 ∧ (atLevel 3).st.lvl = 3 := by decide

/-! ## Witnesses: local store -/

/-- Aligned ranges at XB and at the end of local store, with and without an earlier vector access to them
(`LocalLoadAndStoreResults`, `FullEmptyResults`). -/
theorem witness_local_ranges :
    let s := (regs 1024 0 0).modMe fun x => { x with xbKb := 1 }
    let e := regs 0x5FFF8 0 0
    let v := (regs 0 0 0).modMe fun x => { x with vec := x.vec.setQueue 0 [queued (.vld {}) 56] }
    (s.addrClean base1 ∧ s.lsRange (s.effAddr base1).toNat 8 ∧ s.me.vectorBusy s.curT 1024 8 = false) ∧
      (e.addrClean base1 ∧ e.lsRange (e.effAddr base1).toNat 8) ∧ e.addrClean base1index2 ∧
      (v.addrClean { s := 1, imx := [64] } ∧ v.lsRange (v.effAddr { s := 1, imx := [64] }).toNat 8 ∧
        v.me.vectorBusy v.curT 64 8 = true) := by
  simp only [State.addrClean, State.lsRange]; decide

/-- The address checks: a poisoned base and index, an odd address, one byte past the end, and the last word below XB. -/
theorem witness_local_checks :
    let o := regs 1 0 0
    let e := regs 0x60000 0 0
    let x := (regs 1016 0 0).modMe fun x => { x with xbKb := 1 }
    ((bad2.g 2).bad = true ∧ (bad2.g 1).bad = false ∧ base1index2.qNum ≠ 0) ∧
      (o.addrClean base1 ∧ (o.effAddr base1).toNat % 2 ≠ 0) ∧
      (e.addrClean base1 ∧ (e.effAddr base1).toNat % 8 = 0 ∧ lsEnd < (e.effAddr base1).toNat + 1) ∧
      (x.addrClean base1 ∧ (x.effAddr base1).toNat % 8 = 0 ∧ (x.effAddr base1).toNat + 8 ≤ lsEnd ∧
        (x.effAddr base1).toNat < x.me.xb) := by
  simp only [State.addrClean]; decide

/-- A full and an empty word, with a destination that fibre code may name (`FullEmptyResults`). -/
theorem witness_full_and_empty :
    let s := ofPillar fun x => x.setEmpty 0 true 1
    s.st.inFibre = false ∧ s.me.ls.empty.has 0 = true ∧ s.me.ls.empty.has 1 = false ∧ s.destFree 8 := by
  unfold State.destFree; decide

/-- Ranges of FESET and FECLR: none, one word at XB, unaligned, one word past the end, the last word below XB
(`FullEmptyResults`). -/
theorem witness_full_empty_ranges :
    let s := (regs 1024 8 0).modMe fun x => { x with xbKb := 1 }
    let a := (s.g 1).bits
    let b := (s.g 2).bits
    (a.toNat % 8 = 0 ∧ (s.g 3).bits = 0) ∧
      (b.toNat % 8 = 0 ∧ b ≠ 0 ∧ s.me.xb ≤ a.toNat ∧ a.toNat + b.toNat ≤ lsEnd ∧
        s.me.vectorBusy s.curT a.toNat b.toNat = false) ∧
      ¬ ((regs 4 8 0).g 1).bits.toNat % 8 = 0 ∧ lsEnd < ((regs 0x60000 8 0).g 1).bits.toNat + b.toNat ∧
      ((regs 1016 8 0).g 1).bits.toNat < s.me.xb := by decide

/-- A descriptor of the whole range below XB; a segment that is loading and one that is not (`SegmentResults`). -/
theorem witness_segments :
    let s := (regs 64 (word (2 ^ 32)) 0).modMe fun x => { x with xbKb := 1 }
    let b := (s.g 2).bits
    let l := ofPillar fun x => x.setSeg 5 { lenKb := 1, baseKb := 0, state := 1 }
    ((s.g 1).bits.toNat % 64 = 0 ∧ b.toNat % 1024 = 0 ∧ b.toNat / 2 ^ 19 % 2 ^ 13 = 0 ∧ b.toNat / 2 ^ 41 = 0 ∧
      b.toNat / 2 ^ 32 % 512 * 1024 ≠ 0 ∧ b.toNat % 2 ^ 19 + b.toNat / 2 ^ 32 % 512 * 1024 ≤ s.me.xb ∧
      (s.me.seg 0).state ≠ 1 ∧ (∀ k, k < 16 → (s.me.seg k).state = 1 → (s.me.seg k).meets 0 1024 = false) ∧
      s.canDispatch .tile = true) ∧
      (s.destFree 8 ∧ s.st.deliverable = none) ∧ (l.me.seg 5).state = 1 := by
  unfold State.destFree; decide

/-- A tag table of two slots (`TagTableResults`). -/
def tagged (a b : TagSlot) : State :=
  (regs 0x400 1 0).modMe fun x => { x with tags := (({ count := 2, baseKb := 8 } : TagTable).setSlot 0 a).setSlot 1 b }

/-- A table without slots; tags that are found and not; a slot that may be filled, at the end of the table; clean, dirty and
filling slots. -/
theorem witness_tag_table :
    let s := tagged { tag := 1, state := 2, dirty := true } {}
    let u := tagged {} {}
    let g := s.me.tags
    State.reset.me.tags.count = 0 ∧ (g.count ≠ 0 ∧ g.find 1 = some 0) ∧ g.find 2 = none ∧
      ((u.g 2).bits.toNat % 256 < u.me.tags.count ∧ (u.g 1).bits.toNat % 1024 = 0 ∧ (u.me.tags.slot 1).state ≠ 1 ∧
        (∀ n, u.me.tags.find 1 = some n → n = 1) ∧ u.canDispatch .tile = true) ∧
      ((g.slot 1).state ≠ 1 ∧ ¬ ((g.slot 1).state = 2 ∧ (g.slot 1).dirty = true)) ∧
      ((g.slot 0).state = 2 ∧ (g.slot 0).dirty = true) ∧ (∀ e ∈ g.slots.entries, e.2.state ≠ 1) ∧ s.destFree 8 := by
  simp only [State.destFree]
  refine ⟨by decide, by decide, by decide, ⟨by decide, by decide, by decide, fun n h => ?_, by decide⟩, by decide, by decide,
    by decide, by decide⟩
  rw [show (tagged {} {}).me.tags.find 1 = none by decide] at h
  cases h

/-! ## Witnesses: memory -/

/-- A translation of addresses from 0 on to physical addresses from pa on. -/
def entryTo (pa : Nat) : TlbEntry := { asid := 0, global := true, va := 0, bits := 36, pa := pa, user := true, write := true,
                                          host := decide (3 * 2 ^ 46 + 2 ^ 45 ≤ pa) }

/-- The TLB translates to physical addresses from pa on, and the second tier is ready. -/
def mapped (pa : Nat) (s : State) : State :=
  { s.modMe fun x => { x with dataTlb := [entryTo pa] } with safelight := { s.safelight with ready := 0x10000 } }

/-- The strand's buffer holds n stores of a byte at address 0x100 (R320). -/
def storing (n : Nat) (s : State) : State :=
  s.modSt fun r => { r with stores := List.replicate n { pa := 0x100, n := 1, data := 0, bad := false } }

/-- Accesses of eight bytes that land in the own vault and in the second tier, in strand code and in fibre code
(`MemoryLoadResults`). -/
theorem witness_loads :
    let s := mapped 0 (regs 0x100 0 0)
    let t := mapped (2 ^ 46) (regs 0x100 0 0)
    let f := mapped 0 inFibre3
    (Claims.lands s base1 .read 8 0x100 { pa := 0x100, entry := entryTo 0 } ∧ Claims.inMemory 0x100 ∧
      s.outgoing s.curP (placeOf 0x100) = false ∧ s.destFree 8 ∧ s.st.inFibre = false) ∧
      (Claims.lands t base1 .read 8 (2 ^ 46 + 0x100) { pa := 2 ^ 46 + 0x100, entry := entryTo (2 ^ 46) } ∧
        Claims.inMemory (2 ^ 46 + 0x100) ∧ t.outgoing t.curP (placeOf (2 ^ 46 + 0x100)) = false) ∧
      Claims.lands f base1 .read 8 0 { pa := 0, entry := entryTo 0 } ∧ f.st.inFibre = true ∧ f.destFree 8 := by
  simp only [Claims.lands, Claims.inMemory, State.addrClean, State.destFree]; decide

/-- Stores into the own vault with seven and with eight stores buffered, and one into the second tier; STL with nothing to
wait for (`MemoryStoreResults`). -/
theorem witness_stores :
    let s := mapped 0 (regs 0x100 0 0)
    let t := mapped (2 ^ 46) (regs 0x100 0 0)
    (∃ off, placeOf 0x100 = .vault s.curP off) ∧ Claims.lands s base1 .write 8 0x100 { pa := 0x100, entry := entryTo 0 } ∧
      (storing 7 s).st.stores.length < 8 ∧ 8 ≤ (storing 8 s).st.stores.length ∧ s.fenceDone 0 15 = true ∧
      Claims.lands t base1 .write 8 (2 ^ 46 + 0x100) { pa := 2 ^ 46 + 0x100, entry := entryTo (2 ^ 46) } ∧
      (¬ ∃ off, placeOf (2 ^ 46 + 0x100) = .vault t.curP off) ∧ t.st.inFibre = false ∧
      ∀ q ∈ t.st.stores, overlaps q.pa q.n (2 ^ 46 + 0x100) 8 = false := by
  simp only [Claims.lands, State.addrClean]
  refine ⟨⟨0x100, by decide⟩, by decide, by decide, by decide, by decide, by decide, ?_, by decide, by decide⟩
  rintro ⟨off, h⟩
  rw [show placeOf (2 ^ 46 + 0x100) = .tier 0x100 by decide] at h
  cases h

/-- An atomic operation into the own vault, with another store buffered; a fence that is done and one that is not, before loads and before stores only, and one that holds stores; an SC form
at the scope of the package (`AtomicsAndFences`). -/
theorem witness_atomics_and_fences :
    let s := mapped 0 (regs 0x108 0 0)
    let f : Fields := { mod := 3, d := 8, s := 1 }
    (Claims.lands s f .write (2 ^ (f.mod.toNat % 4)) 0x108 { pa := 0x108, entry := entryTo 0 } ∧ Claims.inMemory 0x108 ∧
      s.outgoing s.curP (placeOf 0x108) = false ∧ s.destFree f.dNum ∧ s.st.inFibre = false) ∧
      (∀ q ∈ (storing 1 s).st.stores, overlaps q.pa q.n 0x108 8 = false) ∧
      s.fenceDone 4 15 = true ∧ (storing 1 s).fenceDone 4 15 = false ∧ (storing 1 s).st.fence = none ∧
      (s.modSt fun r => { r with fence := some (4, 15) }).st.fence.isSome = true ∧
      (let loads (f : Fields) : Bool := f.mod.getLsbD 3 || f.mod.getLsbD 1
       loads { mod := 2 } = true ∧ loads { mod := 0x45 } = false) := by
  simp only [Claims.lands, Claims.inMemory, State.addrClean, State.destFree]; decide

/-- Accesses that reach a peer that is up, the host and a device register, at each level; a peer with a request
that is held (`AccessFaultsAndOutside`). -/
theorem witness_outside :
    let peer : Peer := { up := true }
    let p := { mapped (2 ^ 47 + 2 ^ 36) (regs 0x100 0 0) with host := { State.reset.host with peers := NatMap.set {} 1 peer } }
    let q : Procedure :=
      { p := 0, t := 0, seq := 0, lvl := 0, instr := .rld base1, place := .peer 1 0, va := 0, phase := .queued }
    let h := mapped (3 * 2 ^ 46 + 2 ^ 45) (regs 0x100 0 0)
    let d := mapped (3 * 2 ^ 46) (regs 0x100 0 0)
    let m := d.modSt fun r => { r with status := 0x40 }
    (Claims.lands p base1 .read 8 (2 ^ 47 + 2 ^ 36 + 0x100) { pa := 2 ^ 47 + 2 ^ 36 + 0x100, entry := entryTo (2 ^ 47 + 2 ^ 36) } ∧
      placeOf (2 ^ 47 + 2 ^ 36 + 0x100) = .peer 1 0x100 ∧ (p.g base1.dNum).bad = false ∧ p.outgoing p.curP (.peer 1 0x100) = false ∧
      p.peerFull (.peer 1 0x100) = false ∧ ({ p with procs := [q] } : State).peerFull (.peer 1 0x100) = true) ∧
      (Claims.lands h { base1 with d := 2 } .write 8 (3 * 2 ^ 46 + 2 ^ 45 + 0x100)
          { pa := 3 * 2 ^ 46 + 2 ^ 45 + 0x100, entry := entryTo (3 * 2 ^ 46 + 2 ^ 45) } ∧
        placeOf (3 * 2 ^ 46 + 2 ^ 45 + 0x100) = .host 0x100 ∧ ((h.modSt fun r => r.setReg 2 { bad := true }).g 2).bad = true) ∧
      (Claims.lands m base1 .read 8 (3 * 2 ^ 46 + 0x100) { pa := 3 * 2 ^ 46 + 0x100, entry := entryTo (3 * 2 ^ 46) } ∧
        placeOf (3 * 2 ^ 46 + 0x100) = .device 0x100 ∧ m.st.lvl ≠ 0 ∧
        Claims.lands m base1 .write 8 (3 * 2 ^ 46 + 0x100) { pa := 3 * 2 ^ 46 + 0x100, entry := entryTo (3 * 2 ^ 46) } ∧ (4 : Nat) ≠ 8) ∧ d.st.lvl = 0 ∧ d.st.inFibre = false := by
  simp only [Claims.lands, State.addrClean]; decide

/-- A page that is not present, an address space without a context entry, and a table in the second tier, which is not ready and which
has failed (`AccessFaultsAndOutside`). -/
theorem witness_page_faults :
    let s := { regs 0x8000000000 0 0 with mem := Memory.set {} 0 1 }
    let t := { regs 0x100 0 0 with mem := Memory.write {} 0 8 (2 ^ 46 + 1) }
    let u : State := { t with safelight := { t.safelight with tierFailed := true } }
    s.addrClean base1 ∧ (s.effAddr base1).toNat % 8 = 0 ∧ s.xlate s.walker .read (s.effAddr base1) = .error (.cause 0x03) ∧
      s.st.inFibre = false ∧
      State.reset.xlate State.reset.walker .write 0 = .error (.cause 0x05) ∧ t.addrClean base1 ∧
      t.xlate t.walker .read 0x100 = .error .wait ∧ u.xlate u.walker .read 0x100 = .error (.cause 0x69) := by
  simp only [State.addrClean]; decide

/-! ## Witnesses: dispatch and the vector unit -/

/-- Queues with room and without; a poisoned base; addresses of 64 bytes at XB, one byte off and past the end
(`VectorUnitDispatch`). -/
theorem witness_vector_dispatch :
    let s := (regs 1024 0 0).modMe fun x => { x with xbKb := 1 }
    let o := regs 1025 0 0
    let e := regs 0x5FFC4 0 0
    State.reset.canDispatch .vector = true ∧ (full .vector).canDispatch .vector = false ∧ State.reset.destFree 8 ∧
      (s.addrClean base1 ∧ (s.effAddr base1).toNat % ((typeOf .f32 base1).width / 8) = 0 ∧ s.me.xb ≤ (s.effAddr base1).toNat ∧
        (s.effAddr base1).toNat + 64 ≤ lsEnd) ∧
      (o.addrClean base1 ∧ (o.effAddr base1).toNat % ((typeOf .f32 base1).width / 8) ≠ 0) ∧
      (e.addrClean base1 ∧ (e.effAddr base1).toNat % ((typeOf .f32 base1).width / 8) = 0 ∧
        lsEnd < (e.effAddr base1).toNat + 64) ∧
      (bad2.g 1).bad = false ∧ (bad2.g 2).bad = true ∧ (Instr.add base1).row.isSome = true := by
  simp only [State.addrClean, State.destFree]; decide

/-- The vector unit of the pillar has accepted an instruction of strand 0. -/
def accepted (i : Instr) (slot : Nat := 0) : State := ofPillar fun x => { x with vec := { x.vec with accepted := [queued i slot] } }

/-- What strand 0's oldest accepted instruction is. -/
theorem accepted_find (i : Instr) (slot : Nat) :
    ((accepted i slot).pil 0).vec.accepted.find? (fun d => d.strand == 0) = some (queued i slot) := rfl

/-- An instruction whose effect succeeds, one whose effect faults (a gather outside local store), and a unit with none
(`VectorCompletionAndLanes`). -/
theorem witness_vector_completion :
    (State.reset.pil 0).vec.accepted.find? (fun d => d.strand == 0) = none ∧
      (∃ e f, vectorEffect (queued (.kand { d := 1 })) = some (e, f) ∧
        (e (queued (.kand { d := 1 })) f ((accepted (.kand { d := 1 })).focus 0 0)).isOk = true) ∧
      let g : Fields := { d := 1, reg := some { dh := false, sh := false, t := 4, q := 3 } }
      let d : Dispatched := { queued (.vgather g) with gs := { bits := 0x60000 } }
      ∃ e f, vectorEffect d = some (e, f) ∧ (e d f (State.reset.focus 0 0)).isOk = false := by
  exact ⟨by decide, ⟨_, _, rfl, by decide⟩, ⟨_, _, rfl, by decide +kernel⟩⟩

/-- Integer lane forms: the last lane of a pair of registers, active; a lane that a mask leaves out, with and without Z
(`VectorCompletionAndLanes`). -/
theorem witness_integer_lanes :
    let p : Fields := { mod := 64, d := 30, s := 2, qual := qual 1 }
    let z : Fields := { d := 31, s := 2, qual := qual 0 8 1 }
    let r := State.reset.strandAt 0 0
    ((Instr.vadd p).wf = true ∧ isI (typeOf .f32 p) = true ∧ (Claims.typeRange (typeOf .f32 p)).1 < 0 ∧
      63 < pairRegs p * (512 / (typeOf .f32 p).width) ∧ (r.k p.kNum).bits.getLsbD 63 = true) ∧
      ((Instr.vmin z).wf = true ∧ isI (typeOf .f32 z) = true ∧ 63 < pairRegs z * (512 / (typeOf .f32 z).width) ∧
        (r.k z.kNum).bits.getLsbD 63 = false ∧ z.flags / 8 % 2 = 1) ∧
      (Instr.vsar { d := 31, qual := qual 2 }).wf = true ∧ (Instr.vmul { qual := qual 7 }).wf = true := by decide

/-- Registers and lanes of the mask instructions and moves, at the ends of their ranges (`VectorMoveAndMemoryCompletion`). -/
theorem witness_masks_and_moves :
    (Fields.dNum { d := 7 } < 8 ∧ Fields.dNum { d := 7 } ≠ 0) ∧ Fields.dNum {} = 0 ∧
      (let f : Fields := { d := 31, reg := some { dh := true, sh := false, t := 7, q := 0 }, qual := qual 3 }
       f.dNum < 64 ∧ f.dNum ≠ 0 ∧ f.tNum < 512 / (typeOf .f32 f).width ∧ (typeOf .f32 f).width = 64) ∧
      let f : Fields := { d := 31, reg := some { dh := false, sh := false, t := 63, q := 0 }, qual := qual 0 }
      f.dNum < 32 ∧ f.tNum < 512 / (typeOf .f32 f).width ∧ (typeOf .f32 f).width = 8 := by decide

/-- An accepted VLD and VST of v31, with 64 lanes (`VectorMoveAndMemoryCompletion`). -/
theorem witness_vector_memory :
    let f : Fields := { d := 31, qual := qual 0 }
    8 ≤ (typeOf .f32 f).width ∧ f.dNum < 32 ∧ 63 < 512 / (typeOf .f32 f).width ∧ (queued (.vld f)).instr = .vld f ∧
      (queued (.vst f)).instr = .vst f := by decide

/-! ## Witnesses: the vault and the tile engine -/

/-- A record of rows of 64 bytes at stride 64 with a type, a conversion, and the flags (R198). -/
def record (base rows type cvt : Nat) (t c : Bool) : Shape :=
  BitVec.ofNat 256 (base + 64 * 2 ^ 64 + rows * 2 ^ 128 + 64 * 2 ^ 144 + type * 2 ^ 164 + cvt * 2 ^ 168 + boolNat t * 2 ^ 172 +
    boolNat c * 2 ^ 173)

/-- Shape registers 0 and 1 hold records. -/
def shaped (a b : Shape) : State := ofStrand fun r => (r.setShape 0 a).setShape 1 b

/-- A spool with one slot of four in use. -/
def spooled (q : Spool) (s : State) : State := s.modMe fun x => x.modMtx fun m => m.setSpool 0 q

/-- Records that pass the checks of each form, one that does not; spools without slots, full, with a resident slot and with room
(`TileDispatch`). -/
theorem witness_tile_dispatch :
    let s := shaped (record 0 16 0 0 false false) (record 4096 16 0 0 false false)
    let q : Spool := { count := 4, base := 0, out := 1, rd := 3 }
    let f : Fields := { d := 1 }
    s.canDispatch .tile = true ∧ (s.st.shape 0).rowFault = none ∧ State.reset.canDispatch .tile = true ∧
      (State.reset.st.shape 0).rowFault = some 4 ∧
      (s.st.shape 0).sourceFault true false false false = none ∧
      (record 0 16 0 0 true false).sourceFault true false true false = none ∧
      (record 0 16 8 10 false true).sourceFault true false false true = none ∧
      (record 0 16 8 10 true true).sourceFault true false true true = none ∧
      ((spooled { count := 0, base := 0, out := 0, rd := 0 } s).me.mtx.spool 0).count = 0 ∧
      (let r := (spooled { q with out := 4 } s).me.mtx.spool 0
       r.count ≠ 0 ∧ r.out = r.count) ∧
      (let r := (spooled q s).me.mtx
       (r.spool 0).count ≠ 0 ∧ (r.spool 0).out ≠ (r.spool 0).count ∧ (r.slot 0).state ≠ 4 ∧
         ((r.modSlot 0 fun h => { h with state := 4 }).slot 0).state = 4) ∧
      ((s.st.shape 0).sourceFault false false false false = none ∧ (s.st.shape f.dNum).destFault (s.st.shape 0) = none ∧
        spansMeet (s.st.shape 0) (s.st.shape f.dNum) = false ∧ (s.g 0).bits = 0) ∧
      (record 0 16 0 0 true false).sourceFault false false true false = none ∧
      (record 8192 64 0 0 false false).destFault (record 0 64 0 0 true false) = none ∧
      (record 0 16 8 10 false true).sourceFault false false false true = none := by decide

/-- Records of 32 aligned bytes at the end of local store, and every field of SHSET (`ShapeRegisterResults`). -/
theorem witness_shape_registers :
    let s := regs 0x5FFE0 0 0
    s.addrClean { d := 7, s := 1 } ∧ s.lsRange (s.effAddr { d := 7, s := 1 }).toNat 32 ∧
      s.me.vectorBusy s.curT (s.effAddr { d := 7, s := 1 }).toNat 32 = false ∧
      (Fields.mod { mod := 6, d := 7 }).toNat = 6 ∧ Fields.dNum { mod := 6, d := 7 } < 8 := by
  simp only [State.addrClean, State.lsRange]; decide

/-- A tile operation of strand 0. -/
def operation (i : Instr) (slot : Nat := 0) (src : Shape := 0) (aux : Nat := 0) : TileOp := { d := { queued i slot aux with src := src } }

/-- Pillar 0 streams an operation, and both of its TLBs translate from 0 on. -/
def streaming (o : TileOp) (v : Vault := {}) : State :=
  ofPillar fun x => { x with dataTlb := [entryTo 0], tileTlb := [entryTo 0], vault := v, tile := { x.tile with ops := [o] } }

/-- Activations of a bank that refreshes and of one that does not; beats on a closed row that may open and on an open row; no
operation; a load and a copy whose last beat has arrived (`TilePipeEvents`). -/
theorem witness_tile_pipe :
    let o := operation (.tld {}) 31 (record 0 16 0 0 false false)
    let a : Vault := { activating := [(3, 40)] }
    let r : Vault := { a with refreshing := NatMap.set {} (bankOf 3) 0 }
    let s := streaming o
    let t := streaming o { openRows := [0] }
    let e := streaming { o with ended := true }
    let c := operation (.bcopy {})
    (a.activating.find? (fun a => bankOf a.1 == bankOf 3) = some (3, 40) ∧ (r.refreshing.get? (bankOf 3)).isSome = true ∧
        a.refreshing.get? (bankOf 3) = none) ∧
      (State.reset.pil 0).tile.stream = none ∧
      ((s.pil 0).tile.stream = some o ∧ (s.pil 0).opHeld o = false ∧ o.col < o.d.src.rowBytes ∧ s.beatRow 0 o = some 0 ∧
        (s.pil 0).vault.refreshing.get? (bankOf 0) = none ∧ (s.pil 0).vault.openRows.contains 0 = false ∧
        (s.pil 0).vault.isActivating 0 = false ∧ (s.pil 0).vault.canOpen 0 s.clk = true) ∧
      ((t.pil 0).tile.stream = some o ∧ (t.pil 0).opHeld o = false ∧ t.beatRow 0 o = some 0 ∧
        (t.pil 0).vault.openRows.contains 0 = true ∧ o.taken = 0 ∧ (t.pil 0).vault.repairDelay o 0 = 0 ∧
        ((t.modPil 0 fun x => (x.chargeBeat t.clk o 0).pin 0).beat 0 { o with lastRow := some 0 }).isOk = true) ∧
      (let q := { o with taken := 2 }
       let u := streaming q { openRows := [0] }
       (u.pil 0).tile.stream = some q ∧ (u.pil 0).opHeld q = false ∧ u.beatRow 0 q = some 0 ∧
         (u.pil 0).vault.openRows.contains 0 = true) ∧
      ((e.pil 0).tile.ops.find? (fun o => o.ended && (match tileKind o.d.instr with | some k => k < 4 | none => false)) =
          some { o with ended := true } ∧ o.d.slot < 32) ∧
      ((streaming { c with ended := true }).pil 0).tile.ops.find?
          (fun o => o.ended && (match tileKind o.d.instr with | some k => 4 ≤ k | none => false)) =
        some { c with ended := true } := by decide +kernel

/-- Pillar 0 fetches for an operation, with a TLB or without, and no write-back or one. -/
def fetching (o : TileOp) (tlb : List TlbEntry) (bs : List WriteBack := []) : State :=
  ofPillar fun x => { x with
    dataTlb := tlb, tileTlb := tlb, tile := { x.tile with fetches := [o], writeBacks := bs },
    segs := x.segs.set 15 { lenKb := 1, baseKb := 4, state := 1 },
    tags := { x.tags with slots := NatMap.set {} 15 { state := 1 } } }

/-- A CFETCH whose bytes arrive and one whose translation faults; a TFILL that arrives; write-backs that are performed and that
fault (`FetchAndFillEvents`). -/
theorem witness_fetches :
    let c := operation (.cfetch {}) 15 0 4096
    let f := operation (.tfill {}) 15
    let b : WriteBack := { strand := 0, seq := 0, lvl := 0, va := 0, block := {}, bad := {} }
    let s := fetching c [entryTo 0]
    let n := fetching c []
    let t := fetching f [entryTo 0] [b]
    let w (s : State) : Walker := s.engineWalker 0 0 true
    let v (s : State) (o : TileOp) : Walker := s.opWalker 0 o.d (matched := o.matched.isSome)
    let free (s : State) (o : TileOp) : Prop := s.wormHeld 0 o.d.strand = false ∧ s.fetchHeld 0 o o.d.gd.bits = false
    let copied (s : State) : State × Option Stop :=
      State.copyIn (v s c) c.d.gd.bad 1024 (s.noteBulk (v s c) .tile c.d.gd.bits) c.d.gd.bits c.d.aux 1024
    ((s.pil 0).tile.fetch (fun i => match i with | .cfetch _ => true | _ => false) 15 = some c ∧
        c.d.instr = .cfetch {} ∧ free s c ∧ (copied s).2 = none ∧ ((s.pil 0).seg 15).lenKb * 1024 = 1024) ∧
      (free n c ∧ ∃ e, (copied n).2 = some e ∧ n.holdOff e = none) ∧
      ((t.pil 0).tile.fetch (fun i => match i with | .tfill _ => true | _ => false) 15 = some f ∧
        f.d.instr = .tfill {} ∧ free t f ∧ (t.readBytes (v t f) .tile f.d.gd.bits 1024).isOk = true ∧ ((t.pil 0).tags.slot 15).state = 1 ∧
        (t.pil 0).tile.writeBacks = [b]) ∧
      (t.wormHeld 0 b.strand = false ∧ t.writeBackHeld 0 b = false ∧
        (t.writeBytes { w t with discard := !b.matched && t.discards 0 b.strand } b.va 1024 b.block b.badBytes 0 {}).isOk = true) ∧
      (let u := fetching f [] [b]
       u.writeBackHeld 0 b = false ∧ ∃ e, u.holdOff e = none ∧
         u.writeBytes { w u with discard := !b.matched && u.discards 0 b.strand } b.va 1024 b.block b.badBytes 0 {} = .error e) := by
  refine ⟨by decide +kernel, ⟨by decide +kernel, .trap 0x05 0, by decide +kernel, by decide +kernel⟩, by decide +kernel,
    by decide +kernel, by decide +kernel, .trap 0x05 0, by decide +kernel, by decide +kernel⟩

/-- The package at a clk, stack 0 out of reset, with a vault. -/
def ticking (clk : Nat) (v : Vault) : State :=
  { ofPillar fun x => { x with vault := v } with clk := clk, stackUnits := Vector.replicate 4 { running := true } }

/-- The last clk of a refresh window and the first after it; an epoch with a CALENDAR waiting; a layer; a deadline at the present
clk and one a clk later; a beat 4,096 clk late on the last layer (`DramEvents`). -/
theorem witness_dram :
    let v : Vault := {}
    let o := operation (.tld {}) 0 (record (11 * 2048 * 8192) 16 0 0 false false)
    let q := { streaming o { vtherm := word (2 ^ 35) } with clk := 4096 }
    (v.refreshing.get? 0 = none ∧ (ticking 587 v).inRefresh 0 0 = true) ∧
      (((NatMap.set {} 0 0 : NatMap Nat).get? 0).isSome = true ∧
        (ticking 588 { v with refreshing := NatMap.set {} 0 0 }).inRefresh 0 0 = false) ∧
      ((ticking (2 ^ 22) { v with nextCalendar := some 7 }).calclk 0 % 2 ^ 22 = 0 ∧ stackOf 0 = 0 ∧
        ((ticking (2 ^ 22) { v with nextCalendar := some 7 }).pillars.get? 0).isSome = true ∧
        ((ticking (2 ^ 22) { v with nextCalendar := some 7 }).pil 0).vault.nextCalendar = some 7) ∧
      ((NatMap.set {} 9 100).get? 9 = some 100 ∧ 100 ≤ (ticking 100 v).clk ∧ (ticking 99 v).clk < 100) ∧
      (q.pil 0).tile.stream = some o ∧ (q.pil 0).opHeld o = false ∧ q.beatRow 0 o = some (11 * 2048) ∧
      (q.pil 0).vault.vtherm.getLsbD (24 + 11 * 2048 / 2048) = true ∧ o.col < o.d.src.rowBytes ∧
      (q.pil 0).vault.openRows.contains (11 * 2048) = false ∧ (q.pil 0).vault.refreshing.get? (bankOf (11 * 2048)) = none ∧
      4096 ≤ o.late q.clk := by decide +kernel

/-! ## Witnesses: the matrix engine -/

/-- A state with another matrix engine in the current pillar. -/
def withMtx (f : MatrixEngine → MatrixEngine) (s : State) : State := s.modMe fun x => x.modMtx f

/-- Slots 0 to 3 of spool 0 are out, each with a header. -/
def filled (h : SlotHeader) (s : State) : State :=
  withMtx (fun m => ([0, 1, 2, 3].foldl (fun (m : MatrixEngine) j => m.modSlot j fun _ => h) m).setSpool 0 { out := 4, count := 32 }) s

/-- Counts of 32 slots in all, in the last spool; a count field that is reserved; AWAIT on a filled slot, on one that loads and on
one past those out; offsets past the spool; releases with and without readers, and one too many (`SpoolAndSlotResults`). -/
theorem witness_spools :
    let s := regs (word (32 * 2 ^ 42)) 0 0
    let v : Word := word (32 * 2 ^ 42)
    let a := filled { state := 2 } State.reset
    let l := filled { state := 1 } State.reset
    let r := filled { state := 3, readers := 1 } State.reset
    let e (k : BitVec 5) : Fields := { s := k }
    ((s.g 1).bits = v ∧ v.toNat < 2 ^ 48 ∧ (((List.range 8).map fun k => v.toNat / 2 ^ (6 * k) % 64).sum ≤ 32) ∧
        (∀ j < 32, (s.me.mtx.slot j).state ≠ 1 ∧ (s.me.mtx.slot j).state ≠ 4 ∧ (s.me.mtx.slot j).state ≠ 5 ∧
          (s.me.mtx.slot j).readers = 0) ∧
        (∀ u ∈ allStrands, (s.me.strand u).rowprog.getLsbD 63 = false)) ∧
      2 ^ 48 ≤ ((regs (word (2 ^ 48)) 0 0).g 1).bits.toNat ∧
      ((e 3).immU < (a.me.mtx.spool 0).count ∧ (e 3).immU < (a.me.mtx.spool 0).out ∧ (a.me.mtx.slot 3).state = 2 ∧
        (r.me.mtx.slot 3).state = 3 ∧ (l.me.mtx.slot 3).state = 1) ∧
      ((e 4).immU < (a.me.mtx.spool 0).count ∧ (a.me.mtx.spool 0).out ≤ (e 4).immU) ∧
      (a.me.mtx.spool 0).count ≤ ({ imx := [1] } : Fields).immU ∧
      ((e 4).immU ≤ (a.me.mtx.spool 0).out ∧ (a.me.mtx.spool 0).out ≤ (a.me.mtx.spool 0).count ∧
        (a.me.mtx.spool 0).base + (a.me.mtx.spool 0).count ≤ 32 ∧ (∀ i < 4, (a.me.mtx.slot i).state ≠ 1) ∧
        (a.me.mtx.slot 3).readers = 0 ∧ (∀ i < 4, (r.me.mtx.slot i).state ≠ 1) ∧ (r.me.mtx.slot 3).readers ≠ 0) ∧
      (a.me.mtx.spool 0).out < (e 5).immU := by decide +kernel

/-- Each answer of the schedule check, at the last offset that is out; an SLDV that passes it; an SSTV that seals and one that does
not (`SpoolAndSlotResults`). -/
theorem witness_slot_transfers :
    let v : Word := word (3 * 2 ^ 13 + 64 + 7 * 2 ^ 48)
    let a := filled { state := 2, tag := 7 } (regs v 0 0)
    let q := a.me.mtx.spool 0
    let w : Word := word (16 * 2 ^ 16 + 64 * 2 ^ 30)
    let b := filled { state := 2 } (regs w 0 0)
    let f : Fields := { s := 1 }
    let g : Fields := { s := 1, mod := 8 }
    (q.count ≤ 32 ∧ q.out ≤ 4 ∧ 3 < q.out ∧ (a.me.mtx.slot 3).state = 2 ∧ (a.me.mtx.slot 3).tag.toNat = 7) ∧
      (((filled { state := 1, splitter := some 1 } State.reset).me.mtx.slot 3).splitter ≠ some 0) ∧
      ((filled { state := 3 } State.reset).me.mtx.slot 3).state = 3 ∧
      ((a.g f.sNum).bits = v ∧ v.toNat % 64 = 0 ∧ v.toNat / 2 ^ 16 % 2 ^ 32 = 0 ∧
        a.schedCheck 0 (v.bits 15 13) (v.bits 63 48) 0 = .ok 3 ∧ a.canDispatch .matrix = true) ∧
      ((b.g g.sNum).bits = w ∧ w.toNat % 64 = 0 ∧ w.bits 15 13 = 0 ∧ (b.me.mtx.spool 0).count ≠ 0 ∧
        (b.me.mtx.spool 0).out ≠ (b.me.mtx.spool 0).count ∧ b.canDispatch .matrix = true ∧ (b.me.mtx.slot 4).state ≠ 5 ∧
        (b.me.mtx.slot 4).state ≠ 1 ∧ g.mod.getLsbD 3 = true ∧ sealOk w = true) ∧
      ({ s := 1 } : Fields).mod.getLsbD 3 = false ∧ (word (2 ^ 16 - 64)).toNat < 2 ^ 16 := by decide +kernel

/-- The strand's FMT (R52). -/
def withFmt (v : Word) (s : State) : State := s.modSt fun r => { r with fmt := v }

/-- A formed loom of two pillars, past its first LOOMGO. -/
def loomed (s : State) : State :=
  withMtx (fun m => { m with loom := some { col0 := 0, members := [0, 1], formed := true, strand := 0, gos := 1 } }) s

/-- The registers of a product in {d, g1, g2}. -/
def product (d : BitVec 5) (mod : BitVec 7 := 0) : Fields :=
  { mod := mod, d := d, s := 1, reg := some { dh := false, sh := false, t := 2, q := 0 } }

/-- Another strand's open batch targets tile 0. -/
def taken : State :=
  ofPillar fun x => x.modStrand 1 fun t => { t with batches := { t.batches with current := { t.batches.current with tiles := [0] } } }

/-- A product of 64 × 64 × 64 halves; one of blocks of 32; one of a loom of two in the last tiles; a product by a vector of 64
halves; a tile that is free and one that another strand's batch targets (`MatrixDispatch`). -/
theorem witness_products :
    let x : Word := word (2 ^ 35)
    let y : Word := word (63 + 63 * 64 + 63 * 4096)
    let h : SlotHeader := { state := 2, type := 8, orows := 64, olen := 128 }
    let s := filled h (regs x y 0)
    let yb : Word := word (63 + 63 * 64 + 31 * 4096 + 2 ^ 31)
    let hb : SlotHeader := { state := 2, type := 14, orows := 64, olen := 17 }
    let sb := withFmt 0xEE00 (filled hb (regs x yb 0))
    let k := loomed s
    let z : Word := word (63 * 2 ^ 19 + 63 * 2 ^ 31)
    let sv := filled h (regs z 0 0)
    let d := s.capture (.mma (product 15))
    let db := sb.capture (.mmabs (product 15))
    let dv := sv.capture (.mmv (product 15))
    let g := geometryOf y
    let gb := geometryOf yb
    (s.canDispatch .matrix = true ∧ d.gs.bits = x ∧ d.gt.bits = y ∧ mmaPair d.ma d.mb = true ∧ x.toNat < 2 ^ 38 ∧ y.toNat < 2 ^ 40 ∧
        s.schedCheck 0 (x.bits 34 32) (x.bits 15 0) 0 = .ok 0 ∧ s.schedCheck 0 (x.bits 37 35) (x.bits 31 16) 1 = .ok 1 ∧
        typeCode h.type = d.ma ∧ typeCode h.type = d.mb ∧ g.fits h h d.ma.width d.mb.width = true ∧
        (s.me.mtx.slot 1) = h ∧ (s.me.mtx.tile 15).kind = kindFor d.ma ∧ s.me.tileFree 0 true 15 = true) ∧
      (db.ma = .e2m1 ∧ db.mb = .e2m1 ∧ sb.schedCheck 0 (x.bits 34 32) (x.bits 15 0) 0 = .ok 0 ∧
        sb.schedCheck 0 (x.bits 37 35) (x.bits 31 16) 1 = .ok 1 ∧ typeCode hb.type = db.ma ∧
        gb.fits hb hb db.ma.width db.mb.width = true ∧ gb.bkm = true ∧ gb.k0 = 0 ∧ gb.k % 32 = 0 ∧ gb.k * 17 / 32 ≤ hb.olen ∧
        (sb.me.mtx.tile 15).kind = kindFor db.ma) ∧
      (k.loomCheck = .ok 2 ∧ (product 14 64).dNum + 2 ≤ 16 ∧ (product 14 64).mod.getLsbD 6 = true ∧
        ∀ t ∈ [14, 15], (k.me.mtx.tile t).kind = 1 ∧ k.me.tileFree 0 true t = true) ∧
      (dv.gs.bits = z ∧ mmaPair dv.ma dv.mb = true ∧ z.toNat < 2 ^ 46 ∧ sv.schedCheck 0 (z.bits 18 16) (z.bits 15 0) 0 = .ok 0 ∧
        z.bits 24 19 + 1 ≤ h.orows ∧ (32 * z.bits 45 38 + (z.bits 37 31 + 1)) * dv.ma.width ≤ h.olen * 8 ∧
        z.bits 37 31 + 1 ≤ 2 * (512 / dv.mb.width) ∧ (product 15).tNum % 2 = 0) ∧
      s.me.tileFree 0 true 0 = true ∧ taken.me.tileFree 0 true 0 = false := by decide +kernel

/-- A move of half a tile from its last row on, and of a whole tile at the end of local store; DRAINs of both forms
(`MatrixDispatch`). -/
theorem witness_tile_moves :
    let s := regs 0x5C000 256 0
    let f : Fields := { s := 1 }
    let p : Fields := { mod := 32, s := 1, qual := qual 10 1 }
    let dr : Fields := { d := 0, s := 3, reg := some { dh := false, sh := false, t := 2, q := 0 } }
    let dl : Fields := { dr with mod := 64 }
    let kind := (s.me.mtx.tile 0).kind
    (s.canDispatch .matrix = true ∧ moveRow0 f + moveRows f ≤ 64 ∧ moveRow0 p + moveRows p ≤ 64 ∧
        s.me.tileFree s.curT false 0 = true ∧ moveType kind f = .ok .f32 ∧ moveType kind p = .ok .f32) ∧
      (s.addrClean f ∧ (s.effAddr f).toNat % 8 = 0 ∧ s.me.xb ≤ (s.effAddr f).toNat ∧
        (s.effAddr f).toNat + moveRows f * 64 * 4 ≤ lsEnd ∧ s.me.vectorBusy s.curT (s.effAddr f).toNat (moveRows f * 64 * 4) = false ∧
        moveFloat .f32 = true ∧ moveRows p ≠ 64 ∧ moveKind .f32 = kind ∧ moveRows f = 64 ∧ storeTypeOk kind .f32 = true) ∧
      (s.addrClean p ∧ (s.effAddr p).toNat + moveRows p * 64 * 4 ≤ lsEnd ∧
        s.me.vectorBusy s.curT (s.effAddr p).toNat (moveRows p * 64 * 4) = false) ∧
      drainFields (dr.mod.getLsbD 6) (s.capture (.drain dr)).gs.bits (s.capture (.drain dr)).gt.bits 4 = true ∧
      dl.mod.getLsbD 6 = true ∧
      drainFields (dl.mod.getLsbD 6) (s.capture (.drain dl)).gs.bits (s.capture (.drain dl)).gt.bits 4 = true := by
  simp only [State.addrClean]; decide +kernel

/-- The strand's batches. -/
def batched (last done : BitVec 32) : State :=
  ofStrand fun r => ({ r with batches := { r.batches with last := last, done := done } } : Strand).setReg 1 { bits := 4 }

/-- Three and four batches under way; waits for a batch that has finished, for the last that has not, and for one that has not been
given (`BatchAndLoomResults`). -/
theorem witness_batches :
    let three := batched 3 0
    let four := batched 4 0
    let done := batched 4 4
    ((three.st.batches.last - three.st.batches.done).toNat < 4 ∧ 4 ≤ (four.st.batches.last - four.st.batches.done).toNat ∧
        four.destFree 8) ∧
      ((done.g 1).bits.setWidth 32 = done.st.batches.last ∧ (done.st.batches.last - 4).toNat < 2 ^ 31 ∧
        done.st.deliverable = none ∧ (done.st.batches.done - 4).toNat < 2 ^ 31) ∧
      (((four.g 0).bits.setWidth 32 : BitVec 32) = 0 ∧ (four.st.batches.last - four.st.batches.last).toNat < 2 ^ 31 ∧
        2 ^ 31 ≤ (four.st.batches.done - four.st.batches.last).toNat) ∧
      2 ^ 31 ≤ (three.st.batches.last - (three.g 1).bits.setWidth 32).toNat := by
  simp only [State.destFree]; decide +kernel

/-- A job on pillars 0 and 1, whose claim of a loom g1 holds; the looms of the two. -/
def loomJob (mine other : Option Loom) : State :=
  let job : Job := { number := 0, record := {}, queue := 0, asid := 0, pri := 0, rect := some { row0 := 0, col0 := 0, hgt := 1, wid := 2 } }
  let x : Pillar := { job := some 0, strands := Vector.replicate 4 (Strand.reset.setReg 1 { bits := 32 }) }
  let put (l : Option Loom) : Pillar := x.modMtx fun m => { m with loom := l }
  { State.reset with pillars := ((NatMap.set {} 0 (put mine)).set 1 (put other)), launch := { State.reset.launch with jobs := [job] } }

/-- A claim that completes its loom, one that does not, and one that conflicts; a pillar in another loom, in a broken one, in one it
has joined, in one just formed and in one that waits; a claim with a reserved field; LOOMGO on a broken loom, with a verdict of each
kind, with the other member waiting in its own, with the other not there yet, and without a loom; a loom that is broken, one that is
busy, and one that is not (`BatchAndLoomResults`). -/
theorem witness_looms :
    let l : Loom := { col0 := 0, members := [0, 1], strand := 0 }
    let v : Word := 32
    let has (s : State) (o : Loom) : Bool := s.me.mtx.loom == some o
    let alone := loomJob none none
    let second := loomJob none (some { l with strand := 1 })
    let clash := loomJob none (some { l with members := [1, 2] })
    let in_ (o : Loom) : State := loomJob (some o) (some { l with formed := true })
    let formed := in_ { l with formed := true }
    let ready := loomJob (some { l with formed := true }) (some { l with formed := true, gos := 1, waiting := true })
    let claim (o : Loom) := (o.members, o.formed)
    let goes (o : Loom) := (o.gos, o.waiting, o.verdict, o.count)
    (v.toNat < 512 ∧ (alone.g 1).bits = v ∧ alone.loomMembers 0 (v.bits 4 0) (v.bits 8 5 + 1) = some [0, 1] ∧
        alone.me.mtx.loom = none ∧ alone.loomConflicts 0 l = [] ∧ alone.claimOf 1 = none ∧
        second.loomConflicts 0 l = [] ∧ (∀ q ∈ l.members, q ≠ 0 → (second.claimOf q).map claim = some ([0, 1], false)) ∧
        clash.loomConflicts 0 l = [1] ∧ clash.me.mtx.loom = none) ∧
      ([{ l with members := [0] }, { l with broken := true }, { l with joined := true, formed := true }, { l with formed := true },
          l].all fun o => has (in_ o) o) = true ∧
      (512 ≤ ((regs 512 0 0).g 1).bits.toNat ∧ (regs 0 0 0).loomMembers 0 0 1 = none) ∧
      (has (in_ { l with formed := true, broken := true }) { l with formed := true, broken := true } = true ∧
        ([0, 6].all fun c => let o := { l with formed := true, waiting := true, verdict := some c }; has (in_ o) o) = true ∧
        (0 : PillarId) ∈ l.members ∧ l.strand = alone.curT) ∧
      ((∀ q ∈ l.members, q ≠ 0 → (ready.claimOf q).map goes = some (1, true, none, 0)) ∧
        (formed.claimOf 1).map goes = some (0, false, none, 0)) ∧
      formed.me.loomBusy = false ∧
      (formed.modMe fun x => x.modMtx fun m => { m with array := some { d := queued (.mma (product 0 64)) } }).me.loomBusy = true := by
  refine ⟨⟨by decide, by decide +kernel, by decide +kernel, by decide +kernel, by decide +kernel, by decide +kernel, by decide +kernel,
    by decide +kernel, by decide +kernel, by decide +kernel⟩, by decide +kernel, by decide +kernel, by decide +kernel,
    by decide +kernel, by decide +kernel, by decide +kernel⟩

/-- Slots 0 to 3 of spool 0 are out, with tags 0 to 3; spool 1 has 8 slots. -/
def slotted (h : SlotHeader) (s : State) : State :=
  withMtx (fun m => (([0, 1, 2, 3].foldl (fun (m : MatrixEngine) j => m.modSlot j fun _ => { h with tag := BitVec.ofNat 16 j }) m).setSpool 0
    { out := 4, count := 16 }).setSpool 1 { count := 8, base := 16 }) s

/-- A group of two plies in tiles 14 and 15. -/
def grouped (s : State) : State :=
  withMtx (fun m => [14, 15].foldl (fun (m : MatrixEngine) t => m.modTile t fun h => { h with kind := 2, plies := 2 }) m) s

/-- A split of 64 × 128 floats into eight plies, and a scan (`PlyDispatch`). -/
theorem witness_splits :
    let x : Word := word (7 * 2 ^ 38)
    let h : SlotHeader := { state := 2, type := 10, orows := 64, olen := 512 }
    let sp := slotted h (regs x 0 0)
    let ss := slotted h (regs 0 0 0)
    let f := product 1
    let z := product 0 64
    (sp.canDispatch .matrix = true ∧ (sp.capture (.psplita f)).gs.bits = x ∧ x.toNat < 2 ^ 41 ∧ f.tNum % 2 = 0 ∧
        sp.schedChecks (f.mod.toNat % 8) (x.bits 34 32) (x.bits 15 0) 0 (x.bits 37 35 + 1) = .ok [0] ∧
        typeCode (sp.me.mtx.slot 0).type = .f32 ∧ (sp.me.mtx.slot 0).orows ≤ 64 ∧ (sp.me.mtx.slot 0).olen / 4 ≤ 128 ∧
        ((MatrixEngine.takeWriteSlots f.dNum 8 sp.me.mtx).toOption.map (·.2)) = some [16, 17, 18, 19, 20, 21, 22, 23]) ∧
      z.mod.getLsbD 6 = true ∧ z.dNum = 0 ∧ (ss.capture (.psplitb z)).gs.bits = 0 ∧
      ss.schedChecks (z.mod.toNat % 8) 0 0 0 1 = .ok [0] := by decide +kernel

/-- A first product of two plies in the last tiles, a further one, and one of a loom whose root is another pillar
(`PlyDispatch`). -/
theorem witness_ply_products :
    let v : Word := word (2 * 2 ^ 35 + 2 * 2 ^ 16)
    let y : Word := word (63 + 63 * 64 + 127 * 4096 + 2 ^ 19 + 2 ^ 22)
    let yl : Word := word (63 + 63 * 64 + 127 * 4096 + 2 ^ 19 + 2 ^ 23)
    let i8 : SlotHeader := { state := 2, type := 0, orows := 64, olen := 128 }
    let sm := slotted i8 (regs v y 0)
    let sg := grouped (slotted i8 (regs v (y - word (2 ^ 22)) 0))
    let sl := loomed (grouped (slotted i8 (regs v yl 0)))
    ((sm.capture (.pmma (product 14))).gs.bits = v ∧ v.toNat < 2 ^ 38 ∧ (product 14).dNum + 2 ≤ 16 ∧ y.toNat < 2 ^ 23 ∧
        sm.canDispatch .matrix = true ∧ sm.schedChecks 0 (v.bits 34 32) (v.bits 15 0) 0 2 = .ok [0, 1] ∧
        sm.schedChecks 0 (v.bits 37 35) (v.bits 31 16) 1 2 = .ok [2, 3] ∧
        (∀ k ∈ [0, 1, 2, 3], typeCode (sm.me.mtx.slot k).type = .i8 ∧ y.bits 5 0 + 1 ≤ (sm.me.mtx.slot k).orows ∧
          y.bits 11 6 + 1 ≤ (sm.me.mtx.slot k).orows ∧ y.bits 18 12 + 1 ≤ (sm.me.mtx.slot k).olen) ∧
        y.getLsbD 22 = true ∧ ∀ t ∈ [14, 15], sm.me.tileFree sm.curT true t = true) ∧
      ((sg.g 2).bits.getLsbD 22 = false ∧ sg.groupCheck 14 2 [14, 15] = .ok ()) ∧
      (product 14 64).mod.getLsbD 6 = true ∧ yl.toNat < 2 ^ 27 ∧ sl.loomCheck = .ok 2 ∧ yl.bits 26 23 = 1 ∧
      ([0, 1] : List PillarId)[1]? ≠ some sl.curP ∧ sl.schedChecks 0 (v.bits 37 35) (v.bits 31 16) 1 2 = .ok [2, 3] ∧
      sl.groupCheck 14 2 [14, 15] = .ok () := by decide +kernel

/-- A join of a whole tile at the end of local store (`PlyDispatch`). -/
theorem witness_ply_join :
    let j : Word := word (0x58000 + 512 * 2 ^ 20 + 63 * 2 ^ 36 + 63 * 2 ^ 42)
    let s := grouped (regs j 0 0)
    let f : Fields := { d := 14, s := 1, reg := some { dh := false, sh := false, t := 4, q := 0 } }
    ((s.capture (.pjoin f)).gs.bits = j ∧ j.toNat < 2 ^ 48 ∧ j.getLsbD 19 = false ∧ f.tNum % 4 = 0 ∧
        (s.me.mtx.tile 14).plies = 2 ∧ f.dNum + 2 ≤ 16 ∧ s.canDispatch .matrix = true ∧
        (∀ t ∈ [14, 15], (s.me.mtx.tile t).kind = 2 ∧ (s.me.mtx.tile t).plies = 2 ∧ s.me.tileFree s.curT true t = true)) ∧
      j.bits 35 20 % 8 = 0 ∧ (j.bits 47 42 + 1) * 8 ≤ j.bits 35 20 ∧ j.toNat % 2 ^ 19 % 8 = 0 ∧ s.me.xb ≤ j.toNat % 2 ^ 19 ∧
      j.toNat % 2 ^ 19 + joinLen j 8 ≤ lsEnd ∧ s.me.vectorBusy s.curT (j.toNat % 2 ^ 19) (joinLen j 8) = false ∧ s.destFree 63 := by
  simp only [State.destFree]; decide +kernel

/-- Units with nothing, an MZERO, an SLDV of v31; steps of a loom that is broken, whose other member has not come, and whose members
are all there; a DRAIN with its rows read out; an integer product (`MatrixCompletion`). -/
theorem witness_matrix_completion :
    let on (o : MatrixOp) : State := ofPillar fun x => { x with mtx := { x.mtx with array := some o } }
    let z : MatrixOp := { d := queued (.mzero { d := 15 }) }
    let v : MatrixOp := { d := queued (.sldv { d := 31 }) (packSlots [31]) }
    let port := ofPillar fun x => { x with mtx := { x.mtx with port := some v } }
    let st : MatrixOp := { d := queued (.mma (product 14 64)), started := false }
    let l : Loom := { col0 := 0, members := [0, 1], formed := true, strand := 0 }
    let put (b : Bool) (o : Option MatrixOp) : Pillar :=
      { Pillar.reset with mtx := { Pillar.reset.mtx with loom := some { l with broken := b }, array := o } }
    let two (b : Bool) (o : Option MatrixOp) : State :=
      { State.reset with pillars := (NatMap.set {} 0 (put b (some st))).set 1 (put b o) }
    let dr : DrainOp := { d := queued (.drain {}), bytes := {}, bad := {} }
    let sd := ofPillar fun x => { x with mtx := { x.mtx with drains := [dr] } }
    let i : MatrixOp := { d := { queued (.mma (product 15)) (packSlots [0, 1]) with gt := { bits := word (63 + 63 * 64 + 63 * 4096) } } }
    ((State.reset.pil 1023).mtx.array = none ∧ (State.reset.pil 1023).mtx.port = none) ∧
      (((on z).pil 0).mtx.array = some z ∧ z.started = true) ∧ ((port.pil 0).mtx.port = some v ∧ (31 : BitVec 5).toNat < 32) ∧
      (((two true none).pil 0).mtx.loom = some { l with broken := true } ∧ (two true none).waitingStep 0 = some st.d) ∧
      (((two false none).pil 0).mtx.loom = some l ∧ 1 ∈ l.members ∧ (two false none).waitingStep 1 = none) ∧
      (∀ q ∈ l.members, ((two false (some st)).waitingStep q).map loomKey = some (loomKey st.d)) ∧
      ((sd.pil 0).mtx.drains.find? (fun o => o.d.strand == 0) = some dr ∧ sd.integrity.held = [] ∧
        sd.drainOutgoing 0 dr {} = false) ∧
      (((on i).pil 0).mtx.array = some i ∧ i.started = true ∧ (product 15).mod.getLsbD 6 = false ∧ byteInt i.d.ma = true ∧
        byteInt i.d.mb = true ∧ (product 15).dNum < 16 ∧ (geometryOf i.d.gt.bits).m = 64) := by decide +kernel

/-! ## Witnesses: drafts and the shuttle -/

/-- A translation of 2^36 addresses from va on. -/
def entryAtVa (va pa : Nat) (allot : BitVec 2 := 0) : TlbEntry :=
  { asid := 0, global := true, va := va, bits := 36, pa := pa, user := true, write := true, allot := allot }

/-- Vault addresses from 0, tier addresses from 2^36, and compressed ones from 2^37, for the pillar and for the shuttle. -/
def tiered (s : State) : State :=
  let l := [entryAtVa 0 0, entryAtVa (2 ^ 36) (2 ^ 46), entryAtVa (2 ^ 37) (2 ^ 46 + 2 ^ 20) 3]
  let t := s.modMe fun x => { x with dataTlb := l, tileTlb := l }
  { t with safelight := { s.safelight with ready := 0x10000 }, stackUnits := Vector.replicate 4 { running := true, tlb := l } }

/-- The 32 bytes of a draft entry or a command (R268). -/
def entryBytes (trigger due tierVa vaultVa len op : Nat) : Nat :=
  trigger + due * 2 ^ 32 + tierVa * 2 ^ 64 + vaultVa * 2 ^ 128 + len * 2 ^ 192 + op * 2 ^ 224

/-- A job on pillar 0 with VBUDGET in MiB and SHAPE. -/
def withJob (budget shape : Nat) (s : State) : State :=
  let job : Job := { number := 0, record := { ctx := word budget, shape := word shape }, queue := 0, asid := 0, pri := 0
                     rect := some { row0 := 0, col0 := 0, hgt := 1, wid := 1 } }
  { s.modMe fun x => { x with job := some 0 } with launch := { s.launch with jobs := [job] } }

/-- A draft installed for pillar 0. -/
def drafted (es : List DraftEntry) (s : State) : State :=
  let d : Draft := { number := 0, job := 0, rect := { row0 := 0, col0 := 0, hgt := 1, wid := 1 }, va := 0, asid := 0, entries := es }
  { s with drafts := [d] }

/-- A misaligned address; a draft already installed; one refused for want of a budget, and one of one entry that is installed;
releases with nothing installed, with every entry ended and with one moving (`DraftInstallAndRelease`). -/
theorem witness_drafts :
    let s := tiered (regs 0x1000 0x1001 0)
    let t : State := { s with mem := (Memory.write {} 0x1000 32 1).write 0x1020 32 (entryBytes 0 0 (2 ^ 36) 0x2000 64 0) }
    let ended := drafted [{ state := 4 }, { state := 6 }] s
    s.destFree 63 ∧ (s.g 2).bits.toNat % 32 ≠ 0 ∧ (s.g 1).bits.toNat % 32 = 0 ∧ s.draftOf s.curP = none ∧
      (ended.draftOf ended.curP).isSome = true ∧
      (match s.checkDraft s.curP s.walker 0x1000 true with | .ok (_, .refused c i q) => c == 2 && i == 0 && q == 0 | _ => false) = true ∧
      (match (withJob 1 0 t).checkDraft s.curP (withJob 1 0 t).walker 0x1000 true with
        | .ok (_, .installed es) => es.length == 1 | _ => false) = true ∧
      ((((ended.draftOf 0).map ended.cancelQueued).bind fun t => t.draftOf 0).map fun d => d.entries.all fun e => 4 ≤ e.state) =
        some true ∧
      let moving := drafted [{ state := 4 }, { state := 2 }] s
      ((((moving.draftOf 0).map moving.cancelQueued).bind fun t => t.draftOf 0).map fun d => d.entries.any fun e => e.state < 4) =
        some true := by
  simp only [State.destFree]; decide +kernel

/-- PICK 1 with no draft, with the entry due by 1 done, failed and moving, with DSTALL and without; handles of an entry, of a draft that is
not there, and of a command slot of this and of another generation; each side of state 4 (`PickAndDraftStatus`). -/
theorem witness_picks :
    let f : Fields := { s := 1 }
    let e (n : Nat) : DraftEntry := { due := 1, state := n }
    let s := State.reset
    let c : CommandSlot := { gen := 1, command := some (e 5) }
    let k := (regs (word (2 ^ 15 + 1 * 16 + 15)) 0 0).modMe fun x => x.modCmd 15 fun _ => c
    f.immU = 1 ∧ s.draftOf s.curP = none ∧
      (∀ n ∈ [2, 4, 5], ∃ d, (drafted [e n] s).draftOf s.curP = some d ∧ d.entries = [e n]) ∧ (e 4).pillar = s.curP ∧ (e 4).due ≤ f.immU ∧
      ((withJob 1 (2 ^ 27) (drafted [e 2] s)).count 0x491).dstall 0 = true ∧ (((drafted [e 2] s)).count 0x491).dstall 0 = false ∧
      s.destFree 8 ∧ (s.handleStatus 0).toNat % 16 = 7 ∧ ((drafted [e 2] s).handleStatus 0).toNat % 16 < 4 ∧
      4 ≤ ((drafted [e 4] s).handleStatus 0).toNat % 16 ∧
      ((k.g 1).bits.toNat % 2 ^ 16 = 2 ^ 15 + 1 * 16 + 15 ∧ (k.me.cmd 15).gen.toNat = 1 ∧ (k.me.cmd 15).command = some (e 5)) ∧
      (s.me.cmd 15).gen.toNat ≠ 1 := by
  simp only [State.destFree]
  refine ⟨by decide +kernel, by decide +kernel, ?_, by decide +kernel⟩
  intro n hn
  simp only [List.mem_cons, List.not_mem_nil, or_false] at hn
  rcases hn with rfl | rfl | rfl <;> exact ⟨_, rfl, by decide +kernel⟩

/-- Every command slot before a number holds a command that moves. -/
def commanding (n : Nat) (s : State) : State :=
  s.modMe fun x => (List.range n).foldl (fun (x : Pillar) j => x.modCmd j fun c => { c with command := some { state := 2 } }) x

/-- A fetch that takes the last command slot, one that finds none, a pin that the budget refuses, and an unpin of all that is pinned
(`DirectCommandResults`). -/
theorem witness_commands :
    let put (op n : Nat) : State :=
      let tv := if op < 2 then 2 ^ 36 else 0
      commanding n (tiered ((regs 0 0 0).modMe fun x => { x with
        ls := { x.ls with bytes := Memory.write {} 0 32 (entryBytes 0 0 tv 0x2000 64 op) }, pinBase := if op = 3 then 64 else 0 }))
    (∀ op ∈ [0, 1, 2, 3],
        let s := put op 15
        s.destFree 8 ∧ (match s.readCommand (s.g 1).bits op with
          | .ok e => (match s.commandPillar e with
            | .ok (t, p) => p == 0 && (op == 2) == (t.pinResult p e).isNone &&
              ((List.range 15).all fun j => !(t.me.cmd j).free) && (t.me.cmd 15).free
            | _ => false)
          | _ => false) = true ∧ s.twinned s.curP = false) ∧
      (List.range 16).all (fun j => !((put 0 16).me.cmd j).free) = true := by
  simp only [State.destFree]; decide +kernel

/-- The shuttle of stack 0 works on some work. -/
def shuttling (w : ShuttleJob) (s : State) : State := s.modQueue 0 fun _ => [w]

/-- A command that has moved all of its bytes, a pin, and one that failed; a pillar without a draft, a draft whose entry is reached, an
entry that is done moving and one that is queued; moves of plain and of compressed blocks, and work that cannot move; records that are
free, that RETRY writes to a plain page and that DROP drops (`ShuttleEvents`). -/
theorem witness_shuttle :
    let cmd (e : DraftEntry) : State := tiered (ofPillar fun x => x.modCmd 15 fun c => { c with command := some e })
    let e : DraftEntry := { state := 2, len := 64, tierVa := word (2 ^ 36), vaultVa := 0x2000 }
    let z : DraftEntry := { state := 2, len := 4096, tierVa := word (2 ^ 37), vaultVa := 0x2000, z := true }
    let moves (e : DraftEntry) : State := shuttling (.command 0 15) (cmd e)
    let d := drafted [{ e with moved := 1 }, { e with state := 1 }] State.reset
    let g : GrowthRecord :=
      { va := word (2 ^ 36), allot := 0, asid := 0, handle := 0x800F, coded := 1, work := .command 0 15, job := 0, block := {} }
    let r := (cmd e).modStack 0 fun k => { k with shuttle := { k.shuttle with records := NatMap.set {} 63 g } }
    (((cmd { e with moved := 1 }).pil 0).cmd 15).command = some { e with moved := 1 } ∧ (1 * 64 = e.len ∧ e.grown = 0) ∧
      ((((cmd { e with op := 2 }).pil 0).cmd 15).command.isSome = true) ∧ (((cmd { e with err := 1 }).pil 0).cmd 15).command.isSome = true ∧
      State.reset.draftOf 0 = none ∧ (d.draftOf 0).isSome = true ∧
      ((d.draftOf 0).map fun d => (d.entries[0]?.map (·.moved), d.entries[1]?.map (·.state))) = some (some 1, some 1) ∧
      ((moves e).workOf 0 (.command 15) = some (.command 0 15) ∧ (moves e).workEntry (.command 0 15) = some e ∧
        (moves e).canMove (.command 0 15) e = true ∧ (cmd e).canMove (.command 0 15) e = false) ∧
      (let s := ((moves e).modWork (.command 0 15) fun e => { e with state := 2 }).modQueue 0 (rotateWork (.command 0 15) (.command 0 15))
       (State.moveParts (.command 0 15) (s.shuttleWalker (.command 0 15) 0) (s.vaultOk (.command 0 15) e) 64 s e).2.isNone = true) ∧
      ((moves z).canMove (.command 0 15) z = true ∧
        (let s := ((moves z).modWork (.command 0 15) fun e => { e with state := 2 }).modQueue 0 (rotateWork (.command 0 15) (.command 0 15))
         (s.moveCompressed (.command 0 15) (s.shuttleWalker (.command 0 15) 0) (s.vaultOk (.command 0 15) z) z).isOk = true)) ∧
      (State.reset.stack 0).shuttle.records.get? 63 = none ∧ (r.stack 0).shuttle.records.get? 63 = some g ∧ r.ownsGrowth g = true ∧
      (let u := r.setGrowth 0 63 { g with retrying := true }
        let k := u.growthWalker 0 { g with retrying := true }
        match u.moveXlate k .write g.va 1 with
        | .ok (_, x) => (match placeOf x.pa with | .tier _ => x.entry.allot == 0 | _ => false) | _ => false) = true ∧
      g.request = none ∧ (((moves e).movers 0).getLast?).getD (.command 0 15) = .command 0 15 := by
  decide +kernel

/-! ## Witnesses: messages and procedures -/

/-- Strand 0 has n procedures outstanding. -/
def awaiting (n : Nat) (s : State) : State :=
  s.modMe fun x => { x with msg := { x.msg with outstanding := List.replicate n (0, 0) } }

/-- Fields d = 1 and s = 2. -/
def twoSources : Fields := { d := 1, s := 2 }

/-- Aligned and misaligned addresses, with 15 and with 16 procedures outstanding; the largest operands of RFILL, RSIG, RCOPY and SEND, to
a pillar and to a host queue, and operands one past them (`MessageDispatch`). -/
theorem witness_message_dispatch :
    let free := awaiting 15 State.reset
    let s := regs 0x1001 0 0
    let fill := regs (word (1023 * 2 ^ 48 + 0x7FFF8)) 0 0
    let sig := regs 1023 0 0
    let copy (b : Nat) : State := regs 64 (word b) 0
    let b := 1023 * 2 ^ 48 + 6144 * 2 ^ 32 + 0x5FFC0
    let send (a b : Nat) : State := regs (word a) (word b) 0
    let host := send (2 ^ 10 + 15) (512 * 2 ^ 19 + (0x60000 - 512))
    (free.me.outstandingOf 0 < 16 ∧ free.canDispatch .message = true ∧ ¬ (awaiting 16 State.reset).me.outstandingOf 0 < 16) ∧
      (s.addrClean base1 ∧ (s.effAddr base1).toNat % 8 ≠ 0 ∧ free.addrClean base1 ∧ (free.effAddr base1).toNat % 64 = 0 ∧ free.destFree 8) ∧
      ((fill.effAddr base1).toNat / 2 ^ 58 = 0 ∧ (fill.effAddr base1).toNat / 2 ^ 19 % 2 ^ 29 = 0 ∧
        (fill.effAddr base1).toNat % 8 = 0 ∧ (s.effAddr base1).toNat % 8 ≠ 0) ∧
      ((sig.g (rrA twoSources)).bits.toNat < 2 ^ 10 ∧ 2 ^ 10 ≤ (s.g (rrA twoSources)).bits.toNat) ∧
      (((copy b).g (rrA twoSources)).bits.toNat % 64 = 0 ∧ ((copy b).g (rrB twoSources)).bits.toNat = b ∧ b / 2 ^ 58 = 0 ∧
        b / 2 ^ 45 % 8 = 0 ∧ b / 2 ^ 19 % 2 ^ 13 = 0 ∧ b % 64 = 0 ∧ b / 2 ^ 32 % 2 ^ 13 = 6144 ∧
        (s.g (rrA twoSources)).bits.toNat % 64 ≠ 0 ∧ ¬ (b + 2 ^ 32) / 2 ^ 32 % 2 ^ 13 ≤ 6144) ∧
      ((host.g (rrA twoSources)).bits.toNat < 2 ^ 11 ∧ (host.g (rrA twoSources)).bits.toNat / 2 ^ 10 = 1 ∧
        (host.g (rrA twoSources)).bits.toNat / 2 ^ 4 % 2 ^ 6 = 0 ∧ twoSources.mod.toNat % 4 = 0 ∧
        (let b := (host.g (rrB twoSources)).bits.toNat
         b < 2 ^ 29 ∧ b % 8 = 0 ∧ b / 2 ^ 19 % 2 ^ 10 = 512 ∧ host.me.xb ≤ b % 2 ^ 19 ∧ b % 2 ^ 19 + 512 = lsEnd) ∧
        host.workDone = true ∧ host.fenceDone 4 15 = true ∧ ¬ ((send (2 ^ 11) 0).g 1).bits.toNat < 2 ^ 11) := by
  simp only [State.addrClean, State.destFree]; decide +kernel

/-- Inbox 0 of the pillar holds a message of 512 bytes from the highest host queue. -/
def received (s : State) : State :=
  s.modMe fun x => x.modInbox 0 fun b => { b with messages := [{ src := 15, fromHost := true, len := 512, payload := List.replicate 64 {} }] }

/-- RWAIT at its limit and past it, in strand and in fibre code; an address one byte off; RECV of an empty and of a full inbox at the end
of local store (`MessageReceipt`). -/
theorem witness_message_receipt :
    let s := regs 0x5FE00 0x5FE01 2
    let f : Fields := { d := 63, s := 1 }
    let w := awaiting 2 s
    s.destFree 8 ∧ (w.me.outstandingOf w.curT ≤ (w.g 3).bits.toNat % 32 ∧ w.st.deliverable = none) ∧
      ((w.g 0).bits.toNat % 32 < w.me.outstandingOf w.curT ∧ w.st.inFibre = false) ∧
      ((awaiting 1 inFibre3).st.inFibre = true ∧ (awaiting 1 inFibre3).st.deliverable = none ∧
        ((awaiting 1 inFibre3).g 0).bits.toNat % 32 < (awaiting 1 inFibre3).me.outstandingOf 0) ∧
      (¬ ((s.g 2).bits.toNat < 2 ^ 19 ∧ (s.g 2).bits.toNat % 8 = 0)) ∧
      ((s.g f.sNum).bits.toNat < 2 ^ 19 ∧ (s.g f.sNum).bits.toNat % 8 = 0 ∧ s.me.xb ≤ (s.g f.sNum).bits.toNat ∧
        (s.g f.sNum).bits.toNat + 512 = lsEnd ∧ (s.me.inbox 0).messages = []) ∧
      (((received s).me.inbox 0).messages.length = 1 ∧ (received s).me.vectorBusy s.curT 0x5FE00 512 = false) := by
  simp only [State.destFree]; decide +kernel

/-- A procedure of strand 0 at an offset of the own vault. -/
def proc (i : Instr) (off : Nat := 0x1000) : Procedure :=
  { p := 0, t := 0, seq := 0, lvl := 0, instr := i, place := .vault 0 off, va := word off }

/-- A procedure that its request reaches; wake words that are malformed, armed with a counter that the decrement ends, and not armed;
headers that RWADD may write (`ProcedureResults`). -/
theorem witness_procedures :
    let s := State.reset
    let at_ (c w : Nat) : State := { s with mem := (Memory.write {} 0x1000 8 c).write 0x1008 8 w }
    let armed := at_ 1 (2 ^ 63 + 7 * 2 ^ 32 + 0x5FFF8)
    let h : Nat := 2 ^ 63
    (Claims.atVault s (proc (.rdecw {})) 0 0x1000 ∧ (proc (.rdecw {})).instr = .rdecw {}) ∧
      ((at_ 1 (2 ^ 19)).mem.read 0x1008 8 / 2 ^ 19 % 2 ^ 13 ≠ 0) ∧
      (armed.mem.read 0x1008 8 / 2 ^ 19 % 2 ^ 13 = 0 ∧ armed.mem.read 0x1008 8 % 2 ^ 19 % 8 = 0 ∧
        (armed.pil 0).xb ≤ armed.mem.read 0x1008 8 % 2 ^ 19 ∧ armed.mem.read 0x1008 8 % 2 ^ 19 + 8 ≤ lsEnd ∧
        0 < (BitVec.ofNat 64 (armed.mem.read 0x1000 8)).toInt ∧
        (BitVec.ofNat 64 (armed.mem.read 0x1000 8)).toInt - ((proc (.rdecw {})).k : Int) ≤ 0 ∧ 2 ^ 63 ≤ armed.mem.read 0x1008 8) ∧
      ¬ 2 ^ 63 ≤ (at_ 1 0).mem.read 0x1008 8 ∧
      (∃ f : Fields, f.flags / 2 % 2 = 1 ∧ initOk h (typeOf .f64 f) = true) := by
  refine ⟨⟨⟨⟨0, 0x1000, rfl⟩, by decide +kernel, 0x1000, by decide +kernel⟩, rfl⟩, by decide +kernel, by decide +kernel,
    by decide +kernel, { qual := qual 11 2 }, by decide +kernel, by decide +kernel⟩

/-- Procedures that have not been performed. -/
def asked (l : List Procedure) : State := { State.reset with procs := l }

/-- An outbox entry of pillar 0 to inbox 0 of a pillar. -/
def outgoingTo (q : Nat) (ph : MessagePhase := .ready) (s : State := State.reset) : State :=
  s.modPil 0 fun x => { x with msg := { x.msg with outbox := [{ number := 0, msg := { dst := q }, phase := ph }] } }

/-- Agents with nothing to do, with a procedure that succeeds and with one that fails; responses of no procedure, of one with no, one and
two results, and of one that failed; requests that combine up to eight requesters and a router with none; heads that fail, that find
eight messages held and seven; a refused entry in its last waiting clk and after; a delivery; slots that a cut tail frees and does
not (`MessageEvents`). -/
theorem witness_message_events :
    let f : Fields := { qual := qual 3 1 }
    let a : Procedure := { proc (.rdecw f) with requesters := 4 }
    let b : Procedure := { a with t := 1 }
    let held (n : Nat) : State := outgoingTo 0 .ready (ofPillar fun x => x.modInbox 0 fun b => { b with messages := List.replicate n {} })
    let mine (r : Procedure) : Bool := r.p == 0 && r.t == 0 && r.seq == 0
    let res (i : Instr) (ph : ProcPhase) : Option (ProcPhase × List Nat) :=
      ((asked [{ proc i with phase := ph }]).procs.find? mine).map fun r => (r.phase, Claims.returned r.instr)
    let sent (s : State) (p : PillarId) : Option Procedure := s.procs.find? fun r => r.phase == .sent && s.procAgent r == p && !s.procWaits r
    (sent State.reset 0 = none ∧ sent (asked [a]) 0 = some a ∧ ((asked [a]).performProc a).isOk = true ∧
        ((asked [a]).performProc { a with p := 1 }).isOk = false ∧
        sent (asked [{ a with p := 1 }]) 0 = some { a with p := 1 }) ∧
      (State.reset.procs.find? mine = none ∧ res (.rst {}) (.performed {} {}) = some (.performed {} {}, []) ∧
        res (.rld { d := 9 }) (.performed {} {}) = some (.performed {} {}, [9]) ∧
        res (.rwrd { d := 8 }) (.performed {} {}) = some (.performed {} {}, [8, 9]) ∧
        res (.rld { d := 9 }) (.failed 0x60 0) = some (.failed 0x60 0, [9])) ∧
      (State.reset.procs[0]? = none ∧ a.phase = .sent ∧ b.phase = .sent ∧ a.key = b.key ∧ b.key ≠ none ∧ a ≠ b ∧
        onRoute 0 ((asked [a, b]).procAgent b) 0 = true ∧ a.entry = none ∧ a.requesters + b.requesters = 8) ∧
      (((outgoingTo 1).outboxEntry 0 0).isSome = true ∧ (match (outgoingTo 1).messageTarget 0 { dst := 1 } with | .error _ => true | _ => false) = true ∧
        (match (held 8).messageTarget 0 { dst := 0 } with | .ok q => q == 0 | _ => false) = true ∧
        ((held 8).outboxEntry 0 0).map (fun e => (e.phase, (held 8).behindOther 0 e, e.msg.toHost)) = some (.ready, false, false) ∧
        ((held 8).pil 0 |>.inbox 0).messages.length = 8 ∧ ((held 7).pil 0 |>.inbox 0).messages.length = 7) ∧
      ((({ outgoingTo 0 (.refused 64) with clk := 64 } : State).outboxEntry 0 0).map (·.phase) = some (.refused 64)) ∧
      (((outgoingTo 0 .reserved).outboxEntry 0 0).map (·.phase) = some .reserved ∧ (outgoingTo 0 .reserved).forward 0 = 0) ∧
      (let r (s : State) : State := s.modPil 0 fun x => x.modInbox 0 fun b => { b with reserved := 1 }
       (r State.reset).heads 0 0 < ((r State.reset).pil 0 |>.inbox 0).reserved ∧
         ((r (outgoingTo 0 .reserved)).pil 0 |>.inbox 0).reserved ≤ (r (outgoingTo 0 .reserved)).heads 0 0) := by decide +kernel

/-! ## Witnesses: fibres -/

/-- Local store of the pillar holds a doubleword at 64. -/
def counter (v : Nat) (s : State) : State := s.modMe fun x => { x with ls := { x.ls with bytes := Memory.write {} 64 8 v } }

/-- A strand that addresses the counter at 64. -/
def joining (v : Nat) : State := counter v (regs 64 0 0)

/-- The same in the fibre of slot 3. -/
def joiningFibre (v : Nat) : State := counter v (inFibre3.modSt fun r => r.setReg 1 { bits := 64 })

/-- Every fibre slot is in use. -/
def crowded (s : State) : State :=
  s.modMe fun x => { x with fibres := (List.range 256).foldl (fun m j => m.set j { state := .ready }) {} }

/-- The fibre of slot 3 has a join counter at 64 of the pillar. -/
def linked (v : Nat) : State :=
  (joiningFibre v).modMe fun x => x.modFibre 3 fun y => { y with state := .running, link := some (0, 64) }

/-- FRUN inside a fibre and outside; FORK with no free slot, with one, and with a counter that is full, malformed and one below full;
JOIN at count 0, at a count with a waiter and without, in strand and in fibre code; FEXIT without a link, with a malformed counter, with
count 0, with the last child of a parked joiner and with another, one below XB; accesses that have been performed and that have
not (`FibreInstructions`). -/
theorem witness_fibre_instructions :
    let f : Fields := { d := 8, reg := some { dh := false, sh := false, t := 1, q := 0 } }
    let s := joining 65534
    let j (n : Nat) : State := joining n
    let v (s : State) : Nat := s.me.ls.bytes.read 64 8
    (s.destFree 8 ∧ inFibre3.destFree 8 ∧ inFibre3.st.inFibre = true ∧ s.st.inFibre = false ∧ s.twinned s.curP = false) ∧
      (riA f = 1 ∧ (s.g (riA f)).bits = 64 ∧ s.lsRange 64 8 ∧ s.me.freeSlot = some 0 ∧ (crowded s).me.freeSlot = none ∧
        (v s < 2 ^ 25 ∧ v s % 2 ^ 16 < 65535) ∧ v (j 65535) % 2 ^ 16 = 65535 ∧ 2 ^ 25 ≤ v (j (2 ^ 25)) ∧ (s.g 0).bits = 0) ∧
      (v (j (2 ^ 16)) < 2 ^ 25 ∧ v (j (2 ^ 16)) % 2 ^ 16 = 0 ∧ v (j (2 ^ 16 + 1)) % 2 ^ 16 ≠ 0 ∧ 2 ^ 16 ≤ v (j (2 ^ 16 + 1)) % 2 ^ 17 ∧
        v s % 2 ^ 16 ≠ 0 ∧ v s % 2 ^ 17 < 2 ^ 16 ∧ (joiningFibre 1).lsRange 64 8 ∧ v (joiningFibre 1) % 2 ^ 17 < 2 ^ 16 ∧
        (joiningFibre 1).st.inFibre = true) ∧
      ((inFibre3.me.fibre inFibre3.st.slot).link = none ∧ ((linked 0).me.fibre (linked 0).st.slot).link = some (0, 64) ∧
        2 ^ 25 ≤ v (linked (2 ^ 25)) ∧ (linked 0).linkHome 0 = 0 ∧ (linked 0).lsTarget 0 0 64 8 = .ok 0 ∧
        (linked 0).me.lsFault 64 8 = none ∧ ((linked 0).modMe fun x => { x with xbKb := 1 }).me.lsFault 64 8 = some 0x14 ∧
        v (linked 0) % 2 ^ 16 = 0 ∧
        v (linked (2 ^ 16 + 1 + 5 * 2 ^ 17)) % 2 ^ 17 = 2 ^ 16 + 1 ∧ v (linked 2) % 2 ^ 17 ≠ 2 ^ 16 + 1) ∧
      (s.fenceDone 3 15 = true ∧ (storing 1 s).fenceDone 3 15 = false ∧ (linked 2).fenceDone 3 15 = true ∧
        (storing 1 (linked 2)).fenceDone 3 15 = false) := by
  simp only [State.destFree, State.lsRange]; decide +kernel

/-- FEXIT that wakes the joiner of the counter's last child, and one whose counter another pillar refuses (`FibreInstructions`). -/
theorem witness_fibre_exits :
    (let w : State := (linked (2 ^ 16 + 1 + 5 * 2 ^ 17)).modMe fun x =>
        x.modFibre 5 fun y => { y with state := .parked, parking := .join 64 }
     w.me.ls.bytes.read 64 8 / 2 ^ 17 % 256 = 5 ∧ 5 ≠ w.st.slot ∧ (w.me.fibre 5).state = .parked ∧ (w.me.fibre 5).parking = .join 64 ∧
       w.lsTarget 0 0 64 8 = .ok 0 ∧ w.fenceDone 3 15 = true) ∧
      (let far := (linked 2).modMe fun x => x.modFibre 3 fun y => { y with link := some (7, 64) }
       far.linkHome 7 = 7 ∧ far.linkHome 7 ≠ far.curP ∧ (far.me.fibre far.st.slot).link = some (7, 64) ∧ far.fenceDone 3 15 = true ∧
         (match far.lsTarget 0 7 64 8 with | .error (.trap _ _) => true | _ => false) = true) := by
  decide +kernel

/-- Strand 0 is a runner without a fibre. -/
def runner (m : FibreMode) (stop : Bool := false) (x : Pillar → Pillar := id) : State :=
  (ofStrand fun r => { r with run := .running, modes := [m], stopReq := stop }).modMe x

/-- A slot parked for something. -/
def parkedFor (k : Parking) : State := ofPillar fun x => x.modFibre 255 fun y => { y with state := .parked, parking := k }

/-- A runner asked to stop; one with a ready fibre; with nothing to do, once, in a quiescent pillar and not; slots that are not parked, and
parked for each thing, come, failed and not come; a fibre whose access has failed; a runner that may not steal, one whose neighbour has fibres, with and without a procedure outstanding, and one that finds none
(`FibreEvents`). -/
theorem witness_fibre_events :
    let m := mode none
    let o := { mode none with once := true }
    let ready (x : Pillar) : Pillar := { x.modFibre 255 fun y => { y with state := .ready } with runQueue := [255] }
    let busy (x : Pillar) : Pillar := x.modFibre 255 fun y => { y with state := .parked, parking := .ack }
    let r (s : State) : Strand := (s.pil 0).strand 0
    let w := parkedFor (.word 64 8 true 6)
    let steal (far : Pillar) : State :=
      let s := (loomed (runner m)).modMe fun x => { x with steal := 1 }
      { s with pillars := s.pillars.set 1 far, safelight := { s.safelight with pillarReady := NatSet.insert {} 1 } }
    ((r (runner m)).run = .running ∧ (r (runner m)).modes = [m] ∧ m.slot = none ∧ m.backoff = 0 ∧ { m with backoff := 9 }.backoff ≠ 0 ∧ (runner m).canSteal 0 0 = false ∧ (runner o).canSteal 0 0 = false ∧
      (r (runner m true)).stopReq = true) ∧
      (((runner m false ready).pil 0).runQueue = [255] ∧ (((runner m false ready).pil 0).fibre 255).fault = none) ∧
      ((r (runner o)).modes = [o] ∧ o.once = true ∧ m.once = false ∧ ((runner m).pil 0).quiescent = true ∧
        ((runner m false busy).pil 0).quiescent = false ∧ ((runner m false busy).pil 0).runQueue = []) ∧
      ((State.reset.me.fibre 255).state ≠ .parked ∧ ((parkedFor (.load 8 {})).me.fibre 255).parking = .load 8 {} ∧
        ((parkedFor .ack).me.fibre 255).parking = .ack ∧ (w.me.fibre 255).parking = .word 64 8 true 6 ∧ w.me.isFull 64 = true ∧
        ((w.modMe fun x => { x with ls := { x.ls with empty := NatSet.insert {} 8 } }).me.isFull 64 = false)) ∧
      (((awaiting 1 (parkedFor (.procedures 0 1 8))).me.fibre 255).parking = .procedures 0 1 8 ∧
        (awaiting 1 (parkedFor (.procedures 0 1 8))).me.outstandingOf 0 ≤ 1 ∧
        1 < (awaiting 2 (parkedFor (.procedures 0 1 8))).me.outstandingOf 0) ∧
      (let i : Instr := .ldI64 base1
       let pa := 2 ^ 47 + 2 ^ 36
       let down := parkedFor (.remote i pa 0 8 {} {} 0 0)
       let gone := ported down
       let far : State := { gone with host := { gone.host with peers := NatMap.set {} 1 { up := true } } }
       let full : State := { far with procs := List.replicate 256 { proc (.rst {}) with place := .peer 1 0 } }
       let held : State := { far with integrity := { far.integrity with held := [{ p := 0, t := 0, number := 0, flits := [], since := 0, seq := 0, lvl := 0 }] } }
       ((parkedFor (.failed 0x07 8)).me.fibre 255).parking = .failed 0x07 8 ∧ ((parkedFor (.join 64)).me.fibre 255).parking = .join 64 ∧
         (far.me.fibre 255).parking = .remote i pa 0 8 {} {} 0 0 ∧ (memOpOf i).isSome = true ∧ far.remoteReady 0 0 pa = true ∧
         held.remoteReady 0 0 pa = false ∧ down.remoteReady 0 0 pa = false ∧ far.peerRoom pa = true ∧ full.peerRoom pa = false ∧
         ((parkedFor (.queued i pa 8 {} {} 0)).me.fibre 255).parking = .queued i pa 8 {} {} 0 ∧ (far.focus 0 0).outgoing 0 (placeOf pa) = false ∧
         (far.focus 0 0).reach 0 pa 8 = .ok pa ∧ (gone.focus 0 0).reach 0 pa 8 = .error (.trap 0x07 8)) ∧
      ((((runner m false ready).modMe fun x => x.modFibre 255 fun y => { y with fault := some (0x07, 8) }).me.fibre 255).fault =
        some (0x07, 8)) ∧
      (State.reset.canSteal 0 0 = false ∧ (steal {}).canSteal 0 0 = true ∧ ((steal {}).pil 0).quiescent = true ∧
        (let s := (steal {}).modPil 0 busy
         s.canSteal 0 0 = true ∧ (s.pil 0).quiescent = false ∧ (s.stealOrder 0).find? (s.stealable 0) = none) ∧
        ((steal {}).stealOrder 0).find? ((steal {}).stealable 0) = none ∧
        ((steal (ready {})).stealOrder 0).find? ((steal (ready {})).stealable 0) = some 1 ∧
        ((steal (ready {})).pil 0).freeSlot = some 0 ∧ (steal (ready {})).releasable 1 = true ∧
        ({ steal (ready {}) with procs := [{ proc (.rst {}) with p := 1 }] } : State).releasable 1 = false) := by
  decide +kernel

/-! ## Witnesses: jobs -/

/-- Strand 0 has handed off. -/
def handed (s : State) : State := s.modSt fun r => { r with handedOff := true }

/-- Pillar 0 is ready, its TLB translates from 0 on, and so does an answer of the host for the launch unit. -/
def served (s : State) : State :=
  { s.modMe fun x => { x with dataTlb := [entryTo 0] } with
    safelight := { s.safelight with ready := 0x30000, pillarReady := NatSet.insert {} 0 }
    stackUnits := Vector.replicate 4 { running := true, tlb := [{ entryTo 0 with host := true }] } }

/-- Launch queue 15 with a control word, a head and a tail. -/
def queueing (ctl : Word) (head tail : BitVec 32) (s : State) : State :=
  s.setLq 15 { base := 0x10000, ctl := ctl, head := head, tail := tail }

/-- HANDOFF and EXIT with the work done and with a procedure outstanding, in strand and in fibre code; LAUNCH to a misaligned record, to
a queue closed for each reason, behind a store, to a full ring and to the last record of one (`JobInstructions`). -/
theorem witness_job_instructions :
    let s := served (regs 0x1000 0x1001 0)
    let f : Fields := { mod := 15, d := 8, s := 1 }
    let at_ (ctl : Word) (tail : BitVec 32) : State := queueing ctl 0 tail s
    let q := (at_ 7 15).lq 15
    (Claims.handoffReady s ∧ s.st.handedOff = false ∧ (handed s).st.handedOff = true ∧ Claims.handoffReady (handed s)) ∧
      (¬ Claims.handoffReady (awaiting 1 s) ∧ inFibre3.st.inFibre = true ∧ s.st.inFibre = false) ∧
      (s.destFree 8 ∧ (s.g 2).bits.toNat % 128 ≠ 0 ∧ (s.g 1).bits.toNat % 128 = 0 ∧ f.mod.toNat % 16 = 15) ∧
      (((at_ 6 0).lq 15).ctl.getLsbD 0 = false ∧ ((at_ 5 0).lq 15).ctl.getLsbD 1 = false ∧ ((at_ 3 0).lq 15).ctl.getLsbD 2 = false ∧
        ((at_ (7 + 2 ^ 48) 0).lq 15).asid ≠ s.me.asid ∧ s.st.lvl = 0) ∧
      (q.ctl = 7 ∧ q.asid = s.me.asid ∧ (at_ 7 15).fenceDone 3 15 = true ∧ (storing 1 (at_ 7 15)).fenceDone 3 15 = false ∧
        q.holder = none ∧ q.writing = {} ∧ q.doorbells = [] ∧ q.count ≠ 2 ^ ringExp q.ctl ∧ ((at_ 7 16).lq 15).count = 2 ^ ringExp q.ctl) ∧
      (match (at_ 7 15).readBytes s.walker .read 0x1000 128 with
        | .ok (t, m, bad) => bad == {} && t.lq 15 == q &&
          (match t.writeBytes (launchWalker q.asid) (q.slotVa q.tail) 128 m {} 0 {} with
            | .ok (u, _) => u.st.blocked == .no && u.curP == s.curP && u.curT == s.curT | _ => false)
        | _ => false) = true := by
  simp only [State.destFree, Claims.handoffReady]; decide +kernel

/-- A job's left half, its right half, and strands that start and that do not (`JobStart`). -/
theorem witness_job_start :
    let j : Job := { number := 0, record := { shape := word (2 ^ 26 + 2 * 2 ^ 16 + 1 * 2 ^ 10 + 3 * 2 ^ 22) }, queue := 0, asid := 0, pri := 0 }
    let r : Rect := { row0 := 0, col0 := 0, hgt := 1, wid := 4 }
    (j.twin = true ∧ j.wid = 2 ∧ ¬ j.wid ≤ gridCol 1 - r.col0 ∧ j.wid ≤ gridCol 2 - r.col0) ∧ 2 < j.record.nstr ∧ j.record.nstr ≤ 3 := by
  decide

/-- A job of one pillar at the origin, with a state. -/
def aJob (number : Nat) (state : BitVec 8) (pri : Nat) : Job :=
  { number := number, record := { jobId := 7, shape := word (2 ^ 25 + 2 ^ 22 + 2 ^ 16 + 2 ^ 10), code := 1 }, queue := 0, asid := 0, pri := pri
    state := state, eligibleAt := some 0 }

/-- Live jobs. -/
def jobs (l : List Job) (s : State) : State := { s with launch := { s.launch with jobs := l } }

/-- A tail one past the ring, one at its end and one gone back; admission closed, and of the head record read and not read; placement
with nothing to do, with no room ever, with room for a new and for a pre-empted job, and with room to clear; a job that waits its last
clk; a pillar without a job, and with one that can be saved and not; an image read; pillars that scrub, with a draft and with a
command moving (`LaunchEvents`). -/
theorem witness_launch_events :
    let s := served State.reset
    let at_ : State := queueing 7 0 1 s
    let l := at_.lq 15
    let origin : Rect := { row0 := 0, col0 := 0, hgt := 1, wid := 1 }
    let phase (p : PillarPhase) (n : Option Nat) (s : State) : State := s.modMe fun x => { x with phase := p, job := n }
    let place (s : State) : PlaceAction := s.settleJobs.placeStep s.settleJobs.placeOrder
    let low : Job := { aJob 0 0x02 0 with rect := some origin }
    let held := phase .held (some 0) (jobs [low] s)
    let img : Job := { aJob 0 0x01 0 with rect := some origin, loading := true }
    let scrub := phase .scrubbing none s
    (2 ^ ringExp l.ctl < ((17 : BitVec 32) - l.head).toNat ∧ ((0 : BitVec 32) - l.head).toNat < (l.tail - l.head).toNat ∧
        ¬ 2 ^ ringExp l.ctl < ((16 : BitVec 32) - l.head).toNat ∧ ¬ ((16 : BitVec 32) - l.head).toNat < (l.tail - l.head).toNat) ∧
      (State.reset.admitOpen = false ∧ at_.admitOpen = true ∧ at_.admitOrder.head? = some 15 ∧ l.reading.failed = false ∧
        (match at_.readBytes (launchWalker l.asid) .read (l.slotVa l.head) 128 with | .ok (_, _, bad) => bad == {} | _ => false) = true ∧
        (match (queueing (7 + 2 ^ 48) 0 1 State.reset).readBytes (launchWalker 1) .read 0x10000 128 with
          | .error (.trap _ _) => true | _ => false) = true) ∧
      (place State.reset = .nothing ∧ place (phase .failed none (jobs [aJob 0 0x01 0] s)) = .refuse (aJob 0 0x01 0) ∧
        place (jobs [aJob 0 0x01 0] s) = .place (aJob 0 0x01 0) origin ∧
        place (jobs [{ aJob 0 0x05 0 with rect := some origin }] s) = .place { aJob 0 0x05 0 with rect := some origin } origin ∧
        place (phase .held (some 0) (jobs [low, aJob 1 0x01 1] s)) = .preempt (aJob 1 0x01 1) origin ∧ low.runs = true ∧ low.preempting = false ∧
        (held.pil 0).job = some low.number ∧ 0 ∈ held.seats 0 origin) ∧
      (l.holder = none ∧ ({ l with holder := some 0 } : LaunchQueue).holder ≠ none ∧ img.drafting = false) ∧ (held.jobOf 0 = some low ∧ State.reset.jobOf 0 = none ∧ (held.pil 0).phase = .held ∧ held.canSave low = true ∧
        (({ held with saves := (List.range 4).map fun a => { p := 0, area := a, job := 9, ctx := {} } } : State).canSave low = false)) ∧
      (((jobs [img] s).launch.jobs.find? fun j => j.live && j.record.jobId == 7 && j.loading && j.state == 0x01 && j.request.isNone) =
          some img ∧ img.record.codeKb = 1 ∧
        ((jobs [img] s).readBytes (launchWalker img.asid) .read img.record.codeVa 1024).isOk = true) ∧
      ((s.pil 0).phase ≠ .scrubbing ∧ (scrub.pil 0).phase = .scrubbing ∧ scrub.shuttleDone 0 = true ∧ scrub.draftOf 0 = none ∧
        ((drafted [{ state := 4 }] scrub).draftOf 0).isSome = true ∧ (drafted [{ state := 4 }] scrub).shuttleDone 0 = true ∧
        (commanding 1 scrub).shuttleDone 0 = false) := by decide +kernel

/-! ## Witnesses: system registers, traps and system instructions -/

/-- An RI form that names a system register, from g1. -/
def sysField (n : Nat) : Fields := { d := 1, s := BitVec.ofNat 5 n, imx := [BitVec.ofNat 11 (n / 32)] }

/-- A strand at a level with g1 and g2. -/
def atLevelWith (l : Nat) (a b : Word) : State := (regs a b 0).modSt fun r => { r with status := word (l * 64) }

/-- A segment under way and one that has landed, of 1 KiB at the end of local store. -/
def withSegs (st : BitVec 2) (s : State) : State :=
  s.modMe fun x => { x with segs := x.segs.set 15 { lenKb := 1, baseKb := 383, state := st } }

/-- Each level against each that a register needs; the greatest value that each register accepts and one that it refuses; the registers
that no level writes (`SystemRegisters`). -/
theorem witness_system_registers :
    let f := sysField
    let s := State.reset
    (s.destFree 1 ∧ (∀ n ∈ [0x000, 0x006, 0x00D], (f n).immU = n) ∧ Claims.readableAt 0x000 = 0 ∧ Claims.readableAt 0x006 = 1 ∧
        Claims.readableAt 0x00D = 3 ∧ s.st.lvl = 0 ∧ (atLevel 1).st.lvl = 1 ∧ (atLevel 3).st.lvl = 3 ∧ riA (f 2) = 1) ∧
      ((0x60000 : Word).toNat / 2 ^ 10 % 2 ^ 9 = 384 ∧ (0x60400 : Word).toNat / 2 ^ 10 % 2 ^ 9 = 385 ∧
        (∀ g ∈ (withSegs 1 s).me.segs.toList, g.state = 1 → g.endAddr ≤ 384 * 1024) ∧
        (∃ g ∈ (withSegs 1 s).me.segs.toList, g.state = 1 ∧ ¬ g.endAddr ≤ 383 * 1024) ∧ s.me.tags.count = 0) ∧
      ((2 : Word).toNat % 4 ≠ 3 ∧ (3 : Word).toNat % 4 = 3) ∧
      (s.me.xbKb ≤ 128 ∧ (word (128 + 256 * 2 ^ 16)).toNat % 2 ^ 9 = 128 ∧ (word (128 + 256 * 2 ^ 16)).toNat / 2 ^ 16 % 2 ^ 9 = 256 ∧
        (∀ e ∈ s.me.tags.slots.entries, e.2.state ≠ 1) ∧ ¬ (word (127 + 257 * 2 ^ 16)).toNat / 2 ^ 16 % 2 ^ 9 ≤ 256) ∧
      ((word (4 * 2 ^ 40)).toNat / 2 ^ 40 % 8 ≤ 4 ∧ (∀ i < 4, stackOf (chainLink (word (4 * 2 ^ 40)) i) = stackOf s.curP) ∧
        ¬ (word (5 * 2 ^ 40)).toNat / 2 ^ 40 % 8 ≤ 4) ∧
      ((word (47 * 2 ^ 22)).toNat / 2 ^ 22 % 64 < 48 ∧ ¬ (word (48 * 2 ^ 22)).toNat / 2 ^ 22 % 64 < 48) ∧
      ((f 0x00E).immU = 0x00E ∧ (f 0x030).immU = 0x030 ∧ (f 0x07F).immU = 0x07F) ∧
      Claims.writesAs 5 0x08F (.rpmapWrite 15 5) ∧ Claims.writesAs 5 0x01A (.saveoffWrite 5) := by
  refine ⟨?_, by decide +kernel, by decide, by decide +kernel, by decide +kernel, by decide, by decide, ?_, ?_⟩
  · simp only [State.destFree]; decide +kernel
  · exact .inr (.inr (.inr (.inr (.inr (.inr (.inr (.inr ⟨15, by decide, rfl⟩)))))))
  · simp [Claims.writesAs]

/-- A strand at a level whose bank at it holds a saved STATUS and TCAUSE. -/
def saved (l status cause : Nat) : State :=
  (atLevel l).modSt fun r => r.setBank l { (r.bank l) with tstatus := word status, tcause := word cause }

/-- Faults at user, supervisor and machine level, an interrupt at machine level; TRET at user level, to a level above, to the reserved
level, with FWS below machine level, to the strand's own level, and into a fibre (`TrapEntryAndReturn`). -/
theorem witness_traps :
    let e : TrapEvent := { cause := 0x0B, tval := 0 }
    let ok (s : State) : Bool :=
      let l := s.st.lvl
      let b := s.st.bank l
      let back := b.tstatus.toNat / 2 ^ 6 % 4
      decide (back ≠ 2) && decide (back ≤ l) && (!b.tstatus.getLsbD 11 || decide (l = 3))
    (e.interrupt = false ∧ (atLevel 0).st.lvl = 0 ∧ (atLevel 1).st.lvl = 1 ∧ (atLevel 3).st.lvl = 3 ∧ Claims.levelOf 0x84 = 3 ∧
        ({ cause := 0x84, tval := 0, interrupt := true } : TrapEvent).interrupt = true) ∧
      (ok (saved 1 0xC0 0) = false ∧ ok (saved 3 0x80 0) = false ∧ ok (saved 1 0x800 0) = false ∧ ok (saved 1 0x40 0) = true ∧
        ok (saved 3 0x8C0 0) = true) ∧
      (((saved 1 0 0x8000).st.bank 1).tcause.getLsbD 15 = true ∧ ((saved 1 0 0).st.bank 1).tcause.getLsbD 15 = false) := by
  decide +kernel

/-- Reasons to end WAITI and none; HALT at each level; invalidations with reserved bits, with a store to wait for, with nothing and with
an access in flight; dwords of the ring; a pending pre-emption at each level, with and without a vector instruction under way; MIGRATE below machine level, with a reserved bit, with CLEAR
of a pillar that forwards and of one that does not, of the own pillar, of one without a job, without a target, to a spare and to a free
pillar (`SystemInstructions`). -/
theorem witness_system_instructions :
    let f : Fields := { d := 8, s := 1 }
    let w := ofPillar fun x => { x with signal := 1 }
    let i := atLevelWith 1 0 0
    let hit := { mapped 0x1000 i with procs := [{ proc (.rst {}) with va := 0 }] }
    let p := ofPillar fun x => { x with preempt := some 0 }
    let owner : Job := { aJob 0 0x02 0 with rect := some { row0 := 0, col0 := 1, hgt := 1, wid := 1 } }
    let m (v : Nat) : State :=
      let s := { atLevelWith 3 (word v) 0 with launch := { State.reset.launch with jobs := [owner] } }
      { s with safelight := { s.safelight with pillarReady := (NatSet.insert {} 1).insert 2 }
               stackUnits := Vector.replicate 4 { running := true }
               pillars := s.pillars.set 1 { Pillar.reset with phase := .held, job := some 0 } }
    let fw (v : Nat) : State := (m v).modPil 1 fun x => { x with fwdEnt := word (2 ^ 63 + 2) }
    ((w.waitBits ≠ 0 ∧ State.reset.waitBits = 0 ∧ w.destFree 8) ∧ (atLevel 0).st.lvl = 0 ∧ (atLevel 1).st.lvl ≠ 0) ∧
      ((i.g 1).bits.toNat / 2 ^ 17 = 0 ∧ (i.g 1).bits.toNat / 2 ^ 10 = 0 ∧ i.fenceDone 4 1 = true ∧ (storing 1 i).fenceDone 4 1 = false ∧
        i.rangesClear ((i.entriesOf (Claims.named i (.tlbinva f))).map fun e => (e.pa, 2 ^ e.bits)) = true ∧
        (hit.modSt fun r => r.setReg 1 { bits := word (2 ^ 16) }).rangesClear
          (((hit.modSt fun r => r.setReg 1 { bits := word (2 ^ 16) }).entriesOf
            (Claims.named (hit.modSt fun r => r.setReg 1 { bits := word (2 ^ 16) }) (.tlbinva f))).map fun e => (e.pa, 2 ^ e.bits)) = false) ∧
      ((word (5 * 2 ^ 16)).toNat / 2 ^ 16 ≤ 5 ∧ 5 < (word (6 * 2 ^ 16)).toNat / 2 ^ 16 ∧ 2 ^ 19 ≤ (word (2 ^ 19)).toNat) ∧
      (w.me.preempt = none ∧ p.me.preempt ≠ none ∧ p.st.lvl = 0 ∧ p.vectorQuiet p.curP p.curT = true ∧
        (p.modMe fun x => { x with vec := { x.vec with accepted := [queued (.kand { d := 1 })] } }).vectorQuiet 0 0 = false) ∧
      ((m 1).st.lvl = 3 ∧ (m 1).destFree 8 ∧ ((m 1).g 1).bits = 1 ∧ 2 ^ 22 ≤ ((m (2 ^ 22)).g 1).bits.toNat ∧ (m 0).curP = 0 ∧
        ((m 1).pil 1).fwdEnt.getLsbD 63 = false ∧ ((fw 1).pil 1).fwdEnt.getLsbD 63 = true ∧ (word (2 ^ 21 + 1)).getLsbD 21 = true ∧
        (m 1).canLeave 1 = true ∧ (m 1).canLeave 2 = false ∧ (m 1).isFree 0 = false ∧ (m 1).isFree 2 = true ∧ stackOf 2 = stackOf 1 ∧
        (m 1).spareFree 1 = true) := by
  simp only [State.destFree]; decide +kernel

/-! ## Witnesses: issue, returns, waits and translations -/

/-- Strand 0 of pillar 0 runs, blocked in some way. -/
def blockedIn (b : Blocked) (s : State := State.reset) : State :=
  s.modMe fun x => ({ x with phase := .held } : Pillar).modStrand 0 fun r => { r with run := .running, blocked := b }

/-- A strand that is ready and has waited 64 slots, and 63; a stack that is halted; a queue that the vector unit takes from; a pillar that
stops; a buffered store; accesses that return at home, from a peer and from one that is gone; a strand that waits for the divider; waits of each kind; announced operations before their time and in
it (`IssueAndAccessEvents`). -/
theorem witness_issue :
    let ready (n : Nat) : State := (blockedIn .no).modSt fun r => { r with waitCount := n }
    let halt (s : State) : State := { s with stackUnits := Vector.replicate 4 { halted := true } }
    let d := queued (.kand { d := 1 })
    let v := ofPillar fun x => { x with vec := x.vec.setQueue 3 [d, d] }
    let stop := v.modMe fun x => { x with preempt := some 0 }
    let peer : Peer := { up := true }
    let i : Instr := .ldI64 base1
    let pa := 2 ^ 47 + 2 ^ 36
    let gone := ported (blockedIn (.remote i pa 0 8 {} {}) (regs 0 0 0))
    let div := ofPillar fun x => x.modStrand 3 fun r => { r with blocked := .wait (.div {}) }
    let launch := blockedIn (.launch (.launch {}) {})
    let pin := blockedIn (.pinned (.dpin {}) {})
    let far := ported (blockedIn (.remote i pa 0 8 {} {}) { regs 0 0 0 with host := { State.reset.host with peers := NatMap.set {} 1 peer } })
    let sc (clk : Nat) : State := { mapped 0 (blockedIn (.sc (.amo { mod := 3, d := 8, s := 1 }) 31 0x100 0x100 {}) (regs 0x100 0 0)) with clk := clk }
    (((ready 64).ready 0 0 = true ∧ 64 ≤ ((ready 64).strandAt 0 0).waitCount ∧ ((ready 63).strandAt 0 0).waitCount < 64 ∧
        State.reset.ready 0 0 = false)) ∧
      (((halt State.reset).stack (stackOf 0)).halted = true ∧ (State.reset.stack (stackOf 0)).halted = false) ∧
      ((roundRobin (v.pil 0).vec.last).find? ((v.pil 0).vectorGoes (v.aclk 0)) = some 3 ∧ (v.pil 0).vec.queue 3 = [d, d] ∧
        (v.pil 0).stopping = false ∧ (stop.pil 0).stopping = true) ∧
      ((State.reset.strandAt 0 0).stores = [] ∧ ((storing 2 State.reset).strandAt 0 0).stores.length = 2) ∧
      ((blockedIn .access).strandAt 0 0).blocked = .access ∧
      ((far.strandAt 0 0).blocked = .remote i pa 0 8 {} {} ∧ far.canReturn 0 0 = true ∧ far.outgoing 0 (placeOf pa) = false ∧
        (memOpOf i).isSome = true ∧ (far.focus 0 0).reach 0 pa 8 = .ok pa ∧ gone.canReturn 0 0 = true ∧
        (gone.focus 0 0).reach 0 pa 8 = .error (.trap 0x07 8)) ∧
      (((div.pil 0).strand 3).atDivision = true ∧ ((div.pil 0).strand 2).atDivision = false) ∧
      ((launch.strandAt 0 0).blocked = .launch (.launch {}) {} ∧ (pin.strandAt 0 0).blocked = .pinned (.dpin {}) {}) ∧
      (((blockedIn (.wait (.waiti {}))).strandAt 0 0).blocked = .wait (.waiti {}) ∧ (Instr.waiti {}).isEvent = false ∧
        ((blockedIn (.wait (.waiti {}))).strandAt 0 0).run = .running) ∧
      (((storing 1 (blockedIn (.inval (.tlbinva {}) [(0x100, 0x1000)]))).rangesClear [(0x100, 0x1000)] = false) ∧
        (blockedIn (.inval (.tlbinva {}) [(0x100, 0x1000)])).rangesClear [(0x100, 0x1000)] = true) ∧
      (((blockedIn (.migrate (.migrate {}) 1)).drained 1 = true) ∧ (storing 1 State.reset).drained 0 = false) ∧
      ((sc 127).scTurn 0 0 = false ∧ (sc 128).scTurn 0 0 = true ∧
        (let s := ((sc 128).focus 0 0).modSt fun r => { r with blocked := .no }
         let f : Fields := { mod := 3, d := 8, s := 1 }
         ∃ o, memOpOf (.amo f) = some o ∧ (s.scAccess (.amo f) o 0x100 0x100 {}).isOk = true ∧
           ((regs 0 0 0).scAccess (.amo f) o (2 ^ 47 + 2 ^ 36) 0x100 {}).isOk = false)) := by
  refine ⟨by decide +kernel, by decide, by decide +kernel, by decide +kernel, by decide, by decide +kernel, by decide, by decide,
    by decide +kernel, by decide +kernel, by decide +kernel, by decide +kernel, by decide +kernel, _, rfl, by decide +kernel,
    by decide +kernel⟩

/-- Page tables whose one entry maps 2^39 addresses from 0, or leaves them to the host, or nothing. -/
def tables (leaf : Nat) : State :=
  { State.reset with
    mem := (Memory.write {} 0 8 (2 ^ 21 + 1)).write (2 ^ 21) 8 leaf
    safelight := { State.reset.safelight with ready := 0x30000, pillarReady := NatSet.insert {} 0 } }

/-- Walks that end in an entry, one that the access may use and one that it may not, in a fault and at the host; completions that no request asked for, that give rights and none, and
of a request restarted; of 2^39, of 2^12 and of fewer bytes; responses to a request of a
strand and to none (`IssueAndAccessEvents`). -/
theorem witness_walks :
    let e := tables 0xF
    let h := tables 0x101
    let q : PageRequest := { id := 9, asid := 0, va := 0, write := false, requester := .strand 0 0 }
    let r := { ofStrand (fun r => { r with preqId := some 9, preq := word (2 ^ 63) }) with
      host := { State.reset.host with requests := [q] } }
    let w : Walker := { p := 0, asid := 0, lvl := 1 }
    (canonical (word (2 ^ 57)) = false ∧ canonical 0 = true ∧ e.lookup w 0 = none ∧ (mapped 0 e).lookup w 0 ≠ none) ∧
      (∃ x, e.walk 0 0 = .entry x) ∧ ((e.useEntry (entryTo 0) 1 .read 0).isOk = true ∧ (e.useEntry { entryTo 0 with write := false } 1 .write 0).isOk = false) ∧ (tables 0).walk 0 0 = .fault 0x03 ∧ h.walk 0 0 = .ats ∧ e.walk 0 0 ≠ .ats ∧
      (let q (n : Nat) : AtsRequest := { stack := 3, asid := 0, va := 0, void := n }
       let c (r w : Bool) : AtsCompletion := { va := 0, bits := 39, pa := 0, r := r, w := w }
       let s (n : Nat) : State := { h with host := { h.host with ats := [q n] } }
       (∀ q ∈ h.host.ats, q.asks 0 0 = false) ∧ (s 0).host.ats.find? (·.asks 0 (c false false).va) = some (q 0) ∧
         (s 1).host.ats.find? (·.asks 0 (c true false).va) = some (q 1) ∧ (q 0).stack = (3 : Fin 4).val ∧ (c true false).bits = 39) ∧
      (12 ≤ 12 ∧ (11 : Nat) < 12 ∧ ∀ m ∈ [12, 16, 21, 25, 30, 34, 39], 39 < m → 39 < m) ∧
      (r.host.requests.find? (fun q => q.id == 9) = some q ∧ (r.strandAt 0 0).preqId = some 9 ∧
        r.host.requests.find? (fun q => q.id == 8) = none) := by
  refine ⟨by decide +kernel, ?_, by decide +kernel, by decide +kernel, by decide +kernel, by decide +kernel, by decide +kernel, by decide, by decide +kernel⟩
  have h : ((match (tables 0xF).walk 0 0 with | .entry _ => true | _ => false) : Bool) = true := by decide +kernel
  revert h
  cases (tables 0xF).walk 0 0 with
  | entry x => exact fun _ => ⟨x, rfl⟩
  | fault c => exact fun h => nomatch h
  | ats => exact fun h => nomatch h
  | wait => exact fun h => nomatch h

/-! ## Witnesses: boundaries, pre-emption and integrity -/

/-- Strand 0 runs, in a pillar that has been asked to stop, has a signal, holds a trap message, or has a late fault. -/
def atEdge (pre : Option Nat) (signal fwd : Word) (lates : List LateFault) (status : Word := 0x200) : State :=
  (blockedIn .no).modMe fun x => ({ x with preempt := pre, signal := signal, fwd := x.fwd.set 0 fwd } : Pillar).modStrand 0
    fun r => { r with lates := lates, status := status }

/-- A job that runs on pillar 0 alone, or on pillars 0 and 1, and is being pre-empted. -/
def leaving (wid : Nat) (saves : List SavedContext) : State :=
  let j : Job := { aJob 0 0x02 0 with rect := some { row0 := 0, col0 := 0, hgt := 1, wid := wid }, preempting := true }
  let x : Pillar := { Pillar.reset with phase := .held, job := some 0, preempt := some 5 }
  { State.reset with pillars := (NatMap.set {} 0 x).set 1 x, launch := { State.reset.launch with jobs := [j] }, saves := saves }

/-- Each thing that can be due at a boundary alone, and nothing; trap messages to a free and to a busy pillar; one that waits its last
clk; requests on their way to a job that runs and to one that does not, of age 2^20, and none (`BoundaryAndPreemptionEvents`). -/
theorem witness_boundaries :
    let e : LateFault := { seq := 0, lvl := 0, cause := 0x03, tval := 0 }
    let valid : Word := word (2 ^ 63)
    let none_ := atEdge none 0 0 []
    let rel := (atEdge (some 0) 0 0 []).modStrand 0 0 fun r => { r with blocked := .wait (.draftrel {}) }
    let msg (fwd : Word) : State := { atEdge none 0 fwd [] with trapMessages := [{ dst := 0, fwd := Vector.replicate 8 valid }] }
    let old (c : Nat) : State := { atEdge none 0 valid [] with clk := c }
    let age (c : Nat) : State := { atEdge (some 0) 0 0 [] with clk := c }
    let s := leaving 1 []
    let back (s : State) : State :=
      { s with launch := { s.launch with jobs := s.launch.jobs.map fun j => { j with state := 0x05, loading := true } } }
    ((atEdge none 0 0 [e]).lateDue 0 0 = some e ∧ none_.lateDue 0 0 = none ∧ (atEdge none 0 valid []).forwardDue 0 0 = true ∧
        none_.forwardDue 0 0 = false ∧ (atEdge none 1 0 []).signalDue 0 0 = true ∧ none_.signalDue 0 0 = false ∧
        (atEdge (some 0) 0 0 []).stopDue 0 0 = true ∧ none_.stopDue 0 0 = false ∧
        ((atEdge (some 0) 0 0 []).strandAt 0 0).waitsShuttle = false ∧ rel.stopDue 0 0 = true ∧ (rel.strandAt 0 0).waitsShuttle = true) ∧
      (none_.trapMessages[0]? = none ∧ ((msg 0).trapMessages[0]?.map (·.dst)) = some 0 ∧ (msg 0).forward 0 = 0 ∧
        ((msg 0).pil 0).fwd[0].getLsbD 63 = false ∧ ((msg valid).pil 0).fwd[0].getLsbD 63 = true) ∧
      ((old 65535).fwdExpired 0 = false ∧ ((old 65536).pil 0).fwd[0].getLsbD 63 = true ∧ ((old 65536).pil 0).fwdTaken = false ∧
        ((old 65536).pil 0).fwdSince + 65536 ≤ (old 65536).clk) ∧
      (0 ∉ s.preempts ∧ 0 ∈ ({ s with preempts := [0] } : State).preempts ∧ ((s.pil 0).phase = .held) ∧
        (s.jobOf 0).map (fun j => (j.preempting, j.runs)) = some (true, true) ∧ State.reset.jobOf 0 = none ∧
        ((back s).jobOf 0).map (fun j => (j.preempting, j.runs)) = some (true, false)) ∧
      (((age (2 ^ 20)).pil 0).preempt = some 0 ∧ 0 + 2 ^ 20 ≤ (age (2 ^ 20)).clk ∧ (none_.pil 0).preempt = none) := by decide +kernel

/-- A job whose only pillar is saved, one of two whose other pillar is not yet, with three areas in use; one that is not pre-empted; a
context that goes back, alone and with another to come (`BoundaryAndPreemptionEvents`). -/
theorem witness_saves :
    let other (a : Nat) : SavedContext := { p := 0, area := a, job := 9, ctx := {} }
    let r (w : Nat) : Rect := { row0 := 0, col0 := 0, hgt := 1, wid := w }
    let one := leaving 1 [other 0, other 1, other 3]
    let two := leaving 2 []
    let c (p : PillarId) : SavedContext := { p := p, area := 0, job := 0, ctx := { Pillar.reset with job := some 0 } }
    let back (l : List SavedContext) (w : Nat) : State :=
      let s := leaving w l
      { s with launch := { s.launch with jobs := s.launch.jobs.map fun j => { j with state := 0x05, loading := true, preempting := false } } }
    (State.reset.jobOf 0 = none ∧ (one.jobOf 0).isSome = true ∧ one.savedFor 0 0 = none ∧ (one.areasUsed 0).length < 4 ∧
        (∀ q ∈ one.seats 0 (r 1), (one.pil q).preempt.isSome = true ∧ one.drained q = true ∧ one.migrating q = false) ∧
        (∀ q ∈ (one.savePillar 0 0).seats 0 (r 1), ((one.savePillar 0 0).savedFor 0 q).isSome = true)) ∧
      (∃ q ∈ two.seats 0 (r 2), (two.savePillar 0 0).savedFor 0 q = none) ∧
      (((back [c 0] 1).savedFor 0 0).isSome = true ∧ ((back [c 0] 1).pil 0).strip = none ∧ ((back [c 0] 1).pil 0).stripDue = false ∧
        ((back [c 0] 1).pil 0).failedMark = false ∧ ((back [c 0] 1).jobOf 0).map (fun j => (j.state, j.loading)) = some (0x05, true) ∧
        (∃ q ∈ (back [c 0, c 1] 2).seats 0 (r 2), q ≠ 0 ∧ ((back [c 0, c 1] 2).savedFor 0 q).isSome = true)) := by decide +kernel

/-- A doubled job of one strand on pillars 0 and 2, with the worms of the two. -/
def doubled (held : List HeldWorm) (clk : Nat := 0) : State :=
  let j : Job := { number := 0, record := { shape := word (2 ^ 26 + 2 * 2 ^ 16 + 2 ^ 10) }, queue := 0, asid := 0, pri := 0, state := 0x02
                   rect := some { row0 := 0, col0 := 0, hgt := 1, wid := 4 } }
  let x : Pillar := { Pillar.reset with phase := .held, job := some 0 }
  { State.reset with
    pillars := (NatMap.set {} 0 x).set 2 x, launch := { State.reset.launch with jobs := [j] }, clk := clk
    integrity := { State.reset.integrity with held := held } }

/-- A corner of the grid and a link with 14 and with 15 failures before; twins that agree and that differ, one whose twin is in time and one
that is late; a job that can be contained and a containment under way; a strip that may start, one that needs room, and one that runs its
last clk (`IntegrityEvents`). -/
theorem witness_integrity :
    let w (p : PillarId) (n : Nat) : HeldWorm := { p := p, t := 0, number := 0, flits := [word n], since := 0, seq := 0, lvl := 0 }
    let s := doubled [w 0 1, w 2 1]
    let d := doubled [w 0 1, w 2 2]
    let l := doubled [w 0 1] 65536
    let runs (n : Nat) : Pillar := { Pillar.reset with crcRuns := Vector.replicate 4 n }
    let r : Rect := { row0 := 0, col0 := 0, hgt := 1, wid := 4 }
    let fenced : State := { (doubled []).modPil 0 fun x => { x with phase := .fenced } with
      integrity := { State.reset.integrity with containing := some r } }
    let free := served State.reset
    let held := { withJob 1 0 (free.modMe fun x => { x with phase := .held }) with clk := 2 ^ 31 }
    let run : State := { held with launch := { held.launch with jobs := held.launch.jobs.map fun j => { j with state := 0x02 } } }
    let strip (c : Nat) : State := { (ofPillar fun x => { x with strip := some 0 }) with
      clk := c, stackUnits := Vector.replicate 4 { running := true } }
    (neighbour 0 .north = none ∧ neighbour 0 .south ≠ none ∧ (runs 14).crcRuns[2] + 1 < 16 ∧ 16 ≤ (runs 15).crcRuns[2] + 1) ∧
      (State.reset.twinned 0 = false ∧ s.twinned 0 = true ∧ s.inRightHalf 0 = false ∧ s.heldOf 0 0 = [w 0 1] ∧
        s.partner (w 0 1) = some (w 2 1) ∧ (doubled [w 0 1]).partner (w 0 1) = none ∧ (w 0 1).flits = (w 2 1).flits ∧ d.partner (w 0 1) = some (w 2 2) ∧
        (w 0 1).flits ≠ (w 2 2).flits) ∧
      (s.weaveLate 0 0 = none ∧ (doubled [w 0 1] 65535).weaveLate 0 0 = none ∧ l.weaveLate 0 0 = some (w 0 1)) ∧
      (State.reset.jobOf 0 = none ∧ fenced.integrity.containing ≠ none ∧ s.integrity.containing = none ∧ (s.jobOf 0).isSome = true ∧
        (s.pil 0).phase = .held ∧ fenced.integrity.containing = some r ∧ r.has 0 = true) ∧
      (State.reset.stripPossible 0 = false ∧ free.stripPossible 0 = true ∧ free.stripNeeded 0 = false ∧ run.stripNeeded 0 = true ∧
        (run.jobOf 0).isSome = true) ∧
      (free.pil 0).strip = none ∧ ((strip 41999).pil 0).strip = some 0 ∧ (strip 41999).aclk 0 < 0 + 42000 ∧
        0 + 42000 ≤ (strip 42000).aclk 0 := by decide +kernel

/-! ## Witnesses: the host, the pod and bring-up -/

/-- Ready for the aperture and the tier, with a peer that is up and its translation. -/
def opened : State :=
  { served State.reset with
    host := { (ported State.reset).host with peers := NatMap.set {} 9 { up := true } }
    safelight := { State.reset.safelight with ready := 0x70000, pillarReady := NatSet.insert {} 0 } }

/-- APERBASE at the end of its range and past it; accesses to the last byte of the aperture, and before it is ready; sends of 512 bytes,
of more, and behind another; peers that are up, late, and not up; requests that end a 64-byte block (`HostAndPodEvents`). -/
theorem witness_host :
    let s := opened
    let busy := s.setHq 15 { State.reset.hq 15 with send := word (2 ^ 63) }
    let late : State := { s with clk := 2 ^ 32, procs := [{ proc (.rst {}) with place := .peer 9 0 }] }
    ((word (2 ^ 47 - 2 ^ 32)).toNat % 2 ^ 32 = 0 ∧ (word (2 ^ 47 - 2 ^ 32)).toNat < 2 ^ 47 ∧ 2 ^ 47 ≤ (word (2 ^ 47)).toNat ∧
        (word 1).toNat % 2 ^ 32 ≠ 0) ∧
      (s.safelight.ready.getLsbD 18 = true ∧ State.reset.safelight.ready.getLsbD 18 = false ∧
        (let pa := s.host.aperBase.toNat + (0xBFFFFFF : BitVec 32).toNat
         s.populated pa = true ∧ s.populated (pa + 1 - 1) = true ∧ s.reachDirect (servicePillar 0) pa 0 = .ok pa)) ∧
      (let tier := s.host.aperBase.toNat + 2 ^ 46
       let off : State := { s with safelight := { s.safelight with ready := 0x60000 } }
       (match off.reachDirect (servicePillar 0) tier 0 with | .error .wait => true | _ => false) = true ∧
         (match ({ off with safelight := { off.safelight with tierFailed := true } } : State).reachDirect (servicePillar 0) tier 0 with
           | .error (.trap _ _) => true | _ => false) = true ∧
         s.posted = [] ∧ ({ s with posted := [.outside (.aperture 0 (.read 1))] } : State).posted ≠ []) ∧
      ((s.hq 15).send.getLsbD 63 = false ∧ (busy.hq 15).send.getLsbD 63 = true ∧ (512 : Word).toNat % 2 ^ 10 = 512 ∧
        512 < (520 : Word).toNat % 2 ^ 10 ∧ (7 : Word).toNat % 2 ^ 10 % 8 ≠ 0) ∧
      ((s.peer 9).requests = [] ∧ s.portUp = true ∧ State.reset.portUp = false ∧ (s.peer 9).responses.length < max 1 (s.peer 9).incred.toNat ∧
        max 1 (0 : BitVec 16).toNat ≤ [(HostAnswer.done, 0)].length ∧ ¬ (1 ≤ 2 ∧ 63 + 2 ≤ 64)) ∧
      ((s.peer 9).up = true ∧ (s.peer 8).up = false ∧ (63 + 1 ≤ 64) ∧
        s.inboundTarget 9 63 (.read 1) = .ok (63, 63) ∧ s.inboundTarget 9 63 (.write 1 0) = .ok (63, 63) ∧ late.peerLate 9 = true ∧ s.peerLate 9 = false) := by
  decide +kernel

/-- Roles and ATTGO on both sides; functions whose dependencies are met and are not; a halted stack; temperatures at the limit and above
(`HostAndPodEvents`). -/
theorem witness_bring_up :
    let s := State.reset
    let halt : State := { s with stackUnits := Vector.replicate 4 { halted := true } }
    let go : State := { s with safelight := { s.safelight with attGo := true } }
    ((3 : BitVec 3).toNat < 4 ∧ 4 ≤ (4 : BitVec 3).toNat) ∧ ((1 : Word).getLsbD 0 = true ∧ s.safelight.attGo = false ∧ go.safelight.attGo = true) ∧
      (s.dependenciesMet (.shuttle 3) = false ∧ s.dependenciesMet (.stack 3) = true ∧
        ({ s with safelight := { s.safelight with ready := 1 } } : State).dependenciesMet (.pillar 0) = true) ∧
      ((s.stack 3).halted = false ∧ (halt.stack 3).halted = true ∧ (380 : Word).toNat ≤ 380 ∧ 380 < (381 : Word).toNat) := by decide +kernel

/-! ## Witnesses: encodings, steps and registers -/

/-- The longest instruction, and words after it (`DecodeEncode`). -/
theorem witness_encodable :
    let i : Instr := .addi { d := 31, s := 31, reg := Claims.regT 63, imx := [2047, 2047, 2047] }
    i.isEvent = false ∧ i.wf = true ∧ (encode i).length = 5 := by decide

/-- Strand 3 of pillar 1023 is about to issue the words at its PC. -/
def issuing (ws : List Halfword) (x : Pillar → Pillar := id) : State :=
  let s := { State.reset with curP := 1023, curT := 3 }
  { s.modMe fun y => x (y.withCode s.st.pc 3 ws) with agenda := [.issue 1023 3] }

/-- A turn of a strand whose words are a well-formed instruction; a strand that cannot issue; words of causes 0x01 and 0x02, at user and
supervisor level; words past the end of code (`StepRunsDecoded`, `IllegalInstructionTrap`, `ReservedEncodings`). -/
theorem witness_turns :
    let i : Instr := .addi { d := 9, reg := Claims.regT 40, imx := [3, 0] }
    let s := issuing (encode i)
    let run (ws : List Halfword) : State := Claims.running (issuing ws) 1023 3 []
    let super (x : Pillar) : Pillar := x.modStrand 3 fun r => { r with status := 0x40 }
    let short := issuing [0xE800] fun x => { x with xbKb := 0 }
    (Claims.turn s 1023 3 [] ∧ i.isEvent = false ∧ i.wf = true ∧ (∀ k < 4,
        (Claims.running s 1023 3 []).me.fetchFault false (fetchAddr (Claims.running s 1023 3 []).st.pc k) = none ∧
        some ((Claims.running s 1023 3 []).me.fetchWord false (fetchAddr (Claims.running s 1023 3 []).st.pc k)) = (encode i)[k]?)) ∧
      ((issuing [] fun x => { x with phase := .free }).boundaryDue 1023 3 = false ∧
        (issuing [] fun x => { x with phase := .free }).canIssue 1023 3 = false) ∧
      ((run [0xF07F]).fetched = .illegal 0x01 0 0xF07F 0 ∧ (run [0xF600]).fetched = .illegal 0x02 0 0xF600 0 ∧
        (run [0xF480, 0xE800, 0xE800]).fetched = .illegal 0x01 2 0xE800 9 ∧ Claims.turn (issuing [0xF07F]) 1023 3 [] ∧
        Claims.turn (issuing [0xF07F] super) 1023 3 [] ∧ (Claims.running (issuing [0xF07F] super) 1023 3 []).st.lvl = 1) ∧
      (Claims.turn short 1023 3 [] ∧ (Claims.running short 1023 3 []).fetched = .short 0 ∧
        ((Claims.running short 1023 3 []).me.fetchFault false (fetchAddr (Claims.running short 1023 3 []).st.pc 0)).isSome = true) := by
  simp only [Claims.turn]; decide +kernel

/-- Chains that R16 allows, and a word that breaks each in each way; an opcode that is not assigned, and fields that break the rules of
their instruction and that keep them (`ReservedEncodings`). -/
theorem witness_chains :
    let r : Option RegFields := some { dh := false, sh := false, t := 2, q := 0 }
    let full : Fields := { mod := 1, reg := r, qual := qual 2, imx := [1] }
    let three : Fields := { imx := [1, 2, 3] }
    (Claims.chainOk 11 full ∧ Claims.chainOk 0 three ∧ Claims.chainOk 0 {} ∧ Claims.chainOk 3 { reg := r, qual := qual 2 } ∧
        Claims.chainOk 1 { imx := [1] }) ∧
      (Claims.breaks 11 full 0xE000 ∧ (prefixKind 0xF080 = 2 ∧ Claims.breaks 0 { reg := r } 0xF080) ∧
        (prefixKind 0xE800 = 1 ∧ Claims.breaks 3 { reg := r, qual := qual 2 } 0xE800) ∧
        (prefixKind 0xF800 = 3 ∧ Claims.breaks 1 { imx := [1] } 0xF800) ∧ Claims.breaks 0 three 0xE000) ∧
      (constructorOf 11 55 = none ∧ (constructorOf 0 16).isSome = true ∧ (Instr.addi { qual := qual 2 }).wf = false ∧ (Instr.addi {}).wf = true) ∧
      (∃ a f, (Instr.kand { d := 8 }).row = some (a, f) ∧ a.fieldsOk f = false) ∧
      (∃ a f, (Instr.addi { qual := qual 2 }).row = some (a, f) ∧ a.qual = .refused ∧ f.qual ≠ none) ∧
      (∃ a f, (Instr.add { imx := [1] }).row = some (a, f) ∧ a.imx < f.imx.length) ∧
      (∃ a f, (Instr.add { mod := 1 }).row = some (a, f) ∧ a.mod f.mod = false) := by
  refine ⟨by simp only [Claims.chainOk]; decide, ⟨.inl (by decide), ⟨by decide, .inr (.inl ⟨by decide, by decide⟩)⟩,
    ⟨by decide, .inr (.inr (.inl ⟨by decide, .inl nofun⟩))⟩, ⟨by decide, .inr (.inr (.inr (.inl ⟨by decide, .inr nofun⟩)))⟩,
    .inr (.inr (.inr (.inr ⟨by decide, by decide⟩)))⟩, by decide, ⟨_, _, rfl, by decide⟩, ⟨_, _, rfl, by decide, nofun⟩, ⟨_, _, rfl, by decide⟩,
    ⟨_, _, rfl, by decide⟩⟩

/-- Words for each refusal of the chain: page 0, pages 12 and 15, two PAGE words, IMX before REG, unassigned opcodes on the first and on a
later page (`ReservedEncodings`). -/
theorem witness_reserved :
    (isPrefixWord 0xE000 = true ∧ isPrefixWord 0xE800 = true ∧ prefixKind 0xE000 = 0 ∧ prefixKind 0xE800 ≠ 0 ∧
        isPrefixWord 0xF080 = true ∧ prefixKind 0xF080 = 2 ∧ (0xF080 : Halfword).toNat / 2 ^ 7 % 16 = 1) ∧
      ((12 : Nat) ≤ 12 ∧ (15 : Nat) < 16) ∧
      (∃ b : Halfword, isPrefixWord b = false ∧ constructorOf 11 (b.toNat / 2 ^ 10) = none) ∧
      (∃ b : Halfword, isPrefixWord b = false ∧ constructorOf 0 (b.toNat / 2 ^ 10) = none) ∧
      decode [0x4081] = .ok (.addi { d := 4, s := 1 }) 1 := by
  refine ⟨by decide, by decide, ⟨0xDC00, by decide, by decide⟩, ⟨0xDC00, by decide, by decide⟩, by decide⟩

/-- The window open, at an issue and in a wait, at a corner of the grid, with eight messages in inbox 3 and none in the others; writes to g0, g55, g56 and g63 (`GeneralRegisterFile`,
`ConditionWindow`). -/
theorem witness_window :
    let s := (ofStrand fun r => { r with status := 0x20 }).modMe fun x => x.modInbox 3 fun b => { b with messages := List.replicate 8 {} }
    s.st.cw = true ∧ s.st.sampled = none ∧ (s.modSt fun r => { r with sampled := some (Vector.replicate 8 1) }).st.sampled ≠ none ∧
      neighbour s.curP .north = none ∧ neighbour s.curP .east ≠ none ∧ State.reset.st.cw = false ∧ (s.me.msg.inboxes[(3 : Fin 4)]).messages.length = 8 ∧
      (s.me.msg.inboxes[(0 : Fin 4)]).messages.length = 0 ∧ (55 < 56 ∧ (56 : Nat) ≤ 63 ∧ (63 : Nat) < 64) := by decide +kernel

/-! ## Witnesses: values -/

/-- A pair form on floating-point lanes, and every other lane-wise form at the ends of its registers (`VectorFloatAndBitLanes`,
`PageFourLanes`). -/
theorem witness_value_lanes :
    let p : Fields := { mod := 64, d := 30, s := 2, qual := qual 10 }
    let g : Fields := { d := 31, s := 30, qual := qual 0 8 1 }
    let c : Fields := { mod := 6, d := 7, s := 31, qual := qual 9 }
    isF (typeOf .f32 p) = true ∧
      (∀ i ∈ [Instr.vadd p, .vsub p, .vmul p, .vdiv p, .vfma p, .vfms p, .vmin p, .vmax p, .vsqrt p, .vabs p, .vneg p, .vmov p],
        i.wf = true) ∧
      (∀ i ∈ [Instr.vabs g, .vneg g, .vand g, .vor g, .vxor g, .vandn g, .vshr g, .vmov g, .vbcast g, .vsel { g with qual := qual 0 0 1 }],
        i.wf = true) ∧
      (Instr.vcmp c).wf = true ∧ c.dNum = 7 ∧ (Instr.vcmp { c with d := 0 }).wf = true := by decide +kernel

/-- Every form of page 4; conversions that narrow, widen and keep the width, at an element inside and outside the part
(`PageFourLanes`). -/
theorem witness_page_four :
    let f : Fields := { d := 31, s := 30, qual := qual 10 8 1 }
    let narrow : Fields := { mod := 10, d := 3, s := 2, qual := qual 8, reg := some { dh := false, sh := false, t := 0, q := 1 } }
    (∀ i ∈ [Instr.vexp2 f, .vlog2 f, .vrcp f, .vrsqrt f, .vperm f, .vshuf f, .vrot { f with imx := [1] }, .vexpand f, .vcompress f,
        .vred { f with mod := 2, qual := qual 10 0 1 }, .vdot { f with qual := qual 0 }, .vcvt narrow,
        .vquant { narrow with qual := qual 12 }, .vdequant { narrow with mod := 12 }, .vbscale { f with mod := 12, qual := qual 10 }],
      i.wf = true) ∧ (fromType narrow).width = 32 ∧ (typeOf .f32 narrow).width = 16 ∧ narrow.qNum = 1 ∧
      Claims.convertedFrom 32 16 1 15 = none ∧ Claims.convertedFrom 32 16 1 31 = some (15, 15) ∧
      Claims.convertedFrom 16 32 1 15 = some (15, 31) ∧ Claims.convertedFrom 32 32 1 15 = some (15, 15) := by decide +kernel

/-- A gather whose lanes all pass their checks, one whose first active lane does not, and one that has moved lanes
(`VectorMoveAndMemoryCompletion`). -/
theorem witness_gathers :
    let f : Fields := { d := 31, reg := some { dh := false, sh := false, t := 30, q := 3 } }
    let d (b : Nat) (l : List (Nat × Bool)) : Dispatched := { queued (.vgather f) with gs := { bits := word b }, moved := l }
    let w := (typeOf .f32 f).width
    let r := State.reset.strandAt 0 0
    let addr (b i : Nat) : Nat := (Claims.laneAddress (d b []) f r i).toNat
    w = 32 ∧ f.dNum < 32 ∧ (d 64 []).moved = [] ∧ (d 64 [(1, false)]).moved ≠ [] ∧
      (∀ i < 512 / w, addr 64 i % (w / 8) = 0 ∧ addr 64 i + w / 8 ≤ lsEnd ∧ (State.reset.pil 0).xb ≤ addr 64 i) ∧
      ((r.k f.kNum).bits.getLsbD 0 = true ∧ addr 65 0 % (w / 8) ≠ 0) := by decide +kernel

/-- The array or the port of the pillar's matrix engine works on an instruction. -/
def inArray (o : MatrixOp) (s : State) : State := withMtx (fun m => { m with array := some o }) s

/-- The same at the tile port. -/
def atPort (o : MatrixOp) (s : State) : State := withMtx (fun m => { m with port := some o }) s

/-- A product alone and in a loom of two, scaled and not; a product by a vector; moves of half a tile from its last row on, and of a
whole tile; a seal into the last slot (`MatrixValues`). -/
theorem witness_matrix_values :
    let f := product 15
    let l := product 14 64
    let o (i : Instr) : MatrixOp := { d := { queued i with fmt := 0x8800 } }
    let s := inArray (o (.mma f)) State.reset
    let b := inArray (o (.mmabs f)) State.reset
    let two := (inArray (o (.mma l)) (loomed State.reset)).modPil 1 fun x => x.modMtx fun m => { m with array := some (o (.mma l)) }
    let v := inArray (o (.mmv f)) State.reset
    let m : Fields := { mod := 32, s := 1, qual := qual 10 1 }
    let g : Fields := { s := 1, mod := 8, d := 31 }
    let t : Dispatched := { queued (.sstv g) with aux := 31 }
    ((s.pil 0).mtx.array = some (o (.mma f)) ∧ (o (.mma f)).started = true ∧ (o (.mma f)).discarded = false ∧
        f.mod.getLsbD 6 = false) ∧
      ((b.pil 0).mtx.array = some (o (.mmabs f)) ∧ byteInt (o (.mmabs f)).d.ma = false) ∧
      (l.mod.getLsbD 6 = true ∧ (two.pil 0).mtx.loom.map (·.members) = some [0, 1] ∧ [(0 : PillarId), 1].Nodup ∧
        (∀ q ∈ [(0 : PillarId), 1], (two.pil q).mtx.array.isSome = true)) ∧
      (v.pil 0).mtx.array = some (o (.mmv f)) ∧
      ((∀ i ∈ [Instr.mld m, .mst m, .mld {}, .mst {}], ((atPort (o i) State.reset).pil 0).mtx.port = some (o i)) ∧
        64 * moveRow0 m + 64 * moveRows m ≤ 4096 ∧ 64 * moveRow0 {} + 64 * moveRows {} ≤ 4096 ∧
        moveFloat (typeCode (BitVec.ofNat 4 (10 % 16))) = true ∧ typeCode (BitVec.ofNat 4 (2 % 16)) = .i32) ∧
      (((atPort { d := t } State.reset).pil 0).mtx.port = some { d := t } ∧ t.aux < 32 ∧ g.mod.getLsbD 3 = true ∧
        ({} : Fields).mod.getLsbD 3 = false) := by decide +kernel

/-- A scan, a split of rows of zeros, which no code refuses, and one of a row of 1.0 under code 0, which its own code refuses; an
element of the last row (`PlyValues`). -/
theorem witness_split_values :
    let f := product 1
    let z := product 0 64
    let shape : SlotShape := { type := 10, rows := 64, lens := [512] }
    let o (i : Instr) : MatrixOp := { d := { queued i with slot := packSlots [0], aux := packSlots [16, 31], read := shape } }
    let s := inArray (o (.psplita f)) State.reset
    let w := withMtx (fun m => { m with slotBytes := Memory.write {} 0 4 0x3F800000 }) s
    let row (s : State) (n : Nat) : List FVal :=
      ((s.pil 0).mtx.splitRow ((unpackSlots 16 (packSlots [0])).zip shape.lens) .f32 n).map (·.1)
    let lane (n : Nat) : Int := ((State.reset.strandAt 0 0).scaleLane f.tNum n).1
    ((s.pil 0).mtx.array = some (o (.psplita f)) ∧ (o (.psplita f)).started = true ∧ typeCode shape.type = .f32 ∧ f.tNum < 31 ∧
        shape.rows ≤ 64 ∧ f.mod.getLsbD 6 = false ∧ z.mod.getLsbD 6 = true ∧ z.tNum < 31 ∧
        ((inArray (o (.psplitb z)) State.reset).pil 0).mtx.array = some (o (.psplitb z))) ∧
      (unpackSlots 16 (packSlots [16, 31]) = [16, 31] ∧ [16, 31].Nodup ∧ (∀ j ∈ [16, 31], j < 32) ∧
        (∀ n < 64, plyRange (rowCode (row s n)) (lane n) = false) ∧ (row s 63)[127]? = some (.fin false 0 (-149))) ∧
      plyRange (rowCode (row w 0)) (lane 0) = true := by decide +kernel

/-- The rows of that split have 128 elements. -/
theorem witness_split_rows (m : MatrixEngine) (n : Nat) : ((m.splitRow [(0, 512)] .f32 n).map (·.1)).length = 128 := by
  simp [MatrixEngine.splitRow, EType.width]

/-- The first and the last slice pair of a group of two, alone and with another root; a row of a join, and its codes (`PlyValues`). -/
theorem witness_ply_values :
    let f := product 14
    let l := product 14 64
    let y : Word := word (63 + 63 * 64 + 127 * 4096 + 2 ^ 19 + 2 ^ 22 + 2 ^ 23)
    let o (i : Instr) : MatrixOp := { d := { queued i with gt := { bits := y } } }
    let s := inArray (o (.pmma f)) (grouped State.reset)
    let e := withMtx (fun m => m.modTile 14 fun h => { h with pair := 2 }) s
    let two := (inArray (o (.pmma l)) (loomed (grouped State.reset))).modPil 1 fun x =>
      x.modMtx fun m => { m with array := some (o (.pmma l)) }
    let j : Fields := { mod := 1, d := 14, s := 1, reg := some { dh := false, sh := false, t := 28, q := 0 }, qual := qual 10 }
    let v : Word := word (64 + 256 * 2 ^ 20 + 63 * 2 ^ 42)
    let oj : MatrixOp := { d := { queued (.pjoin j) with gs := { bits := v }, aux := 2 } }
    ((s.pil 0).mtx.array = some (o (.pmma f)) ∧ y.bits 21 19 + 1 = 2 ∧ f.dNum + 2 ≤ 16 ∧ f.mod.getLsbD 6 = false ∧
        (slicePairs 2)[((s.pil 0).mtx.tile 14).pair]? = some (1, 1) ∧ (slicePairs 2)[((e.pil 0).mtx.tile 14).pair]? = some (2, 1) ∧
        (slicePairs 2).length ≤ ((e.pil 0).mtx.tile 14).pair + 1 ∧ y.getLsbD 22 = true) ∧
      ((two.pil 0).mtx.loom.map (·.members) = some [0, 1] ∧ [(0 : PillarId), 1].getD (y.bits 26 23) 0 = 1 ∧
        (two.pil 1).mtx.array = some (o (.pmma l)) ∧ (two.pil 0).mtx.array = some (o (.pmma l)) ∧ l.mod.getLsbD 6 = true) ∧
      (((inArray oj (grouped State.reset)).pil 0).mtx.array = some oj ∧ (Instr.pjoin j).wf = true ∧ 63 < v.bits 47 42 + 1) := by
  decide +kernel

/-! ## Witnesses: procedures at their agents -/

/-- Headers that describe a cell of each type and one that describes none; contributions of each kind; a local store that an RFILL
reaches and one that it does not; a pillar whose SIGNAL an RSIG reaches, and one that it does not (`ProcedureResults`). -/
theorem witness_cells :
    let h32 : Nat := 2 ^ 62 + (2 ^ 12 - 149) * 2 ^ 40
    let h64 : Nat := 2 ^ 63 + 1023 * 2 ^ 40
    let f32 : Fields := { qual := qual 10 }
    let s := served State.reset
    let at_ (h : Nat) : State := { State.reset with mem := Memory.write {} 0x1000 64 (h * 2 ^ 448) }
    (typeOf .f64 f32 = .f32 ∧ typeOf .f64 {} = .f64 ∧ (at_ h64).mem.read 0x1000 64 / 2 ^ 448 = h64) ∧
      (Claims.describes h32 .f32 ∧ Claims.describes h64 .f64 ∧ ¬ Claims.describes h32 .f64 ∧ ¬ Claims.describes 0 .f32) ∧
      ((match valueOf .f64 (2 ^ 63 - 1) with | .nan => true | _ => false) = true ∧
        (match valueOf .f64 (2047 * 2 ^ 52) with | .inf _ => true | _ => false) = true ∧
        (match valueOf .f64 1 with | .fin _ _ _ => true | _ => false) = true) ∧
      (s.lsTarget 0 0 0x5FFF8 8 = .ok 0 ∧ (match s.lsTarget 0 7 0 8 with | .error (.trap _ _) => true | _ => false) = true) ∧
      s.forward 0 = 0 ∧ s.reachPillar 0 0 = .ok () ∧ (match s.reachPillar 0 7 with | .error _ => true | _ => false) = true := by
  simp only [Claims.describes]; decide +kernel

/-- RCOPY on its first and on its last 8 bytes, to a local store that takes them and to one that does not (`ProcedureResults`). -/
theorem witness_copies :
    let s := mapped 0 (served State.reset)
    let r (dst at_ : Nat) : Procedure := { proc (.rcopy {}) with y := { bits := word (dst * 2 ^ 48 + 2 ^ 32 + 0x5FFC0) }, progress := at_ }
    let part (r : Procedure) : Bool :=
      let va := r.va + word r.progress
      match s.readPart (s.engineWalker 0 0 false) .read va 8 (r.progress == 0 || va.toNat % 128 == 0) with
      | .ok (s1, _, _) =>
        let s2 := if r.progress % 512 = 0 then s1.noteRewrite 0 (BitVec.ofNat 10 (r.y.bits.toNat / 2 ^ 48)) else s1
        (match s2.lsTarget 0 (BitVec.ofNat 10 (r.y.bits.toNat / 2 ^ 48)) (r.y.bits.toNat % 2 ^ 19 + r.progress) 8 with
          | .ok q => q == 0 | .error (.trap _ _) => r.y.bits.toNat / 2 ^ 48 == 7 | _ => false)
      | _ => false
    part (r 0 0) = true ∧ part (r 0 56) = true ∧ part (r 7 0) = true ∧ 64 * ((r 0 0).y.bits.toNat / 2 ^ 32 % 2 ^ 13) ≤ 56 + 8 ∧
      0 + 8 < 64 * ((r 0 0).y.bits.toNat / 2 ^ 32 % 2 ^ 13) := by decide +kernel

/-- SEND from below XB and past the end of local store, and with .rel while a store is buffered (`MessageDispatch`). -/
theorem witness_sends :
    let s (b xb : Nat) : State := (regs 0 (word b) 0).modMe fun x => { x with xbKb := xb }
    let low := s (512 * 2 ^ 19 + 1016) 1
    let past := s (8 * 2 ^ 19 + 0x60000) 1
    ((low.g (rrB twoSources)).bits.toNat % 2 ^ 19 = 1016 ∧ 1016 + 512 ≤ lsEnd ∧ 1016 < low.me.xb) ∧
      ((past.g (rrB twoSources)).bits.toNat / 2 ^ 19 % 2 ^ 10 = 8 ∧ lsEnd < 0x60000 + 8) ∧
      ({ twoSources with mod := 4 } : Fields).mod.toNat / 4 % 2 = 1 ∧ (storing 1 (s 0 0)).fenceDone 4 15 = false := by decide +kernel

/-! ## Witnesses: the invariant -/

/-- Reset is canonical, and it takes a step (`StepKeepsCanonicalForm`, `ResetState`). -/
theorem witness_canonical : State.reset.Canonical ∧ (match step State.reset with | .next _ => true | _ => false) = true := by
  refine ⟨⟨by decide, by simp [NatSet.Rising, State.reset], fun e h => ?_⟩, by decide +kernel⟩
  simp [State.reset] at h

/-! ## Single steps, with results worked out from the rules -/

/-- Register d of the current strand after an instruction, where it goes on. -/
def after (i : Instr) (s : State) (d : Nat) : Option Word :=
  match exec i s with
  | .next t => some (t.st.reg d).bits
  | _ => none

/-- Fields d = 3, s = 1 and t = 2: g3 from g1 and g2 (R23). -/
def dst (t : BitVec 6 := 2) : Fields := { d := 3, s := 1, reg := some { dh := false, sh := false, t := t, q := 0 } }

/-- R112: ADD and SUB wrap modulo 2^64; SAR and SHR differ in what they bring in; SLT and SLTN differ on the sign. -/
theorem test_two_source :
    after (.add (dst)) (regs (-1) 2 0) 3 = some 1 ∧ after (.sub (dst)) (regs 1 2 0) 3 = some (-1) ∧
      after (.sar (dst)) (regs (word (2 ^ 63)) 63 0) 3 = some (-1) ∧ after (.shr (dst)) (regs (word (2 ^ 63)) 63 0) 3 = some 1 ∧
      after (.shl (dst)) (regs 1 64 0) 3 = some 1 ∧
      after (.slt (dst)) (regs (-1) 0 0) 3 = some 1 ∧ after (.sltn (dst)) (regs (-1) 0 0) 3 = some 0 := by decide +kernel

/-- R117: a division of -2^63 by -1 gives -2^63 with remainder 0; one by zero gives all ones, and the dividend as remainder. -/
theorem test_division_corners :
    after (.div (dst)) (regs (word (2 ^ 63)) (-1) 0) 3 = some (word (2 ^ 63)) ∧
      after (.rem (dst)) (regs (word (2 ^ 63)) (-1) 0) 3 = some 0 ∧ after (.divn (dst)) (regs 7 0 0) 3 = some (-1) ∧
      after (.rem (dst)) (regs 7 0 0) 3 = some 7 := by decide +kernel

/-- R99: a write to g0 changes nothing, and g0 reads as zero. -/
theorem test_g0 : after (.add { (dst) with d := 0 }) (regs 5 6 0) 0 = some 0 ∧ after (.add (dst 0)) (regs 5 6 0) 3 = some 5 := by
  decide +kernel

/-- R17, R114: the immediate of ADDI is sign-extended from its width: 0x1F is -1, and with an IMX word it is 31. -/
theorem test_immediates :
    after (.addi { d := 1, s := 31 }) (regs 5 0 0) 1 = some 4 ∧ after (.addi { d := 1, s := 31, imx := [0] }) (regs 5 0 0) 1 = some 36 := by
  decide +kernel

/-- R135: a load of a byte extends its sign, and one unsigned does not. -/
theorem test_local_loads :
    let s := (regs 64 0 0).modMe fun x => { x with ls := { x.ls with bytes := Memory.write {} 64 1 0x80 } }
    after (.lldI8 base1) s 8 = some (word (2 ^ 64 - 128)) ∧ after (.lldN8 base1) s 8 = some 128 := by decide +kernel

/-- R366, R378: a system register that user level may not read traps to supervisor level, with TPC at the instruction. -/
theorem test_privilege :
    (match exec (.sysrd { d := 3, s := 6 }) ((regs 0 0 0).modSt fun r => { r with pc := 100 }) with
      | .next t => (t.st.lvl, (t.st.bank 1).tpc, (t.st.bank 1).tcause) | _ => (0, 0, 0)) = (1, 100, 0x0C) := by decide +kernel

/-- R13, R89: the word 0x409F, ADDI g4, -1, is the first instruction after reset: it leaves -1 in g4 and the PC at 2. -/
theorem test_first_step :
    (match step (State.reset.withFetchWord 16 0x409F) with
      | .next t => ((t.st.reg 4).bits, t.st.pc) | _ => (0, 0)) = (-1, 2) := by decide +kernel

/-- R22, R26: a PAGE word of page 0 is an illegal instruction: cause 0x01 at supervisor level. -/
theorem test_illegal_step :
    (match step (State.reset.withFetchWord 16 0xF000) with
      | .next t => ((t.st.bank 1).tcause, (t.st.bank 1).tval, t.st.lvl) | _ => (0, 0, 0)) = (0x01, 0xF000, 1) := by decide +kernel

/-- R233: MCOMMIT gives the first batch the number 1. -/
theorem test_mcommit : after (.mcommit { d := 5 }) State.reset 5 = some 1 := by decide +kernel

/-- R156: FORK with no counter takes slot 0, and the child starts at PC + 2 × disp. -/
theorem test_fork :
    (match exec (.fork { d := 5, s := 3 }) State.reset with
      | .next t => ((t.st.reg 5).bits, (t.me.fibre 0).pc, t.me.runQueue) | _ => (9, 0, [])) = (0, 6, [0]) := by decide +kernel

/-- R57, R175: VMAX of 1.0 and -2.0 in f32 is 1.0 and VMIN is -2.0; R185, R432: the block scale into e4m3 of values whose greatest
magnitude is 2 is 0x77, and that of values whose greatest magnitude is 3.5 is 0x78. -/
theorem test_float_max :
    let f : Fields := { d := 3, s := 1, reg := some { dh := false, sh := false, t := 2, q := 0 }, qual := qual 10 }
    let s (i : Instr) : State := (accepted i).modStrand 0 0 fun r =>
      (r.setV 1 { bits := 0x3F800000 }).setV 2 { bits := 0xC0000000 }
    let lane (i : Instr) : Nat := match exec (.vectorComplete 0 0) (s i) with
      | .next t => ((t.strandAt 0 0).lane 3 32 0).1
      | _ => 0
    lane (.vmax f) = 0x3F800000 ∧ lane (.vmin f) = 0xC0000000 ∧
      blockScale (scaleTop .e4m3) [.fin false 1 0, .fin true 1 1] = 0x77 ∧
      blockScale (scaleTop .e4m3) [.fin false 7 (-1), .fin true 1 1] = 0x78 := by decide +kernel

end Sys2Proof.Tests
end

section
/-! PROOFS. Every step goes on and keeps the canonical form: one lemma for each function of the model that a step
reaches. `State.Canonical.f` says that f gives a canonical state from a canonical one, as `Pillar.Canonical.f` and
`MatrixEngine.Canonical.f` do for a pillar and an engine; `f_keeps` says it of an instruction or an event, with that it goes on. -/

-- One declaration at a time: the check gives the text little memory beyond what the model takes.
set_option Elab.async false

namespace Sys2Proof.Machine

section

/-! ## Lists of entries -/

/-- What stands in a list of entries after one is put. -/
theorem mem_putEntry {α : Type} {m : List (Nat × α)} {k : Nat} {a : α} {e : Nat × α} (h : e ∈ putEntry m k a) :
    e = (k, a) ∨ e ∈ m := by
  induction m with
  | nil => simpa [putEntry] using h
  | cons x m ih =>
    obtain ⟨k', a'⟩ := x
    simp only [putEntry] at h
    split_ifs at h with h1 h2
    · exact List.mem_cons.mp h
    · exact (List.mem_cons.mp h).imp_right (.tail _)
    · rcases List.mem_cons.mp h with rfl | h
      · exact .inr (.head _)
      · exact (ih h).imp_right (.tail _)

/-- An entry that is found stands in the list. -/
theorem mem_of_findEntry {α : Type} {m : List (Nat × α)} {k : Nat} {a : α} (h : findEntry m k = some a) :
    (k, a) ∈ m := by
  induction m with
  | nil => cases h
  | cons x m ih =>
    obtain ⟨k', a'⟩ := x
    simp only [findEntry] at h
    split_ifs at h with h1
    · subst h1; cases h; exact .head _
    · exact .tail _ (ih h)

/-! ## Sets stay rising -/

theorem NatSet.rising_empty : ({} : NatSet).Rising := .nil

theorem NatSet.rising_filter {m : NatSet} (h : m.Rising) (p : Nat → Bool) :
    NatSet.Rising { elems := m.elems.filter p } :=
  List.Pairwise.filter p h

theorem NatSet.Rising.erase {m : NatSet} {k} (h : m.Rising) : (m.erase k).Rising := rising_filter h _

theorem NatSet.Rising.clear {m : NatSet} {k n} (h : m.Rising) : (m.clear k n).Rising := rising_filter h _

theorem NatSet.Rising.insert {m : NatSet} {k} (h : m.Rising) : (m.insert k).Rising := by
  obtain ⟨l⟩ := m
  show (putElem l k).Pairwise (· < ·)
  replace h : l.Pairwise (· < ·) := h
  induction l with
  | nil => exact List.pairwise_singleton _ k
  | cons x l ih =>
    obtain ⟨hx, hl⟩ := List.pairwise_cons.mp h
    unfold putElem
    split_ifs with h1 h2
    · exact .cons (fun y hy => (List.mem_cons.mp hy).elim (· ▸ h1) fun hy => h1.trans (hx y hy)) h
    · exact h
    · refine .cons (fun y hy => ?_) (ih hl)
      rcases (mem_putElem l k y).mp hy with rfl | hy
      · omega
      · exact hx y hy

theorem NatSet.Rising.put {m : NatSet} {k b} (h : m.Rising) : (m.put k b).Rising := by
  unfold NatSet.put
  split
  · exact h.insert
  · exact h.erase

theorem NatSet.Rising.putRange {m : NatSet} {k b n} (h : m.Rising) : (m.putRange k b n).Rising := by
  induction n generalizing m k with
  | zero => exact h
  | succ n ih => exact ih h.put

theorem NatSet.Rising.foldl {α : Type} {f : NatSet → α → NatSet} {l : List α} {m : NatSet} (h : m.Rising)
    (hf : ∀ m a, m.Rising → (f m a).Rising) : (l.foldl f m).Rising :=
  List.foldlRecOn l f h fun m hm a _ => hf m a hm

/-- The marks after a write (R138, R12). -/
theorem NatSet.Rising.badAfter {m : NatSet} {unit a n bad} (h : m.Rising) : (badAfter m unit a n bad).Rising := by
  unfold Machine.badAfter
  split
  · exact h
  · split <;> exact h.putRange

/-! ## The memories of a unit -/

/-- Local store stands in canonical form. -/
def LocalStore.Canonical (l : LocalStore) : Prop := l.bytes.wf = true ∧ l.bad.Rising ∧ l.empty.Rising

/-- The slots and tiles of a matrix engine stand in canonical form. -/
def MatrixEngine.Canonical (m : MatrixEngine) : Prop :=
  m.slotBytes.wf = true ∧ m.slotBad.Rising ∧ m.tileBytes.wf = true ∧ m.tileBad.Rising

/-- A pillar is canonical when its local store and its matrix engine are. -/
theorem Pillar.canonical_iff {x : Pillar} : x.Canonical ↔ x.ls.Canonical ∧ x.mtx.Canonical := by
  unfold Pillar.Canonical LocalStore.Canonical MatrixEngine.Canonical
  tauto

theorem Pillar.Canonical.ls {x : Pillar} (hx : x.Canonical) : x.ls.Canonical := (Pillar.canonical_iff.mp hx).1

theorem Pillar.Canonical.mtx {x : Pillar} (hx : x.Canonical) : x.mtx.Canonical := (Pillar.canonical_iff.mp hx).2

theorem Pillar.Canonical.withLs {x : Pillar} {l : LocalStore} (hx : x.Canonical) (hl : l.Canonical) :
    ({ x with ls := l } : Pillar).Canonical := Pillar.canonical_iff.mpr ⟨hl, hx.mtx⟩
theorem Pillar.Canonical.withMtx {x : Pillar} {m : MatrixEngine} (hx : x.Canonical) (hm : m.Canonical) :
    ({ x with mtx := m } : Pillar).Canonical := Pillar.canonical_iff.mpr ⟨hx.ls, hm⟩

theorem Pillar.reset_canonical : Pillar.reset.Canonical := ⟨rfl, .nil, .nil, rfl, .nil, rfl, .nil⟩

/-! ## What is not memory does not matter -/

/-- A pillar with the memories of a canonical one. -/
theorem Pillar.Canonical.frame {x y : Pillar} (hx : x.Canonical) (hl : y.ls = x.ls := by rfl)
    (hm : y.mtx = x.mtx := by rfl) : y.Canonical := by
  rw [Pillar.canonical_iff, hl, hm]
  exact Pillar.canonical_iff.mp hx

theorem Pillar.Canonical.ite {c : Prop} [Decidable c] {x y : Pillar} (hx : x.Canonical) (hy : y.Canonical) :
    (if c then x else y).Canonical := by
  split
  · exact hx
  · exact hy

theorem Pillar.Canonical.foldl {α : Type} {f : Pillar → α → Pillar} {l : List α} {x : Pillar} (hx : x.Canonical)
    (hf : ∀ x a, x.Canonical → (f x a).Canonical) : (l.foldl f x).Canonical :=
  List.foldlRecOn l f hx fun x hx a _ => hf x a hx

/-- An engine with the memories of a canonical one. -/
theorem MatrixEngine.Canonical.frame {m n : MatrixEngine} (hm : m.Canonical) (h1 : n.slotBytes = m.slotBytes := by rfl)
    (h2 : n.slotBad = m.slotBad := by rfl) (h3 : n.tileBytes = m.tileBytes := by rfl)
    (h4 : n.tileBad = m.tileBad := by rfl) : n.Canonical := by
  unfold MatrixEngine.Canonical
  rw [h1, h2, h3, h4]
  exact hm

theorem MatrixEngine.Canonical.ite {c : Prop} [Decidable c] {m n : MatrixEngine} (hm : m.Canonical) (hn : n.Canonical) :
    (if c then m else n).Canonical := by
  split
  · exact hm
  · exact hn

theorem MatrixEngine.Canonical.foldl {α : Type} {f : MatrixEngine → α → MatrixEngine} {l : List α} {m : MatrixEngine}
    (hm : m.Canonical) (hf : ∀ m a, m.Canonical → (f m a).Canonical) : (l.foldl f m).Canonical :=
  List.foldlRecOn l f hm fun m hm a _ => hf m a hm

/-- A machine with the memories and the pillars of a canonical one. -/
theorem State.Canonical.frame {s : State} {stackUnits ctxBase launch host integrity safelight phasing drafts nextDraft procs
    trapMessages preempts saves clk curP curT agenda effects posted freeCount} (h : s.Canonical) :
    ({ s with stackUnits, ctxBase, launch, host, integrity, safelight, phasing, drafts, nextDraft, procs, trapMessages,
              preempts, saves, clk, curP, curT, agenda, effects, posted, freeCount } : State).Canonical := h

theorem State.Canonical.ite {c : Prop} [Decidable c] {s t : State} (hs : s.Canonical) (ht : t.Canonical) :
    (if c then s else t).Canonical := by
  split
  · exact hs
  · exact ht

theorem State.Canonical.foldl {α : Type} {f : State → α → State} {l : List α} {s : State} (h : s.Canonical)
    (hf : ∀ s a, s.Canonical → (f s a).Canonical) : (l.foldl f s).Canonical :=
  List.foldlRecOn l f h fun s h a _ => hf s a h

theorem State.Canonical.getD {o : Option State} {s : State} (ho : ∀ ⦃t⦄, o = some t → t.Canonical) (h : s.Canonical) :
    (o.getD s).Canonical := by
  cases o with
  | none => exact h
  | some t => exact ho rfl

/-- The state of a pair that a call gives. -/
theorem State.Canonical.of_fst {α : Type} {r : State × α} {t : State} {a : α} (h : r.1.Canonical) (e : r = (t, a)) :
    t.Canonical := by
  subst e
  exact h

/-! ## Pillars of the machine -/

theorem State.Canonical.pil {s : State} {p} (h : s.Canonical) : (s.pil p).Canonical := by
  unfold State.pil NatMap.getD NatMap.get?
  cases e : findEntry s.pillars.entries p.toNat with
  | none => exact Pillar.reset_canonical
  | some x => exact h.2.2 _ (mem_of_findEntry e)

theorem State.Canonical.me {s : State} (h : s.Canonical) : s.me.Canonical := h.pil

theorem State.Canonical.setPil {s : State} {p} {x : Pillar} (h : s.Canonical) (hx : x.Canonical) :
    (s.setPil p x).Canonical :=
  ⟨h.1, h.2.1, fun _ he => (mem_putEntry he).elim (fun e => e ▸ hx) (h.2.2 _)⟩

theorem State.Canonical.modPil {s : State} {p} {f : Pillar → Pillar} (h : s.Canonical)
    (hf : ∀ x : Pillar, x.Canonical → (f x).Canonical) : (s.modPil p f).Canonical := h.setPil (hf _ h.pil)

theorem State.Canonical.modMe {s : State} {f : Pillar → Pillar} (h : s.Canonical)
    (hf : ∀ x : Pillar, x.Canonical → (f x).Canonical) : (s.modMe f).Canonical := h.modPil hf

/-- Every pillar is changed in its place. -/
theorem State.Canonical.mapPillars {s t : State} {f : Nat × Pillar → Nat × Pillar} (h : s.Canonical)
    (hp : t.pillars = { entries := s.pillars.entries.map f }) (hf : ∀ e : Nat × Pillar, e.2.Canonical → (f e).2.Canonical)
    (hm : t.mem = s.mem := by rfl) (hb : t.memBad = s.memBad := by rfl) : t.Canonical := by
  unfold State.Canonical
  rw [hm, hb, hp]
  refine ⟨h.1, h.2.1, fun e he => ?_⟩
  obtain ⟨e', he', rfl⟩ := List.mem_map.mp he
  exact hf e' (h.2.2 e' he')

/-- A machine with other memory. -/
theorem State.Canonical.withMem {s : State} {m : Memory} {b : NatSet} (h : s.Canonical) (hm : m.wf = true) (hb : b.Rising) :
    ({ s with mem := m, memBad := b } : State).Canonical := ⟨hm, hb, h.2.2⟩

/-! ## Strands and counters -/

theorem Pillar.Canonical.setStrand {x : Pillar} {t r} (hx : x.Canonical) : (x.setStrand t r).Canonical := hx

theorem Pillar.Canonical.modStrand {x : Pillar} {t f} (hx : x.Canonical) : (x.modStrand t f).Canonical := hx

theorem State.Canonical.modStrand {s : State} {p t f} (h : s.Canonical) : (s.modStrand p t f).Canonical :=
  h.modPil fun _ hx => hx.modStrand

theorem State.Canonical.modSt {s : State} {f} (h : s.Canonical) : (s.modSt f).Canonical := h.modStrand

theorem Pillar.Canonical.count {x : Pillar} {n k} (hx : x.Canonical) : (x.count n k).Canonical := hx

/-! ## What a part of an instruction gives -/

/-- Whatever a computation gives, if it gives something, has a property. -/
def Gives {ε α : Type} (P : α → Prop) (r : Except ε α) : Prop := ∀ ⦃a⦄, r = .ok a → P a

namespace Gives
variable {ε α β : Type} {P : α → Prop} {Q : β → Prop}

theorem ok {a : α} (h : P a) : Gives P (.ok a : Except ε α) := by
  rintro _ ⟨⟩
  exact h

theorem error {e : ε} : Gives P (.error e : Except ε α) := by
  rintro _ ⟨⟩

theorem bind {x : Except ε β} {f : β → Except ε α} (hx : Gives Q x) (hf : ∀ b, Q b → Gives P (f b)) :
    Gives P (x >>= f) := by
  cases x with
  | ok b => exact hf b (hx rfl)
  | error e => exact error

/-- Nothing needs to be known of the first part. -/
theorem andThen {x : Except ε β} {f : β → Except ε α} (hf : ∀ b, Gives P (f b)) : Gives P (x >>= f) :=
  bind (Q := fun _ => True) (fun _ _ => trivial) fun b _ => hf b

theorem map {x : Except ε β} {f : β → α} (hx : Gives Q x) (hf : ∀ b, Q b → P (f b)) : Gives P (x.map f) := by
  cases x with
  | ok b => exact ok (hf b (hx rfl))
  | error e => exact error

theorem ite {c : Prop} [Decidable c] {x y : Except ε α} (hx : Gives P x) (hy : Gives P y) :
    Gives P (if c then x else y) := by
  split
  · exact hx
  · exact hy

end Gives

/-! ## How a step ends -/

/-- A step goes on, and from a canonical state to a canonical one. -/
def Keeps (s : State) (o : Out) : Prop := ∃ t, o = .next t ∧ (s.Canonical → t.Canonical)

theorem Keeps.next {s t : State} (h : s.Canonical → t.Canonical) : Keeps s (.next t) := ⟨t, rfl, h⟩

theorem Keeps.ite {c : Prop} [Decidable c] {s : State} {o o' : Out} (h : Keeps s o) (h' : Keeps s o') :
    Keeps s (if c then o else o') := by
  split
  · exact h
  · exact h'

/-- A step of a state that is canonical if another is. -/
theorem Keeps.of {s t : State} {o : Out} (ho : Keeps t o) (h : s.Canonical → t.Canonical) : Keeps s o := by
  obtain ⟨u, rfl, hu⟩ := ho
  exact ⟨u, rfl, hu ∘ h⟩

theorem Keeps.mapNext {s : State} {o : Out} {f : State → State} (ho : Keeps s o)
    (hf : ∀ s, s.Canonical → (f s).Canonical) : Keeps s (mapNext f o) := by
  obtain ⟨t, rfl, ht⟩ := ho
  exact ⟨f t, rfl, fun h => hf t (ht h)⟩
end

/-! ## What keeps canonical form: the operations of the state -/

theorem State.Canonical.focus {s : State} {p t} (h : s.Canonical) : (s.focus p t).Canonical := h

theorem State.Canonical.modStack {s : State} {n f} (h : s.Canonical) : (s.modStack n f).Canonical := h

theorem State.Canonical.count {s : State} {n k} (h : s.Canonical) : (s.count n k).Canonical :=
  h.modMe fun _ hx => hx.count

theorem State.Canonical.countStack {s : State} {st n k} (h : s.Canonical) : (s.countStack st n k).Canonical :=
  h.modStack

theorem State.Canonical.raiseVector {s : State} {v} (h : s.Canonical) : (s.raiseVector v).Canonical := h

theorem State.Canonical.setG {s : State} {n v} (h : s.Canonical) : (s.setG n v).Canonical := h.modSt

theorem State.Canonical.setGw {s : State} {n w} (h : s.Canonical) : (s.setGw n w).Canonical := h.setG

theorem State.Canonical.countMiss {s : State} {w missed walked} (h : s.Canonical) :
    (s.countMiss w missed walked).Canonical :=
  (h.modPil fun _ hx => hx.count).countStack.countStack

theorem State.Canonical.noteMiss {s : State} {w va} (h : s.Canonical) : (s.noteMiss w va).Canonical := by
  unfold State.noteMiss
  dsimp only
  split
  · exact h.countStack
  · exact h.countMiss

theorem State.Canonical.setPc {s : State} {pc} (h : s.Canonical) : (s.setPc pc).Canonical := h.modSt

theorem State.Canonical.issueAfter {s : State} {n} (h : s.Canonical) : (s.issueAfter n).Canonical := h.modSt

theorem State.Canonical.modJob {s : State} {n f} (h : s.Canonical) : (s.modJob n f).Canonical := h

theorem State.Canonical.countLaunch {s : State} {n k} (h : s.Canonical) : (s.countLaunch n k).Canonical := h

theorem State.Canonical.retire {s : State} {j state detail} (h : s.Canonical) :
    (s.retire j state detail).Canonical := by
  unfold State.retire
  dsimp only
  split <;> exact h.modJob.frame.countLaunch

theorem State.Canonical.killJob {s : State} {n} (h : s.Canonical) : (s.killJob n).Canonical := by
  unfold State.killJob
  split
  · exact h.retire
  · exact h

theorem State.Canonical.haltStack {s : State} {n m} (h : s.Canonical) : (s.haltStack n m).Canonical :=
  (h.modStack.frame.foldl fun _ _ h' => h'.killJob).raiseVector

theorem State.Canonical.sendTrapMessage {s : State} {p above fwd} (h : s.Canonical) :
    (s.sendTrapMessage p above fwd).Canonical := by
  unfold State.sendTrapMessage
  dsimp only
  split
  · exact .countStack h
  · exact h.haltStack

theorem State.Canonical.countCause {s : State} {c} (h : s.Canonical) : (s.countCause c).Canonical := by
  unfold State.countCause
  split
  · exact h.count
  · exact h.count
  · exact h.count
  · exact h

theorem State.Canonical.takeTrap {s : State} {e} (h : s.Canonical) : (s.takeTrap e).Canonical := by
  unfold State.takeTrap
  dsimp only
  split
  · exact h.countCause.modSt.count
  · exact h.countCause.modSt.sendTrapMessage

theorem State.Canonical.askAts {s : State} {w va} (h : s.Canonical) : (s.askAts w va).Canonical := by
  unfold State.askAts
  dsimp only
  split
  · exact h
  · exact h.noteMiss.frame

theorem State.Canonical.noteFault {s : State} {w a} (h : s.Canonical) : (s.noteFault w a).Canonical := by
  unfold State.noteFault
  split
  · exact h.noteMiss
  · split
    · exact h.noteMiss
    · exact h
  · exact h

theorem State.Canonical.sendPageRequest {s : State} {p asid va write r} (h : s.Canonical) :
    (s.sendPageRequest p asid va write r).1.Canonical := by
  have hc : (s.countStack (stackOf p) 0x4BD).Canonical := h.countStack
  unfold State.sendPageRequest
  dsimp only
  split <;> exact hc

theorem State.Canonical.requestFor {s : State} {p t va write} (h : s.Canonical) :
    (s.requestFor p t va write).Canonical :=
  h.sendPageRequest.modStrand

theorem Pillar.Canonical.modFibre {x : Pillar} {n f} (hx : x.Canonical) : (x.modFibre n f).Canonical := hx

theorem State.Canonical.storeFibre {s : State} {pc f} (h : s.Canonical) : (s.storeFibre pc f).Canonical :=
  (h.modMe fun _ hx => hx.modFibre).modSt

theorem State.Canonical.upcall {s : State} {cause va write} (h : s.Canonical) :
    (s.upcall cause va write).Canonical := by
  unfold State.upcall
  dsimp only
  exact .count (.modSt (.ite h.sendPageRequest.storeFibre (h.sendPageRequest.storeFibre.modMe fun _ hx => hx)))

theorem State.Canonical.stopped {s : State} {i a} (h : s.Canonical) : (s.stopped i a).Canonical := by
  unfold State.stopped
  split
  · exact h.noteFault.takeTrap
  · exact h.modSt
  · exact h.askAts.modSt
  · dsimp only
    split
    · exact h.noteMiss.upcall
    · exact h.noteMiss.requestFor.takeTrap

/-- What an instruction that sets the PC itself keeps. -/
theorem Keeps.finishAt {i} {s : State} {r : Act State} (hr : s.Canonical → Gives (·.Canonical) r) :
    Keeps s (finishAt i s r) := by
  cases r with
  | ok t => exact .next fun h => hr h rfl
  | error e => exact .next fun h => h.stopped

/-- What an instruction with the PC after it keeps. -/
theorem Keeps.finish {i} {s : State} {r : Act State} (hr : s.Canonical → Gives (·.Canonical) r) :
    Keeps s (finish i s r) :=
  .finishAt fun h => (hr h).map fun _ ht => ht.setPc

theorem Pillar.Canonical.modEngine {x : Pillar} {e f} (hx : x.Canonical) : (x.modEngine e f).Canonical := by
  unfold Pillar.modEngine
  split <;> exact hx

theorem State.Canonical.dispatchAs {s : State} {e d} (h : s.Canonical) : (s.dispatchAs e d).Canonical :=
  (h.modMe fun _ hx => hx.modEngine.frame).modSt

theorem State.Canonical.dispatch {s : State} {e i} (h : s.Canonical) : (s.dispatch e i).Canonical :=
  h.dispatchAs

theorem Pillar.Canonical.modRing {x : Pillar} {seq f} (hx : x.Canonical) : (x.modRing seq f).Canonical := by
  unfold Pillar.modRing
  split
  · split <;> exact hx
  · exact hx

theorem Pillar.Canonical.endSeq {x : Pillar} {seq} (hx : x.Canonical) : (x.endSeq seq).Canonical := hx.modRing

theorem Pillar.Canonical.raiseLate {x : Pillar} {t e} (hx : x.Canonical) : (x.raiseLate t e).Canonical := by
  unfold Pillar.raiseLate
  dsimp only
  split
  · exact hx.modStrand.modRing
  · exact hx.modStrand

theorem State.Canonical.deliver {s : State} {e} (h : s.Canonical) : (s.deliver e).Canonical :=
  (State.Canonical.ite (h.modMe fun _ hx => hx.modRing) h).modSt.takeTrap.count

/-! ## What keeps canonical form: memory -/

theorem LocalStore.Canonical.store {l : LocalStore} {a n v bad} (hl : l.Canonical) :
    (l.store a n v bad).Canonical := by
  obtain ⟨hb, hp, he⟩ := hl
  exact ⟨Memory.wf_write a n v hb, hp.badAfter, he⟩

theorem Pillar.Canonical.lsWrite {x : Pillar} {a n v bad} (hx : x.Canonical) :
    (x.lsWrite a n v bad).Canonical :=
  (hx.withLs hx.ls.store).frame

theorem Pillar.Canonical.setEmpty {x : Pillar} {w e n} (hx : x.Canonical) : (x.setEmpty w e n).Canonical := by
  obtain ⟨hb, hp, he⟩ := hx.ls
  exact hx.withLs ⟨hb, hp, he.putRange⟩

theorem Pillar.Canonical.lsWriteFull {x : Pillar} {a v bad} (hx : x.Canonical) :
    (x.lsWriteFull a v bad).Canonical :=
  hx.lsWrite.setEmpty

theorem State.Canonical.physWrite {s : State} {pa n v bad} (h : s.Canonical) :
    (s.physWrite pa n v bad).Canonical :=
  h.withMem (Memory.wf_write pa n v h.1) h.2.1.badAfter

theorem Pillar.Canonical.modStream {x : Pillar} {f} (hx : x.Canonical) : (x.modStream f).Canonical := hx

theorem Pillar.Canonical.interfere {x : Pillar} {clk} (hx : x.Canonical) : (x.interfere clk).Canonical := by
  unfold Pillar.interfere
  split
  · split
    · exact hx.modStream.count
    · exact hx
  · exact hx

theorem State.Canonical.useRow {s : State} {pa} (h : s.Canonical) : (s.useRow pa).Canonical := by
  unfold State.useRow
  split
  · exact h.modPil fun _ hx => hx.interfere.frame
  · exact h

theorem State.Canonical.countForward {s : State} {q} (h : s.Canonical) : (s.countForward q).Canonical := by
  unfold State.countForward
  split
  · exact h
  · exact h.modPil fun _ hx => hx.count

theorem State.Canonical.noteDirect {s : State} {pa} (h : s.Canonical) : (s.noteDirect pa).Canonical := by
  unfold State.noteDirect
  split
  · exact h.countForward
  · exact h

theorem State.Canonical.noteWalk {s : State} {asid va} (h : s.Canonical) : (s.noteWalk asid va).Canonical := by
  unfold State.noteWalk
  split
  · exact h.foldl fun _ _ h' => h'.noteDirect
  · exact h

theorem State.Canonical.noteXlate {s : State} {w x} (h : s.Canonical) : (s.noteXlate w x).Canonical := by
  have hp : ∀ x e, Pillar.Canonical x →
      (if w.shuttle then x
        else if w.tile then { x with tileTlb := touchTlb 32 x.tileTlb e }
        else { x with dataTlb := touchTlb 64 x.dataTlb e } : Pillar).Canonical := fun _ _ hx => .ite hx (.ite hx hx)
  unfold State.noteXlate
  extract_lets st missed walked s1 s2 s3
  have h1 : s1.Canonical := h.countMiss
  have h2 : s2.Canonical := .ite h1.noteWalk h1
  have h3 : s3.Canonical := h2.modPil fun x hx => hp x _ hx
  exact .ite (.ite h h.countStack.noteWalk) (.ite h3.modStack h3)

theorem State.Canonical.noteRewrite {s : State} {p q} (h : s.Canonical) : (s.noteRewrite p q).Canonical :=
  h.countForward

theorem State.Canonical.noteForward {s : State} {p pa} (h : s.Canonical) : (s.noteForward p pa).Canonical := by
  unfold State.noteForward
  split
  · exact h.noteRewrite
  · exact h

/-! ## What keeps canonical form: devices -/

theorem State.Canonical.setLq {s : State} {n q} (h : s.Canonical) : (s.setLq n q).Canonical := h

theorem State.Canonical.setHq {s : State} {n q} (h : s.Canonical) : (s.setHq n q).Canonical := h

theorem State.Canonical.answer {s : State} {a} (h : s.Canonical) : (s.answer a).Canonical := h

theorem State.Canonical.next {s : State} {e} (h : s.Canonical) : (s.next e).Canonical := h

theorem State.Canonical.writeLaunch {s : State} {off v} (h : s.Canonical) :
    (s.writeLaunch off v).Canonical := by
  unfold State.writeLaunch
  split
  · dsimp only
    split
    · split
      · exact h
      · exact h.setLq
    · exact h.setLq
    · exact h.next
    · exact h
  · split
    · exact h.next
    · exact h

theorem State.Canonical.writeHostQueue {s : State} {off v} (h : s.Canonical) :
    (s.writeHostQueue off v).Canonical := by
  unfold State.writeHostQueue
  dsimp only
  split
  · exact h.setHq
  · exact h.setHq
  · exact h.setHq
  · exact h.next
  · exact h

theorem State.Canonical.writeShuttle {s : State} {st off v} (h : s.Canonical) :
    (s.writeShuttle st off v).Canonical := by
  unfold State.writeShuttle
  split
  · dsimp only
    split
    · exact h.next
    · split
      · exact h.next
      · exact h
  · exact h

theorem State.Canonical.writeIntegrity {s : State} {lvl off v} (h : s.Canonical) :
    (s.writeIntegrity lvl off v).Canonical := by
  unfold State.writeIntegrity
  split
  · exact .ite h (.ite (.next h) h)
  · split <;> exact h
  · exact h.next
  · exact h

theorem State.Canonical.writePeer {s : State} {p v} (h : s.Canonical) : (s.writePeer p v).Canonical :=
  .ite (.next h) h

theorem State.Canonical.writeUa {s : State} {off v} (h : s.Canonical) : (s.writeUa off v).Canonical := by
  unfold State.writeUa
  split
  · split <;> exact h
  · split
    · exact h
    · split
      · exact h
      · split
        · exact h.writePeer
        · exact h

theorem State.Canonical.writeSafelight {s : State} {off v} (h : s.Canonical) :
    (s.writeSafelight off v).Canonical := by
  unfold State.writeSafelight
  split
  · exact h
  · split
    · exact h.next
    · exact h

theorem State.Canonical.writePower {s : State} {lvl off v} (h : s.Canonical) :
    (s.writePower lvl off v).Canonical := by
  unfold State.writePower
  split
  · exact h
  · split <;> split <;> exact h

theorem State.Canonical.devWrite {s : State} {lvl off v} (h : s.Canonical) :
    (s.devWrite lvl off v).Canonical := by
  unfold State.devWrite
  split
  · exact h.writeLaunch
  · split
    · exact h.writeHostQueue
    · split
      · exact h.setHq
      · split
        · exact h.writeShuttle
        · split
          · exact h.writeIntegrity
          · split
            · exact h.writeUa
            · split
              · exact h.writeSafelight
              · split
                · exact h.writePower
                · split
                  · split
                    · exact h
                    · exact h.next
                  · exact h

/-! ## What keeps canonical form: accesses -/

theorem State.Canonical.drainStore {s : State} {p t} (h : s.Canonical) : (s.drainStore p t).Canonical := by
  unfold State.drainStore
  split
  · exact h.physWrite.useRow.modStrand
  · exact h

theorem State.Canonical.logEgress {s : State} {p kind len dest} (h : s.Canonical) :
    (s.logEgress p kind len dest).Canonical :=
  h.physWrite.modPil fun _ hx => hx

theorem State.Canonical.holdWorm {s : State} {p t ord flits seq lvl ringed} (h : s.Canonical) :
    (s.holdWorm p t ord flits seq lvl ringed).Canonical :=
  h.modStrand

theorem State.Canonical.holdAccess {s : State} {flits} (h : s.Canonical) : (s.holdAccess flits).Canonical :=
  h.holdWorm.modSt

theorem State.Canonical.freeValue {s : State} {n} (h : s.Canonical) : (s.freeValue n).1.Canonical := h

theorem State.Canonical.noteAgent {s : State} {p pa} (h : s.Canonical) : (s.noteAgent p pa).Canonical := by
  unfold State.noteAgent
  split
  · split
    · exact h
    · exact h.modPil fun _ hx => hx.count
  · exact h

theorem State.Canonical.performMem {s : State} {stores o pa x y} (h : s.Canonical) :
    (s.performMem stores o pa x y).1.Canonical := by
  unfold State.performMem
  dsimp only
  split
  · exact h.useRow.physWrite
  · exact h.useRow

theorem State.Canonical.noteEgress {s : State} {p o pa} (h : s.Canonical) :
    (s.noteEgress p o pa).Canonical := by
  unfold State.noteEgress
  split
  · split
    · exact h.logEgress
    · exact h.logEgress
    · exact h
  · exact h

theorem State.Canonical.performRemote {s : State} {p discarded o pa x y} (h : s.Canonical) :
    (s.performRemote p discarded o pa x y).1.Canonical := by
  unfold State.performRemote
  split
  · exact h.freeValue
  · split
    · exact h.noteAgent.performMem
    · exact h.noteAgent.performMem
    · split
      · exact h.devWrite
      · exact h
    · exact h.freeValue

theorem State.Canonical.park {s : State} {pc k} (h : s.Canonical) : (s.park pc k).Canonical :=
  h.storeFibre.count

theorem State.Canonical.awaitData {s : State} {i o v} (h : s.Canonical) : (s.awaitData i o v).Canonical := by
  unfold State.awaitData
  dsimp only
  split
  · exact h.park
  · exact (State.Canonical.ite h.setG h).modSt

theorem State.Canonical.awaitRemote {s : State} {i pa va x y} (h : s.Canonical) :
    (s.awaitRemote i pa va x y).Canonical := by
  unfold State.awaitRemote
  split
  · exact h.park
  · exact h.modSt

theorem State.Canonical.sendAway {s : State} {i o pl pa va a b} (h : s.Canonical) :
    Gives (·.Canonical) (s.sendAway i o pl pa va a b) := by
  unfold State.sendAway
  split
  · exact .ok h.noteEgress.awaitRemote
  · split
    · exact .ok h.park
    · exact .error

theorem State.Canonical.performAt {s : State} {i o pa va a b} (h : s.Canonical) :
    Gives (·.Canonical) (s.performAt i o pa va a b) := by
  unfold State.performAt
  dsimp only
  split
  · split
    · exact .error
    · split
      · exact .ok h.performRemote.awaitData
      · exact .ok h.holdAccess.awaitRemote
  · split
    · split
      · split
        · exact .ok h.modSt
        · exact .error
      · split
        · exact .error
        · exact .ok h.noteAgent.performMem.awaitData
    · exact .ok h.performMem.awaitData
    · exact .ok h.performRemote.awaitData
    · exact h.sendAway

theorem State.Canonical.accessError {s : State} {i pa c v} (h : s.Canonical) :
    (s.accessError i pa c v).Canonical :=
  .ite h.park h.takeTrap

theorem State.Canonical.accessFrom {s : State} {i o va x} (h : s.Canonical) :
    Gives (·.Canonical) (s.accessFrom i o va x) := by
  unfold State.accessFrom
  split
  · exact h.noteXlate.noteForward.performAt
  · exact .ok h.noteForward.accessError
  · exact .error

theorem State.Canonical.access {s : State} {i f o} (h : s.Canonical) : Gives (·.Canonical) (s.access i f o) :=
  .andThen fun _ => h.accessFrom

theorem scalarAccess_keeps {i f o} {s : State} : Keeps s (scalarAccess i f o s) := .finishAt fun h => h.access

theorem State.Canonical.returnData {s : State} {i o v} (h : s.Canonical) : (s.returnData i o v).Canonical :=
  (State.Canonical.ite h.setG h).modSt

theorem execFence_keeps {f} {s : State} : Keeps s (execFence f s) := by
  unfold execFence
  refine .finish fun h => .andThen fun r => ?_
  split
  · exact .ok h.count.modSt
  · exact .andThen fun _ => .ok h.count

theorem State.Canonical.endFence {s : State} {p t} (h : s.Canonical) : (s.endFence p t).Canonical := by
  unfold State.endFence
  split
  · split
    · exact h.modStrand
    · exact h
  · exact h

theorem execStl_keeps {f} {s : State} : Keeps s (execStl f s) :=
  .finishAt fun h => .andThen fun _ => .andThen fun _ => h.accessFrom

theorem announceSc_keeps {i f o} {s : State} : Keeps s (announceSc i f o s) :=
  .finishAt fun h => .andThen fun _ => .andThen fun _ => .ok h.noteXlate.modSt

/-! ## What keeps canonical form: local store -/

theorem localLoad_keeps {i f n signed} {s : State} : Keeps s (localLoad i f n signed s) :=
  .finish fun h => .andThen fun _ => .andThen fun _ => .andThen fun _ => .andThen fun _ => .ok h.setG

theorem localStore_keeps {i f n} {s : State} : Keeps s (localStore i f n s) :=
  .finish fun h => .andThen fun _ => .andThen fun _ => .andThen fun _ => .ok (h.modMe fun _ hx => hx.lsWrite)

theorem Pillar.Canonical.takeWord {x : Pillar} {ea take} (hx : x.Canonical) :
    (x.takeWord ea take).1.Canonical := by
  unfold Pillar.takeWord
  split
  · exact hx.setEmpty
  · exact hx

theorem fullLoad_keeps {i f take} {s : State} : Keeps s (fullLoad i f take s) := by
  unfold fullLoad
  refine .finishAt fun h => .andThen fun r => .andThen fun ea => .andThen fun r1 => .andThen fun r2 => ?_
  split
  · exact .ok (h.setPil h.me.takeWord).setG.setPc
  · split
    · exact .ok h.park
    · exact .error

theorem execLstf_keeps {f} {s : State} : Keeps s (execLstf f s) :=
  .finish fun h => .andThen fun _ => .andThen fun _ => .andThen fun _ => .ok (h.modMe fun _ hx =>
    hx.lsWriteFull)

theorem setRange_keeps {i f empty} {s : State} : Keeps s (setRange i f empty s) := by
  unfold setRange
  refine .finish fun h => .andThen fun r => ?_
  split
  · exact .ok h
  · split
    · exact .error
    · exact .andThen fun _ => .ok (h.modMe fun _ hx => hx.setEmpty).issueAfter

theorem Pillar.Canonical.setSeg {x : Pillar} {n g} (hx : x.Canonical) : (x.setSeg n g).Canonical := hx

theorem Pillar.Canonical.dropSegs {x : Pillar} {states a n} (hx : x.Canonical) :
    (x.dropSegs states a n).Canonical :=
  hx

theorem execCfetch_keeps {f} {s : State} : Keeps s (execCfetch f s) :=
  .finish fun h => .andThen fun _ => .andThen fun _ => .andThen fun _ => .andThen fun _ =>
    .ok (h.dispatchAs.modMe fun _ hx => hx.dropSegs.setSeg)

theorem execCwait_keeps {f} {s : State} : Keeps s (execCwait f s) :=
  .finish fun h => .andThen fun _ => .andThen fun _ => .andThen fun _ => .ok h.setGw

theorem execJmpf_keeps {f} {s : State} : Keeps s (execJmpf f s) := by
  unfold execJmpf
  refine .finishAt fun h => .andThen fun r => .andThen fun a => .andThen fun r1 => ?_
  split
  · exact .error
  · exact .ok h.setGw.setPc.issueAfter

theorem execTlook_keeps {f} {s : State} : Keeps s (execTlook f s) := by
  unfold execTlook
  refine .finish fun h => .andThen fun r => .andThen fun r1 => ?_
  split
  · exact .ok (.count (.modMe (.setG h) fun _ hx => hx))
  · exact .ok h.setG.count

theorem Pillar.Canonical.setEmptyTag {x : Pillar} {w n g} (hx : x.Canonical) :
    ({ x.setEmpty w true n with tags := g } : Pillar).Canonical := by
  have he := hx.setEmpty (w := w) (e := true) (n := n)
  generalize x.setEmpty w true n = y at *
  exact he

theorem execTfill_keeps {f} {s : State} : Keeps s (execTfill f s) :=
  .finish fun h => .andThen fun _ => .andThen fun _ => .andThen fun _ => .andThen fun _ => .andThen fun _ =>
    .andThen fun _ => .ok (.modMe h.dispatchAs fun _ hx => .setEmptyTag hx)

theorem execTevict_keeps {f} {s : State} : Keeps s (execTevict f s) := by
  unfold execTevict
  refine .finish fun h => .andThen fun _ => ?_
  extract_lets j code g invalid wb s1 s2
  have hi : ∀ {t}, State.Canonical t → (invalid t).Canonical := fun ht => ht.modMe fun _ hx => hx
  have h1 : s1.Canonical := h.setG.modMe fun _ hx => hx
  refine .andThen fun _ => .andThen fun _ => .andThen fun _ => .ite ?_ (.ok (hi h.setG))
  exact .ok (hi h1.modSt).issueAfter.count

theorem execTinval_keeps {f} {s : State} : Keeps s (execTinval f s) := by
  unfold execTinval
  refine .finish fun h => ?_
  dsimp only
  split
  · exact .andThen fun _ => .ok (h.modMe fun _ hx => hx)
  · exact .andThen fun _ => .andThen fun _ => .andThen fun _ => .ok (h.modMe fun _ hx => hx)

/-! ## What keeps canonical form: fibres -/

theorem Pillar.Canonical.wake {x : Pillar} {j f} (hx : x.Canonical) : (x.wake j f).Canonical :=
  hx

theorem Pillar.Canonical.setCounter {x : Pillar} {ca v} (hx : x.Canonical) : (x.setCounter ca v).Canonical :=
  hx.lsWrite

theorem Pillar.Canonical.decrement {x : Pillar} {ca} (hx : x.Canonical) : (x.decrement ca).Canonical := by
  unfold Pillar.decrement
  dsimp only
  split
  · exact hx.count
  · split
    · split
      · exact hx.setCounter.wake
      · exact hx.setCounter
    · exact hx.setCounter

theorem execFrun_keeps {f} {s : State} : Keeps s (execFrun f s) :=
  .finishAt fun h => .andThen fun _ => .andThen fun _ => .andThen fun _ => .ok h.modSt

theorem execFstop_keeps {f} {s : State} : Keeps s (execFstop f s) :=
  .finish fun h => .ok (h.modMe fun _ hx => hx)

theorem execFork_keeps {f} {s : State} : Keeps s (execFork f s) := by
  unfold execFork
  refine .finish fun h => .andThen fun _ => .andThen fun _ => ?_
  extract_lets ca v child jp
  have hj : ∀ r, Gives State.Canonical (jp r) := fun _ => by
    unfold jp
    split
    · exact .ok h.setGw.count
    · exact .andThen fun _ => .andThen fun _ => .ok (.count (.setGw (.modMe h fun _ hx => .ite hx hx.setCounter)))
  exact .ite (.andThen fun _ => hj ()) (hj ())

theorem execJoin_keeps {f} {s : State} : Keeps s (execJoin f s) := by
  unfold execJoin
  refine .finishAt fun h => .andThen fun r => .andThen fun r1 => ?_
  split
  · exact .ok h.setPc
  · refine .andThen fun r2 => ?_
    split
    · exact .ok (h.modMe fun _ hx => hx.setCounter).park
    · exact .error

theorem execFyield_keeps {f} {s : State} : Keeps s (execFyield f s) :=
  .finishAt fun h => .andThen fun _ => .ok (h.storeFibre.modMe fun _ hx => hx)

theorem State.Canonical.releaseLink {s : State} {p ca} (h : s.Canonical) : (s.releaseLink p ca).Canonical := by
  unfold State.releaseLink
  split
  · exact (State.Canonical.ite h.noteRewrite (h.noteRewrite.modPil fun _ hx => hx.count)).modPil fun _ hx =>
      hx.decrement
  · exact h.modMe fun _ hx => hx.raiseLate
  · exact h

theorem execFexit_keeps {f} {s : State} : Keeps s (execFexit f s) := by
  refine .finishAt fun h => .andThen fun _ => ?_
  extract_lets j link s1 jp
  have h1 : s1.Canonical := h.modSt.modMe fun _ hx => hx.modFibre
  clear_value link s1
  have hj : ∀ r, Gives State.Canonical (jp r) := fun r => by
    cases link with
    | some l => exact .ok h1.releaseLink
    | none => exact .ok h1
  cases link with
  | some l => exact .andThen fun _ => .andThen hj
  | none => exact hj ()

theorem resumeJoin_keeps {f} {s : State} : Keeps s (resumeJoin f s) := by
  unfold resumeJoin
  refine .finishAt fun h => .andThen fun r => .andThen fun r1 => ?_
  split
  · exact .ok h.setPc
  · exact .error

theorem State.Canonical.loadFibre {s : State} {j} (h : s.Canonical) : (s.loadFibre j).Canonical := by
  unfold State.loadFibre
  extract_lets y s1 s2
  have h2 : s2.Canonical := .modSt (.modMe h fun _ hx => hx)
  split
  · exact h2.takeTrap
  · exact h2

theorem State.Canonical.runnerIdle {s : State} {p t} (h : s.Canonical) : (s.runnerIdle p t).Canonical :=
  h.modStrand

theorem execRunnerLoadFibre_keeps {p t} {s : State} : Keeps s (execRunnerLoadFibre p t s) := by
  unfold execRunnerLoadFibre
  split
  · exact .next id
  · dsimp only
    split
    · exact .next fun h => h.focus.modSt
    · split
      · exact .next fun h => h.focus.loadFibre
      · split
        · exact .next fun h => h.focus.modSt
        · exact .next fun h => h.focus.runnerIdle

theorem State.Canonical.wakeRemote {s : State} {p j i pa va x y t worm} (h : s.Canonical) :
    (s.wakeRemote p j i pa va x y t worm).Canonical := by
  unfold State.wakeRemote
  split
  · exact h
  · dsimp only
    split
    · split
      · exact (h.focus.modPil fun _ hx => hx.wake).modPil fun _ hx => hx.wake
      · exact h.focus.modPil fun _ hx => hx.wake
    · exact h.focus
    · split
      · exact (h.focus.performRemote.modPil fun _ hx => hx.wake).modPil fun _ hx => hx.wake
      · exact h.focus.performRemote.modPil fun _ hx => hx.wake

theorem State.Canonical.sendParked {s : State} {p j i pa va x y t} (h : s.Canonical) :
    (s.sendParked p j i pa va x y t).Canonical := by
  unfold State.sendParked
  refine State.Canonical.modPil ?_ fun _ hx => hx.modFibre
  split
  · exact h.noteEgress
  · exact h

theorem execFibreWake_keeps {p slot} {s : State} : Keeps s (execFibreWake p slot s) := by
  unfold execFibreWake
  dsimp only
  split
  · exact .next id
  · split
    · exact .next fun h => h.setPil h.pil.wake
    · exact .next fun h => h.setPil h.pil.wake
    · exact .next fun h => h.setPil h.pil.wake
    · exact .next fun h => h.wakeRemote
    · exact .next fun h => h.sendParked
    · exact .next fun h => h.setPil h.pil.takeWord.wake
    · exact .next fun h => h.setPil h.pil.wake
    · exact .next id

theorem State.Canonical.drainAll {s : State} {q} (h : s.Canonical) : (s.drainAll q).Canonical :=
  h.foldl fun _ _ h' => h'.foldl fun _ _ h' => h'.drainStore

theorem State.Canonical.steal {s : State} {p q j} (h : s.Canonical) : (s.steal p q j).Canonical := by
  have h1 : (s.drainAll q).Canonical := h.drainAll
  unfold State.steal
  generalize s.drainAll q = s at *
  exact .modPil (.setPil h1 h1.pil.frame) fun _ hx => hx.frame

theorem State.Canonical.stealFails {s : State} {p t} (h : s.Canonical) : (s.stealFails p t).Canonical :=
  h.runnerIdle.modPil fun _ hx => hx.count

theorem execStealRound_keeps {p t} {s : State} : Keeps s (execStealRound p t s) := by
  unfold execStealRound
  split
  · exact .next id
  · split
    · exact .next fun h => State.Canonical.ite h.steal h
    · exact .next fun h => h.stealFails

theorem execStealBackoffExpiry_keeps {p t} {s : State} : Keeps s (execStealBackoffExpiry p t s) :=
  .next fun h => h.modStrand

/-! ## What keeps canonical form: transfers -/

theorem State.Canonical.raiseEngine {s : State} {p t seq lvl ringed tile e} (h : s.Canonical) :
    (s.raiseEngine p t seq lvl ringed tile e).Canonical := by
  unfold State.raiseEngine
  dsimp only
  split
  · exact h.noteFault.modPil fun _ hx => hx.raiseLate
  · exact h.noteFault.requestFor.modPil fun _ hx => hx.raiseLate
  · exact h.noteFault.askAts
  · exact h.noteFault

theorem State.Canonical.holdOff {s : State} {e} (h : s.Canonical) :
    ∀ ⦃t⦄, s.holdOff e = some t → t.Canonical := by
  intro t ht
  cases e with
  | wait => exact Option.some.inj ht ▸ h
  | ats w va => exact Option.some.inj ht ▸ h.askAts
  | trap | pageFault => cases ht

theorem State.Canonical.raiseStop {s : State} {p t seq lvl e tile} (h : s.Canonical) :
    (s.raiseStop p t seq lvl e tile).Canonical :=
  h.raiseEngine

theorem State.Canonical.raiseUnringed {s : State} {p t seq lvl e tile} (h : s.Canonical) :
    (s.raiseUnringed p t seq lvl e tile).Canonical :=
  h.raiseEngine

theorem State.Canonical.noteRequest {s : State} {w pa} (h : s.Canonical) : (s.noteRequest w pa).Canonical := by
  unfold State.noteRequest
  split
  · exact h.noteDirect
  · exact h.noteForward

theorem State.Canonical.noteAttempt {s : State} {w kind va} (h : s.Canonical) :
    (s.noteAttempt w kind va).Canonical := by
  unfold State.noteAttempt
  split
  · exact h.noteRequest
  · exact h

theorem State.Canonical.touchRow {s : State} {w pa} (h : s.Canonical) : (s.touchRow w pa).Canonical := by
  unfold State.touchRow
  split
  · split
    · exact h.modPil fun _ hx => hx
    · exact h.useRow
  · exact h

theorem State.Canonical.readPart {s : State} {w kind va n beat} (h : s.Canonical) :
    Gives (·.1.Canonical) (s.readPart w kind va n beat) := by
  unfold State.readPart
  refine .andThen fun a => .andThen fun _ => ?_
  extract_lets s1 s2 free
  have h1 : s1.Canonical := h.noteXlate
  have h2 : s2.Canonical := .ite h1.noteRequest h1
  have hf : free.1.Canonical := h2.freeValue
  refine .ite (.ok hf) ?_
  split
  · exact .ok (.ite h2.touchRow h2)
  · exact .ok (.ite h2.touchRow h2)
  · exact .ok h2
  · exact .ok hf

theorem State.Canonical.noteBulk {s : State} {w kind va} (h : s.Canonical) :
    (s.noteBulk w kind va).Canonical := by
  unfold State.noteBulk
  split
  · split
    · exact h
    · split
      · split
        · exact h
        · exact h.modPil fun _ hx => hx.count
      · exact h
  · exact h

theorem State.Canonical.readParts {w kind fuel} {s : State} {va n off m b} (h : s.Canonical) :
    Gives (·.1.Canonical) (State.readParts w kind fuel s va n off m b) := by
  induction fuel generalizing s va n off m b with
  | zero => exact .ok h
  | succ fuel ih =>
    unfold State.readParts
    split
    · exact .ok h
    · exact .bind h.readPart fun r hr => ih hr

theorem State.Canonical.readBytes {s : State} {w kind va n} (h : s.Canonical) :
    Gives (·.1.Canonical) (s.readBytes w kind va n) :=
  h.noteBulk.readParts

theorem NatSet.Rising.wholeRowBad {b : NatSet} {m key} (hb : b.Rising) : (wholeRowBad b m key).Rising :=
  hb.putRange.foldl fun _ _ hb => hb.insert

theorem State.Canonical.noteWritten {s : State} {m pa n bad} (h : s.Canonical) :
    (s.noteWritten m pa n bad).1.Canonical := by
  unfold State.noteWritten
  split
  · dsimp only
    split
    · exact (State.Canonical.ite (h.withMem h.1 h.2.1.wholeRowBad) h).modPil fun _ hx => hx
    · exact h
  · exact h

theorem State.Canonical.writePart {s : State} {w va n v bad beat m} (h : s.Canonical) :
    Gives (·.1.Canonical) (s.writePart w va n v bad beat m) := by
  unfold State.writePart
  refine .andThen fun r => .andThen fun r1 => ?_
  dsimp only
  split
  · exact .ok h.noteXlate.noteRequest
  · split
    · exact .ok (State.Canonical.ite h.noteXlate.noteRequest.physWrite.touchRow
        h.noteXlate.noteRequest.physWrite).noteWritten
    · exact .ok (State.Canonical.ite h.noteXlate.noteRequest.physWrite.touchRow
        h.noteXlate.noteRequest.physWrite).noteWritten
    · split
      · exact .error
      · split
        · exact .ok h.noteXlate.noteRequest.devWrite
        · exact .ok h.noteXlate.noteRequest

theorem State.Canonical.writeParts {w buf bufBad fuel} {s : State} {va n off first m} (h : s.Canonical) :
    Gives (·.1.Canonical) (State.writeParts w buf bufBad fuel s va n off first m) := by
  induction fuel generalizing s va n off first m with
  | zero => exact .ok h
  | succ fuel ih =>
    unfold State.writeParts
    split
    · exact .ok h
    · exact .bind h.writePart fun r hr => ih hr

theorem State.Canonical.noteEgressWrite {s : State} {w va n} (h : s.Canonical) :
    (s.noteEgressWrite w va n).Canonical := by
  unfold State.noteEgressWrite
  split
  · split
    · exact h
    · split
      · exact h.logEgress
      · exact h.logEgress
      · exact h
  · exact h

theorem State.Canonical.writeBytes {s : State} {w va n buf bufBad off m} (h : s.Canonical) :
    Gives (·.1.Canonical) (s.writeBytes w va n buf bufBad off m) :=
  h.noteBulk.noteEgressWrite.writeParts

theorem Memory.wf_setElem {m : Memory} {row w c v} (hm : m.wf = true) : (m.setElem row w c v).wf = true := by
  unfold Memory.setElem
  split
  · exact wf_set _ _ hm
  · exact wf_write _ _ _ hm

theorem NatSet.Rising.setElemBad {b : NatSet} {row w c bad} (hb : b.Rising) :
    (b.setElemBad row w c bad).Rising := by
  unfold NatSet.setElemBad
  split
  · split
    · exact hb.put
    · exact hb
  · exact hb.putRange

/-! ## What keeps canonical form: the tile pipe -/

theorem Pillar.Canonical.requestRows {x : Pillar} {clk t rows} (hx : x.Canonical) :
    (x.requestRows clk t rows).Canonical := by
  unfold Pillar.requestRows
  dsimp only
  split <;> exact hx

theorem Pillar.Canonical.retryRows {x : Pillar} {clk} (hx : x.Canonical) : (x.retryRows clk).Canonical :=
  .foldl hx fun _ _ hx' => .requestRows hx'

theorem Pillar.Canonical.unpin {x : Pillar} {clk} (hx : x.Canonical) : (x.unpin clk).Canonical := by
  unfold Pillar.unpin
  split
  · exact hx
  · exact .retryRows hx

theorem execRowActivationDone_keeps {p bank} {s : State} : Keeps s (execRowActivationDone p bank s) := by
  unfold execRowActivationDone
  dsimp only
  split
  · split
    · exact .next id
    · exact .next fun h => h.setPil h.pil.frame.retryRows
  · exact .next id

theorem State.Canonical.acceptRowact {s : State} {p d f} (h : s.Canonical) : (s.acceptRowact p d f).Canonical :=
  h.modPil fun _ hx => hx.requestRows.count.endSeq

theorem State.Canonical.acceptRowclose {s : State} {p d f} (h : s.Canonical) :
    (s.acceptRowclose p d f).Canonical :=
  .modPil h fun _ hx => .endSeq (.count hx)

theorem State.Canonical.markRows {s : State} {p d mark l} (h : s.Canonical) :
    (s.markRows p d mark l).Canonical := by
  induction l generalizing s with
  | nil => exact h.modPil fun _ hx => hx.endSeq
  | cons r l ih =>
    cases r with
    | row r => exact ih (h.modPil fun _ hx => hx)
    | bad n why => exact h.raiseStop

theorem State.Canonical.acceptRowshort {s : State} {p d f} (h : s.Canonical) :
    (s.acceptRowshort p d f).Canonical :=
  h.markRows

theorem State.Canonical.acceptRowkeep {s : State} {p d f} (h : s.Canonical) :
    (s.acceptRowkeep p d f).Canonical :=
  h.markRows

theorem rowIssue_keeps {i f} {s : State} : Keeps s (rowIssue i f s) :=
  .finish fun h => .ite (.andThen fun _ => .andThen fun _ => .ok h.dispatchAs) (.andThen fun _ => .ok h.dispatchAs)

theorem Pillar.Canonical.storeRecord {x : Pillar} {a v bad} (hx : x.Canonical) :
    (x.storeRecord a v bad).Canonical :=
  hx.foldl fun _ _ hx' => hx'.lsWrite

theorem execShld_keeps {f} {s : State} : Keeps s (execShld f s) :=
  .finish fun h => .andThen fun _ => .andThen fun _ => .andThen fun _ => .ok h.modSt

theorem execShst_keeps {f} {s : State} : Keeps s (execShst f s) :=
  .finish fun h => .andThen fun _ => .andThen fun _ => .andThen fun _ => .ok (h.modMe fun _ hx =>
    hx.storeRecord)

theorem execShset_keeps {f} {s : State} : Keeps s (execShset f s) := .finish fun h => .ok h.modSt

theorem MatrixEngine.Canonical.modSlot {m : MatrixEngine} {j f} (hm : m.Canonical) :
    (m.modSlot j f).Canonical :=
  hm

theorem MatrixEngine.Canonical.setSpool {m : MatrixEngine} {n q} (hm : m.Canonical) :
    (m.setSpool n q).Canonical :=
  hm

theorem Pillar.Canonical.modMtx {x : Pillar} {f : MatrixEngine → MatrixEngine} (hx : x.Canonical)
    (hf : ∀ m : MatrixEngine, m.Canonical → (f m).Canonical) : (x.modMtx f).Canonical :=
  hx.withMtx (hf _ hx.mtx)

theorem tileLoadIssue_keeps {i f t c} {s : State} : Keeps s (tileLoadIssue i f t c s) := by
  have hok : ∀ {d j q}, s.Canonical → ((s.dispatchAs .tile d).modMe fun x => x.modMtx fun m =>
      (m.modSlot j fun h => { h with state := 1, tag := 0, poison := m.slotBad.hasAny (8192 * j) 8192 }).setSpool
        (bitsOf f.mod.toNat 2 0) q).Canonical :=
    fun h => h.dispatchAs.modMe fun _ hx => hx.modMtx fun _ hm => hm.modSlot.setSpool
  exact .finish fun h => .andThen fun _ => .ite .error (.andThen fun _ => .andThen fun _ => .andThen fun _ =>
    .ok (hok h))

theorem copyIssue_keeps {i f t c scale rowwise} {s : State} : Keeps s (copyIssue i f t c scale rowwise s) :=
  .finish fun h => .andThen fun _ => .andThen fun _ => .andThen fun _ =>
    .ite (.andThen fun _ => .andThen fun _ => .ok h.dispatchAs) (.andThen fun _ => .ok h.dispatchAs)

theorem Pillar.Canonical.addOp {x : Pillar} {o} (hx : x.Canonical) : (x.addOp o).Canonical := hx

theorem Pillar.Canonical.addFetch {x : Pillar} {o} (hx : x.Canonical) : (x.addFetch o).Canonical := hx

theorem State.Canonical.acceptTileInstr {s : State} {p d} (h : s.Canonical) :
    (s.acceptTileInstr p d).Canonical := by
  unfold State.acceptTileInstr
  split
  · exact h.acceptRowact
  · exact h.acceptRowclose
  · exact h.acceptRowshort
  · exact h.acceptRowkeep
  · exact h.modPil fun _ hx => hx.addFetch
  · exact h.modPil fun _ hx => hx.addFetch
  · exact h.modPil fun _ hx => hx.addOp

theorem State.Canonical.acceptTile {s : State} {p} (h : s.Canonical) : (s.acceptTile p).Canonical := by
  unfold State.acceptTile
  dsimp only
  split
  · exact h
  · split
    · exact h
    · exact (h.setPil h.pil.frame).acceptTileInstr

/-- A buffer of bytes with the marks of the poisoned ones stands in canonical form. -/
def BytesCanonical (m : Memory × NatSet) : Prop := m.1.wf = true ∧ m.2.Rising

theorem BytesCanonical.foldl {α : Type} {f : Memory × NatSet → α → Memory × NatSet} {l : List α} {m :
    Memory × NatSet}
    (hm : BytesCanonical m) (hf : ∀ m a, BytesCanonical m → BytesCanonical (f m a)) : BytesCanonical (l.foldl f m) :=
  List.foldlRecOn l f hm fun m hm a _ => hf m a hm

theorem BytesCanonical.placeElem {r : Shape} {m base pitch row c v bad} (hm : BytesCanonical m) :
    BytesCanonical (placeElem r m base pitch row c v bad) :=
  ⟨Memory.wf_setElem hm.1, hm.2.setElemBad⟩

theorem BytesCanonical.placeRow {o : TileOp} {m base} (hm : BytesCanonical m) :
    BytesCanonical (placeRow o m base) :=
  hm.foldl fun _ _ hm => hm.placeElem

/-- The slots of a canonical engine. -/
theorem MatrixEngine.Canonical.slotData {m : MatrixEngine} (hm : m.Canonical) :
    BytesCanonical (m.slotBytes, m.slotBad) :=
  ⟨hm.1, hm.2.1⟩

/-- An engine with other bytes in its slots. -/
theorem MatrixEngine.Canonical.withSlots {m : MatrixEngine} {b : Memory × NatSet} (hm : m.Canonical)
    (hb : BytesCanonical b) : ({ m with slotBytes := b.1, slotBad := b.2 } : MatrixEngine).Canonical :=
  ⟨hb.1, hb.2, hm.2.2⟩

theorem Pillar.Canonical.startStream {x : Pillar} {clk} (hx : x.Canonical) : (x.startStream clk).Canonical :=
  hx.modStream

theorem State.Canonical.endRow {s : State} {p o} (h : s.Canonical) : (s.endRow p o).Canonical :=
  h.modPil fun _ hx => Pillar.Canonical.ite hx.modStream.unpin.startStream hx.modStream.unpin

theorem State.Canonical.readScales {s : State} {w r first n} (h : s.Canonical) :
    Gives (·.1.Canonical) (s.readScales w r first n) :=
  h.readBytes

theorem State.Canonical.writeRows {w buf bad va n ks} {s : State} {m} (h : s.Canonical) :
    Gives (·.1.Canonical) (State.writeRows w buf bad va n ks s m) := by
  induction ks generalizing s m with
  | nil => exact .ok h
  | cons k ks ih => exact .bind h.writeBytes fun r hr => ih hr

theorem State.Canonical.writeBlock {s : State} {p o n} (h : s.Canonical) :
    Gives (·.1.Canonical) (s.writeBlock p o n) := by
  unfold State.writeBlock
  extract_lets w r dst first wbits
  split
  · exact .bind h.writeBytes fun _ h1 => .ok h1
  · refine .bind (Q := (·.1.Canonical)) ?_ fun _ h1 => ?_
    · split
      · exact .bind h.readScales fun _ h1 => .ok h1
      · exact .ok h
    · exact .ite (.bind h1.writeRows fun _ h2 => .ok h2) (.bind h1.writeRows fun _ h2 => .ok h2)

theorem Pillar.Canonical.stopStream {x : Pillar} {clk} (hx : x.Canonical) : (x.stopStream clk).Canonical := by
  unfold Pillar.stopStream
  split
  · exact .startStream (.unpin (.modStrand hx))
  · exact hx

theorem State.Canonical.stopTile {s : State} {p o e} (h : s.Canonical) : (s.stopTile p o e).Canonical :=
  State.Canonical.getD h.holdOff (h.modPil fun _ hx => hx.stopStream).raiseStop

theorem State.Canonical.finishRow {s : State} {p o} (h : s.Canonical) :
    Gives (·.1.Canonical) (s.finishRow p o) := by
  unfold State.finishRow
  split
  · exact .bind h.writeBlock fun _ hr => .ok hr
  · exact .ite (.ok (h.modPil fun _ hx => hx.modMtx fun _ hm => hm.withSlots hm.slotData.placeRow)) (.ok h)
  · exact .ok h

theorem Pillar.Canonical.chargeBeat {x : Pillar} {clk o row} (hx : x.Canonical) :
    (x.chargeBeat clk o row).Canonical :=
  hx

theorem Pillar.Canonical.makeUp {x : Pillar} {clk o row} (hx : x.Canonical) : (x.makeUp clk o row).Canonical :=
  hx.chargeBeat.modStream

theorem Pillar.Canonical.pin {x : Pillar} {row} (hx : x.Canonical) : (x.pin row).Canonical := hx

theorem Pillar.Canonical.delayRepaired {x : Pillar} {clk o row} (hx : x.Canonical) :
    (x.delayRepaired clk o row).Canonical :=
  hx.chargeBeat.modStream.count

theorem State.Canonical.holdRow {s : State} {p o pa} (h : s.Canonical) : (s.holdRow p o pa).Canonical :=
  h.holdWorm.modPil fun _ hx => hx.modStream

theorem State.Canonical.holdOutput {s : State} {p o} (h : s.Canonical) : (s.holdOutput p o).Canonical :=
  h.holdWorm.modPil fun _ hx => hx.modStream

theorem State.Canonical.completeRow {s : State} {p o} (h : s.Canonical) :
    Gives (·.Canonical) (s.completeRow p o) := by
  unfold State.completeRow
  split
  · exact .ok h.holdOutput
  · exact .bind h.finishRow fun r hr => .ok hr.endRow

theorem State.Canonical.beat {s : State} {p o} (h : s.Canonical) : Gives (·.Canonical) (s.beat p o) := by
  unfold State.beat
  refine .bind (State.Canonical.ite h.noteBulk h).readPart fun r hr => ?_
  exact .ite (.ok (.modPil hr fun _ hx => hx.modStream))
    (State.Canonical.completeRow (.modPil hr fun _ hx => hx.modStream))

theorem State.Canonical.streamOn {s : State} {p o} {r : Act State} (h : s.Canonical) (hr :
    Gives (·.Canonical) r) :
    (s.streamOn p o r).Canonical := by
  cases r with
  | ok t => exact hr rfl
  | error e => exact h.stopTile

theorem execTileBeatArrive_keeps {p} {s : State} : Keeps s (execTileBeatArrive p s) := by
  unfold execTileBeatArrive
  extract_lets x
  split
  · exact .next id
  · refine .ite (.next id) (.ite (.next fun h => .ite h (h.streamOn h.completeRow)) ?_)
    split
    · exact .ite (.next id) (.ite (.next fun h => h.modPil fun _ hx => hx.makeUp)
        (.ite (.next fun h => h.modPil fun _ hx => hx.delayRepaired)
        (.ite (.next fun h => h.streamOn (State.Canonical.modPil h fun _ hx => hx.chargeBeat.pin).beat)
        (.ite (.next id) (.next fun h => h.modPil fun _ hx => hx)))))
    · split
      · exact .next fun h => h.stopTile
      · exact .ite (.next id) (.ite (.next fun h => h.holdRow)
          (.ite (.next fun h => h.modPil fun _ hx => hx.modStream) (.next fun h => h.streamOn h.beat)))

theorem BytesCanonical.clear {m : Memory × NatSet} {a n b k} (hm : BytesCanonical m) :
    BytesCanonical (m.1.clear a n, m.2.clear b k) := ⟨Memory.wf_clear a n hm.1, hm.2.clear⟩

theorem BytesCanonical.zeroRest {m : Memory × NatSet} {base r} (hm : BytesCanonical m) :
    BytesCanonical (zeroRest m base r) :=
  (hm.foldl fun _ _ hm => hm.clear).clear

theorem MatrixEngine.Canonical.fill {m : MatrixEngine} {d} (hm : m.Canonical) : (m.fill d).Canonical :=
  (hm.withSlots hm.slotData.zeroRest).modSlot

theorem Pillar.Canonical.endOp {x : Pillar} {o} (hx : x.Canonical) : (x.endOp o).Canonical :=
  .endSeq (.ite (.modStrand hx) hx)

theorem execTileLoadFill_keeps {p} {s : State} : Keeps s (execTileLoadFill p s) := by
  unfold execTileLoadFill
  dsimp only
  split
  · exact .next fun h => h.setPil (h.pil.modMtx fun _ hm => hm.fill).endOp
  · exact .next id

theorem Pillar.Canonical.doneWord {x : Pillar} {d v} (hx : x.Canonical) : (x.doneWord d v).Canonical := by
  unfold Pillar.doneWord
  split
  · exact hx
  · exact hx.lsWriteFull

theorem execCopyComplete_keeps {p} {s : State} : Keeps s (execCopyComplete p s) := by
  unfold execCopyComplete
  dsimp only
  split
  · exact .next fun h => h.setPil h.pil.doneWord.endOp
  · exact .next id

theorem Pillar.Canonical.resumeTile {x : Pillar} {t clk} (hx : x.Canonical) :
    (x.resumeTile t clk).Canonical := by
  unfold Pillar.resumeTile
  dsimp only
  split
  · split
    · exact hx
    · exact hx.modStrand.addOp
  · exact hx

theorem Pillar.Canonical.abandon {x : Pillar} {o} (hx : x.Canonical) : (x.abandon o).Canonical := by
  unfold Pillar.abandon
  refine Pillar.Canonical.endSeq ?_
  split
  · split
    · exact hx.modMtx fun _ hm => hm.modSlot
    · exact hx.doneWord
  · exact hx

theorem Pillar.Canonical.abandonTile {x : Pillar} {t clk} (hx : x.Canonical) :
    (x.abandonTile t clk).Canonical := by
  unfold Pillar.abandonTile
  extract_lets r y
  refine .ite hx ?_
  split
  · exact .startStream (.unpin (.abandon hx))
  · exact hx

theorem State.Canonical.holdFetch {s : State} {p o va n} (h : s.Canonical) : (s.holdFetch p o va n).Canonical :=
  h.holdWorm.modPil fun _ hx => hx

theorem Pillar.Canonical.dropFetch {x : Pillar} {o} (hx : x.Canonical) : (x.dropFetch o).Canonical := hx

theorem Pillar.Canonical.settleFetch {x : Pillar} {o st} (hx : x.Canonical) :
    (x.settleFetch o st).Canonical := by
  unfold Pillar.settleFetch
  extract_lets y j
  have hy : y.Canonical := hx.dropFetch
  split
  · exact hy.setSeg
  · exact .ite hy hy

theorem Pillar.Canonical.lsWriteBytes {x : Pillar} {a n v bad} (hx : x.Canonical) :
    (x.lsWriteBytes a n v bad).Canonical := by
  obtain ⟨hb, hp, he⟩ := (hx.lsWrite (a := a) (n := n) (v := v) (bad := false)).ls
  exact hx.lsWrite.withLs ⟨hb, hp.foldl fun _ _ hp => hp.insert, he⟩

theorem State.Canonical.copyIn {w tainted fuel} {s : State} {va a n} (h : s.Canonical) :
    (State.copyIn w tainted fuel s va a n).1.Canonical := by
  induction fuel generalizing s va a n with
  | zero => exact h
  | succ fuel ih =>
    unfold State.copyIn
    split
    · exact h
    · dsimp only
      split
      · exact h
      · next s' v bad e => exact ih ((h.readPart e).modPil fun _ hx => hx.lsWriteBytes)

theorem execSegmentLand_keeps {p n} {s : State} : Keeps s (execSegmentLand p n s) := by
  unfold execSegmentLand
  extract_lets x
  split
  · exact .next id
  · extract_lets d f a va len
    refine .ite (.next id) (.ite (.next fun h => h.holdFetch) ?_)
    split
    · next s1 e =>
      exact .next fun h => .modPil (h.noteBulk.copyIn.of_fst e) fun _ hx => .endSeq (.count hx.settleFetch)
    · next s1 c e =>
      exact .next fun h => .getD h.holdOff (.raiseStop (.modPil (h.noteBulk.copyIn.of_fst e) fun _ hx =>
        hx.settleFetch))

theorem Pillar.Canonical.fillWord {x : Pillar} {a v bad} (hx : x.Canonical) : (x.fillWord a v bad).Canonical :=
  .ite hx (hx.withLs hx.ls.store).setEmpty

theorem Pillar.Canonical.fillBlock {x : Pillar} {a m bad} (hx : x.Canonical) :
    (x.fillBlock a m bad).Canonical :=
  hx.foldl fun _ _ hx' => hx'.fillWord

theorem execTagFillComplete_keeps {p slot} {s : State} : Keeps s (execTagFillComplete p slot s) := by
  unfold execTagFillComplete
  extract_lets x j
  split
  · exact .next id
  · extract_lets d f a va
    refine .ite (.next id) (.ite (.next fun h => h.holdFetch) ?_)
    split
    · next s' m bad e => exact .next fun h => .modPil (h.readBytes e) fun _ hx => hx.fillBlock.settleFetch.endSeq
    · exact .next fun h => .getD h.holdOff (.raiseStop (.modPil h fun _ hx => hx.settleFetch))

theorem State.Canonical.holdWriteBack {s : State} {p b bs} (h : s.Canonical) :
    (s.holdWriteBack p b bs).Canonical :=
  h.holdWorm.modPil fun _ hx => hx

theorem execTevictWritebackDone_keeps {p} {s : State} : Keeps s (execTevictWritebackDone p s) := by
  unfold execTevictWritebackDone
  extract_lets x
  split
  · exact .next id
  · extract_lets drop w
    have hd : ∀ {t : State}, t.Canonical → (drop t).Canonical := fun ht => ht.modPil fun _ hx => hx
    refine .ite (.next id) (.ite (.next fun h => h.holdWriteBack) ?_)
    split
    · next s' a e => exact .next fun h => hd (h.writeBytes e)
    · exact .next fun h => .getD h.holdOff (hd h).raiseUnringed

theorem execThrottleTrap_keeps {p} {s : State} : Keeps s (execThrottleTrap p s) := by
  unfold execThrottleTrap
  dsimp only
  split
  · exact .next id
  · split
    · split
      · exact .next fun h => h.stopTile
      · exact .next id
    · exact .next id

theorem State.Canonical.chargeBank {s : State} {p bank} {charge : TileOp → Nat → Pillar → Pillar} (h :
    s.Canonical)
    (hf : ∀ o row, ∀ x : Pillar, x.Canonical → (charge o row x).Canonical) :
      (s.chargeBank p bank charge).Canonical := by
  unfold State.chargeBank
  dsimp only
  split
  · split
    · split
      · exact (hf _ _ _ h.pil).modStream
      · exact h.pil
    · exact h.pil
  · exact h.pil

theorem execRefreshWindowStart_keeps {p bank} {s : State} : Keeps s (execRefreshWindowStart p bank s) :=
  .ite (.next id) (.next fun h => h.setPil (h.chargeBank fun _ _ _ hx => hx.chargeBeat).frame)

theorem execRefreshWindowEnd_keeps {p bank} {s : State} : Keeps s (execRefreshWindowEnd p bank s) := by
  unfold execRefreshWindowEnd
  extract_lets x
  split
  · exact .next id
  · exact .ite (.next id) (.next fun h => h.setPil (h.chargeBank fun _ _ _ hx => hx.count).frame)

theorem execRefreshEpochStart_keeps {st} {s : State} : Keeps s (execRefreshEpochStart st s) := by
  unfold execRefreshEpochStart
  split
  · exact .next id
  · refine .next fun h => h.mapPillars rfl fun e he => ?_
    split
    · split <;> exact he
    · exact he

theorem execVthermChange_keeps {p layer hot warm throt} {s : State} :
    Keeps s (execVthermChange p layer hot warm throt s) :=
  .next fun h => h.modPil fun _ hx => hx

theorem State.Canonical.expireRow {p} {s : State} {row} (h : s.Canonical) : (s.expireRow p row).Canonical :=
  (h.withMem h.1 h.2.1.putRange).modPil fun _ hx => hx

theorem execRetentionDeadline_keeps {p row} {s : State} : Keeps s (execRetentionDeadline p row s) := by
  unfold execRetentionDeadline
  split
  · exact .next fun h => h.expireRow
  · exact .next id

/-! ## What keeps canonical form: the vector engine -/

theorem State.Canonical.onStrand {g d f} {s : State} (h : s.Canonical) :
    Gives (·.Canonical) (onStrand g d f s) :=
  .ok h.modSt

theorem State.Canonical.writePending {s : State} {n v} (h : s.Canonical) : (s.writePending n v).Canonical :=
  h.modSt

theorem State.Canonical.vextEffect {a f} {s : State} (h : s.Canonical) :
    Gives (·.Canonical) (vextEffect a f s) :=
  .ok h.writePending

theorem State.Canonical.vldEffect {d f} {s : State} (h : s.Canonical) : Gives (·.Canonical) (vldEffect d f s) :=
  .ok h.modSt

theorem State.Canonical.vstEffect {d f} {s : State} (h : s.Canonical) : Gives (·.Canonical) (vstEffect d f s) :=
  .ok (h.modMe fun _ hx => hx.foldl fun _ _ hx' => Pillar.Canonical.ite hx'.lsWrite hx')

theorem State.Canonical.vgatherEffect {d f} {s : State} (h : s.Canonical) :
    Gives (·.Canonical) (vgatherEffect d f s) :=
  .andThen fun _ => .ok h.modSt

theorem Pillar.Canonical.scatterLanes {d f t lanes} {x : Pillar} (hx : x.Canonical) :
    (scatterLanes d f t lanes x).Canonical :=
  hx.foldl fun _ _ hx' => Pillar.Canonical.ite hx'.lsWrite hx'

theorem State.Canonical.vscatterEffect {d f} {s : State} (h : s.Canonical) :
    Gives (·.Canonical) (vscatterEffect d f s) :=
  .andThen fun _ => .ok (h.modMe fun _ hx => hx.scatterLanes)

theorem State.Canonical.kmovgEffect {a f} {s : State} (h : s.Canonical) :
    Gives (·.Canonical) (kmovgEffect a f s) :=
  .ok h.writePending

theorem State.Canonical.kpopcEffect {a f} {s : State} (h : s.Canonical) :
    Gives (·.Canonical) (kpopcEffect a f s) :=
  .ok h.writePending

theorem State.Canonical.vbscaleEffect {a f} {s : State} (h : s.Canonical) :
    Gives (·.Canonical) (vbscaleEffect a f s) :=
  .ok h.writePending

theorem State.Canonical.pend {s : State} {d} (h : s.Canonical) : (s.pend d).Canonical := by
  unfold State.pend
  split
  · exact h
  · exact h.modSt

theorem vecIssue_keeps {i} {s : State} : Keeps s (vecIssue i s) :=
  .finish fun h => .andThen fun _ => .ok h.dispatch

theorem vecIssueG_keeps {i f} {s : State} : Keeps s (vecIssueG i f s) :=
  .finish fun h => .andThen fun _ => .andThen fun _ => .ok h.dispatch.pend

theorem vecIssueMem_keeps {i f} {s : State} : Keeps s (vecIssueMem i f s) := by
  unfold vecIssueMem
  refine .finish fun h => .andThen fun ea => .andThen fun r => ?_
  split
  · exact .error
  · exact .andThen fun _ => .ok h.dispatchAs

theorem vecIssueGather_keeps {i f} {s : State} : Keeps s (vecIssueGather i f s) :=
  .finish fun h => .andThen fun _ => .andThen fun _ => .ok h.dispatch

/-- An effect that keeps canonical states. -/
def VEffect.Keeps (e : VEffect) : Prop := ∀ ⦃d f⦄ ⦃s : State⦄, s.Canonical → Gives State.Canonical (e d f s)

/-- Every effect of a vector instruction: nearly all change the strand's registers only. -/
theorem vectorEffect_keeps {d : Dispatched} {e : VEffect} {f} (he : vectorEffect d = some (e, f)) :
    VEffect.Keeps e := by
  have strand : ∀ g, VEffect.Keeps (onStrand g) := fun g _ _ _ h => h.onStrand
  unfold vectorEffect at he
  split at he <;> cases he
  case h_24 => exact fun _ _ _ h => h.vextEffect
  case h_25 => exact fun _ _ _ h => h.vldEffect
  case h_26 => exact fun _ _ _ h => h.vstEffect
  case h_27 => exact fun _ _ _ h => h.vgatherEffect
  case h_28 => exact fun _ _ _ h => h.vscatterEffect
  case h_32 => exact fun _ _ _ h => h.kmovgEffect
  case h_34 => exact fun _ _ _ h => h.kpopcEffect
  case h_38 => exact fun _ _ _ h => h.vbscaleEffect
  all_goals exact strand _

theorem State.Canonical.movePart {d d' : Dispatched} {s t : State} (h : s.Canonical)
    (ht : movePart d s = some (d', t)) : t.Canonical := by
  unfold Machine.movePart at ht
  extract_lets lanes goes at ht
  split at ht
  · split at ht <;> cases ht
    exact h
  · split at ht <;> cases ht
    exact h.modMe fun _ hx => hx.scatterLanes
  · cases ht

theorem State.Canonical.acceptVector {s : State} {p} (h : s.Canonical) : (s.acceptVector p).Canonical := by
  unfold State.acceptVector
  dsimp only
  split
  · exact h
  · split
    · exact h
    · exact h.setPil (Pillar.Canonical.ite h.pil.frame.count.count h.pil.frame.count)

theorem execVectorComplete_keeps {p t} {s : State} : Keeps s (execVectorComplete p t s) := by
  unfold execVectorComplete
  split
  · exact .next id
  · split
    · exact .next id
    · next d _ e f he =>
      extract_lets s' drop
      split
      · next r hr =>
        exact .next fun h => .focus (.modMe (vectorEffect_keeps he h.focus hr) fun _ hx => Pillar.Canonical.endSeq hx)
      · exact .next fun h => h.modPil fun _ hx => Pillar.Canonical.raiseLate hx

theorem vectorWork_keeps {p t} {s : State} : Keeps s (vectorWork p t s) := by
  unfold vectorWork
  split
  · exact .next id
  · split
    · next hr => exact .next fun h => .focus (.modMe (h.focus.movePart hr) fun _ hx => hx)
    · exact execVectorComplete_keeps

/-! ## What keeps canonical form: the matrix engine -/

theorem MatrixEngine.Canonical.enterSlots {m : MatrixEngine} {js} (hm : m.Canonical) :
    (m.enterSlots js).Canonical :=
  hm.foldl fun _ _ hm' => hm'.modSlot

theorem Pillar.Canonical.leaveSlots {x : Pillar} {clk js} (hx : x.Canonical) :
    (x.leaveSlots clk js).Canonical := by
  unfold Pillar.leaveSlots
  extract_lets y
  have hy : y.Canonical := hx.modMtx fun _ hm => hm.foldl fun _ _ hm => hm.modSlot
  split
  · exact .ite hy hy
  · exact hy

theorem execSpoolcfg_keeps {f} {s : State} : Keeps s (execSpoolcfg f s) :=
  .finish fun h => .andThen fun _ => .andThen fun _ =>
    .ok (.issueAfter (.modMe h fun _ hx => .modMtx hx fun _ hm => hm))

theorem execAwait_keeps {f} {s : State} : Keeps s (execAwait f s) :=
  .finish fun h => .ite .error (.andThen fun _ => .ok h)

theorem execRelease_keeps {f} {s : State} : Keeps s (execRelease f s) := by
  unfold execRelease
  refine .finish fun h => .andThen fun r => ?_
  dsimp only
  split
  · exact .error
  · exact .ok (h.modMe fun _ hx => hx.withMtx (h.me.mtx.foldl fun _ _ hm => hm.modSlot).setSpool)

theorem execSldv_keeps {f} {s : State} : Keeps s (execSldv f s) :=
  .finish fun h => .andThen fun _ => .andThen fun _ => .andThen fun _ => .ok (h.dispatchAs.modMe fun _ hx =>
    hx.modMtx fun _ hm => hm.enterSlots)

theorem execSstv_keeps {f} {s : State} : Keeps s (execSstv f s) :=
  .finish fun h => .andThen fun _ => .ite .error (.andThen fun _ => .andThen fun _ => .andThen fun _ =>
    .ok (h.dispatchAs.modMe fun _ hx => hx.modMtx fun _ hm => .ite hm.modSlot.setSpool hm.modSlot))

theorem MatrixEngine.Canonical.modTile {m : MatrixEngine} {a f} (hm : m.Canonical) :
    (m.modTile a f).Canonical :=
  hm

theorem MatrixEngine.Canonical.modTiles {m : MatrixEngine} {l f} (hm : m.Canonical) :
    (m.modTiles l f).Canonical :=
  hm.foldl fun _ _ hm' => hm'.modTile

theorem State.Canonical.joinBatch {s : State} {seq tiles} (h : s.Canonical) :
    (s.joinBatch seq tiles).Canonical :=
  (h.modMe fun _ hx => hx.modMtx fun _ hm => hm.modTiles).modSt

theorem execMcommit_keeps {f} {s : State} : Keeps s (execMcommit f s) :=
  .finish fun h => .andThen fun _ => .andThen fun _ => .ok h.modSt.setGw

theorem execMwait_keeps {f} {s : State} : Keeps s (execMwait f s) :=
  .finish fun h => .andThen fun _ => .andThen fun _ => .andThen fun _ => .ok h

theorem State.Canonical.countLoom {s : State} {loom} (h : s.Canonical) : (s.countLoom loom).Canonical := by
  unfold State.countLoom
  split
  · exact h.modMe fun _ hx => hx.modMtx fun _ hm => hm
  · exact h

theorem mmaIssue_keeps {i f scaled} {s : State} : Keeps s (mmaIssue i f scaled s) := by
  unfold mmaIssue
  refine .finish fun h => .andThen fun _ => .andThen fun _ => .andThen fun a => .andThen fun b => .andThen fun _ =>
    .andThen fun _ => .andThen fun _ => ?_
  have ok : ∀ {d js seq tiles}, ((((s.dispatchAs .matrix d).modMe fun x => x.modMtx fun m =>
      m.enterSlots js).joinBatch seq tiles).countLoom (bitOf f.mod.toNat 6)).Canonical :=
    (h.dispatchAs.modMe fun _ hx => hx.modMtx fun _ hm => hm.enterSlots).joinBatch.countLoom
  exact .ite (.andThen fun _ => .ite .error (.andThen fun _ => .andThen fun _ => .andThen fun _ => .ok ok))
    (.andThen fun _ => .ite .error (.andThen fun _ => .andThen fun _ => .andThen fun _ => .ok ok))

theorem execMmv_keeps {f} {s : State} : Keeps s (execMmv f s) :=
  .finish fun h => .andThen fun _ => .andThen fun _ => .andThen fun _ => .andThen fun _ => .andThen fun _ =>
    .andThen fun _ => .andThen fun _ => .andThen fun _ => .andThen fun _ => .ok (h.dispatchAs.modMe fun _ hx =>
    hx.modMtx fun _ hm => hm.enterSlots).joinBatch

theorem execMzero_keeps {f} {s : State} : Keeps s (execMzero f s) :=
  .finish fun h => .andThen fun _ => .andThen fun _ => .ok (h.dispatchAs.modMe fun _ hx => hx.modMtx fun _ hm =>
    hm.modTile).joinBatch

theorem State.Canonical.startMove {s : State} {a} (h : s.Canonical) : (s.startMove a).Canonical :=
  h.modMe fun _ hx => hx.modMtx fun _ hm => hm.modTile

theorem MatrixEngine.Canonical.endMove {m : MatrixEngine} {a} (hm : m.Canonical) : (m.endMove a).Canonical :=
  hm.modTile

theorem execMld_keeps {f} {s : State} : Keeps s (execMld f s) :=
  .finish fun h => .andThen fun _ => .andThen fun _ => .andThen fun _ => .andThen fun _ => .andThen fun _ =>
    .andThen fun _ => .andThen fun _ => .andThen fun _ => .andThen fun _ =>
    .ok (State.Canonical.ite (h.dispatchAs.startMove.modMe fun _ hx => hx.modMtx fun _ hm => hm.modTile)
    h.dispatchAs.startMove)

theorem execMst_keeps {f} {s : State} : Keeps s (execMst f s) :=
  .finish fun h => .andThen fun _ => .andThen fun _ => .andThen fun _ => .andThen fun _ => .andThen fun _ =>
    .andThen fun _ => .andThen fun _ => .andThen fun _ => .ok h.dispatchAs.startMove

theorem execDrain_keeps {f} {s : State} : Keeps s (execDrain f s) :=
  .finish fun h => .andThen fun _ => .andThen fun _ => .andThen fun _ => .andThen fun _ => .andThen fun _ =>
    .andThen fun _ => .ok h.dispatchAs.startMove

theorem State.Canonical.modLoom {s : State} {p f} (h : s.Canonical) : (s.modLoom p f).Canonical :=
  h.modPil fun _ hx => hx.modMtx fun _ hm => hm

theorem State.Canonical.refuseClaim {s : State} {q} (h : s.Canonical) : (s.refuseClaim q).Canonical := by
  unfold State.refuseClaim
  split
  · refine .ite h (.focus (.takeTrap (.focus (.modPil h fun _ hx => .modMtx hx fun _ hm => hm))))
  · exact h

theorem State.Canonical.publishClaim {s : State} {p l} (h : s.Canonical) :
    Gives (·.Canonical) (s.publishClaim p l) := by
  have h1 : (s.modPil p fun x => x.modMtx fun m => { m with loom := some l }).Canonical :=
    h.modPil fun _ hx => hx.modMtx fun _ hm => hm
  exact .ite (.ite (.ok (h1.foldl fun _ _ h => h.modLoom)) (.ok h1)) .error

/-- A claim in conflict with others ends them all. -/
theorem State.Canonical.publishClaim_error {s t : State} {p l} (h : s.Canonical) (ht :
    s.publishClaim p l = .error t) :
    t.Canonical := by
  unfold State.publishClaim at ht
  extract_lets bad s1 at ht
  split at ht
  · split at ht <;> cases ht
  · cases ht
    exact h.foldl fun _ _ h => h.refuseClaim

theorem State.Canonical.waitIn {s : State} {i} (h : s.Canonical) : (s.waitIn i).Canonical := h.modSt

theorem execLoomjoin_keeps {f} {s : State} : Keeps s (execLoomjoin f s) := by
  unfold execLoomjoin
  refine .finishAt fun h => ?_
  extract_lets v col0 size done jp
  have hd : ∀ {t : State}, t.Canonical → (done t).Canonical := fun ht => ht.modLoom.setPc.issueAfter.count
  refine .ite .error ?_
  unfold jp
  split
  · exact .error
  · split
    · exact .ite .error (.ite .error (.ite (.ok h.setPc) (.ite (.ok (hd h)) (.ok h.waitIn))))
    · split
      · next e => exact .ok (h.publishClaim_error e).takeTrap
      · next e => exact .ite (.ok (hd (h.publishClaim e))) (.ok (h.publishClaim e).waitIn)

theorem Pillar.Canonical.discardMatrix {x : Pillar} {clk d} (hx : x.Canonical) :
    (x.discardMatrix clk d).Canonical :=
  hx.leaveSlots.modStrand.endSeq

theorem Pillar.Canonical.discardLoom {x : Pillar} {clk interval} (hx : x.Canonical) :
    (x.discardLoom clk interval).Canonical :=
  .foldl (.modMtx hx fun _ hm => hm) fun _ _ hx' => .discardMatrix hx'

theorem Pillar.Canonical.faultStep {x : Pillar} {clk code} (hx : x.Canonical) :
    (x.faultStep clk code).Canonical := by
  unfold Pillar.faultStep
  split
  · exact .ite (.raiseLate (.discardMatrix (.modMtx hx fun _ hm => hm))) hx
  · exact hx

theorem State.Canonical.closeInterval {s : State} {l interval} (h : s.Canonical) :
    (s.closeInterval l interval).Canonical := by
  unfold State.closeInterval
  dsimp only
  split
  · exact h.foldl fun _ _ h' => h'.modLoom
  · exact (h.foldl fun _ _ h' => h'.modLoom).foldl fun _ _ h' => h'.modPil fun _ hx => hx.discardLoom

theorem execLoomgo_keeps {f} {s : State} : Keeps s (execLoomgo f s) := by
  unfold execLoomgo
  refine .finishAt fun h => ?_
  split
  · exact .error
  · split
    · exact .error
    · split
      · exact .error
      · dsimp only
        split
        · exact .ok (State.Canonical.ite (State.Canonical.ite h h.modLoom).closeInterval
            (State.Canonical.ite h h.modLoom)).waitIn
        · split
          · exact .ok (State.Canonical.ite (State.Canonical.ite h h.modLoom).closeInterval
              (State.Canonical.ite h h.modLoom)).modLoom.setPc.issueAfter.count
          · exact .ok (State.Canonical.ite (State.Canonical.ite h h.modLoom).closeInterval
              (State.Canonical.ite h h.modLoom)).modLoom.takeTrap

theorem MatrixEngine.Canonical.orphanLoom {m : MatrixEngine} (hm : m.Canonical) : m.orphanLoom.Canonical := hm

theorem State.Canonical.leaveLoom {s : State} {p} (h : s.Canonical) : (s.leaveLoom p).Canonical := by
  unfold State.leaveLoom
  split
  · dsimp only
    split
    · exact (h.modPil fun _ hx => hx.modMtx fun _ hm => hm.orphanLoom.frame).foldl fun _ _ h' => h'.modLoom
    · exact h.modPil fun _ hx => hx.modMtx fun _ hm => hm.orphanLoom.frame
  · exact h

theorem execLoomsplit_keeps {f} {s : State} : Keeps s (execLoomsplit f s) := by
  unfold execLoomsplit
  refine .finish fun h => ?_
  split
  · exact .andThen fun _ => .ok (State.Canonical.ite (h.modMe fun _ hx => hx.faultStep) h).leaveLoom
  · exact .ok h

/-! ## What keeps canonical form: drafts -/

theorem State.Canonical.modDraft {s : State} {n f} (h : s.Canonical) : (s.modDraft n f).Canonical := h

theorem State.Canonical.modEntry {s : State} {n i f} (h : s.Canonical) : (s.modEntry n i f).Canonical :=
  h.modDraft

theorem Pillar.Canonical.modCmd {x : Pillar} {i f} (hx : x.Canonical) : (x.modCmd i f).Canonical := hx

theorem State.Canonical.modWork {s : State} {w f} (h : s.Canonical) : (s.modWork w f).Canonical := by
  unfold State.modWork
  split
  · exact h.modEntry
  · exact h.modPil fun _ hx => hx.modCmd

theorem State.Canonical.modQueue {s : State} {st f} (h : s.Canonical) : (s.modQueue st f).Canonical :=
  h.modStack

theorem State.Canonical.checkDraft {s : State} {p w va strict} (h : s.Canonical) :
    Gives (·.1.Canonical) (s.checkDraft p w va strict) := by
  unfold State.checkDraft
  extract_lets r
  refine .ite (.ok h) ?_
  split
  · exact .ite .error (.ok h)
  · next e1 =>
    have h1 := h.readBytes e1
    split
    · split
      · exact .ite .error (.ok h1)
      · next e2 =>
        have h2 := h1.readBytes e2
        exact .ite (.ok h2) (.map (Q := fun _ => True) (fun _ _ => trivial) fun _ _ => h2)
    · exact .ok h1

theorem State.Canonical.trigger {s : State} {n sel} (h : s.Canonical) : (s.trigger n sel).Canonical := by
  unfold State.trigger
  split
  · exact h
  · exact h.modDraft.foldl fun _ _ h' => State.Canonical.ite h' h'.modQueue

theorem State.Canonical.installEntries {s : State} {p va es} (h : s.Canonical) :
    (s.installEntries p va es).Canonical := by
  unfold State.installEntries
  extract_lets r n d s1
  have h1 : s1.Canonical := State.Canonical.foldl (s := { s with drafts := s.drafts ++ [d], nextDraft := n + 1 }) h
    fun _ _ h => h.modPil fun _ hx => hx
  clear_value s1
  exact h1.trigger

theorem execDraft_keeps {f} {s : State} : Keeps s (execDraft f s) := by
  unfold execDraft
  refine .finish fun h => .andThen fun _ => .andThen fun _ => .ite (.ok h.setGw) (.bind h.checkDraft fun r hr => ?_)
  obtain ⟨s1, r⟩ := r
  cases r with
  | refused c i q => exact .ok (State.Canonical.setGw hr)
  | installed es => exact .ok (State.Canonical.setGw (.installEntries hr))

theorem State.Canonical.cancelQueued {s : State} {d} (h : s.Canonical) : (s.cancelQueued d).Canonical :=
  h.modDraft.foldl fun _ _ h' => h'.modQueue

theorem State.Canonical.freeDraft {s : State} {d} (h : s.Canonical) : (s.freeDraft d).Canonical :=
  State.Canonical.foldl (s := { s with drafts := s.drafts.filter fun e => e.number != d.number }) h
    fun _ _ h => h.modPil fun _ hx => hx

theorem execDraftrel_keeps {f} {s : State} : Keeps s (execDraftrel f s) := by
  unfold execDraftrel
  refine .finishAt fun h => .andThen fun r => ?_
  dsimp only
  split
  · exact .ok h.setGw.setPc
  · split
    · exact .ok h.cancelQueued.freeDraft.setGw.setPc
    · exact .ok h.cancelQueued.waitIn

theorem checkPick_keeps {f again} {s : State} : Keeps s (checkPick f again s) := by
  unfold checkPick
  refine .finishAt fun h => ?_
  extract_lets n s1 done fail s2
  have h1 : s1.Canonical := .ite h (h.modMe fun _ hx => hx)
  have h2 : s2.Canonical := .ite h1 h1.count
  split
  · exact .ok h1.setPc.count
  · extract_lets es
    split
    · exact .ok h1.takeTrap
    · exact .ite (.ok h2.waitIn) (.ok h2.takeTrap)
    · exact .ok h1.setPc.count

theorem execDrstat_keeps {f} {s : State} : Keeps s (execDrstat f s) :=
  .finish fun h => .andThen fun _ => .ok h.setGw

theorem execDrwait_keeps {f} {s : State} : Keeps s (execDrwait f s) :=
  .finish fun h => .andThen fun _ => .andThen fun _ => .ok h.setGw

theorem State.Canonical.commandPillar {s : State} {e} (h : s.Canonical) :
    Gives (·.1.Canonical) (s.commandPillar e) := by
  unfold State.commandPillar
  refine .andThen fun x => ?_
  dsimp only
  split
  · exact .andThen fun _ => .ok h.noteXlate
  · exact .error

theorem State.Canonical.startCommand {s : State} {p slot} (h : s.Canonical) :
    (s.startCommand p slot).Canonical := by
  unfold State.startCommand
  split
  · exact h
  · dsimp only
    split
    · exact h.modWork
    · exact h.modWork.modQueue

theorem State.Canonical.issueCommand {s : State} {d e j} (h : s.Canonical) :
    (s.issueCommand d e j).Canonical := by
  unfold State.issueCommand
  dsimp only
  split
  · exact (h.modMe fun _ hx => hx.modCmd).setGw.holdAccess
  · split
    · exact (h.modMe fun _ hx => hx.modCmd).setGw.modWork
    · exact (h.modMe fun _ hx => hx.modCmd).setGw.startCommand

theorem directCommand_keeps {i f op} {s : State} : Keeps s (directCommand i f op s) := by
  unfold directCommand
  refine .finishAt fun h => .andThen fun _ => .andThen fun e => .bind h.commandPillar fun r hr => ?_
  obtain ⟨s, p⟩ := r
  dsimp only at hr ⊢
  split
  · exact .ok hr.setGw.setPc
  · next pin _ =>
    have h1 : (s.modPil p fun x => { x with pinBase := pin }).Canonical := hr.modPil fun _ hx => hx
    generalize s.modPil p _ = s at *
    split
    · exact .ok h1.issueCommand.setPc
    · exact .ite .error (.ok h1.modSt)

theorem State.Canonical.endPinned {s : State} {i e} (h : s.Canonical) : (s.endPinned i e).Canonical := by
  unfold State.endPinned
  split
  · exact h.issueCommand.setPc.modSt
  · exact h.issueCommand.setPc.modSt
  · exact h

theorem execDirectCommandComplete_keeps {p slot} {s : State} :
    Keeps s (execDirectCommandComplete p slot s) := by
  unfold execDirectCommandComplete
  dsimp only
  split
  · exact .next id
  · split
    · exact .next id
    · split
      · exact .next fun h => (h.modPil fun _ hx => hx.modCmd).raiseUnringed
      · split
        · exact .next fun h => (h.modPil fun _ hx => hx.modCmd).modQueue
        · exact .next id

theorem execDraftEntryTrigger_keeps {p} {s : State} : Keeps s (execDraftEntryTrigger p s) := by
  unfold execDraftEntryTrigger
  split
  · exact .next id
  · exact .next fun h => h.trigger

theorem State.Canonical.moveXlate {s : State} {w kind va err} (h : s.Canonical) :
    Gives (·.1.Canonical) (s.moveXlate w kind va err) := by
  unfold State.moveXlate
  split
  · exact .ok h.noteXlate
  · exact .error
  · exact .error
  · split <;> exact .error

theorem State.Canonical.tierSide {s : State} {w kind va z} (h : s.Canonical) :
    Gives (·.1.Canonical) (s.tierSide w kind va z) := by
  unfold State.tierSide
  refine .bind h.moveXlate fun r hr => ?_
  dsimp only
  split
  · split
    · exact .error
    · split
      · exact .ok hr
      · exact .error
      · exact .error
  · exact .error

theorem State.Canonical.vaultSide {s : State} {w kind va ok} (h : s.Canonical) :
    Gives (·.1.Canonical) (s.vaultSide w kind va ok) := by
  unfold State.vaultSide
  refine .bind h.moveXlate fun r hr => ?_
  dsimp only
  split
  · split
    · exact .error
    · split
      · exact .ok hr
      · exact .error
  · exact .error

theorem State.Canonical.copyUnits {s : State} {src dst n} (h : s.Canonical) :
    (s.copyUnits src dst n).Canonical := by
  induction n generalizing s with
  | zero => exact h
  | succ n ih => exact ih h.physWrite

theorem State.Canonical.moveBeats {s : State} {e pa n} (h : s.Canonical) : (s.moveBeats e pa n).Canonical :=
  h.foldl fun _ _ h' => State.Canonical.ite h'.useRow h'

theorem State.Canonical.noteMoved {s : State} {w e pa n} (h : s.Canonical) :
    (s.noteMoved w e pa n).Canonical := by
  unfold State.noteMoved
  extract_lets s1 s2 note
  have h2 : s2.Canonical := State.Canonical.modPil h.moveBeats fun _ hx => hx.count
  have hf : ∀ l r, r.1.Canonical → (List.foldl note r l).1.Canonical := fun l r hr =>
    List.foldlRecOn (motive := fun r => r.1.Canonical) l note hr fun _ hr _ _ => hr.noteWritten
  split
  next e1 =>
  refine State.Canonical.modWork ?_
  split at e1
  · exact .of_fst (hf _ _ h2) e1
  · cases e1
    exact h2

theorem State.Canonical.moveParts {w k ok fuel} {s : State} {e} (h : s.Canonical) :
    (State.moveParts w k ok fuel s e).1.Canonical := by
  induction fuel generalizing s e with
  | zero => exact h
  | succ fuel ih =>
    unfold State.moveParts
    extract_lets off r
    split
    · exact h
    · have hr : Gives State.Canonical r := .bind h.tierSide fun a ha => .bind ha.vaultSide fun b hb =>
        .ok (State.Canonical.noteMoved (.ite hb.copyUnits (.ite hb hb.copyUnits)))
      clear_value r
      split
      · exact ih (hr rfl)
      · exact h

theorem State.Canonical.freeBlock {s : State} (h : s.Canonical) : (s.freeBlock).1.Canonical := h

theorem State.Canonical.readCompressed {s : State} {st pa a} (h : s.Canonical) :
    (s.readCompressed st pa a).1.Canonical := by
  unfold State.readCompressed
  dsimp only
  split
  · exact h
  · exact h.freeBlock.countStack

theorem State.Canonical.writeCompressed {s : State} {st pa a m bad} (h : s.Canonical) :
    (s.writeCompressed st pa a m bad).1.Canonical := by
  unfold State.writeCompressed
  dsimp only
  split
  · exact h.physWrite.countStack
  · split
    · exact h.physWrite.countStack
    · exact h

theorem State.Canonical.addGrowth {s : State} {st g} (h : s.Canonical) : (s.addGrowth st g).Canonical := by
  unfold State.addGrowth
  split
  · exact h
  · exact h.modStack.countStack.raiseVector

theorem State.Canonical.moveCompressed {s : State} {w k ok e} (h : s.Canonical) :
    Gives (·.Canonical) (s.moveCompressed w k ok e) := by
  unfold State.moveCompressed
  refine .bind h.tierSide fun r hr => .bind hr.vaultSide fun r1 hr1 => ?_
  dsimp only
  split
  · split
    · exact .ok hr1.copyUnits.noteMoved
    · exact .ok hr1.readCompressed.physWrite.noteMoved
  · split
    · exact .ok hr1.noteMoved
    · split
      · exact .ok hr1.writeCompressed.noteMoved
      · exact .ok hr1.writeCompressed.noteMoved.addGrowth.modWork

theorem State.Canonical.failWork {s : State} {w err} (h : s.Canonical) : (s.failWork w err).Canonical :=
  h.modWork.foldl fun _ _ h' => h'.modQueue

theorem State.Canonical.requestWork {s : State} {w k e va write} (h : s.Canonical) :
    (s.requestWork w k e va write).Canonical := by
  unfold State.requestWork
  split
  · next s1 n e1 =>
      exact (h.noteMiss.sendPageRequest.of_fst e1).modWork
  · next s1 e1 =>
      exact (h.noteMiss.sendPageRequest.of_fst e1).failWork

theorem execShuttleBlockMove_keeps {p hd} {s : State} : Keeps s (execShuttleBlockMove p hd s) := by
  unfold execShuttleBlockMove
  split
  · exact .next id
  · split
    · exact .next id
    · next w _ _ e _ =>
      extract_lets k ok last s1 e'
      have h1 : s.Canonical → s1.Canonical := fun h => h.modWork.modQueue
      have hm : ∀ {r : State × Option MoveStop}, r = (if e'.z then
          match s1.moveCompressed w k ok e' with | .ok s2 => (s2, none) | .error m => (s1, some m)
          else State.moveParts w k ok 64 s1 e') → s.Canonical → r.1.Canonical := by
        rintro _ rfl h
        split
        · split
          · next e2 => exact (h1 h).moveCompressed e2
          · exact h1 h
        · exact (h1 h).moveParts
      refine .ite (.next id) ?_
      split
      next s2 stop e2 =>
      replace hm := hm e2.symm
      split
      · exact .next hm
      · exact .next fun h => (hm h).failWork
      · exact .next fun h => (h1 h).requestWork
      · exact .next fun h => (h1 h).askAts
      · exact .next h1

theorem execDraftEntryComplete_keeps {p index} {s : State} : Keeps s (execDraftEntryComplete p index s) := by
  unfold execDraftEntryComplete
  split
  · exact .next id
  · split
    · split
      · exact .next fun h => h.modEntry.modQueue
      · exact .next id
    · exact .next id

theorem State.Canonical.freeGrowth {s : State} {st n} (h : s.Canonical) : (s.freeGrowth st n).Canonical :=
  h.modStack

theorem State.Canonical.modOwned {s : State} {job w f} (h : s.Canonical) : (s.modOwned job w f).Canonical := by
  unfold State.modOwned
  split
  · exact h.modEntry
  · dsimp only
    split
    · exact h
    · split
      · exact h.modPil fun _ hx => hx.modCmd
      · exact h

theorem State.Canonical.settleGrowth {s : State} {g} (h : s.Canonical) : (s.settleGrowth g).Canonical := by
  unfold State.settleGrowth
  split
  · exact h.modOwned
  · exact h

theorem State.Canonical.failGrowth {s : State} {g err} (h : s.Canonical) : (s.failGrowth g err).Canonical := by
  unfold State.failGrowth
  split
  · exact h
  · exact h.modOwned.foldl fun _ _ h' => h'.modQueue

theorem State.Canonical.setGrowth {s : State} {st n g} (h : s.Canonical) : (s.setGrowth st n g).Canonical :=
  h.modStack

theorem State.Canonical.keepGrowth {s : State} {st n g} (h : s.Canonical) : (s.keepGrowth st n g).Canonical :=
  h.setGrowth.raiseVector

theorem State.Canonical.retryGrowth {s : State} {st n g} (h : s.Canonical) :
    (s.retryGrowth st n g).Canonical := by
  unfold State.retryGrowth
  dsimp only
  split
  · split
    · next s1 id e1 =>
        exact (h.noteMiss.sendPageRequest.of_fst e1).setGrowth
    · next s1 e1 =>
        exact (h.noteMiss.sendPageRequest.of_fst e1).failGrowth.keepGrowth
  · exact h.askAts
  · exact h
  · exact h.keepGrowth
  · next s1 x e =>
      split
      · split
        · exact (h.moveXlate e).physWrite.settleGrowth.freeGrowth
        · split
          · next s2 e2 =>
              exact ((h.moveXlate e).writeCompressed.of_fst e2).settleGrowth.freeGrowth
          · next s2 c e2 =>
              exact ((h.moveXlate e).writeCompressed.of_fst e2).keepGrowth
      · exact (h.moveXlate e).keepGrowth

theorem State.Canonical.stepGrowth {s : State} {st n} (h : s.Canonical) : (s.stepGrowth st n).Canonical := by
  unfold State.stepGrowth
  split
  · split
    · exact h.retryGrowth
    · exact h
  · exact h

theorem execOvfRetry_keeps {stack n} {s : State} : Keeps s (execOvfRetry stack n s) := by
  unfold execOvfRetry
  dsimp only
  split
  · exact .next id
  · exact .next fun h => h.setGrowth.stepGrowth

theorem execOvfDrop_keeps {stack n} {s : State} : Keeps s (execOvfDrop stack n s) := by
  unfold execOvfDrop
  dsimp only
  split
  · exact .next id
  · exact .next fun h => h.settleGrowth.failGrowth.freeGrowth

/-! ## What keeps canonical form: plies -/

theorem MatrixEngine.Canonical.takeWriteSlots {n k} {m : MatrixEngine} (hm : m.Canonical) :
    Gives (·.1.Canonical) (MatrixEngine.takeWriteSlots n k m) := by
  induction k generalizing m with
  | zero => exact .ok hm
  | succ k ih =>
    exact .ite .error (.andThen fun _ => .andThen fun _ => .bind (ih hm.modSlot.setSpool) fun _ hr => .ok hr)

theorem MatrixEngine.Canonical.markPlies {m : MatrixEngine} {t tag rows k js} (hm : m.Canonical) :
    (m.markPlies t tag rows k js).Canonical :=
  hm.foldl fun _ _ hm' => hm'.modSlot

theorem psplitIssue_keeps {i f} {s : State} : Keeps s (psplitIssue i f s) := by
  unfold psplitIssue
  refine .finish fun h => .andThen fun _ => .andThen fun _ => .andThen fun js => .andThen fun _ =>
    .andThen fun _ => ?_
  have ok : ∀ {m : MatrixEngine} {d xs p q r js seq}, m.Canonical → (((s.modMe fun y => { y with
      mtx := (m.markPlies p q r xs js).enterSlots seq }).dispatchAs .matrix d).joinBatch d.seq []).Canonical :=
    fun hm => (h.modMe fun _ hx => hx.withMtx hm.markPlies.enterSlots).dispatchAs.joinBatch
  exact .ite (.bind (Q := (·.1.Canonical)) (.ok h.me.mtx) fun _ hm => .andThen fun _ => .ok (ok hm))
    (.bind h.me.mtx.takeWriteSlots fun _ hm => .andThen fun _ => .ok (ok hm))

theorem MatrixEngine.Canonical.writePlies {m : MatrixEngine} {plies row es g zero bad} (hm : m.Canonical) :
    (m.writePlies plies row es g zero bad).Canonical :=
  hm.foldl fun _ _ hm => hm.foldl fun m _ hm =>
    hm.withSlots (b := (m.slotBytes.set _ _, m.slotBad.put _ _)) ⟨Memory.wf_set _ _ hm.1, hm.2.1.put⟩

theorem MatrixEngine.Canonical.runPsplit {m : MatrixEngine} {t d f} (hm : m.Canonical) :
    Gives (·.1.Canonical) (runPsplit m t d f) := by
  unfold Machine.runPsplit
  extract_lets js plies ty rows es own v m1 m2
  have h1 : m1.Canonical := hm.foldl fun m j hm => hm.withSlots (b := (m.slotBytes.clear _ _, m.slotBad.clear _ _))
    hm.slotData.clear
  have h2 : m2.Canonical := h1.foldl fun _ _ hm => hm.writePlies
  refine .ite (.ok hm) ?_
  split
  · exact .error
  · exact .ok (MatrixEngine.Canonical.foldl h2 fun _ _ hm => hm.modSlot)

theorem execPmma_keeps {f} {s : State} : Keeps s (execPmma f s) := by
  unfold execPmma
  refine .finish fun h => .andThen fun _ => .andThen fun _ => ?_
  extract_lets reads m rows cols k tiles first slots jp
  have ok : ∀ {d seq as bs g}, (((((s.dispatchAs .matrix d).modMe fun z => z.modMtx fun m =>
      if first then (m.enterSlots (as ++ bs)).modTiles tiles g else m.enterSlots (as ++ bs)).joinBatch seq
        tiles).countLoom
        (bitOf f.mod.toNat 6))).Canonical :=
    (h.dispatchAs.modMe fun _ hx => hx.modMtx fun _ hm => .ite hm.enterSlots.modTiles
      hm.enterSlots).joinBatch.countLoom
  have hs : ∀ as, Gives State.Canonical (slots as) := fun _ =>
    .andThen fun _ => .andThen fun _ => .andThen fun _ =>
      .ite (.andThen fun _ => .andThen fun _ => .andThen fun _ => .ok ok) (.andThen fun _ => .andThen fun _ => .ok ok)
  have hj : ∀ r, Gives State.Canonical (jp r) := fun _ => .ite (.andThen hs) (.andThen hs)
  exact .ite (.andThen fun _ => hj ()) (hj ())

theorem MatrixEngine.Canonical.setElem {m : MatrixEngine} {a e v bad} (hm : m.Canonical) :
    (m.setElem a e v bad).Canonical := by
  obtain ⟨h1, h2, h3, h4⟩ := hm
  exact ⟨h1, h2, Memory.wf_write _ _ _ h3, h4.put⟩

theorem MatrixEngine.Canonical.zeroTile {m : MatrixEngine} {a} (hm : m.Canonical) :
    (m.zeroTile a).Canonical := by
  obtain ⟨h1, h2, h3, h4⟩ := hm
  exact ⟨h1, h2, Memory.wf_clear _ _ h3, h4.clear⟩

theorem MatrixEngine.Canonical.mapTile {x : MatrixEngine} {a rows cols g} (hm : x.Canonical) :
    (x.mapTile a rows cols g).Canonical :=
  hm.foldl fun _ _ hm' => hm'.foldl fun _ _ hm' => hm'.setElem

theorem MatrixEngine.Canonical.runPair {x a : MatrixEngine} {d da f i j} (hm : x.Canonical) :
    (runPair x a d da f i j).Canonical := by
  unfold Machine.runPair
  exact hm.mapTile

theorem execPjoin_keeps {f} {s : State} : Keeps s (execPjoin f s) :=
  .finish fun h => .andThen fun _ => .andThen fun _ => .andThen fun _ => .andThen fun _ => .andThen fun _ =>
    .andThen fun _ => .ok h.dispatchAs.joinBatch

theorem Pillar.Canonical.writeOut {x : Pillar} {a n v bad} (hx : x.Canonical) :
    (x.writeOut a n v bad).Canonical := by
  unfold Pillar.writeOut
  split
  · exact hx.lsWriteFull
  · exact hx.lsWrite

theorem Pillar.Canonical.writeWords {x : Pillar} {a buf bad n} (hx : x.Canonical) :
    (x.writeWords a buf bad n).Canonical :=
  hx.foldl fun _ _ hx' => hx'.writeOut

theorem Pillar.Canonical.joinRow {x : Pillar} {d f row} (hx : x.Canonical) : (x.joinRow d f row).Canonical :=
  hx.writeWords

theorem execPstat_keeps {f} {s : State} : Keeps s (execPstat f s) :=
  .finish fun h => .andThen fun _ => .ok h.setGw

theorem MatrixEngine.Canonical.runMma {x a : MatrixEngine} {d da tile scaled} (hm : x.Canonical) :
    (runMma x a d da tile scaled).Canonical := by
  unfold Machine.runMma
  exact hm.mapTile

theorem MatrixEngine.Canonical.runMmv {x : MatrixEngine} {t d f} (hm : x.Canonical) :
    (runMmv x t d f).Canonical :=
  hm.foldl fun _ _ hm' => hm'.setElem

theorem Pillar.Canonical.runMld {x : Pillar} {d f} (hx : x.Canonical) : (x.runMld d f).Canonical :=
  hx.foldl fun _ _ hx' => hx'.modMtx fun _ hm => hm.setElem

theorem Pillar.Canonical.runMst {x : Pillar} {d f} (hx : x.Canonical) : (x.runMst d f).Canonical :=
  hx.writeWords

theorem MatrixEngine.Canonical.runSstv {m : MatrixEngine} {r d f} (hm : m.Canonical) :
    (m.runSstv r d f).Canonical := by
  unfold MatrixEngine.runSstv
  extract_lets v a m1
  have h1 : m1.Canonical := hm.foldl fun m i hm => hm.withSlots (b :=
    (m.slotBytes.write _ _ _, m.slotBad.putRange _ _ _))
    ⟨Memory.wf_write _ _ _ hm.1, hm.2.1.putRange⟩
  exact .ite h1.modSlot h1

theorem State.Canonical.acceptMatrix {s : State} {p} (h : s.Canonical) : (s.acceptMatrix p).Canonical := by
  unfold State.acceptMatrix
  extract_lets x
  split
  · exact h
  · split
    · exact h
    · extract_lets y broken key bubble start op z
      have hy : y.Canonical := h.pil.modMtx fun _ hm => hm
      have hz : z.Canonical := .ite hy hy
      exact .ite (h.setPil hy.discardMatrix.raiseLate)
        (h.setPil (hz.modMtx fun _ hm => .ite hm hm))

theorem Pillar.Canonical.countArray {x : Pillar} {macs clks} (hx : x.Canonical) :
    (x.countArray macs clks).Canonical :=
  hx.count.count

theorem Pillar.Canonical.startStep {x : Pillar} {clk bubble} (hx : x.Canonical) :
    (x.startStep clk bubble).Canonical := by
  unfold Pillar.startStep
  split
  · exact .modMtx (.countArray (.ite (.count hx) hx)) fun _ hm => .modTiles hm
  · exact hx

theorem Pillar.Canonical.returnStep {x : Pillar} {d} (hx : x.Canonical) : (x.returnStep d).Canonical :=
  hx.modMtx fun _ hm => hm

theorem execLoomStepStart_keeps {p} {s : State} : Keeps s (execLoomStepStart p s) := by
  unfold execLoomStepStart
  split
  · split
    · exact .next fun h => h.modPil fun _ hx => hx.faultStep
    · split
      · exact .next fun h => h.modPil fun _ hx => hx.returnStep
      · split
        · exact .next id
        · exact .next fun h => h.foldl fun _ _ h => h.modPil fun _ hx => Pillar.Canonical.ite hx.startStep
            hx.faultStep
  · exact .next id

theorem Pillar.Canonical.retireMatrix {x : Pillar} {clk d} (hx : x.Canonical) :
    (x.retireMatrix clk d).Canonical :=
  .discardMatrix (.modMtx hx fun _ hm => .modTiles hm)

theorem Pillar.Canonical.arrayResult {x : Pillar} {m : MatrixEngine} (hx : x.Canonical) (hm : m.Canonical) :
    (x.arrayResult m).Canonical :=
  .ite (hx.withMtx ⟨hm.1, hm.2.1, hx.mtx.2.2⟩) (hx.withMtx hm)

theorem State.Canonical.stepMma {s : State} {p d f scaled engines} (h : s.Canonical) :
    (s.stepMma p d f scaled engines).Canonical :=
  h.modPil fun _ hx => (hx.arrayResult (hx.mtx.foldl fun _ _ hm => hm.runMma)).countArray

theorem State.Canonical.completeMma {s : State} {p loom scaled} (h : s.Canonical) :
    (s.completeMma p loom scaled).Canonical := by
  unfold State.completeMma
  refine h.foldl fun r a h' => ?_
  split
  · exact h'.stepMma.modPil fun _ hx => hx.retireMatrix
  · exact h'

theorem State.Canonical.stepPmma {s : State} {p} {a : MatrixEngine} {da} (h : s.Canonical) :
    (s.stepPmma p a da).Canonical := by
  unfold State.stepPmma
  refine h.modPil fun x hx => ?_
  split
  · split
    · extract_lets y tiles i m pairs macs
      have hm : m.Canonical := .ite (hx.mtx.foldl fun _ _ hm => hm.zeroTile).modTiles hx.mtx
      split
      next pi pj _ =>
      extract_lets m1 x1
      have h1 : x1.Canonical := (hx.arrayResult hm.runPair.modTiles).countArray.count
      exact .ite (h1.modMtx fun _ hm => hm.modTiles).retireMatrix
        (.ite (.count (.modMtx h1 fun _ hm => hm)) (.modMtx h1 fun _ hm => hm))
    · exact hx
  · exact hx

theorem State.Canonical.completePmma {s : State} {p d loom} (h : s.Canonical) :
    (s.completePmma p d loom).Canonical := by
  unfold State.completePmma
  extract_lets ms root held s1
  have h1 : s1.Canonical := .ite (h.foldl fun _ _ h => h.modPil fun _ hx => hx.modMtx fun _ hm => hm) h
  clear_value s1
  split
  · exact h1.foldl fun _ _ h => h.stepPmma
  · exact h1

theorem Pillar.Canonical.completePjoin {x : Pillar} {clk now o f} (hx : x.Canonical) :
    (x.completePjoin clk now o f).Canonical := by
  have h1 : ∀ {w r t q n c}, (((x.joinRow w f r).modMtx fun m => m.modTiles t q).countArray n c).Canonical :=
    (hx.joinRow.modMtx fun _ hm => hm.modTiles).countArray
  exact .ite (.count (.retireMatrix (.modMtx h1 fun _ hm => hm.modTiles)))
    (.ite (.count (.modMtx h1 fun _ hm => hm)) (.modMtx h1 fun _ hm => hm))

theorem Pillar.Canonical.completePsplit {x : Pillar} {clk d f} (hx : x.Canonical) :
    (x.completePsplit clk d f).Canonical := by
  unfold Pillar.completePsplit
  extract_lets y
  have hy : y.Canonical := hx.countArray
  split
  · next m t e => exact (hy.withMtx (hx.mtx.runPsplit e)).setStrand.retireMatrix.count
  · exact (hy.modMtx fun _ hm => MatrixEngine.Canonical.foldl hm fun _ _ hm => hm.modSlot).retireMatrix.raiseLate

theorem State.Canonical.completeArray {s : State} {p o} (h : s.Canonical) :
    (s.completeArray p o).Canonical := by
  unfold State.completeArray
  dsimp only
  split
  · exact h.completeMma
  · exact h.completeMma
  · exact h.modPil fun _ hx => (hx.arrayResult hx.mtx.runMmv).countArray.retireMatrix
  · exact h.modPil fun _ hx => (hx.arrayResult hx.mtx.zeroTile).countArray.retireMatrix
  · exact h.modPil fun _ hx => hx.completePsplit
  · exact h.modPil fun _ hx => hx.completePsplit
  · exact h.completePmma
  · exact h.modPil fun _ hx => hx.completePjoin
  · exact h

theorem Pillar.Canonical.completePort {x : Pillar} {clk d} (hx : x.Canonical) :
    (x.completePort clk d).Canonical := by
  unfold Pillar.completePort
  extract_lets free
  have hf : ∀ {y : Pillar}, y.Canonical → (free y).Canonical := fun hy => hy.modMtx fun _ hm => hm
  split
  · exact ((hf hx.runMld).modMtx fun _ hm => hm.endMove).endSeq
  · exact ((hf hx.runMst).modMtx fun _ hm => hm.endMove).endSeq
  · next f _ => exact .modMtx (hf hx) fun _ hm => hm.endMove (a := f.dNum)
  · exact (hf hx).modStrand.leaveSlots.endSeq
  · exact ((hf hx).modMtx fun _ hm => hm.runSstv).endSeq
  · exact hx

theorem execMatrixComplete_keeps {p u} {s : State} : Keeps s (execMatrixComplete p u s) := by
  unfold execMatrixComplete
  dsimp only
  split
  · split
    · split
      · exact .next fun h => h.completeArray
      · exact .next id
    · exact .next id
  · split
    · exact .next fun h => h.setPil h.pil.completePort
    · exact .next id

theorem State.Canonical.drainLocal {s : State} {p q a o off n} (h : s.Canonical) :
    Gives (·.Canonical) (s.drainLocal p q a o off n) :=
  .andThen fun _ => .ok (h.modPil fun _ hx => hx.foldl fun _ _ hx' => hx'.lsWriteFull)

theorem State.Canonical.drainRows {p o f rs} {s : State} {m} (h : s.Canonical) :
    (State.drainRows p o f rs s m).1.Canonical := by
  induction rs generalizing s m with
  | nil => exact h
  | cons r rs ih =>
    unfold State.drainRows
    extract_lets n pitch dst step
    have hs : Gives (·.1.Canonical) step := .ite (.bind h.drainLocal fun _ h => .ok h) h.writeBytes
    clear_value step
    split
    · exact ih (hs rfl)
    · exact h

theorem State.Canonical.drainWake {s : State} {p o f} (h : s.Canonical) :
    Gives (·.Canonical) (s.drainWake p o f) := by
  unfold State.drainWake
  dsimp only
  split
  · exact .andThen fun _ => .ok (h.modPil fun _ hx => hx.lsWriteFull)
  · exact .ok h

theorem State.Canonical.drainOut {s : State} {p o f} (h : s.Canonical) : (s.drainOut p o f).Canonical := by
  unfold State.drainOut
  extract_lets drop done silent
  have hd : ∀ {t : State}, t.Canonical → (drop t).Canonical :=
    fun ht => ht.modPil fun _ hx => hx.modMtx fun _ hm => hm
  have hf : ∀ {t : State}, t.Canonical → (done t).Canonical := fun ht => (hd ht).modPil fun _ hx => hx.endSeq.count
  refine .ite (hf h) ?_
  split
  · next e => exact .getD h.holdOff (hd (h.drainRows.of_fst e)).raiseStop
  · next e =>
    have h1 := h.drainRows.of_fst e
    split
    · next e1 => exact hf (h1.drainWake e1)
    · exact .getD h.holdOff (hd h1).raiseStop

theorem execDrainWritesDone_keeps {p t} {s : State} : Keeps s (execDrainWritesDone p t s) := by
  unfold execDrainWritesDone
  split
  · exact .next id
  · split
    · split
      · exact .next id
      · split
        · exact .next fun h => h.holdWorm.modPil fun _ hx => hx.modMtx fun _ hm => hm
        · exact .next fun h => h.drainOut
    · exact .next id

/-! ## What keeps canonical form: messages and procedures -/

theorem Pillar.Canonical.endProc {x : Pillar} {t seq} (hx : x.Canonical) : (x.endProc t seq).Canonical := hx

theorem State.Canonical.failProc {s : State} {p t seq lvl i e} (h : s.Canonical) :
    (s.failProc p t seq lvl i e).Canonical :=
  (h.modPil fun _ hx => hx.endProc.modStrand).raiseStop

theorem State.Canonical.endProcOk {s : State} {p t seq} (h : s.Canonical) : (s.endProcOk p t seq).Canonical :=
  h.modPil fun _ hx => hx.endProc.endSeq

theorem State.Canonical.dispatchProc {s : State} {i slot aux} (h : s.Canonical) :
    (s.dispatchProc i slot aux).Canonical :=
  .foldl (.modMe (.dispatchAs h) fun _ hx => hx) fun _ _ h' => .pend h'

theorem remoteForm_keeps {i f align} {s : State} : Keeps s (remoteForm i f align s) :=
  .finish fun h => .andThen fun _ => .andThen fun _ => .andThen fun _ => .andThen fun _ => .ok h.dispatchProc

theorem execRfill_keeps {f} {s : State} : Keeps s (execRfill f s) :=
  .finish fun h => .andThen fun _ => .andThen fun _ => .andThen fun _ => .ok h.dispatchProc

theorem execRsig_keeps {f} {s : State} : Keeps s (execRsig f s) :=
  .finish fun h => .andThen fun _ => .andThen fun _ => .ok h.dispatchProc

theorem execRcopy_keeps {f} {s : State} : Keeps s (execRcopy f s) :=
  .finish fun h => .andThen fun _ => .andThen fun _ => .andThen fun _ => .ok h.dispatchProc

theorem execRwait_keeps {f} {s : State} : Keeps s (execRwait f s) := by
  unfold execRwait
  refine .finishAt fun h => .andThen fun r => ?_
  dsimp only
  split
  · exact .ok h.setGw.setPc
  · split
    · exact .ok h.park
    · exact .error

theorem execSend_keeps {f} {s : State} : Keeps s (execSend f s) := by
  unfold execSend
  refine .finish fun h => .andThen fun _ => ?_
  extract_lets len port jp
  have hp : ∀ r, Gives State.Canonical (port r) := fun _ => .andThen fun _ => .ok h.dispatchProc
  have hj : ∀ r, Gives State.Canonical (jp r) := fun _ => .ite (.andThen hp) (hp ())
  split <;> exact .andThen hj

theorem Pillar.Canonical.modInbox {x : Pillar} {n f} (hx : x.Canonical) : (x.modInbox n f).Canonical := hx

theorem Pillar.Canonical.writePayload {x : Pillar} {a vs} (hx : x.Canonical) :
    (x.writePayload a vs).Canonical := by
  induction vs generalizing x a with
  | nil => exact hx
  | cons v vs ih => exact ih hx.lsWriteFull

theorem receive_keeps {i f poll} {s : State} : Keeps s (receive i f poll s) := by
  unfold receive
  refine .finish fun h => .andThen fun _ => .andThen fun _ => ?_
  extract_lets n jp
  have hj : ∀ r, Gives State.Canonical (jp r) := fun _ => by
    unfold jp
    split
    · exact .ite (.ok h.setGw) .error
    · exact .andThen fun _ => .ok (h.modMe fun _ hx => hx.modInbox.writePayload).setGw.count.issueAfter
  split <;> exact .andThen hj

theorem State.Canonical.acceptSend {s t : State} {p d f} (h : s.Canonical) (ht : s.acceptSend p d f = some t) :
    t.Canonical := by
  unfold State.acceptSend at ht
  extract_lets x a b words host dst m out e port s1 at ht
  have h1 : s1.Canonical := h.setPil h.pil.frame
  clear_value s1
  split at ht
  · cases ht
  · split at ht
    · cases ht
      exact h.failProc
    · split at ht <;> cases ht
      · exact h.endProcOk
      · exact .ite h1.holdWorm h1

theorem State.Canonical.logProc {s : State} {r} (h : s.Canonical) : (s.logProc r).Canonical := by
  unfold State.logProc
  split
  · exact h
  · split
    · exact h.logEgress
    · exact h.logEgress
    · exact h

theorem State.Canonical.sendProc {s : State} {r out} (h : s.Canonical) : (s.sendProc r out).Canonical := by
  unfold State.sendProc
  dsimp only
  split
  · exact h.freeValue.frame
  · split
    · exact .holdWorm h
    · split
      · exact h
      · exact .logProc h

theorem State.Canonical.sendQueued {s : State} {peer} (h : s.Canonical) : (s.sendQueued peer).Canonical := by
  unfold State.sendQueued
  split
  · split
    · exact .logProc h
    · exact h
  · exact h

theorem State.Canonical.acceptMemory {s : State} {p d} (h : s.Canonical) :
    Gives (·.Canonical) (s.acceptMemory p d) := by
  unfold State.acceptMemory
  extract_lets va w x y r
  have hr : Gives State.Canonical r :=
    .andThen fun _ => .andThen fun _ => .ok (State.Canonical.sendProc (.noteForward (.noteXlate h)))
  clear_value r
  split
  · exact .ok (hr rfl)
  · exact .ite .error (.ok h.noteAttempt.failProc)

theorem State.Canonical.acceptDirect {s : State} {p d} (h : s.Canonical) : (s.acceptDirect p d).Canonical := by
  unfold State.acceptDirect
  dsimp only
  split <;> exact h.sendProc

theorem State.Canonical.acceptMessageInstr {s : State} {p d} (h : s.Canonical) :
    Gives (·.Canonical) (s.acceptMessageInstr p d) := by
  unfold State.acceptMessageInstr
  split
  · split
    · next s1 e1 =>
        exact .ok (h.acceptSend e1)
    · exact .error
  · exact .ok h.acceptDirect
  · exact .ok h.acceptDirect
  · exact h.acceptMemory

theorem State.Canonical.acceptMessageOf {s : State} {p t} (h : s.Canonical) :
    Gives (·.Canonical) (s.acceptMessageOf p t) := by
  unfold State.acceptMessageOf
  dsimp only
  split
  · exact .error
  · exact (h.setPil h.pil.frame).acceptMessageInstr

theorem State.Canonical.acceptMessage {s : State} {p} (h : s.Canonical) : (s.acceptMessage p).Canonical := by
  unfold State.acceptMessage
  extract_lets order
  split
  · next t e =>
    obtain ⟨q, _, e1⟩ := List.exists_of_findSome?_eq_some e
    cases e2 : s.acceptMessageOf p q with
    | error _ => rw [e2] at e1; cases e1
    | ok u => rw [e2] at e1; cases e1; exact h.acceptMessageOf e2
  · refine h.foldl fun t _ ht => ?_
    split
    · exact .getD ht.holdOff ht
    · exact ht

theorem State.Canonical.setPhase {s : State} {r ph} (h : s.Canonical) : (s.setPhase r ph).Canonical := h

theorem State.Canonical.performPlain {s : State} {r pa o x y} (h : s.Canonical) :
    Gives (·.1.Canonical) (s.performPlain r pa o x y) :=
  .ok h.performMem

theorem State.Canonical.performFadd {s : State} {r pa t} (h : s.Canonical) :
    Gives (·.1.Canonical) (s.performFadd r pa t) :=
  .ok h.useRow.physWrite

theorem State.Canonical.performDecw {s : State} {r q pa} (h : s.Canonical) :
    Gives (·.1.Canonical) (s.performDecw r q pa) := by
  unfold State.performDecw
  split
  next c bad _ =>
  extract_lets wake a ci s1 due s2
  have h1 : s1.Canonical := h.useRow.physWrite
  have h2 : s2.Canonical := .ite (h1.physWrite.modPil fun _ hx => hx.lsWriteFull) h1
  exact .ite .error (.ok h2)

theorem State.Canonical.performWadd {s : State} {r pa f} (h : s.Canonical) :
    Gives (·.1.Canonical) (s.performWadd r pa f) := by
  unfold State.performWadd
  dsimp only
  split
  · split
    · exact .ok h.useRow.physWrite
    · exact .error
  · split
    · exact .error
    · exact .ok h.useRow.physWrite

theorem State.Canonical.performWrd {s : State} {r pa f} (h : s.Canonical) :
    Gives (·.1.Canonical) (s.performWrd r pa f) := by
  unfold State.performWrd
  dsimp only
  split
  · exact .error
  · exact .ok (State.Canonical.ite h.useRow.physWrite h.useRow)

theorem State.Canonical.performAway {s : State} {r pl} (h : s.Canonical) :
    Gives (·.1.Canonical) (s.performAway r pl) := by
  unfold State.performAway
  dsimp only
  split
  · exact .ok (State.Canonical.ite h.devWrite h)
  · exact .ok h.freeValue

theorem State.Canonical.performDirect {s : State} {r pl} (h : s.Canonical) :
    Gives (·.1.Canonical) (s.performDirect r pl) := by
  unfold State.performDirect
  split
  · split
    · exact .ok (h.modPil fun _ hx => hx.lsWriteFull)
    · exact .error
    · exact .ok h
  · dsimp only
    split
    · exact .ok (h.modPil fun _ hx => hx)
    · exact .error
  · exact .ok h

theorem State.Canonical.noteProc {s : State} {r} (h : s.Canonical) : (s.noteProc r).Canonical := by
  unfold State.noteProc
  split
  · exact h.countForward
  · exact h.countForward
  · exact h

theorem State.Canonical.performProc {s : State} {r} (h : s.Canonical) :
    Gives (·.1.Canonical) (s.performProc r) := by
  unfold State.performProc
  split
  · exact h.performDirect
  · exact h.performDirect
  · dsimp only
    split
    · exact .error
    · exact .ok h
    · split
      · split
        · exact h.performFadd
        · exact h.performDecw
        · exact h.performWadd
        · exact h.performWrd
        · split
          · exact h.performPlain
          · exact .ok h
      · split
        · exact h.performFadd
        · split
          · exact h.performPlain
          · exact .ok h
      · exact h.performAway

theorem State.Canonical.performCopy {s : State} {r} (h : s.Canonical) :
    Gives (·.1.Canonical) (s.performCopy r) := by
  unfold State.performCopy
  refine .bind h.readPart fun r1 hr => ?_
  dsimp only
  split
  · exact .ok ((State.Canonical.ite hr.noteRewrite hr).modPil fun _ hx => hx.lsWriteFull)
  · exact .ok (State.Canonical.ite hr.noteRewrite hr)

theorem State.Canonical.stopCopy {s : State} {r e} (h : s.Canonical) : (s.stopCopy r e).Canonical := by
  unfold State.stopCopy
  dsimp only
  split
  · exact h
  · exact h.askAts
  · exact h.noteFault.noteAttempt.setPhase
  · exact h.noteMiss.requestFor.setPhase

theorem State.Canonical.copyStep {s : State} {r} (h : s.Canonical) : (s.copyStep r).Canonical := by
  unfold State.copyStep
  split
  · exact h.stopCopy
  · next s1 e e =>
      exact (h.performCopy e).stopCopy
  · next s1 e =>
      dsimp only
      split
      · exact (h.performCopy e).setPhase
      · exact h.performCopy e

theorem State.Canonical.countAgent {s : State} {p r} (h : s.Canonical) : (s.countAgent p r).Canonical := by
  unfold State.countAgent
  dsimp only
  split
  · split
    · exact h.modPil fun _ hx => hx.count
    · exact h
  · split
    · exact h.modPil fun _ hx => hx.count
    · exact h
  · split
    · exact h.modPil fun _ hx => hx.count
    · exact h
  · exact h

theorem State.Canonical.performWhole {s : State} {r} (h : s.Canonical) : (s.performWhole r).Canonical := by
  unfold State.performWhole
  dsimp only
  split
  · exact h.noteProc.setPhase
  · next s1 a b e =>
      exact (h.noteProc.performProc e).setPhase

theorem execAgentProcedure_keeps {p} {s : State} : Keeps s (execAgentProcedure p s) := by
  unfold execAgentProcedure
  split
  · exact .next id
  · dsimp only
    split
    · exact .next fun h => h.copyStep.countAgent
    · exact .next fun h => h.performWhole.countAgent

theorem execProcedureResponse_keeps {p t seq} {s : State} : Keeps s (execProcedureResponse p t seq s) := by
  unfold execProcedureResponse
  split
  · exact .next id
  · dsimp only
    split
    · refine .next fun h => State.Canonical.endProcOk ?_
      split
      · exact h.modStrand
      · exact h.modStrand.modStrand
      · exact h
    · exact .next fun h => .failProc h
    · exact .next id

theorem State.Canonical.tableEntry {s : State} {p b} (h : s.Canonical) : (s.tableEntry p b).Canonical := by
  unfold State.tableEntry
  split
  · exact h
  · split
    · exact h.modPil fun _ hx => hx.count
    · exact h

theorem execRouterCombine_keeps {p later} {s : State} : Keeps s (execRouterCombine p later s) := by
  unfold execRouterCombine
  split
  · exact .next id
  · dsimp only
    split
    · exact .next id
    · split
      · exact .next fun h => h.tableEntry
      · split <;> exact .next fun h => h.modPil fun _ hx => hx.count

theorem State.Canonical.modOutbox {s : State} {p n f} (h : s.Canonical) : (s.modOutbox p n f).Canonical := by
  unfold State.modOutbox
  split
  · exact h
  · exact h.modPil fun _ hx => hx

theorem State.Canonical.clearBusy {s : State} {n} (h : s.Canonical) : (s.clearBusy n).Canonical := by
  unfold State.clearBusy
  split
  · exact h.setHq
  · exact h

theorem State.Canonical.dropOutbox {s : State} {p n} (h : s.Canonical) : (s.dropOutbox p n).Canonical :=
  h.modOutbox.clearBusy

theorem State.Canonical.messageDone {s : State} {p e} (h : s.Canonical) : (s.messageDone p e).Canonical := by
  unfold State.messageDone
  dsimp only
  split
  · exact h.dropOutbox
  · split
    · exact (h.dropOutbox.endProcOk.modPil fun _ hx => hx.count).dropOutbox.endProcOk
    · exact h.dropOutbox.endProcOk.modPil fun _ hx => hx.count

theorem State.Canonical.messageFailed {s : State} {p e c v} (h : s.Canonical) :
    (s.messageFailed p e c v).Canonical := by
  unfold State.messageFailed
  dsimp only
  split
  · exact h.dropOutbox
  · split
    · exact h.dropOutbox.failProc.dropOutbox.failProc
    · exact h.dropOutbox.failProc

theorem State.Canonical.refuse {s : State} {p e} (h : s.Canonical) : (s.refuse p e).Canonical := by
  unfold State.refuse
  dsimp only
  split
  · exact h.modOutbox
  · exact h.modOutbox.modPil fun _ hx => hx.count

theorem State.Canonical.writeRing {s : State} {p m} (h : s.Canonical) :
    Gives (·.Canonical) (s.writeRing p m) := by
  unfold State.writeRing
  exact .bind h.writeBytes fun r hr => .ok hr.logEgress.setHq.raiseVector

theorem State.Canonical.hostHead {s : State} {p e} (h : s.Canonical) : (s.hostHead p e).Canonical := by
  unfold State.hostHead
  dsimp only
  split
  · exact h.messageFailed
  · split
    · exact h.messageFailed
    · split
      · exact h.refuse
      · split
        · exact h.modOutbox
        · exact h
        · exact h.askAts
        · exact h.noteFault.messageFailed
        · split
          · next s1 n e2 =>
              exact (h.noteMiss.sendPageRequest.of_fst e2).modOutbox
          · next s1 e2 =>
              exact (h.noteMiss.sendPageRequest.of_fst e2).messageFailed

theorem execMessageHeadArrive_keeps {p n} {s : State} : Keeps s (execMessageHeadArrive p n s) := by
  unfold execMessageHeadArrive
  split
  · exact .next id
  · split
    · exact .next id
    · split
      · exact .next fun h => h.hostHead
      · dsimp only
        split
        · exact .next fun h => h.countForward.messageFailed
        · split
          · exact .next fun h => h.countForward.refuse
          · exact .next fun h => (h.countForward.modPil fun _ hx => hx.modInbox).modOutbox

theorem execMessageResend_keeps {p n} {s : State} : Keeps s (execMessageResend p n s) := by
  unfold execMessageResend
  split
  · split
    · split
      · exact .next fun h => h.modOutbox
      · exact .next id
    · exact .next id
  · exact .next id

theorem execMessageDeliver_keeps {p n} {s : State} : Keeps s (execMessageDeliver p n s) := by
  unfold execMessageDeliver
  split
  · exact .next id
  · next e _ =>
    refine .ite (.next id) (.ite ?_ (.next fun h => .messageDone (.modPil h fun _ hx => hx.modInbox)))
    have hr : s.Canonical → Gives State.Canonical (if s.hostClosed e.msg.dst then .error .wait else s.writeRing
      p e.msg) :=
      fun h => .ite .error h.writeRing
    generalize (if s.hostClosed e.msg.dst then (.error .wait : Act State) else s.writeRing p e.msg) = r at *
    split
    · exact .next fun h => .messageDone (hr h rfl)
    · exact .next fun h => h.hostHead

theorem execCutTailFlitArrive_keeps {p inbox} {s : State} : Keeps s (execCutTailFlitArrive p inbox s) := by
  unfold execCutTailFlitArrive
  dsimp only
  split
  · exact .next fun h => h.modPil fun _ hx => hx.modInbox
  · exact .next id

/-! ## What keeps canonical form: jobs -/

theorem State.Canonical.writeTail {n} {s : State} {v} (h : s.Canonical) : (s.writeTail n v).Canonical := by
  unfold State.writeTail
  dsimp only
  split <;> exact h.setLq

theorem execLqtailWrite_keeps {q v} {s : State} : Keeps s (execLqtailWrite q v s) := by
  unfold execLqtailWrite
  dsimp only
  split
  · exact .next fun h => h.setLq
  · exact .next fun h => h.writeTail

theorem State.Canonical.releaseTail {s : State} {n} (h : s.Canonical) : (s.releaseTail n).Canonical :=
  h.setLq.foldl fun _ _ h' => h'.writeTail

theorem State.Canonical.writeStatus {s : State} {j} (h : s.Canonical) : (s.writeStatus j).Canonical := by
  unfold State.writeStatus
  dsimp only
  split
  · exact h
  · split
    · next s1 a e1 =>
        exact (h.writeBytes e1).modJob
    · split
      · exact h
      · exact h.noteFault.countLaunch.modJob
    · split
      · next s1 n e2 =>
          exact (h.noteMiss.sendPageRequest.of_fst e2).modJob
      · next s1 e2 =>
          exact (h.noteMiss.sendPageRequest.of_fst e2).countLaunch.modJob
    · exact State.Canonical.getD h.holdOff h

theorem State.Canonical.writeStatuses {fuel n} {s : State} (h : s.Canonical) :
    (State.writeStatuses fuel n s).Canonical := by
  induction fuel generalizing s with
  | zero => exact h
  | succ fuel ih =>
    unfold State.writeStatuses
    split
    · exact .ite h (.ite h.writeStatus (ih h.writeStatus))
    · exact h

theorem State.Canonical.flush {s : State} (h : s.Canonical) : s.flush.Canonical :=
  (h.foldl fun _ _ h' => h'.writeStatuses).frame

theorem State.Canonical.reassessJob {s : State} {j} (h : s.Canonical) : (s.reassessJob j).Canonical := by
  unfold State.reassessJob
  dsimp only
  split
  · exact h.modJob.retire
  · split
    · exact h
    · exact h.modJob

theorem State.Canonical.reassessAll {fuel} {s : State} (h : s.Canonical) :
    (State.reassessAll fuel s).Canonical := by
  induction fuel generalizing s with
  | zero => exact h
  | succ fuel ih =>
    unfold State.reassessAll
    extract_lets s1
    have h1 : s1.Canonical := h.foldl fun t j ht => by
      split
      · exact .ite ht.reassessJob ht
      · exact ht
    exact .ite h1 (ih h1)

theorem State.Canonical.settleJobs {s : State} (h : s.Canonical) : s.settleJobs.Canonical :=
  h.reassessAll.flush

theorem State.Canonical.advance {s : State} {n} (h : s.Canonical) : (s.advance n).Canonical := h.setLq

theorem State.Canonical.takeIn {s : State} {n r refused} (h : s.Canonical) :
    (s.takeIn n r refused).Canonical := by
  have h1 : ∀ {l}, (State.advance { s with launch := l } n).Canonical := .advance h.frame
  unfold State.takeIn
  extract_lets
  split
  · exact .settleJobs (.retire h1)
  · exact .settleJobs (.countLaunch (.modJob h1))

theorem execJobAdmit_keeps {q} {s : State} : Keeps s (execJobAdmit q s) := by
  unfold execJobAdmit
  dsimp only
  split
  · exact .next id
  · split
    · exact .next fun h => h.takeIn
    · split
      · next s1 m bad e =>
          split <;> exact .next fun h => (h.readBytes e).takeIn
      · exact .next fun h => h.noteFault.takeIn
      · split
        · next s1 id e1 =>
            exact .next fun h => (h.noteMiss.sendPageRequest.of_fst e1).setLq
        · next s1 e1 =>
            exact .next fun h => (h.noteMiss.sendPageRequest.of_fst e1).takeIn
      · exact .next fun h => State.Canonical.getD h.holdOff h

theorem State.Canonical.requestPreempt {s : State} {j} (h : s.Canonical) : (s.requestPreempt j).Canonical := by
  unfold State.requestPreempt
  split
  · exact .modJob h
  · exact h

theorem State.Canonical.holdRect {s : State} {j r} (h : s.Canonical) : (s.holdRect j r).Canonical :=
  h.modJob.foldl fun _ _ h' => h'.modPil fun _ hx => hx

theorem State.Canonical.dropRect {s : State} {j r} (h : s.Canonical) : (s.dropRect j r).Canonical := by
  unfold State.dropRect
  extract_lets ps s1 s2
  have h1 : s1.Canonical := h
  have h2 : s2.Canonical := h1.foldl fun _ _ h => h.modPil fun _ hx => hx
  clear_value s2
  exact h2.modJob

theorem State.Canonical.installDrafts {va ps} {s : State} (h : s.Canonical) :
    Gives (·.1.Canonical) (State.installDrafts va ps s) := by
  induction ps generalizing s with
  | nil => exact .ok h
  | cons p ps ih =>
    refine .bind h.checkDraft fun r hr => ?_
    obtain ⟨t, r⟩ := r
    cases r with
    | installed es => exact ih (State.Canonical.installEntries hr)
    | refused c i q => exact .ok hr

theorem State.Canonical.installStep {s : State} {j r} (h : s.Canonical) : (s.installStep j r).Canonical := by
  unfold State.installStep
  split
  · next e => exact .modJob (h.installDrafts e)
  · next e => exact .settleJobs (.retire (.dropRect (h.installDrafts e)))
  · exact .getD h.holdOff h

theorem State.Canonical.placeNew {s : State} {j r} (h : s.Canonical) : (s.placeNew j r).Canonical := by
  unfold State.placeNew
  extract_lets s1 s2
  have h2 : s2.Canonical := h.holdRect.foldl fun _ _ h => h.modPil fun _ hx => hx
  clear_value s2
  exact .ite h2 h2.modJob.installStep

theorem execJobPlace_keeps {s : State} : Keeps s (execJobPlace s) := by
  unfold execJobPlace
  dsimp only
  split
  · exact .next fun h => h.settleJobs
  · exact .next fun h => h.settleJobs.retire.settleJobs
  · exact .next fun h => h.settleJobs.modJob.foldl fun _ _ h => h.requestPreempt
  · exact .next fun h => State.Canonical.ite h.settleJobs.holdRect h.settleJobs.placeNew

theorem execBackfillAgeLimit_keeps {job} {s : State} : Keeps s (execBackfillAgeLimit job s) := .next id

theorem execPreemptreqWrite_keeps {v} {s : State} : Keeps s (execPreemptreqWrite v s) := by
  unfold execPreemptreqWrite
  dsimp only
  split
  · split
    · exact .next fun h => h.requestPreempt
    · exact .next id
  · exact .next id

/-- The marks of a job's image come before those that the load leaves (R85). -/
theorem NatSet.Rising.startMarks {m : NatSet} {n q} (hm : m.Rising) :
    ({ elems := (List.range n).filter q ++ m.elems.filter fun w => n ≤ w } : NatSet).Rising := by
  refine List.pairwise_append.mpr ⟨List.pairwise_lt_range.filter _, List.Pairwise.filter _ hm, fun a ha b hb => ?_⟩
  have h1 := List.mem_range.mp (List.mem_filter.mp ha).1
  have h2 := of_decide_eq_true (List.mem_filter.mp hb).2
  omega

theorem Pillar.Canonical.start {x : Pillar} {j r p image bad} (hx : x.Canonical) :
    (x.start j r p image bad).Canonical := by
  obtain ⟨hb, hm, he⟩ := hx.ls
  exact Pillar.canonical_iff.mpr ⟨⟨Memory.wf_write _ _ _ hb, hm.startMarks, he⟩, hx.mtx⟩

theorem State.Canonical.imageFailed {s : State} {j r} (h : s.Canonical) : (s.imageFailed j r).Canonical :=
  h.dropRect.retire.settleJobs

theorem execImageLoaded_keeps {job} {s : State} : Keeps s (execImageLoaded job s) := by
  unfold execImageLoaded
  split
  · exact .next id
  · split
    · exact .next id
    · refine .ite (.next fun h => h.installStep) ?_
      split
      · exact .next fun h => h.noteFault.imageFailed
      · split
        · next e => exact .next fun h => .modJob (h.noteMiss.sendPageRequest.of_fst e)
        · next e => exact .next fun h => .imageFailed (h.noteMiss.sendPageRequest.of_fst e)
      · exact .next fun h => .getD h.holdOff h
      · next e =>
        exact .next fun h => .flush (.modJob ((h.readBytes e).foldl fun _ _ h => h.modPil fun _ hx => hx.start))

theorem Pillar.scrub_canonical (x : Pillar) : x.scrub.Canonical := Pillar.reset_canonical.frame

theorem execPillarScrubDone_keeps {p} {s : State} : Keeps s (execPillarScrubDone p s) := by
  unfold execPillarScrubDone
  dsimp only
  split
  · exact .next id
  · refine .next fun h => (State.Canonical.modPil ?_ fun x _ => x.scrub_canonical.frame).flush
    split
    · exact h.freeDraft
    · exact h

theorem State.Canonical.endJob {s : State} {j r} (h : s.Canonical) : (s.endJob j r).Canonical :=
  ((State.Canonical.ite h.modJob.retire h.modJob.retire.raiseVector).foldl fun _ _ h' => h'.cancelQueued).foldl
    fun _ _ h' => h'.modPil fun _ hx => hx

theorem State.Canonical.notifyHandoff {s : State} (h : s.Canonical) : s.notifyHandoff.Canonical := by
  unfold State.notifyHandoff
  split
  · exact h
  · split
    · exact h
    · exact (State.Canonical.ite (State.Canonical.ite h.modJob h).endJob (State.Canonical.ite h.modJob h)).settleJobs

theorem execHandoff_keeps {f} {s : State} : Keeps s (execHandoff f s) := by
  unfold execHandoff
  refine .finish fun h => .andThen fun r => .andThen fun r1 => ?_
  split
  · exact .ok h
  · exact .ok h.modSt.notifyHandoff

theorem Pillar.Canonical.discardOpen {x : Pillar} {t clk} (hx : x.Canonical) :
    (x.discardOpen t clk).Canonical :=
  .modStrand (.foldl (.modMtx hx fun _ hm => hm) fun _ _ hx' => .discardMatrix hx')

theorem execExit_keeps {f} {s : State} : Keeps s (execExit f s) :=
  .finishAt fun h => .andThen fun _ => .andThen fun _ => .andThen fun _ =>
    .ok (State.Canonical.ite (h.modMe fun _ hx => hx.discardOpen).modSt.leaveLoom (h.modMe fun _ hx =>
    hx.discardOpen).modSt).notifyHandoff

theorem State.Canonical.endLaunch {s : State} {f n code} (h : s.Canonical) : (s.endLaunch f n code).Canonical :=
  h.releaseTail.setGw.issueAfter.setPc.modSt

theorem State.Canonical.launchSlot {s : State} {f n m} (h : s.Canonical) : (s.launchSlot f n m).Canonical := by
  unfold State.launchSlot
  dsimp only
  split
  · exact h.endLaunch
  · split
    · next s1 a e =>
        exact (h.writeBytes e).setLq.endLaunch
    · exact h.noteFault.endLaunch
    · split
      · next s1 id e1 =>
          exact (h.noteMiss.sendPageRequest.of_fst e1).setLq.modSt
      · next s1 e1 =>
          exact (h.noteMiss.sendPageRequest.of_fst e1).endLaunch
    · exact (State.Canonical.getD h.holdOff h).setLq.modSt

theorem State.Canonical.resumeLaunch {s : State} {i m} (h : s.Canonical) : (s.resumeLaunch i m).Canonical := by
  unfold State.resumeLaunch
  split
  · dsimp only
    split
    · exact h
    · exact h.launchSlot
  · exact h

theorem execLaunch_keeps {f} {s : State} : Keeps s (execLaunch f s) := by
  unfold execLaunch
  refine .finishAt fun h => .andThen fun r => .andThen fun r1 => ?_
  split
  · exact .ok h.setGw.setPc
  · split
    · exact .ok h.setGw.setPc
    · refine .andThen fun r2 => .andThen fun r3 => ?_
      exact .bind h.readBytes fun r4 hr => .andThen fun _ => .ok (State.Canonical.ite hr.setGw.setPc hr.launchSlot)

/-! ## What keeps canonical form: system instructions -/

theorem Pillar.Canonical.writeXb {x : Pillar} {v} (hx : x.Canonical) : Gives (·.Canonical) (x.writeXb v) :=
  .andThen fun _ => .ok hx

theorem Pillar.Canonical.writeSteal {x : Pillar} {v} (hx : x.Canonical) :
    Gives (·.Canonical) (x.writeSteal v) :=
  .andThen fun _ => .ok hx

theorem Pillar.Canonical.writeTagcfg {x : Pillar} {v} (hx : x.Canonical) :
    Gives (·.Canonical) (x.writeTagcfg v) :=
  .andThen fun _ => .ok hx

theorem Pillar.Canonical.writeSaveoff {x : Pillar} {v} (hx : x.Canonical) :
    Gives (·.Canonical) (x.writeSaveoff v) :=
  .andThen fun _ => .ok hx

theorem State.Canonical.writeChain {s : State} {v} (h : s.Canonical) : Gives (·.Canonical) (s.writeChain v) :=
  .andThen fun _ => .ok h.modStack

theorem State.Canonical.writeCalendar {s : State} {v} (h : s.Canonical) : (s.writeCalendar v).Canonical :=
  h.modMe fun _ hx => hx

theorem Pillar.Canonical.writeRpmap {x : Pillar} {n v} (hx : x.Canonical) : (x.writeRpmap n v).Canonical := hx

theorem Pillar.Canonical.writeFwd {x : Pillar} {n v} (hx : x.Canonical) : (x.writeFwd n v).Canonical := hx

theorem State.Canonical.putSys {s : State} {n v bad} (h : s.Canonical) :
    Gives (·.Canonical) (s.putSys n v bad) := by
  have hp : ∀ {r : Act Pillar}, Gives Pillar.Canonical r → Gives State.Canonical (r.map fun y => s.setPil s.curP y) :=
    fun hr => hr.map fun _ hy => h.setPil hy
  unfold State.putSys
  refine .ite (.ok (h.modMe fun _ hx => hx.writeFwd)) (.ite (.ok (h.modMe fun _ hx => hx.writeRpmap))
    (.ite (.ok h.modSt) ?_))
  split
  case h_3 => exact hp h.me.writeXb
  case h_4 => exact hp h.me.writeSteal
  case h_6 => exact .ok (.ite h (h.modMe fun _ hx => hx.abandonTile))
  case h_16 => exact hp h.me.writeTagcfg
  case h_18 => exact h.writeChain
  case h_19 => exact .ok h.writeCalendar
  case h_20 => exact hp h.me.writeSaveoff
  case h_5 | h_13 | h_14 | h_17 => exact .ok (h.modMe fun _ hx => hx)
  case h_21 | h_22 => exact .ok h
  all_goals exact .ok h.modSt

theorem State.Canonical.writeSys {s : State} {n v bad} (h : s.Canonical) :
    Gives (·.Canonical) (s.writeSys n v bad) := by
  unfold State.writeSys
  split
  · exact .ok h
  · exact .andThen fun _ => h.putSys

theorem execSysrd_keeps {f} {s : State} : Keeps s (execSysrd f s) :=
  .finish fun h => .andThen fun _ => .andThen fun _ => .ok h.setG

theorem execSyswr_keeps {f} {s : State} : Keeps s (execSyswr f s) := .finish fun h => h.writeSys

theorem writeEvent_keeps {n v} {s : State} : Keeps s (writeEvent n v s) := by
  unfold writeEvent
  split
  · next s1 e =>
      exact .next fun h => (h.writeSys e)
  · exact .next fun h => h.takeTrap
  · exact .next id

theorem execRowprogAbandon_keeps {s : State} : Keeps s (execRowprogAbandon s) := by
  unfold execRowprogAbandon
  exact writeEvent_keeps

theorem execFmtWrite_keeps {v} {s : State} : Keeps s (execFmtWrite v s) := by
  unfold execFmtWrite
  exact writeEvent_keeps

theorem execStatusWrite_keeps {v} {s : State} : Keeps s (execStatusWrite v s) := by
  unfold execStatusWrite
  exact writeEvent_keeps

theorem execRegisterWrite_keeps {r v} {s : State} : Keeps s (execRegisterWrite r v s) := by
  unfold execRegisterWrite
  split
  · next p t n =>
    obtain ⟨u, e, hu⟩ := writeEvent_keeps (n := n.toNat) (v := v) (s := s.focus p t)
    rw [e]
    exact .next fun h => (hu h.focus).focus
  · exact .next fun h => .ite h.devWrite h.answer

theorem execIllegalInstruction_keeps {cause tval} {s : State} : Keeps s (execIllegalInstruction cause tval s) :=
  .next fun h => h.takeTrap

theorem State.Canonical.endDiscard {s : State} (h : s.Canonical) : s.endDiscard.Canonical := by
  unfold State.endDiscard
  dsimp only
  split
  · exact h
  · split <;> exact h

theorem execTret_keeps {f} {s : State} : Keeps s (execTret f s) :=
  .finishAt fun h => .andThen fun _ => .andThen fun _ =>
    .ok ((State.Canonical.ite (h.modSt.modMe fun _ hx => hx.modRing) h.modSt).modMe fun _ hx =>
    hx.resumeTile).endDiscard

theorem execWaiti_keeps {f} {s : State} : Keeps s (execWaiti f s) :=
  .finish fun h => .andThen fun _ => .andThen fun _ => .ok h.setGw

theorem execHalt_keeps {f} {s : State} : Keeps s (execHalt f s) :=
  .finish fun h => .andThen fun _ => .ok h.modSt

theorem State.Canonical.dropEntries {s : State} {sel} (h : s.Canonical) : (s.dropEntries sel).Canonical :=
  h.mapPillars rfl fun _ he => he

theorem State.Canonical.restartWalks {s : State} {sel} (h : s.Canonical) : (s.restartWalks sel).Canonical := h

theorem invalidate_keeps {i} {s : State} {bad sel} : Keeps s (invalidate i s bad sel) := by
  unfold invalidate
  refine .finishAt fun h => .andThen fun r => .andThen fun r1 => .andThen fun r2 => ?_
  dsimp only
  split
  · exact .ok h.dropEntries.restartWalks.setPc.issueAfter
  · exact .ok h.dropEntries.restartWalks.modSt

theorem State.Canonical.invalidated {s : State} {i} (h : s.Canonical) : (s.invalidated i).Canonical :=
  h.modSt.issueAfter

theorem execRingrd_keeps {f} {s : State} : Keeps s (execRingrd f s) :=
  .finish fun h => .andThen fun _ => .andThen fun _ => .andThen fun _ => .ok h.setG

/-! ## What keeps canonical form: instruction boundaries -/

theorem State.Canonical.leaveWait {s : State} (h : s.Canonical) : s.leaveWait.Canonical := by
  unfold State.leaveWait
  refine State.Canonical.modSt ?_
  split
  · split
    · exact h.modMe fun _ hx => hx.modMtx fun _ hm => hm
    · exact h
  · exact h

theorem execLateFaultDelivery_keeps {p t} {s : State} : Keeps s (execLateFaultDelivery p t s) := by
  unfold execLateFaultDelivery
  split
  · exact .next fun h => h.focus.leaveWait.deliver
  · exact .next id

theorem execForwardedTrapInterrupt_keeps {p t} {s : State} : Keeps s (execForwardedTrapInterrupt p t s) :=
  .ite (.next id) (.next fun h => .takeTrap (.modMe h.focus.leaveWait fun _ hx => hx))

theorem execSignalInterrupt_keeps {p t} {s : State} : Keeps s (execSignalInterrupt p t s) := by
  unfold execSignalInterrupt
  split
  · exact .next id
  · exact .next fun h => h.focus.leaveWait.takeTrap

theorem State.Canonical.passOn {s : State} {p fwd} (h : s.Canonical) : (s.passOn p fwd).Canonical :=
  h.sendTrapMessage

theorem execTrapMessageArrive_keeps {n} {s : State} : Keeps s (execTrapMessageArrive n s) := by
  unfold execTrapMessageArrive
  split
  · exact .next id
  · extract_lets s1 p s2
    have h2 : s.Canonical → s2.Canonical := fun h => .ite h (State.Canonical.modPil h fun _ hx => hx.count)
    exact .ite (.next fun h => (h2 h).passOn) (.next fun h => (h2 h).modPil fun _ hx => hx)

theorem execTrapMessageTimeout_keeps {p} {s : State} : Keeps s (execTrapMessageTimeout p s) :=
  .ite (.next id) (.next fun h => .passOn (.modPil h fun _ hx => hx))

theorem State.Canonical.beginPreempt {s : State} {p} (h : s.Canonical) : (s.beginPreempt p).Canonical :=
  h.modPil fun _ hx => hx

theorem execPreemptRequestArrive_keeps {p} {s : State} : Keeps s (execPreemptRequestArrive p s) := by
  unfold execPreemptRequestArrive
  split
  · exact .next id
  · dsimp only
    split
    · split
      · exact .next id
      · split
        · exact .next fun h => h.beginPreempt
        · exact .next fun h => h.frame
    · exact .next id

theorem execPreemptAgeLimit_keeps {p} {s : State} : Keeps s (execPreemptAgeLimit p s) := by
  unfold execPreemptAgeLimit
  split
  · split
    · exact .next fun h => h.modPil fun _ hx => hx
    · exact .next id
  · exact .next id

theorem execPreemptionPointStop_keeps {p t} {s : State} : Keeps s (execPreemptionPointStop p t s) := by
  unfold execPreemptionPointStop
  dsimp only
  split
  · exact .next id
  · split
    · exact .next fun h => h.focus.modSt
    · exact .next fun h => h.focus.leaveWait.modSt

theorem execPreempt_keeps {f} {s : State} : Keeps s (execPreempt f s) :=
  .finish fun h => .andThen fun _ => .andThen fun _ => .ok (State.Canonical.ite h.setGw.modSt h.setGw)

/-! ## What keeps canonical form: preemption and saved contexts -/

theorem Pillar.Canonical.stopLoads {x : Pillar} {clk} (hx : x.Canonical) : (x.stopLoads clk).Canonical := by
  unfold Pillar.stopLoads
  split
  · exact hx
  · dsimp only
    split
    · split
      · exact hx.count
      · exact hx
    · exact (Pillar.Canonical.ite hx.count hx).frame.modStrand.unpin

theorem Memory.wf_foldl {α : Type} {f : Memory → α → Memory} {l : List α} {m : Memory} (hm : m.wf = true)
    (hf : ∀ m a, m.wf = true → (f m a).wf = true) : (l.foldl f m).wf = true :=
  List.foldlRecOn l f hm fun m hm a _ => hf m a hm

theorem Strand.block_wf {t : Strand} {n off} : (t.block n off).wf = true :=
  have put {α : Type} {l : List α} {m : Memory} {a v : α → Nat} {k} (hm : m.wf = true) :
      (l.foldl (fun m x => m.write (a x) k (v x)) m).wf = true := Memory.wf_foldl hm fun _ _ hm =>
        Memory.wf_write _ _ _ hm
  Memory.wf_writeList _ _ (put (put (put (put Memory.wf_empty))))

theorem LocalStore.fullBits_wf {l : LocalStore} : l.fullBits.wf = true := Memory.wf_write _ _ _ Memory.wf_empty

theorem Memory.wf_setBit {m : Memory} {j} (hm : m.wf = true) : (m.setBit j).wf = true := Memory.wf_set _ _ hm

theorem Pillar.poisonMap_wf {x : Pillar} : x.poisonMap.wf = true :=
  Memory.wf_foldl (Memory.wf_foldl Memory.wf_empty fun _ _ hm => Memory.wf_setBit hm) fun _ _ hm =>
    Memory.wf_setBit hm

theorem State.Canonical.putSection {s : State} {base off n m from_} (h : s.Canonical) (hm : m.wf = true) :
    (s.putSection base off n m from_).Canonical :=
  h.withMem (Memory.wf_splice _ _ _ h.1 hm) h.2.1.clear

theorem State.Canonical.writeContext {s : State} {p area} (h : s.Canonical) :
    (s.writeContext p area).Canonical := by
  unfold State.writeContext
  extract_lets x c base n dev put s1 s2 s3 s4 s5 s6 s7 s8 s9
  have hx : x.Canonical := h.pil
  have hd : ∀ {off len}, (dev off len).wf = true := Memory.wf_writeList _ _ Memory.wf_empty
  have hput : ∀ {b off len m} {t : State}, t.Canonical → m.wf = true → (put b off len m t).Canonical :=
    fun ht hm => .ite (ht.putSection hm) ht
  have h1 : s1.Canonical := h
  have h2 : s2.Canonical := h1.putSection hd
  have h3 : s3.Canonical := hput h2 LocalStore.fullBits_wf
  have h4 : s4.Canonical := h3.foldl fun _ _ h => h.putSection Strand.block_wf
  have h5 : s5.Canonical := h4.putSection hx.ls.1
  have h6 : s6.Canonical := h5.putSection hx.mtx.1
  have h7 : s7.Canonical := h6.putSection hx.mtx.2.2.1
  exact hput (hput (hput h7 hd) hd) Pillar.poisonMap_wf

theorem NatSet.rising_setBelow {n q} : (setBelow n q).Rising := List.pairwise_lt_range.filter _

/-- The memories of a context that is read back come from its save area. -/
theorem State.Canonical.reload {c : SavedContext} {s : State} (h : s.Canonical) : (c.reload s).Canonical := by
  have hb : ∀ {a n b}, (Memory.splice {} a n s.mem b).wf = true := Memory.wf_splice _ _ _ Memory.wf_empty h.1
  refine Pillar.canonical_iff.mpr ⟨⟨hb, NatSet.rising_setBelow, ?_⟩, hb, NatSet.rising_setBelow, hb,
    NatSet.rising_setBelow⟩
  unfold SavedContext.reload
  dsimp only
  split
  · exact NatSet.rising_setBelow
  · exact NatSet.rising_empty

theorem Pillar.withContext_canonical (x : Pillar) {ctx : Pillar} (hc : ctx.Canonical) :
    (x.withContext ctx).Canonical :=
  hc

theorem Pillar.Canonical.restart {x : Pillar} {clk} (hx : x.Canonical) : (x.restart clk).Canonical :=
  .foldl hx fun _ _ hx' => .resumeTile hx'

theorem State.Canonical.parkDrafts {s : State} {n ps} (h : s.Canonical) : (s.parkDrafts n ps).Canonical := h

theorem State.Canonical.saveInboxes {s : State} {n} (h : s.Canonical) : (s.saveInboxes n).Canonical := h

theorem State.Canonical.leaveSilicon {s : State} {j ps} (h : s.Canonical) : (s.leaveSilicon j ps).Canonical :=
  (h.saveInboxes.parkDrafts.foldl fun _ _ h' => h'.modPil fun x _ => x.scrub_canonical.frame).modJob.settleJobs

theorem State.Canonical.savePillar {s : State} {n p} (h : s.Canonical) : (s.savePillar n p).Canonical := by
  unfold State.savePillar
  extract_lets area s1 x c s2 saved saved'
  have h1 : s1.Canonical := h.modPil fun _ hx => hx.stopLoads
  have h2 : s2.Canonical := h1.writeContext
  clear_value s2
  exact .modPil h2.frame fun _ hx => .count (.count hx)

theorem execPillarSave_keeps {p} {s : State} : Keeps s (execPillarSave p s) := by
  unfold execPillarSave
  split
  · exact .next id
  · split
    · exact .next id
    · dsimp only
      split
      · exact .next id
      · split
        · exact .next fun h => h.savePillar.leaveSilicon
        · exact .next fun h => h.savePillar

theorem State.Canonical.requeueParked {s : State} {n} (h : s.Canonical) : (s.requeueParked n).Canonical := by
  unfold State.requeueParked
  extract_lets back s1
  have h1 : s1.Canonical := h
  refine h1.foldl fun t w ht => ?_
  split
  · exact .ite ht.modQueue ht
  · exact ht

theorem State.Canonical.unparkDrafts {s : State} {n} (h : s.Canonical) :
    Gives (·.Canonical) (s.unparkDrafts n) :=
  .andThen fun _ => .ok (h.foldl fun _ _ h' => h'.modDraft).requeueParked

theorem State.Canonical.restartJob {s : State} {j ps} (h : s.Canonical) : (s.restartJob j ps).Canonical := by
  unfold State.restartJob
  split
  · exact (State.Canonical.getD h.holdOff h).modJob
  · next s1 e =>
      exact ((h.unparkDrafts e).foldl fun _ _ h' => h'.modPil fun _ hx => hx.restart).modJob.flush

theorem State.Canonical.retryRestart {s : State} {job} (h : s.Canonical) : (s.retryRestart job).Canonical := by
  unfold State.retryRestart
  split
  · split
    · exact h.restartJob
    · exact h
  · exact h

theorem execPillarRestore_keeps {p} {s : State} : Keeps s (execPillarRestore p s) := by
  unfold execPillarRestore
  split
  · exact .next id
  · split
    · extract_lets y x s1 ps
      have h1 : s.Canonical → s1.Canonical := fun h =>
        State.Canonical.modPil h fun x _ => .count (x.withContext_canonical h.reload)
      clear_value s1
      exact .ite (.next id) (.ite (.next fun h => (h1 h).restartJob) (.next h1))
    · exact .next id

theorem State.Canonical.copyVault {s : State} {src tgt} (h : s.Canonical) : (s.copyVault src tgt).Canonical :=
  .modPil (h.withMem (Memory.wf_splice _ _ _ h.1 h.1) (h.2.1.clear.foldl fun _ _ hm => hm.insert)) fun _ hx => hx

theorem State.Canonical.moveNames {s : State} {src tgt} (h : s.Canonical) : (s.moveNames src tgt).Canonical :=
  h

theorem Pillar.Canonical.moveLinks {x : Pillar} {src tgt} (hx : x.Canonical) :
    (x.moveLinks src tgt).Canonical :=
  hx

theorem State.Canonical.restartPillar {s : State} {p} (h : s.Canonical) : (s.restartPillar p).Canonical := by
  unfold State.restartPillar
  dsimp only
  split
  · exact (h.modPil fun _ hx => hx.restart).beginPreempt
  · exact h.modPil fun _ hx => hx.restart

theorem State.Canonical.switchTo {s : State} {src tgt} (h : s.Canonical) : (s.switchTo src tgt).Canonical := by
  unfold State.switchTo
  extract_lets s1 s2 s3 x place s4 s5
  have h3 : s3.Canonical := h.leaveLoom.copyVault.moveNames
  clear_value s3
  have hx : x.Canonical := h3.pil.moveLinks
  have h4 : s4.Canonical := h3.modPil fun y _ => (y.withContext_canonical hx).frame
  clear_value s4
  exact h4.restartPillar.modPil fun x _ => x.scrub_canonical.frame

theorem State.Canonical.releaseHeld {s : State} {ps} (h : s.Canonical) : (s.releaseHeld ps).Canonical :=
  h.foldl fun _ _ h' => h'.modPil fun _ hx => Pillar.Canonical.ite hx hx

theorem State.Canonical.endMigrate {s : State} {f code} (h : s.Canonical) : (s.endMigrate f code).Canonical :=
  h.setGw.modSt

theorem State.Canonical.releaseTarget {s : State} {tgt} (h : s.Canonical) : (s.releaseTarget tgt).Canonical :=
  h.modPil fun _ hx => Pillar.Canonical.ite hx hx

theorem State.Canonical.finishMigrate {s : State} {f src} (h : s.Canonical) :
    (s.finishMigrate f src).Canonical := by
  unfold State.finishMigrate
  extract_lets v members tgt s1 s2 s3 s4
  have h1 : s1.Canonical := h.modPil fun _ hx => hx.stopLoads
  have h2 : s2.Canonical := .ite h1 h1.releaseTarget
  have h4 : s4.Canonical := h1.modStack.modPil fun _ hx => hx
  clear_value s1 s2 s4
  exact .ite h2.endMigrate (.ite h1.restartPillar.releaseHeld.endMigrate (.ite h4.restartPillar.releaseHeld.endMigrate
    (.ite h1.switchTo.releaseHeld.endMigrate h1.restartPillar.releaseHeld.endMigrate)))

theorem execMigrate_keeps {f} {s : State} : Keeps s (execMigrate f s) := by
  unfold execMigrate
  refine .finishAt fun h => .andThen fun _ => .andThen fun _ => .andThen fun _ => ?_
  exact .ite (.ite (.ok h.endMigrate) (.ok (.endMigrate (.modPil h fun x _ => x.scrub_canonical.frame))))
    (.ite (.ok h.endMigrate) (.ite (.ok h.endMigrate) (.ite (.ok h.endMigrate)
      (.ok (.modSt (.beginPreempt (.ite h (h.modPil fun _ hx => hx))))))))

/-! ## What keeps canonical form: integrity -/

theorem execFlitCrcResend_keeps {p port} {s : State} : Keeps s (execFlitCrcResend p port s) := by
  unfold execFlitCrcResend
  split
  · exact .next id
  · extract_lets k x last now run s1
    have h1 : s.Canonical → s1.Canonical := fun h => h.modPil fun _ hx => hx
    clear_value s1
    exact .ite (.next fun h => (h1 h).haltStack) (.next h1)

theorem State.Canonical.linksOff {s : State} {p request response} (h : s.Canonical) :
    (s.linksOff p request response).Canonical :=
  h.modPil fun _ hx => hx

theorem Pillar.Canonical.lsError {x : Pillar} {a} (hx : x.Canonical) : (x.lsError a).Canonical := by
  obtain ⟨hb, hm, he⟩ := hx.ls
  exact .ite (hx.withLs ⟨hb, hm.insert, he⟩) hx

theorem Pillar.Canonical.slotError {x : Pillar} {n} (hx : x.Canonical) : (x.slotError n).Canonical :=
  .ite (hx.modMtx fun _ ⟨h1, h2, h3, h4⟩ => ⟨h1, h2.putRange, h3, h4⟩) hx

theorem Pillar.Canonical.tileError {x : Pillar} {n} (hx : x.Canonical) : (x.tileError n).Canonical :=
  .ite (hx.modMtx fun _ ⟨h1, h2, h3, h4⟩ => ⟨h1, h2, h3, h4.putRange⟩) hx

theorem State.Canonical.unitError {s : State} {pa} (h : s.Canonical) : (s.unitError pa).Canonical := by
  have h1 : ∀ c, (if c = true then { s with memBad := s.memBad.insert (pa / 32) } else s).Canonical :=
    fun _ => .ite (h.withMem h.1 h.2.1.insert) h
  unfold State.unitError
  split
  · exact h1 _
  · exact h1 _
  · exact h

theorem State.Canonical.unhold {s : State} {w} (h : s.Canonical) : (s.unhold w).Canonical := h

theorem State.Canonical.startHeld {s : State} {w} (h : s.Canonical) : (s.startHeld w).Canonical := by
  unfold State.startHeld
  split
  · exact h.startCommand
  · exact h

theorem State.Canonical.sendMatched {s : State} {l r} (h : s.Canonical) : (s.sendMatched l r).Canonical :=
  .foldl h fun _ _ h' => .logProc h'

theorem State.Canonical.noteMatched {s : State} {w} (h : s.Canonical) : (s.noteMatched w).Canonical := by
  unfold State.noteMatched
  dsimp only
  split
  · split
    · split
      · exact h.noteEgress
      · exact h
    · exact h
  · split
    · split
      · exact h
      · split
        · exact h.noteEgress
        · exact h
    · exact h

theorem Pillar.Canonical.joinParked {x : Pillar} {w number} (hx : x.Canonical) :
    (x.joinParked w number).Canonical := by
  unfold Pillar.joinParked
  dsimp only
  split
  · exact hx.modFibre
  · exact hx

theorem State.Canonical.pairGoesOn {s : State} {l r} (h : s.Canonical) : (s.pairGoesOn l r).Canonical := by
  unfold State.pairGoesOn
  extract_lets s1 integ s2 s3 s4
  have h1 : s1.Canonical := h.unhold.unhold.sendMatched
  clear_value s1
  have h2 : s2.Canonical := h1
  clear_value s2
  have h3 : s3.Canonical := .modPil h2.noteMatched fun _ hx => hx.joinParked
  clear_value s3
  have h4 : s4.Canonical := h3.startHeld.startHeld
  clear_value s4
  split
  · exact h4.modOutbox.modOutbox
  · exact h4

theorem State.Canonical.endAccess {s : State} {w value} (h : s.Canonical) :
    (s.endAccess w value).Canonical := by
  unfold State.endAccess
  extract_lets done
  have hd : ∀ i fin, (∀ u o v, u.Canonical → (fin u o v : State).Canonical) → (done s i fin).Canonical := by
    intro i fin hf
    unfold done
    split
    · cases value
      · exact hf _ _ _ h
      · exact hf _ _ _ h.freeValue
    · exact h
  clear_value done
  split
  · split
    · exact hd _ _ fun _ _ _ hu => hu.modPil fun _ hx => hx.wake
    · exact h
  · exact hd _ _ fun _ _ _ hu => hu.focus.returnData.focus
  · exact h

theorem State.Canonical.cutDispatched {s : State} {w} (h : s.Canonical) : (s.cutDispatched w).Canonical := by
  unfold State.cutDispatched
  extract_lets dropped s1 s2 s3
  have h1 : s1.Canonical := h
  have h2 : s2.Canonical := h1.foldl fun _ _ h => h.modPil fun _ hx => hx.endProc.modStrand
  have h3 : s3.Canonical := by
    unfold s3
    split
    · exact h2.dropOutbox.modPil fun _ hx => hx.endProc
    · exact h2
  refine h3.modPil fun x hx => .modMtx (.foldl ?_ fun _ _ hx => hx.settleFetch) fun _ hm => hm
  split
  · exact .ite hx.stopStream hx
  · exact hx

theorem State.Canonical.cutWorm {s : State} {w} (h : s.Canonical) : (s.cutWorm w).Canonical := by
  unfold State.cutWorm
  dsimp only
  split
  · exact h.unhold.cutDispatched
  · refine h.unhold.endAccess.modPil fun x hx => ?_
    split
    · exact .modCmd hx
    · exact hx

theorem Pillar.Canonical.unmatch {x : Pillar} {w} (hx : x.Canonical) : (x.unmatch w).Canonical :=
  hx.modMtx fun _ hm => hm

theorem State.Canonical.discardWorm {s : State} {w} (h : s.Canonical) : (s.discardWorm w).Canonical := by
  unfold State.discardWorm
  dsimp only
  split
  · split
    · exact (h.unhold.modPil fun _ hx => hx.unmatch).freeValue.frame.dropOutbox.endProcOk
    · exact (h.unhold.modPil fun _ hx => hx.unmatch).freeValue.frame
  · split
    · exact (h.unhold.modPil fun _ hx => hx.unmatch).modWork
    · exact (h.unhold.modPil fun _ hx => hx.unmatch).endAccess

theorem State.Canonical.failTwin {s : State} {p t w lvl tval} (h : s.Canonical) :
    (s.failTwin p t w lvl tval).Canonical := by
  unfold State.failTwin
  refine ((State.Canonical.foldl ?_ fun _ _ h' => h'.discardWorm).modPil fun _ hx => hx.raiseLate).frame
  split
  · exact h.cutWorm
  · exact h

theorem State.Canonical.pairFails {s : State} {w other} (h : s.Canonical) : (s.pairFails w other).Canonical :=
  h.failTwin.failTwin.frame.raiseVector

theorem execDwHashArrive_keeps {p t} {s : State} : Keeps s (execDwHashArrive p t s) := by
  unfold execDwHashArrive
  split
  · exact .next id
  · split
    · exact .next fun h => State.Canonical.ite h.pairGoesOn h.pairFails
    · exact .next id

theorem execDwTimeout_keeps {p t} {s : State} : Keeps s (execDwTimeout p t s) := by
  unfold execDwTimeout
  split
  · exact .next fun h => h.pairFails
  · exact .next id

theorem Pillar.containReset_canonical (x : Pillar) : x.containReset.Canonical := x.scrub_canonical.frame

theorem State.Canonical.finishCopy {fuel} {s : State} {r} (h : s.Canonical) :
    (State.finishCopy fuel s r).Canonical := by
  induction fuel generalizing s r with
  | zero => exact h
  | succ fuel ih =>
    unfold State.finishCopy
    extract_lets s1
    have h1 : s1.Canonical := h.copyStep
    clear_value s1
    split
    · exact .ite h1 (ih h1)
    · exact h1

theorem State.Canonical.completeProc {s : State} {r} (h : s.Canonical) : (s.completeProc r).Canonical := by
  unfold State.completeProc
  split
  · exact h.finishCopy
  · exact h.performWhole

theorem State.Canonical.fencedAnswer {s : State} {r} (h : s.Canonical) : (s.fencedAnswer r).Canonical := by
  unfold State.fencedAnswer
  split
  · exact h.completeProc
  · split <;> exact h.setPhase

theorem State.Canonical.finishProcs {s : State} {ps} (h : s.Canonical) : (s.finishProcs ps).Canonical :=
  ((h.foldl fun _ _ h' => h'.fencedAnswer).foldl fun _ _ h' => h'.completeProc).frame

theorem State.Canonical.refuseInbound {s : State} {ps} (h : s.Canonical) : (s.refuseInbound ps).Canonical :=
  h.foldl fun _ _ h' => h'.foldl fun _ _ h' => h'.messageFailed

theorem State.Canonical.dropShuttleWork {s : State} {n ps} (h : s.Canonical) :
    (s.dropShuttleWork n ps).Canonical :=
  h

theorem State.Canonical.releaseTails {s : State} {ps} (h : s.Canonical) : (s.releaseTails ps).Canonical := by
  unfold State.releaseTails
  refine h.foldl fun s1 a h' => ?_
  split
  · split
    · exact h'.releaseTail
    · exact h'
  · exact h'

theorem State.Canonical.clearJob {s : State} {j r} (h : s.Canonical) : (s.clearJob j r).Canonical :=
  (h.foldl fun _ _ h' => h'.releaseTarget).finishProcs.refuseInbound.dropShuttleWork.releaseTails.frame.foldl
    fun _ _ h' => h'.modPil fun x _ => x.containReset_canonical

theorem Pillar.Canonical.unfence {x : Pillar} (hx : x.Canonical) : x.unfence.Canonical := by
  unfold Pillar.unfence
  split <;> exact hx

theorem State.Canonical.contain {s : State} {j r} (h : s.Canonical) : (s.contain j r).Canonical :=
  h.clearJob.frame.killJob.settleJobs

theorem State.Canonical.reap {s : State} {n} (h : s.Canonical) : (s.reap n).Canonical := by
  unfold State.reap
  split
  · split
    · exact ((State.Canonical.ite h h.clearJob).foldl fun _ _ h' => h'.modPil fun _ hx => hx.unfence).settleJobs
    · exact h.settleJobs
  · exact h

theorem execContainGo_keeps {p} {s : State} : Keeps s (execContainGo p s) := by
  unfold execContainGo
  split
  · split
    · exact .next fun h => h.contain
    · exact .next fun h => h.contain
    · exact .next id
  · exact .next id

theorem execContainmentDone_keeps {p} {s : State} : Keeps s (execContainmentDone p s) := by
  unfold execContainmentDone
  split
  · exact .next id
  · exact .ite (.next id) (.next fun h => h.mapPillars rfl fun _ he => he.unfence)

theorem execTestStripStart_keeps {p} {s : State} : Keeps s (execTestStripStart p s) := by
  unfold execTestStripStart
  split
  · exact .next id
  · exact .next fun h => .frame (.modPil h fun _ hx => hx)

theorem execStripIntervalDue_keeps {p} {s : State} : Keeps s (execStripIntervalDue p s) := by
  unfold execStripIntervalDue
  split
  · exact .next id
  · split
    · exact .next fun h => .requestPreempt (.modPil h fun _ hx => hx)
    · exact .next id

theorem State.Canonical.advanceStrip {s : State} {row} (h : s.Canonical) : (s.advanceStrip row).Canonical := by
  unfold State.advanceStrip
  dsimp only
  split <;> exact h

theorem State.Canonical.postFailures {fuel} {s : State} (h : s.Canonical) :
    (State.postFailures fuel s).Canonical := by
  induction fuel generalizing s with
  | zero => exact h
  | succ fuel ih =>
    unfold State.postFailures
    extract_lets b
    split
    · exact h
    · exact .ite h (ih (.raiseVector h))

theorem State.Canonical.postFailure {s : State} {r} (h : s.Canonical) : (s.postFailure r).Canonical :=
  .postFailures h

theorem State.Canonical.tellChain {s : State} {p} (h : s.Canonical) : (s.tellChain p).Canonical := by
  unfold State.tellChain
  dsimp only
  split
  · exact h.modPil fun _ hx => hx
  · exact h

theorem State.Canonical.stripFailed {s : State} {p start pattern unit} (h : s.Canonical) :
    (s.stripFailed p start pattern unit).Canonical := by
  unfold State.stripFailed
  extract_lets r held s1 integ s2 s3
  have h1 : s1.Canonical := h.modPil fun _ hx => hx
  clear_value s1
  have h2 : s2.Canonical := h1
  have h3 : s3.Canonical := h2.tellChain.postFailure
  clear_value s2 s3
  refine .ite h3.haltStack (.ite ?_ h3)
  split
  · split
    · exact h3.contain
    · exact h3
  · exact h3

theorem execTestStripEnd_keeps {p r} {s : State} : Keeps s (execTestStripEnd p r s) := by
  unfold execTestStripEnd
  split
  · exact .next id
  · extract_lets now s1 integ s2
    have h1 : s.Canonical → s1.Canonical := fun h => h.modPil fun _ hx => hx
    clear_value s1
    have h2 : s.Canonical → s2.Canonical := h1
    clear_value s2
    refine .ite (.next id) ?_
    split
    · exact .next fun h => .advanceStrip (.frame (.modPil (h2 h) fun _ hx => hx))
    · exact .next fun h => (h2 h).stripFailed

theorem execFrheadWrite_keeps {v} {s : State} : Keeps s (execFrheadWrite v s) := .next fun h => .postFailures h

theorem State.Canonical.takeStripInterrupt {s : State} {p t} (h : s.Canonical) :
    (s.takeStripInterrupt p t).Canonical := by
  unfold State.takeStripInterrupt
  split
  · exact .takeTrap (.modMe h.focus.leaveWait fun _ hx => hx)
  · exact h

/-! ## What keeps canonical form: the host and the pod -/

theorem execAperbaseWrite_keeps {v} {s : State} : Keeps s (execAperbaseWrite v s) := by
  unfold execAperbaseWrite
  split <;> exact .next id

theorem State.Canonical.noteOutside {s : State} {pa} (h : s.Canonical) : (s.noteOutside pa).Canonical := by
  unfold State.noteOutside
  split
  · exact h.useRow.modPil fun _ hx => hx.count
  · exact h

theorem State.Canonical.performOutside {s : State} {pa a} (h : s.Canonical) :
    (s.performOutside pa a).1.Canonical := by
  unfold State.performOutside
  dsimp only
  split
  · exact h.noteOutside
  · exact h.noteOutside.physWrite
  · split
    · split
      · exact h.noteOutside
      · exact h.noteOutside.performMem
    · exact h.noteOutside

theorem State.Canonical.post {s : State} {k} (h : s.Canonical) : (s.post k).Canonical := h

theorem execApertureAccess_keeps {off a} {s : State} : Keeps s (execApertureAccess off a s) := by
  unfold execApertureAccess
  dsimp only
  split
  · exact .next fun h => h.post
  · split
    · exact .next fun h => h.answer
    · split
      · exact .next fun h => h.noteDirect.performOutside.answer
      · exact .next fun h => h.post
      · exact .next fun h => h.noteDirect.answer

theorem State.Canonical.bar0 {s : State} {off a} (h : s.Canonical) : (s.bar0 off a).Canonical := by
  unfold State.bar0
  split
  · exact h.answer
  · split
    · exact h.answer
    · exact h.devWrite.answer
    · exact h.answer

theorem execHostSendWrite_keeps {y v} {s : State} : Keeps s (execHostSendWrite y v s) := by
  unfold execHostSendWrite
  dsimp only
  split
  · exact .next id
  · exact .next fun h => h.setHq.frame

theorem State.Canonical.modPeer {s : State} {peer f} (h : s.Canonical) : (s.modPeer peer f).Canonical := h

theorem State.Canonical.respond {s : State} {peer a} (h : s.Canonical) : (s.respond peer a).Canonical :=
  h.modPeer

theorem State.Canonical.performInbound {s t : State} {peer off a r} (h : s.Canonical)
    (ht : s.performInbound peer off a = some (t, r)) : t.Canonical := by
  unfold State.performInbound at ht
  split at ht
  · cases ht
    exact h
  · split at ht
    · exact h.noteDirect.performOutside.of_fst (Option.some.inj ht)
    · cases ht
    · cases ht
      exact h

theorem State.Canonical.peerRequest {s : State} {peer} (h : s.Canonical) : (s.peerRequest peer).Canonical := by
  unfold State.peerRequest
  extract_lets e
  split
  · split
    · split
      · next e1 => exact (h.performInbound e1).modPeer.respond
      · exact h
    · exact h
  · exact h

theorem execUalinkInboundRequest_keeps {peer off a} {s : State} :
    Keeps s (execUalinkInboundRequest peer off a s) := by
  unfold execUalinkInboundRequest
  split
  · exact .next fun h => h.answer
  · exact .next fun h => h.modPeer.peerRequest

theorem State.Canonical.peerTakes {s : State} {peer} (h : s.Canonical) : (s.peerTakes peer).Canonical := by
  unfold State.peerTakes
  split
  · split
    · exact h.modPeer.answer
    · exact h
  · exact h

theorem execPeerUpWrite_keeps {peer} {s : State} : Keeps s (execPeerUpWrite peer s) := .next fun h => h.modPeer

theorem State.Canonical.setLink {s : State} {port on} (h : s.Canonical) : (s.setLink port on).Canonical := h

theorem execUalinkLinkTrained_keeps {port} {s : State} : Keeps s (execUalinkLinkTrained port s) :=
  .next fun h => h.setLink

theorem State.Canonical.loseAccess {s : State} {p t va} (h : s.Canonical) : (s.loseAccess p t va).Canonical :=
  h.focus.takeTrap.focus

theorem Pillar.Canonical.loseParked {x : Pillar} {j} (hx : x.Canonical) : (x.loseParked j).Canonical := by
  unfold Pillar.loseParked
  split
  · exact hx.wake
  · exact hx.wake
  · exact hx

theorem State.Canonical.losePeer {s : State} {peer why} (h : s.Canonical) : (s.losePeer peer why).Canonical :=
  (((((h.modPeer.foldl fun _ _ h' => h'.answer).dropEntries.foldl fun _ _ h' => h'.setPhase).foldl fun _ _ h' =>
    h'.modPil fun _ hx => hx.loseParked).foldl fun _ _ h' => h'.modPil fun _ hx => hx.loseParked).foldl
    fun _ _ h' => h'.loseAccess).countStack.raiseVector

theorem execPeerGoneEvent_keeps {peer why} {s : State} : Keeps s (execPeerGoneEvent peer why s) := by
  unfold execPeerGoneEvent
  split
  · exact .next fun h => h.losePeer
  · exact .next id

theorem execPeerTimeout_keeps {peer} {s : State} : Keeps s (execPeerTimeout peer s) := by
  unfold execPeerTimeout
  split
  · exact .next fun h => h.losePeer
  · exact .next id

theorem State.Canonical.measure {s : State} {r image} (h : s.Canonical) : (s.measure r image).Canonical := h

theorem State.Canonical.measureAny {s : State} {r image} (h : s.Canonical) :
    (s.measureAny r image).Canonical := by
  unfold State.measureAny
  split
  · exact h
  · exact h.measure

theorem execHostImageSubmit_keeps {role image} {s : State} : Keeps s (execHostImageSubmit role image s) := by
  unfold execHostImageSubmit
  split
  · exact .next fun h => h.measure
  · exact .next id

theorem execAttgoWrite_keeps {v} {s : State} : Keeps s (execAttgoWrite v s) := by
  unfold execAttgoWrite
  split <;> exact .next id

theorem Pillar.Canonical.bringUp {x : Pillar} {p cfg firmware} (hx : x.Canonical) :
    (x.bringUp p cfg firmware).Canonical :=
  .foldl hx fun _ _ hx' => .writeRpmap hx'

theorem execPowerOn_keeps {cfg} {s : State} : Keeps s (execPowerOn cfg s) :=
  .next fun h => ((h.measure.measureAny.measureAny.measureAny.foldl fun _ _ h => h.modPil fun _ hx =>
    hx.bringUp).foldl fun _ _ h => h.modStack).frame

theorem State.Canonical.startFunction {s : State} {fn} (h : s.Canonical) : (s.startFunction fn).Canonical := by
  unfold State.startFunction
  split
  · exact h.modStack
  · exact h
  · exact .modPil h.frame fun _ hx => hx
  · exact h

theorem execFunctionReady_keeps {fn} {s : State} : Keeps s (execFunctionReady fn s) := by
  unfold execFunctionReady
  split
  · exact .next id
  · refine .next fun h => State.Canonical.raiseVector ?_
    split
    · exact h.startFunction.frame
    · exact h.startFunction

theorem Pillar.stackReset_canonical (x : Pillar) : x.stackReset.Canonical := x.containReset_canonical.frame

theorem execStackReset_keeps {stack} {s : State} : Keeps s (execStackReset stack s) := by
  unfold execStackReset
  dsimp only
  split
  · exact .next id
  · exact .next fun h => (h.foldl fun _ _ h => h.modPil fun x _ => x.stackReset_canonical).modStack.frame

theorem State.Canonical.setClock {s : State} {n steps} (h : s.Canonical) : (s.setClock n steps).Canonical :=
  h.modStack

theorem execThermalStep_keeps {stack temp} {s : State} : Keeps s (execThermalStep stack temp s) := by
  unfold execThermalStep
  dsimp only
  split
  · exact .next fun h => State.Canonical.ite h.modStack h.modStack.setClock
  · exact .next fun h => State.Canonical.ite h.modStack.setClock.raiseVector h.modStack.setClock.raiseVector.haltStack

theorem execOvertempStackHalt_keeps {stack} {s : State} : Keeps s (execOvertempStackHalt stack s) :=
  .next fun h => h.freeValue.modStack.haltStack

theorem execPhasePeriodBoundary_keeps {s : State} : Keeps s (execPhasePeriodBoundary s) := .next id

/-! ## What keeps canonical form: scalar instructions -/

theorem scalar2_keeps {i f} {s : State} {op} : Keeps s (scalar2 i f s op) :=
  .finish fun h => .andThen fun _ => .ok h.setG

theorem scalar3_keeps {i f} {s : State} {op} : Keeps s (scalar3 i f s op) :=
  .finish fun h => .andThen fun _ => .ok h.setG

theorem scalar1_keeps {i f} {s : State} {op} : Keeps s (scalar1 i f s op) :=
  .finish fun h => .andThen fun _ => .ok h.setG

theorem scalarImm_keeps {i f} {s : State} {op} : Keeps s (scalarImm i f s op) :=
  .finish fun h => .andThen fun _ => .ok h.setG

theorem scalarConst_keeps {i f} {s : State} {v} : Keeps s (scalarConst i f s v) :=
  .finish fun h => .andThen fun _ => .ok h.setGw

theorem branch_keeps {i f} {s : State} {taken} : Keeps s (branch i f s taken) := by
  unfold branch
  refine .finishAt fun h => .andThen fun a => .andThen fun b => ?_
  split
  · exact .ok h.setPc.issueAfter
  · exact .ok h.setPc

theorem divide_keeps {i f} {s : State} {op} : Keeps s (divide i f s op) :=
  .finish fun h => .andThen fun _ => .andThen fun _ => .ok (.issueAfter (.modMe (.setG h) fun _ hx => hx))

theorem callTrap_keeps {i f} {s : State} {cause} : Keeps s (callTrap i f s cause) := .finish fun _ => .error

theorem execJal_keeps {f} {s : State} : Keeps s (execJal f s) :=
  .finishAt fun h => .andThen fun _ => .ok h.setGw.setPc.issueAfter

theorem execJr_keeps {f} {s : State} : Keeps s (execJr f s) :=
  .finishAt fun h => .andThen fun _ => .andThen fun _ => .ok h.setGw.setPc.issueAfter

theorem execBfi_keeps {f} {s : State} : Keeps s (execBfi f s) := .finish fun h => .andThen fun _ => .ok h.setG

/-! ## What keeps canonical form: instructions that run again -/

/-- An instruction that runs again keeps canonical states, as its meaning does; an event never runs again. -/
theorem retry_keeps {i} {s : State} : Keeps s (retry i s) := by
  cases i
  all_goals unfold retry
  case add | sub | and | or | xor | andn | shl | shr | sar | slt | sltn | min | max | mul | mulh | mulhn =>
    exact scalar2_keeps
  case mov | clz | ctz | popc | bswap | brev => exact scalar1_keeps
  case sel | selz | madd | fshl | fshr => exact scalar3_keeps
  case addi | andi | ori | xori | shli | shri | sari | slti | bfx | bfxn => exact scalarImm_keeps
  case li | lpc => exact scalarConst_keeps
  case ldI8 | ldI16 | ldI32 | ldI64 | ldN8 | ldN16 | ldN32 | stI8 | stI16 | stI32 | stI64 | lda | amo | cas =>
    exact scalarAccess_keeps
  case jal => exact execJal_keeps
  case jr => exact execJr_keeps
  case svc | brk => exact callTrap_keeps
  case beq | bne | blt | bge | bltn | bgen => exact branch_keeps
  case div | divn | rem | remn => exact divide_keeps
  case bfi => exact execBfi_keeps
  case lldI8 | lldI16 | lldI32 | lldI64 | lldN8 | lldN16 | lldN32 => exact localLoad_keeps
  case lstI8 | lstI16 | lstI32 | lstI64 => exact localStore_keeps
  case lldf | llde => exact fullLoad_keeps
  case lstf => exact execLstf_keeps
  case feset | feclr => exact setRange_keeps
  case stl => exact execStl_keeps
  case scld | scst | scamo => exact announceSc_keeps
  case fence => exact execFence_keeps
  case cfetch => exact execCfetch_keeps
  case cwait => exact execCwait_keeps
  case jmpf => exact execJmpf_keeps
  case tlook => exact execTlook_keeps
  case tfill => exact execTfill_keeps
  case tevict => exact execTevict_keeps
  case tinval => exact execTinval_keeps
  case vadd | vsub | vmul | vdiv | vmin | vmax | vfma | vfms | vabs | vneg | vsqrt | vand | vor | vxor |
    vandn | vshl | vshr | vsar | vcmp | vsel | vmov | vbcast | vins | kand | kor | knot | kmovk | vcvt |
    vquant | vdequant | vexp2 | vlog2 | vrcp | vrsqrt | vred | vperm | vshuf | vrot | vcompress | vexpand |
    vdot => exact vecIssue_keeps
  case vext | kmovg | kpopc | vbscale => exact vecIssueG_keeps
  case vld | vst => exact vecIssueMem_keeps
  case vgather | vscatter => exact vecIssueGather_keeps
  case rowact | rowclose | rowshort | rowkeep => exact rowIssue_keeps
  case shld => exact execShld_keeps
  case shst => exact execShst_keeps
  case shset => exact execShset_keeps
  case tld | tldt | tldc | tldtc => exact tileLoadIssue_keeps
  case bcopy | bcopyt | bcopyc | bcopyx => exact copyIssue_keeps
  case spoolcfg => exact execSpoolcfg_keeps
  case await => exact execAwait_keeps
  case release => exact execRelease_keeps
  case mma | mmabs => exact mmaIssue_keeps
  case mmv => exact execMmv_keeps
  case mzero => exact execMzero_keeps
  case mld => exact execMld_keeps
  case mst => exact execMst_keeps
  case mcommit => exact execMcommit_keeps
  case mwait => exact execMwait_keeps
  case sldv => exact execSldv_keeps
  case sstv => exact execSstv_keeps
  case loomjoin => exact execLoomjoin_keeps
  case loomgo => exact execLoomgo_keeps
  case loomsplit => exact execLoomsplit_keeps
  case drain => exact execDrain_keeps
  case psplita | psplitb => exact psplitIssue_keeps
  case pmma => exact execPmma_keeps
  case pjoin => exact execPjoin_keeps
  case pstat => exact execPstat_keeps
  case draft => exact execDraft_keeps
  case draftrel => exact execDraftrel_keeps
  case pick => exact checkPick_keeps
  case drwait => exact execDrwait_keeps
  case drstat => exact execDrstat_keeps
  case dfetch | devict | dpin | dunpin => exact directCommand_keeps
  case send => exact execSend_keeps
  case recv | recvp => exact receive_keeps
  case rld | rst | ramo | rcas | rdecw | rwadd | rwrd | rfadd => exact remoteForm_keeps
  case rfill => exact execRfill_keeps
  case rcopy => exact execRcopy_keeps
  case rsig => exact execRsig_keeps
  case rwait => exact execRwait_keeps
  case frun => exact execFrun_keeps
  case fstop => exact execFstop_keeps
  case fork => exact execFork_keeps
  case join => exact execJoin_keeps
  case fyield => exact execFyield_keeps
  case fexit => exact execFexit_keeps
  case launch => exact execLaunch_keeps
  case handoff => exact execHandoff_keeps
  case exit => exact execExit_keeps
  case sysrd => exact execSysrd_keeps
  case syswr => exact execSyswr_keeps
  case tret => exact execTret_keeps
  case halt => exact execHalt_keeps
  case waiti => exact execWaiti_keeps
  case tlbinv | tlbinva | tlbinvp => exact invalidate_keeps
  case ringrd => exact execRingrd_keeps
  case preempt => exact execPreempt_keeps
  case migrate => exact execMigrate_keeps
  all_goals exact .next id

/-! ## What keeps canonical form: events -/

theorem execIssuePromotion_keeps {p t} {s : State} : Keeps s (execIssuePromotion p t s) := by
  unfold execIssuePromotion
  split
  · exact .next fun h => h.modStrand
  · exact .next id

theorem execEngineAccept_keeps {p e} {s : State} : Keeps s (execEngineAccept p e s) := by
  unfold execEngineAccept
  split
  · exact .next id
  · split
    · exact .next fun h => State.Canonical.ite h h.acceptVector
    · exact .next fun h => h.acceptMatrix
    · exact .next fun h => h.acceptTile
    · exact .next fun h => h.acceptMessage

theorem execDividerFree_keeps {p} {s : State} : Keeps s (execDividerFree p s) :=
  .next fun h => h.modPil fun _ hx => hx

theorem execStoreBufferDrain_keeps {p t} {s : State} : Keeps s (execStoreBufferDrain p t s) :=
  .next fun h => h.drainStore

theorem State.Canonical.endRemote {s : State} {i o r} (h : s.Canonical) : (s.endRemote i o r).Canonical := by
  unfold State.endRemote
  split
  · exact h.returnData
  · exact h.takeTrap

theorem State.Canonical.returnRemote {s : State} {p t i pa va x y} (h : s.Canonical) :
    (s.returnRemote p t i pa va x y).Canonical := by
  unfold State.returnRemote
  split
  · exact h
  · dsimp only
    split
    · exact h.focus.foldl fun _ _ h' => h'.focus.endRemote
    · exact h.focus
    · exact h.focus.performRemote.foldl fun _ _ h' => h'.focus.endRemote

theorem execLoadDataReturn_keeps {p t} {s : State} : Keeps s (execLoadDataReturn p t s) := by
  unfold execLoadDataReturn
  split
  · exact .next id
  · split
    · exact .next fun h => h.modStrand
    · exact .next fun h => h.returnRemote
    · exact .next id

theorem resume_keeps {i} {s : State} : Keeps s (resume i s) := by
  unfold resume
  split
  · exact checkPick_keeps
  · exact resumeJoin_keeps
  · exact retry_keeps

theorem State.Canonical.dropSample {s : State} (h : s.Canonical) : s.dropSample.Canonical := h.modSt

theorem execBlockedWaitEnd_keeps {p t} {s : State} : Keeps s (execBlockedWaitEnd p t s) := by
  unfold execBlockedWaitEnd
  dsimp only
  split
  · exact .next id
  · split
    · exact .mapNext (.of resume_keeps fun h => h.focus.modSt) (fun _ h => h.dropSample)
    · exact .next fun h => h.focus.resumeLaunch
    · exact .next fun h => h.focus.endPinned
    · split
      · exact .next fun h => h.focus.invalidated
      · exact .next id
    · split
      · exact .next fun h => h.focus.finishMigrate
      · exact .next id
    · exact .next id

theorem State.Canonical.scAccess {s : State} {i o pa va x} (h : s.Canonical) :
    Gives (·.Canonical) (s.scAccess i o pa va x) := by
  unfold State.scAccess
  exact .andThen fun pa' => .bind h.noteForward.performAt fun s' hr => .ok hr.count

theorem execScAccessStart_keeps {p t} {s : State} : Keeps s (execScAccessStart p t s) := by
  unfold execScAccessStart
  refine .ite (.next id) ?_
  split
  · split
    · exact .of (.finishAt fun h => h.scAccess) fun h => h.focus.modSt
    · exact .next id
  · exact .next id

theorem execPageWalk_keeps {p va kind} {s : State} : Keeps s (execPageWalk p va kind s) := by
  unfold execPageWalk
  dsimp only
  split
  · exact .next id
  · split
    · split
      · exact .next fun h => h.noteXlate
      · exact .next id
    · exact .next id

theorem State.Canonical.completeAts {s : State} {asid c bits} (h : s.Canonical) :
    (s.completeAts asid c bits).Canonical := by
  unfold State.completeAts
  dsimp only
  split <;> exact h

theorem execAtsTranslationCompletion_keeps {asid c} {s : State} :
    Keeps s (execAtsTranslationCompletion asid c s) := by
  unfold execAtsTranslationCompletion
  split
  · split
    · exact .next fun h => h.completeAts
    · exact .next id
  · exact .next id

theorem State.Canonical.settleInvalidates {s : State} (h : s.Canonical) : s.settleInvalidates.Canonical := h

theorem execAtsInvalidateRequest_keeps {asid va size} {s : State} :
    Keeps s (execAtsInvalidateRequest asid va size s) :=
  .next fun h => h.dropEntries.frame.settleInvalidates

theorem Pillar.Canonical.answerFibre {id ok} {x : Pillar} (hx : x.Canonical) :
    (x.answerFibre id ok).Canonical := by
  unfold Pillar.answerFibre
  split
  · exact hx.wake
  · exact hx

theorem Pillar.Canonical.answer {id ok} {x : Pillar} (hx : x.Canonical) : (x.answer id ok).Canonical :=
  .answerFibre hx

theorem State.Canonical.answerContexts {s : State} {id ok} (h : s.Canonical) :
    (s.answerContexts id ok).Canonical :=
  h.mapPillars rfl fun _ he => Pillar.Canonical.answer he

theorem State.Canonical.answerShuttle {s : State} {id ok write w} (h : s.Canonical) :
    (s.answerShuttle id ok write w).Canonical := by
  unfold State.answerShuttle
  dsimp only
  split
  · split
    · split <;> exact h
    · split
      · exact h.modWork
      · exact h.failWork
  · split <;> exact h

theorem State.Canonical.answerGrowth {s : State} {id ok st n} (h : s.Canonical) :
    (s.answerGrowth id ok st n).Canonical := by
  unfold State.answerGrowth
  split
  · split
    · exact h
    · split
      · exact h.setGrowth.stepGrowth
      · exact h.failGrowth.keepGrowth
  · exact h

theorem State.Canonical.answerImage {s : State} {n ok} (h : s.Canonical) : (s.answerImage n ok).Canonical := by
  unfold State.answerImage
  dsimp only
  split
  · exact h.modJob
  · split
    · split
      · exact h.modJob.imageFailed
      · exact h.modJob
    · exact h.modJob

theorem State.Canonical.answerStatus {s : State} {n ok} (h : s.Canonical) : (s.answerStatus n ok).Canonical :=
  (State.Canonical.ite h.modJob h.modJob.countLaunch).flush

theorem State.Canonical.answerHost {s : State} {id ok} (h : s.Canonical) : (s.answerHost id ok).Canonical :=
  h.foldl fun _ _ h' => State.Canonical.ite h'.modOutbox h'.messageFailed

theorem State.Canonical.answerRequester {s : State} {r ok} (h : s.Canonical) :
    (s.answerRequester r ok).Canonical := by
  unfold State.answerRequester
  split
  · exact h.answerContexts
  · exact h.answerContexts
  · exact h.answerShuttle
  · exact h.answerGrowth
  · exact h.answerImage
  · exact h.setLq
  · exact h.setLq
  · exact h.answerStatus
  · exact h.answerHost

theorem execPageRequestResponse_keeps {req r} {s : State} : Keeps s (execPageRequestResponse req r s) := by
  unfold execPageRequestResponse
  split
  · exact .next id
  · exact .next fun h => .answerRequester (.dropEntries h)

theorem State.Canonical.enablePri {s : State} (h : s.Canonical) : s.enablePri.Canonical := h

/-! ## What keeps canonical form: the meaning of every instruction -/

/-- The meaning of every instruction and of every event keeps canonical states. -/
theorem exec_keeps {i} {s : State} : Keeps s (exec i s) := by
  have instr : exec i s = retry i s → Keeps s (exec i s) := fun e => e ▸ retry_keeps
  cases i
  case lqtailWrite => exact execLqtailWrite_keeps
  case jobAdmit => exact execJobAdmit_keeps
  case jobPlace => exact execJobPlace_keeps
  case backfillAgeLimit => exact execBackfillAgeLimit_keeps
  case imageLoaded => exact execImageLoaded_keeps
  case pillarScrubDone => exact execPillarScrubDone_keeps
  case issuePromotion => exact execIssuePromotion_keeps
  case engineAccept => exact execEngineAccept_keeps
  case vectorComplete => exact execVectorComplete_keeps
  case storeBufferDrain => exact execStoreBufferDrain_keeps
  case loadDataReturn => exact execLoadDataReturn_keeps
  case blockedWaitEnd => exact execBlockedWaitEnd_keeps
  case segmentLand => exact execSegmentLand_keeps
  case tagFillComplete => exact execTagFillComplete_keeps
  case tevictWritebackDone => exact execTevictWritebackDone_keeps
  case runnerLoadFibre => exact execRunnerLoadFibre_keeps
  case fibreWake => exact execFibreWake_keeps
  case stealRound => exact execStealRound_keeps
  case stealBackoffExpiry => exact execStealBackoffExpiry_keeps
  case pageRequestResponse => exact execPageRequestResponse_keeps
  case rowActivationDone => exact execRowActivationDone_keeps
  case tileBeatArrive => exact execTileBeatArrive_keeps
  case tileLoadFill => exact execTileLoadFill_keeps
  case throttleTrap => exact execThrottleTrap_keeps
  case refreshWindowStart => exact execRefreshWindowStart_keeps
  case refreshWindowEnd => exact execRefreshWindowEnd_keeps
  case refreshEpochStart => exact execRefreshEpochStart_keeps
  case vthermChange => exact execVthermChange_keeps
  case retentionDeadline => exact execRetentionDeadline_keeps
  case copyComplete => exact execCopyComplete_keeps
  case matrixComplete => exact execMatrixComplete_keeps
  case loomStepStart => exact execLoomStepStart_keeps
  case drainWritesDone => exact execDrainWritesDone_keeps
  case draftEntryTrigger => exact execDraftEntryTrigger_keeps
  case shuttleBlockMove => exact execShuttleBlockMove_keeps
  case draftEntryComplete => exact execDraftEntryComplete_keeps
  case ovfRetry => exact execOvfRetry_keeps
  case ovfDrop => exact execOvfDrop_keeps
  case directCommandComplete => exact execDirectCommandComplete_keeps
  case flitCrcResend => exact execFlitCrcResend_keeps
  case messageHeadArrive => exact execMessageHeadArrive_keeps
  case messageResend => exact execMessageResend_keeps
  case messageDeliver => exact execMessageDeliver_keeps
  case agentProcedure => exact execAgentProcedure_keeps
  case procedureResponse => exact execProcedureResponse_keeps
  case routerCombine => exact execRouterCombine_keeps
  case scAccessStart => exact execScAccessStart_keeps
  case pageWalk => exact execPageWalk_keeps
  case atsTranslationCompletion => exact execAtsTranslationCompletion_keeps
  case atsInvalidateRequest => exact execAtsInvalidateRequest_keeps
  case peerGoneEvent => exact execPeerGoneEvent_keeps
  case peerTimeout => exact execPeerTimeout_keeps
  case lateFaultDelivery => exact execLateFaultDelivery_keeps
  case signalInterrupt => exact execSignalInterrupt_keeps
  case forwardedTrapInterrupt => exact execForwardedTrapInterrupt_keeps
  case trapMessageArrive => exact execTrapMessageArrive_keeps
  case trapMessageTimeout => exact execTrapMessageTimeout_keeps
  case preemptRequestArrive => exact execPreemptRequestArrive_keeps
  case preemptionPointStop => exact execPreemptionPointStop_keeps
  case preemptAgeLimit => exact execPreemptAgeLimit_keeps
  case pillarSave => exact execPillarSave_keeps
  case pillarRestore => exact execPillarRestore_keeps
  case dwHashArrive => exact execDwHashArrive_keeps
  case dwTimeout => exact execDwTimeout_keeps
  case containGo => exact execContainGo_keeps
  case containmentDone => exact execContainmentDone_keeps
  case testStripStart => exact execTestStripStart_keeps
  case stripIntervalDue => exact execStripIntervalDue_keeps
  case testStripEnd => exact execTestStripEnd_keeps
  case frheadWrite => exact execFrheadWrite_keeps
  case preemptreqWrite => exact execPreemptreqWrite_keeps
  case aperbaseWrite => exact execAperbaseWrite_keeps
  case apertureAccess => exact execApertureAccess_keeps
  case hostSendWrite => exact execHostSendWrite_keeps
  case ualinkInboundRequest => exact execUalinkInboundRequest_keeps
  case peerUpWrite => exact execPeerUpWrite_keeps
  case powerOn => exact execPowerOn_keeps
  case functionReady => exact execFunctionReady_keeps
  case stackReset => exact execStackReset_keeps
  case attgoWrite => exact execAttgoWrite_keeps
  case thermalStep => exact execThermalStep_keeps
  case phasePeriodBoundary => exact execPhasePeriodBoundary_keeps
  case xbWrite | tagcfgWrite | stealWrite | calendarWrite | rpmapWrite | chainWrite | saveoffWrite =>
    exact writeEvent_keeps
  case rowprogAbandon => exact execRowprogAbandon_keeps
  case fmtWrite => exact execFmtWrite_keeps
  case statusWrite => exact execStatusWrite_keeps
  case registerWrite => exact execRegisterWrite_keeps
  case illegalInstruction => exact execIllegalInstruction_keeps
  case dividerFree => exact execDividerFree_keeps
  case cutTailFlitArrive => exact execCutTailFlitArrive_keeps
  case ualinkLinkTrained => exact execUalinkLinkTrained_keeps
  case overtempStackHalt => exact execOvertempStackHalt_keeps
  case hostImageSubmit => exact execHostImageSubmit_keeps
  all_goals exact instr rfl

/-! ## What keeps canonical form: the schedule -/

theorem State.runFetched_keeps {s : State} : Keeps s s.runFetched := by
  unfold State.runFetched
  split
  · exact exec_keeps
  · exact execIllegalInstruction_keeps
  · split
    · exact .next fun h => h.takeTrap
    · exact .next id

theorem State.runBoundary_keeps {s : State} {p t} : Keeps s (s.runBoundary p t) := by
  unfold State.runBoundary
  split
  · exact execLateFaultDelivery_keeps
  · split
    · exact .next fun h => h.takeStripInterrupt
    · split
      · exact execForwardedTrapInterrupt_keeps
      · split
        · exact execSignalInterrupt_keeps
        · exact execPreemptionPointStop_keeps

theorem State.Canonical.noteIssue {p t pri w} {s : State} (h : s.Canonical) :
    (s.noteIssue p t pri w).Canonical :=
  h.modPil fun _ hx => hx

theorem State.issueOne_keeps {s : State} {p t} : Keeps s (s.issueOne p t) :=
  .mapNext (.of State.runFetched_keeps fun h => h.focus) (fun _ h => h.noteIssue)

theorem State.issueTurn_keeps {s : State} {p t} : Keeps s (s.issueTurn p t) := by
  unfold State.issueTurn
  split
  · exact State.runBoundary_keeps
  · split
    · exact State.issueOne_keeps
    · exact .next id

theorem State.issueSlot_keeps {s : State} {p} : Keeps s (s.issueSlot p) := by
  unfold State.issueSlot
  dsimp only
  split
  · exact .next id
  · exact .of State.issueOne_keeps fun h => h.foldl fun _ _ h => h.modStrand

theorem runStrand_keeps {p t w} {s : State} : Keeps s (runStrand p t w s) := by
  unfold runStrand
  split
  · split
    · exact State.runBoundary_keeps
    · exact .next id
  · exact execIssuePromotion_keeps
  · exact execStoreBufferDrain_keeps
  · exact .next fun h => h.endFence
  · exact execLoadDataReturn_keeps
  · exact execBlockedWaitEnd_keeps
  · exact vectorWork_keeps
  · exact execDrainWritesDone_keeps
  · exact execScAccessStart_keeps
  · exact execRunnerLoadFibre_keeps
  · exact execStealBackoffExpiry_keeps
  · exact execStealRound_keeps
  · exact execDwHashArrive_keeps
  · exact execDwTimeout_keeps

theorem runPillar_keeps {p w} {s : State} : Keeps s (runPillar p w s) := by
  unfold runPillar
  dsimp only
  split
  · split
    · split
      · exact execDividerFree_keeps
      · exact .next id
    · exact .next id
  · split
    · exact execRowActivationDone_keeps
    · exact .next fun h => h.modPil fun _ hx => hx.retryRows
  · split
    · split
      · exact execTileBeatArrive_keeps
      · exact .next id
    · exact .next id
  · split
    · exact execTileLoadFill_keeps
    · exact .next id
  · exact execThrottleTrap_keeps
  · split
    · exact execCopyComplete_keeps
    · exact .next id
  · exact execTevictWritebackDone_keeps
  · split
    · exact execMatrixComplete_keeps
    · exact .next id
  · split
    · exact execMatrixComplete_keeps
    · exact .next id
  · exact execLoomStepStart_keeps
  · exact execDraftEntryTrigger_keeps
  · exact execAgentProcedure_keeps
  · exact execTrapMessageTimeout_keeps
  · exact execPreemptRequestArrive_keeps
  · exact execPreemptAgeLimit_keeps
  · exact execPillarSave_keeps
  · exact execPillarRestore_keeps
  · exact execPillarScrubDone_keeps
  · exact execContainmentDone_keeps
  · exact execTestStripStart_keeps
  · exact execStripIntervalDue_keeps
  · exact .mapNext (execTestStripEnd_keeps) (fun _ h => h)

theorem runPart_keeps {p w n} {s : State} : Keeps s (runPart p w n s) := by
  unfold runPart
  split
  · exact execSegmentLand_keeps
  · exact execTagFillComplete_keeps
  · exact execFibreWake_keeps
  · exact execRefreshWindowStart_keeps
  · exact execRefreshWindowEnd_keeps
  · exact execRetentionDeadline_keeps
  · exact execDraftEntryComplete_keeps
  · exact execDirectCommandComplete_keeps
  · exact execMessageHeadArrive_keeps
  · exact execMessageResend_keeps
  · exact execMessageDeliver_keeps
  · exact execCutTailFlitArrive_keeps

theorem runPackage_keeps {w} {s : State} : Keeps s (runPackage w s) := by
  unfold runPackage
  split
  · exact execJobAdmit_keeps
  · exact execJobPlace_keeps
  · exact execImageLoaded_keeps
  · exact execBackfillAgeLimit_keeps
  · exact .next fun h => h.flush
  · exact execRefreshEpochStart_keeps
  · exact execTrapMessageArrive_keeps
  · exact .of execPeerTimeout_keeps fun h => h.sendQueued
  · exact .next fun h => h.settleInvalidates
  · exact .next fun h => h.retryRestart
  · exact .next fun h => h.stepGrowth
  · exact .next id
  · exact .next fun h => h.peerRequest

theorem State.Canonical.runOutside {w} {s : State} (h : s.Canonical) : (runOutside w s).Canonical := by
  unfold Machine.runOutside
  split
  · exact h.enablePri
  · exact h.modPil fun _ hx => hx.lsError
  · exact h.modPil fun _ hx => hx.slotError
  · exact h.modPil fun _ hx => hx.tileError
  · exact h.unitError
  · exact h.linksOff
  · exact h.bar0
  · next off a =>
    obtain ⟨u, e, hu⟩ := execApertureAccess_keeps (off := off) (a := a) (s := s)
    rw [e]
    exact hu h
  · exact h.peerTakes
  · exact h.setLink

theorem Task.perform_keeps {k : Task} {s : State} : Keeps s (k.perform s) := by
  unfold Task.perform
  split
  · split
    · exact exec_keeps
    · exact .next id
  · exact State.issueTurn_keeps
  · exact State.issueSlot_keeps
  · exact execEngineAccept_keeps
  · exact runStrand_keeps
  · exact runPillar_keeps
  · exact runPart_keeps
  · exact execProcedureResponse_keeps
  · exact execShuttleBlockMove_keeps
  · exact runPackage_keeps
  · exact .next fun h => h.runOutside

theorem State.runPosted_keeps {s : State} : Keeps s s.runPosted := by
  unfold State.runPosted
  split
  · exact .next id
  · exact .mapNext (.of Task.perform_keeps fun h => h) (fun _ h => h)

theorem Task.run_keeps {k : Task} {s : State} : Keeps s (k.run s) := by
  unfold Task.run
  split
  · exact State.runPosted_keeps
  · split
    · exact .next fun h => h.post
    · exact Task.perform_keeps

theorem DevEffect.run_keeps {e : DevEffect} {s : State} : Keeps s (e.run s) := by
  unfold DevEffect.run
  split
  · exact execLqtailWrite_keeps
  · exact execPreemptreqWrite_keeps
  · exact execHostSendWrite_keeps
  · exact execOvfDrop_keeps
  · exact execOvfRetry_keeps
  · exact execContainGo_keeps
  · exact execFrheadWrite_keeps
  · exact execPeerUpWrite_keeps
  · exact execAttgoWrite_keeps
  · exact execAperbaseWrite_keeps
  · exact .next fun h => h.reap

theorem State.Canonical.countPillar {s : State} {p} {x : Pillar} (hx : x.Canonical) :
    (s.countPillar p x).Canonical :=
  hx.count.count.count.count.count.count.count.count.count.count.count.count.count

theorem State.Canonical.expireRows {s : State} (h : s.Canonical) : s.expireRows.Canonical :=
  h.foldl fun _ _ h' => h'.foldl fun _ _ h' => h'.expireRow

theorem State.Canonical.nextClk {s : State} (h : s.Canonical) : s.nextClk.Canonical := by
  unfold State.nextClk
  extract_lets ticks count runs running full s1 s2
  have h1 : s1.Canonical := h.mapPillars rfl fun _ he => .ite (State.Canonical.countPillar he) he
  clear_value s1
  have h2 : s2.Canonical := .ite h1 h1.countLaunch
  exact .expireRows (h2.foldl fun _ _ h => h.countStack)

theorem State.Canonical.newClk {s : State} (h : s.Canonical) : s.newClk.Canonical := h.nextClk.frame

/-! ## What keeps canonical form: the step -/

theorem step_keeps {s : State} : Keeps s (step s) := by
  unfold step
  split
  · exact .of DevEffect.run_keeps fun h => h
  · split
    · exact .of Task.run_keeps fun h => h
    · exact .next fun h => h.newClk

/-! ## The obligations -/

/-- Settles O57: every function that a step calls keeps canonical form, and so does the step. -/
theorem stepKeepsCanonicalForm : Obligations.StepKeepsCanonicalForm := by
  intro s t hs e
  obtain ⟨u, hu, hc⟩ := step_keeps (s := s)
  cases hu.symm.trans e
  exact hc hs

/-- A run begins with its first step. -/
theorem run_succ_of_next {M : Host.Core} {k : Nat} {s t : M.State} (e : M.step s = .next t) :
    M.run (k + 1) s = M.run k t := by
  rw [Host.Core.run, e]

/-- A run of any length goes on, as every step does. -/
theorem safeRun (k : Nat) (s : State) : SafeRun k s := by
  induction k generalizing s with
  | zero => exact ⟨s, rfl⟩
  | succ k ih =>
    obtain ⟨t, e, -⟩ := step_keeps (s := s)
    obtain ⟨u, hu⟩ := ih t
    exact ⟨u, (run_succ_of_next (M := Sys2Proof.core) e).trans hu⟩

/-- Settles O56: no meaning of an instruction or event, and no part of the schedule, gives anything but a next state. -/
theorem stepGoesOn : Obligations.StepGoesOn :=
  ⟨fun _ => step_keeps.imp fun _ h => h.1, safeRun⟩

end Sys2Proof.Machine
end

section
/-! PROOFS. What the scalar instructions and the local-store forms leave as it was. -/

set_option Elab.async false

namespace Sys2Proof.Machine

/-! ## Leaving all else as it was (R10, R99) -/

/-- Between two states nothing changes but one general register of the current strand, its PC and its next issue. -/
def OneRegister (s : State) (d : Nat) (t : State) : Prop :=
  SameElsewhere s t ∧ SameBytes s t ∧ SameButReg s.st t.st d ∧ SameButStrand s.me t.me s.curT

/-- The same, but for the divider of the pillar. -/
def OneRegisterAndDivider (s : State) (d : Nat) (t : State) : Prop :=
  SameElsewhere s t ∧ SameBytes s t ∧ SameButReg s.st t.st d ∧
    SameButStrand s.me { t.me with divider := s.me.divider } s.curT

/-- What an instruction that sets the PC itself leaves, by what its effect gives. -/
theorem leaves_finishAt {i : Instr} {s : State} {r : Act State} {P : State → Prop} (e : exec i s = finishAt i s r)
    (h : Gives P r) : Leaves i s P := fun _ ht =>
  (finishAt_cases (e.symm.trans ht)).elim (fun hr => .inr (h hr)) fun ⟨a, _, ha⟩ => .inl ⟨a, ha⟩

/-- What an instruction with the PC after it leaves, by what its effect gives. -/
theorem leaves_finish {i : Instr} {s : State} {r : Act State} {P : State → Prop} (e : exec i s = finish i s r)
    (h : Gives (fun u => P (s.past i u)) r) : Leaves i s P :=
  leaves_finishAt e (h.map fun _ hu => hu)

theorem sameElsewhere_me {s t : State} (h : SameElsewhere s t) : t.me = t.pil s.curP :=
  congrArg t.pil (sameElsewhere_curP h)

theorem sameElsewhere_st {s t : State} (h : SameElsewhere s t) : t.st = t.me.strand s.curT :=
  congrArg t.me.strand (sameElsewhere_curT h)

/-- If nothing changes elsewhere, the bytes of the current pillar decide. -/
theorem sameBytesButLocal_of_me {s t : State} {a n : Nat} (h : SameElsewhere s t)
    (hb : ∀ x, x < a ∨ a + n ≤ x → t.me.ls.bytes.get x = s.me.ls.bytes.get x) : SameBytesButLocal s t a n := by
  refine ⟨fun p x hx => ?_, fun x => by rw [sameElsewhere_mem h]⟩
  by_cases hp : p = s.curP
  · rw [hp, ← sameElsewhere_me h]
    exact hb x (hx.resolve_left (absurd hp))
  · rw [h.2 p hp]

theorem sameBytes_of_me {s t : State} (h : SameElsewhere s t) (hb : t.me.ls.bytes = s.me.ls.bytes) : SameBytes s t := by
  obtain ⟨hl, hm⟩ := sameBytesButLocal_of_me (a := 0) (n := 0) h fun x _ => by rw [hb]
  exact ⟨fun p a => hl p a (.inr (.inr a.zero_le)), hm⟩

/-- The frame of a register's new value and a jump (R123, R124). -/
theorem oneRegister_jump (s : State) (d : Nat) (v : PWord) (pc : LsAddr) (n : Nat) :
    OneRegister s d (((s.setG d v).setPc pc).issueAfter n) := by
  simp only [State.setG, State.setPc, State.issueAfter, State.modSt_modSt]
  exact frame_modSt (sameButReg_move (sameButReg_setReg s.st d v) pc _)

/-- The frame of a branch that is taken (R122). -/
theorem oneRegister_branch (s : State) (pc : LsAddr) (n : Nat) : OneRegister s 0 ((s.setPc pc).issueAfter n) := by
  simp only [State.setPc, State.issueAfter, State.modSt_modSt]
  exact frame_modSt (sameButReg_move (sameButReg_refl s.st 0) pc _)

/-- The frame of a register's new value with the divider held (R117). -/
theorem oneRegisterAndDivider_modSt {s : State} {f g : Strand → Strand} {v : Option StrandId} {d : Nat}
    (h : SameButReg s.st (g (f s.st)) d) :
    OneRegisterAndDivider s d (((s.modSt f).modMe fun x => { x with divider := v }).modSt g) := by
  have he : SameElsewhere s (((s.modSt f).modMe fun x => { x with divider := v }).modSt g) :=
    sameElsewhere_trans (sameElsewhere_trans (sameElsewhere_modSt s f) (sameElsewhere_modMe _ _)) (sameElsewhere_modSt _ g)
  have hme : (((s.modSt f).modMe fun x => { x with divider := v }).modSt g).me =
      { (s.me.modStrand s.curT f).modStrand s.curT g with divider := v } := by
    rw [State.me_modSt, State.me_modMe, State.me_modSt]
    rfl
  refine ⟨he, sameBytes_of_me he (by rw [hme]; rfl), ?_, ?_⟩
  · rw [sameElsewhere_st he, hme]
    show SameButReg s.st (((s.me.modStrand s.curT f).modStrand s.curT g).strand s.curT) d
    rw [Pillar.strand_modStrand, Pillar.strand_modStrand]
    exact h
  · rw [hme]
    show SameButStrand s.me ((s.me.modStrand s.curT f).modStrand s.curT g) s.curT
    rw [Pillar.modStrand_modStrand]
    exact sameButStrand_modStrand s.me s.curT _

/-! ## The shapes of the scalar instructions -/

/-- An instruction whose effect is one register's new value (R99, R102). -/
theorem leaves_write {i : Instr} {s : State} {d : Nat} {v : PWord}
    (e : exec i s = finish i s (s.destOk d >>= fun _ => .ok (s.setG d v))) : Leaves i s (OneRegister s d) :=
  leaves_finish e (.andThen fun _ => .ok (frame_setG s i d v))

theorem leaves_branch {i : Instr} {f : Fields} {s : State} {taken : Word → Word → Bool}
    (e : exec i s = branch i f s taken) : Leaves i s (OneRegister s 0) :=
  leaves_finishAt e (.andThen fun _ => .andThen fun _ =>
    .ite (.ok (oneRegister_branch s _ 3)) (.ok (frame_past s i 0)))

theorem leaves_divide {i : Instr} {f : Fields} {s : State} {op : Word → Word → Word} (e : exec i s = divide i f s op) :
    Leaves i s (OneRegisterAndDivider s f.dNum) := by
  refine leaves_finish e (.andThen fun _ => .andThen fun _ => .ok ?_)
  simp only [State.past, State.setPc, State.issueAfter, State.setG, State.modSt_modSt]
  exact oneRegisterAndDivider_modSt (sameButReg_move (sameButReg_setReg s.st _ _) (s.nextPc i) _)

theorem leaves_jal {f : Fields} {s : State} : Leaves (.jal f) s (OneRegister s f.dNum) :=
  leaves_finishAt (exec_jal f s) (.andThen fun _ => .ok (oneRegister_jump s _ _ _ 3))

theorem leaves_jr {f : Fields} {s : State} : Leaves (.jr f) s (OneRegister s f.dNum) :=
  leaves_finishAt (exec_jr f s) (.andThen fun _ => .andThen fun _ => .ok (oneRegister_jump s _ _ _ 3))

/-! ## Which instruction has which shape -/

theorem exec_twoSource : ∀ e ∈ Claims.twoSource, ∃ op, ∀ f s, exec (e.1 f) s = scalar2 (e.1 f) f s op := by
  simp only [Claims.twoSource, List.forall_mem_cons, List.not_mem_nil, false_imp_iff, implies_true, and_true]
  exact ⟨⟨_, exec_add⟩, ⟨_, exec_sub⟩, ⟨_, exec_and⟩, ⟨_, exec_or⟩, ⟨_, exec_xor⟩, ⟨_, exec_andn⟩,
    ⟨_, exec_shl⟩, ⟨_, exec_shr⟩, ⟨_, exec_sar⟩, ⟨_, exec_slt⟩, ⟨_, exec_sltn⟩, ⟨_, exec_min⟩,
    ⟨_, exec_max⟩, ⟨_, exec_mul⟩, ⟨_, exec_mulh⟩, ⟨_, exec_mulhn⟩⟩

theorem exec_threeSource : ∀ e ∈ Claims.threeSource, ∃ op, ∀ f s, exec (e.1 f) s = scalar3 (e.1 f) f s op := by
  simp only [Claims.threeSource, List.forall_mem_cons, List.not_mem_nil, false_imp_iff, implies_true, and_true]
  exact ⟨⟨_, exec_sel⟩, ⟨_, exec_selz⟩, ⟨_, exec_madd⟩, ⟨_, exec_fshl⟩, ⟨_, exec_fshr⟩⟩

theorem exec_oneSource : ∀ e ∈ Claims.oneSource, ∃ op, ∀ f s, exec (e.1 f) s = scalar1 (e.1 f) f s op := by
  simp only [Claims.oneSource, List.forall_mem_cons, List.not_mem_nil, false_imp_iff, implies_true, and_true]
  exact ⟨⟨_, exec_mov⟩, ⟨_, exec_clz⟩, ⟨_, exec_ctz⟩, ⟨_, exec_popc⟩, ⟨_, exec_bswap⟩, ⟨_, exec_brev⟩⟩

theorem exec_immediate : ∀ e ∈ Claims.immediate, ∃ op : Fields → Word → Word, ∀ f s,
    exec (e.1 f) s = scalarImm (e.1 f) f s (op f) := by
  simp only [Claims.immediate, List.forall_mem_cons, List.not_mem_nil, false_imp_iff, implies_true, and_true]
  exact ⟨⟨_, exec_addi⟩, ⟨_, exec_andi⟩, ⟨_, exec_ori⟩, ⟨_, exec_xori⟩, ⟨_, exec_shli⟩, ⟨_, exec_shri⟩,
    ⟨_, exec_sari⟩, ⟨_, exec_slti⟩, ⟨_, exec_bfxn⟩, ⟨_, exec_bfx⟩⟩

theorem exec_divisions : ∀ e ∈ Claims.divisions, ∃ op, ∀ f s, exec (e.1 f) s = divide (e.1 f) f s op := by
  simp only [Claims.divisions, List.forall_mem_cons, List.not_mem_nil, false_imp_iff, implies_true, and_true]
  exact ⟨⟨_, exec_div⟩, ⟨_, exec_rem⟩, ⟨_, exec_divn⟩, ⟨_, exec_remn⟩⟩

theorem exec_branches : ∀ e ∈ Claims.branches, ∃ taken, ∀ f s, exec (e.1 f) s = branch (e.1 f) f s taken := by
  simp only [Claims.branches, List.forall_mem_cons, List.not_mem_nil, false_imp_iff, implies_true, and_true]
  exact ⟨⟨_, exec_beq⟩, ⟨_, exec_bne⟩, ⟨_, exec_blt⟩, ⟨_, exec_bge⟩, ⟨_, exec_bltn⟩, ⟨_, exec_bgen⟩⟩

/-- The loads of page 2 have one shape (R135). -/
theorem exec_localLoads : ∀ e ∈ Claims.localLoads, ∀ f s, exec (e.1 f) s = localLoad (e.1 f) f e.2.1 e.2.2 s := by
  simp only [Claims.localLoads, List.forall_mem_cons, List.not_mem_nil, false_imp_iff, implies_true, and_true]
  exact ⟨exec_lldI8, exec_lldI16, exec_lldI32, exec_lldI64, exec_lldN8, exec_lldN16, exec_lldN32⟩

/-- The stores of page 2 have one shape (R135). -/
theorem exec_localStores : ∀ e ∈ Claims.localStores, ∀ f s, exec (e.1 f) s = localStore (e.1 f) f e.2 s := by
  simp only [Claims.localStores, List.forall_mem_cons, List.not_mem_nil, false_imp_iff, implies_true, and_true]
  exact ⟨exec_lstI8, exec_lstI16, exec_lstI32, exec_lstI64⟩

/-! ## The frame of the scalar instructions -/

theorem leaves_scalarWriters : ∀ mk ∈ Claims.scalarWriters, ∀ f s, Leaves (mk f) s (OneRegister s f.dNum) := by
  simp only [Claims.scalarWriters, List.forall_mem_append, List.forall_mem_map, List.forall_mem_cons, List.not_mem_nil,
    false_imp_iff, implies_true, and_true]
  refine ⟨⟨⟨⟨fun e he f s => ?two, fun e he f s => ?three⟩, fun e he f s => ?one⟩, fun e he f s => ?imm⟩,
    fun f s => ?bfi, fun f s => ?li, fun f s => ?lpc, fun _ _ => leaves_jal, fun _ _ => leaves_jr⟩
  case two =>
    obtain ⟨op, h⟩ := exec_twoSource e he
    exact leaves_write (h f s)
  case three =>
    obtain ⟨op, h⟩ := exec_threeSource e he
    exact leaves_write (h f s)
  case one =>
    obtain ⟨op, h⟩ := exec_oneSource e he
    exact leaves_write (h f s)
  case imm =>
    obtain ⟨op, h⟩ := exec_immediate e he
    exact leaves_write (h f s)
  case bfi => exact leaves_write (exec_bfi f s)
  case li => exact leaves_write (exec_li f s)
  case lpc => exact leaves_write (exec_lpc f s)

theorem scalarFrame : Claims.scalarFrame := by
  refine ⟨leaves_scalarWriters, fun e he f s => ?_, fun e he f s => ?_⟩
  · obtain ⟨op, h⟩ := exec_divisions e he
    exact leaves_divide (h f s)
  · obtain ⟨taken, h⟩ := exec_branches e he
    exact leaves_branch (h f s)

/-! ## The frame of the local-store forms -/

theorem leaves_localLoad {i : Instr} {f : Fields} {n : Nat} {signed : Bool} {s : State}
    (e : exec i s = localLoad i f n signed s) : Leaves i s (OneRegister s f.dNum) :=
  leaves_finish e (.andThen fun _ => .andThen fun _ => .andThen fun _ => .andThen fun _ => .ok (frame_setG s i f.dNum _))

/-- A store changes n bytes of the current pillar's local store, their marks and the dirty marks of the tag table. -/
def OnlyStores (s : State) (ea n : Nat) (t : State) : Prop :=
  SameElsewhere s t ∧ SameButReg s.st t.st 0 ∧ SameBytesButLocal s t ea n ∧
    SameButStrand s.me
      { t.me with
        tags := { t.me.tags with slots := s.me.tags.slots }
        ls := { t.me.ls with bytes := s.me.ls.bytes, bad := s.me.ls.bad } } s.curT

theorem onlyStores_lsWrite (s : State) (i : Instr) (ea n v : Nat) (bad : Bool) :
    OnlyStores s ea n (s.past i (s.modMe fun x => x.lsWrite ea n v bad)) := by
  have he : SameElsewhere s (s.past i (s.modMe fun x => x.lsWrite ea n v bad)) :=
    sameElsewhere_trans (sameElsewhere_modMe s _) (sameElsewhere_modSt _ _)
  have hme : (s.past i (s.modMe fun x => x.lsWrite ea n v bad)).me =
      (s.me.lsWrite ea n v bad).modStrand s.curT fun r => { r with pc := s.nextPc i } := by
    rw [State.past, State.setPc, State.me_modSt, State.me_modMe]
    rfl
  refine ⟨he, ?_, sameBytesButLocal_of_me he fun x hx => ?_, ?_⟩
  · have hst : (s.past i (s.modMe fun x => x.lsWrite ea n v bad)).st = { s.st with pc := s.nextPc i } := by
      rw [sameElsewhere_st he, hme, Pillar.strand_modStrand]
      rfl
    rw [hst]
    exact sameButReg_move (sameButReg_refl s.st 0) (s.nextPc i) _
  · rw [hme]
    exact Memory.get_write_other _ v hx
  · rw [hme]
    exact sameButStrand_modStrand s.me s.curT fun r => { r with pc := s.nextPc i }

/-- A store that neither traps nor waits has computed its address. -/
theorem leaves_localStore {i : Instr} {f : Fields} {n : Nat} {s : State} (e : exec i s = localStore i f n s) :
    Leaves i s fun t => ∃ ea, s.mAddr f = .ok ea ∧ OnlyStores s ea.toNat n t :=
  leaves_finish e (.bind (Q := fun ea => s.mAddr f = .ok ea) (fun _ h => h) fun ea h =>
    .andThen fun _ => .andThen fun _ => .ok ⟨ea, h, onlyStores_lsWrite s i ea.toNat n _ _⟩)

theorem localStoreFrame : Claims.localStoreFrame := by
  refine ⟨fun e he f s => leaves_localLoad (exec_localLoads e he f s), fun e he f s t ht => ?_⟩
  refine (leaves_localStore (exec_localStores e he f s) t ht).imp_right ?_
  rintro ⟨ea, ha, hs, hr, hb, hp⟩
  refine ⟨hs, hr, fun ea' ha' => ?_, hp⟩
  obtain rfl : ea = ea' := Except.ok.inj (ha.symm.trans ha')
  exact hb

/-- Settles O9: each instruction ends with one update of the state, whose frame is read off. -/
theorem scalarAndLocalStoreFrames : Obligations.ScalarAndLocalStoreFrames := ⟨scalarFrame, localStoreFrame⟩

end Sys2Proof.Machine
end

section
/-! PROOFS. What SHLD, SHST and SHSET do to the shape registers. -/

set_option Elab.async false

namespace Sys2Proof.Machine

/-! ## Dwords of a record in local store (R202) -/

/-- A read of two ranges in a row. -/
theorem Memory.read_add (m : Memory) (a k n : Nat) : m.read a (k + n) = m.read a k + 256 ^ k * m.read (a + k) n := by
  induction k generalizing a with
  | zero => simp [Memory.read]
  | succ k ih =>
    rw [Nat.succ_add, Memory.read, Memory.read, ih, Nat.pow_succ, show a + 1 + k = a + (k + 1) by omega]
    ring

/-- A word's mark is the data's after a write of an aligned dword, and every other word keeps its own (R12, R138). -/
theorem NatSet.has_badAfter_dword (m : NatSet) {a : Nat} (ha : a % 8 = 0) (bad : Bool) (x : Nat) :
    (badAfter m 8 a 8 bad).has x = if x = a / 8 then bad else m.has x := by
  have h1 : (a + 8 - 1) / 8 = a / 8 := by omega
  have h2 : (a + 8) / 8 - a / 8 = 1 := by omega
  have e : badAfter m 8 a 8 bad = m.putRange (a / 8) bad 1 := by
    unfold badAfter
    rw [h1, h2, Nat.sub_self, if_neg (by decide)]
    cases bad <;> rfl
  have hx : (a / 8 ≤ x ∧ x < a / 8 + 1) ↔ x = a / 8 := by omega
  rw [e, NatSet.has_putRange, if_congr hx rfl rfl]

/-- The value of a dword of a record. -/
theorem dwordOf_toNat (v : Shape) (k : Nat) : (dwordOf v k).toNat = v.toNat / 2 ^ (64 * k) % 2 ^ 64 := by
  simp [dwordOf, BitVec.toNat_setWidth, BitVec.toNat_ushiftRight, Nat.shiftRight_eq_div_pow]

/-- A record is its four dwords. -/
theorem toNat_eq_dwords (v : Shape) : v.toNat =
    (dwordOf v 0).toNat + 256 ^ 8 * ((dwordOf v 1).toNat + 256 ^ 8 * ((dwordOf v 2).toNat +
      256 ^ 8 * (dwordOf v 3).toNat)) := by
  have h := v.isLt
  simp only [dwordOf_toNat]
  norm_num at h ⊢
  omega

/-! ## Marks of a record -/

/-- The number whose four bits are given has those bits. -/
theorem getLsbD_marks (b : Nat → Bool) {n : Nat} (hn : n < 4) :
    (BitVec.ofNat 4 ((List.range 4).map fun k => boolNat (b k) * 2 ^ k).sum).getLsbD n = b n := by
  have h : ∀ p q r u : Bool, ∀ n : Fin 4,
      (BitVec.ofNat 4 ([boolNat p * 2 ^ 0, boolNat q * 2 ^ 1, boolNat r * 2 ^ 2, boolNat u * 2 ^ 3].sum)).getLsbD n =
        [p, q, r, u][n] := by decide
  refine (h (b 0) (b 1) (b 2) (b 3) ⟨n, hn⟩).trans ?_
  match n, hn with
  | 0, _ | 1, _ | 2, _ | 3, _ => rfl

/-- The marks that SHLD reads are those of the four words (R202). -/
theorem LocalStore.getLsbD_recordBad (l : LocalStore) (a : Nat) {n : Nat} (hn : n < 4) :
    (l.recordBad a).getLsbD n = l.bad.has (a / 8 + n) :=
  getLsbD_marks (fun k => l.bad.has (a / 8 + k)) hn

/-! ## A record stored and loaded again -/

/-- Each dword of a stored record reads back. -/
theorem Pillar.read_storeRecord (x : Pillar) (a : Nat) (v : Shape) (bad : BitVec 4) {k : Nat} (hk : k < 4) :
    (x.storeRecord a v bad).ls.bytes.read (a + 8 * k) 8 = (dwordOf v k).toNat := by
  have hw : ∀ j, (dwordOf v j).toNat % 256 ^ 8 = (dwordOf v j).toNat := fun j => Nat.mod_eq_of_lt (dwordOf v j).isLt
  show ((((x.ls.bytes.write (a + 8 * 0) 8 (dwordOf v 0).toNat).write (a + 8 * 1) 8 (dwordOf v 1).toNat).write
    (a + 8 * 2) 8 (dwordOf v 2).toNat).write (a + 8 * 3) 8 (dwordOf v 3).toNat).read (a + 8 * k) 8 = _
  match k, hk with
  | 3, _ => rw [Memory.read_write, hw]
  | 2, _ => rw [Memory.read_write_other _ _ (by omega), Memory.read_write, hw]
  | 1, _ => rw [Memory.read_write_other _ _ (by omega), Memory.read_write_other _ _ (by omega), Memory.read_write, hw]
  | 0, _ =>
    rw [Memory.read_write_other _ _ (by omega), Memory.read_write_other _ _ (by omega),
      Memory.read_write_other _ _ (by omega), Memory.read_write, hw]

/-- A stored record reads back (R202). -/
theorem Pillar.read_storeRecord_all (x : Pillar) (a : Nat) (v : Shape) (bad : BitVec 4) :
    (x.storeRecord a v bad).ls.bytes.read a 32 = v.toNat := by
  have hr (k : Nat) (hk : k < 4) := x.read_storeRecord a v bad hk
  rw [show 32 = 8 + (8 + (8 + 8)) from rfl, Memory.read_add, Memory.read_add, Memory.read_add, toNat_eq_dwords v,
    ← hr 0 (by decide), ← hr 1 (by decide), ← hr 2 (by decide), ← hr 3 (by decide)]
  rfl

/-- Each word of a stored record has the record's mark (R12). -/
theorem Pillar.has_storeRecord (x : Pillar) {a : Nat} (ha : a % 8 = 0) (v : Shape) (bad : BitVec 4) {k : Nat}
    (hk : k < 4) : (x.storeRecord a v bad).ls.bad.has (a / 8 + k) = bitOf bad.toNat k := by
  have hd : ∀ j, (a + 8 * j) / 8 = a / 8 + j := fun j => by omega
  have hb : ∀ j (m : NatSet) b y, (badAfter m 8 (a + 8 * j) 8 b).has y = if y = a / 8 + j then b else m.has y :=
    fun j m b y => by rw [NatSet.has_badAfter_dword m (by omega), hd]
  show (badAfter (badAfter (badAfter (badAfter x.ls.bad 8 (a + 8 * 0) 8 (bitOf bad.toNat 0)) 8 (a + 8 * 1) 8
    (bitOf bad.toNat 1)) 8 (a + 8 * 2) 8 (bitOf bad.toNat 2)) 8 (a + 8 * 3) 8 (bitOf bad.toNat 3)).has (a / 8 + k) = _
  simp only [hb]
  match k, hk with
  | 0, _ | 1, _ | 2, _ | 3, _ => simp

theorem Pillar.recordBad_storeRecord (x : Pillar) {a : Nat} (ha : a % 8 = 0) (v : Shape) (bad : BitVec 4) :
    (x.storeRecord a v bad).ls.recordBad a = bad := by
  refine BitVec.eq_of_getLsbD_eq fun n hn => ?_
  rw [LocalStore.getLsbD_recordBad _ _ hn, x.has_storeRecord ha v bad hn, bitOf_testBit]
  rfl

/-! ## SHLD and SHST -/

/-- The checks of a local-store form that pass. -/
theorem State.vectorDone_ok {s : State} {ea n : Nat} (h : s.me.vectorBusy s.curT ea n = false) :
    s.vectorDone ea n = .ok () := by
  rw [State.vectorDone, h]
  rfl

theorem runs_shld {f : Fields} {s : State} (hc : s.addrClean f) (hr : s.lsRange (s.effAddr f).toNat 32)
    (hv : s.me.vectorBusy s.curT (s.effAddr f).toNat 32 = false) :
    Runs (.shld f) s (s.past (.shld f) (s.modSt fun t => t.setShape f.dNum
      (BitVec.ofNat 256 (s.me.ls.bytes.read (s.effAddr f).toNat 32)) (s.me.ls.recordBad (s.effAddr f).toNat))) := by
  simp only [Runs, exec_shld, execShld, State.mAddr_clean hc, State.lsCheck_range hr, State.vectorDone_ok hv,
    act_ok_bind, finish_ok]

theorem runs_shst {f : Fields} {s : State} (hc : s.addrClean f) (hr : s.lsRange (s.effAddr f).toNat 32)
    (hv : s.me.vectorBusy s.curT (s.effAddr f).toNat 32 = false) :
    Runs (.shst f) s (s.past (.shst f)
      (s.modMe fun x => x.storeRecord (s.effAddr f).toNat (s.st.shape f.dNum) (s.st.shapeBad f.dNum))) := by
  simp only [Runs, exec_shst, execShst, State.mAddr_clean hc, State.lsCheck_range hr, State.vectorDone_ok hv,
    act_ok_bind, finish_ok]

/-! ## SHSET (R203) -/

/-- A number with the w bits at l replaced. -/
theorem testBit_replaceBits (r v l w n : Nat) :
    (r - r / 2 ^ l % 2 ^ w * 2 ^ l + v % 2 ^ w * 2 ^ l).testBit n =
      if l ≤ n ∧ n < l + w then v.testBit (n - l) else r.testBit n := by
  have hr : r = 2 ^ l * (2 ^ w * (r / 2 ^ l / 2 ^ w) + r / 2 ^ l % 2 ^ w) + r % 2 ^ l := by
    rw [Nat.div_add_mod, Nat.div_add_mod]
  have e : r - r / 2 ^ l % 2 ^ w * 2 ^ l + v % 2 ^ w * 2 ^ l =
      2 ^ l * (2 ^ w * (r / 2 ^ l / 2 ^ w) + v % 2 ^ w) + r % 2 ^ l := by
    conv_lhs => lhs; lhs; rw [hr]
    rw [Nat.mul_add, Nat.mul_add, Nat.mul_comm (r / 2 ^ l % 2 ^ w), Nat.mul_comm (v % 2 ^ w)]
    omega
  have hw : v % 2 ^ w < 2 ^ w := Nat.mod_lt _ (by positivity)
  have hl : r % 2 ^ l < 2 ^ l := Nat.mod_lt _ (by positivity)
  rw [e, Nat.testBit_two_pow_mul_add _ hl]
  by_cases h1 : n < l
  · rw [if_pos h1, if_neg (by omega), Nat.testBit_mod_two_pow]
    simp [h1]
  · rw [if_neg h1, Nat.testBit_two_pow_mul_add _ hw]
    by_cases h2 : n - l < w
    · rw [if_pos h2, if_pos (by omega), Nat.testBit_mod_two_pow]
      simp [h2]
    · rw [if_neg h2, if_neg (by omega), Nat.testBit_div_two_pow, Nat.testBit_div_two_pow]
      congr 1
      omega

/-- The bits of a record after bits l to h were replaced. -/
theorem getLsbD_setShapeBits (r : Shape) (h l v : Nat) {n : Nat} (hn : n < 256) :
    (setShapeBits r h l v).getLsbD n =
      if l ≤ n ∧ n < l + (h + 1 - l) then v.testBit (n - l) else r.getLsbD n := by
  rw [setShapeBits, BitVec.getLsbD_ofNat, bitsOf_eq, testBit_replaceBits, decide_eq_true hn, Bool.true_and]
  rfl

/-- The fields that SHSET replaces: number, lowest bit, length (R203). -/
def shapeFields : List (Nat × Nat × Nat) :=
  [(0, 0, 64), (1, 64, 40), (2, 128, 14), (3, 144, 14), (4, 164, 4), (5, 168, 6), (6, 192, 64)]

/-- SHSET replaces the bits of its field and no other (R203). -/
theorem getLsbD_shapeField (r : Shape) (v : Word) {n : Nat} (hn : n < 256) : ∀ e ∈ shapeFields,
    (shapeField r e.1 v).getLsbD n =
      if e.2.1 ≤ n ∧ n < e.2.1 + e.2.2 then v.getLsbD (n - e.2.1) else r.getLsbD n := by
  simp only [shapeFields, List.forall_mem_cons, List.not_mem_nil, false_imp_iff, implies_true, and_true]
  refine ⟨getLsbD_setShapeBits r 63 0 _ hn, getLsbD_setShapeBits r 103 64 _ hn, getLsbD_setShapeBits r 141 128 _ hn,
    getLsbD_setShapeBits r 157 144 _ hn, getLsbD_setShapeBits r 167 164 _ hn, ?_, getLsbD_setShapeBits r 255 192 _ hn⟩
  show (setShapeBits (setShapeBits r 171 168 v.toNat) 173 172 (v.bits 5 4)).getLsbD n = _
  rw [getLsbD_setShapeBits _ _ _ _ hn, getLsbD_setShapeBits _ _ _ _ hn, wordBits_eq, Nat.testBit_mod_two_pow,
    Nat.testBit_div_two_pow]
  by_cases h1 : 172 ≤ n ∧ n < 172 + (173 + 1 - 172)
  · have h2 : n - 172 + 4 = n - 168 := by omega
    rw [if_pos h1, if_pos (by omega), decide_eq_true (by omega), Bool.true_and, h2]
    rfl
  · rw [if_neg h1]
    by_cases h2 : 168 ≤ n ∧ n < 168 + (171 + 1 - 168)
    · rw [if_pos h2, if_pos (by omega)]
      rfl
    · rw [if_neg h2, if_neg (by omega)]

/-- SHSET marks the dword of its field by the data, and clears a mark only with the whole dword (R12, R203). -/
theorem getLsbD_shapeFieldBad (bad : BitVec 4) (b : Bool) {n : Nat} (hn : n < 4) : ∀ e ∈ shapeFields,
    (shapeFieldBad bad e.1 b).getLsbD n =
      (n == e.2.1 / 64 && b || bad.getLsbD n && !(n == e.2.1 / 64 && e.2.2 == 64)) := by
  have mark (k : Nat) (keeps : Bool) : (if n = k then b || bitOf bad.toNat k && keeps else bitOf bad.toNat n) =
      (n == k && b || bad.getLsbD n && !(n == k && !keeps)) := by
    have hb : bitOf bad.toNat n = bad.getLsbD n := bitOf_testBit _ _
    by_cases h : n = k
    · simp [← h, hb]
    · simp [h, beq_eq_false_iff_ne.mpr h, hb]
  simp only [shapeFields, List.forall_mem_cons, List.not_mem_nil, false_imp_iff, implies_true, and_true]
  refine ⟨?_, ?_, ?_, ?_, ?_, ?_, ?_⟩ <;> refine (getLsbD_marks _ hn).trans ?_
  · simpa using mark 0 false
  · simpa using mark 1 true
  · simpa using mark 2 true
  · simpa using mark 2 true
  · simpa using mark 2 true
  · simpa using mark 2 true
  · simpa using mark 3 false

theorem Strand.shape_setShape (r : Strand) {d : Nat} (hd : d < 8) (v : Shape) (bad : BitVec 4) :
    (r.setShape d v bad).shape d = v := by
  simp [Strand.setShape, Strand.shape, hd]

theorem Strand.shapeBad_setShape (r : Strand) {d : Nat} (hd : d < 8) (v : Shape) (bad : BitVec 4) :
    (r.setShape d v bad).shapeBad d = bad := by
  simp [Strand.setShape, Strand.shapeBad, hd]

/-- What SHSET does to its strand with the value of g[s]. -/
def shsetStrand (f : Fields) (v : PWord) (t : Strand) : Strand :=
  t.setShape f.dNum (shapeField (t.shape f.dNum) f.mod.toNat v.bits) (shapeFieldBad (t.shapeBad f.dNum) f.mod.toNat v.bad)

theorem runs_shset (f : Fields) (s : State) :
    Runs (.shset f) s (s.past (.shset f) (s.modSt (shsetStrand f (s.g f.sNum)))) := exec_shset f s

/-- The current strand after an update of it and the next PC. -/
theorem State.st_past_modSt (s : State) (i : Instr) (g : Strand → Strand) :
    (s.past i (s.modSt g)).st = { g s.st with pc := s.nextPc i } := by
  rw [State.past, State.setPc, State.st_modSt, State.st_modSt]

/-- Settles O20: the marks and dwords of a record read back one by one, and SHSET replaces a range of bits. -/
theorem shapeRegisterResults : Obligations.ShapeRegisterResults := by
  intro f s
  refine ⟨fun hc hr hv => ?_, fun e he hf hd => ?_⟩
  · have ha : (s.effAddr f).toNat % 8 = 0 := by
      have := hr.1
      omega
    exact ⟨runs_shld hc hr hv, fun n hn => LocalStore.getLsbD_recordBad _ _ hn, runs_shst hc hr hv,
      Pillar.read_storeRecord_all _ _ _ _, Pillar.recordBad_storeRecord _ ha _ _⟩
  · refine ⟨_, runs_shset f s, ?_⟩
    rw [State.st_past_modSt]
    refine ⟨rfl, fun n hn => ?_, fun n hn => ?_⟩
    · have hs : (shsetStrand f (s.g f.sNum) s.st).shape f.dNum = _ := Strand.shape_setShape s.st hd _ _
      exact (congrArg (BitVec.getLsbD · n) hs).trans (hf ▸ getLsbD_shapeField _ _ hn e he)
    · have hb : (shsetStrand f (s.g f.sNum) s.st).shapeBad f.dNum = _ := Strand.shapeBad_setShape s.st hd 0 _
      exact (congrArg (BitVec.getLsbD · n) hb).trans (hf ▸ getLsbD_shapeFieldBad _ _ hn e he)

end Sys2Proof.Machine
end

section
/-! PROOFS. The words of an instruction: what a prefixing word and a base word say, and what they are made of. -/

set_option Elab.async false

namespace Sys2Proof

open Machine (bitsOf_eq bitOf_eq)

/-! ## Prefixing words (R13, R15) -/

theorem prefixWord_toNat {kind : Nat} (hk : kind < 4) (p : BitVec 11) :
    (prefixWord kind p).toNat = 0xE000 + kind * 2048 + p.toNat := by
  have := p.isLt
  rw [prefixWord, BitVec.toNat_ofNat]
  omega

theorem isPrefixWord_iff (w : Halfword) : isPrefixWord w = true ↔ 0xE000 ≤ w.toNat := by
  have := w.isLt
  simp only [isPrefixWord, bitsOf_eq, beq_iff_eq]
  omega

theorem prefixKind_eq (w : Halfword) : prefixKind w = w.toNat / 2048 % 4 := bitsOf_eq ..

theorem isPrefixWord_prefixWord {kind : Nat} (hk : kind < 4) (p : BitVec 11) : isPrefixWord (prefixWord kind p) = true := by
  rw [isPrefixWord_iff, prefixWord_toNat hk]
  omega

theorem prefixKind_prefixWord {kind : Nat} (hk : kind < 4) (p : BitVec 11) : prefixKind (prefixWord kind p) = kind := by
  have := p.isLt
  rw [prefixKind_eq, prefixWord_toNat hk]
  omega

theorem payloadOf_prefixWord {kind : Nat} (hk : kind < 4) (p : BitVec 11) : payloadOf (prefixWord kind p) = p := by
  have := p.isLt
  apply BitVec.eq_of_toNat_eq
  rw [payloadOf, BitVec.toNat_setWidth, prefixWord_toNat hk]
  omega

/-- A prefixing word is made of its kind and its payload. -/
theorem prefixWord_kind_payload {w : Halfword} (hw : isPrefixWord w = true) :
    prefixWord (prefixKind w) (payloadOf w) = w := by
  have := w.isLt
  rw [isPrefixWord_iff] at hw
  apply BitVec.eq_of_toNat_eq
  rw [prefixWord_toNat (by rw [prefixKind_eq]; omega), prefixKind_eq, payloadOf, BitVec.toNat_setWidth]
  omega

/-! ## Payloads (R19, R20, R22) -/

theorem boolNat_lt (b : Bool) : boolNat b < 2 := by cases b <;> decide

theorem boolNat_decide (n : Nat) (hn : n < 2) : boolNat (decide (n = 1)) = n := by
  obtain rfl | rfl : n = 0 ∨ n = 1 := by omega
  all_goals rfl

theorem decide_boolNat (b : Bool) : decide (boolNat b = 1) = b := by cases b <;> rfl

theorem RegFields.payload_toNat (r : RegFields) :
    r.payload.toNat = boolNat r.dh * 1024 + boolNat r.sh * 512 + r.t.toNat * 8 + r.q.toNat := by
  have := r.t.isLt
  have := r.q.isLt
  have := boolNat_lt r.dh
  have := boolNat_lt r.sh
  rw [RegFields.payload, BitVec.toNat_ofNat]
  omega

theorem regOf_payload (r : RegFields) : regOf r.payload = r := by
  have := r.t.isLt
  have := r.q.isLt
  have := boolNat_lt r.dh
  have := boolNat_lt r.sh
  have hdh : bitOf r.payload.toNat 10 = r.dh := by
    have e : r.payload.toNat / 2 ^ 10 % 2 = boolNat r.dh := by
      rw [RegFields.payload_toNat]
      omega
    rw [bitOf_eq, e, decide_boolNat]
  have hsh : bitOf r.payload.toNat 9 = r.sh := by
    have e : r.payload.toNat / 2 ^ 9 % 2 = boolNat r.sh := by
      rw [RegFields.payload_toNat]
      omega
    rw [bitOf_eq, e, decide_boolNat]
  have ht : BitVec.ofNat 6 (bitsOf r.payload.toNat 8 3) = r.t := by
    apply BitVec.eq_of_toNat_eq
    rw [BitVec.toNat_ofNat, bitsOf_eq, RegFields.payload_toNat]
    omega
  have hq : BitVec.ofNat 3 (bitsOf r.payload.toNat 2 0) = r.q := by
    apply BitVec.eq_of_toNat_eq
    rw [BitVec.toNat_ofNat, bitsOf_eq, RegFields.payload_toNat]
    omega
  rw [regOf, hdh, hsh, ht, hq]

theorem payload_regOf (p : BitVec 11) : (regOf p).payload = p := by
  have := p.isLt
  apply BitVec.eq_of_toNat_eq
  simp only [RegFields.payload_toNat, regOf, bitOf_eq, bitsOf_eq, BitVec.toNat_ofNat]
  rw [boolNat_decide _ (by omega), boolNat_decide _ (by omega)]
  omega

theorem QualFields.payload_toNat (q : QualFields) :
    q.payload.toNat = q.k.toNat * 256 + q.type.toNat * 16 + q.flags.toNat := by
  have := q.k.isLt
  have := q.type.isLt
  have := q.flags.isLt
  rw [QualFields.payload, BitVec.toNat_ofNat]
  omega

theorem qualOf_payload (q : QualFields) : qualOf q.payload = q := by
  have := q.k.isLt
  have := q.type.isLt
  have := q.flags.isLt
  have hk : BitVec.ofNat 3 (bitsOf q.payload.toNat 10 8) = q.k := by
    apply BitVec.eq_of_toNat_eq
    rw [BitVec.toNat_ofNat, bitsOf_eq, QualFields.payload_toNat]
    omega
  have ht : BitVec.ofNat 4 (bitsOf q.payload.toNat 7 4) = q.type := by
    apply BitVec.eq_of_toNat_eq
    rw [BitVec.toNat_ofNat, bitsOf_eq, QualFields.payload_toNat]
    omega
  have hf : BitVec.ofNat 4 (bitsOf q.payload.toNat 3 0) = q.flags := by
    apply BitVec.eq_of_toNat_eq
    rw [BitVec.toNat_ofNat, bitsOf_eq, QualFields.payload_toNat]
    omega
  rw [qualOf, hk, ht, hf]

theorem payload_qualOf (p : BitVec 11) : (qualOf p).payload = p := by
  have := p.isLt
  apply BitVec.eq_of_toNat_eq
  simp only [QualFields.payload_toNat, qualOf, bitsOf_eq, BitVec.toNat_ofNat]
  omega

/-- The PAGE word is the prefixing word of the page's payload. -/
theorem prefixWord_pagePayload {page : Nat} (hp : page < 16) (m : BitVec 7) :
    prefixWord 2 (pagePayload page m) = Claims.pageWord page m := by
  have := m.isLt
  apply BitVec.eq_of_toNat_eq
  rw [prefixWord_toNat (by omega), pagePayload, Claims.pageWord, BitVec.toNat_ofNat, BitVec.toNat_ofNat]
  omega

theorem pagePayload_toNat {page : Nat} (hp : page < 16) (m : BitVec 7) : (pagePayload page m).toNat = page * 128 + m.toNat := by
  have := m.isLt
  rw [pagePayload, BitVec.toNat_ofNat]
  omega

theorem page_of_pagePayload {page : Nat} (hp : page < 16) (m : BitVec 7) : bitsOf (pagePayload page m).toNat 10 7 = page := by
  have := m.isLt
  rw [bitsOf_eq, pagePayload_toNat hp]
  omega

theorem mod_of_pagePayload {page : Nat} (hp : page < 16) (m : BitVec 7) : (pagePayload page m).setWidth 7 = m := by
  have := m.isLt
  apply BitVec.eq_of_toNat_eq
  rw [BitVec.toNat_setWidth, pagePayload_toNat hp]
  omega

theorem pagePayload_page_mod (p : BitVec 11) : pagePayload (bitsOf p.toNat 10 7) (p.setWidth 7) = p := by
  have := p.isLt
  apply BitVec.eq_of_toNat_eq
  rw [pagePayload, BitVec.toNat_ofNat, bitsOf_eq, BitVec.toNat_setWidth]
  omega

theorem pageWord_toNat {page : Nat} (hp : page < 16) (m : BitVec 7) :
    (Claims.pageWord page m).toNat = 0xF000 + page * 128 + m.toNat := by
  have := m.isLt
  rw [Claims.pageWord, BitVec.toNat_ofNat]
  omega

/-- Two PAGE words are equal only on the same page. -/
theorem page_eq_of_pageWord_eq {page page' : Nat} {m m' : BitVec 7} (hp : page < 16) (hp' : page' < 16)
    (h : Claims.pageWord page m = Claims.pageWord page' m') : page = page' := by
  have := m.isLt
  have := m'.isLt
  have := congrArg BitVec.toNat h
  rw [pageWord_toNat hp, pageWord_toNat hp'] at this
  omega

/-- Every prefixing word is a PAGE, a REG, a QUAL or an IMX word (R15). -/
theorem prefixWord_cases {w : Halfword} (hw : isPrefixWord w = true) :
    (∃ q m, q < 16 ∧ w = Claims.pageWord q m) ∨ (∃ r : RegFields, w = prefixWord 1 r.payload) ∨
      (∃ q : QualFields, w = prefixWord 3 q.payload) ∨ ∃ p, w = prefixWord 0 p := by
  have e := prefixWord_kind_payload hw
  have hk : prefixKind w = 0 ∨ prefixKind w = 1 ∨ prefixKind w = 2 ∨ prefixKind w = 3 := by
    rw [prefixKind_eq]
    omega
  obtain hk | hk | hk | hk := hk <;> rw [hk] at e
  · exact .inr (.inr (.inr ⟨_, e.symm⟩))
  · exact .inr (.inl ⟨regOf (payloadOf w), by rw [payload_regOf, e]⟩)
  · have hq : bitsOf (payloadOf w).toNat 10 7 < 16 := by rw [bitsOf_eq]; omega
    exact .inl ⟨_, _, hq, by rw [← prefixWord_pagePayload hq, pagePayload_page_mod, e]⟩
  · exact .inr (.inr (.inl ⟨qualOf (payloadOf w), by rw [payload_qualOf, e]⟩))

/-! ## Base words (R14) -/

theorem baseWord_toNat {op : Nat} (ho : op < 64) (d s : BitVec 5) :
    (baseWord op d s).toNat = op * 1024 + d.toNat * 32 + s.toNat := by
  have := d.isLt
  have := s.isLt
  rw [baseWord, BitVec.toNat_ofNat]
  omega

/-- Opcodes 56 to 63 would be prefixing words (R13). -/
theorem isPrefixWord_baseWord {op : Nat} (ho : op < 56) (d s : BitVec 5) : isPrefixWord (baseWord op d s) = false := by
  have := d.isLt
  have := s.isLt
  rw [Bool.eq_false_iff, ne_eq, isPrefixWord_iff, baseWord_toNat (by omega)]
  omega

theorem op_lt_of_not_prefix {w : Halfword} (hw : ¬ isPrefixWord w = true) : bitsOf w.toNat 15 10 < 56 := by
  have := w.isLt
  rw [isPrefixWord_iff] at hw
  rw [bitsOf_eq]
  omega

/-- The opcode of a base word. -/
theorem op_of_baseWord {op : Nat} (ho : op < 64) (d s : BitVec 5) : bitsOf (baseWord op d s).toNat 15 10 = op := by
  have := d.isLt
  have := s.isLt
  rw [bitsOf_eq, baseWord_toNat ho]
  omega

theorem d_of_baseWord {op : Nat} (ho : op < 64) (d s : BitVec 5) : BitVec.ofNat 5 (bitsOf (baseWord op d s).toNat 9 5) = d := by
  have := d.isLt
  have := s.isLt
  apply BitVec.eq_of_toNat_eq
  rw [BitVec.toNat_ofNat, bitsOf_eq, baseWord_toNat ho]
  omega

theorem s_of_baseWord {op : Nat} (ho : op < 64) (d s : BitVec 5) : (baseWord op d s).setWidth 5 = s := by
  have := d.isLt
  have := s.isLt
  apply BitVec.eq_of_toNat_eq
  rw [BitVec.toNat_setWidth, baseWord_toNat ho]
  omega

/-- A word is the base word of its own fields. -/
theorem baseWord_op_d_s (w : Halfword) :
    baseWord (bitsOf w.toNat 15 10) (BitVec.ofNat 5 (bitsOf w.toNat 9 5)) (w.setWidth 5) = w := by
  have := w.isLt
  apply BitVec.eq_of_toNat_eq
  rw [baseWord_toNat (by rw [bitsOf_eq]; omega)]
  simp only [bitsOf_eq, BitVec.toNat_ofNat, BitVec.toNat_setWidth]
  omega

end Sys2Proof
end

section
/-! PROOFS. The opcode map: each row stands in the table of its page under its opcode, and nothing else does. -/

set_option Elab.async false

namespace Sys2Proof

/-! ## The row of an instruction -/

/-- An instruction is encodable if it is well-formed. -/
theorem encodable_eq_wf {i : Instr} (h : i.isEvent = false) : i.encodable = i.wf := by
  unfold Instr.isEvent at h
  unfold Instr.encodable Instr.wf
  cases hr : i.row with
  | none => simp [hr] at h
  | some => rfl

theorem isEvent_of_row {i : Instr} {r : Row} {f : Fields} (h : i.row = some (r, f)) : i.isEvent = false := by
  rw [Instr.isEvent, h, Option.isNone_some]

theorem wf_of_row {i : Instr} {r : Row} {f : Fields} (h : i.row = some (r, f)) : i.wf = r.ok f := by
  rw [Instr.wf, h]

theorem row_of_not_isEvent {i : Instr} (h : i.isEvent = false) : ∃ r f, i.row = some (r, f) := by
  rw [Instr.isEvent, Option.isNone_eq_false_iff, Option.isSome_iff_exists] at h
  obtain ⟨⟨r, f⟩, h⟩ := h
  exact ⟨r, f, h⟩

/-! ## The opcode map (R32, R33) -/

/-- Each row stands in the table of its page, under its opcode. -/
theorem constructorOf_of_row {i : Instr} {r : Row} {f : Fields} (h : i.row = some (r, f)) :
    ∃ mk, constructorOf r.page r.op = some mk ∧ mk f = i := by
  cases i <;> cases h <;> exact ⟨_, rfl, rfl⟩

/-- The instructions of page 0 have no modifier (R22). -/
theorem mod_of_page_zero {i : Instr} {r : Row} {f : Fields} (h : i.row = some (r, f)) (hp : r.page = 0) :
    r.mod = fun m => m == 0 := by
  cases i <;> cases h <;> cases hp <;> rfl

/-- The instructions of a page's table have a row of that page and opcode, and the fields that they are made of. -/
theorem row_of_mem_pageTable (page : Nat) :
    ∀ e ∈ pageTable page, ∀ f, ∃ r, (e.2 f).row = some (r, f) ∧ r.page = page ∧ r.op = e.1 := by
  match page with
  | 0 | 1 | 2 | 3 | 4 | 5 | 6 | 7 | 8 | 9 | 10 | 11 =>
    simp only [pageTable, page0, page1, page2, page3, page4, page5, page6, page7, page8, page9, page10, page11,
      List.forall_mem_cons, List.not_mem_nil, false_imp_iff, implies_true, and_true]
    repeat' apply And.intro
    all_goals exact fun f => ⟨_, rfl, rfl, rfl⟩
  | n + 12 => nofun

theorem mem_of_constructorOf {page op : Nat} {mk : Fields → Instr} (h : constructorOf page op = some mk) :
    (op, mk) ∈ pageTable page := by
  obtain ⟨l₁, l₂, e, -⟩ := List.lookup_eq_some_iff.mp h
  simp [e]

theorem row_of_constructorOf {page op : Nat} {mk : Fields → Instr} (h : constructorOf page op = some mk) (f : Fields) :
    ∃ r, (mk f).row = some (r, f) ∧ r.page = page ∧ r.op = op :=
  row_of_mem_pageTable page _ (mem_of_constructorOf h) f

/-- No page from 12 on, and no opcode from 56 on, is assigned (R14, R22). -/
theorem bounds_of_constructorOf {page op : Nat} {mk : Fields → Instr} (h : constructorOf page op = some mk) :
    page < 12 ∧ op < 56 := by
  have hm := mem_of_constructorOf h
  have hp : page < 12 := by
    match page with
    | 0 | 1 | 2 | 3 | 4 | 5 | 6 | 7 | 8 | 9 | 10 | 11 => omega
    | n + 12 => cases hm
  have ho : ∀ q < 12, ∀ e ∈ pageTable q, e.1 < 56 := by decide
  exact ⟨hp, ho page hp _ hm⟩

end Sys2Proof
end

section
/-! PROOFS. The chains of prefixing words that R16 allows: what the decoder holds after one, how a chain goes on, and what a chain and
the word that ends it decode to. -/

set_option Elab.async false

namespace Sys2Proof

open Claims (prefixWords chainOk pageWord breaks)

/-! ## What one prefixing word does to a chain (R16, R22) -/

section
variable (c : ChainState) {n : Nat}

theorem takePrefix_fifth (hn : 4 ≤ n) (w : Halfword) : takePrefix c n w = .error (0x01, c.page) := if_pos hn

theorem takePrefix_page (hn : n < 4) {q : Nat} (hq : q < 16) (m : BitVec 7) :
    takePrefix c n (pageWord q m) =
      if 0 < c.stage then .error (0x01, c.page) else if q = 0 then .error (0x01, 0) else if 12 ≤ q then .error (0x02, 0)
      else .ok { stage := 1, page := q, fields := { c.fields with mod := m } } := by
  simp only [← prefixWord_pagePayload hq, takePrefix, ge_iff_le, Nat.not_le.mpr hn, if_false, gt_iff_lt,
    prefixKind_prefixWord (kind := 2) (by omega), payloadOf_prefixWord (kind := 2) (by omega), page_of_pagePayload hq,
    mod_of_pagePayload hq]

theorem takePrefix_reg (hn : n < 4) (r : RegFields) :
    takePrefix c n (prefixWord 1 r.payload) =
      if 1 < c.stage then .error (0x01, c.page) else .ok { c with stage := 2, fields := { c.fields with reg := some r } } := by
  simp only [takePrefix, ge_iff_le, Nat.not_le.mpr hn, if_false, gt_iff_lt,
    prefixKind_prefixWord (kind := 1) (by omega), payloadOf_prefixWord (kind := 1) (by omega), regOf_payload]

theorem takePrefix_qual (hn : n < 4) (q : QualFields) :
    takePrefix c n (prefixWord 3 q.payload) =
      if 2 < c.stage then .error (0x01, c.page) else .ok { c with stage := 3, fields := { c.fields with qual := some q } } := by
  simp only [takePrefix, ge_iff_le, Nat.not_le.mpr hn, if_false, gt_iff_lt,
    prefixKind_prefixWord (kind := 3) (by omega), payloadOf_prefixWord (kind := 3) (by omega), qualOf_payload]

theorem takePrefix_imx (hn : n < 4) (p : BitVec 11) :
    takePrefix c n (prefixWord 0 p) =
      if 3 ≤ c.fields.imx.length then .error (0x01, c.page)
      else .ok { c with stage := 3, fields := { c.fields with imx := c.fields.imx ++ [p] } } := by
  simp only [takePrefix, ge_iff_le, Nat.not_le.mpr hn, if_false,
    prefixKind_prefixWord (kind := 0) (by omega), payloadOf_prefixWord (kind := 0) (by omega)]

end

/-! ## The prefixing words of a chain -/

/-- The chain that the decoder holds after the prefixing words of a page and fields. -/
def chainAfter (page : Nat) (f : Fields) : ChainState where
  stage := if f.qual ≠ none ∨ f.imx ≠ [] then 3 else if f.reg ≠ none then 2 else if page ≠ 0 then 1 else 0
  page := page
  fields := { f with d := 0, s := 0 }

theorem prefixWords_length (page : Nat) (f : Fields) : (prefixWords page f).length = f.prefixes page := by
  have hp : (if page = 0 then ([] : List Halfword) else [pageWord page f.mod]).length = boolNat (page != 0) := by
    by_cases h : page = 0 <;> simp [h, boolNat]
  simp only [prefixWords, Fields.prefixes, List.length_append, List.length_map, hp]
  cases f.reg <;> cases f.qual <;> rfl

theorem prefixWords_length_le (page : Nat) (f : Fields) : (prefixWords page f).length ≤ 3 + f.imx.length := by
  have := boolNat_lt (page != 0)
  have := boolNat_lt f.reg.isSome
  have := boolNat_lt f.qual.isSome
  rw [prefixWords_length, Fields.prefixes]
  omega

theorem isPrefixWord_pageWord {q : Nat} (hq : q < 16) (m : BitVec 7) : isPrefixWord (pageWord q m) = true := by
  rw [← prefixWord_pagePayload hq, isPrefixWord_prefixWord (by omega)]

theorem prefixKind_pageWord {q : Nat} (hq : q < 16) (m : BitVec 7) : prefixKind (pageWord q m) = 2 := by
  rw [← prefixWord_pagePayload hq, prefixKind_prefixWord (by omega)]

theorem isPrefixWord_of_mem_prefixWords {page : Nat} (hp : page < 16) {f : Fields} {w : Halfword}
    (h : w ∈ prefixWords page f) : isPrefixWord w = true := by
  simp only [prefixWords, List.mem_append, List.mem_map, List.mem_ite_nil_left, List.mem_singleton] at h
  obtain ((⟨-, rfl⟩ | ⟨r, -, rfl⟩) | ⟨q, -, rfl⟩) | ⟨p, -, rfl⟩ := h
  · exact isPrefixWord_pageWord hp _
  all_goals exact isPrefixWord_prefixWord (by omega) _

/-- The words of an instruction are the prefixing words of its chain and its base word. -/
theorem encode_of_row {i : Instr} {r : Row} {f : Fields} (h : i.row = some (r, f)) (hp : r.page < 16) :
    encode i = prefixWords r.page f ++ [baseWord r.op f.d f.s] := by
  simp only [encode, h, encodeFields, prefixWords, prefixWord_pagePayload hp]

section
variable {page : Nat} {f : Fields}

theorem prefixWords_page (hp : page ≠ 0) (m : BitVec 7) (d s : BitVec 5) :
    prefixWords page { mod := m, d := d, s := s } = [pageWord page m] := by
  simp [prefixWords, hp]

theorem prefixWords_reg (h1 : f.reg = none) (h2 : f.qual = none) (h3 : f.imx = []) (r : RegFields) :
    prefixWords page { f with reg := some r } = prefixWords page f ++ [prefixWord 1 r.payload] := by
  simp [prefixWords, h1, h2, h3]

theorem prefixWords_qual (h2 : f.qual = none) (h3 : f.imx = []) (q : QualFields) :
    prefixWords page { f with qual := some q } = prefixWords page f ++ [prefixWord 3 q.payload] := by
  simp [prefixWords, h2, h3]

theorem prefixWords_imx (p : BitVec 11) :
    prefixWords page { f with imx := f.imx ++ [p] } = prefixWords page f ++ [prefixWord 0 p] := by
  simp [prefixWords]

end

/-! ## Reading a chain -/

/-- Words that the decoder takes as prefixes, with the chain that it holds after them. -/
def ReadsTo (ws : List Halfword) (c : ChainState) : Prop :=
  ∀ rest, decode (ws ++ rest) = decodeFrom c ws.length rest

theorem readsTo_nil : ReadsTo [] {} := fun _ => rfl

section
variable {ws : List Halfword} {c : ChainState} (h : ReadsTo ws c)
include h

theorem ReadsTo.prefixWord {w : Halfword} {c' : ChainState} (hw : isPrefixWord w = true)
    (hc : takePrefix c ws.length w = .ok c') : ReadsTo (ws ++ [w]) c' := fun rest => by
  rw [List.append_assoc, h, List.singleton_append, decodeFrom, if_pos hw, hc, List.length_append, List.length_singleton]

theorem ReadsTo.decode_end : decode ws = .short ws.length := by simpa [decodeFrom] using h []

theorem ReadsTo.decode_refused {w : Halfword} {cause : BitVec 8} {page : Nat} (hw : isPrefixWord w = true)
    (hc : takePrefix c ws.length w = .error (cause, page)) (rest : List Halfword) :
    decode (ws ++ w :: rest) = .illegal cause ws.length w page := by
  rw [h, decodeFrom, if_pos hw, hc]

theorem ReadsTo.decode_base {w : Halfword} (hw : isPrefixWord w = false) (rest : List Halfword) :
    decode (ws ++ w :: rest) = takeBase c ws.length w := by
  rw [h, decodeFrom, hw, if_neg Bool.false_ne_true]

end

/-! ## What follows a chain (R16) -/

section
variable {page n : Nat} {f : Fields}

theorem prefixWords_eq_nil : prefixWords page f = [] ↔ page = 0 ∧ f.reg = none ∧ f.qual = none ∧ f.imx = [] := by
  simp [prefixWords]

theorem chainAfter_stage_pos : 0 < (chainAfter page f).stage ↔ prefixWords page f ≠ [] := by
  rw [ne_eq, prefixWords_eq_nil, chainAfter]
  split_ifs <;> grind

theorem one_lt_chainAfter_stage : 1 < (chainAfter page f).stage ↔ f.reg ≠ none ∨ f.qual ≠ none ∨ f.imx ≠ [] := by
  rw [chainAfter]
  split_ifs <;> simp_all

theorem two_lt_chainAfter_stage : 2 < (chainAfter page f).stage ↔ f.qual ≠ none ∨ f.imx ≠ [] := by
  rw [chainAfter]
  split_ifs <;> simp_all

theorem takePrefix_first_page (hn : n < 4) {q : Nat} (h0 : q ≠ 0) (hq : q < 12) (m : BitVec 7)
    (h : prefixWords page f = []) :
    takePrefix (chainAfter page f) n (pageWord q m) = .ok (chainAfter q { f with mod := m }) := by
  have hs : ¬ 0 < (chainAfter page f).stage := fun hs => chainAfter_stage_pos.mp hs h
  obtain ⟨-, h1, h2, h3⟩ := prefixWords_eq_nil.mp h
  rw [takePrefix_page _ hn (by omega), if_neg hs, if_neg h0, if_neg (by omega)]
  simp [chainAfter, h1, h2, h3, h0]

theorem takePrefix_first_reg (hn : n < 4) (h1 : f.reg = none) (h2 : f.qual = none) (h3 : f.imx = []) (r : RegFields) :
    takePrefix (chainAfter page f) n (prefixWord 1 r.payload) = .ok (chainAfter page { f with reg := some r }) := by
  have hs : ¬ 1 < (chainAfter page f).stage := by simp [one_lt_chainAfter_stage, h1, h2, h3]
  rw [takePrefix_reg _ hn, if_neg hs]
  simp [chainAfter, h2, h3]

theorem takePrefix_first_qual (hn : n < 4) (h2 : f.qual = none) (h3 : f.imx = []) (q : QualFields) :
    takePrefix (chainAfter page f) n (prefixWord 3 q.payload) = .ok (chainAfter page { f with qual := some q }) := by
  have hs : ¬ 2 < (chainAfter page f).stage := by simp [two_lt_chainAfter_stage, h2, h3]
  rw [takePrefix_qual _ hn, if_neg hs]
  simp [chainAfter]

theorem takePrefix_next_imx (hn : n < 4) (hi : f.imx.length < 3) (p : BitVec 11) :
    takePrefix (chainAfter page f) n (prefixWord 0 p) = .ok (chainAfter page { f with imx := f.imx ++ [p] }) := by
  rw [takePrefix_imx _ hn, if_neg (by simpa [chainAfter] using hi)]
  simp [chainAfter]

end

/-! ## Every chain that R16 allows is read -/

section
variable {page : Nat} {mod : BitVec 7} {d s : BitVec 5}

theorem readsTo_page (hp : page < 12) (hm : page = 0 → mod = 0) :
    ReadsTo (prefixWords page { mod := mod, d := d, s := s }) (chainAfter page { mod := mod, d := d, s := s }) := by
  by_cases h0 : page = 0
  · rw [h0, hm h0]
    exact readsTo_nil
  · rw [prefixWords_page h0]
    exact readsTo_nil.prefixWord (isPrefixWord_pageWord (by omega) _)
      (takePrefix_first_page (page := 0) (f := {}) (by decide) h0 hp mod rfl)

theorem readsTo_reg {reg : Option RegFields} (hp : page < 12) (hm : page = 0 → mod = 0) :
    ReadsTo (prefixWords page { mod := mod, reg := reg, d := d, s := s })
      (chainAfter page { mod := mod, reg := reg, d := d, s := s }) := by
  have hb := readsTo_page (d := d) (s := s) hp hm
  cases reg with
  | none => exact hb
  | some r =>
    rw [prefixWords_reg (f := { mod := mod, d := d, s := s }) rfl rfl rfl r]
    refine hb.prefixWord (isPrefixWord_prefixWord (by omega) _) (takePrefix_first_reg ?_ rfl rfl rfl r)
    exact Nat.lt_succ_of_le (prefixWords_length_le page _)

theorem readsTo_qual {reg : Option RegFields} {qual : Option QualFields} (hp : page < 12) (hm : page = 0 → mod = 0) :
    ReadsTo (prefixWords page { mod := mod, reg := reg, qual := qual, d := d, s := s })
      (chainAfter page { mod := mod, reg := reg, qual := qual, d := d, s := s }) := by
  have hb := readsTo_reg (d := d) (s := s) (reg := reg) hp hm
  cases qual with
  | none => exact hb
  | some q =>
    rw [prefixWords_qual (f := { mod := mod, reg := reg, d := d, s := s }) rfl rfl q]
    refine hb.prefixWord (isPrefixWord_prefixWord (by omega) _) (takePrefix_first_qual ?_ rfl rfl q)
    exact Nat.lt_succ_of_le (prefixWords_length_le page _)

end

theorem readsTo_chainAfter {page : Nat} {f : Fields} (h : chainOk page f) : ReadsTo (prefixWords page f) (chainAfter page f) := by
  obtain ⟨hp, hm, hi, hl⟩ := h
  obtain ⟨mod, reg, qual, imx, d, s⟩ := f
  induction imx using List.reverseRecOn with
  | nil => exact readsTo_qual hp hm
  | append_singleton l p ih =>
    have e := prefixWords_imx (page := page) (f := { mod := mod, reg := reg, qual := qual, imx := l, d := d, s := s }) p
    simp only [e, List.length_append, List.length_singleton] at hi hl ⊢
    have hi' : l.length < 3 := hi
    exact (ih hm hi'.le (by omega)).prefixWord (isPrefixWord_prefixWord (by omega) _)
      (takePrefix_next_imx (by omega) hi' p)

/-! ## The base word after a chain (R14, R26) -/

section
variable {page op : Nat} {f : Fields}

theorem takeBase_unassigned (ho : op < 56) (n : Nat) (h : constructorOf page op = none) :
    takeBase (chainAfter page f) n (baseWord op f.d f.s) = .illegal 0x01 n (baseWord op f.d f.s) page := by
  simp only [takeBase, op_of_baseWord (show op < 64 by omega), chainAfter, h]

theorem takeBase_assigned {mk : Fields → Instr} (n : Nat) (h : constructorOf page op = some mk) :
    takeBase (chainAfter page f) n (baseWord op f.d f.s) =
      if (mk f).wf then .ok (mk f) (n + 1) else .illegal 0x01 n (baseWord op f.d f.s) page := by
  have ho : op < 64 := by have := bounds_of_constructorOf h; omega
  obtain ⟨r, hr, -, -⟩ := row_of_constructorOf h f
  simp only [takeBase, op_of_baseWord ho, d_of_baseWord ho, s_of_baseWord ho, chainAfter, h,
    encodable_eq_wf (isEvent_of_row hr)]

end

/-! ## A further prefixing word (R16, R22, R26) -/

section
variable {page : Nat} {f : Fields} {w : Halfword}

/-- A word that breaks the order of R16 is refused, with the page in effect. -/
theorem takePrefix_of_breaks (hw : isPrefixWord w = true) (hb : breaks page f w) :
    takePrefix (chainAfter page f) (prefixWords page f).length w = .error (0x01, page) := by
  obtain hn | hn := Nat.lt_or_ge (prefixWords page f).length 4
  swap
  · exact takePrefix_fifth _ hn w
  obtain ⟨q, m, hq, rfl⟩ | ⟨r, rfl⟩ | ⟨q, rfl⟩ | ⟨p, rfl⟩ := prefixWord_cases hw
  · have hs : prefixWords page f ≠ [] := by simpa [breaks, hn.ne, prefixKind_pageWord hq] using hb
    rw [takePrefix_page _ hn hq, if_pos (chainAfter_stage_pos.mpr hs)]
    rfl
  · have hs : f.reg ≠ none ∨ f.qual ≠ none ∨ f.imx ≠ [] := by
      simpa [breaks, hn.ne, prefixKind_prefixWord (kind := 1)] using hb
    rw [takePrefix_reg _ hn, if_pos (one_lt_chainAfter_stage.mpr hs)]
    rfl
  · have hs : f.qual ≠ none ∨ f.imx ≠ [] := by simpa [breaks, hn.ne, prefixKind_prefixWord (kind := 3)] using hb
    rw [takePrefix_qual _ hn, if_pos (two_lt_chainAfter_stage.mpr hs)]
    rfl
  · have hs : f.imx.length = 3 := by simpa [breaks, hn.ne, prefixKind_prefixWord (kind := 0)] using hb
    rw [takePrefix_imx _ hn, if_pos (by exact hs.ge)]
    rfl

/-- A PAGE word of page 0 or of a reserved page, as the first word (R22). -/
theorem takePrefix_reserved_page (h : prefixWords page f = []) {q : Nat} (hq : q < 16) (h0 : q = 0 ∨ 12 ≤ q) (m : BitVec 7) :
    takePrefix (chainAfter page f) 0 (pageWord q m) = .error (if q = 0 then 0x01 else 0x02, 0) := by
  have hs : ¬ 0 < (chainAfter page f).stage := fun hs => chainAfter_stage_pos.mp hs h
  rw [takePrefix_page _ (by decide) hq, if_neg hs]
  obtain rfl | h12 := h0
  · rfl
  · rw [if_neg (by omega), if_pos h12, if_neg (by omega)]

/-- One more prefixing word gives a chain that R16 allows. -/
def Continues (page : Nat) (f : Fields) (w : Halfword) : Prop :=
  ∃ page' f', chainOk page' f' ∧ prefixWords page' f' = prefixWords page f ++ [w]

theorem Continues.intro {page' : Nat} {f' : Fields} (e : prefixWords page' f' = prefixWords page f ++ [w])
    (hn : (prefixWords page f).length < 4) (hp : page' < 12) (hm : page' = 0 → f'.mod = 0) (hi : f'.imx.length ≤ 3) :
    Continues page f w := by
  refine ⟨page', f', ⟨hp, hm, hi, ?_⟩, e⟩
  rw [e, List.length_append, List.length_singleton]
  omega

/-- A word that keeps the order of R16 goes on with the chain, but for a first word that names a reserved page. -/
theorem continues_or_reserved (h : chainOk page f) (hw : isPrefixWord w = true) (hb : ¬ breaks page f w) :
    Continues page f w ∨ prefixWords page f = [] ∧ ∃ q m, q < 16 ∧ (q = 0 ∨ 12 ≤ q) ∧ w = pageWord q m := by
  obtain ⟨hp, hm, hi, hl⟩ := h
  have hn : (prefixWords page f).length < 4 := Nat.lt_of_le_of_ne hl fun e => hb (.inl e)
  obtain ⟨q, m, hq, rfl⟩ | ⟨r, rfl⟩ | ⟨q, rfl⟩ | ⟨p, rfl⟩ := prefixWord_cases hw
  · have hs : prefixWords page f = [] := by simpa [breaks, hn.ne, prefixKind_pageWord hq] using hb
    by_cases h0 : q = 0 ∨ 12 ≤ q
    · exact .inr ⟨hs, q, m, hq, h0, rfl⟩
    · push Not at h0
      obtain ⟨-, h1, h2, h3⟩ := prefixWords_eq_nil.mp hs
      have e : prefixWords q { f with mod := m } = prefixWords page f ++ [pageWord q m] := by
        rw [hs]
        simp [prefixWords, h1, h2, h3, h0.1]
      exact .inl (.intro e hn h0.2 (fun hq => absurd hq h0.1) hi)
  · have hs : f.reg = none ∧ f.qual = none ∧ f.imx = [] := by
      simpa [breaks, hn.ne, prefixKind_prefixWord (kind := 1)] using hb
    obtain ⟨h1, h2, h3⟩ := hs
    exact .inl (.intro (prefixWords_reg h1 h2 h3 r) hn hp hm hi)
  · have hs : f.qual = none ∧ f.imx = [] := by simpa [breaks, hn.ne, prefixKind_prefixWord (kind := 3)] using hb
    obtain ⟨h2, h3⟩ := hs
    exact .inl (.intro (prefixWords_qual h2 h3 q) hn hp hm hi)
  · have hs : f.imx.length ≠ 3 := by simpa [breaks, hn.ne, prefixKind_prefixWord (kind := 0)] using hb
    have hi' : f.imx.length < 3 := Nat.lt_of_le_of_ne hi hs
    exact .inl (.intro (prefixWords_imx p) hn hp hm (by simpa using hi'))

end

/-! ## Where decoding ends -/

/-- The words after the longest chain of prefixes that R16 allows: none, a prefixing word that breaks the chain or names a
reserved page, or a base word. -/
inductive EndsChain (page : Nat) (f : Fields) : List Halfword → Prop where
  | short : EndsChain page f []
  | breaks {w ws} : isPrefixWord w = true → breaks page f w → EndsChain page f (w :: ws)
  | reserved {q m ws} : prefixWords page f = [] → q < 16 → q = 0 ∨ 12 ≤ q → EndsChain page f (pageWord q m :: ws)
  | base {op ws} : op < 56 → EndsChain page f (baseWord op f.d f.s :: ws)

theorem endsChain_after (ws : List Halfword) {page : Nat} {f : Fields} (h : chainOk page f) :
    ∃ page' f' rest, chainOk page' f' ∧ prefixWords page f ++ ws = prefixWords page' f' ++ rest ∧ EndsChain page' f' rest := by
  induction ws generalizing page f with
  | nil => exact ⟨page, f, [], h, rfl, .short⟩
  | cons w ws ih =>
    by_cases hw : isPrefixWord w = true
    · by_cases hb : breaks page f w
      · exact ⟨page, f, _, h, rfl, .breaks hw hb⟩
      · obtain ⟨page', f', h', e⟩ | ⟨hn, q, m, hq, h0, rfl⟩ := continues_or_reserved h hw hb
        · obtain ⟨page'', f'', rest, h'', e', hr⟩ := ih h'
          exact ⟨page'', f'', rest, h'', by rw [← e', e, List.append_assoc, List.singleton_append], hr⟩
        · exact ⟨page, f, _, h, rfl, .reserved hn hq h0⟩
    · refine ⟨page, { f with d := BitVec.ofNat 5 (bitsOf w.toNat 9 5), s := w.setWidth 5 }, w :: ws, h, rfl, ?_⟩
      conv_rhs => rw [← baseWord_op_d_s w]
      exact .base (op_lt_of_not_prefix hw)

/-- Every list of words is a chain that R16 allows and what ends it. -/
theorem exists_endsChain (ws : List Halfword) :
    ∃ page f rest, chainOk page f ∧ ws = prefixWords page f ++ rest ∧ EndsChain page f rest :=
  endsChain_after (page := 0) (f := {}) ws ⟨by decide, fun _ => rfl, by decide, by decide⟩

/-! ## What a chain and its end decode to -/

section
variable {page : Nat} {f : Fields} (h : chainOk page f)
include h

theorem decode_breaks {w : Halfword} (hw : isPrefixWord w = true) (hb : breaks page f w) (ws : List Halfword) :
    decode (prefixWords page f ++ w :: ws) = .illegal 0x01 (prefixWords page f).length w page :=
  (readsTo_chainAfter h).decode_refused hw (takePrefix_of_breaks hw hb) ws

theorem decode_unassigned {op : Nat} (ho : op < 56) (hc : constructorOf page op = none) (ws : List Halfword) :
    decode (prefixWords page f ++ baseWord op f.d f.s :: ws) =
      .illegal 0x01 (prefixWords page f).length (baseWord op f.d f.s) page := by
  rw [(readsTo_chainAfter h).decode_base (isPrefixWord_baseWord ho ..), takeBase_unassigned ho _ hc]

theorem decode_assigned {op : Nat} {mk : Fields → Instr} (hc : constructorOf page op = some mk) (ws : List Halfword) :
    decode (prefixWords page f ++ baseWord op f.d f.s :: ws) =
      if (mk f).wf then .ok (mk f) ((prefixWords page f).length + 1)
      else .illegal 0x01 (prefixWords page f).length (baseWord op f.d f.s) page := by
  rw [(readsTo_chainAfter h).decode_base (isPrefixWord_baseWord (bounds_of_constructorOf hc).2 ..), takeBase_assigned _ hc]

end

theorem decode_reserved_page {q : Nat} (hq : q < 16) (h0 : q = 0 ∨ 12 ≤ q) (m : BitVec 7) (ws : List Halfword) :
    decode (pageWord q m :: ws) = .illegal (if q = 0 then 0x01 else 0x02) 0 (pageWord q m) 0 :=
  readsTo_nil.decode_refused (isPrefixWord_pageWord hq m) (takePrefix_reserved_page (page := 0) (f := {}) rfl hq h0 m) ws

end Sys2Proof
end

section
/-! PROOFS. What decodes: the words of the well-formed instructions, and nothing else. -/

set_option Elab.async false

namespace Sys2Proof

open Claims (prefixWords chainOk pageWord)

/-! ## Well-formed instructions -/

theorem Row.ok_iff (r : Row) (f : Fields) : r.ok f = true ↔
    f.imx.length ≤ r.imx ∧ f.imx.length ≤ 3 ∧ f.prefixes r.page ≤ 4 ∧ (r.regReq = true → f.reg.isSome = true) ∧
      r.mod f.mod = true ∧ r.qual.ok f = true ∧ r.fieldsOk f = true ∧ r.extra f = true := by
  simp [Row.ok, and_assoc, imp_iff_not_or]

/-- The chain of a well-formed instruction is one that R16 allows. -/
theorem chainOk_of_wf {i : Instr} {r : Row} {f : Fields} (hr : i.row = some (r, f)) (h : i.wf = true) : chainOk r.page f := by
  obtain ⟨mk, hc, -⟩ := constructorOf_of_row hr
  rw [wf_of_row hr, Row.ok_iff] at h
  obtain ⟨-, himx, hlen, -, hmod, -⟩ := h
  refine ⟨(bounds_of_constructorOf hc).1, fun hp => ?_, himx, by rwa [prefixWords_length]⟩
  rw [mod_of_page_zero hr hp] at hmod
  exact eq_of_beq hmod

theorem encode_length_of_row {i : Instr} {r : Row} {f : Fields} (hr : i.row = some (r, f)) (hp : r.page < 12) :
    (encode i).length = f.prefixes r.page + 1 := by
  rw [encode_of_row hr (by omega), List.length_append, prefixWords_length, List.length_singleton]

theorem decode_encode_append {i : Instr} (hi : i.isEvent = false) (h : i.wf = true) (ws : List Halfword) :
    decode (encode i ++ ws) = .ok i (encode i).length := by
  obtain ⟨r, f, hr⟩ := row_of_not_isEvent hi
  have hc := chainOk_of_wf hr h
  obtain ⟨mk, hmk, rfl⟩ := constructorOf_of_row hr
  rw [encode_length_of_row hr hc.1, encode_of_row hr (hc.1.trans (by decide)), List.append_assoc, List.singleton_append,
    decode_assigned hc hmk, if_pos h, prefixWords_length]

/-- Settles O51: the decoder reads the chain of a well-formed instruction word by word, and its base word names it. -/
theorem decodeEncode : Obligations.DecodeEncode := by
  intro i ws hi h
  obtain ⟨r, f, hr⟩ := row_of_not_isEvent hi
  obtain ⟨hp, -, -, hl⟩ := chainOk_of_wf hr h
  rw [prefixWords_length] at hl
  have e := encode_length_of_row hr hp
  exact ⟨decode_encode_append hi h ws, by rw [e, Machine.instrLen, hr], by omega⟩

/-- Settles O52: each list of words is decoded. -/
theorem decodeWords : Obligations.DecodeWords := by
  unfold Obligations.DecodeWords
  decide

/-! ## What decodes -/

/-- The words that a base word ends decode to a well-formed instruction, whose words they are. -/
theorem decode_ok {ws : List Halfword} {i : Instr} {n : Nat} (h : decode ws = .ok i n) :
    i.isEvent = false ∧ i.wf = true ∧ n ≤ 5 ∧ ws.take n = encode i := by
  obtain ⟨page, f, rest, hc, rfl, he⟩ := exists_endsChain ws
  cases he with
  | short => cases ((readsTo_chainAfter hc).decode_end).symm.trans (by simpa using h)
  | breaks hw hb => cases (decode_breaks hc hw hb _).symm.trans h
  | reserved hn hq h0 =>
    rw [hn] at h
    cases (decode_reserved_page hq h0 _ _).symm.trans h
  | @base op _ ho =>
    cases hmk : constructorOf page op with
    | none => cases (decode_unassigned hc ho hmk _).symm.trans h
    | some mk =>
      rw [decode_assigned hc hmk] at h
      split_ifs at h with hwf
      cases h
      obtain ⟨r, hr, rfl, rfl⟩ := row_of_constructorOf hmk f
      obtain ⟨hp, -, -, hl⟩ := hc
      refine ⟨isEvent_of_row hr, hwf, by omega, ?_⟩
      rw [encode_of_row hr (by omega), List.take_append, List.take_of_length_le (by omega)]
      simp

/-- The words that the decoder refuses: a chain that R16 allows and the word that ends it. -/
theorem decode_illegal {ws : List Halfword} {c : BitVec 8} {k : Nat} {w : Halfword} {page : Nat}
    (h : decode ws = .illegal c k w page) :
    ∃ f rest, chainOk page f ∧ ws = prefixWords page f ++ w :: rest ∧ k = (prefixWords page f).length ∧
      (c = 0x01 ∨ c = 0x02 ∧ k = 0 ∧ 12 ≤ w.toNat / 2 ^ 7 % 16) := by
  obtain ⟨page', f, rest, hc, rfl, he⟩ := exists_endsChain ws
  cases he with
  | short => cases ((readsTo_chainAfter hc).decode_end).symm.trans (by simpa using h)
  | @breaks u ws hw hb =>
    cases (decode_breaks hc hw hb _).symm.trans h
    exact ⟨f, ws, hc, rfl, rfl, .inl rfl⟩
  | @reserved q m ws hn hq h0 =>
    have hp : page' = 0 := (prefixWords_eq_nil.mp hn).1
    subst hp
    rw [hn] at h
    cases (decode_reserved_page hq h0 _ _).symm.trans h
    refine ⟨f, ws, hc, rfl, by rw [hn]; rfl, ?_⟩
    obtain rfl | h12 := h0
    · exact .inl rfl
    · have := m.isLt
      refine .inr ⟨if_neg (by omega), rfl, ?_⟩
      rw [pageWord_toNat hq]
      omega
  | @base op ws ho =>
    have : decode (prefixWords page' f ++ baseWord op f.d f.s :: ws) =
        .illegal 0x01 (prefixWords page' f).length (baseWord op f.d f.s) page' := by
      cases hmk : constructorOf page' op with
      | none => exact decode_unassigned hc ho hmk _
      | some mk =>
        rw [decode_assigned hc hmk] at h ⊢
        split_ifs at h with hwf
        exact if_neg hwf
    cases this.symm.trans h
    exact ⟨f, ws, hc, rfl, rfl, .inl rfl⟩

/-- The first word of a chain tells the page in effect (R22). -/
theorem page_of_first {page : Nat} {f : Fields} {w : Halfword} (h : (prefixWords page f)[0]? = some w) :
    page = 0 ∧ prefixKind w ≠ 2 ∨ w = pageWord page f.mod := by
  by_cases h0 : page = 0
  · have hw : w ∈ prefixWords page f := List.mem_of_getElem? h
    refine .inl ⟨h0, ?_⟩
    simp only [prefixWords, h0, if_true, List.nil_append, List.mem_append, List.mem_map] at hw
    obtain (⟨r, -, rfl⟩ | ⟨q, -, rfl⟩) | ⟨p, -, rfl⟩ := hw
    all_goals
      rw [prefixKind_prefixWord (by decide)]
      decide
  · rw [prefixWords, if_neg h0] at h
    exact .inr (Option.some.inj h).symm

/-- What R27 says of the words: the position, the word and the page in effect. -/
theorem decode_illegal_reports {ws : List Halfword} {c : BitVec 8} {k : Nat} {w : Halfword} {page : Nat}
    (h : decode ws = .illegal c k w page) :
    (c = 0x01 ∨ c = 0x02) ∧ ws[k]? = some w ∧ (∀ j u, j < k → ws[j]? = some u → isPrefixWord u = true) ∧
      (k = 0 → page = 0) ∧ (c = 0x02 → page = 0 ∧ 12 ≤ w.toNat / 2 ^ 7 % 16) ∧
      (∀ m q, ws[0]? = some (pageWord q m) → q < 16 → 0 < k → page = q) ∧
      (∀ u, ws[0]? = some u → prefixKind u ≠ 2 ∨ isPrefixWord u = false → page = 0) ∧ k ≤ 4 ∧ page < 12 := by
  obtain ⟨f, rest, ⟨hp, -, -, hl⟩, rfl, rfl, hc⟩ := decode_illegal h
  have hk0 (hk : (prefixWords page f).length = 0) : page = 0 := (prefixWords_eq_nil.mp (List.length_eq_zero_iff.mp hk)).1
  have hat {j : Nat} (hj : j < (prefixWords page f).length) : (prefixWords page f ++ w :: rest)[j]? = (prefixWords page f)[j]? :=
    List.getElem?_append_left hj
  refine ⟨hc.imp id And.left, by simp, fun j u hj hu => ?_, hk0, fun h2 => ?_, fun m q hq hlt hk => ?_, fun u hu hn => ?_, hl, hp⟩
  · rw [hat hj] at hu
    exact isPrefixWord_of_mem_prefixWords (by omega) (List.mem_of_getElem? hu)
  · obtain h1 | ⟨-, hk, hw⟩ := hc
    · exact absurd (h1.symm.trans h2) (by decide)
    · exact ⟨hk0 hk, hw⟩
  · rw [hat hk] at hq
    obtain ⟨-, hn⟩ | he := page_of_first hq
    · exact absurd (prefixKind_pageWord hlt m) hn
    · exact (page_eq_of_pageWord_eq hlt (by omega) he).symm
  · obtain hk | hk := Nat.eq_zero_or_pos (prefixWords page f).length
    · exact hk0 hk
    rw [hat hk] at hu
    obtain ⟨h0, -⟩ | rfl := page_of_first hu
    · exact h0
    · simp [prefixKind_pageWord (show page < 16 by omega), isPrefixWord_pageWord (show page < 16 by omega)] at hn

end Sys2Proof
end

section
/-! PROOFS. The step of a strand's turn: it runs the instruction that the words at the PC decode to, or takes the trap of its fetch or
of an illegal word. -/

set_option Elab.async false

namespace Sys2Proof.Machine

open Claims (turn running)

/-! ## The step of a strand's turn (R89, R370) -/

section
variable {s : State} {p : PillarId} {t : StrandId} {ks : List Task}

theorem step_of_issue (he : s.effects = []) (ha : s.agenda = .issue p t :: ks) :
    step s = State.issueTurn { s with agenda := ks } p t := by
  simp only [step, he, ha, Task.run, Task.posts, Bool.false_and, Bool.false_eq_true, if_false, Task.perform]

/-- The strand whose turn it is runs the words at its PC, and the step notes that it has issued. -/
theorem step_of_turn (h : turn s p t ks) :
    let s' := running s p t ks
    step s = mapNext (State.noteIssue p t s'.st.pri (if s'.st.cw then some s'.sample else none)) s'.runFetched := by
  obtain ⟨he, ha, hb, hc⟩ := h
  rw [step_of_issue he ha, State.issueTurn, hb, hc, if_neg Bool.false_ne_true, if_pos rfl]
  rfl

end

section
variable {s : State}

theorem State.runFetched_ok {i : Instr} {n : Nat} (h : s.fetched = .ok i n) : s.runFetched = exec i s := by
  rw [State.runFetched, h]

theorem State.runFetched_illegal {c : BitVec 8} {k : Nat} {w : Halfword} {page : Nat} (h : s.fetched = .illegal c k w page) :
    s.runFetched = .next (s.takeTrap { cause := c, tval := illegalTval k w page }) := by
  rw [State.runFetched, h]
  rfl

theorem State.runFetched_short {k : Nat} {c : BitVec 8} {v : Word} (h : s.fetched = .short k)
    (hv : s.me.fetchFault s.st.fws (fetchAddr s.st.pc k) = some (c, v)) :
    s.runFetched = .next (s.takeTrap { cause := c, tval := v }) := by
  simp only [State.runFetched, h, hv]

end

/-! ## What a note of an issue changes (R90, R91, R108) -/

/-- A strand after the note that it has issued. -/
def Strand.issued (w : Option (Vector Word 8)) (r : Strand) : Strand :=
  { r.keepSample w with waitCount := 0, promoted := false }

theorem Strand.sampled_issued (w : Option (Vector Word 8)) (r : Strand) :
    (r.issued w).sampled = if r.blocked = .no then none else w := by
  simp [Strand.issued, Strand.keepSample]

section
variable (s : State) (p : PillarId) (t : StrandId) (pri : Nat) (w : Option (Vector Word 8))

theorem State.pil_noteIssue :
    (s.noteIssue p t pri w).pil p =
      { (s.pil p).modStrand t (Strand.issued w) with lastIssue := (s.pil p).lastIssue.setIfInBounds pri t } :=
  State.pil_modPil ..

theorem State.pil_noteIssue_other {q : PillarId} (h : q ≠ p) : (s.noteIssue p t pri w).pil q = s.pil q :=
  State.pil_modPil_other s _ h

theorem State.strandAt_noteIssue :
    (s.noteIssue p t pri w).strandAt p t = (s.strandAt p t).issued w := by
  rw [State.strandAt, State.pil_noteIssue]
  exact Pillar.strand_modStrand (s.pil p) t (Strand.issued w)

theorem sameBytes_noteIssue : SameBytes s (s.noteIssue p t pri w) := by
  refine ⟨fun q a => ?_, fun _ => rfl⟩
  by_cases hq : q = p
  · rw [hq, State.pil_noteIssue]
    rfl
  · rw [State.pil_noteIssue_other s p t pri w hq]

end

/-! ## Fetch (R13, R129) -/

/-- Words that can be fetched in a row stand at the head of what is fetched. -/
theorem Pillar.fetchFrom_append (x : Pillar) (fws : Bool) (pc : LsAddr) (ws : List Halfword) (n k : Nat)
    (h : ∀ j w, ws[j]? = some w →
      x.fetchFault fws (fetchAddr pc (k + j)) = none ∧ x.fetchWord fws (fetchAddr pc (k + j)) = w) :
    x.fetchFrom fws pc (ws.length + n) k = ws ++ x.fetchFrom fws pc n (k + ws.length) := by
  induction ws generalizing k with
  | nil => simp
  | cons w ws ih =>
    obtain ⟨h0, hw⟩ := h 0 w rfl
    have hs := ih (k + 1) fun j u hu => by
      rw [Nat.add_assoc, Nat.add_comm 1 j]
      exact h (j + 1) u hu
    rw [List.length_cons, Nat.succ_add, Pillar.fetchFrom]
    simp only [Nat.add_zero] at h0 hw
    simp only [h0, hw, Option.isSome_none, Bool.false_eq_true, if_false, hs, List.cons_append, Nat.add_assoc,
      Nat.add_comm 1]

/-- The words of a well-formed instruction at the PC decode to it. -/
theorem State.fetched_of_encode {s : State} {i : Instr} (hi : i.isEvent = false) (hwf : i.wf = true)
    (h : ∀ k w, (encode i)[k]? = some w →
      s.me.fetchFault s.st.fws (fetchAddr s.st.pc k) = none ∧ s.me.fetchWord s.st.fws (fetchAddr s.st.pc k) = w) :
    s.fetched = .ok i (encode i).length := by
  obtain ⟨hd, -, hl⟩ := decodeEncode i (s.me.fetchFrom s.st.fws s.st.pc (5 - (encode i).length) (encode i).length) hi hwf
  have hf := s.me.fetchFrom_append s.st.fws s.st.pc (encode i) (5 - (encode i).length) 0 (by simpa using h)
  rw [Nat.add_sub_cancel' hl, Nat.zero_add] at hf
  rw [State.fetched, State.fetchWords, hf, hd]

/-- Settles O53: the words at the PC decode to the instruction whose words they are (O51). -/
theorem stepRunsDecoded : Obligations.StepRunsDecoded := by
  refine ⟨?_, ?_, ?_⟩
  · intro s p t ks i ht hi hwf s' h
    have hf : s'.fetched = .ok i (encode i).length := State.fetched_of_encode hi hwf h
    exact ⟨hf, (step_of_turn ht).trans (congrArg (mapNext _) (State.runFetched_ok hf))⟩
  · intro s p t pri w s'
    have hr : s'.strandAt p t = _ := s.strandAt_noteIssue p t pri w
    rw [hr]
    exact ⟨Strand.sampled_issued w _, sameBytes_noteIssue s p t pri w, rfl, rfl, rfl, fun q => s.pil_noteIssue_other p t pri w⟩
  · intro s p t ks he ha hb hc
    rw [step_of_issue he ha, State.issueTurn, hb, hc, if_neg Bool.false_ne_true, if_neg Bool.false_ne_true]

/-! ## Reserved encodings -/

/-- Fields that break a rule of their instruction make it no well-formed one (R24, R25). -/
theorem wf_false_of_rule {i : Instr} {r : Row} {f : Fields} (hr : i.row = some (r, f))
    (h : r.fieldsOk f = false ∨ (r.qual = .refused ∧ f.qual ≠ none) ∨ r.imx < f.imx.length ∨ r.mod f.mod = false) :
    i.wf = false := by
  rw [wf_of_row hr, ← Bool.not_eq_true, Row.ok_iff]
  rintro ⟨himx, -, -, -, hmod, hqual, hfields, -⟩
  obtain h | ⟨hq, hf⟩ | h | h := h
  · exact absurd hfields (by simp [h])
  · obtain ⟨q, hf⟩ := Option.ne_none_iff_exists'.mp hf
    simp [QualRule.ok, hq, hf] at hqual
  · omega
  · exact absurd hmod (by simp [h])

/-- Settles O55: every list of words is a chain that R16 allows and what ends it, and each end has its answer. -/
theorem reservedEncodings : Obligations.ReservedEncodings := by
  refine ⟨fun m ws => decode_reserved_page (by decide) (.inl rfl) m ws, fun q m ws h12 hq => ?_,
    fun page f w ws hc hw hb => decode_breaks hc hw hb ws, fun page op f ws hc ho => ⟨fun hn => ?_, fun mk hmk => ?_⟩,
    fun i r f hr h => wf_false_of_rule hr h, fun ws i n h => decode_ok h, ?_⟩
  · rw [decode_reserved_page hq (.inr h12), if_neg (by omega)]
  · exact decode_unassigned hc ho hn ws
  · rw [decode_assigned hc hmk]
    exact ⟨fun h => by rw [h, if_neg Bool.false_ne_true], fun h => if_pos h⟩
  · intro s p t ks k c v ht s' hf hv
    exact ⟨_, (step_of_turn ht).trans (congrArg (mapNext _) (State.runFetched_short hf hv))⟩

/-! ## The trap of an illegal word (R27, R366) -/

theorem illegalTval_toNat {k page : Nat} (hk : k < 8) (hp : page < 16) (w : Halfword) :
    (illegalTval k w page).toNat = w.toNat + k * 2 ^ 16 + page * 2 ^ 19 := by
  have := w.isLt
  rw [illegalTval, word_eq, BitVec.toNat_ofNat]
  omega

/-- Bits 7:0 of TCAUSE are the cause (R364). -/
theorem trapCause_mod (e : TrapEvent) (r : Strand) : (trapCause e r).toNat % 256 = e.cause.toNat := by
  have := e.cause.isLt
  rw [trapCause, word_eq, BitVec.toNat_ofNat]
  omega

@[simp] theorem Strand.bank_setBank (r : Strand) {n : Nat} (b : Bank) : (r.setBank n b).bank n = b := by
  unfold Strand.bank Strand.setBank
  split_ifs <;> rfl

theorem Strand.bank_enterTrap (r : Strand) (x : Pillar) (e : TrapEvent) (n clk : Nat) :
    (r.enterTrap x e n clk).bank n = { r.bank n with
      tpc := r.pc, tcause := trapCause e r, tval := e.tval, tseq := trapSeq e, tstatus := r.status } :=
  Strand.bank_setBank ..

/-- A trap that counts no event of its own enters the handler of its target level (R366). -/
theorem State.takeTrap_of_target {s : State} {e : TrapEvent} {n : Nat} (hc : s.countCause e.cause = s)
    (h : trapTarget e s.st.lvl = some n) :
    s.takeTrap e = (s.modSt fun r => r.enterTrap s.me e n (s.aclk s.curP)).count 0x4C0 := by
  simp only [State.takeTrap, hc, h]

theorem State.st_count (s : State) (n k : Nat) : (s.count n k).st = s.st := s.st_modMe (·.count n k) fun _ => rfl

theorem State.bank_noteIssue {s : State} {p : PillarId} {t : StrandId} (hp : s.curP = p) (ht : s.curT = t) (pri : Nat)
    (w : Option (Vector Word 8)) (n : Nat) : (s.noteIssue p t pri w).st.bank n = s.st.bank n := by
  subst hp ht
  exact (congrArg (Strand.bank · n) (s.strandAt_noteIssue s.curP s.curT pri w)).trans rfl

theorem trapTarget_illegal {c : BitVec 8} (hc : c = 0x01 ∨ c = 0x02) (v : Word) :
    trapTarget { cause := c, tval := v } 0 = some 1 ∧ trapTarget { cause := c, tval := v } 1 = some 3 := by
  obtain rfl | rfl := hc <;> exact ⟨rfl, rfl⟩

/-- What an illegal instruction leaves in the bank of the level that handles it (R364, R366). -/
theorem bank_of_illegal {s : State} {c : BitVec 8} (hc : c = 0x01 ∨ c = 0x02) {v : Word} {n : Nat}
    (h : trapTarget { cause := c, tval := v } s.st.lvl = some n) (pri : Nat) (w : Option (Vector Word 8)) :
    let b := ((s.takeTrap { cause := c, tval := v }).noteIssue s.curP s.curT pri w).st.bank n
    b.tpc = s.st.pc ∧ b.tval = v ∧ b.tcause.toNat % 256 = c.toNat := by
  have hcount : s.countCause c = s := by obtain rfl | rfl := hc <;> rfl
  have ht := State.takeTrap_of_target (e := { cause := c, tval := v }) hcount h
  have hb := State.bank_noteIssue (s := s.takeTrap { cause := c, tval := v }) (p := s.curP) (t := s.curT)
    (by rw [ht]; rfl) (by rw [ht]; rfl) pri w n
  rw [hb, ht, State.st_count, State.st_modSt, Strand.bank_enterTrap]
  exact ⟨rfl, rfl, trapCause_mod _ _⟩

theorem step_of_illegal {s : State} {p : PillarId} {t : StrandId} {ks : List Task} (ht : turn s p t ks) {c : BitVec 8} {k : Nat}
    {w : Halfword} {page : Nat} (hf : (running s p t ks).fetched = .illegal c k w page) :
    ∃ pri x, step s = .next (((running s p t ks).takeTrap { cause := c, tval := illegalTval k w page }).noteIssue p t pri x) :=
  ⟨_, _, (step_of_turn ht).trans (congrArg (mapNext _) (State.runFetched_illegal hf))⟩

/-- Settles O54: the refused words are a chain and the word that ends it; the trap goes to the bank of its handler. -/
theorem illegalInstructionTrap : Obligations.IllegalInstructionTrap := by
  intro s p t ks c k w page ht s' hf
  obtain ⟨hc, hw, hpre, h0, h2, hpage, hno, hk, hp⟩ := decode_illegal_reports hf
  obtain ⟨pri, x, hs⟩ := step_of_illegal ht hf
  obtain ⟨hu, hv⟩ := trapTarget_illegal hc (illegalTval k w page)
  exact ⟨hc, hw, hpre, h0, h2, hpage, hno, _, _, hs, rfl, illegalTval_toNat (by omega) (by omega) w, by omega, by omega,
    fun hl => bank_of_illegal hc (by rw [hl, hu]) pri x, fun hl => bank_of_illegal hc (by rw [hl, hv]) pri x⟩

end Sys2Proof.Machine
end

section
/-! PROOFS. What reset leaves in the units. -/

set_option Elab.async false

namespace Sys2Proof.Machine

/-- Spool q0 holds all the slots at reset, and no other spool any (R222). -/
theorem Pillar.reset_spool_count {q : Nat} (hq : q < 8) :
    (Pillar.reset.mtx.spool q).count = if q = 0 then 32 else 0 := by
  match q, hq with
  | 0, _ | 1, _ | 2, _ | 3, _ | 4, _ | 5, _ | 6, _ | 7, _ => rfl

theorem State.reset_lq {n : Nat} (hn : n < 16) : State.reset.lq n = {} := by
  simp [State.lq, State.reset, hn]

theorem State.reset_stack {n : Nat} (hn : n < 4) : State.reset.stack n = {} := by
  simp [State.stack, State.reset, hn]

theorem Pillar.strand_reset (t : StrandId) : Pillar.reset.strand t = Strand.reset := by
  simp [Pillar.strand, Pillar.reset]

/-- Every general register is zero at reset (log entry 1). -/
theorem Strand.reg_reset (n : Nat) : Strand.reset.reg n = {} := by
  unfold Strand.reg Strand.reset
  by_cases hn : n < 64 <;> simp [hn]

/-- Settles O60: each unit at reset has the values of its power-on record. -/
theorem resetState : Obligations.ResetState := by
  refine ⟨⟨Memory.wf_empty, NatSet.rising_empty, fun _ h => absurd h List.not_mem_nil⟩, State.reset_mem_wf, Memory.get_empty,
    rfl, rfl, rfl, rfl, fun n hn => ?_, fun n hn => ?_, fun p => ?_⟩
  · rw [State.reset_lq hn]
    exact ⟨rfl, rfl, rfl, rfl⟩
  · rw [State.reset_stack hn]
    exact ⟨rfl, rfl⟩
  · rw [State.reset_pil]
    refine ⟨rfl, rfl, rfl, rfl, rfl, rfl, rfl, rfl, rfl, rfl, Pillar.reset_spool_count (by decide), fun q h0 hq => ?_, fun t => ?_⟩
    · rw [Pillar.reset_spool_count hq, if_neg h0.ne']
    · rw [Pillar.strand_reset]
      exact ⟨rfl, rfl, rfl, rfl, Strand.reg_reset, rfl⟩

end Sys2Proof.Machine
end

section
/-! PROOFS. What vector instructions do to lanes: a lane after a register is updated, lanes written under the mask, and the
strand after the oldest instruction of the vector unit completes. -/

set_option Elab.async false

namespace Sys2Proof.Machine

/-! ## Lanes of one register (R164, R165) -/

theorem VReg.lane_lt (r : VReg) (w i : Nat) : (r.lane w i).1 < 2 ^ w := Nat.mod_lt _ (by positivity)

theorem lane_end_le {w i : Nat} (hi : i < lanesOf w) : w * i + w ≤ 512 := by
  have h1 : w * (i + 1) ≤ w * lanesOf w := Nat.mul_le_mul_left w hi
  have h2 : w * lanesOf w ≤ 512 := Nat.mul_div_le 512 w
  rw [Nat.mul_succ] at h1
  omega

theorem VReg.testBit_lane (r : VReg) (w i n : Nat) :
    (r.lane w i).1.testBit n = (decide (n < w) && r.bits.toNat.testBit (w * i + n)) := by
  rw [VReg.lane, Nat.testBit_mod_two_pow, Nat.testBit_div_two_pow, Nat.add_comm]

/-- The bits of a register with lane i written, if it is written. -/
def writeLane (w : Nat) (u : Nat → Option (Nat × Bool)) (b i : Nat) : Nat := (u i).elim b fun x => setLaneBits b w i x.1

/-- A bit of lane i after lane j is written. -/
theorem testBit_writeLane (u : Nat → Option (Nat × Bool)) (b : Nat) {w k : Nat} (hk : k < w) (i j : Nat) :
    (writeLane w u b j).testBit (w * i + k) =
      if i = j then (u j).elim (b.testBit (w * i + k)) fun x => x.1.testBit k else b.testBit (w * i + k) := by
  unfold writeLane
  cases u j with
  | none => simp
  | some x =>
    show (setLaneBits b w j x.1).testBit (w * i + k) = _
    rw [setLaneBits, testBit_replaceBits]
    by_cases hij : i = j
    · subst hij
      rw [if_pos (by omega), if_pos rfl, Nat.add_sub_cancel_left]
      rfl
    · rw [if_neg hij, if_neg]
      rintro ⟨h1, h2⟩
      have h3 : j < i + 1 := Nat.lt_of_mul_lt_mul_left (a := w) (by rw [Nat.mul_succ]; omega)
      have h4 : i < j + 1 := Nat.lt_of_mul_lt_mul_left (a := w) (by rw [Nat.mul_succ]; omega)
      omega

/-- A bit of lane i after the lanes below n are written. -/
theorem testBit_writeLanes (u : Nat → Option (Nat × Bool)) (b : Nat) {w k : Nat} (hk : k < w) (n i : Nat) :
    ((List.range n).foldl (writeLane w u) b).testBit (w * i + k) =
      if i < n then (u i).elim (b.testBit (w * i + k)) fun x => x.1.testBit k else b.testBit (w * i + k) := by
  induction n with
  | zero => simp
  | succ n ih =>
    rw [List.range_succ, List.foldl_append, List.foldl_cons, List.foldl_nil, testBit_writeLane u _ hk, ih]
    by_cases h : i = n
    · subst h
      simp
    · have : i < n + 1 ↔ i < n := by omega
      simp [h, this]

theorem VReg.update_bits (r : VReg) (w : Nat) (u : Nat → Option (Nat × Bool)) :
    (r.update w u).bits = BitVec.ofNat 512 ((List.range (lanesOf w)).foldl (writeLane w u) r.bits.toNat) := by
  refine congrArg (BitVec.ofNat 512) (congrArg (fun g => (List.range (lanesOf w)).foldl g r.bits.toNat) ?_)
  funext b i
  unfold writeLane
  cases u i <;> rfl

/-- A lane that is written takes the low bits of its value, and any other keeps its own (R166). -/
theorem VReg.lane_update (r : VReg) (u : Nat → Option (Nat × Bool)) {w i : Nat} (hi : i < lanesOf w) :
    ((r.update w u).lane w i).1 = (u i).elim (r.lane w i).1 fun x => x.1 % 2 ^ w := by
  have he := lane_end_le hi
  apply Nat.eq_of_testBit_eq
  intro k
  rw [VReg.testBit_lane]
  by_cases hk : k < w
  · have hb : w * i + k < 512 := by omega
    rw [VReg.update_bits, BitVec.testBit_toNat, BitVec.getLsbD_ofNat, testBit_writeLanes u _ hk, if_pos hi]
    cases u i <;> simp [hk, hb, VReg.testBit_lane, Nat.testBit_mod_two_pow]
  · cases u i <;> simp [hk, VReg.testBit_lane, Nat.testBit_mod_two_pow]

/-! ## Lanes of one register or of a pair (R171, R172) -/

theorem Strand.lane_lt (t : Strand) (n w i : Nat) : (t.lane n w i).1 < 2 ^ w := VReg.lane_lt ..

theorem Strand.vreg_setV (t : Strand) {n : Nat} (hn : n < 32) (r : VReg) (m : Nat) :
    (t.setV n r).vreg m = if m = n then r else t.vreg m := by
  unfold Strand.setV Strand.vreg
  by_cases h : m = n
  · subst h
    simp [hn]
  · simp [h, Ne.symm h]

/-- Updates lanes of some registers, each by its own function. -/
def Strand.updateRegs (t : Strand) (n w regs : Nat) (u : Nat → Nat → Option (Nat × Bool)) : Strand :=
  (List.range regs).foldl (fun t' j => t'.setV (n + j) ((t.vreg (n + j)).update w (u j))) t

theorem Strand.vreg_updateRegs (t : Strand) {n regs : Nat} (h : n + regs ≤ 32) (w : Nat)
    (u : Nat → Nat → Option (Nat × Bool)) (j : Nat) :
    (t.updateRegs n w regs u).vreg (n + j) = if j < regs then (t.vreg (n + j)).update w (u j) else t.vreg (n + j) := by
  unfold Strand.updateRegs
  suffices hs : ∀ (k : Nat), k ≤ regs →
      ((List.range k).foldl (fun t' j => t'.setV (n + j) ((t.vreg (n + j)).update w (u j))) t).vreg (n + j) =
        if j < k then (t.vreg (n + j)).update w (u j) else t.vreg (n + j) from hs regs le_rfl
  intro k hk
  induction k with
  | zero => rfl
  | succ k ih =>
    rw [List.range_succ, List.foldl_append, List.foldl_cons, List.foldl_nil, Strand.vreg_setV _ (by omega), ih (by omega)]
    by_cases hj : j = k
    · subst hj
      simp
    · have h1 : ¬ n + j = n + k := by omega
      have h2 : j < k + 1 ↔ j < k := by omega
      rw [if_neg h1, if_congr h2 rfl rfl]

theorem Strand.lane_updateRegs (t : Strand) {n regs : Nat} (h : n + regs ≤ 32) {w i : Nat}
    (u : Nat → Nat → Option (Nat × Bool)) (hi : i < regs * lanesOf w) :
    ((t.updateRegs n w regs u).lane n w i).1 =
      (u (i / lanesOf w) (i % lanesOf w)).elim (t.lane n w i).1 fun x => x.1 % 2 ^ w := by
  have hl : 0 < lanesOf w := Nat.pos_of_ne_zero fun e => by simp [e] at hi
  unfold Strand.lane
  rw [Strand.vreg_updateRegs t h, if_pos ((Nat.div_lt_iff_lt_mul hl).mpr hi), VReg.lane_update _ _ (Nat.mod_lt _ hl)]

theorem Strand.lane_of_lt (t : Strand) (n : Nat) {w i : Nat} (hi : i < lanesOf w) : t.lane n w i = (t.vreg n).lane w i := by
  rw [Strand.lane, Nat.div_eq_of_lt hi, Nat.mod_eq_of_lt hi, Nat.add_zero]

/-- One register's lanes updated. -/
theorem Strand.lane_setV_update (t : Strand) {n : Nat} (hn : n < 32) {w i : Nat} (u : Nat → Option (Nat × Bool))
    (hi : i < lanesOf w) :
    ((t.setV n ((t.vreg n).update w u)).lane n w i).1 = (u i).elim (t.lane n w i).1 fun x => x.1 % 2 ^ w := by
  have h := t.lane_updateRegs (n := n) (regs := 1) hn (fun _ => u) (by rwa [Nat.one_mul])
  rwa [Nat.mod_eq_of_lt hi] at h

theorem Strand.active_iff (t : Strand) (k i : Nat) : t.active k i = (t.k k).bits.getLsbD i := bitOf_testBit _ _

theorem zFlag_iff (f : Fields) : zFlag f = true ↔ f.flags / 8 % 2 = 1 := by
  rw [zFlag, bitOf_eq, decide_eq_true_eq, show 2 ^ 3 = 8 from rfl]

theorem satFlag_eq (f : Fields) : satFlag f = (f.flags / 4 % 2 == 1) := bitOf_eq _ _

theorem Dispatched.vrm_eq (d : Dispatched) : d.vrm = d.fmt.toNat % 4 := by
  rw [Dispatched.vrm, wordBits_eq, Nat.pow_zero, Nat.div_one, show 2 ^ (1 + 1 - 0) = 4 from rfl]

/-- A lane that the mask leaves out becomes zero under Z and keeps its value without (R166). -/
theorem elim_inactive (f : Fields) (bad : Bool) {w v : Nat} (hv : v < 2 ^ w) :
    ((if zFlag f = true then some (0, bad) else if bad = true then some (v, true) else none : Option (Nat × Bool)).elim v
      fun x => x.1 % 2 ^ w) = if f.flags / 8 % 2 = 1 then 0 else v := by
  by_cases hz : zFlag f = true
  · rw [if_pos hz, if_pos ((zFlag_iff f).mp hz)]
    exact Nat.zero_mod _
  · rw [if_neg hz, if_neg (hz ∘ (zFlag_iff f).mpr)]
    cases bad
    · rfl
    · exact Nat.mod_eq_of_lt hv

/-- What a lane of a register becomes under the mask and Z (R166, R172). -/
theorem Strand.lane_writeMasked (t : Strand) {f : Fields} {regs : Nat} (h : f.dNum + regs ≤ 32) (w : Nat) (x : Nat → Nat × Bool)
    {i : Nat} (hi : i < regs * (512 / w)) :
    ((t.writeMasked f w regs x).lane f.dNum w i).1 =
      if (t.k f.kNum).bits.getLsbD i = true then (x i).1 % 2 ^ w
      else if f.flags / 8 % 2 = 1 then 0 else (t.lane f.dNum w i).1 := by
  refine (t.lane_updateRegs h _ hi).trans ?_
  dsimp only
  rw [Nat.div_add_mod', Strand.active_iff]
  by_cases ha : (t.k f.kNum).bits.getLsbD i = true
  · rw [if_pos ha, if_pos ha]
    rfl
  · rw [if_neg ha, if_neg ha]
    exact elim_inactive f _ (t.lane_lt f.dNum w i)

/-! ## Completion (R167, R173) -/

theorem State.strandAt_focus (s : State) (p q : PillarId) (t u : StrandId) : (s.focus p t).strandAt q u = s.strandAt q u := rfl

/-- The end of an instruction changes nothing but its ring entry (R373). -/
theorem Pillar.endSeq_eq (x : Pillar) (seq : BitVec 16) : ∃ r, x.endSeq seq = { x with ring := r } := by
  unfold Pillar.endSeq Pillar.modRing
  split
  · split
    · exact ⟨_, rfl⟩
    · exact ⟨x.ring, rfl⟩
  · exact ⟨x.ring, rfl⟩

@[simp] theorem Pillar.endSeq_ls (x : Pillar) (seq : BitVec 16) : (x.endSeq seq).ls = x.ls := by
  obtain ⟨r, h⟩ := x.endSeq_eq seq
  rw [h]

@[simp] theorem Pillar.endSeq_mtx (x : Pillar) (seq : BitVec 16) : (x.endSeq seq).mtx = x.mtx := by
  obtain ⟨r, h⟩ := x.endSeq_eq seq
  rw [h]

@[simp] theorem Pillar.endSeq_strand (x : Pillar) (seq : BitVec 16) (t : StrandId) : (x.endSeq seq).strand t = x.strand t := by
  obtain ⟨r, h⟩ := x.endSeq_eq seq
  rw [h]
  rfl

/-- What the vector unit leaves of its pillar when an instruction has completed. -/
def vectorRetired (d : Dispatched) (x : Pillar) : Pillar :=
  Pillar.endSeq { x with vec := { x.vec with accepted := x.vec.accepted.erase d } } d.seq

/-- A vector instruction that changes nothing but its strand completes. -/
theorem vectorComplete_of_modSt {p : PillarId} {t : StrandId} {s : State} {d : Dispatched} {e : VEffect} {f : Fields}
    {g : Strand → Strand} (hd : (s.pil p).vec.accepted.find? (fun d => d.strand == t) = some d)
    (he : vectorEffect d = some (e, f)) (hs : e d f (s.focus p t) = .ok ((s.focus p t).modSt g)) :
    ∃ s', exec (.vectorComplete p t) s = .next s' ∧ SameBytes s s' ∧ s'.strandAt p t = g (s.strandAt p t) := by
  have hn : exec (.vectorComplete p t) s =
      .next ((((s.focus p t).modSt g).modMe (vectorRetired d)).focus s.curP s.curT) := by
    rw [exec_vectorComplete, execVectorComplete, hd]
    dsimp only
    rw [he]
    dsimp only
    rw [hs]
    rfl
  have hp : (((s.focus p t).modSt g).modMe (vectorRetired d)).pil p = vectorRetired d ((s.pil p).modStrand t g) := by
    rw [State.modSt_eq, State.modMe_modMe]
    exact State.pil_modPil _ _ _
  refine ⟨_, hn, ⟨fun q a => ?_, fun _ => rfl⟩, ?_⟩
  · show ((((s.focus p t).modSt g).modMe (vectorRetired d)).pil q).ls.bytes.get a = _
    by_cases hq : q = p
    · rw [hq, hp, vectorRetired, Pillar.endSeq_ls]
      rfl
    · rw [State.modSt_eq, State.modMe_modMe, State.pil_modMe_other _ _ hq]
      rfl
  · show ((((s.focus p t).modSt g).modMe (vectorRetired d)).pil p).strand t = _
    rw [hp, vectorRetired, Pillar.endSeq_strand]
    exact Pillar.strand_modStrand _ _ _

/-- A vector instruction that writes a general register completes: the register is no longer pending (R100). -/
theorem vectorComplete_of_writePending {p : PillarId} {t : StrandId} {s : State} {d : Dispatched} {e : VEffect} {f : Fields}
    {n : Nat} {v : PWord} (hd : (s.pil p).vec.accepted.find? (fun d => d.strand == t) = some d)
    (he : vectorEffect d = some (e, f)) (hs : e d f (s.focus p t) = .ok ((s.focus p t).writePending n v)) (h0 : n ≠ 0)
    (hn : n < 64) :
    ∃ s', exec (.vectorComplete p t) s = .next s' ∧ (s'.strandAt p t).reg n = v ∧
      (s'.strandAt p t).pending = (s.strandAt p t).pending.erase n := by
  obtain ⟨s', hs', -, hr⟩ := vectorComplete_of_modSt hd he hs
  refine ⟨s', hs', ?_, congrArg Strand.pending hr⟩
  have hg : (s'.strandAt p t).g = ((s.strandAt p t).setReg n v).g := (congrArg Strand.g hr).trans rfl
  rw [Strand.reg_congr hg, Strand.reg_setReg _ _ _ _ hn, if_pos ⟨rfl, h0⟩]

end Sys2Proof.Machine
end

section
/-! PROOFS. Lanes of the floating-point, bit-wise, moving and comparing vector instructions. -/

set_option Elab.async false

namespace Sys2Proof.Machine

open Claims (completes lanesBecome laneInt intLane typeRange)

/-! ## What a well-formed vector instruction names (R24, R165, R171) -/

section
variable {i : Instr} {r : Row} {f : Fields} (hr : i.row = some (r, f)) (h : i.wf = true)
include hr h

theorem dest_ok_of_row (hf : r.form = .rr2 ∨ r.form = .rr1 ∨ r.form = .ri) : r.d.ok f f.dNum = true := by
  rw [wf_of_row hr, Row.ok_iff] at h
  obtain ⟨-, -, -, -, -, -, hfields, -⟩ := h
  unfold Row.fieldsOk at hfields
  obtain hf | hf | hf := hf <;> simp only [hf, Bool.and_eq_true] at hfields <;> tauto

theorem dNum_lt_of_row (hf : r.form = .rr2 ∨ r.form = .rr1 ∨ r.form = .ri) (hv : r.d = .v) : f.dNum + 1 ≤ 32 := by
  have hd := dest_ok_of_row hr h hf
  rw [hv] at hd
  exact of_decide_eq_true hd

/-- The registers of a pair end within the file, as the first is even. -/
theorem pairRegs_of_row (hf : r.form = .rr2 ∨ r.form = .rr1 ∨ r.form = .ri) (hv : r.d = .v) {dflt : EType}
    (hx : r.extra = pairOk dflt) : f.dNum + pairRegs f ≤ 32 := by
  have hd := dNum_lt_of_row hr h hf hv
  rw [wf_of_row hr, Row.ok_iff] at h
  obtain ⟨-, -, -, -, -, -, -, hextra⟩ := h
  rw [hx, pairOk] at hextra
  unfold pairRegs
  by_cases hp : isPair f = true
  · have he : f.dNum % 2 = 0 := by
      simp only [hp, Bool.not_true, Bool.false_or, Bool.and_eq_true, beq_iff_eq] at hextra
      exact hextra.1.1.2
    rw [if_pos hp]
    omega
  · rw [if_neg hp]
    exact hd

/-- The element type is one that the entry accepts, as its default is. -/
theorem typeOf_of_row {types : EType → Bool} {z sat : Bool} (hq : r.qual = vec types z sat) {dflt : EType}
    (hdflt : types dflt = true) : types (typeOf dflt f) = true := by
  rw [wf_of_row hr, Row.ok_iff] at h
  obtain ⟨-, -, -, -, -, hqual, -, -⟩ := h
  rw [hq] at hqual
  unfold typeOf
  cases hf : f.qual with
  | none => exact hdflt
  | some q =>
    simp only [QualRule.ok, vec, hf, Bool.and_eq_true, List.contains_iff_mem, List.mem_filter] at hqual
    exact hqual.1.1.2

end

/-! ## The completion of an instruction with an effect on its strand (R167) -/

theorem vectorEffect_of_instr {d : Dispatched} {i : Instr} (h : d.instr = i) : vectorEffect d = vectorEffect { d with instr := i } := by
  subst h
  rfl

section
variable {p : PillarId} {t : StrandId} {s : State} {d : Dispatched} {i : Instr} {f : Fields} (hc : completes p t s d i)
include hc

theorem strand_of_completes {g : Dispatched → Fields → Strand → Strand}
    (he : vectorEffect { d with instr := i } = some (onStrand g, f)) :
    ∃ s', exec (.vectorComplete p t) s = .next s' ∧ SameBytes s s' ∧ s'.strandAt p t = g d f (s.strandAt p t) := by
  obtain ⟨hd, hi, -⟩ := hc
  exact vectorComplete_of_modSt hd ((vectorEffect_of_instr hi).trans he) rfl

omit f in
theorem wf_of_completes : i.wf = true := hc.2.2

/-- An instruction whose effect is lanes written under the mask. -/
theorem lanesBecome_of_completes {g : Dispatched → Fields → Strand → Strand} {w regs : Nat} {x : Nat → Nat × Bool} {val : Nat → Nat}
    (he : vectorEffect { d with instr := i } = some (onStrand g, f)) (hn : f.dNum + regs ≤ 32)
    (hg : g d f (s.strandAt p t) = (s.strandAt p t).writeMasked f w regs x) (hx : ∀ n, (x n).1 % 2 ^ w = val n % 2 ^ w) :
    lanesBecome p t s f w regs val := by
  obtain ⟨s', hs, hb, hr⟩ := strand_of_completes hc he
  refine ⟨s', hs, hb, fun n hl => ?_⟩
  rw [hr, hg, Strand.lane_writeMasked _ hn w x hl, hx]

end

/-! ## The lane-wise forms (R172) -/

section
variable (d : Dispatched) (f : Fields) (ty : EType) (t : Strand)

theorem lanes1_eq (op : Nat → Nat) : lanes1 d f ty op t = t.writeMasked f ty.width (pairRegs f) fun n =>
    (op (t.lane f.sNum ty.width n).1, (t.lane f.sNum ty.width n).2) := rfl

theorem lanes2_eq (op : Nat → Nat → Nat) : lanes2 d f ty op t = t.writeMasked f ty.width (pairRegs f) fun n =>
    (op (t.lane (rrA f) ty.width n).1 (t.lane (rrB f) ty.width n).1,
      (t.lane (rrA f) ty.width n).2 || (t.lane (rrB f) ty.width n).2) := rfl

theorem lanes3_eq (op : Nat → Nat → Nat → Nat) : lanes3 d f ty op t = t.writeMasked f ty.width (pairRegs f) fun n =>
    (op (t.lane f.dNum ty.width n).1 (t.lane (rrA f) ty.width n).1 (t.lane (rrB f) ty.width n).1,
      (t.lane (rrA f) ty.width n).2 || (t.lane (rrB f) ty.width n).2 || (t.lane f.dNum ty.width n).2) := rfl

end

/-- The row of an instruction of page 3 on lanes of a register or of a pair (R171). -/
def Row.OnPairs (r : Row) (dflt : EType) : Prop := (r.form = .rr2 ∨ r.form = .rr1) ∧ r.d = .v ∧ r.extra = pairOk dflt

section
variable {p : PillarId} {t : StrandId} {s : State} {d : Dispatched} {i : Instr} {f : Fields} (hc : completes p t s d i)
  {g : Dispatched → Fields → Strand → Strand} (he : vectorEffect { d with instr := i } = some (onStrand g, f))
  {r : Row} (hr : i.row = some (r, f)) {dflt : EType} (hp : Row.OnPairs r dflt) {ty : EType} {val : Nat → Nat}
include hc he hr hp

theorem lanesBecome_of_pair {w : Nat} {x : Nat → Nat × Bool}
    (hg : g d f (s.strandAt p t) = (s.strandAt p t).writeMasked f w (pairRegs f) x) (hx : ∀ n, (x n).1 % 2 ^ w = val n % 2 ^ w) :
    lanesBecome p t s f w (pairRegs f) val := by
  obtain ⟨hf, hv, hx'⟩ := hp
  exact lanesBecome_of_completes hc he (pairRegs_of_row hr (wf_of_completes hc) (by tauto) hv hx') hg hx

theorem lanesBecome_of_lanes1 {op : Nat → Nat} (hg : ∀ r, g d f r = lanes1 d f ty op r)
    (hx : ∀ n, op ((s.strandAt p t).lane f.sNum ty.width n).1 % 2 ^ ty.width = val n % 2 ^ ty.width) :
    lanesBecome p t s f ty.width (pairRegs f) val :=
  lanesBecome_of_pair hc he hr hp ((hg _).trans (lanes1_eq ..)) hx

theorem lanesBecome_of_lanes2 {op : Nat → Nat → Nat} (hg : ∀ r, g d f r = lanes2 d f ty op r)
    (hx : ∀ n, op ((s.strandAt p t).lane (rrA f) ty.width n).1 ((s.strandAt p t).lane (rrB f) ty.width n).1 % 2 ^ ty.width =
      val n % 2 ^ ty.width) :
    lanesBecome p t s f ty.width (pairRegs f) val :=
  lanesBecome_of_pair hc he hr hp ((hg _).trans (lanes2_eq ..)) hx

theorem lanesBecome_of_lanes3 {op : Nat → Nat → Nat → Nat} (hg : ∀ r, g d f r = lanes3 d f ty op r)
    (hx : ∀ n, op ((s.strandAt p t).lane f.dNum ty.width n).1 ((s.strandAt p t).lane (rrA f) ty.width n).1
      ((s.strandAt p t).lane (rrB f) ty.width n).1 % 2 ^ ty.width = val n % 2 ^ ty.width) :
    lanesBecome p t s f ty.width (pairRegs f) val :=
  lanesBecome_of_pair hc he hr hp ((hg _).trans (lanes3_eq ..)) hx

end

/-! ## Floating-point lanes (R57, R175) -/

theorem arith2_float {ty : EType} (h : isF ty = true) (mode : Nat) (sat : Bool) (fop : FVal → FVal → FVal)
    (iop : Int → Int → Int) (a b : Nat) :
    arith2 ty mode sat fop iop a b = encodeValue ty mode sat (fop (valueOf ty a) (valueOf ty b)) := if_pos h

theorem arith3_float {ty : EType} (h : isF ty = true) (mode : Nat) (sat neg : Bool) (c a b : Nat) :
    arith3 ty mode sat neg c a b = encodeValue ty mode sat (sumExact mode [valueOf ty c,
      if neg then (mulExact (valueOf ty a) (valueOf ty b)).negate else mulExact (valueOf ty a) (valueOf ty b)]) := if_pos h

/-- The forms give the exact value of their function, rounded once; VSQRT gives the rounded root. -/
theorem vectorFloatLanes : Claims.vectorFloatLanes := by
  unfold Claims.vectorFloatLanes
  simp only [← Dispatched.vrm_eq, ← satFlag_eq]
  intro p t s d f hF
  refine ⟨?_, fun hc => lanesBecome_of_lanes1 hc rfl rfl ⟨.inr rfl, rfl, rfl⟩ (fun _ => rfl) fun _ => rfl⟩
  simp only [Claims.floatForms, List.forall_mem_cons, List.not_mem_nil, false_imp_iff, implies_true, and_true]
  refine ⟨fun hc => ?vadd, fun hc => ?vsub, fun hc => ?vmul, fun hc => ?vdiv, fun hc => ?vfma, fun hc => ?vfms,
    fun hc => ?vmin, fun hc => ?vmax⟩
  case vfma | vfms =>
    exact lanesBecome_of_lanes3 hc rfl rfl ⟨.inl rfl, rfl, rfl⟩ (fun _ => rfl) fun _ => congrArg (· % _) (arith3_float hF ..)
  all_goals
    exact lanesBecome_of_lanes2 hc rfl rfl ⟨.inl rfl, rfl, rfl⟩ (fun _ => rfl) fun _ => congrArg (· % _) (arith2_float hF ..)

/-! ## Integer lanes (R175) -/

/-- The range of an integer type is that between the model's bounds. -/
theorem typeRange_eq {ty : EType} (h : isI ty = true) : typeRange ty = (minIntOf ty, maxIntOf ty) := by
  cases ty <;> simp [isI] at h <;> rfl

/-- A code of an integer type as an integer (R46). -/
theorem intOf_eq_laneInt {ty : EType} (h : isI ty = true) {v : Nat} (hv : v < 2 ^ ty.width) : intOf ty v = laneInt ty v := by
  cases ty <;> simp [isI] at h <;>
    simp [intOf, laneInt, typeRange, isSignedType, sextNat, EType.width] at hv ⊢ <;> omega

theorem minIntOf_le_maxIntOf {ty : EType} (h : isI ty = true) : minIntOf ty ≤ maxIntOf ty := by
  cases ty <;> simp [isI] at h <;> decide

theorem clampTo_eq {ty : EType} (h : isI ty = true) (x : Int) :
    clampTo ty x = max (typeRange ty).1 (min (typeRange ty).2 x) := by
  have hb := minIntOf_le_maxIntOf h
  rw [typeRange_eq h, clampTo]
  dsimp only
  split
  · omega
  · split <;> omega

theorem intResult_eq_intLane {ty : EType} (h : isI ty = true) (sat : Bool) (x : Int) :
    intResult ty sat x = (intLane ty sat x).toNat := by
  unfold intResult intLane lowBits
  rw [clampTo_eq h, Nat.cast_pow, Nat.cast_ofNat]

theorem isI_of_isFI {ty : EType} (h : isFI ty = true) (hF : ¬ isF ty = true) : isI ty = true := by
  simpa [isFI, hF] using h

/-! ## Signs, bits and moves (R50, R176, R177) -/

theorem absLane_eq {ty : EType} (h : isFI ty = true) (sat : Bool) {a : Nat} (ha : a < 2 ^ ty.width) : absLane ty sat a =
    if isF ty then a % 2 ^ (ty.width - 1) else (intLane ty sat (laneInt ty a).natAbs).toNat := by
  unfold absLane
  split
  · rfl
  · next hF => rw [intResult_eq_intLane (isI_of_isFI h hF), intOf_eq_laneInt (isI_of_isFI h hF) ha]

theorem negLane_eq {ty : EType} (h : isFI ty = true) (sat : Bool) {a : Nat} (ha : a < 2 ^ ty.width) : negLane ty sat a =
    if isF ty then a ^^^ 2 ^ (ty.width - 1) else (intLane ty sat (-(laneInt ty a))).toNat := by
  unfold negLane
  split
  · rfl
  · next hF => rw [intResult_eq_intLane (isI_of_isFI h hF), intOf_eq_laneInt (isI_of_isFI h hF) ha]

/-- VSEL writes every lane of its registers (R177). -/
theorem vsel_lanes {p : PillarId} {t : StrandId} {s : State} {d : Dispatched} {f : Fields} (hc : completes p t s d (.vsel f)) :
    let w := (typeOf .f32 f).width
    let r := s.strandAt p t
    ∃ s', exec (.vectorComplete p t) s = .next s' ∧ ∀ i, i < pairRegs f * (512 / w) → ((s'.strandAt p t).lane f.dNum w i).1 =
      if (r.k f.kNum).bits.getLsbD i = true then (r.lane (rrB f) w i).1 else (r.lane (rrA f) w i).1 := by
  intro w r
  obtain ⟨s', hs, -, hr⟩ := strand_of_completes hc rfl
  have hn := pairRegs_of_row rfl (wf_of_completes hc) (.inl rfl) rfl rfl
  refine ⟨s', hs, fun i hi => ?_⟩
  rw [hr]
  refine (r.lane_updateRegs hn _ hi).trans ?_
  dsimp only [Option.elim]
  rw [Nat.div_add_mod', Strand.active_iff]
  split
  · exact Nat.mod_eq_of_lt (r.lane_lt ..)
  · exact Nat.mod_eq_of_lt (r.lane_lt ..)

theorem vectorBitLanes : Claims.vectorBitLanes := by
  unfold Claims.vectorBitLanes
  simp only [← satFlag_eq]
  intro p t s d f
  refine ⟨fun hc => ?_, fun hc => ?_, ?_, fun hc => ?_, fun hc => ?_, vsel_lanes⟩
  · have hty : isFI (typeOf .f32 f) = true := typeOf_of_row rfl (wf_of_completes hc) rfl rfl
    exact lanesBecome_of_lanes1 hc rfl rfl ⟨.inr rfl, rfl, rfl⟩ (fun _ => rfl) fun _ =>
      congrArg (· % _) (absLane_eq hty _ (Strand.lane_lt ..))
  · have hty : isFI (typeOf .f32 f) = true := typeOf_of_row rfl (wf_of_completes hc) rfl rfl
    exact lanesBecome_of_lanes1 hc rfl rfl ⟨.inr rfl, rfl, rfl⟩ (fun _ => rfl) fun _ =>
      congrArg (· % _) (negLane_eq hty _ (Strand.lane_lt ..))
  · simp only [Claims.bitForms, List.forall_mem_cons, List.not_mem_nil, false_imp_iff, implies_true, and_true]
    refine ⟨fun hc => ?_, fun hc => ?_, fun hc => ?_, fun hc => ?_, fun hc => ?_⟩
    all_goals exact lanesBecome_of_lanes2 hc rfl rfl ⟨.inl rfl, rfl, rfl⟩ (fun _ => rfl) fun _ => rfl
  · exact lanesBecome_of_lanes1 hc rfl rfl ⟨.inr rfl, rfl, rfl⟩ (fun _ => rfl) fun _ => rfl
  · exact lanesBecome_of_completes hc rfl (dNum_lt_of_row rfl (wf_of_completes hc) (.inr (.inl rfl)) rfl) rfl fun _ => Nat.mod_mod ..

/-! ## Comparisons (R164, R177) -/

theorem sum_boolNat_lt (b : Nat → Bool) (n : Nat) : ((List.range n).map fun i => boolNat (b i) * 2 ^ i).sum < 2 ^ n := by
  induction n with
  | zero => simp
  | succ n ih =>
    have hb := Nat.mul_le_mul_right (2 ^ n) (Nat.le_of_lt_succ (boolNat_lt (b n)))
    rw [List.range_succ, List.map_append, List.sum_append, List.map_singleton, List.sum_singleton, Nat.pow_succ]
    omega

/-- The number whose low bits are given has those bits. -/
theorem testBit_sum_boolNat (b : Nat → Bool) (n k : Nat) :
    ((List.range n).map fun i => boolNat (b i) * 2 ^ i).sum.testBit k = (decide (k < n) && b k) := by
  induction n with
  | zero => simp
  | succ n ih =>
    rw [List.range_succ, List.map_append, List.sum_append, List.map_singleton, List.sum_singleton, Nat.add_comm,
      Nat.mul_comm, Nat.testBit_two_pow_mul_add _ (sum_boolNat_lt b n), ih]
    obtain h | h | h : k < n ∨ k = n ∨ n < k := by omega
    · simp [h, Nat.lt_succ_of_lt h]
    · subst h
      cases b k <;> simp [boolNat]
    · have hb : (boolNat (b n)).testBit (k - n) = false :=
        Nat.testBit_lt_two_pow ((boolNat_lt _).trans_le (Nat.le_self_pow (by omega) 2))
      simp [hb, Nat.not_lt_of_gt h, show ¬ k < n + 1 by omega]

/-- The word whose low bits are given. -/
theorem getLsbD_word_sum (b : Nat → Bool) (n : Nat) {k : Nat} (hk : k < 64) :
    (word ((List.range n).map fun i => boolNat (b i) * 2 ^ i).sum).getLsbD k = (decide (k < n) && b k) := by
  rw [word_eq, BitVec.getLsbD_ofNat, testBit_sum_boolNat, decide_eq_true hk, Bool.true_and]

theorem compareLane_eq (ty : EType) (pred a b : Nat) :
    compareLane ty pred a b = Claims.predicate pred (valueOf ty a) (valueOf ty b) := by
  unfold compareLane Claims.predicate
  dsimp only
  split <;> simp

theorem not_zFlag (f : Fields) : (!zFlag f) = (f.flags / 8 % 2 == 0) := by
  rw [Bool.eq_iff_iff, Bool.not_eq_true', ← Bool.not_eq_true, zFlag_iff, beq_iff_eq]
  omega

theorem Strand.k_setK (t : Strand) {n : Nat} (h0 : n ≠ 0) (hn : n < 8) (v : PWord) : (t.setK n v).k n = v := by
  simp [Strand.setK, Strand.k, h0, hn]

theorem vectorCompare : Claims.vectorCompare := by
  intro p t s d f ty r val hc
  obtain ⟨s', hs, hb, hr⟩ := strand_of_completes hc rfl
  refine ⟨s', hs, hb, fun h0 => ?_, fun h0 i hi => ?_⟩
  · rw [hr]
    exact congrArg Strand.kRegs (if_pos h0)
  · have hd : decide (f.dNum < 8) = true := dest_ok_of_row (i := .vcmp f) rfl (wf_of_completes hc) (.inl rfl)
    rw [hr, Strand.k_setK _ h0 (of_decide_eq_true hd)]
    refine (getLsbD_word_sum _ _ hi).trans (congrArg _ ?_)
    rw [Strand.active_iff, compareLane_eq, not_zFlag, bitOf_testBit]
    rfl

/-- Settles O17: each form writes its function of the lanes under the mask, or the bits of a mask register. -/
theorem vectorFloatAndBitLanes : Obligations.VectorFloatAndBitLanes :=
  ⟨vectorFloatLanes, vectorBitLanes, vectorCompare⟩

end Sys2Proof.Machine
end

section
/-! PROOFS. Lanes of the instructions of page 4: transcendentals and permutes, conversions, reductions. -/

set_option Elab.async false

namespace Sys2Proof.Machine

open Claims (completes lanesBecome laneInt intLane convertedFrom convertsLanes)

/-! ## Transcendentals and permutes (R186, R188) -/

/-- A word without modifiers has no pair flag (R171). -/
theorem pairRegs_of_mod_zero {i : Instr} {r : Row} {f : Fields} (hr : i.row = some (r, f)) (h : i.wf = true)
    (hm : r.mod = fun m => m == 0) : pairRegs f = 1 := by
  rw [wf_of_row hr, Row.ok_iff] at h
  obtain ⟨-, -, -, -, hmod, -⟩ := h
  rw [hm] at hmod
  rw [pairRegs, isPair, eq_of_beq hmod]
  rfl

theorem Strand.activeBelow_eq (t : Strand) (k n : Nat) :
    t.activeBelow k n = (List.range n).filter fun i => (t.k k).bits.getLsbD i :=
  congrArg (List.filter · _) (funext fun i => t.active_iff k i)

section
variable {p : PillarId} {t : StrandId} {s : State} {d : Dispatched} {f : Fields}

/-- VCOMPRESS packs the active lanes, whatever the mask says of the lane that takes one (R188). -/
theorem vcompress_lanes (hc : completes p t s d (.vcompress f)) :
    let w := (typeOf .f32 f).width
    let r := s.strandAt p t
    ∃ s', exec (.vectorComplete p t) s = .next s' ∧ ∀ i, i < 512 / w → ∀ o, (r.activeBelow f.kNum (lanesOf w))[i]? = o →
      ((s'.strandAt p t).lane f.dNum w i).1 =
        o.elim (if f.flags / 8 % 2 = 1 then 0 else (r.lane f.dNum w i).1) fun j => (r.lane f.sNum w j).1 := by
  intro w r
  obtain ⟨s', hs, -, hr⟩ := strand_of_completes hc rfl
  have hn := dNum_lt_of_row rfl (wf_of_completes hc) (.inr (.inl rfl)) rfl
  refine ⟨s', hs, fun i hi o ho => ?_⟩
  rw [hr]
  refine (r.lane_setV_update hn _ hi).trans ?_
  rw [ho, r.lane_of_lt _ hi]
  cases o with
  | none => exact elim_inactive f _ (VReg.lane_lt ..)
  | some j => exact Nat.mod_eq_of_lt (r.lane_lt ..)

theorem permuteLanes : Claims.permuteLanes := by
  intro p t s d f ty w l r lane active
  refine ⟨?_, fun hc => ?_, fun hc => ?_, fun hc => ?_, fun hc => ?_, fun hc => ?_⟩
  · simp only [List.forall_mem_cons, List.not_mem_nil, false_imp_iff, implies_true, and_true]
    refine ⟨fun hc => ?_, fun hc => ?_, fun hc => ?_, fun hc => ?_⟩
    all_goals
      have hp := pairRegs_of_mod_zero rfl (wf_of_completes hc) rfl
      have hn := dNum_lt_of_row rfl (wf_of_completes hc) (.inr (.inl rfl)) rfl
      exact lanesBecome_of_completes hc rfl (hp ▸ hn) (lanes1_eq ..) fun _ => rfl
  · have hn := dNum_lt_of_row rfl (wf_of_completes hc) (.inl rfl) rfl
    exact lanesBecome_of_completes hc rfl hn rfl fun _ => rfl
  · have hn := dNum_lt_of_row rfl (wf_of_completes hc) (.inl rfl) rfl
    refine lanesBecome_of_completes hc rfl hn rfl fun i => congrArg (· % _) ?_
    exact apply_ite Prod.fst ..
  · have hn := dNum_lt_of_row rfl (wf_of_completes hc) (.inr (.inr rfl)) rfl
    exact lanesBecome_of_completes hc rfl hn rfl fun _ => rfl
  · have hn := dNum_lt_of_row rfl (wf_of_completes hc) (.inr (.inl rfl)) rfl
    refine lanesBecome_of_completes hc rfl hn rfl fun i => ?_
    rw [Strand.activeBelow_eq]
  · obtain ⟨s', hs, hl⟩ := vcompress_lanes hc
    have ha : r.activeBelow f.kNum (lanesOf w) = active l := Strand.activeBelow_eq ..
    refine ⟨s', hs, fun i hi => (hl i hi _ (congrArg (·[i]?) ha)).trans ?_⟩
    cases (active l)[i]? <;> rfl

end

/-! ## Conversions (R183, R184, R185) -/

theorem lanes_pos (ty : EType) : 0 < 512 / ty.width := by cases ty <;> decide

/-- Where an element of the destination comes from (R183). -/
theorem convertLane_eq (src dst : EType) (q i : Nat) :
    convertLane src.width dst.width q i = convertedFrom src.width dst.width q i := by
  have hn := lanes_pos src
  unfold convertLane convertedFrom
  dsimp only
  split
  · have h : i / (512 / src.width) = q ↔ q * (512 / src.width) ≤ i ∧ i < q * (512 / src.width) + 512 / src.width := by
      rw [Nat.div_eq_iff hn, Nat.mul_comm]
      omega
    by_cases hq : i / (512 / src.width) = q
    · have hi : i - q * (512 / src.width) = i % (512 / src.width) := by
        rw [← hq, Nat.mod_eq_sub_div_mul]
      rw [if_pos hq, if_pos (by simpa using h.mp hq), hi]
    · rw [if_neg hq, if_neg (by simpa using hq ∘ h.mpr)]
  · split
    · rfl
    · rw [Nat.zero_add]

section
variable {p : PillarId} {t : StrandId} {s : State} {d : Dispatched} {f : Fields}

/-- An instruction whose effect is a conversion. -/
theorem convertsLanes_of_completes {i : Instr} (hc : completes p t s d i) {g : Dispatched → Fields → Strand → Strand}
    (he : vectorEffect { d with instr := i } = some (onStrand g, f)) {r : Row} (hr : i.row = some (r, f))
    (hf : r.form = .rr2 ∨ r.form = .rr1 ∨ r.form = .ri) (hv : r.d = .v) {a : Nat} {src dst : EType} {bad : Bool}
    {conv : Nat → Nat} (hg : ∀ r, g d f r = convertLanes f a src dst bad conv r) : convertsLanes p t s f a src dst conv := by
  obtain ⟨s', hs, hb, hr'⟩ := strand_of_completes hc he
  have hn := dNum_lt_of_row hr (wf_of_completes hc) hf hv
  refine ⟨s', hs, hb, fun n hl => ?_⟩
  rw [hr', hg]
  refine ((s.strandAt p t).lane_setV_update hn _ hl).trans ?_
  rw [convertLane_eq, Strand.lane_of_lt _ _ hl]
  cases convertedFrom src.width dst.width f.qNum n with
  | none => rfl
  | some e =>
    obtain ⟨m, j⟩ := e
    dsimp only
    rw [Strand.active_iff]
    by_cases hm : ((s.strandAt p t).k f.kNum).bits.getLsbD m = true
    · rw [if_pos hm, if_pos hm]
      rfl
    · rw [if_neg hm, if_neg hm]
      exact elim_inactive f _ (VReg.lane_lt ..)

theorem scaleByte_eq (d : Dispatched) (f : Fields) :
    (scaleOf d f).bits.bits 7 0 = (if f.reg.isSome then d.gt else d.gs).bits.toNat % 256 := by
  rw [wordBits_eq, Nat.pow_zero, Nat.div_one]
  rfl

/-- VBSCALE writes a general register, which is then no longer pending (R100, R185). -/
theorem vbscale_register (hc : completes p t s d (.vbscale f)) (h0 : f.dNum ≠ 0) :
    let ty := typeOf .f32 f
    let r := s.strandAt p t
    let xs := ((List.range (512 / ty.width)).filter fun i => (r.k f.kNum).bits.getLsbD i).map fun i =>
      valueOf ty (r.lane f.sNum ty.width i).1
    ∃ s', exec (.vectorComplete p t) s = .next s' ∧
      ((s'.strandAt p t).reg f.dNum).bits = BitVec.ofNat 64 (blockScale (scaleTop (typeCode (f.mod.setWidth 4))) xs) ∧
      (s'.strandAt p t).pending = r.pending.erase f.dNum := by
  intro ty r xs
  obtain ⟨hd, hi, hwf⟩ := hc
  have hn : decide (f.dNum < 64) = true := dest_ok_of_row (i := .vbscale f) rfl hwf (.inr (.inl rfl))
  obtain ⟨s', hs, hr, hp⟩ :=
    vectorComplete_of_writePending hd ((vectorEffect_of_instr hi).trans rfl) rfl h0 (of_decide_eq_true hn)
  refine ⟨s', hs, (congrArg PWord.bits hr).trans ?_, hp⟩
  show BitVec.ofNat 64 (blockScale _ _) = BitVec.ofNat 64 (blockScale _ _)
  rw [List.map_map]
  simp only [Strand.active_iff]
  rfl

theorem conversionLanes : Claims.conversionLanes := by
  unfold Claims.conversionLanes
  simp only [← Dispatched.vrm_eq, ← satFlag_eq, ← scaleByte_eq]
  intro p t s d f
  refine ⟨fun hc => ?_, fun hc => ?_, fun hc => ?_, vbscale_register⟩
  · exact convertsLanes_of_completes hc rfl rfl (.inr (.inl rfl)) rfl fun _ => rfl
  · exact convertsLanes_of_completes hc rfl rfl (.inl rfl) rfl fun _ => rfl
  · exact convertsLanes_of_completes hc rfl rfl (.inl rfl) rfl fun _ => rfl

/-! ## Reductions (R187, R189) -/

/-- VRED writes every lane (R187). -/
theorem vred_lanes (hc : completes p t s d (.vred f)) :
    let ty := typeOf .f32 f
    let r := s.strandAt p t
    let xs := (List.range (512 / ty.width)).map fun i =>
      if (r.k f.kNum).bits.getLsbD i then (r.lane f.sNum ty.width i).1 else redIdentity ty f.mod.toNat
    ∃ s', exec (.vectorComplete p t) s = .next s' ∧ ∀ i, i < 512 / ty.width → ((s'.strandAt p t).lane f.dNum ty.width i).1 =
      redTree (redOp ty d.vrm f.mod.toNat) (Nat.log2 (512 / ty.width)) xs % 2 ^ ty.width := by
  intro ty r xs
  obtain ⟨s', hs, -, hr⟩ := strand_of_completes hc rfl
  have hn := dNum_lt_of_row rfl (wf_of_completes hc) (.inr (.inl rfl)) rfl
  refine ⟨s', hs, fun i hi => ?_⟩
  rw [hr]
  refine (r.lane_setV_update hn _ hi).trans ?_
  simp only [Strand.active_iff]
  rfl

theorem dotLane_int {ty : EType} (h : isI ty = true) (mode : Nat) (sat : Bool) {old : Nat} (ho : old < 2 ^ 32) {n : Nat}
    {a b : Nat → Nat} (ha : ∀ j, a j < 2 ^ ty.width) (hb : ∀ j, b j < 2 ^ ty.width) :
    dotLane ty mode sat old ((List.range n).map a) ((List.range n).map b) = (intLane .i32 sat (laneInt .i32 old +
      ((List.range n).map fun j => laneInt ty (a j) * laneInt ty (b j)).sum)).toNat := by
  unfold dotLane
  rw [if_pos h, intResult_eq_intLane rfl, intOf_eq_laneInt rfl ho, List.zipWith_map, List.zipWith_self]
  simp only [intOf_eq_laneInt h (ha _), intOf_eq_laneInt h (hb _)]

theorem dotLane_float {ty : EType} (h : ¬ isI ty = true) (mode : Nat) (sat : Bool) (old n : Nat) (a b : Nat → Nat) :
    dotLane ty mode sat old ((List.range n).map a) ((List.range n).map b) = encodeValue .f32 mode sat (sumExact mode
      (valueOf .f32 old :: (List.range n).map fun j => mulExact (valueOf ty (a j)) (valueOf ty (b j)))) := by
  unfold dotLane
  rw [if_neg h, List.zipWith_map, List.zipWith_self]

theorem reductionLanes : Claims.reductionLanes := by
  unfold Claims.reductionLanes
  simp only [← Dispatched.vrm_eq, ← satFlag_eq]
  intro p t s d f
  refine ⟨vred_lanes, fun hc => ?_⟩
  have hn := dNum_lt_of_row rfl (wf_of_completes hc) (.inl rfl) rfl
  refine lanesBecome_of_completes hc rfl hn rfl fun i => congrArg (· % 2 ^ 32) ?_
  dsimp only
  split
  · next h => exact dotLane_int h _ _ (Strand.lane_lt ..) (fun _ => Strand.lane_lt ..) (fun _ => Strand.lane_lt ..)
  · next h => exact dotLane_float h ..

end

/-- Settles O18: permutes and conversions name the lane that each lane of the destination takes, and reductions work on the list of
active lanes. -/
theorem pageFourLanes : Obligations.PageFourLanes := ⟨permuteLanes, conversionLanes, reductionLanes⟩

end Sys2Proof.Machine
end

section
/-! PROOFS. Sums of products in groups of 32, with zeros at the end (R61, R62). -/

set_option Elab.async false

namespace Sys2Proof.Machine

/-! ## Groups of 32 products (R61, R62) -/

theorem groups32_eq {α : Type} (n : Nat) (l : List α) (h : l.length ≤ n) :
    groups32 n l = (List.range ((l.length + 31) / 32)).map fun j => (l.drop (32 * j)).take 32 := by
  induction n generalizing l with
  | zero =>
    rw [List.length_eq_zero_iff.mp (Nat.le_zero.mp h), List.length_nil]
    rfl
  | succ n ih =>
    rw [groups32]
    cases l with
    | nil =>
      rw [List.length_nil]
      rfl
    | cons x l =>
      have hlen : ((x :: l).length + 31) / 32 = (((x :: l).drop 32).length + 31) / 32 + 1 := by
        rw [List.length_drop, List.length_cons]
        omega
      have hle : ((x :: l).drop 32).length ≤ n := by
        rw [List.length_drop]
        omega
      rw [List.isEmpty_cons, if_neg Bool.false_ne_true, ih _ hle, hlen, List.range_succ_eq_map, List.map_cons, List.map_map]
      refine congrArg₂ List.cons rfl (List.map_congr_left fun j _ => ?_)
      rw [List.drop_drop, Function.comp_apply, Nat.mul_succ, Nat.add_comm]

theorem foldl_min_le (xs : List FVal) (q : Int) : xs.foldl (fun q x => min q x.exp) q ≤ q := by
  induction xs generalizing q with
  | nil => exact le_rfl
  | cons x xs ih => exact (ih _).trans (min_le_left _ _)

/-- A further +0 changes no sum that has one already (R62). -/
theorem sumExact_append_zero (mode : Nat) {xs : List FVal} (h : FVal.fin false 0 0 ∈ xs) :
    sumExact mode (xs ++ [.fin false 0 0]) = sumExact mode xs := by
  have hall : xs.all (·.neg?) = false := by
    rw [List.all_eq_false]
    exact ⟨_, h, Bool.false_ne_true⟩
  have hexp : xs.foldl (fun q x => min q x.exp) 0 ⊓ (FVal.fin false 0 0).exp = xs.foldl (fun q x => min q x.exp) 0 :=
    min_eq_left (foldl_min_le xs 0)
  have hnan : (FVal.fin false 0 0).isNan = false := rfl
  have hat : ∀ q, (FVal.fin false 0 0).atExp q = 0 := by simp [FVal.atExp]
  unfold sumExact
  simp only [List.any_append, List.filter_append, List.foldl_append, List.map_append, List.sum_append, List.all_append, hall,
    List.any_cons, List.any_nil, List.foldl_cons, List.foldl_nil, List.map_cons, List.map_nil, List.sum_cons, List.sum_nil,
    List.filter_cons, List.filter_nil, hexp, hnan, hat, Bool.or_false, Bool.false_and, Bool.false_eq_true, if_false,
    List.append_nil, add_zero]

theorem sumExact_append_zeros (mode : Nat) (xs : List FVal) (n : Nat) :
    sumExact mode (xs ++ List.replicate (n + 1) (.fin false 0 0)) = sumExact mode (xs ++ [.fin false 0 0]) := by
  induction n with
  | zero => rfl
  | succ n ih =>
    rw [List.replicate_succ', ← List.append_assoc, sumExact_append_zero _ (by simp), ih]

/-- The lanes of a group: the products of the group, and +0 beyond them. -/
theorem map_group (k j : Nat) (term : Nat → FVal) :
    ((List.range 32).map fun i => if 32 * j + i < k then term (32 * j + i) else .fin false 0 0) =
      (((List.range k).map term).drop (32 * j)).take 32 ++ List.replicate (32 - (k - 32 * j)) (.fin false 0 0) := by
  apply List.ext_getElem
  · simp
    omega
  · intro i h1 h2
    rw [List.length_map, List.length_range] at h1
    rw [List.getElem_map, List.getElem_range, List.getElem_append]
    by_cases hk : 32 * j + i < k
    · have hi : i < 32 ∧ i < k - 32 * j := by omega
      simp [hk, hi]
    · have hi : ¬ i < k - 32 * j := by omega
      simp [hk, hi]

/-- An accumulator after k products (R61, R62). -/
theorem accumulate_eq (d : Dispatched) (c k : Nat) (term : Nat → FVal) :
    accumulate d c ((List.range k).map term) = Claims.grouped d.mrm c k term := by
  unfold accumulate Claims.grouped
  rw [groups32_eq _ _ le_rfl, List.length_map, List.length_range, List.foldl_map]
  refine congrArg (fun g => List.foldl g c _) (funext fun c => funext fun j => ?_)
  have hlen : ((((List.range k).map term).drop (32 * j)).take 32).length = min 32 (k - 32 * j) := by simp
  rw [map_group, hlen, ← List.cons_append]
  split
  · next h =>
    have hr : 32 - (k - 32 * j) = 31 - (k - 32 * j) + 1 := by omega
    rw [hr, sumExact_append_zeros]
  · next h =>
    have hr : 32 - (k - 32 * j) = 0 := by omega
    rw [hr]
    rfl

end Sys2Proof.Machine
end

section
/-! PROOFS. Elements of tiles and products of slots: what MMA and MMABS leave (R61, R229, R235, R240). -/

set_option Elab.async false

namespace Sys2Proof.Machine

/-! ## Elements of tiles (R229) -/

/-- The engine with other tiles. -/
def MatrixEngine.withTiles (m : MatrixEngine) (bytes : Memory) (bad : NatSet) : MatrixEngine :=
  { m with tileBytes := bytes, tileBad := bad }

/-- An element after one is written. -/
theorem MatrixEngine.elem_setElem (m : MatrixEngine) (a b v : Nat) (bad : Bool) {e f : Nat} (he : e < 4096) (hf : f < 4096) :
    (m.setElem a e v bad).elem b f = if b = a ∧ f = e then (v % 2 ^ 32, bad) else m.elem b f := by
  unfold MatrixEngine.setElem MatrixEngine.elem
  by_cases h : b = a ∧ f = e
  · obtain ⟨rfl, rfl⟩ := h
    rw [if_pos ⟨rfl, rfl⟩, Memory.read_write, NatSet.has_put, if_pos rfl, show 256 ^ 4 = 2 ^ 32 from rfl]
  · have h1 : ¬ 4096 * b + f = 4096 * a + e := by omega
    rw [if_neg h, Memory.read_write_other _ _ (by omega), NatSet.has_put, if_neg h1]

/-- Elements of a tile in a row, each changed by its own function of the engine and of its value before. -/
def MatrixEngine.mapRow (x : MatrixEngine) (a base n : Nat) (g : MatrixEngine → Nat → Nat × Bool → Nat × Bool) : MatrixEngine :=
  (List.range n).foldl (fun x i => x.setElem a (base + i) (g x i (x.elem a (base + i))).1 (g x i (x.elem a (base + i))).2) x

section
variable (x : MatrixEngine) (a base : Nat) {g : MatrixEngine → Nat → Nat × Bool → Nat × Bool}

theorem MatrixEngine.mapRow_succ (n : Nat) : x.mapRow a base (n + 1) g =
    (x.mapRow a base n g).setElem a (base + n) (g (x.mapRow a base n g) n ((x.mapRow a base n g).elem a (base + n))).1
      (g (x.mapRow a base n g) n ((x.mapRow a base n g).elem a (base + n))).2 := by
  rw [mapRow, List.range_succ, List.foldl_append]
  rfl

theorem MatrixEngine.mapRow_eq_withTiles (n : Nat) : ∃ bytes bad, x.mapRow a base n g = x.withTiles bytes bad := by
  induction n with
  | zero => exact ⟨_, _, rfl⟩
  | succ n ih =>
    obtain ⟨bytes, bad, h⟩ := ih
    rw [MatrixEngine.mapRow_succ, h]
    exact ⟨_, _, rfl⟩

/-- The function reads the engine's tiles only through the element. -/
theorem MatrixEngine.elem_mapRow (hg : ∀ bytes bad, g (x.withTiles bytes bad) = g x) (b : Nat) {n f : Nat} (hn : base + n ≤ 4096)
    (hf : f < 4096) : (x.mapRow a base n g).elem b f =
      if b = a ∧ base ≤ f ∧ f < base + n then ((g x (f - base) (x.elem a f)).1 % 2 ^ 32, (g x (f - base) (x.elem a f)).2)
      else x.elem b f := by
  induction n generalizing b f with
  | zero =>
    rw [if_neg (by omega)]
    rfl
  | succ n ih =>
    obtain ⟨bytes, bad, h⟩ := x.mapRow_eq_withTiles a base (g := g) n
    have hgx : g (x.mapRow a base n g) = g x := h ▸ hg bytes bad
    rw [MatrixEngine.mapRow_succ, MatrixEngine.elem_setElem _ _ _ _ _ (by omega) hf, hgx, ih a (by omega) (f := base + n) (by omega),
      ih b (by omega) hf]
    by_cases h1 : b = a ∧ f = base + n
    · obtain ⟨rfl, rfl⟩ := h1
      have h2 : ¬ (b = b ∧ base ≤ base + n ∧ base + n < base + n) := by omega
      rw [if_pos ⟨rfl, rfl⟩, if_neg h2, if_pos (by omega), Nat.add_sub_cancel_left]
    · have h2 : (b = a ∧ base ≤ f ∧ f < base + (n + 1)) ↔ (b = a ∧ base ≤ f ∧ f < base + n) := by omega
      rw [if_neg h1, if_congr h2 rfl rfl]

end

theorem MatrixEngine.mapTile_succ (x : MatrixEngine) (a rows cols : Nat) (g : Nat → Nat → Nat × Bool → Nat × Bool) :
    x.mapTile a (rows + 1) cols g = (x.mapTile a rows cols g).mapRow a (64 * rows) cols fun _ => g rows := by
  rw [mapTile, List.range_succ, List.foldl_append]
  rfl

theorem MatrixEngine.mapTile_eq_withTiles (x : MatrixEngine) (a rows cols : Nat) (g : Nat → Nat → Nat × Bool → Nat × Bool) :
    ∃ bytes bad, x.mapTile a rows cols g = x.withTiles bytes bad := by
  induction rows with
  | zero => exact ⟨_, _, rfl⟩
  | succ n ih =>
    obtain ⟨bytes, bad, h⟩ := ih
    rw [MatrixEngine.mapTile_succ, h]
    exact MatrixEngine.mapRow_eq_withTiles _ _ _ _

/-- The elements below some rows and columns change, each by its own value, and no other. -/
theorem MatrixEngine.elem_mapTile (x : MatrixEngine) (a b : Nat) {rows cols : Nat} (g : Nat → Nat → Nat × Bool → Nat × Bool)
    (hr : rows ≤ 64) (hc : cols ≤ 64) {m n : Nat} (hm : m < 64) (hn : n < 64) :
    (x.mapTile a rows cols g).elem b (64 * m + n) =
      if b = a ∧ m < rows ∧ n < cols then
        ((g m n (x.elem a (64 * m + n))).1 % 2 ^ 32, (g m n (x.elem a (64 * m + n))).2)
      else x.elem b (64 * m + n) := by
  induction rows generalizing b with
  | zero =>
    rw [if_neg (by omega)]
    rfl
  | succ k ih =>
    rw [MatrixEngine.mapTile_succ, MatrixEngine.elem_mapRow _ _ _ (fun _ _ => rfl) _ (by omega) (by omega), ih a (by omega),
      ih b (by omega)]
    by_cases h1 : b = a ∧ 64 * k ≤ 64 * m + n ∧ 64 * m + n < 64 * k + cols
    · have h2 : m = k := by omega
      subst h2
      have h3 : ¬ (a = a ∧ m < m ∧ n < cols) := by omega
      rw [if_pos h1, if_neg h3, if_pos (by omega), Nat.add_sub_cancel_left]
    · have h2 : (b = a ∧ m < k + 1 ∧ n < cols) ↔ (b = a ∧ m < k ∧ n < cols) := by omega
      rw [if_neg h1, if_congr h2 rfl rfl]

/-! ## The product of two slots (R235) -/

/-- Element k of a row of the A slot of an engine's instruction. -/
def productA (a : MatrixEngine) (d da : Dispatched) (m k : Nat) : Nat :=
  (a.slotElem ((unpackSlots 16 da.slot).headD 0) (da.read.lens.headD 0) m d.ma.width ((geometryOf d.gt.bits).k0 + k)).1

/-- Element k of a column of the B slot, which may stand in it by rows. -/
def productB (x : MatrixEngine) (d : Dispatched) (n k : Nat) : Nat :=
  let g := geometryOf d.gt.bits
  let bj := (unpackSlots 16 d.slot).getD 1 0
  let bl := d.read.lens.getD 1 0
  (if g.bkm then x.slotElem bj bl (g.c0 + n) d.mb.width (g.k0 + k) else x.slotElem bj bl (g.k0 + k) d.mb.width (g.c0 + n)).1

/-- Product k under the scales of both blocks, if the product is scaled. -/
def productScaled (x a : MatrixEngine) (d da : Dispatched) (scaled : Bool) (m n k : Nat) (v : FVal) : FVal :=
  if scaled then
    mulExact v (mulExact (a.scaleOf ((unpackSlots 16 da.slot).headD 0) (da.read.lens.headD 0) m k (geometryOf d.gt.bits).k).1
      (x.scaleOf ((unpackSlots 16 d.slot).getD 1 0) (d.read.lens.getD 1 0) n k (geometryOf d.gt.bits).k).1)
  else v

/-- What an element becomes when the products of its row and column are added. -/
def productValue (x a : MatrixEngine) (d da : Dispatched) (scaled : Bool) (m n old : Nat) : Nat :=
  Claims.accumulated d old (geometryOf d.gt.bits).k (productA a d da m) (productB x d n) (productScaled x a d da scaled m n)

theorem geometryOf_le (v : Word) : (geometryOf v).m ≤ 64 ∧ (geometryOf v).n ≤ 64 := by
  have h1 : v.bits 5 0 < 2 ^ 6 := Nat.mod_lt _ (by decide)
  have h2 : v.bits 11 6 < 2 ^ 6 := Nat.mod_lt _ (by decide)
  exact ⟨h1, h2⟩

/-- The sum of integer products modulo 2^32 (R63). -/
theorem addInt_accumulated {d : Dispatched} (h : byteInt d.ma = true) (c k : Nat) (a b : Nat → Nat) (scale : Nat → FVal → FVal) :
    addInt c ((List.range k).map fun i => intOf d.ma (a i) * intOf d.mb (b i)) % 2 ^ 32 = Claims.accumulated d c k a b scale := by
  rw [Claims.accumulated, if_pos h]
  rfl

/-- The sum of floating-point products by groups (R61, R62). -/
theorem accumulate_accumulated {d : Dispatched} (h : byteInt d.ma = false) (c k : Nat) (a b : Nat → Nat)
    (scale : Nat → FVal → FVal) :
    accumulate d c ((List.range k).map fun i => scale i (mulExact (valueOf d.ma (a i)) (valueOf d.mb (b i)))) % 2 ^ 32 =
      Claims.accumulated d c k a b scale := by
  rw [Claims.accumulated, if_neg (by simp [h]), accumulate_eq]
  rfl

theorem runMma_eq_mapTile (x a : MatrixEngine) (d da : Dispatched) (tile : Nat) {scaled : Bool}
    (hs : scaled = true → byteInt d.ma = false) :
    ∃ g, runMma x a d da tile scaled = x.mapTile tile (geometryOf d.gt.bits).m (geometryOf d.gt.bits).n g ∧
      ∀ m n c, (g m n c).1 % 2 ^ 32 = productValue x a d da scaled m n c.1 := by
  unfold runMma
  dsimp only
  refine ⟨_, rfl, fun m n c => ?_⟩
  cases hi : byteInt d.ma with
  | true =>
    rw [if_pos rfl, List.map_map]
    exact addInt_accumulated hi c.1 _ (productA a d da m) (productB x d n) (productScaled x a d da scaled m n)
  | false =>
    rw [if_neg Bool.false_ne_true]
    cases scaled with
    | false =>
      rw [if_neg Bool.false_ne_true, List.map_map]
      exact accumulate_accumulated hi c.1 _ (productA a d da m) (productB x d n) (productScaled x a d da false m n)
    | true =>
      rw [if_pos rfl, List.map_map, List.zip_map', List.map_map]
      exact accumulate_accumulated hi c.1 _ (productA a d da m) (productB x d n) (productScaled x a d da true m n)

theorem productValue_withTiles (x a : MatrixEngine) (bytes : Memory) (bad : NatSet) (d da : Dispatched) (scaled : Bool) (m n old : Nat) :
    productValue (x.withTiles bytes bad) a d da scaled m n old = productValue x a d da scaled m n old := rfl

section
variable (x a : MatrixEngine) (d da : Dispatched) (tile : Nat) {scaled : Bool} (hs : scaled = true → byteInt d.ma = false)
include hs

theorem runMma_eq_withTiles : ∃ bytes bad, runMma x a d da tile scaled = x.withTiles bytes bad := by
  obtain ⟨g, h, -⟩ := runMma_eq_mapTile x a d da tile hs
  rw [h]
  exact x.mapTile_eq_withTiles _ _ _ _

/-- An element after a product into a tile (R235). -/
theorem elem_runMma (b : Nat) {m n : Nat} (hm : m < 64) (hn : n < 64) :
    ((runMma x a d da tile scaled).elem b (64 * m + n)).1 =
      if b = tile ∧ m < (geometryOf d.gt.bits).m ∧ n < (geometryOf d.gt.bits).n then
        productValue x a d da scaled m n (x.elem tile (64 * m + n)).1
      else (x.elem b (64 * m + n)).1 := by
  obtain ⟨g, h, hg⟩ := runMma_eq_mapTile x a d da tile hs
  obtain ⟨h1, h2⟩ := geometryOf_le d.gt.bits
  rw [h, MatrixEngine.elem_mapTile _ _ _ _ h1 h2 hm hn]
  split
  · exact hg ..
  · rfl

end

/-- Products into tiles in a row, one for each engine of a list (R235, R240). -/
def runMmas (d : Dispatched) (scaled : Bool) (tile : Nat) (l : List (MatrixEngine × Dispatched)) (k : Nat) (x : MatrixEngine) :
    MatrixEngine :=
  (l.zipIdx k).foldl (fun m e => runMma m e.1.1 d e.1.2 (tile + e.2) scaled) x

section
variable {d : Dispatched} {scaled : Bool} (hs : scaled = true → byteInt d.ma = false)
include hs

/-- The tiles before the first keep their elements. -/
theorem elem_runMmas_before (tile : Nat) (l : List (MatrixEngine × Dispatched)) (k : Nat) (x : MatrixEngine) {b m n : Nat}
    (hb : b < tile + k) (hm : m < 64) (hn : n < 64) :
    ((runMmas d scaled tile l k x).elem b (64 * m + n)).1 = (x.elem b (64 * m + n)).1 := by
  induction l generalizing k x with
  | nil => rfl
  | cons e l ih =>
    refine (ih (k + 1) _ (by omega)).trans ?_
    rw [elem_runMma _ _ _ _ _ hs _ hm hn, if_neg (by omega)]

/-- The tile of an engine gains its product. -/
theorem elem_runMmas (tile : Nat) (l : List (MatrixEngine × Dispatched)) (k : Nat) (x : MatrixEngine) {c : Nat}
    {e : MatrixEngine × Dispatched} (he : l[c]? = some e) {m n : Nat} (hm : m < 64) (hn : n < 64) :
    ((runMmas d scaled tile l k x).elem (tile + (k + c)) (64 * m + n)).1 =
      if m < (geometryOf d.gt.bits).m ∧ n < (geometryOf d.gt.bits).n then
        productValue x e.1 d e.2 scaled m n (x.elem (tile + (k + c)) (64 * m + n)).1
      else (x.elem (tile + (k + c)) (64 * m + n)).1 := by
  induction l generalizing k c x with
  | nil => cases he
  | cons e' l ih =>
    cases c with
    | zero =>
      obtain rfl : e' = e := by simpa using he
      refine (elem_runMmas_before hs tile l (k + 1) _ (by omega) hm hn).trans ?_
      rw [elem_runMma _ _ _ _ _ hs _ hm hn, Nat.add_zero]
      simp
    | succ c =>
      obtain ⟨bytes, bad, h⟩ := runMma_eq_withTiles x e'.1 d e'.2 (tile + k) hs
      have hk : k + (c + 1) = k + 1 + c := by omega
      have hx : ((runMma x e'.1 d e'.2 (tile + k) scaled).elem (tile + (k + 1 + c)) (64 * m + n)).1 =
          (x.elem (tile + (k + 1 + c)) (64 * m + n)).1 := by
        rw [elem_runMma _ _ _ _ _ hs _ hm hn, if_neg (by omega)]
      rw [hk]
      refine (ih (k + 1) (runMma x e'.1 d e'.2 (tile + k) scaled) (by simpa using he)).trans ?_
      rw [hx, h, productValue_withTiles]

end

/-! ## What an instruction on the array leaves (R231, R233) -/

theorem MatrixEngine.modTiles_eq (m : MatrixEngine) (l : List Nat) (f : TileHeader → TileHeader) :
    ∃ tiles, m.modTiles l f = { m with tiles := tiles } := by
  unfold MatrixEngine.modTiles
  induction l generalizing m with
  | nil => exact ⟨_, rfl⟩
  | cons a l ih =>
    obtain ⟨tiles, h⟩ := ih (m.modTile a f)
    exact ⟨tiles, h⟩

theorem MatrixEngine.foldl_modSlot_eq (m : MatrixEngine) (l : List Nat) (f : SlotHeader → SlotHeader) :
    ∃ slots, l.foldl (fun m j => m.modSlot j f) m = { m with slots := slots } := by
  induction l generalizing m with
  | nil => exact ⟨_, rfl⟩
  | cons a l ih =>
    obtain ⟨slots, h⟩ := ih (m.modSlot a f)
    exact ⟨slots, h⟩

theorem Pillar.leaveSlots_mtx (x : Pillar) (clk : Nat) (js : List Nat) :
    ∃ slots, (x.leaveSlots clk js).mtx = { x.mtx with slots := slots } := by
  obtain ⟨slots, h⟩ := x.mtx.foldl_modSlot_eq js SlotHeader.leave
  refine ⟨slots, Eq.trans ?_ h⟩
  unfold Pillar.leaveSlots
  dsimp only
  split
  · exact (apply_ite Pillar.mtx ..).trans (ite_self _)
  · rfl

/-- An instruction that retires frees the array, and changes no element. -/
theorem Pillar.retireMatrix_mtx (x : Pillar) (clk : Nat) (d : Dispatched) :
    ∃ tiles slots, (x.retireMatrix clk d).mtx = { x.mtx with array := none, tiles := tiles, slots := slots } := by
  obtain ⟨tiles, ht⟩ := MatrixEngine.modTiles_eq { x.mtx with array := none } (x.tilesOf d) fun h => { h with loom := false }
  obtain ⟨slots, hs⟩ := Pillar.leaveSlots_mtx (x.modMtx fun m =>
    ({ m with array := none } : MatrixEngine).modTiles (x.tilesOf d) fun h => { h with loom := false }) clk d.readSlots
  refine ⟨tiles, slots, ?_⟩
  unfold Pillar.retireMatrix Pillar.discardMatrix
  dsimp only
  rw [Pillar.endSeq_mtx, Pillar.modStrand_mtx, hs]
  show { MatrixEngine.modTiles _ _ _ with slots := slots } = _
  rw [ht]

theorem Pillar.arrayResult_mtx {x : Pillar} {o : MatrixOp} (h : x.mtx.array = some o) (hd : o.discarded = false)
    (m : MatrixEngine) : (x.arrayResult m).mtx = m := by
  unfold Pillar.arrayResult
  rw [h, Option.map_some, Option.getD_some, hd]
  rfl

/-! ## Several pillars at once -/

/-- Each pillar of a list is changed once, by its own function. -/
theorem State.pil_foldl {l : List PillarId} (hl : l.Nodup) {h : State → PillarId → State} {F : PillarId → Pillar → Pillar}
    (hme : ∀ s, ∀ q ∈ l, (h s q).pil q = F q (s.pil q)) (hother : ∀ s q p, p ≠ q → (h s q).pil p = s.pil p) (s : State)
    {p : PillarId} (hp : p ∈ l) : (l.foldl h s).pil p = F p (s.pil p) := by
  have frame : ∀ (l : List PillarId) (s : State), p ∉ l → (l.foldl h s).pil p = s.pil p := by
    intro l
    induction l with
    | nil => exact fun _ _ => rfl
    | cons q l ih =>
      intro s hq
      rw [List.mem_cons, not_or] at hq
      exact (ih _ hq.2).trans (hother s q p hq.1)
  induction l generalizing s with
  | nil => cases hp
  | cons q l ih =>
    rw [List.nodup_cons] at hl
    by_cases hq : p = q
    · subst hq
      exact (frame l _ hl.1).trans (hme s p List.mem_cons_self)
    · rw [List.foldl_cons, ih hl.2 (fun s q hq => hme s q (List.mem_cons_of_mem _ hq)) _ ((List.mem_cons.mp hp).resolve_left hq),
        hother s q p hq]

/-- The entries of a list that all have a value stand in its order. -/
theorem getElem?_filterMap_of_isSome {α β : Type} {g : α → Option β} {l : List α} (h : ∀ a ∈ l, (g a).isSome = true) (c : Nat) :
    (l.filterMap g)[c]? = l[c]?.bind g := by
  induction l generalizing c with
  | nil => rfl
  | cons a l ih =>
    obtain ⟨b, hb⟩ := Option.isSome_iff_exists.mp (h a List.mem_cons_self)
    rw [List.filterMap_cons_some hb]
    cases c with
    | zero => exact hb.symm
    | succ c => exact ih (fun a ha => h a (List.mem_cons_of_mem _ ha)) c

/-! ## MMA and MMABS (R235, R240) -/

/-- What a step of an MMA or MMABS leaves of a pillar that works on an operation. -/
def Pillar.productDone (x : Pillar) (clk : Nat) (d : Dispatched) (tile : Nat) (scaled : Bool)
    (engines : List (MatrixEngine × Dispatched)) : Pillar :=
  ((x.arrayResult (runMmas d scaled tile engines 0 x.mtx)).countArray
    ((geometryOf d.gt.bits).m * (geometryOf d.gt.bits).n * (geometryOf d.gt.bits).k * engines.length)
    (x.occupancy d)).retireMatrix clk d

/-- The fields of a product. -/
def productFields (i : Instr) : Fields := match i with | .mma f | .mmabs f => f | _ => {}

/-- The members' engines with their instructions. -/
def State.engines (s : State) (ms : List PillarId) : List (MatrixEngine × Dispatched) :=
  ms.filterMap fun q => ((s.pil q).mtx.array).map fun o => ((s.pil q).mtx, o.d)

/-- What a member of a joint step becomes. -/
def State.memberDone (s : State) (scaled : Bool) (ms : List PillarId) (q : PillarId) (x : Pillar) : Pillar :=
  ((s.pil q).mtx.array).elim x fun o => x.productDone s.clk o.d (productFields o.d.instr).dNum scaled (s.engines ms)

theorem State.pil_completeMma (s : State) {p : PillarId} {loom scaled : Bool} (hp : p ∈ s.stepMembers p loom)
    (hn : (s.stepMembers p loom).Nodup) :
    (s.completeMma p loom scaled).pil p = s.memberDone scaled (s.stepMembers p loom) p (s.pil p) := by
  unfold State.completeMma
  refine State.pil_foldl hn (fun r q _ => ?_) (fun r q p' hq => ?_) s hp
  · unfold State.memberDone
    cases (s.pil q).mtx.array with
    | none => rfl
    | some o =>
      refine (State.pil_modPil _ _ _).trans (congrArg (Pillar.retireMatrix · s.clk o.d) ?_)
      exact State.pil_modPil _ _ _
  · dsimp only
    cases (s.pil q).mtx.array with
    | none => rfl
    | some o => exact (State.pil_modPil_other _ _ hq).trans (State.pil_modPil_other _ _ hq)

/-- A completed product frees the array, and each element is that of the products. -/
theorem Pillar.productDone_mtx (x : Pillar) {o : MatrixOp} (h : x.mtx.array = some o) (hd : o.discarded = false) (clk tile : Nat)
    (scaled : Bool) (engines : List (MatrixEngine × Dispatched)) :
    (x.productDone clk o.d tile scaled engines).mtx.array = none ∧
      ∀ a e, (x.productDone clk o.d tile scaled engines).mtx.elem a e = (runMmas o.d scaled tile engines 0 x.mtx).elem a e := by
  obtain ⟨tiles, slots, hm⟩ := Pillar.retireMatrix_mtx ((x.arrayResult (runMmas o.d scaled tile engines 0 x.mtx)).countArray
    ((geometryOf o.d.gt.bits).m * (geometryOf o.d.gt.bits).n * (geometryOf o.d.gt.bits).k * engines.length)
    (x.occupancy o.d)) clk o.d
  have hr := Pillar.arrayResult_mtx h hd (runMmas o.d scaled tile engines 0 x.mtx)
  unfold Pillar.productDone
  rw [hm]
  refine ⟨rfl, fun a e => ?_⟩
  conv_rhs => rw [← hr]
  rfl

theorem runs_array {p : PillarId} {s : State} {o : MatrixOp} (h : (s.pil p).mtx.array = some o) (hs : o.started = true) :
    Runs (.matrixComplete p .array) s (s.completeArray p o) := by
  show execMatrixComplete p .array s = _
  unfold execMatrixComplete
  dsimp only
  rw [h]
  exact if_pos hs

theorem completeArray_product {p : PillarId} {s : State} {o : MatrixOp} {f : Fields} {scaled : Bool}
    (hi : o.d.instr = if scaled then .mmabs f else .mma f) :
    s.completeArray p o = s.completeMma p (bitOf f.mod.toNat 6) scaled ∧ productFields o.d.instr = f := by
  unfold State.completeArray productFields
  dsimp only
  rw [hi]
  cases scaled <;> exact ⟨rfl, rfl⟩

theorem productValues : Claims.productValues := by
  intro p s o f scaled x d g bj bl b ms ho hst hdis hi hsc hp hn hall
  obtain ⟨hc, hf⟩ := completeArray_product (p := p) (s := s) hi
  have hms : s.stepMembers p (bitOf f.mod.toNat 6) = ms := by
    rw [bitOf_testBit]
    rfl
  have hpil : (s.completeMma p (bitOf f.mod.toNat 6) scaled).pil p = x.productDone s.clk d f.dNum scaled (s.engines ms) := by
    rw [State.pil_completeMma s (hms ▸ hp) (hms ▸ hn), hms, State.memberDone, show (s.pil p).mtx.array = some o from ho,
      Option.elim_some, hf]
  obtain ⟨harr, helem⟩ := Pillar.productDone_mtx x ho hdis s.clk f.dNum scaled (s.engines ms)
  refine ⟨_, hc ▸ runs_array ho hst, ?_, fun c q oq hq hoq m n hm hn => ?_⟩
  · rw [hpil]
    exact harr
  · have he : (s.engines ms)[c]? = some ((s.pil q).mtx, oq.d) := by
      rw [State.engines, getElem?_filterMap_of_isSome (by simpa using hall), hq, Option.bind_some, hoq]
      rfl
    dsimp only
    rw [hpil, helem]
    have := elem_runMmas hsc f.dNum (s.engines ms) 0 x.mtx he hm hn
    rw [Nat.zero_add] at this
    exact this

end Sys2Proof.Machine
end

section
/-! PROOFS. What MMV, tile moves and SSTV leave (R228, R236, R238). -/

set_option Elab.async false

namespace Sys2Proof.Machine

/-! ## MMV (R236) -/

/-- An element of the row of an MMV after it, and whether it is poisoned. -/
def mmvElem (x : MatrixEngine) (t : Strand) (d : Dispatched) (f : Fields) (m : Nat) (c : Nat × Bool) : Nat × Bool :=
  let v := d.gs.bits
  let xs := (List.range (v.bits 37 31 + 1)).map fun q => t.lane f.tNum d.mb.width q
  let es := (xs.zipIdx).map fun q =>
    (x.slotElem ((unpackSlots 16 d.slot).headD 0) (d.read.lens.headD 0) m d.ma.width (32 * v.bits 45 38 + q.2), q.1)
  (if byteInt d.ma then addInt c.1 (es.map fun e => intOf d.ma e.1.1 * intOf d.mb e.2.1)
    else accumulate d c.1 (es.map fun e => mulExact (valueOf d.ma e.1.1) (valueOf d.mb e.2.1)),
    c.2 || es.any fun e => e.1.2 || e.2.2)

theorem runMmv_eq_mapRow (x : MatrixEngine) (t : Strand) (d : Dispatched) (f : Fields) :
    runMmv x t d f = x.mapRow f.dNum (64 * d.gs.bits.bits 30 25) (d.gs.bits.bits 24 19 + 1) fun y => mmvElem y t d f := rfl

theorem mmvElem_value (x : MatrixEngine) (t : Strand) (d : Dispatched) (f : Fields) (m : Nat) (c : Nat × Bool) :
    (mmvElem x t d f m c).1 % 2 ^ 32 = Claims.accumulated d c.1 (d.gs.bits.bits 37 31 + 1)
      (fun k => (x.slotElem ((unpackSlots 16 d.slot).headD 0) (d.read.lens.headD 0) m d.ma.width
        (32 * d.gs.bits.bits 45 38 + k)).1)
      (fun k => (t.lane f.tNum d.mb.width k).1) fun _ v => v := by
  have hz : ((List.range (d.gs.bits.bits 37 31 + 1)).map fun q => t.lane f.tNum d.mb.width q).zipIdx =
      (List.range (d.gs.bits.bits 37 31 + 1)).map fun q => (t.lane f.tNum d.mb.width q, q) := by
    apply List.ext_getElem
    · simp
    · intro i h1 h2
      simp
  unfold mmvElem
  dsimp only
  rw [hz]
  simp only [List.map_map]
  cases hi : byteInt d.ma with
  | true =>
    rw [if_pos rfl]
    exact addInt_accumulated hi ..
  | false =>
    rw [if_neg Bool.false_ne_true]
    exact accumulate_accumulated hi c.1 _ _ _ fun _ v => v

theorem vectorProduct : Claims.vectorProduct := by
  intro p s o f x d v aj ho hst hdis hi
  have hrow : v.bits 30 25 < 2 ^ 6 := Nat.mod_lt _ (by decide)
  have hlen : v.bits 24 19 < 2 ^ 6 := Nat.mod_lt _ (by decide)
  have hc : s.completeArray p o = s.modPil p fun x => ((x.arrayResult (runMmv x.mtx (x.strand d.strand) d f)).countArray
      ((v.bits 24 19 + 1) * (v.bits 37 31 + 1)) (x.occupancy d)).retireMatrix s.clk d := by
    unfold State.completeArray
    dsimp only
    rw [hi]
  obtain ⟨tiles, slots, hm⟩ := Pillar.retireMatrix_mtx ((x.arrayResult (runMmv x.mtx (x.strand d.strand) d f)).countArray
    ((v.bits 24 19 + 1) * (v.bits 37 31 + 1)) (x.occupancy d)) s.clk d
  refine ⟨_, hc ▸ runs_array ho hst, ?_, fun e he => ?_⟩
  · rw [State.pil_modPil, hm]
  · dsimp only
    rw [State.pil_modPil, hm]
    have hr := Pillar.arrayResult_mtx ho hdis (runMmv x.mtx (x.strand d.strand) d f)
    have helem := x.mtx.elem_mapRow f.dNum (64 * v.bits 30 25) (g := fun y => mmvElem y (x.strand d.strand) d f)
      (fun _ _ => rfl) f.dNum (n := v.bits 24 19 + 1) (by omega) he
    rw [← runMmv_eq_mapRow, ← hr] at helem
    refine (congrArg Prod.fst helem).trans ?_
    by_cases h : e / 64 = v.bits 30 25 ∧ e % 64 < v.bits 24 19 + 1
    · have hm : e - 64 * v.bits 30 25 = e % 64 := by omega
      rw [if_pos h, if_pos (by omega), hm]
      exact mmvElem_value ..
    · rw [if_neg h, if_neg (by omega)]

/-! ## Bytes that are moved (R6) -/

/-- Two ranges with the same bytes read the same. -/
theorem Memory.read_eq_of_get {m m' : Memory} {a a' n : Nat} (h : ∀ i, i < n → m.get (a + i) = m'.get (a' + i)) :
    m.read a n = m'.read a' n := by
  induction n generalizing a a' with
  | zero => rfl
  | succ n ih =>
    have h0 : m.get a = m'.get a' := h 0 (Nat.succ_pos n)
    have hs : ∀ i, i < n → m.get (a + 1 + i) = m'.get (a' + 1 + i) := fun i hi => by
      rw [Nat.add_right_comm, Nat.add_right_comm a']
      exact h (i + 1) (Nat.succ_lt_succ hi)
    rw [Memory.read, Memory.read, h0, ih hs]

/-- A byte of a number that was read. -/
theorem Memory.byte_read (m : Memory) (a : Nat) {n i : Nat} (h : i < n) :
    BitVec.ofNat 8 (m.read a n / 256 ^ i) = m.get (a + i) := by
  induction n generalizing a i with
  | zero => cases h
  | succ n ih =>
    have hlt := (m.get a).isLt
    cases i with
    | zero =>
      show BitVec.ofNat 8 _ = m.get a
      apply BitVec.eq_of_toNat_eq
      rw [Memory.read, Nat.pow_zero, Nat.div_one, BitVec.toNat_ofNat]
      omega
    | succ i =>
      have hd : m.read a (n + 1) / 256 = m.read (a + 1) n := by
        rw [Memory.read]
        omega
      rw [Nat.pow_succ', ← Nat.div_div_eq_div_mul, hd, ih (a + 1) (by omega), Nat.add_assoc, Nat.add_comm 1]

/-- Bytes copied from another memory. -/
theorem Memory.get_write_read (m b : Memory) (a o n x : Nat) :
    (m.write a n (b.read o n)).get x = if a ≤ x ∧ x < a + n then b.get (o + (x - a)) else m.get x := by
  rw [Memory.get_write]
  split
  · exact b.byte_read o (by omega)
  · rfl

/-- Elements of e bytes written in a row. -/
theorem Memory.read_foldl_write (m : Memory) (e : Nat) (r : Nat → Nat) (n i : Nat) :
    ((List.range n).foldl (fun b i => b.write (i * e) e (r i)) m).read (i * e) e =
      if i < n then r i % 256 ^ e else m.read (i * e) e := by
  induction n with
  | zero => rfl
  | succ n ih =>
    rw [List.range_succ, List.foldl_append, List.foldl_cons, List.foldl_nil]
    by_cases h : i = n
    · subst h
      rw [Memory.read_write, if_pos (Nat.lt_succ_self i)]
    · have hd : i * e + e ≤ n * e ∨ n * e + e ≤ i * e := by
        rw [← Nat.succ_mul, ← Nat.succ_mul]
        obtain h | h : i + 1 ≤ n ∨ n + 1 ≤ i := by omega
        · exact .inl (Nat.mul_le_mul_right e h)
        · exact .inr (Nat.mul_le_mul_right e h)
      have hn : i < n + 1 ↔ i < n := by omega
      rw [Memory.read_write_other _ _ hd, ih, if_congr hn rfl rfl]

/-! ## Whole words of local store (R139, R238) -/

theorem Pillar.writeOut_bytes (x : Pillar) (a n v : Nat) (bad : Bool) :
    (x.writeOut a n v bad).ls.bytes = x.ls.bytes.write a n v := by
  unfold Pillar.writeOut
  split
  · next h =>
    subst h
    rfl
  · rfl

/-- The bytes of a buffer that are written as words, the last perhaps a part. -/
theorem Pillar.get_writeWords (x : Pillar) (a : Nat) (buf : Memory) (bad : NatSet) (n b : Nat) :
    (x.writeWords a buf bad n).ls.bytes.get b =
      if a ≤ b ∧ b < a + n then buf.get (b - a) else x.ls.bytes.get b := by
  unfold Pillar.writeWords
  suffices h : ∀ k, 8 * k < n + 8 → ((List.range k).foldl (fun x i => x.writeOut (a + 8 * i) (min 8 (n - 8 * i))
      (buf.read (8 * i) (min 8 (n - 8 * i))) (bad.hasAny (8 * i) (min 8 (n - 8 * i)))) x).ls.bytes.get b =
        if a ≤ b ∧ b < a + min n (8 * k) then buf.get (b - a) else x.ls.bytes.get b by
    have hk : min n (8 * ceilDiv n 8) = n ∧ 8 * ceilDiv n 8 < n + 8 := by
      unfold ceilDiv
      omega
    exact (h _ hk.2).trans (by rw [hk.1])
  intro k hk
  induction k with
  | zero =>
    rw [if_neg (by omega)]
    rfl
  | succ k ih =>
    rw [List.range_succ, List.foldl_append, List.foldl_cons, List.foldl_nil, Pillar.writeOut_bytes, Memory.get_write_read,
      ih (by omega)]
    by_cases h1 : a + 8 * k ≤ b ∧ b < a + 8 * k + min 8 (n - 8 * k)
    · have h2 : 8 * k + (b - (a + 8 * k)) = b - a := by omega
      rw [if_pos h1, if_pos (by omega), h2]
    · rw [if_neg h1]
      by_cases h2 : a ≤ b ∧ b < a + min n (8 * k)
      · rw [if_pos h2, if_pos (by omega)]
      · rw [if_neg h2, if_neg (by omega)]

/-! ## MLD, MST and SSTV (R228, R238) -/

theorem runs_port {p : PillarId} {s : State} {o : MatrixOp} (h : (s.pil p).mtx.port = some o) :
    Runs (.matrixComplete p .port) s (s.setPil p ((s.pil p).completePort s.clk o.d)) := by
  show execMatrixComplete p .port s = _
  unfold execMatrixComplete
  dsimp only
  rw [h]

/-- The type that a tile move captured. -/
def Dispatched.moveTy (d : Dispatched) : EType := typeCode (BitVec.ofNat 4 (d.aux % 16))

/-- An element that an MLD brings, and whether it is poisoned. -/
def mldElem (l : LocalStore) (d : Dispatched) (i : Nat) : Nat × Bool :=
  let ty := d.moveTy
  let v := l.load (d.slot + i * (ty.width / 8)) (ty.width / 8)
  (if ty == .i32 || ty == .f32 then v.1 else convert ty .f32 0 false v.1, v.2)

theorem Pillar.foldl_modMtx (x : Pillar) (l : List Nat) (h : LocalStore → MatrixEngine → Nat → MatrixEngine) :
    l.foldl (fun x i => x.modMtx fun m => h x.ls m i) x = x.modMtx fun m => l.foldl (h x.ls) m := by
  induction l generalizing x with
  | nil => rfl
  | cons i l ih => exact ih (x.modMtx fun m => h x.ls m i)

theorem Pillar.runMld_eq (x : Pillar) (d : Dispatched) (f : Fields) : x.runMld d f =
    x.modMtx fun m => m.mapRow f.dNum (64 * moveRow0 f) (moveRows f * 64) fun _ i _ => mldElem x.ls d i :=
  x.foldl_modMtx (List.range (moveRows f * 64)) fun l m i =>
    m.setElem f.dNum (64 * moveRow0 f + i) (mldElem l d i).1 (mldElem l d i).2

/-- A type that fills the elements of a tile as it is (R238). -/
theorem plain_iff (ty : EType) : (ty == .i32 || ty == .f32) = true ↔ ty = .i32 ∨ ty = .f32 := by
  rw [Bool.or_eq_true, beq_iff_eq, beq_iff_eq]

theorem bytes_of_plain {ty : EType} (h : ty = .i32 ∨ ty = .f32) : ty.width / 8 = 4 := by
  obtain rfl | rfl := h <;> rfl

/-- A conversion to or from f32 goes by the value (R58). -/
theorem convert_to_f32 (ty : EType) (mode : Nat) (sat : Bool) (v : Nat) :
    convert ty .f32 mode sat v = encodeValue .f32 mode sat (valueOf ty v) := by
  simp [convert, isI]

theorem convert_of_f32 (ty : EType) (mode : Nat) (sat : Bool) (v : Nat) :
    convert .f32 ty mode sat v = encodeValue ty mode sat (valueOf .f32 v) := by
  simp [convert, isI]

section
variable (l : LocalStore) (d : Dispatched) (i : Nat)

theorem mldElem_plain (h : d.moveTy = .i32 ∨ d.moveTy = .f32) :
    (mldElem l d i).1 % 2 ^ 32 = l.bytes.read (d.slot + i * (d.moveTy.width / 8)) (d.moveTy.width / 8) := by
  have hlt := l.bytes.read_lt (d.slot + i * (d.moveTy.width / 8)) (d.moveTy.width / 8)
  rw [bytes_of_plain h] at hlt
  unfold mldElem
  dsimp only
  rw [if_pos ((plain_iff _).mpr h), bytes_of_plain h]
  exact Nat.mod_eq_of_lt hlt

theorem mldElem_float (h : ¬ (d.moveTy = .i32 ∨ d.moveTy = .f32)) : (mldElem l d i).1 =
    encodeValue .f32 0 false (valueOf d.moveTy (l.bytes.read (d.slot + i * (d.moveTy.width / 8)) (d.moveTy.width / 8))) := by
  unfold mldElem
  dsimp only
  rw [if_neg (h ∘ (plain_iff _).mp), convert_to_f32]
  rfl

end

/-- MLD fills its rows, and no other element of its tile (R238). -/
theorem mld_elements {p : PillarId} {s : State} {o : MatrixOp} {f : Fields} (hp : (s.pil p).mtx.port = some o)
    (hi : o.d.instr = .mld f) (hfit : 64 * moveRow0 f + 64 * moveRows f ≤ 4096) :
    ∃ t, Runs (.matrixComplete p .port) s t ∧ (t.pil p).mtx.port = none ∧ ∀ i, i < 4096 → (t.pil p).mtx.elem f.dNum i =
      if 64 * moveRow0 f ≤ i ∧ i < 64 * moveRow0 f + 64 * moveRows f then
        ((mldElem (s.pil p).ls o.d (i - 64 * moveRow0 f)).1 % 2 ^ 32, (mldElem (s.pil p).ls o.d (i - 64 * moveRow0 f)).2)
      else (s.pil p).mtx.elem f.dNum i := by
  refine ⟨_, runs_port hp, ?_, fun i hlt => ?_⟩
  all_goals
    rw [State.pil_setPil, Pillar.completePort]
    dsimp only
    rw [hi]
    dsimp only
    rw [Pillar.endSeq_mtx, Pillar.runMld_eq]
  · rfl
  · have h := (s.pil p).mtx.elem_mapRow f.dNum (64 * moveRow0 f) (g := fun _ i _ => mldElem (s.pil p).ls o.d i) (fun _ _ => rfl)
      f.dNum (n := moveRows f * 64) (by omega) hlt
    have hc : (f.dNum = f.dNum ∧ 64 * moveRow0 f ≤ i ∧ i < 64 * moveRow0 f + moveRows f * 64) ↔
        (64 * moveRow0 f ≤ i ∧ i < 64 * moveRow0 f + 64 * moveRows f) := by omega
    rw [if_congr hc rfl rfl] at h
    exact h

/-- An element that an MST stores. -/
def mstElem (m : MatrixEngine) (d : Dispatched) (f : Fields) (ty : EType) (i : Nat) : Nat :=
  let v := (m.elem f.dNum (64 * moveRow0 f + i)).1
  if ty == .i32 || ty == .f32 then v else convert .f32 ty (d.fmt.bits 1 0) false v

theorem mstElem_plain (m : MatrixEngine) (d : Dispatched) (f : Fields) {ty : EType} (h : ty = .i32 ∨ ty = .f32) (i : Nat) :
    mstElem m d f ty i % 256 ^ (ty.width / 8) = (m.elem f.dNum (64 * moveRow0 f + i)).1 := by
  unfold mstElem
  dsimp only
  rw [if_pos ((plain_iff ty).mpr h), bytes_of_plain h]
  exact Nat.mod_eq_of_lt (Memory.read_lt ..)

theorem mstElem_float (m : MatrixEngine) (d : Dispatched) (f : Fields) {ty : EType} (h : ¬ (ty = .i32 ∨ ty = .f32)) (i : Nat) :
    mstElem m d f ty i =
      encodeValue ty (d.fmt.toNat % 4) false (valueOf .f32 (m.elem f.dNum (64 * moveRow0 f + i)).1) := by
  unfold mstElem
  dsimp only
  rw [if_neg (h ∘ (plain_iff ty).mp), convert_of_f32, ← Dispatched.vrm_eq]
  rfl

theorem moveOut_bytes (m : MatrixEngine) (d : Dispatched) (f : Fields) (ty : EType) : (moveOut m d f ty).1 =
    (List.range (moveRows f * 64)).foldl (fun b i => b.write (i * (ty.width / 8)) (ty.width / 8) (mstElem m d f ty i)) {} :=
  (List.foldl_hom Prod.fst fun _ _ => rfl).symm

/-- MST writes its rows, and no other byte of local store (R238). -/
theorem mst_bytes {p : PillarId} {s : State} {o : MatrixOp} {f : Fields} (hp : (s.pil p).mtx.port = some o)
    (hi : o.d.instr = .mst f) :
    let ty := o.d.moveTy
    let e := ty.width / 8
    ∃ t, Runs (.matrixComplete p .port) s t ∧ (t.pil p).mtx.port = none ∧
      (∀ i, i < 64 * moveRows f →
        (t.pil p).ls.bytes.read (o.d.slot + i * e) e = mstElem (s.pil p).mtx o.d f ty i % 256 ^ e) ∧
      (∀ a, a < o.d.slot ∨ o.d.slot + 64 * moveRows f * e ≤ a → (t.pil p).ls.bytes.get a = (s.pil p).ls.bytes.get a) ∧
      (∀ a, t.mem.get a = s.mem.get a) ∧ ∀ q, q ≠ p → (t.pil q).ls = (s.pil q).ls := by
  intro ty e
  have hb : ((s.setPil p ((s.pil p).completePort s.clk o.d)).pil p).ls.bytes =
      ((s.pil p).writeWords o.d.slot (moveOut (s.pil p).mtx o.d f ty).1 (moveOut (s.pil p).mtx o.d f ty).2
        (moveRows f * 64 * e)).ls.bytes := by
    rw [State.pil_setPil, Pillar.completePort]
    dsimp only
    rw [hi]
    dsimp only
    rw [Pillar.endSeq_ls]
    rfl
  refine ⟨_, runs_port hp, ?_, fun i hlt => ?_, fun a ha => ?_, fun a => rfl, fun q hq => ?_⟩
  · rw [State.pil_setPil, Pillar.completePort]
    dsimp only
    rw [hi]
    dsimp only
    rw [Pillar.endSeq_mtx]
    rfl
  · have hend : i * e + e ≤ moveRows f * 64 * e := by
      rw [← Nat.succ_mul]
      exact Nat.mul_le_mul_right e (by omega)
    rw [hb]
    refine (Memory.read_eq_of_get (a' := i * e) (m' := (moveOut (s.pil p).mtx o.d f ty).1) fun k hk => ?_).trans ?_
    · rw [Pillar.get_writeWords, if_pos (by omega), Nat.add_assoc, Nat.add_sub_cancel_left]
    · rw [moveOut_bytes, Memory.read_foldl_write, if_pos (by omega)]
  · rw [hb, Pillar.get_writeWords, if_neg]
    rw [Nat.mul_comm (moveRows f) 64]
    omega
  · rw [State.pil_setPil_other _ _ hq]

/-- The bytes of a number written by 8 at a time are those of one write (R6). -/
theorem Memory.get_foldl_write8 (m : Memory) (a v n x : Nat) :
    ((List.range n).foldl (fun m i => m.write (a + 8 * i) 8 (v / 2 ^ (64 * i))) m).get x = (m.write a (8 * n) v).get x := by
  induction n with
  | zero => rfl
  | succ n ih =>
    rw [List.range_succ, List.foldl_append, List.foldl_cons, List.foldl_nil, Memory.get_write, ih, Memory.get_write,
      Memory.get_write]
    by_cases h : a + 8 * n ≤ x ∧ x < a + 8 * n + 8
    · have hp : 2 ^ (64 * n) * 256 ^ (x - (a + 8 * n)) = 256 ^ (x - a) := by
        rw [show 256 = 2 ^ 8 from rfl, ← Nat.pow_mul, ← Nat.pow_mul, ← Nat.pow_add]
        congr 1
        omega
      rw [if_pos h, if_pos (by omega), Nat.div_div_eq_div_mul, hp]
    · have hn : (a ≤ x ∧ x < a + 8 * n) ↔ (a ≤ x ∧ x < a + 8 * (n + 1)) := by omega
      rw [if_neg h, if_congr hn rfl rfl]

theorem toNat_lt_bytes {n : Nat} (v : BitVec (8 * n)) : v.toNat < 256 ^ n := v.isLt.trans_eq (Nat.pow_mul 2 8 n)

/-- The slots of an engine with v[d] written. -/
def MatrixEngine.putV (m : MatrixEngine) (r : VReg) (a : Nat) : MatrixEngine :=
  (List.range 8).foldl (fun m i =>
    { m with
      slotBytes := m.slotBytes.write (a + 8 * i) 8 (r.bits.toNat / 2 ^ (64 * i))
      slotBad := m.slotBad.putRange (a + 8 * i) (bitOf r.bad.toNat i) 8 }) m

theorem MatrixEngine.get_putV (m : MatrixEngine) (r : VReg) (a x : Nat) :
    (m.putV r a).slotBytes.get x = (m.slotBytes.write a 64 r.bits.toNat).get x := by
  rw [← m.slotBytes.get_foldl_write8 a r.bits.toNat 8 x]
  rfl

theorem MatrixEngine.read_putV (m : MatrixEngine) (r : VReg) (a : Nat) : (m.putV r a).slotBytes.read a 64 = r.bits.toNat := by
  have hlt : r.bits.toNat < 256 ^ 64 := toNat_lt_bytes (n := 64) r.bits
  rw [Memory.read_congr fun x _ _ => m.get_putV r a x, Memory.read_write, Nat.mod_eq_of_lt hlt]

theorem MatrixEngine.slot_modSlot (m : MatrixEngine) {j : Nat} (hj : j < 32) (g : SlotHeader → SlotHeader) :
    (m.modSlot j g).slot j = g (m.slot j) := by
  simp [MatrixEngine.modSlot, MatrixEngine.slot, hj]

theorem MatrixEngine.runSstv_eq (m : MatrixEngine) (r : VReg) (d : Dispatched) (f : Fields) :
    m.runSstv r d f = if bitOf f.mod.toNat 3 then
      (m.putV r (8192 * d.aux + slotByte d.gs.bits)).modSlot d.aux fun h =>
        { h with tag := BitVec.ofNat 16 (d.gs.bits.bits 63 48), type := BitVec.ofNat 4 (d.gs.bits.bits 47 44),
                 orows := d.gs.bits.bits 43 30, olen := d.gs.bits.bits 29 16, state := 2 }
      else m.putV r (8192 * d.aux + slotByte d.gs.bits) := rfl

theorem MatrixEngine.runSstv_frame (m : MatrixEngine) (r : VReg) (d : Dispatched) (f : Fields) :
    (m.runSstv r d f).port = m.port ∧
      (m.runSstv r d f).slotBytes = (m.putV r (8192 * d.aux + slotByte d.gs.bits)).slotBytes := by
  rw [MatrixEngine.runSstv_eq]
  split <;> exact ⟨rfl, rfl⟩

/-- A seal stamps the header (R228). -/
theorem MatrixEngine.slot_runSstv (m : MatrixEngine) (r : VReg) {d : Dispatched} (hj : d.aux < 32) (f : Fields) :
    (m.runSstv r d f).slot d.aux = if bitOf f.mod.toNat 3 then
      { m.slot d.aux with
        tag := BitVec.ofNat 16 (d.gs.bits.bits 63 48), type := BitVec.ofNat 4 (d.gs.bits.bits 47 44)
        orows := d.gs.bits.bits 43 30, olen := d.gs.bits.bits 29 16, state := 2 }
      else m.slot d.aux := by
  rw [MatrixEngine.runSstv_eq]
  split
  · exact MatrixEngine.slot_modSlot _ hj _
  · rfl

theorem sstv_slot {p : PillarId} {s : State} {o : MatrixOp} {f : Fields} (hp : (s.pil p).mtx.port = some o)
    (hi : o.d.instr = .sstv f) : ∃ t, Runs (.matrixComplete p .port) s t ∧ (t.pil p).mtx =
      MatrixEngine.runSstv { (s.pil p).mtx with port := none } (((s.pil p).strand o.d.strand).vreg f.dNum) o.d f := by
  refine ⟨_, runs_port hp, ?_⟩
  rw [State.pil_setPil, Pillar.completePort]
  dsimp only
  rw [hi]
  exact Pillar.endSeq_mtx ..

theorem tilePort : Claims.tilePort := by
  intro p s o f x d ty e first count plain hp
  refine ⟨fun hi hty hfit => ?_, fun hi hty => ?_, fun hi haux => ?_⟩
  · obtain ⟨t, hr, hn, he⟩ := mld_elements hp hi hfit
    refine ⟨t, hr, hn, fun i hlt => ⟨fun hin => ⟨fun hpl => ?_, fun hpl => ?_⟩, fun hout => ?_⟩⟩
    · rw [he i hlt, if_pos hin]
      exact mldElem_plain _ _ _ hpl
    · rw [he i hlt, if_pos hin]
      exact congrArg (· % 2 ^ 32) (mldElem_float _ _ _ hpl)
    · rw [he i hlt, if_neg (by omega)]
  · obtain ⟨t, hr, hn, hb, hrest⟩ := mst_bytes hp hi
    refine ⟨t, hr, hn, fun i hlt => ⟨fun hpl => ?_, fun hpl => ?_⟩, hrest⟩
    · exact (hb i hlt).trans (mstElem_plain _ _ _ hpl i)
    · exact (hb i hlt).trans (congrArg₂ (· % ·) (mstElem_float _ _ _ hpl i) (Nat.pow_mul 2 8 _).symm)
  · obtain ⟨t, hr, hm⟩ := sstv_slot hp hi
    obtain ⟨hport, hbytes⟩ := MatrixEngine.runSstv_frame { x.mtx with port := none } ((x.strand d.strand).vreg f.dNum) d f
    have hslot := MatrixEngine.slot_runSstv { x.mtx with port := none } ((x.strand d.strand).vreg f.dNum) haux f
    rw [← hm] at hport hbytes hslot
    rw [bitOf_testBit, BitVec.testBit_toNat] at hslot
    refine ⟨t, hr, hport, ?_, fun b hb => ?_, fun h3 => ?_, fun h3 => ?_⟩
    · rw [hbytes]
      exact MatrixEngine.read_putV ..
    · rw [hbytes, MatrixEngine.get_putV]
      exact Memory.get_write_other _ _ hb
    · rw [hslot, if_pos h3]
      rfl
    · rw [hslot, if_neg (by rw [h3]; exact Bool.false_ne_true)]
      rfl

/-- Settles O29: each element, byte and slot that the engine writes is read back. -/
theorem matrixValues : Obligations.MatrixValues := ⟨productValues, vectorProduct, tilePort⟩

end Sys2Proof.Machine
end

section
/-! PROOFS. What the dispatch of an instruction to an engine does, and the dispatch of the vector instructions (R93, R100, R101, R373). -/

set_option Elab.async false

namespace Sys2Proof.Machine

/-! ## How an instruction ends, by what its effect gives -/

theorem runs_finish {i : Instr} {s t : State} {r : Act State} (e : exec i s = finish i s r) (h : r = .ok t) :
    Runs i s (s.past i t) := by
  subst h
  exact e

theorem waits_finish {i : Instr} {s : State} {r : Act State} (e : exec i s = finish i s r) (h : r = .error .wait) :
    Waits i s := by
  subst h
  exact e

theorem traps_finish {i : Instr} {s : State} {r : Act State} {c : BitVec 8} {v : Word} (e : exec i s = finish i s r)
    (h : r = .error (.trap c v)) (hc : c ≠ 0x05 := by decide) : Traps i s c v := by
  subst h
  exact e.trans (congrArg _ (stopped_trap s i c v hc))

theorem runs_finishAt {i : Instr} {s t : State} {r : Act State} (e : exec i s = finishAt i s r) (h : r = .ok t) :
    Runs i s t := by
  subst h
  exact e

theorem waits_finishAt {i : Instr} {s : State} {r : Act State} (e : exec i s = finishAt i s r) (h : r = .error .wait) :
    Waits i s := by
  subst h
  exact e

theorem traps_finishAt {i : Instr} {s : State} {r : Act State} {c : BitVec 8} {v : Word} (e : exec i s = finishAt i s r)
    (h : r = .error (.trap c v)) (hc : c ≠ 0x05 := by decide) : Traps i s c v := by
  subst h
  exact e.trans (congrArg _ (stopped_trap s i c v hc))

/-! ## Queues of an engine -/

@[simp] theorem Pillar.engine_modEngine (x : Pillar) (e : Engine) (f : EngineUnit → EngineUnit) :
    (x.modEngine e f).engine e = f (x.engine e) := by cases e <;> rfl

@[simp] theorem Pillar.modEngine_modEngine (x : Pillar) (e : Engine) (f g : EngineUnit → EngineUnit) :
    (x.modEngine e f).modEngine e g = x.modEngine e fun u => g (f u) := by cases e <;> rfl

@[simp] theorem Pillar.modEngine_engine (x : Pillar) (e : Engine) : (x.modEngine e fun _ => x.engine e) = x := by
  cases e <;> rfl

@[simp] theorem EngineUnit.queue_setQueue (u : EngineUnit) (t : StrandId) (q : List Dispatched) :
    (u.setQueue t q).queue t = q := by
  simp [EngineUnit.queue, EngineUnit.setQueue]

theorem EngineUnit.queue_setQueue_other (u : EngineUnit) {t w : StrandId} (q : List Dispatched) (h : w ≠ t) :
    (u.setQueue t q).queue w = u.queue w := by
  have h' : t.val ≠ w.val := fun e => h (Fin.ext e.symm)
  simp [EngineUnit.queue, EngineUnit.setQueue, h']

/-! ## The effect of dispatch -/

/-- The pillar of the current strand after the dispatch of a captured instruction with a ring entry: all but the count of the
strand's dispatches (R93, R373). -/
def Pillar.take (x : Pillar) (e : Engine) (d : Dispatched) (r : RingEntry) : Pillar :=
  { x.modEngine e (fun u => u.setQueue d.strand (u.queue d.strand ++ [d])) with
    ring := x.ring.set (d.seq.toNat % 64) r, seqCounter := x.seqCounter + 1 }

/-- The ring entry of a captured instruction (R373, R374). -/
def State.ringEntry (s : State) (e : Engine) (d : Dispatched) : RingEntry :=
  { seq := d.seq, ended := false, faulting := false, handling := false
    dwords := match d.instr.row with | some (r, f) => s.ringDwords e r f d | none => [] }

theorem Pillar.engine_take (x : Pillar) (e : Engine) (d : Dispatched) (r : RingEntry) :
    (x.take e d r).engine e = (x.engine e).setQueue d.strand ((x.engine e).queue d.strand ++ [d]) := by cases e <;> rfl

theorem Pillar.strands_take (x : Pillar) (e : Engine) (d : Dispatched) (r : RingEntry) : (x.take e d r).strands = x.strands := by
  cases e <;> rfl

theorem Pillar.ls_take (x : Pillar) (e : Engine) (d : Dispatched) (r : RingEntry) : (x.take e d r).ls = x.ls := by
  cases e <;> rfl

/-- Dispatch changes the engine's queue, the ring, the sequence counter and the strands, and nothing else of the pillar. -/
theorem Pillar.take_frame (x : Pillar) (e : Engine) (d : Dispatched) (r : RingEntry) (t : StrandId) (f : Strand → Strand) :
    { (((x.take e d r).modStrand t f).modEngine e fun _ => x.engine e) with
      ring := x.ring, seqCounter := x.seqCounter, strands := x.strands } = x := by
  cases e <;> simp only [Pillar.take, Pillar.modStrand, Pillar.setStrand, Pillar.modEngine, Pillar.engine]

theorem State.dispatchAs_eq (s : State) (e : Engine) (d : Dispatched) :
    s.dispatchAs e d = (s.modMe fun x => x.take e d (s.ringEntry e d)).modSt fun r => { r with worms := r.worms + 1 } := rfl

theorem State.me_dispatchAs (s : State) (e : Engine) (d : Dispatched) :
    (s.dispatchAs e d).me =
      (s.me.take e d (s.ringEntry e d)).modStrand s.curT fun r => { r with worms := r.worms + 1 } := by
  rw [State.dispatchAs_eq, State.me_modSt, State.me_modMe]
  rfl

theorem State.st_dispatchAs (s : State) (e : Engine) (d : Dispatched) :
    (s.dispatchAs e d).st = { s.st with worms := s.st.worms + 1 } := by
  rw [State.dispatchAs_eq, State.st_modSt, State.st_modMe _ _ fun x => Pillar.strands_take ..]

theorem sameElsewhere_dispatchAs (s : State) (e : Engine) (d : Dispatched) : SameElsewhere s (s.dispatchAs e d) :=
  sameElsewhere_trans (sameElsewhere_modMe s _) (sameElsewhere_modSt _ _)

theorem sameBytes_dispatchAs (s : State) (e : Engine) (d : Dispatched) : SameBytes s (s.dispatchAs e d) := by
  refine sameBytes_of_me (sameElsewhere_dispatchAs s e d) ?_
  rw [State.me_dispatchAs]
  exact congrArg LocalStore.bytes (Pillar.ls_take s.me e d (s.ringEntry e d))

/-- The instruction stands at the end of its strand's queue (R93). -/
theorem State.queue_dispatchAs (s : State) (e : Engine) {d : Dispatched} (h : d.strand = s.curT) :
    ((s.dispatchAs e d).me.engine e).queue s.curT = (s.me.engine e).queue s.curT ++ [d] := by
  have he : (s.dispatchAs e d).me.engine e = (s.me.take e d (s.ringEntry e d)).engine e := by
    rw [State.me_dispatchAs]
    cases e <;> rfl
  rw [he, Pillar.engine_take, h, EngineUnit.queue_setQueue]

theorem State.seqCounter_dispatchAs (s : State) (e : Engine) (d : Dispatched) :
    (s.dispatchAs e d).me.seqCounter = s.me.seqCounter + 1 := by
  rw [State.me_dispatchAs]
  rfl

theorem State.ring_dispatchAs (s : State) (e : Engine) (d : Dispatched) :
    (s.dispatchAs e d).me.ring.get? (d.seq.toNat % 64) = some (s.ringEntry e d) := by
  rw [State.me_dispatchAs]
  exact NatMap.get?_set_same ..

/-! ## What dispatch captures -/

theorem State.fieldG_eq (s : State) (c : Cls) (n : Nat) : s.fieldG c n = if c = .g then s.g n else {} := by
  simp only [State.fieldG, beq_iff_eq]

theorem State.capture_row {s : State} {i : Instr} {r : Row} {f : Fields} (h : i.row = some (r, f)) :
    (s.capture i).gd = s.fieldG (fieldClasses r f).1 f.dNum ∧ (s.capture i).gs = s.fieldG (fieldClasses r f).2.1 f.sNum ∧
      (s.capture i).gt = s.fieldG (fieldClasses r f).2.2 f.tNum := by
  simp only [State.capture, h, and_self]

theorem State.capture_strand (s : State) (i : Instr) : (s.capture i).seq = s.me.seqCounter ∧ (s.capture i).strand = s.curT ∧
    (s.capture i).instr = i ∧ (s.capture i).fmt = s.st.fmt ∧ (s.capture i).ord = s.st.worms := by
  unfold State.capture
  cases i.row <;> exact ⟨rfl, rfl, rfl, rfl, rfl⟩

/-- A queue holds two instructions, and an entry that is kept may not be overwritten (R93, R373). -/
theorem State.canDispatch_iff (s : State) (e : Engine) : s.canDispatch e = true ↔
    ((s.me.engine e).queue s.curT).length < 2 ∧
      ∀ r, s.me.ring.get? (s.me.seqCounter.toNat % 64) = some r → r.kept = false := by
  unfold State.canDispatch
  cases h : s.me.ring.get? (s.me.seqCounter.toNat % 64) <;> simp [h]

theorem State.room_ok {s : State} {e : Engine} (h : s.canDispatch e = true) : s.room e = .ok () := by
  rw [State.room, h, waitFor_true]

theorem State.room_wait {s : State} {e : Engine} (h : s.canDispatch e = false) : s.room e = .error .wait := by
  rw [State.room, h, waitFor_false]

theorem dispatchEffect : Claims.dispatchEffect := by
  intro s e i t d
  obtain ⟨hseq, hstrand, hinstr, hfmt, hord⟩ := State.capture_strand s i
  have ht : t = s.dispatchAs e d := rfl
  refine ⟨sameElsewhere_dispatchAs s e d, sameBytes_dispatchAs s e d, State.st_dispatchAs s e d, fun w hw => ?_,
    State.queue_dispatchAs s e hstrand, State.seqCounter_dispatchAs s e d, ?_, ?_, hseq, hstrand, hinstr, hfmt, hord,
    fun r f hr => ?_, State.canDispatch_iff s e⟩
  · rw [ht, State.me_dispatchAs, Pillar.strand_modStrand_other _ _ hw, Pillar.strand, Pillar.strands_take]
    rfl
  · have h := State.ring_dispatchAs s e d
    rw [hseq] at h
    rw [ht, h]
    exact congrArg (fun q => some (q, false, false, false)) hseq
  · rw [ht, State.me_dispatchAs]
    exact Pillar.take_frame ..
  · obtain ⟨hd, hs, hg⟩ := State.capture_row (s := s) hr
    rw [← State.fieldG_eq, ← State.fieldG_eq, ← State.fieldG_eq]
    exact ⟨hd, hs, hg⟩

/-! ## The vector instructions (R93, R100, R173, R178, R179) -/

/-- The vector instructions without a general register as a destination, and without an address, have one shape. -/
theorem exec_vectorForms : ∀ mk ∈ Claims.vectorForms, ∀ f s, exec (mk f) s = vecIssue (mk f) s := by
  simp only [Claims.vectorForms, List.forall_mem_cons, List.not_mem_nil, false_imp_iff, implies_true, and_true]
  exact ⟨exec_vadd, exec_vsub, exec_vmul, exec_vdiv, exec_vmin, exec_vmax, exec_vfma, exec_vfms, exec_vabs, exec_vneg,
    exec_vsqrt, exec_vand, exec_vor, exec_vxor, exec_vandn, exec_vshl, exec_vshr, exec_vsar, exec_vcmp, exec_vsel, exec_vmov,
    exec_vbcast, exec_vins, exec_kand, exec_kor, exec_knot, exec_kmovk, exec_vcvt, exec_vquant, exec_vdequant, exec_vexp2,
    exec_vlog2, exec_vrcp, exec_vrsqrt, exec_vred, exec_vperm, exec_vshuf, exec_vrot, exec_vcompress, exec_vexpand, exec_vdot⟩

/-- Those with a general register as a destination have one shape (R100). -/
theorem exec_vectorToG : ∀ mk ∈ [(Instr.vext : Fields → Instr), .kmovg, .kpopc, .vbscale],
    ∀ f s, exec (mk f) s = vecIssueG (mk f) f s := by
  simp only [List.forall_mem_cons, List.not_mem_nil, false_imp_iff, implies_true, and_true]
  exact ⟨exec_vext, exec_kmovg, exec_kpopc, exec_vbscale⟩

theorem exec_vectorMem : ∀ mk ∈ [(Instr.vld : Fields → Instr), .vst], ∀ f s, exec (mk f) s = vecIssueMem (mk f) f s := by
  simp only [List.forall_mem_cons, List.not_mem_nil, false_imp_iff, implies_true, and_true]
  exact ⟨exec_vld, exec_vst⟩

theorem exec_vectorGather : ∀ mk ∈ [(Instr.vgather : Fields → Instr), .vscatter],
    ∀ f s, exec (mk f) s = vecIssueGather (mk f) f s := by
  simp only [List.forall_mem_cons, List.not_mem_nil, false_imp_iff, implies_true, and_true]
  exact ⟨exec_vgather, exec_vscatter⟩

/-- A dispatch after checks that pass: the strand goes on if the queue has room, and waits otherwise (R93). -/
theorem dispatch_finish {i : Instr} {s t : State} {e : Engine} {r : Act State} (h : exec i s = finish i s r)
    (hr : r = s.room e >>= fun _ => .ok t) :
    (s.canDispatch e = true → Runs i s (s.past i t)) ∧ (s.canDispatch e = false → Waits i s) := by
  refine ⟨fun hc => runs_finish h ?_, fun hc => waits_finish h ?_⟩
  · rw [hr, State.room_ok hc, act_ok_bind]
  · rw [hr, State.room_wait hc, act_error_bind]

/-- The range check of n bytes that lie in local store above the code passes (R126). -/
theorem Pillar.lsFault_none {x : Pillar} {a n : Nat} (hx : x.xb ≤ a) (he : a + n ≤ lsEnd) : x.lsFault a n = none := by
  rw [Pillar.lsFault, if_neg (by omega), if_neg (by omega)]

theorem Pillar.lsFault_past {x : Pillar} {a n : Nat} (h : lsEnd < a + n) : x.lsFault a n = some 0x13 := if_pos h

theorem Pillar.lsFault_code {x : Pillar} {a n : Nat} (he : a + n ≤ lsEnd) (hx : a < x.xb) : x.lsFault a n = some 0x14 := by
  rw [Pillar.lsFault, if_neg (by omega), if_pos hx]

/-- Dispatch of VLD and VST: alignment, then the range of all 64 bytes, then room (R178). -/
theorem vecIssueMem_cases {i : Instr} {f : Fields} {s : State} (h : exec i s = vecIssueMem i f s) (hc : s.addrClean f) :
    let ea := s.effAddr f
    let w := (typeOf .f32 f).width / 8
    (ea.toNat % w = 0 → s.me.xb ≤ ea.toNat → ea.toNat + 64 ≤ lsEnd →
      (s.canDispatch .vector = true → Runs i s (s.past i (s.dispatchAs .vector { s.capture i with slot := ea.toNat }))) ∧
      (s.canDispatch .vector = false → Waits i s)) ∧
    (ea.toNat % w ≠ 0 → Traps i s 0x1A ea) ∧
    (ea.toNat % w = 0 → lsEnd < ea.toNat + 64 → Traps i s 0x13 ea) ∧
    (ea.toNat % w = 0 → ea.toNat + 64 ≤ lsEnd → ea.toNat < s.me.xb → Traps i s 0x14 ea) := by
  intro ea w
  unfold vecIssueMem at h
  rw [State.mAddr_clean hc, act_ok_bind] at h
  refine ⟨fun ha hx he => dispatch_finish h ?_, fun ha => traps_finish h ?_, fun ha he => traps_finish h ?_,
    fun ha he hx => traps_finish h ?_⟩
  · rw [beq_iff_eq.mpr ha, check_true, act_ok_bind, Pillar.lsFault_none hx he]
  · rw [beq_eq_false_iff_ne.mpr ha, check_false, act_error_bind]
  · rw [beq_iff_eq.mpr ha, check_true, act_ok_bind, Pillar.lsFault_past he]
  · rw [beq_iff_eq.mpr ha, check_true, act_ok_bind, Pillar.lsFault_code he hx]

theorem vectorDispatch : Claims.vectorDispatch := by
  intro f s
  refine ⟨fun mk hm => dispatch_finish (exec_vectorForms mk hm f s) rfl, fun mk hm hd => ?_,
    fun mk hm hc => vecIssueMem_cases (exec_vectorMem mk hm f s) hc, fun mk hm => ⟨fun hb => ?_, fun hb => ?_⟩⟩
  · refine dispatch_finish (exec_vectorToG mk hm f s) ?_
    rw [State.destOk_free hd, act_ok_bind]
  · refine dispatch_finish (exec_vectorGather mk hm f s) ?_
    rw [notPoison_good hb, act_ok_bind]
  · refine traps_finish (exec_vectorGather mk hm f s) ?_
    rw [notPoison_bad hb]
    rfl

/-- Settles O14: one rule for each field that dispatch changes, and the order of a vector instruction's checks. -/
theorem vectorUnitDispatch : Obligations.VectorUnitDispatch := ⟨dispatchEffect, vectorDispatch⟩

end Sys2Proof.Machine
end

section
/-! PROOFS. The state in which the strands of a job start (R85). -/

set_option Elab.async false

namespace Sys2Proof.Machine

/-- A list of words put into registers from n + 1 on. -/
theorem getElem?_foldl_putWords (gs : List Word) (n : Nat) (g : Vector PWord 64) (hn : n + gs.length < 64) (k : Nat) :
    ((gs.zipIdx n).foldl (fun (g : Vector PWord 64) x => g.setIfInBounds (x.2 + 1) { bits := x.1 }) g)[k]? =
      if h : n < k ∧ k ≤ n + gs.length then some { bits := gs[k - (n + 1)] } else g[k]? := by
  induction gs generalizing n g with
  | nil => rw [dif_neg (by simp only [List.length_nil]; omega)]; rfl
  | cons v gs ih =>
    simp only [List.length_cons] at hn ⊢
    rw [List.zipIdx_cons, List.foldl_cons, ih (n + 1) _ (by omega)]
    by_cases h : n + 1 < k ∧ k ≤ n + 1 + gs.length
    · have e : k - (n + 1) = k - (n + 1 + 1) + 1 := by omega
      rw [dif_pos h, dif_pos (by omega)]
      simp only [e, List.getElem_cons_succ]
    · rw [dif_neg h, Vector.getElem?_setIfInBounds]
      by_cases hk : n + 1 = k
      · subst hk
        rw [if_pos rfl, if_pos (by omega), dif_pos (by omega)]
        simp only [Nat.sub_self, List.getElem_cons_zero]
      · rw [if_neg hk, dif_neg (by omega)]

/-- The words in g1 to g10 of a strand at the start of a job (R85). -/
def startWords (j : Job) (r : Rect) (p : PillarId) (t : Nat) : List Word :=
  let col := gridCol p - r.col0
  let right := j.twin && j.wid ≤ col
  [j.record.args[0], j.record.args[1], j.record.args[2], j.record.args[3],
    word ((gridRow p - r.row0) * 256 + if right then col - j.wid else col), word t,
    word (j.record.hgt * 256 + j.record.wid), j.record.jobId, p.setWidth 64, word (boolNat right)]

/-- The registers at the start of a job (R85). -/
theorem startStrand_reg (j : Job) (r : Rect) (p : PillarId) (t k : Nat) :
    (startStrand j r p t).reg k = if h : 0 < k ∧ k ≤ 10 then { bits := (startWords j r p t)[k - 1]'(by
      show k - 1 < 10; omega) } else {} := by
  have hg := getElem?_foldl_putWords (startWords j r p t) 0 Strand.reset.g (by
    show 0 + 10 < 64
    decide) k
  by_cases h0 : k = 0
  · subst h0; rfl
  · rw [Strand.reg, if_neg h0]
    refine (congrArg (·.getD {}) hg).trans ?_
    by_cases h : 0 < k ∧ k ≤ 10
    · rw [dif_pos h, dif_pos (by simpa [startWords] using h)]
      simp
    · rw [dif_neg h, dif_neg (by simpa [startWords] using h)]
      show ((Vector.replicate 64 ({} : PWord))[k]?).getD {} = {}
      rw [Vector.getElem?_replicate]
      split <;> rfl

/-- A strand of a pillar that starts. -/
theorem Pillar.start_strand (x : Pillar) (j : Job) (r : Rect) (p : PillarId) (image : Memory) (bad : NatSet) (t : StrandId) :
    (x.start j r p image bad).strand t = startStrand j r p t.val := by
  simp [Pillar.strand, Pillar.start]

/-- The local store of a pillar that starts: the image, and above it what was there (R85). -/
theorem Pillar.start_get (x : Pillar) (j : Job) (r : Rect) (p : PillarId) (image : Memory) (bad : NatSet) (a : Nat) :
    (x.start j r p image bad).ls.bytes.get a =
      if a < j.record.codeKb * 1024 then image.get a else x.ls.bytes.get a := by
  refine (Memory.get_write_read _ _ 0 0 _ a).trans ?_
  simp only [Nat.zero_le, true_and, Nat.zero_add, Nat.sub_zero]

/-- Settles O42: the ten words are read back from the registers they were put in, and the image from local store. -/
theorem jobStart : Obligations.JobStart := by
  intro j r p x image bad y
  refine ⟨fun t => ?_, rfl, fun a => Pillar.start_get ..⟩
  intro z col right
  have hz : z = startStrand j r p t.val := Pillar.start_strand ..
  have hreg (k : Nat) := startStrand_reg j r p t.val k
  have hright : right ↔ (j.twin && decide (j.wid ≤ gridCol p - r.col0)) = true := by simp [right, col]
  rw [hz]
  refine ⟨fun k => ?_, fun h => ⟨?_, ?_⟩, fun h => ⟨?_, ?_⟩, hreg 6, hreg 7, hreg 8, ?_, fun k hk => ?_, rfl, rfl, rfl, rfl,
    ?_, ?_, rfl, fun h => if_pos h, fun h => if_neg (Nat.not_lt.mpr h)⟩
  · rw [hreg]
    fin_cases k <;> rfl
  · rw [hreg 5]
    simp [startWords, hright.not.mp h, col]
  · rw [hreg 10]
    simp [startWords, hright.not.mp h, boolNat, word]
  · rw [hreg 5]
    simp [startWords, hright.mp h, col]
  · rw [hreg 10]
    simp [startWords, hright.mp h, boolNat, word]
  · have hw : p.setWidth 64 = word p.toNat := BitVec.eq_of_toNat_eq (by simp [word])
    exact (hreg 9).trans (congrArg (fun w => ({ bits := w } : PWord)) hw)
  · rw [hreg k, dif_neg (by omega)]
  · show Word.bits Strand.reset.status 7 6 = 0
    decide
  · show bitOf Strand.reset.status.toNat 5 = false
    decide

end Sys2Proof.Machine
end

section
/-! PROOFS. The dispatch of the messages and of the procedures (R93, R299, R303-R309). -/

set_option Elab.async false

namespace Sys2Proof.Machine

/-! ## Room at the port -/

/-- There is room exactly when the port is free (R93, R303). -/
theorem State.procRoom_free {s : State} (h : Claims.portFree s) : s.procRoom = .ok () := by
  obtain ⟨hn, hc⟩ := h
  rw [State.procRoom, decide_eq_true hn, waitFor_true, act_ok_bind, State.room_ok hc]

theorem State.procRoom_busy {s : State} (h : ¬ Claims.portFree s) : s.procRoom = .error .wait := by
  by_cases hn : s.me.outstandingOf s.curT < 16
  · have hc : s.canDispatch .message = false := Bool.eq_false_iff.mpr fun hc => h ⟨hn, hc⟩
    rw [State.procRoom, decide_eq_true hn, waitFor_true, act_ok_bind, State.room_wait hc]
  · rw [State.procRoom, decide_eq_false hn, waitFor_false, act_error_bind]

/-- A dispatch to the port after checks that pass. -/
theorem port_finish {i : Instr} {s t : State} {r : Act State} (h : exec i s = finish i s r)
    (hr : r = s.procRoom >>= fun _ => .ok t) :
    (Claims.portFree s → Runs i s (s.past i t)) ∧ (¬ Claims.portFree s → Waits i s) := by
  refine ⟨fun hp => runs_finish h ?_, fun hp => waits_finish h ?_⟩
  · rw [hr, State.procRoom_free hp, act_ok_bind]
  · rw [hr, State.procRoom_busy hp, act_error_bind]

/-! ## The procedures with an address in memory -/

theorem returns_eq (i : Instr) : returns i = Claims.returned i := by
  unfold returns Claims.returned
  split <;> simp [bitOf_eq]

theorem State.destOk_all {s : State} {l : List Nat} (h : ∀ d ∈ l, s.destFree d) : (l.forM fun d => s.destOk d) = .ok () := by
  induction l with
  | nil => rfl
  | cons d l ih =>
    show (s.destOk d >>= fun _ => l.forM fun d => s.destOk d) = _
    rw [State.destOk_free (h d (.head _)), act_ok_bind]
    exact ih fun d hd => h d (.tail _ hd)

theorem sizeOf_eq (m : BitVec 7) : sizeOf m = 2 ^ (m.toNat % 4) := by
  norm_num [sizeOf, bitsOf_eq]

/-- The eight forms have one shape (R303-R308). -/
theorem exec_remotes : ∀ e ∈ Claims.remotes, ∀ f s, exec (e.1 f) s = remoteForm (e.1 f) f (e.2 f) s := by
  simp only [Claims.remotes, List.forall_mem_cons, List.not_mem_nil, false_imp_iff, implies_true, and_true, ← sizeOf_eq]
  exact ⟨exec_rld, exec_rst, exec_ramo, exec_rcas, exec_rdecw, exec_rwadd, exec_rwrd, exec_rfadd⟩

theorem remoteForm_cases {i : Instr} {f : Fields} {n : Nat} {s : State} (h : exec i s = remoteForm i f n s)
    (hc : s.addrClean f) (hd : ∀ d ∈ Claims.returned i, s.destFree d) :
    let ea := s.effAddr f
    (ea.toNat % n ≠ 0 → Traps i s 0x1A ea) ∧
    (ea.toNat % n = 0 →
      (Claims.portFree s → Runs i s (s.past i (s.dispatchProc i ea.toNat (packValue (s.g (f.dNum + 1)))))) ∧
      (¬ Claims.portFree s → Waits i s)) := by
  intro ea
  unfold remoteForm at h
  rw [State.destOk_all (returns_eq i ▸ hd), act_ok_bind, State.mAddr_clean hc, act_ok_bind] at h
  refine ⟨fun ha => traps_finish h ?_, fun ha => port_finish h ?_⟩
  · rw [beq_eq_false_iff_ne.mpr ha, check_false, act_error_bind]
  · rw [beq_iff_eq.mpr ha, check_true, act_ok_bind]

/-! ## The fields of operands -/

/-- A dispatch after one check of the operands, whose meaning is P. -/
theorem checked_finish {i : Instr} {s t : State} {ok : Bool} {P : Prop} {c : BitVec 8} {v : Word} (hP : ok = true ↔ P)
    (h : exec i s = finish i s (check ok c v >>= fun _ => s.procRoom >>= fun _ => .ok t)) (hc : c ≠ 0x05 := by decide) :
    (P → Claims.portFree s → Runs i s (s.past i t)) ∧ (P → ¬ Claims.portFree s → Waits i s) ∧ (¬ P → Traps i s c v) := by
  have hok (p : P) : exec i s = finish i s (s.procRoom >>= fun _ => .ok t) := by
    rw [h, hP.mpr p, check_true, act_ok_bind]
  refine ⟨fun p => (port_finish (hok p) rfl).1, fun p => (port_finish (hok p) rfl).2, fun p => traps_finish h ?_ hc⟩
  rw [Bool.eq_false_iff.mpr (mt hP.mp p), check_false, act_error_bind]

theorem rfillFields_iff (va : Word) : (va.bits 63 58 == 0 && va.bits 47 19 == 0 && va.bits 2 0 == 0) = true ↔
    va.toNat / 2 ^ 58 = 0 ∧ va.toNat / 2 ^ 19 % 2 ^ 29 = 0 ∧ va.toNat % 8 = 0 := by
  have := va.isLt
  simp only [wordBits_eq, Bool.and_eq_true, beq_iff_eq]
  omega

theorem rsigFields_iff (a : Word) : (a.bits 63 10 == 0) = true ↔ a.toNat < 2 ^ 10 := by
  have := a.isLt
  simp only [wordBits_eq, beq_iff_eq]
  omega

/-- RCOPY's second operand obeys the rules of R308. -/
def rcopyFields (b : Word) : Bool :=
  b.bits 63 58 == 0 && b.bits 47 45 == 0 && b.bits 31 19 == 0 && b.bits 5 0 == 0 && (1 ≤ b.bits 44 32 && b.bits 44 32 ≤ 6144)

theorem rcopyFields_iff (b : Word) : rcopyFields b = true ↔
    b.toNat / 2 ^ 58 = 0 ∧ b.toNat / 2 ^ 45 % 8 = 0 ∧ b.toNat / 2 ^ 19 % 2 ^ 13 = 0 ∧ b.toNat % 64 = 0 ∧
      1 ≤ b.toNat / 2 ^ 32 % 2 ^ 13 ∧ b.toNat / 2 ^ 32 % 2 ^ 13 ≤ 6144 := by
  have := b.isLt
  simp only [rcopyFields, wordBits_eq, Bool.and_eq_true, beq_iff_eq, decide_eq_true_eq]
  omega

/-- The rules of SEND's operands (R299). -/
theorem sendFields_iff (a b : Word) (m : BitVec 7) : sendFields a b m = true ↔
    a.toNat < 2 ^ 11 ∧ (a.toNat / 2 ^ 10 = 1 → a.toNat / 2 ^ 4 % 2 ^ 6 = 0 ∧ m.toNat % 4 = 0) ∧
      b.toNat < 2 ^ 29 ∧ b.toNat % 8 = 0 ∧ b.toNat / 2 ^ 19 % 2 ^ 10 % 8 = 0 ∧ b.toNat / 2 ^ 19 % 2 ^ 10 ≤ 512 := by
  have := a.isLt
  have := b.isLt
  simp only [sendFields, wordBits_eq, bitsOf_eq, bitOf_eq, Bool.and_eq_true, Bool.or_eq_true, Bool.not_eq_true',
    beq_iff_eq, decide_eq_true_eq, decide_eq_false_iff_not]
  omega

theorem rcopy_cases (f : Fields) (s : State) :
    let a := (s.g (rrA f)).bits
    let b := (s.g (rrB f)).bits
    let ok := b.toNat / 2 ^ 58 = 0 ∧ b.toNat / 2 ^ 45 % 8 = 0 ∧ b.toNat / 2 ^ 19 % 2 ^ 13 = 0 ∧ b.toNat % 64 = 0 ∧
      1 ≤ b.toNat / 2 ^ 32 % 2 ^ 13 ∧ b.toNat / 2 ^ 32 % 2 ^ 13 ≤ 6144
    (a.toNat % 64 = 0 → ok → Claims.portFree s →
      Runs (.rcopy f) s (s.past (.rcopy f) (s.dispatchProc (.rcopy f) a.toNat b.toNat))) ∧
    (a.toNat % 64 = 0 → ok → ¬ Claims.portFree s → Waits (.rcopy f) s) ∧
    (a.toNat % 64 ≠ 0 → Traps (.rcopy f) s 0x1A a) ∧
    (a.toNat % 64 = 0 → ¬ ok → Traps (.rcopy f) s 0x61 3) := by
  intro a b ok
  have h : exec (.rcopy f) s = finish (.rcopy f) s (check (a.toNat % 64 == 0) 0x1A a >>= fun _ =>
      check (rcopyFields b) 0x61 3 >>= fun _ => s.procRoom >>= fun _ => .ok (s.dispatchProc (.rcopy f) a.toNat b.toNat)) := rfl
  have hal (ha : a.toNat % 64 = 0) := checked_finish (P := ok) (rcopyFields_iff b) (i := .rcopy f) (c := 0x61) (v := 3)
    (t := s.dispatchProc (.rcopy f) a.toNat b.toNat) (by rw [h, beq_iff_eq.mpr ha, check_true, act_ok_bind])
  refine ⟨fun ha => (hal ha).1, fun ha => (hal ha).2.1, fun ha => traps_finish h ?_, fun ha => (hal ha).2.2⟩
  rw [beq_eq_false_iff_ne.mpr ha, check_false, act_error_bind]

/-! ## SEND (R299) -/

/-- SEND with operands that obey the rules: the payload's range, then what `.rel` waits for, then room. -/
theorem execSend_checked {f : Fields} {s : State} (h : sendFields (s.g (rrA f)).bits (s.g (rrB f)).bits f.mod = true) :
    exec (.send f) s = finish (.send f) s (
      let b := (s.g (rrB f)).bits
      let len := b.toNat / 2 ^ 19 % 2 ^ 10
      match (if len = 0 then none else s.me.lsFault (b.toNat % 2 ^ 19) len) with
      | some c => .error (.trap c (word (b.toNat % 2 ^ 19)))
      | none => (if f.mod.toNat / 4 % 2 = 1 then waitFor (s.workDone && s.fenceDone 4 15) else .ok ()) >>= fun _ =>
          s.procRoom >>= fun _ => .ok (s.dispatchProc (.send f) (s.g (rrA f)).bits.toNat b.toNat)) := by
  have h0 : Word.bits (s.g (rrB f)).bits 18 0 = (s.g (rrB f)).bits.toNat % 2 ^ 19 := by
    rw [wordBits_eq, Nat.pow_zero, Nat.div_one]
  rw [exec_send, execSend]
  dsimp only
  have h19 : Word.bits (s.g (rrB f)).bits 28 19 = (s.g (rrB f)).bits.toNat / 2 ^ 19 % 2 ^ 10 := wordBits_eq ..
  have hrel : bitOf f.mod.toNat 2 = decide (f.mod.toNat / 4 % 2 = 1) := bitOf_eq ..
  rw [h, check_true, act_ok_bind, h19, h0, hrel]
  generalize (if (s.g (rrB f)).bits.toNat / 2 ^ 19 % 2 ^ 10 = 0 then none
    else s.me.lsFault ((s.g (rrB f)).bits.toNat % 2 ^ 19) ((s.g (rrB f)).bits.toNat / 2 ^ 19 % 2 ^ 10)) = fault
  cases fault with
  | some c => rfl
  | none =>
    by_cases hr : f.mod.toNat / 4 % 2 = 1
    · simp only [hr, decide_true, if_true, act_ok_bind]
    · simp only [hr, decide_false, Bool.false_eq_true, if_false, act_ok_bind]

theorem send_cases (f : Fields) (s : State) :
    let a := (s.g (rrA f)).bits
    let b := (s.g (rrB f)).bits
    let len := b.toNat / 2 ^ 19 % 2 ^ 10
    let ok := a.toNat < 2 ^ 11 ∧ (a.toNat / 2 ^ 10 = 1 → a.toNat / 2 ^ 4 % 2 ^ 6 = 0 ∧ f.mod.toNat % 4 = 0) ∧
      b.toNat < 2 ^ 29 ∧ b.toNat % 8 = 0 ∧ len % 8 = 0 ∧ len ≤ 512
    let at' := b.toNat % 2 ^ 19
    let fits := len = 0 ∨ (s.me.xb ≤ at' ∧ at' + len ≤ lsEnd)
    let ready := (f.mod.toNat / 4 % 2 = 1 → s.workDone = true ∧ s.fenceDone 4 15 = true) ∧ Claims.portFree s
    (ok → fits → ready → Runs (.send f) s (s.past (.send f) (s.dispatchProc (.send f) a.toNat b.toNat))) ∧
    (ok → fits → ¬ ready → Waits (.send f) s) ∧
    (ok → len ≠ 0 → lsEnd < at' + len → Traps (.send f) s 0x13 (word at')) ∧
    (ok → len ≠ 0 → at' + len ≤ lsEnd → at' < s.me.xb → Traps (.send f) s 0x14 (word at')) ∧
    (¬ ok → Traps (.send f) s 0x61 1) := by
  intro a b len ok at' fits ready
  have hok : sendFields a b f.mod = true ↔ ok := sendFields_iff a b f.mod
  have hfits (h : fits) : (if len = 0 then none else s.me.lsFault at' len) = none := by
    obtain h | ⟨hx, he⟩ := h
    · exact if_pos h
    · rw [Pillar.lsFault_none hx he, ite_self]
  have hrun (ho : ok) (hf : fits) : exec (.send f) s = finish (.send f) s
      ((if f.mod.toNat / 4 % 2 = 1 then waitFor (s.workDone && s.fenceDone 4 15) else .ok ()) >>= fun _ =>
        s.procRoom >>= fun _ => .ok (s.dispatchProc (.send f) a.toNat b.toNat)) := by
    rw [execSend_checked (hok.mpr ho)]
    dsimp only
    rw [hfits hf]
  refine ⟨fun ho hf hr => runs_finish (hrun ho hf) ?_, fun ho hf hr => waits_finish (hrun ho hf) ?_, fun ho hl he => ?_,
    fun ho hl he hx => ?_, fun ho => ?_⟩
  · obtain ⟨hrel, hport⟩ := hr
    have hw : (if f.mod.toNat / 4 % 2 = 1 then waitFor (s.workDone && s.fenceDone 4 15) else .ok ()) = .ok () := by
      split
      · next hm =>
        obtain ⟨h1, h2⟩ := hrel hm
        rw [h1, h2]
        rfl
      · rfl
    rw [hw, act_ok_bind, State.procRoom_free hport, act_ok_bind]
  · by_cases hrel : f.mod.toNat / 4 % 2 = 1 → s.workDone = true ∧ s.fenceDone 4 15 = true
    · rw [State.procRoom_busy fun hport => hr ⟨hrel, hport⟩]
      split
      · next hm =>
        obtain ⟨h1, h2⟩ := hrel hm
        rw [h1, h2]
        rfl
      · rfl
    · obtain ⟨hm, hw⟩ := Classical.not_imp.mp hrel
      rw [if_pos hm, Bool.eq_false_iff.mpr fun h => hw (Bool.and_eq_true_iff.mp h), waitFor_false, act_error_bind]
  · refine traps_finish (execSend_checked (hok.mpr ho)) ?_
    dsimp only
    rw [if_neg hl, Pillar.lsFault_past he]
  · refine traps_finish (execSend_checked (hok.mpr ho)) ?_
    dsimp only
    rw [if_neg hl, Pillar.lsFault_code he hx]
  · refine traps_finish (r := check (sendFields a b f.mod) 0x61 1 >>= fun _ => _) (exec_send f s) ?_
    rw [Bool.eq_false_iff.mpr (mt hok.mp ho), check_false, act_error_bind]

/-! ## What a dispatch to the port leaves (R93, R303) -/

theorem Pillar.modStrand_id (x : Pillar) (t : StrandId) : (x.modStrand t fun r => r) = x := by
  simp [Pillar.modStrand, Pillar.setStrand, Pillar.strand]

theorem State.me_pend (s : State) (d : Nat) : (s.pend d).me =
    s.me.modStrand s.curT fun r => { r with pending := (if d = 0 then [] else [d]) ++ r.pending } := by
  unfold State.pend
  split
  · exact (Pillar.modStrand_id ..).symm
  · exact State.me_modSt s _

theorem sameElsewhere_refl (s : State) : SameElsewhere s s := ⟨rfl, fun _ _ => rfl⟩

theorem sameElsewhere_pend (s : State) (d : Nat) : SameElsewhere s (s.pend d) := by
  unfold State.pend
  split
  · exact sameElsewhere_refl s
  · exact sameElsewhere_modSt s _

/-- Registers that become pending, one after another (R100): of the pillar only the strand's list of them changes. -/
theorem State.foldl_pend (l : List Nat) (s : State) : SameElsewhere s (l.foldl State.pend s) ∧
    (l.foldl State.pend s).me =
      s.me.modStrand s.curT fun r => { r with pending := (l.filter (· ≠ 0)).reverse ++ r.pending } := by
  induction l generalizing s with
  | nil => exact ⟨sameElsewhere_refl s, (Pillar.modStrand_id ..).symm⟩
  | cons d l ih =>
    have h1 := sameElsewhere_pend s d
    obtain ⟨he, hm⟩ := ih (s.pend d)
    refine ⟨sameElsewhere_trans h1 he, hm.trans ?_⟩
    rw [sameElsewhere_curT h1, State.me_pend, Pillar.modStrand_modStrand]
    by_cases hd : d = 0 <;> simp [hd]

/-- The pillar after a dispatch to the port: the engine's queue, the outstanding procedures, the pending registers. -/
theorem State.dispatchProc_me (s : State) (i : Instr) (a b : Nat) :
    let d : Dispatched := { s.capture i with slot := a, aux := b }
    let y := (s.dispatchAs .message d).me
    SameElsewhere s (s.dispatchProc i a b) ∧ (s.dispatchProc i a b).me =
      { y with msg := { y.msg with outstanding := y.msg.outstanding ++ [(s.curT, d.seq)] } }.modStrand s.curT
        fun r => { r with pending := ((returns i).filter (· ≠ 0)).reverse ++ r.pending } := by
  intro d y
  obtain ⟨he, hm⟩ := State.foldl_pend (returns i) ((s.dispatchAs .message d).modMe fun x =>
    { x with msg := { x.msg with outstanding := x.msg.outstanding ++ [(s.curT, d.seq)] } })
  refine ⟨sameElsewhere_trans (sameElsewhere_trans (sameElsewhere_dispatchAs s _ d) (sameElsewhere_modMe _ _)) he, hm.trans ?_⟩
  rw [State.me_modMe]
  rfl

theorem dispatchProc_effect (s : State) (i : Instr) (a b : Nat) :
    let t := s.dispatchProc i a b
    (t.me.msg.unit.queue s.curT) = (s.me.msg.unit.queue s.curT) ++ [{ s.capture i with slot := a, aux := b }] ∧
      t.me.msg.outstanding = s.me.msg.outstanding ++ [(s.curT, s.me.seqCounter)] ∧ t.me.seqCounter = s.me.seqCounter + 1 ∧
      t.st.g = s.st.g ∧ SameBytes s t ∧
      ∀ d, d ∈ t.st.pending ↔ d ∈ s.st.pending ∨ (d ≠ 0 ∧ d ∈ Claims.returned i) := by
  intro t
  obtain ⟨he, hm⟩ := State.dispatchProc_me s i a b
  obtain ⟨hseq, hstrand, -⟩ := State.capture_strand s i
  have hst : t.st = { s.st with
      worms := s.st.worms + 1, pending := ((returns i).filter (· ≠ 0)).reverse ++ s.st.pending } := by
    rw [sameElsewhere_st he, hm, Pillar.strand_modStrand]
    have h := State.st_dispatchAs s .message { s.capture i with slot := a, aux := b }
    rw [sameElsewhere_st (sameElsewhere_dispatchAs ..)] at h
    exact congrArg (fun r : Strand => { r with pending := ((returns i).filter (· ≠ 0)).reverse ++ r.pending }) h
  refine ⟨?_, ?_, ?_, by rw [hst], sameBytes_of_me he ?_, fun d => ?_⟩
  · rw [hm]
    exact State.queue_dispatchAs s .message (d := { s.capture i with slot := a, aux := b }) hstrand
  · rw [hm, State.me_dispatchAs]
    exact congrArg (fun q => s.me.msg.outstanding ++ [(s.curT, q)]) hseq
  · rw [hm]
    exact State.seqCounter_dispatchAs ..
  · rw [hm, State.me_dispatchAs]
    rfl
  · rw [hst, ← returns_eq]
    simp only [List.mem_append, List.mem_reverse, List.mem_filter, decide_eq_true_eq]
    tauto

/-- Settles O35: each form is checks of its operands, room at the port, and one dispatch. -/
theorem messageDispatch : Obligations.MessageDispatch := by
  intro f s
  refine ⟨fun e he hc hd => remoteForm_cases (exec_remotes e he f s) hc hd, fun hc => ?_, ?_, rcopy_cases f s, send_cases f s,
    dispatchProc_effect s⟩
  · refine checked_finish (rfillFields_iff _) ?_
    rw [exec_rfill, execRfill, State.mAddr_clean hc, act_ok_bind]
  · obtain ⟨hrun, hwait, htrap⟩ := checked_finish (rsigFields_iff (s.g (rrA f)).bits) (exec_rsig f s)
    exact ⟨hrun, hwait, fun h => htrap (Nat.not_lt.mpr h)⟩

end Sys2Proof.Machine
end

section
/-! PROOFS. What the reads of memory by a unit leave of the strands. -/

set_option Elab.async false

namespace Sys2Proof.Machine

/-- The same strand runs, and no strand of the package has changed. -/
def SameStrands (s t : State) : Prop :=
  t.curP = s.curP ∧ t.curT = s.curT ∧ ∀ p, (t.pil p).strands = (s.pil p).strands

namespace SameStrands
variable {s t : State}

theorem refl (s : State) : SameStrands s s := ⟨rfl, rfl, fun _ => rfl⟩

theorem st (h : SameStrands s t) : t.st = s.st := by
  obtain ⟨hp, ht, hs⟩ := h
  unfold State.st State.strandAt Pillar.strand
  rw [hp, ht, hs]

/-- A pillar changes, but not its strands. -/
theorem modPil (h : SameStrands s t) {p : PillarId} {f : Pillar → Pillar} (hf : ∀ x, (f x).strands = x.strands) :
    SameStrands s (t.modPil p f) := by
  obtain ⟨hp, ht, hs⟩ := h
  refine ⟨hp, ht, fun q => ?_⟩
  by_cases hq : q = p
  · subst hq
    rw [State.pil_modPil, hf, hs]
  · rw [State.pil_modPil_other t f hq, hs]

theorem modStack (h : SameStrands s t) {n : Nat} {f : Stack → Stack} : SameStrands s (t.modStack n f) := h

theorem countStack (h : SameStrands s t) {st n k : Nat} : SameStrands s (t.countStack st n k) := h

theorem ite {c : Prop} [Decidable c] {u : State} (h : SameStrands s t) (h' : SameStrands s u) :
    SameStrands s (if c then t else u) := by
  split
  · exact h
  · exact h'

theorem foldl {α : Type} {g : State → α → State} (hg : ∀ t a, SameStrands s t → SameStrands s (g t a)) (l : List α)
    (h : SameStrands s t) : SameStrands s (l.foldl g t) :=
  List.foldlRecOn l g h fun t ht a _ => hg t a ht

theorem countMiss (h : SameStrands s t) {w : Walker} {missed walked : Bool} : SameStrands s (t.countMiss w missed walked) := by
  have h1 : SameStrands s (t.modPil w.p fun p =>
      p.count (if w.tile then 0x4B9 else 0x4B8) (boolNat (missed && !w.shuttle))) := h.modPil fun _ => rfl
  exact h1

theorem countForward (h : SameStrands s t) {q : PillarId} : SameStrands s (t.countForward q) := by
  unfold State.countForward
  split
  · exact h
  · exact h.modPil fun _ => rfl

theorem noteDirect (h : SameStrands s t) {pa : Nat} : SameStrands s (t.noteDirect pa) := by
  unfold State.noteDirect
  split
  · exact h.countForward
  · exact h

theorem noteWalk (h : SameStrands s t) {asid : BitVec 16} {va : Word} : SameStrands s (t.noteWalk asid va) := by
  unfold State.noteWalk
  split
  · exact h.foldl (fun _ _ h' => h'.noteDirect) _
  · exact h

theorem noteXlate (h : SameStrands s t) {w : Walker} {x : Xlate} : SameStrands s (t.noteXlate w x) := by
  have hp : ∀ x e, (if w.shuttle then x
      else if w.tile then { x with tileTlb := touchTlb 32 x.tileTlb e }
      else { x with dataTlb := touchTlb 64 x.dataTlb e } : Pillar).strands = x.strands := fun x e => by
    split
    · rfl
    · split <;> rfl
  unfold State.noteXlate
  extract_lets st missed walked s1 s2 s3
  have h1 : SameStrands s s1 := h.countMiss
  have h2 : SameStrands s s2 := h1.noteWalk.ite h1
  have h3 : SameStrands s s3 := h2.modPil fun x => hp x _
  exact (h.ite h.countStack.noteWalk).ite (h3.modStack.ite h3)

theorem noteForward (h : SameStrands s t) {p : PillarId} {pa : Nat} : SameStrands s (t.noteForward p pa) := by
  unfold State.noteForward
  split
  · exact h.countForward
  · exact h

theorem noteRequest (h : SameStrands s t) {w : Walker} {pa : Nat} : SameStrands s (t.noteRequest w pa) := by
  unfold State.noteRequest
  exact h.noteDirect.ite h.noteForward

theorem useRow (h : SameStrands s t) {pa : Nat} : SameStrands s (t.useRow pa) := by
  unfold State.useRow
  split
  · refine h.modPil fun x => ?_
    show (x.interfere _).strands = _
    unfold Pillar.interfere
    split
    · split <;> rfl
    · rfl
  · exact h

theorem touchRow (h : SameStrands s t) {w : Walker} {pa : Nat} : SameStrands s (t.touchRow w pa) := by
  unfold State.touchRow
  split
  · split
    · exact h.modPil fun _ => rfl
    · exact h.useRow
  · exact h

theorem noteBulk (h : SameStrands s t) {w : Walker} {kind : AccessKind} {va : Word} : SameStrands s (t.noteBulk w kind va) := by
  unfold State.noteBulk
  split
  · refine h.ite ?_
    split
    · exact h.ite (h.modPil fun _ => rfl)
    · exact h
  · exact h

theorem readPart (h : SameStrands s t) {w : Walker} {kind : AccessKind} {va : Word} {n : Nat} {beat : Bool} :
    Gives (fun r => SameStrands s r.1) (t.readPart w kind va n beat) := by
  unfold State.readPart
  refine .andThen fun a => .andThen fun _ => ?_
  extract_lets s1 s2 free
  have h1 : SameStrands s s1 := h.noteXlate
  have h2 : SameStrands s s2 := h1.noteRequest.ite h1
  refine .ite (.ok h2) ?_
  split
  · exact .ok (h2.touchRow.ite h2)
  · exact .ok (h2.touchRow.ite h2)
  · exact .ok h2
  · exact .ok h2

theorem readParts {w : Walker} {kind : AccessKind} (fuel : Nat) (h : SameStrands s t) {va : Word} {n off : Nat} {m : Memory}
    {b : NatSet} : Gives (fun r => SameStrands s r.1) (State.readParts w kind fuel t va n off m b) := by
  induction fuel generalizing t va n off m b with
  | zero => exact .ok h
  | succ fuel ih =>
    unfold State.readParts
    split
    · exact .ok h
    · exact .bind h.readPart fun r hr => ih hr

theorem readBytes (h : SameStrands s t) {w : Walker} {kind : AccessKind} {va : Word} {n : Nat} :
    Gives (fun r => SameStrands s r.1) (t.readBytes w kind va n) := h.noteBulk.readParts n

end SameStrands

end Sys2Proof.Machine
end

section
/-! PROOFS. HANDOFF, EXIT and LAUNCH (R96-R98). -/

set_option Elab.async false

namespace Sys2Proof.Machine

/-! ## HANDOFF and EXIT (R97, R98) -/

/-- What stands behind the wait of HANDOFF and EXIT goes on once the work is done. -/
theorem handoff_ready {s : State} (h : Claims.handoffReady s) {r : Act State} :
    (waitFor (s.workDone && s.fenceDone 3 15) >>= fun _ => s.noLates >>= fun _ => r) = r := by
  obtain ⟨hw, hf, hl⟩ := h
  rw [hw, hf, State.noLates, hl]
  rfl

theorem handoff_waits {s : State} (h : ¬ Claims.handoffReady s) {r : Act State} :
    (waitFor (s.workDone && s.fenceDone 3 15) >>= fun _ => s.noLates >>= fun _ => r) = .error .wait := by
  by_cases hw : s.workDone = true ∧ s.fenceDone 3 15 = true
  · have hl : s.st.deliverable.isNone = false :=
      Bool.eq_false_iff.mpr fun hl => h ⟨hw.1, hw.2, Option.isNone_iff_eq_none.mp hl⟩
    rw [hw.1, hw.2, State.noLates, hl]
    rfl
  · rw [Bool.eq_false_iff.mpr (mt Bool.and_eq_true_iff.mp hw), waitFor_false, act_error_bind]

/-- The state in which EXIT leaves its strand, before the launch unit is told (R98). -/
def State.exited (s : State) (f : Fields) : State :=
  (s.setPil s.curP (s.me.discardOpen s.curT s.clk)).modSt fun t =>
    { t with
      exitCode := BitVec.ofNat 16 ((s.g f.sNum).bits.toNat % 2 ^ 16), handedOff := true, run := .exited, blocked := .no
      sampled := none }

theorem exec_exit_strand {f : Fields} {s : State} (h : s.st.inFibre = false) : exec (.exit f) s = finishAt (.exit f) s (
    waitFor (s.workDone && s.fenceDone 3 15) >>= fun _ => s.noLates >>= fun _ =>
      .ok (if (s.exited f).me.allStopped then (s.exited f).leaveLoom s.curP else s.exited f).notifyHandoff) := by
  have hcode : (s.g f.sNum).bits.setWidth 16 = BitVec.ofNat 16 ((s.g f.sNum).bits.toNat % 2 ^ 16) :=
    BitVec.eq_of_toNat_eq (by simp)
  rw [exec_exit, execExit, h, Bool.not_false, check_true, act_ok_bind, hcode]
  rfl

theorem handoff_and_exit (f : Fields) (s : State) :
    (Claims.handoffReady s →
      (s.st.handedOff = true → Runs (.handoff f) s (s.past (.handoff f) s)) ∧
      (s.st.handedOff = false → Runs (.handoff f) s
        (s.past (.handoff f) (s.modSt fun t => { t with handedOff := true }).notifyHandoff)) ∧
      (s.st.inFibre = false →
        ((s.exited f).me.allStopped = false → Runs (.exit f) s (s.exited f).notifyHandoff) ∧
        ((s.exited f).me.allStopped = true → Runs (.exit f) s ((s.exited f).leaveLoom s.curP).notifyHandoff))) ∧
    (¬ Claims.handoffReady s → Waits (.handoff f) s ∧ (s.st.inFibre = false → Waits (.exit f) s)) ∧
    (s.st.inFibre = true → Traps (.exit f) s 0x18 0) := by
  refine ⟨fun hr => ⟨fun hh => runs_finish (exec_handoff f s) ?_, fun hh => runs_finish (exec_handoff f s) ?_,
    fun hf => ⟨fun ha => runs_finishAt (exec_exit_strand hf) ?_, fun ha => runs_finishAt (exec_exit_strand hf) ?_⟩⟩,
    fun hr => ⟨waits_finish (exec_handoff f s) (handoff_waits hr),
      fun hf => waits_finishAt (exec_exit_strand hf) (handoff_waits hr)⟩, fun hf => traps_finishAt (exec_exit f s) ?_⟩
  · rw [handoff_ready hr, hh]
    rfl
  · rw [handoff_ready hr, hh]
    rfl
  · rw [handoff_ready hr, ha]
    rfl
  · rw [handoff_ready hr, ha]
    rfl
  · rw [hf]
    rfl

/-! ## LAUNCH (R96) -/

theorem State.nextPc_congr {s t : State} (h : t.st.pc = s.st.pc) (i : Instr) : t.nextPc i = s.nextPc i := by
  rw [State.nextPc, State.nextPc, h]

/-- A code is given, and the strand goes on. -/
theorem past_setG {s t : State} (h : t.st.pc = s.st.pc) (i : Instr) (d : Nat) (v : PWord) :
    (t.setG d v).setPc ((t.setG d v).nextPc i) = s.past i (t.setG d v) := by
  rw [State.past, State.nextPc_congr]
  rw [State.setG, State.st_modSt, Strand.setReg_pc, h]

theorem State.lq_setLq (s : State) {n : Nat} (hn : n < 16) (q : LaunchQueue) : (s.setLq n q).lq n = q := by
  simp [State.lq, State.setLq, hn]

/-- A queue without tail writes that wait is only let go of. -/
theorem State.releaseTail_free {s : State} {n : Nat} (h : (s.lq n).doorbells = []) :
    s.releaseTail n = s.setLq n { s.lq n with holder := none, writing := {}, doorbells := [] } := by
  rw [State.releaseTail, h]
  rfl

/-- LAUNCH gives 2 (R96): the queue is not enabled, not for devices, or not for this user. -/
def launchClosed (s : State) (q : LaunchQueue) : Prop :=
  q.ctl.getLsbD 0 = false ∨ q.ctl.getLsbD 1 = false ∨ (s.st.lvl = 0 ∧ (q.ctl.getLsbD 2 = false ∨ q.asid ≠ s.me.asid))

/-- What LAUNCH does at an open queue (R96). -/
def launchOpen (f : Fields) (s : State) : Act State := do
  let n := f.mod.toNat % 16
  let q := s.lq n
  waitFor (s.fenceDone 3 15)
  waitFor q.holder.isNone
  let (s', m, bad) ← s.readBytes s.walker .read (s.g f.sNum).bits 128
  check bad.elems.isEmpty 0x0D (recordPoison (s.g f.sNum).bits bad)
  .ok (if q.count = 2 ^ ringExp q.ctl then (s'.setGw f.dNum 1).setPc ((s'.setGw f.dNum 1).nextPc (.launch f))
    else s'.launchSlot f n m)

theorem execLaunch_eq {f : Fields} {s : State} (hd : s.destFree f.dNum) (ha : (s.g f.sNum).bits.toNat % 128 = 0) :
    (launchClosed s (s.lq (f.mod.toNat % 16)) →
      exec (.launch f) s = .next (s.past (.launch f) (s.setG f.dNum { bits := word 2 }))) ∧
    (¬ launchClosed s (s.lq (f.mod.toNat % 16)) → exec (.launch f) s = finishAt (.launch f) s (launchOpen f s)) := by
  have hn : bitsOf f.mod.toNat 3 0 = f.mod.toNat % 16 := by norm_num [bitsOf_eq]
  have hal : (Word.bits (s.g f.sNum).bits 6 0 == 0) = true := by
    rw [wordBits_eq, Nat.pow_zero, Nat.div_one, beq_iff_eq]
    exact ha
  have h2 : (s.setGw f.dNum 2).setPc ((s.setGw f.dNum 2).nextPc (.launch f)) =
      s.past (.launch f) (s.setG f.dNum { bits := word 2 }) := past_setG rfl _ _ _
  rw [exec_launch, execLaunch, State.destOk_free hd, act_ok_bind, hn]
  simp only [hal, check_true, act_ok_bind, bitOf_testBit, BitVec.testBit_toNat, Bool.or_eq_true, Bool.and_eq_true,
    Bool.not_eq_true', beq_iff_eq, bne_iff_ne, ne_eq]
  unfold launchClosed
  refine ⟨fun hc => ?_, fun hc => ?_⟩
  · split
    · exact congrArg _ h2
    · next h1 =>
      rw [if_pos (by tauto)]
      exact congrArg _ h2
  · rw [if_neg (by tauto), if_neg (by tauto)]
    rfl

/-- A record that is written to a free slot (R96, R79): the tail goes up, and the queue is let go of. -/
theorem launchSlot_written {f : Fields} {s t : State} {n : Nat} {m : Memory} {b : NatMap Nat} (hn : n < 16)
    (hw : (s.lq n).writing = {}) (hd : (s.lq n).doorbells = [])
    (h : s.writeBytes (launchWalker (s.lq n).asid) ((s.lq n).slotVa (s.lq n).tail) 128 m {} 0 {} = .ok (t, b))
    (hq : t.lq n = s.lq n) (hpc : t.st.pc = s.st.pc) :
    (s.launchSlot f n m).mem = t.mem ∧ (s.launchSlot f n m).st.pc = s.nextPc (.launch f) ∧
      ((s.launchSlot f n m).lq n).tail = (s.lq n).tail + 1 ∧ ((s.launchSlot f n m).lq n).holder = none ∧
      (f.dNum ≠ 0 → f.dNum < 64 → (s.launchSlot f n m).st.reg f.dNum = { bits := 0 }) := by
  have hs : s.launchSlot f n m = (t.setLq n { s.lq n with tail := (s.lq n).tail + 1 }).endLaunch f n 0 := by
    rw [State.launchSlot, hw, h]
    dsimp only
    rw [hq]
    rfl
  have hl := State.lq_setLq t hn { s.lq n with tail := (s.lq n).tail + 1 }
  rw [hs, State.endLaunch, State.releaseTail_free (by rw [hl]; exact hd), hl]
  refine ⟨rfl, ?_, ?_, ?_, fun h0 h64 => ?_⟩
  · rw [State.st_modSt, State.setPc, State.st_modSt]
    exact State.nextPc_congr hpc _
  · exact congrArg LaunchQueue.tail (State.lq_setLq _ hn _)
  · exact congrArg LaunchQueue.holder (State.lq_setLq _ hn _)
  · rw [State.st_modSt, State.setPc, State.st_modSt, State.issueAfter, State.st_modSt, State.setGw, State.setG, State.st_modSt]
    refine (Strand.reg_setReg _ _ _ _ h64).trans ?_
    rw [if_pos ⟨rfl, h0⟩]

/-- Settles O41: HANDOFF and EXIT stand behind one wait, and LAUNCH writes the slot of the tail that it then lets go of. -/
theorem jobInstructions : Obligations.JobInstructions := by
  intro f s
  obtain ⟨hready, hwait, hfibre⟩ := handoff_and_exit f s
  refine ⟨hready, hwait, hfibre, fun hd => ?_⟩
  intro va n q gives closed
  refine ⟨fun ha => traps_finishAt (r := s.destOk f.dNum >>= fun _ => check (Word.bits va 6 0 == 0) 0x1A va >>= fun _ => _)
    (exec_launch f s) ?_, fun ha hc => (execLaunch_eq hd ha).1 hc, fun ha hc hf => ?_,
    fun ha hc hf hh hw hdb s1 m hr => ?_⟩
  · have hal : (Word.bits va 6 0 == 0) = false := by
      rw [wordBits_eq, Nat.pow_zero, Nat.div_one]
      exact beq_eq_false_iff_ne.mpr ha
    rw [State.destOk_free hd, act_ok_bind, hal, check_false, act_error_bind]
  · refine waits_finishAt ((execLaunch_eq hd ha).2 hc) ?_
    rw [launchOpen, hf, waitFor_false, act_error_bind]
  · have hs : SameStrands s s1 := (SameStrands.refl s).readBytes hr
    have hopen : launchOpen f s = .ok (if q.count = 2 ^ ringExp q.ctl then
        (s1.setGw f.dNum 1).setPc ((s1.setGw f.dNum 1).nextPc (.launch f)) else s1.launchSlot f n m) := by
      rw [launchOpen, hf, waitFor_true, act_ok_bind]
      dsimp only
      rw [show (s.lq (f.mod.toNat % 16)).holder = none from hh, Option.isNone_none, waitFor_true, act_ok_bind, hr]
      rfl
    have hpc : s1.st.pc = s.st.pc := congrArg Strand.pc hs.st
    refine ⟨fun hfull => runs_finishAt ((execLaunch_eq hd ha).2 hc) ?_, fun s2 b hfree hq1 hwr hpc2 _ _ hq2 => ?_⟩
    · rw [hopen, if_pos hfull]
      exact congrArg _ (past_setG hpc _ _ _)
    · refine ⟨s1.launchSlot f n m, runs_finishAt ((execLaunch_eq hd ha).2 hc) (by rw [hopen, if_neg hfree]), ?_⟩
      have hwr' : s1.writeBytes (launchWalker (s1.lq n).asid) ((s1.lq n).slotVa (s1.lq n).tail) 128 m {} 0 {} = .ok (s2, b) := by
        rw [hq1]
        exact hwr
      have h := launchSlot_written (f := f) (Nat.mod_lt _ (by decide)) (by rw [hq1]; exact hw) (by rw [hq1]; exact hdb) hwr'
        (hq2.trans hq1.symm) (hpc2.trans hpc.symm)
      rw [hq1, State.nextPc_congr hpc] at h
      exact h

end Sys2Proof.Machine
end

section
/-! PROOFS. The events of the launch unit (R73, R80, R82-R85, R87, R412). -/

set_option Elab.async false

namespace Sys2Proof.Machine

/-! ## Tail writes and admission (R73, R80) -/

/-- A tail write overfills the ring or goes back, or takes effect (R73). -/
theorem State.writeTail_eq (s : State) (n : Nat) (v : BitVec 32) : State.writeTail n s v =
    if 2 ^ ringExp (s.lq n).ctl < (v - (s.lq n).head).toNat ∨ (v - (s.lq n).head).toNat < (s.lq n).count
    then s.setLq n { s.lq n with ctl := (s.lq n).ctl ||| 8 } else s.setLq n { s.lq n with tail := v } := by
  simp only [State.writeTail, Bool.or_eq_true, decide_eq_true_eq]

theorem lqtailWrite_cases (s : State) (q : BitVec 4) (v : BitVec 32) :
    let l := s.lq q.toNat
    let bad := 2 ^ ringExp l.ctl < (v - l.head).toNat ∨ (v - l.head).toNat < (l.tail - l.head).toNat
    (l.holder = none → bad → Runs (.lqtailWrite q v) s (s.setLq q.toNat { l with ctl := l.ctl ||| 8 })) ∧
    (l.holder = none → ¬ bad → Runs (.lqtailWrite q v) s (s.setLq q.toNat { l with tail := v })) ∧
    (l.holder ≠ none → Runs (.lqtailWrite q v) s (s.setLq q.toNat { l with doorbells := l.doorbells ++ [v] })) := by
  intro l bad
  have free (h : l.holder = none) : exec (.lqtailWrite q v) s = .next (State.writeTail q.toNat s v) := by
    rw [exec_lqtailWrite, execLqtailWrite]
    exact if_neg (by rw [show (s.lq q.toNat).holder = none from h]; exact Bool.false_ne_true)
  refine ⟨fun h hb => ?_, fun h hb => ?_, fun h => if_pos (Option.isSome_iff_ne_none.mpr h)⟩
  · rw [Runs, free h, State.writeTail_eq]
    exact congrArg _ (if_pos hb)
  · rw [Runs, free h, State.writeTail_eq]
    exact congrArg _ (if_neg hb)

theorem jobAdmit_cases (s : State) (q : BitVec 4) :
    let l := s.lq q.toNat
    (s.admitOpen = false ∨ s.admitOrder.head? ≠ some q.toNat → Runs (.jobAdmit q) s s) ∧
    (s.admitOpen = true → s.admitOrder.head? = some q.toNat → l.reading.failed = false →
      (∀ s' m, s.readBytes (launchWalker l.asid) .read (l.slotVa l.head) 128 = .ok (s', m, {}) →
        Runs (.jobAdmit q) s (s'.takeIn q.toNat (recordOf m)
          (((recordOf m).fault ((s'.launch.jobs.filter Job.live).map fun j => j.record.jobId)).map fun c =>
            BitVec.ofNat 8 c))) ∧
      ∀ c v, s.readBytes (launchWalker l.asid) .read (l.slotVa l.head) 128 = .error (.trap c v) →
        Runs (.jobAdmit q) s ((s.noteFault (launchWalker l.asid) (.trap c v)).takeIn q.toNat {} (some 10))) := by
  intro l
  refine ⟨fun h => if_pos ?_, fun ho hq hf => ?_⟩
  · simpa using h
  · have hturn : (!s.admitOpen || s.admitOrder.head? != some q.toNat) = false := by simp [ho, hq]
    have hread : exec (.jobAdmit q) s = _ := (if_neg (Bool.eq_false_iff.mp hturn)).trans (if_neg (Bool.eq_false_iff.mp hf))
    refine ⟨fun s' m hr => hread.trans ?_, fun c v hr => hread.trans ?_⟩
    · rw [hr]
      rfl
    · rw [hr]

/-! ## Placement (R82, R83) -/

theorem State.seats_congr {s t : State} (hp : t.pillars = s.pillars) (hs : t.saves = s.saves) (n : Nat) (r : Rect) :
    t.seats n r = s.seats n r := by
  unfold State.seats State.seat
  rw [hp, hs]

/-- A request for pre-emption leaves the pillars and the saved contexts as they are. -/
theorem State.requestPreempt_frame (s : State) (j : Job) :
    (s.requestPreempt j).pillars = s.pillars ∧ (s.requestPreempt j).saves = s.saves := by
  unfold State.requestPreempt
  split <;> exact ⟨rfl, rfl⟩

theorem State.preempts_requestPreempt (s : State) (j : Job) {q : Rect} (h : j.rect = some q) :
    (s.requestPreempt j).preempts = s.preempts ++ s.seats j.number q := by
  rw [State.requestPreempt, h]
  rfl

theorem State.preempts_subset_requestPreempt (s : State) (j : Job) : s.preempts ⊆ (s.requestPreempt j).preempts := by
  unfold State.requestPreempt
  split
  · exact List.subset_append_left ..
  · exact List.Subset.refl _

/-- Requests that are noted stay noted. -/
theorem State.preempts_subset_foldl (l : List Job) (s : State) :
    s.preempts ⊆ (l.foldl (fun s j => s.requestPreempt j) s).preempts := by
  induction l generalizing s with
  | nil => exact List.Subset.refl _
  | cons j l ih => exact List.Subset.trans (s.preempts_subset_requestPreempt j) (ih _)

/-- Every pillar of every job of a list is asked for (R83, R382). -/
theorem State.mem_preempts_foldl {l : List Job} {j : Job} {q : Rect} {p : PillarId} (hj : j ∈ l) (hq : j.rect = some q)
    (s : State) (hp : p ∈ s.seats j.number q) : p ∈ (l.foldl (fun s j => s.requestPreempt j) s).preempts := by
  induction l generalizing s with
  | nil => cases hj
  | cons k l ih =>
    rcases List.mem_cons.mp hj with rfl | hj
    · refine State.preempts_subset_foldl l _ ?_
      rw [State.preempts_requestPreempt s j hq]
      exact List.mem_append_right _ hp
    · obtain ⟨h1, h2⟩ := s.requestPreempt_frame k
      exact ih hj _ (by rw [State.seats_congr h1 h2]; exact hp)

/-- A running job that holds a pillar of a chosen rectangle is asked to leave (R83). -/
theorem preempts_of_holder (s : State) (k : Job) (r : Rect) {j : Job} (hj : j ∈ s.launch.jobs) (hr : j.runs = true)
    (hn : j.preempting = false) (hold : ∃ p ∈ s.seats k.number r, (s.pil p).job = some j.number) {q : Rect}
    (hq : j.rect = some q) {p : PillarId} (hp : p ∈ s.seats j.number q) :
    let s1 := s.modJob k.number fun j => { j with chosen := some r }
    p ∈ ((s1.holders (s1.seats k.number r)).foldl (fun s j => s.requestPreempt j) s1).preempts := by
  intro s1
  obtain ⟨p0, hp0, hjob⟩ := hold
  have hseats (n : Nat) (r : Rect) : s1.seats n r = s.seats n r := State.seats_congr rfl rfl n r
  obtain ⟨j1, hj1, hnum, hrect, hruns, hpre⟩ : ∃ j1 ∈ s1.launch.jobs, j1.number = j.number ∧ j1.rect = some q ∧
      j1.runs = true ∧ j1.preempting = false := by
    refine ⟨_, List.mem_map_of_mem hj, ?_⟩
    split <;> exact ⟨rfl, hq, hr, hn⟩
  refine State.mem_preempts_foldl (j := j1) (List.mem_filter.mpr ⟨hj1, ?_⟩) hrect s1 (by rw [hnum, hseats]; exact hp)
  rw [hruns, hpre, hnum, hseats, Bool.not_false, Bool.and_self, Bool.true_and]
  exact List.any_eq_true.mpr ⟨p0, hp0, beq_iff_eq.mpr hjob⟩

/-- What placement makes of the state, by what it does next (R82, R83). -/
def State.placed (s : State) : PlaceAction → State
  | .nothing => s
  | .refuse j => (s.retire j 0x11 0).settleJobs
  | .preempt j r =>
    let s1 := s.modJob j.number fun j => { j with chosen := some r }
    (s1.holders (s1.seats j.number r)).foldl (fun s j => s.requestPreempt j) s1
  | .place j r => if j.state == 0x05 then s.holdRect j r else s.placeNew j r

theorem runs_jobPlace (s : State) {a : PlaceAction} (h : s.settleJobs.placeStep s.settleJobs.placeOrder = a) :
    Runs .jobPlace s (s.settleJobs.placed a) := by
  rw [Runs, exec_jobPlace, execJobPlace]
  dsimp only
  rw [h]
  cases a <;> rfl

theorem jobPlace_cases (s : State) :
    let s' := s.settleJobs
    (s'.placeStep s'.placeOrder = .nothing → Runs .jobPlace s s') ∧
    (∀ j, s'.placeStep s'.placeOrder = .refuse j → Runs .jobPlace s (s'.retire j 0x11 0).settleJobs) ∧
    (∀ j r, s'.placeStep s'.placeOrder = .place j r →
      (j.state = 0x05 → Runs .jobPlace s (s'.holdRect j r)) ∧ (j.state ≠ 0x05 → Runs .jobPlace s (s'.placeNew j r))) ∧
    ∀ k r, s'.placeStep s'.placeOrder = .preempt k r → ∃ t, Runs .jobPlace s t ∧
      ∀ j ∈ s'.launch.jobs, j.runs = true → j.preempting = false →
        (∃ p ∈ s'.seats k.number r, (s'.pil p).job = some j.number) → ∀ q, j.rect = some q →
        ∀ p ∈ s'.seats j.number q, p ∈ t.preempts := by
  intro s'
  refine ⟨fun h => runs_jobPlace s h, fun j h => runs_jobPlace s h, fun j r h => ⟨fun h5 => ?_, fun h5 => ?_⟩,
    fun k r h => ⟨_, runs_jobPlace s h, fun j hj hr hn hold q hq p hp => preempts_of_holder s' k r hj hr hn hold hq hp⟩⟩
  · have ht := runs_jobPlace s h
    rwa [State.placed, if_pos (beq_iff_eq.mpr h5)] at ht
  · have ht := runs_jobPlace s h
    rwa [State.placed, if_neg (mt beq_iff_eq.mp h5)] at ht

/-! ## Age, pre-emption, start and scrub (R83, R85, R87, R412) -/

theorem backfillAgeLimit_effect (s : State) (job : Word) : ∃ t, Runs (.backfillAgeLimit job) s t ∧
    t.launch.jobs.length = s.launch.jobs.length ∧
    ∀ (n : Nat) (j : Job), s.launch.jobs[n]? = some j → t.launch.jobs[n]? = some
      { j with aged := j.aged || (j.record.jobId == job && j.waitsForPlace && (j.eligibleAt.any fun c => c + 2 ^ 20 ≤ s.clk)) } := by
  unfold Runs
  rw [exec_backfillAgeLimit, execBackfillAgeLimit]
  generalize 2 ^ 20 = limit
  refine ⟨_, rfl, List.length_map _, fun n j hj => ?_⟩
  refine (List.getElem?_map ..).trans ?_
  rw [hj, Option.map_some]
  congr 1
  split
  · next c h =>
    have hc : (j.eligibleAt.any fun c => c + limit ≤ s.clk) = decide (c + limit ≤ s.clk) := by rw [h, Option.any_some]
    rw [hc]
    split
    · next ha => rw [ha, Bool.or_true]
    · next ha => rw [Bool.eq_false_iff.mpr ha, Bool.or_false]
  · next h =>
    have hc : (j.eligibleAt.any fun c => c + limit ≤ s.clk) = false := by rw [h, Option.any_none]
    rw [hc, Bool.and_false, Bool.or_false]

theorem preemptreqWrite_cases (s : State) (v : Word) :
    let p : PillarId := v.setWidth 10
    (s.jobOf p = none → Runs (.preemptreqWrite v) s s) ∧
    ∀ j, s.jobOf p = some j →
      ((s.pil p).phase = .held → j.preempting = false → s.canSave j = true →
        Runs (.preemptreqWrite v) s (s.requestPreempt j)) ∧
      (s.canSave j = false → Runs (.preemptreqWrite v) s s) := by
  intro p
  unfold Runs
  rw [exec_preemptreqWrite, execPreemptreqWrite]
  refine ⟨fun h => ?_, fun j h => ⟨fun hh hn hs => ?_, fun hs => ?_⟩⟩
  · rw [show s.jobOf (v.setWidth 10) = none from h]
  · rw [show s.jobOf (v.setWidth 10) = some j from h]
    dsimp only
    rw [show (s.pil (v.setWidth 10)).phase = .held from hh, hn, hs]
    rfl
  · rw [show s.jobOf (v.setWidth 10) = some j from h]
    dsimp only
    rw [hs, Bool.and_false, if_neg Bool.false_ne_true]

theorem imageLoaded_start (s : State) {job : Word} {j : Job} {r : Rect} {s' : State} {m : Memory} {bad : NatSet}
    (hj : (s.launch.jobs.find? fun j => j.live && j.record.jobId == job && j.loading && j.state == 0x01 &&
      j.request.isNone) = some j) (hr : j.rect = some r) (hd : j.drafting = false)
    (hm : s.readBytes (launchWalker j.asid) .read j.record.codeVa (j.record.codeKb * 1024) = .ok (s', m, bad)) :
    Runs (.imageLoaded job) s
      (((r.pillars.foldl (fun s p => s.modPil (s.seat j.number p) fun x => x.start j r p m bad) s').modJob j.number fun j =>
        { (j.enter 0x02 0) with loading := false }).flush) := by
  rw [Runs, exec_imageLoaded, execImageLoaded, hj]
  dsimp only
  rw [hr]
  dsimp only
  rw [hd, if_neg Bool.false_ne_true, hm]

theorem pillarScrubDone_cases (s : State) (p : PillarId) :
    let x := s.pil p
    (x.phase ≠ .scrubbing ∨ s.shuttleDone p = false → Runs (.pillarScrubDone p) s s) ∧
    (x.phase = .scrubbing → s.shuttleDone p = true →
      (s.draftOf p = none →
        Runs (.pillarScrubDone p) s (s.setPil p { x.scrub with phase := .free, job := none }).flush) ∧
      ∀ d, s.draftOf p = some d → Runs (.pillarScrubDone p) s
        ((s.freeDraft d).modPil p fun x => { x.scrub with phase := .free, job := none }).flush) := by
  intro x
  refine ⟨fun h => if_pos ?_, fun hs hd => ?_⟩
  · simpa using h
  · have hgo : (x.phase != .scrubbing || !s.shuttleDone p) = false := by simp [hs, hd]
    have hrun : exec (.pillarScrubDone p) s = _ := if_neg (Bool.eq_false_iff.mp hgo)
    refine ⟨fun hn => hrun.trans ?_, fun d hn => hrun.trans ?_⟩
    · rw [hn]
      rfl
    · rw [hn]

/-- Settles O43: each event is read off its definition; for a pre-emption, every holder of the rectangle is asked in turn. -/
theorem launchEvents : Obligations.LaunchEvents := by
  intro s
  refine ⟨fun q v => ?_, jobPlace_cases s, backfillAgeLimit_effect s, preemptreqWrite_cases s,
    fun job j r s' m bad hj hr hd hm => imageLoaded_start s hj hr hd hm, pillarScrubDone_cases s⟩
  obtain ⟨hbad, hgood, hheld⟩ := lqtailWrite_cases s q v
  exact ⟨hbad, hgood, hheld, jobAdmit_cases s q⟩

end Sys2Proof.Machine
end

section
/-! PROOFS. The events of issue, of accesses and of translation (R89-R94, R109, R117, R326, R328, R347-R351, R356). -/

set_option Elab.async false

namespace Sys2Proof.Machine

/-! ## Updates of a pillar, and of every pillar -/

theorem sameBytes_modPil (s : State) (p : PillarId) {f : Pillar → Pillar} (h : ∀ x, (f x).ls = x.ls) :
    SameBytes s (s.modPil p f) := by
  refine ⟨fun q a => ?_, fun _ => rfl⟩
  by_cases hq : q = p
  · subst hq
    rw [State.pil_modPil, h]
  · rw [State.pil_modPil_other s f hq]

theorem findEntry_map {α : Type} (g : α → α) (m : List (Nat × α)) (k : Nat) :
    findEntry (m.map fun e => (e.1, g e.2)) k = (findEntry m k).map g := by
  induction m with
  | nil => rfl
  | cons e m ih =>
    rw [List.map_cons, findEntry, findEntry, ih]
    split <;> rfl

/-- After an update of every pillar that the state lists, a pillar is updated, or it is as after reset, as before. -/
theorem State.pil_map {s t : State} {g : Pillar → Pillar}
    (h : t.pillars = { entries := s.pillars.entries.map fun e => (e.1, g e.2) }) (p : PillarId) :
    t.pil p = g (s.pil p) ∨ (t.pil p = Pillar.reset ∧ s.pil p = Pillar.reset) := by
  unfold State.pil NatMap.getD NatMap.get?
  rw [h, findEntry_map]
  cases findEntry s.pillars.entries p.toNat with
  | none => exact .inr ⟨rfl, rfl⟩
  | some x => exact .inl rfl

/-! ## Issue and engine queues (R91, R93, R94, R117) -/

theorem issuePromotion_cases (p : PillarId) (t : StrandId) (s : State) :
    (s.ready p t = true → 64 ≤ ((s.pil p).strand t).waitCount →
      Runs (.issuePromotion p t) s (s.modStrand p t fun r => { r with promoted := true })) ∧
    (s.ready p t = false ∨ ((s.pil p).strand t).waitCount < 64 → Runs (.issuePromotion p t) s s) := by
  refine ⟨fun hr hw => if_pos ?_, fun h => if_neg ?_⟩
  · rw [hr, Bool.true_and]
    exact decide_eq_true hw
  · rw [Bool.and_eq_true, decide_eq_true_eq]
    rintro ⟨hr, hw⟩
    obtain h | h := h
    · rw [hr] at h
      cases h
    · exact absurd hw (Nat.not_le.mpr h)

/-- The vector unit takes the head of the queue whose turn it is (R94, R167). -/
theorem acceptVector_effect {p : PillarId} {s : State} {u : StrandId} {d : Dispatched} {q : List Dispatched}
    (hu : (roundRobin (s.pil p).vec.last).find? ((s.pil p).vectorGoes (s.aclk p)) = some u)
    (hq : (s.pil p).vec.queue u = d :: q) :
    ((s.acceptVector p).pil p).vec =
      { (s.pil p).vec.setQueue u q with last := u, accepted := (s.pil p).vec.accepted ++ [d] } := by
  have hu' : (roundRobin (s.pil p).vec.last).find? ((s.pil p).vectorGoes (s.pilClk (stackOf p))) = some u := hu
  unfold State.acceptVector
  dsimp only
  rw [hu']
  dsimp only
  rw [hq]
  dsimp only
  rw [State.pil_setPil]
  split <;> rfl

theorem engineAccept_cases (p : PillarId) (s : State) :
    let x := s.pil p
    let run := (s.stack (stackOf p)).halted = false
    (¬ run → ∀ e, Runs (.engineAccept p e) s s) ∧
    (run →
      (∀ u d q, (roundRobin x.vec.last).find? (x.vectorGoes (s.aclk p)) = some u → x.vec.queue u = d :: q → x.stopping = false →
        ∃ s', Runs (.engineAccept p .vector) s s' ∧ (s'.pil p).vec.accepted = x.vec.accepted ++ [d] ∧
          (s'.pil p).vec.queue u = q ∧ (s'.pil p).vec.last = u ∧ ∀ w, w ≠ u → (s'.pil p).vec.queue w = x.vec.queue w) ∧
      (x.stopping = true → Runs (.engineAccept p .vector) s s) ∧ Runs (.engineAccept p .tile) s (s.acceptTile p) ∧
      Runs (.engineAccept p .matrix) s (s.acceptMatrix p) ∧ Runs (.engineAccept p .message) s (s.acceptMessage p)) := by
  intro x run
  refine ⟨fun h e => if_pos (Bool.not_eq_false _ ▸ h), fun h => ?_⟩
  have hrun (e : Engine) : exec (.engineAccept p e) s = _ := if_neg (Bool.eq_false_iff.mp h)
  refine ⟨fun u d q hu hq hs => ⟨s.acceptVector p, ?_, ?_⟩, fun hs => ?_, hrun .tile, hrun .matrix, hrun .message⟩
  · exact (hrun .vector).trans (congrArg _ (if_neg (Bool.eq_false_iff.mp hs)))
  · rw [acceptVector_effect hu hq]
    exact ⟨rfl, EngineUnit.queue_setQueue .., rfl, fun w hw => EngineUnit.queue_setQueue_other _ _ hw⟩
  · exact (hrun .vector).trans (congrArg _ (if_pos hs))

theorem dividerFree_effect (p : PillarId) (s : State) : ∃ s', Runs (.dividerFree p) s s' ∧ SameBytes s s' ∧
    (s'.pil p).divider = none ∧ ∀ u, (s'.pil p).strand u = if ((s.pil p).strand u).atDivision
      then { (s.pil p).strand u with blocked := .no, sampled := none } else (s.pil p).strand u := by
  refine ⟨_, exec_dividerFree s, sameBytes_modPil s p fun _ => rfl, ?_, fun u => ?_⟩
  · rw [State.pil_modPil]
  · rw [State.pil_modPil]
    exact Vector.getElem_map ..

/-! ## Accesses that return (R109) -/

theorem State.useRow_mem (s : State) (pa : Nat) : (s.useRow pa).mem = s.mem := by
  unfold State.useRow
  split <;> rfl

theorem storeBufferDrain_cases (p : PillarId) (t : StrandId) (s : State) :
    let r := (s.pil p).strand t
    (r.stores = [] → Runs (.storeBufferDrain p t) s s) ∧
    (∀ b bs, r.stores = b :: bs → ∃ s', Runs (.storeBufferDrain p t) s s' ∧ ((s'.pil p).strand t).stores = bs ∧
      Claims.memoryBut s s' b.pa b.n ∧ s'.mem.read b.pa b.n = b.data % 2 ^ (8 * b.n)) := by
  intro r
  refine ⟨fun h => ?_, fun b bs h => ⟨s.drainStore p t, rfl, ?_⟩⟩
  · rw [Runs, exec_storeBufferDrain, execStoreBufferDrain, State.drainStore, show (s.strandAt p t).stores = [] from h]
  · have hd : s.drainStore p t =
        ((s.physWrite b.pa b.n b.data b.bad).useRow b.pa).modStrand p t fun r => { r with stores := bs } := by
      rw [State.drainStore, show (s.strandAt p t).stores = b :: bs from h]
    have hm : (s.drainStore p t).mem = s.mem.write b.pa b.n b.data := by
      rw [hd, State.modStrand_mem, State.useRow_mem]
      rfl
    refine ⟨?_, fun a ha => ?_, ?_⟩
    · rw [hd, State.modStrand, State.pil_modPil, Pillar.strand_modStrand]
    · rw [hm, Memory.get_write_other _ _ ha]
    · rw [hm, Memory.read_write, Nat.pow_mul]

/-- Only the strand's own access ends, unless the access leaves the doubled rectangle of a twinned job (R397). -/
theorem State.sharers_own {s : State} {p : PillarId} {t : StrandId} {i : Instr} {pa n : Nat} {va : Word} {a b : PWord}
    (hb : ((s.pil p).strand t).blocked = .remote i pa n va a b) (ho : s.outgoing p (placeOf pa) = false) :
    s.sharers p t pa = [(p, t, i)] := by
  unfold State.sharers
  rw [ho, if_neg Bool.false_ne_true]
  dsimp only
  rw [show (s.strandAt p t).blocked = _ from hb]

theorem State.canReturn_access {s : State} {p : PillarId} {t : StrandId} (h : ((s.pil p).strand t).blocked = .access) :
    s.canReturn p t = true := by
  rw [State.canReturn, show (s.strandAt p t).blocked = .access from h]

theorem State.canReturn_free {s : State} {p : PillarId} {t : StrandId} (h : ((s.pil p).strand t).blocked = .no) :
    s.canReturn p t = false := by
  rw [State.canReturn, show (s.strandAt p t).blocked = .no from h]

/-- What the return of data does, by what the strand is blocked in (R109). -/
def dataReturned (p : PillarId) (t : StrandId) (s : State) : Blocked → Out
  | .access => .next (s.modStrand p t Strand.unblock)
  | .remote i pa _ va x y => .next (s.returnRemote p t i pa va x y)
  | _ => .next s

theorem execLoadDataReturn_ready {p : PillarId} {t : StrandId} {s : State} {b : Blocked}
    (hb : ((s.pil p).strand t).blocked = b) (h : s.canReturn p t = true) :
    exec (.loadDataReturn p t) s = dataReturned p t s b := by
  have go : ¬ (!s.canReturn p t) = true := by
    rw [h]
    decide
  subst hb
  exact if_neg go

theorem loadDataReturn_cases (p : PillarId) (t : StrandId) (s : State) :
    let r := (s.pil p).strand t
    (r.blocked = .access → Runs (.loadDataReturn p t) s (s.modStrand p t fun r => { r with blocked := .no, sampled := none })) ∧
    (r.blocked = .no → Runs (.loadDataReturn p t) s s) ∧
    (∀ i o pa n va a b, r.blocked = .remote i pa n va a b → s.canReturn p t = true → s.outgoing p (placeOf pa) = false →
      memOpOf i = some o →
      (∀ pa', (s.focus p t).reach p pa va = .ok pa' →
        let back := (s.focus p t).performRemote p false o pa' a b
        Runs (.loadDataReturn p t) s ((back.1.focus p t).returnData i o back.2)) ∧
      ∀ c v, (s.focus p t).reach p pa va = .error (.trap c v) →
        Runs (.loadDataReturn p t) s ((s.focus p t).takeTrap { cause := c, tval := v })) := by
  intro r
  refine ⟨fun h => execLoadDataReturn_ready h (State.canReturn_access h), fun h => if_pos ?_,
    fun i o pa n va a b h hc ho hm => ?_⟩
  · rw [State.canReturn_free h]
    rfl
  · have hrun : exec (.loadDataReturn p t) s = .next (s.returnRemote p t i pa va a b) :=
      execLoadDataReturn_ready h hc
    have hall : (s.focus p t).sharers p t pa = [(p, t, i)] := State.sharers_own h ho
    rw [State.returnRemote, hm] at hrun
    dsimp only at hrun
    rw [hall] at hrun
    refine ⟨fun pa' hr => hrun.trans ?_, fun c v hr => hrun.trans ?_⟩
    · rw [hr]
      rfl
    · rw [hr]
      rfl

/-! ## Waits that end (R89, R108) -/

theorem State.dropSample_eq (s : State) :
    s.dropSample = s.modSt fun r => { r with sampled := if r.blocked = .no then none else r.sampled } := by
  refine congrArg s.modSt (funext fun r => ?_)
  by_cases h : r.blocked = .no
  · rw [if_pos h, if_pos (beq_iff_eq.mpr h)]
  · rw [if_neg h, if_neg (mt beq_iff_eq.mp h)]

/-- What the end of a wait does, by what the strand waits in (R89). -/
def waitEnded (p : PillarId) (t : StrandId) (s : State) : Blocked → Out
  | .wait i => mapNext State.dropSample (resume i ((s.focus p t).modSt fun r => { r with blocked := .no }))
  | .launch i m => .next ((s.focus p t).resumeLaunch i m)
  | .pinned i e => .next ((s.focus p t).endPinned i e)
  | .inval i ranges => if s.rangesClear ranges then .next ((s.focus p t).invalidated i) else .next s
  | .migrate (.migrate f) src => if s.drained src then .next ((s.focus p t).finishMigrate f src) else .next s
  | _ => .next s

theorem execBlockedWaitEnd_running {p : PillarId} {t : StrandId} {s : State} {b : Blocked}
    (hb : ((s.pil p).strand t).blocked = b) (hr : ((s.pil p).strand t).run = .running)
    (hh : (s.stack (stackOf p)).halted = false) : exec (.blockedWaitEnd p t) s = waitEnded p t s b := by
  have go : ¬ (((s.pil p).strand t).run != .running || (s.stack (stackOf p)).halted) = true := by
    rw [hr, hh]
    decide
  subst hb
  exact if_neg go

theorem blockedWaitEnd_cases (p : PillarId) (t : StrandId) (s : State) :
    let r := (s.pil p).strand t
    let run := (s.stack (stackOf p)).halted = false
    (r.run = .running → run →
      (∀ i s', r.blocked = .wait i → resume i ((s.focus p t).modSt fun r => { r with blocked := .no }) = .next s' →
        Runs (.blockedWaitEnd p t) s (s'.modSt fun r => { r with sampled := if r.blocked = .no then none else r.sampled })) ∧
      (∀ i m, r.blocked = .launch i m → Runs (.blockedWaitEnd p t) s ((s.focus p t).resumeLaunch i m)) ∧
      ∀ i e, r.blocked = .pinned i e → Runs (.blockedWaitEnd p t) s ((s.focus p t).endPinned i e)) ∧
    (∀ i ranges, r.blocked = .inval i ranges → r.run = .running → run →
      (s.rangesClear ranges = true → Runs (.blockedWaitEnd p t) s ((s.focus p t).invalidated i)) ∧
      (s.rangesClear ranges = false → Runs (.blockedWaitEnd p t) s s)) ∧
    (∀ f src, r.blocked = .migrate (.migrate f) src → r.run = .running → run →
      (s.drained src = true → Runs (.blockedWaitEnd p t) s ((s.focus p t).finishMigrate f src)) ∧
      (s.drained src = false → Runs (.blockedWaitEnd p t) s s)) := by
  intro r run
  refine ⟨fun hr hh => ⟨fun i s' hb he => ?_, fun i m hb => execBlockedWaitEnd_running hb hr hh,
    fun i e hb => execBlockedWaitEnd_running hb hr hh⟩,
    fun i ranges hb hr hh => ⟨fun hc => ?_, fun hc => ?_⟩, fun f src hb hr hh => ⟨fun hc => ?_, fun hc => ?_⟩⟩
  · rw [Runs, execBlockedWaitEnd_running hb hr hh, waitEnded, he, ← State.dropSample_eq]
    rfl
  · exact (execBlockedWaitEnd_running hb hr hh).trans (if_pos hc)
  · exact (execBlockedWaitEnd_running hb hr hh).trans (if_neg (Bool.eq_false_iff.mp hc))
  · exact (execBlockedWaitEnd_running hb hr hh).trans (if_pos hc)
  · exact (execBlockedWaitEnd_running hb hr hh).trans (if_neg (Bool.eq_false_iff.mp hc))

/-! ## SC operations (R328) -/

theorem scAccessStart_cases (p : PillarId) (t : StrandId) (s : State) :
    (s.scTurn p t = false → Runs (.scAccessStart p t) s s) ∧
    (∀ i n o pa va a, ((s.pil p).strand t).blocked = .sc i n pa va a → s.scTurn p t = true → memOpOf i = some o →
      let s0 := (s.focus p t).modSt fun r => { r with blocked := .no }
      (∀ s', s0.scAccess i o pa va a = .ok s' → Runs (.scAccessStart p t) s s') ∧
      ∀ e, s0.scAccess i o pa va a = .error e → Runs (.scAccessStart p t) s (s0.stopped i e)) := by
  refine ⟨fun h => if_pos (by rw [h]; rfl), fun i n o pa va a hb ht hm => ?_⟩
  intro s0
  have hrun : exec (.scAccessStart p t) s = finishAt i s0 (s0.scAccess i o pa va a) := by
    rw [exec_scAccessStart, execScAccessStart, ht, Bool.not_true, if_neg Bool.false_ne_true,
      show (s.strandAt p t).blocked = _ from hb]
    dsimp only
    rw [hm]
  refine ⟨fun s' h => ?_, fun e h => ?_⟩
  · rw [Runs, hrun, h, finishAt_ok]
  · rw [Runs, hrun, h, finishAt_error]

/-! ## Walks (R347, R353) -/

theorem Pillar.walkLevel_eq (x : Pillar) [Decidable (∃ u : StrandId, (x.strand u).run = .running ∧ (x.strand u).lvl ≠ 0)] :
    x.walkLevel = if ∃ u : StrandId, (x.strand u).run = .running ∧ (x.strand u).lvl ≠ 0 then 1 else 0 := by
  refine if_congr ?_ rfl rfl
  rw [List.any_eq_true]
  simp only [Bool.and_eq_true, beq_iff_eq, bne_iff_ne]
  refine ⟨fun ⟨r, hr, h⟩ => ?_, fun ⟨u, h⟩ => ⟨x.strand u, ?_, h⟩⟩
  · obtain ⟨k, hk, rfl⟩ := Vector.mem_iff_getElem.mp (Vector.mem_toList_iff.mp hr)
    exact ⟨⟨k, hk⟩, h⟩
  · exact Vector.mem_toList_iff.mpr (Vector.getElem_mem u.isLt)

theorem pageWalk_cases (p : PillarId) (s : State) (va : Word) (kind : AccessKind) (w : Walker)
    (hw : w = { p := p, asid := (s.pil p).asid, lvl := (s.pil p).walkLevel, tile := kind == .tile }) :
    (canonical va = false ∨ s.lookup w va ≠ none → Runs (.pageWalk p va kind) s s) ∧
    (∀ c, s.walk (s.pil p).asid va = .fault c → Runs (.pageWalk p va kind) s s) ∧
    ∀ e, canonical va = true → s.lookup w va = none → s.walk (s.pil p).asid va = .entry e →
      (∀ c, s.useEntry e w.lvl kind va = .error c → Runs (.pageWalk p va kind) s s) ∧
      ∀ y, s.useEntry e w.lvl kind va = .ok y → Runs (.pageWalk p va kind) s (s.noteXlate w y) := by
  subst hw
  unfold Runs
  rw [exec_pageWalk, execPageWalk]
  dsimp only
  refine ⟨fun h => if_pos ?_, fun c hc => ?_, fun e hc hl he => ?_⟩
  · rw [Bool.or_eq_true, Bool.not_eq_true', Option.isSome_iff_ne_none]
    exact h
  · split
    · rfl
    · rw [hc]
  · rw [hc, hl, if_neg (by decide), he]
    dsimp only
    exact ⟨fun c hu => by rw [hu], fun y hu => by rw [hu]⟩

/-! ## Host translations (R348, R349, R356) -/

/-- The largest of the sizes that a range covers (R346, R348). -/
theorem atsBits_eq {n bits : Nat} (hn : n ∈ [12, 16, 21, 25, 30, 34, 39]) (hb : n ≤ bits)
    (hmax : ∀ m ∈ [12, 16, 21, 25, 30, 34, 39], n < m → bits < m) : atsBits bits = some n := by
  simp only [List.forall_mem_cons, List.not_mem_nil, false_imp_iff, implies_true, and_true] at hmax
  simp only [List.mem_cons, List.not_mem_nil, or_false] at hn
  rcases hn with rfl | rfl | rfl | rfl | rfl | rfl | rfl <;> simp [atsBits, *]

theorem atsBits_none {bits : Nat} (h : bits < 12) : atsBits bits = none := by
  refine List.find?_eq_none.mpr ?_
  simp only [List.forall_mem_cons, List.not_mem_nil, false_imp_iff, implies_true, and_true, decide_eq_true_eq]
  omega

/-- A stack after an update of every stack by its number. -/
theorem State.stack_mapIdx {s t : State} {g : Nat → Stack → Stack} (h : t.stackUnits = s.stackUnits.mapIdx g) (k : Fin 4) :
    t.stack k.val = g k.val (s.stack k.val) := by
  unfold State.stack
  rw [h, Vector.getElem?_mapIdx, Vector.getElem?_eq_getElem k.isLt]
  rfl

theorem State.completeAts_rights {s : State} {asid : BitVec 16} {c : AtsCompletion} (n : Nat) (h : c.r = true ∨ c.w = true)
    (k : Fin 4) : ((s.completeAts asid c n).stack k.val).tlb =
      if s.host.ats.any fun r => r.asks asid c.va && r.stack == k.val
      then touchTlb 8192 (s.stack k.val).tlb (atsEntry asid c n) else (s.stack k.val).tlb := by
  have e : s.completeAts asid c n =
      { s with
        host := { s.host with ats := s.host.ats.filter fun r => !r.asks asid c.va }
        stackUnits := s.stackUnits.mapIdx fun m k =>
          if s.host.ats.any fun r => r.asks asid c.va && r.stack == m
          then { k with tlb := touchTlb 8192 k.tlb (atsEntry asid c n) } else k } :=
    if_pos (Bool.or_eq_true_iff.mpr h)
  rw [e, State.stack_mapIdx rfl]
  split <;> rfl

theorem State.completeAts_noRights {s : State} {asid : BitVec 16} {c : AtsCompletion} (n : Nat)
    (h : ¬ (c.r = true ∨ c.w = true)) : s.completeAts asid c n =
      { s with host := { s.host with
          ats := s.host.ats.filter fun r => !r.asks asid c.va
          noRights := (asid, c.va.bits 56 12) :: s.host.noRights } } :=
  if_neg (mt Bool.or_eq_true_iff.mp h)

/-- The requests that a completion answers are no longer in flight (R348). -/
theorem State.completeAts_ats (s : State) (asid : BitVec 16) (c : AtsCompletion) (n : Nat) :
    (s.completeAts asid c n).host.ats = s.host.ats.filter fun r => !r.asks asid c.va := by
  unfold State.completeAts
  dsimp only
  split <;> rfl

theorem atsCompletion_cases (s : State) (asid : BitVec 16) (c : AtsCompletion) :
    ((∀ q ∈ s.host.ats, q.asks asid c.va = false) ∨ c.bits < 12 → Runs (.atsTranslationCompletion asid c) s s) ∧
    ∀ q n, s.host.ats.find? (·.asks asid c.va) = some q → n ∈ [12, 16, 21, 25, 30, 34, 39] → n ≤ c.bits →
      (∀ m ∈ [12, 16, 21, 25, 30, 34, 39], n < m → c.bits < m) →
      let asked (k : Fin 4) : Prop := ∃ q ∈ s.host.ats, q.asks asid c.va = true ∧ q.stack = k.val
      ∃ s', Runs (.atsTranslationCompletion asid c) s s' ∧
        (q.void = 0 → (∀ q ∈ s'.host.ats, q.asks asid c.va = false) ∧
          (c.r = false → c.w = false → s'.host.noRights = (asid, c.va.bits 56 12) :: s.host.noRights) ∧
          (c.r = true ∨ c.w = true → ∀ k, asked k → ∃ e,
            (s'.stack k.val).tlb = touchTlb 8192 (s.stack k.val).tlb e ∧ e.asid = asid ∧ e.bits = n ∧ e.host = true ∧
            e.va = c.va.toNat % 2 ^ 57 / 2 ^ n * 2 ^ n ∧ e.write = c.w ∧ e.user = c.r)) ∧
        (q.void ≠ 0 → s'.host.ats = s.host.ats.map fun q => q.voided asid c.va) ∧
        ∀ k, ¬ (asked k ∧ q.void = 0 ∧ (c.r = true ∨ c.w = true)) → (s'.stack k.val).tlb = (s.stack k.val).tlb := by
  refine ⟨fun h => ?_, fun q n hq hn hb hmax => ?_⟩
  · rw [Runs, exec_atsTranslationCompletion, execAtsTranslationCompletion]
    obtain h | h := h
    · rw [List.find?_eq_none.mpr fun q hq => Bool.eq_false_iff.mp (h q hq)]
    · rw [atsBits_none h]
      split
      · next hb => cases hb
      · rfl
  · intro asked
    have hasked (k : Fin 4) : (s.host.ats.any fun r => r.asks asid c.va && r.stack == k.val) = true ↔ asked k := by
      simp only [List.any_eq_true, Bool.and_eq_true, beq_iff_eq, asked]
    have hrun : exec (.atsTranslationCompletion asid c) s = if q.void = 0 then .next (s.completeAts asid c n)
        else .next { s with host := { s.host with ats := s.host.ats.map fun r => r.voided asid c.va } } := by
      rw [exec_atsTranslationCompletion, execAtsTranslationCompletion, hq, atsBits_eq hn hb hmax]
    by_cases hv : q.void = 0
    · refine ⟨s.completeAts asid c n, hrun.trans (if_pos hv), fun _ => ⟨fun r hr => ?_, fun h1 h2 => ?_, fun hrw k hk => ?_⟩,
        fun h => absurd hv h, fun k hk => ?_⟩
      · rw [State.completeAts_ats] at hr
        simpa using (List.mem_filter.mp hr).2
      · rw [State.completeAts_noRights n (by rw [h1, h2]; decide)]
      · refine ⟨atsEntry asid c n, ?_, rfl, rfl, rfl, rfl, rfl, rfl⟩
        rw [State.completeAts_rights n hrw, if_pos ((hasked k).mpr hk)]
      · by_cases hrw : c.r = true ∨ c.w = true
        · rw [State.completeAts_rights n hrw, if_neg fun h => hk ⟨(hasked k).mp h, hv, hrw⟩]
        · rw [State.completeAts_noRights n hrw]
          rfl
    · exact ⟨_, hrun.trans (if_neg hv), fun h => absurd h hv, fun _ => rfl, fun _ _ => rfl⟩

/-- Entries that an invalidation selects stand in no TLB of a pillar any more (R356). -/
theorem State.mem_dataTlb_dropEntries {s : State} {sel : TlbEntry → Bool} {q : PillarId} {e : TlbEntry}
    (h : e ∈ ((s.dropEntries sel).pil q).dataTlb) : e ∈ (s.pil q).dataTlb ∧ sel e = false := by
  rcases State.pil_map (s := s) (t := s.dropEntries sel)
    (g := fun x => { x with dataTlb := dropTlb sel x.dataTlb, tileTlb := dropTlb sel x.tileTlb }) rfl q with hp | ⟨hp, -⟩
  · rw [hp] at h
    obtain ⟨h1, h2⟩ := List.mem_filter.mp h
    exact ⟨h1, (Bool.not_eq_true' _).mp h2⟩
  · rw [hp] at h
    cases h

/-- Completions that are sent are no longer owed (R349). -/
theorem State.settleInvalidates_count (s : State) :
    s.settleInvalidates.host.invalidating.length + s.settleInvalidates.host.invalidated =
      s.host.invalidating.length + s.host.invalidated := by
  have h := List.length_eq_length_filter_add (l := s.host.invalidating) fun r => s.rangesClear r
  unfold State.settleInvalidates
  dsimp only
  rw [List.partition_eq_filter_filter]
  dsimp only
  have e : (fun r => !s.rangesClear r) = not ∘ fun r => s.rangesClear r := rfl
  rw [h, e]
  omega

theorem atsInvalidate_effect (s : State) (asid : BitVec 16) (va : Word) (size : Nat) :
    ∃ s', Runs (.atsInvalidateRequest asid va size) s s' ∧
      (∀ q e, e ∈ (s'.pil q).dataTlb → e ∈ (s.pil q).dataTlb ∧ hostEntryIn asid (va.toNat % 2 ^ 57) size e = false) ∧
      s'.host.invalidating.length + s'.host.invalidated =
        s.host.invalidating.length + s.host.invalidated + 1 := by
  refine ⟨_, exec_atsInvalidateRequest s, fun q e he => State.mem_dataTlb_dropEntries he, ?_⟩
  rw [State.settleInvalidates_count]
  simp only [List.length_append, List.length_singleton]
  exact Nat.add_right_comm ..

/-! ## Page requests (R350, R351) -/

theorem getLsbD_maskBits {h l b : Nat} (hb : b < 64) (hl : l ≤ h) :
    (maskBits h l).getLsbD b = decide (l ≤ b ∧ b ≤ h) := by
  rw [maskBits, word, BitVec.getLsbD_ofNat, Nat.testBit_mul_two_pow, Nat.testBit_two_pow_sub_one, Bool.eq_iff_iff]
  simp only [Bool.and_eq_true, decide_eq_true_eq]
  omega

/-- DONE or FAIL of an answered request stands in PREQ, and WAIT does not (R351). -/
theorem Strand.answered_preq {r : Strand} {n : Nat} (h : r.preqId = some n) (ok : Bool) {b : Nat} (hb : b < 64) :
    (r.answered n ok).preq.getLsbD b =
      if b = 63 then false else if b = 62 then ok else if b = 61 then !ok else r.preq.getLsbD b := by
  have e : (r.answered n ok).preq = (r.preq &&& ~~~(maskBits 63 61)) ||| (if ok then maskBits 62 62 else maskBits 61 61) := by
    rw [Strand.answered, if_pos (beq_iff_eq.mpr h)]
  have hm : (if ok then maskBits 62 62 else maskBits 61 61).getLsbD b = if ok then decide (b = 62) else decide (b = 61) := by
    cases ok <;> simp only [Bool.false_eq_true, if_true, if_false] <;> rw [getLsbD_maskBits hb (Nat.le_refl _)] <;>
      exact decide_eq_decide.mpr (by omega)
  rw [e, BitVec.getLsbD_or, BitVec.getLsbD_and, BitVec.getLsbD_not, getLsbD_maskBits hb (by decide), hm]
  by_cases hlow : b < 61
  · have h : ¬ (61 ≤ b ∧ b ≤ 63) ∧ b ≠ 63 ∧ b ≠ 62 ∧ b ≠ 61 := by omega
    simp [h, hb]
  · obtain rfl | rfl | rfl : b = 61 ∨ b = 62 ∨ b = 63 := by omega
    all_goals cases ok <;> simp

theorem Strand.answered_preqId {r : Strand} {n : Nat} (h : r.preqId = some n) (ok : Bool) :
    (r.answered n ok).preqId = none := by
  rw [Strand.answered, if_pos (beq_iff_eq.mpr h)]

theorem Pillar.strand_answer (x : Pillar) (n : Nat) (ok : Bool) (t : StrandId) :
    (x.answer n ok).strand t = (x.strand t).answered n ok := by
  have e : (x.answer n ok).strands = x.strands.map (Strand.answered n ok) := by
    unfold Pillar.answer Pillar.answerFibre
    split <;> rfl
  rw [Pillar.strand, e]
  exact Vector.getElem_map ..

/-- Dropping TLB entries leaves the strands alone. -/
theorem State.strands_dropEntries (s : State) (sel : TlbEntry → Bool) (p : PillarId) :
    ((s.dropEntries sel).pil p).strands = (s.pil p).strands := by
  rcases State.pil_map (s := s) (t := s.dropEntries sel)
    (g := fun x => { x with dataTlb := dropTlb sel x.dataTlb, tileTlb := dropTlb sel x.tileTlb }) rfl p with h | ⟨h, h'⟩
  · rw [h]
  · rw [h, h']

/-- A strand that waits for the answer to a request gets it. -/
theorem State.strand_answerContexts {s : State} {p : PillarId} {t : StrandId} {n : Nat}
    (h : ((s.pil p).strand t).preqId = some n) (ok : Bool) :
    ((s.answerContexts n ok).pil p).strand t = ((s.pil p).strand t).answered n ok := by
  rcases State.pil_map (s := s) (t := s.answerContexts n ok) (g := Pillar.answer n ok) rfl p with hp | ⟨-, hp⟩
  · rw [hp, Pillar.strand_answer]
  · have hr : (Pillar.reset.strand t).preqId = none := by fin_cases t <;> rfl
    rw [hp, hr] at h
    cases h

theorem pageRequestResponse_cases (p : PillarId) (t : StrandId) (s : State) (n : Nat) (a : PriResponse) :
    let r := (s.pil p).strand t
    ((s.host.requests.find? fun q => q.id == n) = none → Runs (.pageRequestResponse n a) s s) ∧
    ∀ q, (s.host.requests.find? fun q => q.id == n) = some q → q.requester = .strand p t → r.preqId = some n →
      ∃ s', Runs (.pageRequestResponse n a) s s' ∧ (∀ q' ∈ s'.host.requests, q'.id ≠ n) ∧
        ((s'.pil p).strand t).preqId = none ∧
        ∀ b, b < 64 → ((s'.pil p).strand t).preq.getLsbD b =
          if b = 63 then false else if b = 62 then decide (a = .success) else if b = 61 then decide (a ≠ .success)
          else r.preq.getLsbD b := by
  intro r
  refine ⟨fun h => ?_, fun q hq hreq hid => ?_⟩
  · rw [Runs, exec_pageRequestResponse, execPageRequestResponse, h]
  · have hqn : q.id = n := beq_iff_eq.mp (List.find?_some (p := fun q : PageRequest => q.id == n) hq)
    let s1 := State.dropEntries { s with host := { s.host with
      requests := s.host.requests.filter fun q => q.id != n
      priEnabled := s.host.priEnabled && a != .responseFailure } } (hostEntryIn q.asid (q.va.toNat % 2 ^ 57) 4096)
    have hrun : exec (.pageRequestResponse n a) s = .next (s1.answerContexts n (a == .success)) := by
      rw [exec_pageRequestResponse, execPageRequestResponse, hq]
      dsimp only
      rw [State.answerRequester, hreq, hqn]
    have hst : (s1.pil p).strand t = r := by
      rw [Pillar.strand, State.strands_dropEntries]
      rfl
    have hid1 : ((s1.pil p).strand t).preqId = some n := by rw [hst]; exact hid
    refine ⟨_, hrun, fun q' hq' => ?_, ?_, fun b hb => ?_⟩
    · exact bne_iff_ne.mp (List.mem_filter.mp hq').2
    · rw [State.strand_answerContexts hid1]
      exact Strand.answered_preqId hid1 _
    · rw [State.strand_answerContexts hid1, Strand.answered_preq hid1 _ hb, hst]
      cases a <;> rfl

/-- Settles O47: each event by its own function, and an update of every pillar by what it does to one. -/
theorem issueAndAccessEvents : Obligations.IssueAndAccessEvents := by
  intro p t s
  obtain ⟨hpromoted, hkept⟩ := issuePromotion_cases p t s
  obtain ⟨hhalted, haccept⟩ := engineAccept_cases p s
  obtain ⟨hempty, hdrain⟩ := storeBufferDrain_cases p t s
  obtain ⟨haccess, hfree, hremote⟩ := loadDataReturn_cases p t s
  obtain ⟨hwait, hinval, hmigrate⟩ := blockedWaitEnd_cases p t s
  obtain ⟨hturn, hsc⟩ := scAccessStart_cases p t s
  refine ⟨hpromoted, hkept, hhalted, haccept, dividerFree_effect p s, hempty, hdrain, haccess, hfree, hremote, hwait, hinval,
    hmigrate, hturn, hsc, fun va kind => ?_, fun asid c => atsCompletion_cases s asid c,
    fun asid va size => atsInvalidate_effect s asid va size, fun n a => pageRequestResponse_cases p t s n a⟩
  intro above w
  refine pageWalk_cases p s va kind w ?_
  rw [Pillar.walkLevel_eq]

end Sys2Proof.Machine
end

section
/-! PROOFS. What the general registers and the condition window read as. -/

set_option Elab.async false

namespace Sys2Proof.Machine

/-! ## What an update of a strand leaves of the window (R104-R107) -/

/-- Outside the strands an update of the current strand changes no pillar. -/
theorem State.pil_modSt (s : State) (f : Strand → Strand) (p : PillarId) :
    (s.modSt f).pil p = { s.pil p with strands := ((s.modSt f).pil p).strands } := by
  by_cases hp : p = s.curP
  · subst hp
    rw [show (s.modSt f).pil s.curP = _ from State.me_modSt s f]
    rfl
  · rw [(sameElsewhere_modSt s f).2 p hp]

theorem State.portByte_modSt (s : State) (f : Strand → Strand) (p : PillarId) (d : MeshPort) (i : Nat) :
    (s.modSt f).portByte p d i = s.portByte p d i := by
  unfold State.portByte
  rw [State.pil_modSt]
  rfl

theorem State.windowNow_modSt (s : State) (f : Strand → Strand) (n : Nat) : (s.modSt f).windowNow n = s.windowNow n := by
  unfold State.windowNow
  simp only [State.me_modSt, Pillar.modStrand_msg, State.modSt_curP, State.portByte_modSt]
  rfl

theorem State.window_setG (s : State) (n : Nat) (v : PWord) (k : Nat) : (s.setG n v).window k = s.window k := by
  unfold State.window
  rw [State.setG, State.st_modSt, Strand.setReg_sampled, State.windowNow_modSt]

/-! ## Reads of the general registers (R99, R104) -/

theorem State.g_open {s : State} (h : s.st.cw = true) {k : Nat} (hk : 56 ≤ k) : s.g k = { bits := s.window k } := by
  simp [State.g, h, hk]

theorem State.g_reg {s : State} {k : Nat} (h : s.st.cw = false ∨ k < 56) : s.g k = s.st.reg k := by
  rw [State.g, if_neg]
  rcases h with h | h
  · simp [h]
  · simp [h]

theorem Strand.cw_setReg (r : Strand) (n : Nat) (v : PWord) : (r.setReg n v).cw = r.cw := by
  rw [Strand.cw, Strand.setReg_status, Strand.cw]

theorem State.st_setG (s : State) (n : Nat) (v : PWord) : (s.setG n v).st = s.st.setReg n v := State.st_modSt s _

/-- A read after a write follows from what the two strands hold (R104). -/
theorem State.g_setG (s : State) (n : Nat) (v : PWord) (k : Nat) :
    (s.setG n v).g k = if s.st.cw && 56 ≤ k then s.g k else (s.st.setReg n v).reg k := by
  unfold State.g
  rw [State.window_setG, State.st_setG, Strand.cw_setReg]
  split <;> rfl

/-- A write past the registers is discarded (R99). -/
theorem Strand.setReg_past (r : Strand) {n : Nat} (v : PWord) (h : 64 ≤ n) : r.setReg n v = r := by
  unfold Strand.setReg
  rw [if_neg (by omega), Vector.setIfInBounds_eq_of_size_le h]

theorem State.strandAt_setG_other (s : State) (n : Nat) (v : PWord) {p : PillarId} {u : StrandId}
    (h : p ≠ s.curP ∨ u ≠ s.curT) : (s.setG n v).strandAt p u = s.strandAt p u := by
  unfold State.strandAt State.setG
  by_cases hp : p = s.curP
  · subst hp
    rw [show (s.modSt _).pil s.curP = _ from State.me_modSt s _, Pillar.strand_modStrand_other _ _ (h.resolve_left (absurd rfl))]
    rfl
  · rw [(sameElsewhere_modSt s _).2 p hp]

/-- Settles O58: the strand's registers after a write, and the window, which depends on no register. -/
theorem generalRegisterFile : Obligations.GeneralRegisterFile := by
  refine ⟨Strand.reg_zero, fun s n v => ?_⟩
  have hst := State.st_setG s n v
  have hbytes : SameBytes s (s.setG n v) :=
    (frame_modSt (f := fun r => r.setReg n v) (sameButReg_setReg s.st n v)).2.1
  refine ⟨fun hn p u k => ?_, fun h0 hn => ?_, fun k hk => ?_, fun p u h => State.strandAt_setG_other s n v h,
    fun h k hk => State.g_open h hk, fun h k => State.g_reg (.inl h), hbytes, ?_, ?_⟩
  · have hsame : (s.setG n v).st = s.st := by
      rw [hst]
      rcases hn with rfl | hn
      · rfl
      · exact Strand.setReg_past s.st v hn
    by_cases h : p ≠ s.curP ∨ u ≠ s.curT
    · rw [State.strandAt_setG_other s n v h]
    · obtain ⟨rfl, rfl⟩ : p = s.curP ∧ u = s.curT := by tauto
      exact congrArg (Strand.reg · k) hsame
  · have hv : (s.st.setReg n v).reg n = v := by rw [Strand.reg_setReg _ _ _ _ hn, if_pos ⟨rfl, h0⟩]
    refine ⟨by rw [hst, hv], fun h => ?_, fun h hn => ?_⟩
    · rw [State.g_setG, if_neg (by rcases h with h | h <;> simp [h]), hv]
    · rw [State.g_setG, if_pos (by simp [h, hn])]
  · have hr : (s.st.setReg n v).reg k = s.st.reg k := Strand.reg_setReg_other _ _ hk
    refine ⟨by rw [hst, hr], ?_⟩
    rw [State.g_setG, hr]
    unfold State.g
    split <;> rfl
  · rw [hst, Strand.setReg_status]
  · rw [hst, Strand.setReg_pc]

/-! ## The values of the window (R105-R107) -/

/-- A port byte says what R106 lists of the neighbour, and is zero without one. -/
theorem State.portByte_eq (s : State) (p : PillarId) (d : MeshPort) (i : Nat) :
    (neighbour p d = none → s.portByte p d i = 0) ∧
    ∀ q, neighbour p d = some q → s.portByte p d i =
      (if s.linkTrained p q then 1 else 0) + (if (s.pil p).reqOff.toNat.testBit i then 2 else 0) +
        (if (s.pil p).rspOff.toNat.testBit i then 4 else 0) + (if s.fenced p q then 8 else 0) := by
  refine ⟨fun h => by rw [State.portByte, h], fun q h => ?_⟩
  simp only [State.portByte, h, boolNat, bitOf_testBit, mul_ite, mul_one, mul_zero]

theorem State.portByte_lt (s : State) (p : PillarId) (d : MeshPort) (i : Nat) : s.portByte p d i < 16 := by
  cases h : neighbour p d with
  | none => rw [(s.portByte_eq p d i).1 h]; decide
  | some q =>
    rw [(s.portByte_eq p d i).2 q h]
    split_ifs <;> decide

/-- Four bytes in one word are read back one by one. -/
theorem toNat_fourBytes {a b c d : Nat} (ha : a < 16) (hb : b < 16) (hc : c < 16) (hd : d < 16) :
    let v := (word (a + 256 * b + 65536 * c + 16777216 * d)).toNat
    v / 256 ^ 0 % 256 = a ∧ v / 256 ^ 1 % 256 = b ∧ v / 256 ^ 2 % 256 = c ∧ v / 256 ^ 3 % 256 = d ∧ v < 2 ^ 32 := by
  intro v
  have hv : v = a + 256 * b + 65536 * c + 16777216 * d := Nat.mod_eq_of_lt (by omega)
  rw [hv]
  omega

/-- COUNT and FULL of an inbox, zero exactly when it is empty (R105). -/
theorem word_inboxWindow (b : Inbox) :
    (word (inboxWindow b)).toNat = min b.messages.length 8 + (if 8 ≤ b.messages.length then 16 else 0) ∧
      (word (inboxWindow b) = 0 ↔ b.messages.length = 0) := by
  have hi : inboxWindow b = min b.messages.length 8 + (if 8 ≤ b.messages.length then 16 else 0) := by
    simp only [inboxWindow, boolNat, decide_eq_true_eq, mul_ite, mul_one, mul_zero, ge_iff_le]
  have hw : (word (inboxWindow b)).toNat = inboxWindow b :=
    Nat.mod_eq_of_lt (show inboxWindow b < 2 ^ 64 by rw [hi]; split_ifs <;> omega)
  have h0 : word (inboxWindow b) = 0 ↔ inboxWindow b = 0 := by rw [← BitVec.toNat_inj, hw]; rfl
  refine ⟨hw.trans hi, h0.trans ?_⟩
  rw [hi]
  by_cases h : 8 ≤ b.messages.length
  · rw [if_pos h]
    omega
  · rw [if_neg h]
    omega

/-- A summary word gives the total above one bit for each of four inboxes (R107). -/
theorem word_summary {t : Nat} (ht : t ≤ 32) (b : Nat → Bool) :
    let v := word (16 * t + boolNat (b 0) * 2 ^ 0 + boolNat (b 1) * 2 ^ 1 + boolNat (b 2) * 2 ^ 2 + boolNat (b 3) * 2 ^ 3)
    v.toNat / 16 = t ∧ (∀ i, i < 4 → v.getLsbD i = b i) ∧ (v = 0 ↔ t = 0 ∧ ∀ i, i < 4 → b i = false) := by
  have h : ∀ p q r u : Bool, ∀ t : Fin 33,
      let v := word (16 * t.val + boolNat p * 2 ^ 0 + boolNat q * 2 ^ 1 + boolNat r * 2 ^ 2 + boolNat u * 2 ^ 3)
      v.toNat / 16 = t.val ∧ (∀ i : Fin 4, v.getLsbD i.val = [p, q, r, u][i]) ∧
        (v = 0 ↔ t.val = 0 ∧ ∀ i : Fin 4, [p, q, r, u][i] = false) := by decide
  obtain ⟨hv, hbit, h0⟩ := h (b 0) (b 1) (b 2) (b 3) ⟨t, by omega⟩
  have hb : ∀ i : Fin 4, [b 0, b 1, b 2, b 3][i] = b i.val := by
    rintro ⟨i, hi⟩
    match i, hi with
    | 0, _ | 1, _ | 2, _ | 3, _ => rfl
  simp only [hb] at hbit h0
  exact ⟨hv, fun i hi => hbit ⟨i, hi⟩,
    h0.trans (and_congr_right' ⟨fun h i hi => h ⟨i, hi⟩, fun h i => h i.val i.isLt⟩)⟩

/-- The messages in four inboxes. -/
theorem Pillar.waitingMessages_eq (x : Pillar) : x.waitingMessages =
    x.msg.inboxes[0].messages.length + x.msg.inboxes[1].messages.length + x.msg.inboxes[2].messages.length +
      x.msg.inboxes[3].messages.length := by
  have h : ∀ v : Vector Inbox 4, (v.toList.map fun b => b.messages.length).sum =
      v[0].messages.length + v[1].messages.length + v[2].messages.length + v[3].messages.length := by
    rintro ⟨⟨l⟩, hl⟩
    match l, hl with
    | [a, b, c, d], _ => simp [add_assoc]
  exact h x.msg.inboxes

/-- Settles O59: an open window shows the values of this clk, and each is read back field by field. -/
theorem conditionWindow : Obligations.ConditionWindow := by
  refine ⟨fun s h w hw k => ?_, fun s k => ?_, fun s h hw => ?_⟩
  · rw [State.g_open h (by omega), State.window, hw]
    simp
  · simp [State.sample]
  have hg (k : Nat) (hk : 56 ≤ k) : s.g k = { bits := s.windowNow k } := by
    rw [State.g_open h hk, State.window, hw]
  intro port
  refine ⟨?_, ?_⟩
  · rw [hg 60 (by decide)]
    obtain ⟨h0, h1, h2, h3, hlt⟩ := toNat_fourBytes (s.portByte_lt s.curP .north 0) (s.portByte_lt s.curP .east 1)
      (s.portByte_lt s.curP .south 2) (s.portByte_lt s.curP .west 3)
    have hport {k : Nat} {d : MeshPort} (hk : (s.windowNow 60).toNat / 256 ^ k % 256 = s.portByte s.curP d k) : port k d := by
      show (_ → (s.g 60).bits.toNat / 256 ^ k % 256 = 0) ∧ ∀ q, _ → (s.g 60).bits.toNat / 256 ^ k % 256 = _
      rw [hg 60 (by decide), hk]
      exact s.portByte_eq s.curP d k
    exact ⟨hport h0, hport h1, hport h2, hport h3, rfl, hlt⟩
  intro n total
  refine ⟨fun i => ?_, fun ht => ?_, hg 62 (by decide), hg 63 (by decide)⟩
  · have hi : s.windowNow (56 + i.val) = word (inboxWindow s.me.msg.inboxes[i]) := by
      match i with
      | 0 | 1 | 2 | 3 => rfl
    obtain ⟨hv, h0⟩ := word_inboxWindow s.me.msg.inboxes[i]
    rw [hg _ (by omega), hi]
    exact ⟨rfl, hv, h0⟩
  · have hn (i : Fin 4) : (!(s.me.msg.inboxes[i.val]?.getD {}).messages.isEmpty) = decide (n i ≠ 0) := by
      rw [Bool.eq_iff_iff]
      simp [n]
    have hw : s.me.waitingMessages = total := s.me.waitingMessages_eq
    obtain ⟨hv, hb, h0⟩ := word_summary (t := s.me.waitingMessages) (hw ▸ ht)
      fun i => !(s.me.msg.inboxes[i]?.getD {}).messages.isEmpty
    rw [hg 61 (by decide)]
    refine ⟨rfl, hv.trans hw, fun i => (hb i.val i.isLt).trans (hn i), h0.trans ⟨fun h => hw ▸ h.1, fun h => ?_⟩⟩
    refine ⟨hw.trans h, fun i hi => (hn ⟨i, hi⟩).trans ?_⟩
    have hz : n 0 = 0 ∧ n 1 = 0 ∧ n 2 = 0 ∧ n 3 = 0 := by omega
    obtain ⟨z0, z1, z2, z3⟩ := hz
    match i, hi with
    | 0, _ | 1, _ | 2, _ | 3, _ => simpa

end Sys2Proof.Machine
end

section
/-! PROOFS. What the scalar instructions compute. -/

set_option Elab.async false

namespace Sys2Proof.Machine

/-! ## Words as numbers -/

theorem word_eq_zero_iff (b : Word) : b = 0 ↔ b.toNat = 0 := BitVec.toNat_inj.symm

theorem getLsbD_word {k : Nat} (hk : k < 64) (n : Nat) : (word n).getLsbD k = n.testBit k := by
  rw [word_eq, BitVec.getLsbD_ofNat, decide_eq_true hk, Bool.true_and]

theorem toNat_word {n : Nat} (h : n < 2 ^ 64) : (word n).toNat = n := Nat.mod_eq_of_lt h

/-- The shift amount B<5:0> (R112). -/
theorem wordBits_low6 (b : Word) : Word.bits b 5 0 = b.toNat % 64 := by
  rw [wordBits_eq, Nat.pow_zero, Nat.div_one, show 2 ^ (5 + 1 - 0) = 64 from rfl]

theorem shiftRight_word (a : Word) (n : Nat) : a >>> n = BitVec.ofNat 64 (a.toNat / 2 ^ n) := by
  apply BitVec.eq_of_toNat_eq
  rw [BitVec.toNat_ushiftRight, BitVec.toNat_ofNat, Nat.shiftRight_eq_div_pow, Nat.mod_eq_of_lt]
  exact lt_of_le_of_lt (Nat.div_le_self _ _) a.isLt

theorem sshiftRight_word (a : Word) (n : Nat) : a.sshiftRight n = BitVec.ofInt 64 (a.toInt / 2 ^ n) := by
  rw [BitVec.sshiftRight, Int.shiftRight_eq_div_pow]
  norm_cast

theorem addInt_word (a : Word) (z : Int) : a + BitVec.ofInt 64 z = BitVec.ofInt 64 (a.toNat + z) := by
  rw [BitVec.ofInt_add, BitVec.ofInt_natCast, BitVec.ofNat_toNat, BitVec.setWidth_eq]

/-- sext(x, n) of R11 is the value of n bits as a signed number. -/
theorem sextNat_eq (x n : Nat) : sextNat x n = (BitVec.ofNat n x).toInt := by
  unfold sextNat
  rw [BitVec.toInt_eq_toNat_cond, BitVec.toNat_ofNat]
  cases n with
  | zero => simp [Nat.mod_one]
  | succ n =>
    have h : 2 * (x % 2 ^ (n + 1)) < 2 ^ (n + 1) ↔ x % 2 ^ (n + 1) < 2 ^ (n + 1 - 1) := by
      rw [Nat.pow_succ, Nat.add_sub_cancel]
      omega
    rw [if_neg (Nat.succ_ne_zero n)]
    simp only [h]

/-- A sign-extended field repeats its top bit (R11). -/
theorem getLsbD_sextNat (x : Nat) {w : Nat} (hw : 0 < w) {n : Nat} (hn : n < 64) :
    (wordOfInt (sextNat x w)).getLsbD n = x.testBit (min n (w - 1)) := by
  rw [wordOfInt_eq, sextNat_eq]
  show ((BitVec.ofNat w x).signExtend 64).getLsbD n = _
  rw [BitVec.getLsbD_signExtend, decide_eq_true hn, Bool.true_and]
  split
  · next h => rw [BitVec.getLsbD_ofNat, decide_eq_true h, Bool.true_and, Nat.min_eq_left (by omega)]
  · next h =>
    rw [BitVec.msb_eq_getLsbD_last, BitVec.getLsbD_ofNat, decide_eq_true (by omega), Bool.true_and,
      Nat.min_eq_right (by omega)]

/-! ## Two and three sources (R112, R113, R116, R117, R120) -/

theorem sub_word (a b : Word) : a - b = BitVec.ofInt 64 ((a.toNat : Int) - b.toNat) := by
  apply BitVec.eq_of_toNat_eq
  rw [BitVec.toNat_sub, BitVec.toNat_ofInt]
  omega

theorem mul_word (a b : Word) : a * b = BitVec.ofNat 64 (a.toNat * b.toNat) := by
  rw [BitVec.ofNat_mul, BitVec.ofNat_toNat, BitVec.ofNat_toNat, BitVec.setWidth_eq, BitVec.setWidth_eq]

theorem madd_word (d a b : Word) : d + a * b = BitVec.ofNat 64 (d.toNat + a.toNat * b.toNat) := by
  rw [mul_word, BitVec.ofNat_add, BitVec.ofNat_toNat, BitVec.setWidth_eq]

theorem shiftLeft_eq (a b : Word) : shiftLeft a b = BitVec.ofNat 64 (a.toNat * 2 ^ (b.toNat % 64)) := by
  rw [shiftLeft, shiftLeft_word, wordBits_low6]

theorem shiftRight_eq (a b : Word) : shiftRight a b = BitVec.ofNat 64 (a.toNat / 2 ^ (b.toNat % 64)) := by
  rw [shiftRight, shiftRight_word, wordBits_low6]

theorem shiftRightS_eq (a b : Word) : shiftRightS a b = BitVec.ofInt 64 (a.toInt / 2 ^ (b.toNat % 64)) := by
  rw [shiftRightS, sshiftRight_word, wordBits_low6]

theorem boolWord_decide (p : Prop) [Decidable p] : boolWord (decide p) = if p then 1 else 0 := by
  simp only [boolWord, decide_eq_true_eq]

theorem minS_eq (a b : Word) : minS a b = if a.toInt ≤ b.toInt then a else b := by
  by_cases h : a.toInt ≤ b.toInt
  · simp [minS, ltS, h, not_lt.mpr h]
  · simp [minS, ltS, h, not_le.mp h]

theorem maxS_eq (a b : Word) : maxS a b = if a.toInt ≤ b.toInt then b else a := by
  simp only [maxS, ltS, decide_eq_true_eq]
  split_ifs with h h' h'
  · rfl
  · omega
  · exact BitVec.eq_of_toInt_eq (by omega)
  · rfl

theorem mulHigh_eq (a b : Word) : mulHigh a b = BitVec.ofInt 64 (a.toInt * b.toInt / 2 ^ 64) := wordOfInt_eq _

theorem divS_eq (a b : Word) : divS a b =
    if b.toNat = 0 then BitVec.ofNat 64 (2 ^ 64 - 1) else BitVec.ofInt 64 (a.toInt.tdiv b.toInt) := by
  rw [divS, wordOfInt_eq]
  exact if_congr (word_eq_zero_iff b) rfl rfl

theorem remS_eq (a b : Word) : remS a b =
    if b.toNat = 0 then a else BitVec.ofInt 64 (a.toInt - a.toInt.tdiv b.toInt * b.toInt) := by
  rw [remS, wordOfInt_eq]
  exact if_congr (word_eq_zero_iff b) rfl rfl

theorem divU_eq (a b : Word) : divU a b =
    if b.toNat = 0 then BitVec.ofNat 64 (2 ^ 64 - 1) else BitVec.ofNat 64 (a.toNat / b.toNat) :=
  if_congr (word_eq_zero_iff b) rfl rfl

theorem remU_eq (a b : Word) : remU a b = if b.toNat = 0 then a else BitVec.ofNat 64 (a.toNat % b.toNat) :=
  if_congr (word_eq_zero_iff b) rfl rfl

theorem funnelLeft_eq (d a b : Word) : funnelLeft d a b =
    BitVec.ofNat 64 ((d.toNat * 2 ^ 64 + a.toNat) * 2 ^ (b.toNat % 64) / 2 ^ 64) := by
  rw [funnelLeft, wordBits_low6, word_eq]

theorem funnelRight_eq (d a b : Word) : funnelRight d a b =
    BitVec.ofNat 64 ((a.toNat * 2 ^ 64 + d.toNat) / 2 ^ (b.toNat % 64)) := by
  rw [funnelRight, wordBits_low6, word_eq]

/-! ## Counts and reversals (R118) -/

/-- A number of n bits has its highest one bit just below its leading zeros. -/
theorem leadingZeros_spec (x n : Nat) : leadingZeros x n ≤ n ∧ x % 2 ^ n < 2 ^ (n - leadingZeros x n) ∧
    (leadingZeros x n < n → 2 ^ (n - 1 - leadingZeros x n) ≤ x % 2 ^ n) := by
  induction n with
  | zero => simp [leadingZeros, Nat.mod_one]
  | succ n ih =>
    obtain ⟨h1, h2, h3⟩ := ih
    have hmod : x % 2 ^ (n + 1) = x % 2 ^ n + 2 ^ n * (x / 2 ^ n % 2) := Nat.mod_pow_succ
    unfold leadingZeros
    rw [bitOf_eq]
    split
    · next h =>
      rw [of_decide_eq_true h, Nat.mul_one] at hmod
      exact ⟨Nat.zero_le _, Nat.mod_lt _ (by positivity), fun _ => by rw [hmod]; simp⟩
    · next h =>
      have h0 : x / 2 ^ n % 2 = 0 := by
        have := of_decide_eq_false (Bool.eq_false_of_not_eq_true h)
        omega
      rw [h0, Nat.mul_zero, Nat.add_zero] at hmod
      rw [hmod]
      refine ⟨by omega, by rwa [Nat.add_sub_add_right], fun h => ?_⟩
      have := h3 (by omega)
      rwa [show n + 1 - 1 - (leadingZeros x n + 1) = n - 1 - leadingZeros x n by omega]

/-- The bits below the trailing zeros are zero, and the next one is one. -/
theorem trailingZeros_spec (x i n : Nat) : trailingZeros x i n ≤ n ∧
    (∀ j, j < trailingZeros x i n → x.testBit (i + j) = false) ∧
    (trailingZeros x i n < n → x.testBit (i + trailingZeros x i n) = true) := by
  induction n generalizing i with
  | zero => simp [trailingZeros]
  | succ n ih =>
    obtain ⟨h1, h2, h3⟩ := ih (i + 1)
    unfold trailingZeros
    rw [bitOf_testBit]
    split
    · next h => exact ⟨Nat.zero_le _, fun j hj => absurd hj (Nat.not_lt_zero j), fun _ => h⟩
    · next h =>
      refine ⟨by omega, fun j hj => ?_, fun hlt => ?_⟩
      · cases j with
        | zero => exact Bool.eq_false_of_not_eq_true h
        | succ j => rw [show i + (j + 1) = i + 1 + j by omega]; exact h2 j (by omega)
      · rw [show i + (trailingZeros x (i + 1) n + 1) = i + 1 + trailingZeros x (i + 1) n by omega]
        exact h3 (by omega)

/-- A number whose low bits are zero is a multiple of their power. -/
theorem mod_two_pow_eq_zero {x z : Nat} (h : ∀ j, j < z → x.testBit j = false) : x % 2 ^ z = 0 := by
  refine Nat.zero_of_testBit_eq_false fun j => ?_
  rw [Nat.testBit_mod_two_pow]
  by_cases hj : j < z
  · simp [h j hj]
  · simp [hj]

theorem popCount_eq (x n : Nat) : popCount x n = ((List.range n).filter fun k => x.testBit k).length := by
  induction n with
  | zero => rfl
  | succ n ih =>
    rw [popCount, ih, bitOf_testBit, List.range_succ, List.filter_append, List.length_append, Nat.add_comm]
    cases h : x.testBit n <;> simp [h, boolNat]

theorem testBit_bitReverse (x n k : Nat) :
    (bitReverse x n).testBit k = (decide (k < n) && x.testBit (n - 1 - k)) := by
  induction n generalizing k with
  | zero => simp [bitReverse]
  | succ n ih =>
    rw [bitReverse, bitOf_testBit, Nat.add_comm]
    cases k with
    | zero => cases h : x.testBit n <;> simp [h, boolNat, Nat.testBit_zero]
    | succ k =>
      rw [Nat.testBit_succ, Nat.mul_add_div (by decide), Nat.div_eq_of_lt (boolNat_lt _), Nat.add_zero, ih,
        show n + 1 - 1 - (k + 1) = n - 1 - k by omega]
      simp

/-- The bit of a list of bytes is the bit of one of them (R6). -/
theorem testBit_natOfBytes (l : List Byte) (n : Nat) :
    (natOfBytes l).testBit n = (l[n / 8]?.getD 0).getLsbD (n % 8) := by
  induction l generalizing n with
  | nil => simp [natOfBytes]
  | cons b l ih =>
    rw [natOfBytes, Nat.add_comm, show 256 = 2 ^ 8 from rfl, Nat.testBit_two_pow_mul_add _ b.isLt]
    by_cases h : n < 8
    · rw [if_pos h, Nat.div_eq_of_lt h, Nat.mod_eq_of_lt h]
      rfl
    · rw [if_neg h, ih, show n / 8 = (n - 8) / 8 + 1 by omega, show n % 8 = (n - 8) % 8 by omega]
      rfl

theorem length_bytesOfNat (n v : Nat) : (bytesOfNat n v).length = n := by
  induction n generalizing v with
  | zero => rfl
  | succ n ih => rw [bytesOfNat, List.length_cons, ih]

theorem getElem?_bytesOfNat {n k : Nat} (v : Nat) (h : k < n) : (bytesOfNat n v)[k]? = some (BitVec.ofNat 8 (v / 2 ^ (8 * k))) := by
  induction n generalizing v k with
  | zero => exact absurd h (Nat.not_lt_zero k)
  | succ n ih =>
    cases k with
    | zero => simp [bytesOfNat]
    | succ k =>
      rw [bytesOfNat, List.getElem?_cons_succ, ih _ (by omega), Nat.div_div_eq_div_mul, Nat.mul_succ, Nat.pow_add, Nat.mul_comm]

theorem getLsbD_byteSwap (a : Word) {n : Nat} (hn : n < 64) :
    (byteSwap a).getLsbD n = a.getLsbD (8 * (7 - n / 8) + n % 8) := by
  have h8 : n / 8 < (bytesOfNat 8 a.toNat).length := by
    rw [length_bytesOfNat]
    omega
  rw [byteSwap, getLsbD_word hn, testBit_natOfBytes, List.getElem?_reverse h8, length_bytesOfNat,
    getElem?_bytesOfNat _ (by omega), Option.getD_some, BitVec.getLsbD_ofNat, decide_eq_true (Nat.mod_lt _ (by decide)),
    Bool.true_and, Nat.testBit_div_two_pow, Nat.add_comm]
  rfl

/-! ## Bit fields and immediates (R114, R119) -/

theorem fieldOf_eq (f : Fields) (a : Word) : fieldOf f a = a.toNat / 2 ^ fieldPos f % 2 ^ fieldLen f := by
  rw [fieldOf, bitsOf_eq, show fieldPos f + fieldLen f - 1 + 1 - fieldPos f = fieldLen f by unfold fieldLen; omega]

/-- The bits of A that a bit-field form reads (R119). -/
theorem testBit_fieldOf (f : Fields) (a : Word) (n : Nat) :
    (fieldOf f a).testBit n = (decide (n < fieldLen f) && a.getLsbD (fieldPos f + n)) := by
  rw [fieldOf_eq, Nat.testBit_mod_two_pow, Nat.testBit_div_two_pow, Nat.add_comm]
  rfl

theorem getLsbD_fieldExtended (f : Fields) (a : Word) {n : Nat} (hn : n < 64) :
    (wordOfInt (sextNat (fieldOf f a) (fieldLen f))).getLsbD n = a.getLsbD (fieldPos f + min n (fieldLen f - 1)) := by
  have hl : 0 < fieldLen f := Nat.succ_pos _
  rw [getLsbD_sextNat _ hl hn, testBit_fieldOf, decide_eq_true (by omega), Bool.true_and]

/-- BFI replaces the bits of its field and no other (R119). -/
theorem getLsbD_setField (f : Fields) (d a : Word) {n : Nat} (hn : n < 64) :
    (setBits d (fieldPos f + fieldLen f - 1) (fieldPos f) a.toNat).getLsbD n =
      if fieldPos f ≤ n ∧ n < fieldPos f + fieldLen f then a.getLsbD (n - fieldPos f) else d.getLsbD n := by
  rw [setBits, wordBits_eq, getLsbD_word hn, testBit_replaceBits,
    show fieldPos f + fieldLen f - 1 + 1 - fieldPos f = fieldLen f by unfold fieldLen; omega]
  rfl

/-- A well-formed instruction has at most three immediate words (R16). -/
theorem imx_length_le_of_wf {i : Instr} {r : Row} {f : Fields} (hr : i.row = some (r, f)) (h : i.wf = true) :
    f.imx.length ≤ 3 := by
  rw [wf_of_row hr] at h
  simp only [Row.ok, Bool.and_eq_true, decide_eq_true_eq] at h
  omega

/-- An immediate of at most three immediate words keeps its sign as a word (R17). -/
theorem toInt_immWord {f : Fields} (h : f.imx.length ≤ 3) : (immWord f).toInt = f.immS := by
  rw [immWord, wordOfInt_eq, Fields.immS, sextNat_eq]
  exact BitVec.toInt_signExtend_of_le (by omega)

theorem pcPlus_eq (pc : LsAddr) (z : Int) :
    (pc + BitVec.ofInt 19 z).setWidth 64 = BitVec.ofNat 64 (((pc.toNat : Int) + z) % 2 ^ 19).toNat := by
  apply BitVec.eq_of_toNat_eq
  rw [BitVec.toNat_setWidth, BitVec.toNat_add, BitVec.toNat_ofInt, BitVec.toNat_ofNat]
  omega

/-! ## How an instruction with a destination runs (R99, R102, R110) -/

/-- An instruction whose destination passes writes its result. -/
theorem runs_write {i : Instr} {s : State} {d : Nat} {v : PWord} (hd : s.destFree d)
    (e : exec i s = finish i s (s.destOk d >>= fun _ => .ok (s.setG d v))) : Runs i s (s.past i (s.setG d v)) := by
  rw [Runs, e, State.destOk_free hd]
  rfl

/-- Each two-source form computes its function. -/
theorem exec_twoSource_eq : ∀ e ∈ Claims.twoSource, ∀ f s, exec (e.1 f) s = scalar2 (e.1 f) f s e.2 := by
  have of {mk : Fields → Instr} {op op' : Word → Word → Word} (h : ∀ f s, exec (mk f) s = scalar2 (mk f) f s op)
      (e : ∀ a b, op a b = op' a b) : ∀ f s, exec (mk f) s = scalar2 (mk f) f s op' := by
    rwa [show op' = op from funext fun a => funext fun b => (e a b).symm]
  simp only [Claims.twoSource, List.forall_mem_cons, List.not_mem_nil, false_imp_iff, implies_true, and_true]
  exact ⟨of exec_add BitVec.add_def, of exec_sub sub_word, exec_and, exec_or, exec_xor, exec_andn, of exec_shl shiftLeft_eq,
    of exec_shr shiftRight_eq, of exec_sar shiftRightS_eq, of exec_slt fun a b => boolWord_decide _,
    of exec_sltn fun a b => boolWord_decide _, of exec_min minS_eq, of exec_max maxS_eq, of exec_mul mul_word,
    of exec_mulh mulHigh_eq, exec_mulhn⟩

theorem exec_threeSource_eq : ∀ e ∈ Claims.threeSource, ∀ f s, exec (e.1 f) s = scalar3 (e.1 f) f s e.2 := by
  have of {mk : Fields → Instr} {op op' : Word → Word → Word → Word} (h : ∀ f s, exec (mk f) s = scalar3 (mk f) f s op)
      (e : ∀ d a b, op d a b = op' d a b) : ∀ f s, exec (mk f) s = scalar3 (mk f) f s op' := by
    rwa [show op' = op from funext fun d => funext fun a => funext fun b => (e d a b).symm]
  simp only [Claims.threeSource, List.forall_mem_cons, List.not_mem_nil, false_imp_iff, implies_true, and_true]
  exact ⟨of exec_sel fun d a b => if_congr (word_eq_zero_iff a) rfl rfl,
    of exec_selz fun d a b => if_congr (word_eq_zero_iff a) rfl rfl, of exec_madd madd_word, of exec_fshl funnelLeft_eq,
    of exec_fshr funnelRight_eq⟩

theorem exec_divisions_eq : ∀ e ∈ Claims.divisions, ∀ f s, exec (e.1 f) s = divide (e.1 f) f s e.2 := by
  have of {mk : Fields → Instr} {op op' : Word → Word → Word} (h : ∀ f s, exec (mk f) s = divide (mk f) f s op)
      (e : ∀ a b, op a b = op' a b) : ∀ f s, exec (mk f) s = divide (mk f) f s op' := by
    rwa [show op' = op from funext fun a => funext fun b => (e a b).symm]
  simp only [Claims.divisions, List.forall_mem_cons, List.not_mem_nil, false_imp_iff, implies_true, and_true]
  exact ⟨of exec_div divS_eq, of exec_rem remS_eq, of exec_divn divU_eq, of exec_remn remU_eq⟩

theorem twoSourceResults : Claims.twoSourceResults := fun e he f s hd => runs_write hd (exec_twoSource_eq e he f s)

theorem threeSourceAndDivisions : Claims.threeSourceAndDivisions := by
  refine ⟨fun e he f s hd => runs_write hd (exec_threeSource_eq e he f s), fun e he f s hd => ⟨fun hf => ?_, fun hb => ?_⟩⟩
  · rw [Runs, exec_divisions_eq e he f s, divide, State.destOk_free hd, hf]
    rfl
  · rw [Waits, exec_divisions_eq e he f s, divide, State.destOk_free hd,
      Option.isNone_eq_false_iff.mpr hb]
    rfl

/-- Settles O1: each form computes the arithmetic of its row of the list, and writes it. -/
theorem twoAndThreeSourceResults : Obligations.TwoAndThreeSourceResults := ⟨twoSourceResults, threeSourceAndDivisions⟩

/-- Each one-source form computes a function that R113 or R118 allows. -/
theorem exec_oneSource_eq : ∀ e ∈ Claims.oneSource, ∃ op : Word → Word,
    (∀ f s, exec (e.1 f) s = scalar1 (e.1 f) f s op) ∧ ∀ a, e.2 a (op a) := by
  simp only [Claims.oneSource, List.forall_mem_cons, List.not_mem_nil, false_imp_iff, implies_true, and_true]
  refine ⟨⟨_, exec_mov, fun a => rfl⟩, ⟨_, exec_clz, fun a => ?clz⟩, ⟨_, exec_ctz, fun a => ?ctz⟩,
    ⟨_, exec_popc, fun a => ?popc⟩,
    ⟨_, exec_bswap, fun a n hn => getLsbD_byteSwap a hn⟩, ⟨_, exec_brev, fun a n hn => ?brev⟩⟩
  case clz =>
    obtain ⟨h1, h2, h3⟩ := leadingZeros_spec a.toNat 64
    rw [toNat_word (by omega)]
    rw [Nat.mod_eq_of_lt a.isLt] at h2 h3
    exact ⟨h1, h2, h3⟩
  case ctz =>
    obtain ⟨h1, h2, h3⟩ := trailingZeros_spec a.toNat 0 64
    simp only [Nat.zero_add] at h2 h3
    rw [toNat_word (by omega)]
    exact ⟨h1, mod_two_pow_eq_zero h2, h3⟩
  case popc =>
    have h : popCount a.toNat 64 ≤ 64 := by
      rw [popCount_eq]
      exact (List.length_filter_le _ _).trans_eq List.length_range
    exact (toNat_word (by omega)).trans (popCount_eq a.toNat 64)
  case brev =>
    rw [getLsbD_word hn, testBit_bitReverse, decide_eq_true hn, Bool.true_and]
    rfl

/-- Each immediate form computes a function that R114 or R119 allows. -/
theorem exec_immediate_eq : ∀ e ∈ Claims.immediate, ∃ op : Fields → Word → Word,
    (∀ f s, exec (e.1 f) s = scalarImm (e.1 f) f s (op f)) ∧ ∀ f, (e.1 f).wf = true → ∀ a, e.2 f a (op f a) := by
  simp only [Claims.immediate, List.forall_mem_cons, List.not_mem_nil, false_imp_iff, implies_true, and_true]
  have himm (f : Fields) : immWord f = BitVec.ofInt 64 f.immS := wordOfInt_eq _
  refine ⟨⟨_, exec_addi, fun f _ a => ?_⟩, ⟨_, exec_andi, fun f _ a => ?_⟩, ⟨_, exec_ori, fun f _ a => ?_⟩,
    ⟨_, exec_xori, fun f _ a => ?_⟩, ⟨_, exec_shli, fun f _ a => shiftLeft_word a _⟩,
    ⟨_, exec_shri, fun f _ a => shiftRight_word a _⟩, ⟨_, exec_sari, fun f _ a => sshiftRight_word a _⟩,
    ⟨_, exec_slti, fun f hw a => ?_⟩, ⟨_, exec_bfxn, fun f _ a n hn => ?_⟩,
    ⟨_, exec_bfx, fun f _ a n hn => getLsbD_fieldExtended f a hn⟩⟩
  · rw [himm, addInt_word]
  · rw [himm]
  · rw [himm]
  · rw [himm]
  · rw [ltS, boolWord_decide, toInt_immWord (imx_length_le_of_wf (i := .slti f) rfl hw)]
  · rw [getLsbD_word hn, testBit_fieldOf]

theorem oneSourceResults : Claims.oneSourceResults := by
  intro e he f s hd
  obtain ⟨op, hexec, hop⟩ := exec_oneSource_eq e he
  exact ⟨op (s.g f.sNum).bits, hop _, runs_write hd (hexec f s)⟩

theorem immediateResults : Claims.immediateResults := by
  refine ⟨fun e he f s hw hd => ?_, fun f s _ hd => ?_, fun f s hd => ⟨?_, ?_⟩⟩
  · obtain ⟨op, hexec, hop⟩ := exec_immediate_eq e he
    exact ⟨op f (s.g (riA f)).bits, hop f hw _, runs_write hd (hexec f s)⟩
  · exact ⟨_, fun n hn => getLsbD_setField f _ _ hn, runs_write hd (exec_bfi f s)⟩
  · rw [← wordOfInt_eq]
    exact runs_write hd (exec_li f s)
  · rw [← pcPlus_eq]
    exact runs_write hd (exec_lpc f s)

/-- Settles O2: each form computes a function that its relation allows, and writes it. -/
theorem oneSourceAndImmediateResults : Obligations.OneSourceAndImmediateResults := ⟨oneSourceResults, immediateResults⟩

end Sys2Proof.Machine
end

section
/-! PROOFS. Where branches and jumps go, and what calls and forbidden destinations do. -/

set_option Elab.async false

namespace Sys2Proof.Machine

/-! ## Branches (R110, R122) -/

/-- Each branch is taken exactly when its comparison holds. -/
theorem exec_branches_iff : ∀ e ∈ Claims.branches, ∃ taken : Word → Word → Bool,
    (∀ f s, exec (e.1 f) s = branch (e.1 f) f s taken) ∧ ∀ a b, taken a b = true ↔ e.2 a b := by
  simp only [Claims.branches, List.forall_mem_cons, List.not_mem_nil, false_imp_iff, implies_true, and_true]
  refine ⟨⟨_, exec_beq, fun a b => beq_iff_eq⟩, ⟨_, exec_bne, fun a b => bne_iff_ne⟩,
    ⟨_, exec_blt, fun a b => decide_eq_true_iff⟩,
    ⟨_, exec_bge, fun a b => ?_⟩, ⟨_, exec_bltn, fun a b => decide_eq_true_iff⟩, ⟨_, exec_bgen, fun a b => ?_⟩⟩
  · rw [Bool.not_eq_true', ltS, decide_eq_false_iff_not, not_lt]
  · rw [Bool.not_eq_true', ltU, decide_eq_false_iff_not, not_lt]

section
variable {i : Instr} {f : Fields} {s : State} {taken : Word → Word → Bool} (e : exec i s = branch i f s taken)
include e

/-- A branch on unpoisoned operands goes to its target, or on to the next instruction. -/
theorem runs_branch (ha : (s.g f.dNum).bad = false) (hb : (s.g f.sNum).bad = false) :
    Runs i s (if taken (s.g f.dNum).bits (s.g f.sNum).bits then Claims.jumped s (s.st.pc + BitVec.ofInt 19 (2 * f.disp))
      else s.past i s) := by
  rw [Runs, e, branch, notPoison_good ha, notPoison_good hb]
  simp only [act_ok_bind]
  split <;> rfl

theorem traps_branch_first (ha : (s.g f.dNum).bad = true) : Traps i s 0x0D (word f.dNum) := by
  rw [Traps, e, branch, notPoison_bad ha, act_error_bind, finishAt_error, stopped_trap _ _ _ _ (by decide), Nat.zero_mul,
    Nat.zero_add]

theorem traps_branch_second (ha : (s.g f.dNum).bad = false) (hb : (s.g f.sNum).bad = true) :
    Traps i s 0x0D (word (64 + f.sNum)) := by
  rw [Traps, e, branch, notPoison_good ha, act_ok_bind, notPoison_bad hb, act_error_bind, finishAt_error,
    stopped_trap _ _ _ _ (by decide), Nat.one_mul]

end

theorem branchOutcomes : Claims.branchOutcomes := by
  intro e he f s
  obtain ⟨taken, hexec, hiff⟩ := exec_branches_iff e he
  refine ⟨fun ha hb => ⟨fun h => ?_, fun h => ?_⟩, traps_branch_first (hexec f s), traps_branch_second (hexec f s)⟩
  · have := runs_branch (hexec f s) ha hb
    rwa [if_pos ((hiff _ _).mpr h)] at this
  · have := runs_branch (hexec f s) ha hb
    rwa [if_neg (mt (hiff _ _).mp h)] at this

/-! ## Jumps (R29, R123, R124, R134) -/

/-- A jump target drops bits 63:19 and bit 0 of its register (R29). -/
theorem jumpTarget_eq (a : Word) : a.setWidth 19 &&& 0x7FFFE = BitVec.ofNat 19 (a.toNat / 2 * 2) := by
  have hmask : ∀ n : Fin 19, (0x7FFFE : LsAddr).getLsbD n.val = decide (n.val ≠ 0) := by decide
  refine BitVec.eq_of_getLsbD_eq fun n hn => ?_
  rw [BitVec.getLsbD_and, BitVec.getLsbD_setWidth, BitVec.getLsbD_ofNat, hmask ⟨n, hn⟩, decide_eq_true hn, Bool.true_and,
    Bool.true_and]
  cases n with
  | zero => simp
  | succ n =>
    rw [Nat.testBit_succ, Nat.mul_div_cancel _ (by decide), ← Nat.testBit_succ]
    simp [BitVec.getLsbD]

theorem jumpAndLink : Claims.jumpAndLink := by
  intro f s hd link a tgt
  have hjal : Runs (.jal f) s (Claims.jumped (link (.jal f)) (s.st.pc + BitVec.ofInt 19 (2 * f.immS))) := by
    rw [Runs, exec_jal, execJal, State.destOk_free hd]
    rfl
  refine ⟨hjal, fun ha => ?_, fun ha hx hs => ?_, fun ha => ⟨?_, ?_⟩, fun ha hx => ?_, fun j ha hx hs => ?_⟩
  · rw [Runs, exec_jr, execJr, State.destOk_free hd, notPoison_good ha]
    simp only [act_ok_bind, jumpTarget_eq]
    rfl
  · rw [Runs, exec_jmpf, execJmpf, State.destOk_free hd, notPoison_good ha]
    simp only [act_ok_bind, jumpTarget_eq]
    rw [decide_eq_true hx, check_true, act_ok_bind, hs]
    rfl
  · rw [Traps, exec_jr, execJr, State.destOk_free hd, notPoison_bad ha, Nat.zero_mul, Nat.zero_add]
    rfl
  · rw [Traps, exec_jmpf, execJmpf, State.destOk_free hd, notPoison_bad ha, Nat.zero_mul, Nat.zero_add]
    rfl
  · rw [Traps, exec_jmpf, execJmpf, State.destOk_free hd, notPoison_good ha]
    simp only [act_ok_bind, jumpTarget_eq]
    rw [decide_eq_false (not_lt.mpr hx)]
    rfl
  · rw [Traps, exec_jmpf, execJmpf, State.destOk_free hd, notPoison_good ha]
    simp only [act_ok_bind, jumpTarget_eq]
    rw [decide_eq_true hx, check_true, act_ok_bind, hs]
    rfl

/-- Settles O3: a branch is decided by its comparison, and a jump by its target. -/
theorem controlTransfer : Obligations.ControlTransfer := ⟨branchOutcomes, jumpAndLink⟩

/-! ## SVC and BRK (R125) -/

theorem traps_callTrap {i : Instr} {f : Fields} {s : State} {c : BitVec 8} (e : exec i s = callTrap i f s c) (hc : c ≠ 0x05) :
    Traps i s c (word (f.immU % 65536 + instrLen i * 65536)) := by
  rw [Traps, e, callTrap, finish_error, stopped_trap _ _ _ _ hc]

theorem supervisorCallAndBreakpoint : Claims.supervisorCallAndBreakpoint := by
  intro f s tval
  have hsvc {c : BitVec 8} (h : (if s.st.lvl = 0 then 0x08 else if s.st.lvl = 1 then 0x09 else 0x01) = c) (hc : c ≠ 0x05) :
      Traps (.svc f) s c (tval (.svc f)) := by
    subst h
    exact traps_callTrap (exec_svc f s) hc
  refine ⟨fun h => hsvc (by rw [h]; rfl) (by decide), fun h => hsvc (by rw [h]; rfl) (by decide),
    fun h => hsvc (by rw [h]; rfl) (by decide), traps_callTrap (exec_brk f s) (by decide)⟩

/-! ## Destinations that fibre code may not name (R102) -/

/-- An instruction checks a destination before anything else: what stops the check stops the instruction. -/
def ChecksFirst (i : Instr) (s : State) (d : Nat) : Prop := ∀ e, s.destOk d = .error e → exec i s = .next (s.stopped i e)

namespace ChecksFirst
variable {i : Instr} {f : Fields} {s : State} {d : Nat}

/-- In fibre code such an instruction refuses a destination in g9 to g63. -/
theorem traps (h : ChecksFirst i s d) (hf : s.st.inFibre = true) (hd : 9 ≤ d) : Traps i s 0x1B (word d) :=
  (h _ (State.destOk_refused hf hd)).trans (congrArg _ (stopped_trap s i _ _ (by decide)))

theorem of_finish {k : Unit → Act State} (e : exec i s = finish i s (s.destOk d >>= k)) : ChecksFirst i s d :=
  fun er h => by rw [e, h]; rfl

theorem of_finishAt {k : Unit → Act State} (e : exec i s = finishAt i s (s.destOk d >>= k)) : ChecksFirst i s d :=
  fun er h => by rw [e, h]; rfl

/-- A scalar access that reads checks its destination before its address (R121, R330). -/
theorem accessXlate {o : MemOp} (ho : o.op.reads = true) {er : Stop} (h : s.destOk o.d = .error er) :
    s.accessXlate i f o = .error er := by
  rw [State.accessXlate, ho, if_pos rfl, h]
  rfl

theorem of_access {o : MemOp} (e : exec i s = scalarAccess i f o s) (ho : o.op.reads = true) : ChecksFirst i s o.d :=
  fun er h => by rw [e, scalarAccess, State.access, accessXlate ho h]; rfl

theorem of_announceSc {o : MemOp} (e : exec i s = announceSc i f o s) (ho : o.op.reads = true) : ChecksFirst i s o.d :=
  fun er h => by rw [e, announceSc, State.accessAddr, accessXlate ho h]; rfl

/-- An R-family form checks the first of the registers that it returns to (R303). -/
theorem of_remoteForm {n : Nat} {ds : List Nat} (e : exec i s = remoteForm i f n s) (hr : returns i = d :: ds) :
    ChecksFirst i s d :=
  fun er h => by rw [e, remoteForm, hr, List.forM, h]; rfl

end ChecksFirst

open ChecksFirst in
theorem checksFirst_scalarWriters : ∀ mk ∈ Claims.scalarWriters, ∀ f s, ChecksFirst (mk f) s f.dNum := by
  simp only [Claims.scalarWriters, List.forall_mem_append, List.forall_mem_map, List.forall_mem_cons, List.not_mem_nil,
    false_imp_iff, implies_true, and_true]
  refine ⟨⟨⟨⟨fun e he f s => ?two, fun e he f s => ?three⟩, fun e he f s => ?one⟩, fun e he f s => ?imm⟩,
    fun f s => of_finish (exec_bfi f s), fun f s => of_finish (exec_li f s), fun f s => of_finish (exec_lpc f s),
    fun f s => of_finishAt (exec_jal f s), fun f s => of_finishAt (exec_jr f s)⟩
  case two =>
    obtain ⟨op, h⟩ := exec_twoSource e he
    exact of_finish (h f s)
  case three =>
    obtain ⟨op, h⟩ := exec_threeSource e he
    exact of_finish (h f s)
  case one =>
    obtain ⟨op, h⟩ := exec_oneSource e he
    exact of_finish (h f s)
  case imm =>
    obtain ⟨op, h⟩ := exec_immediate e he
    exact of_finish (h f s)

open ChecksFirst in
theorem checksFirst_divisions : ∀ e ∈ Claims.divisions, ∀ f s, ChecksFirst (e.1 f) s f.dNum := fun e he f s => by
  obtain ⟨op, h⟩ := exec_divisions e he
  exact of_finish (h f s)

open ChecksFirst in
theorem checksFirst_otherWriters : ∀ mk ∈ Claims.otherWriters, ∀ f s, ChecksFirst (mk f) s f.dNum := by
  simp only [Claims.otherWriters, List.forall_mem_cons, List.not_mem_nil, false_imp_iff, implies_true, and_true]
  exact ⟨
    -- of local store, its segments and its tag table
    fun f s => of_finish (exec_lldI8 f s), fun f s => of_finish (exec_lldI16 f s), fun f s => of_finish (exec_lldI32 f s),
    fun f s => of_finish (exec_lldI64 f s), fun f s => of_finish (exec_lldN8 f s), fun f s => of_finish (exec_lldN16 f s),
    fun f s => of_finish (exec_lldN32 f s), fun f s => of_finishAt (exec_lldf f s), fun f s => of_finishAt (exec_llde f s),
    fun f s => of_finish (exec_cwait f s), fun f s => of_finishAt (exec_jmpf f s), fun f s => of_finish (exec_tlook f s),
    fun f s => of_finish (exec_tevict f s),
    -- of memory
    fun f s => of_access (exec_ldI8 f s) rfl, fun f s => of_access (exec_ldI16 f s) rfl,
    fun f s => of_access (exec_ldI32 f s) rfl, fun f s => of_access (exec_ldI64 f s) rfl,
    fun f s => of_access (exec_ldN8 f s) rfl, fun f s => of_access (exec_ldN16 f s) rfl,
    fun f s => of_access (exec_ldN32 f s) rfl, fun f s => of_access (exec_lda f s) rfl,
    fun f s => of_access (exec_amo f s) rfl, fun f s => of_access (exec_cas f s) rfl,
    fun f s => of_announceSc (exec_scld f s) rfl, fun f s => of_announceSc (exec_scamo f s) rfl,
    -- of the engines
    fun f s => of_finish (exec_vext f s), fun f s => of_finish (exec_kmovg f s), fun f s => of_finish (exec_kpopc f s),
    fun f s => of_finish (exec_vbscale f s), fun f s => of_finish (exec_mcommit f s), fun f s => of_finish (exec_pstat f s),
    -- of drafts and direct commands
    fun f s => of_finish (exec_draft f s), fun f s => of_finishAt (exec_draftrel f s), fun f s => of_finish (exec_drwait f s),
    fun f s => of_finish (exec_drstat f s), fun f s => of_finishAt (exec_dfetch f s),
    fun f s => of_finishAt (exec_devict f s), fun f s => of_finishAt (exec_dpin f s), fun f s => of_finishAt (exec_dunpin f s),
    -- of the system
    fun f s => of_finishAt (exec_rwait f s), fun f s => of_finish (exec_sysrd f s), fun f s => of_finishAt (exec_frun f s),
    fun f s => of_finish (exec_fork f s), fun f s => of_finishAt (exec_launch f s), fun f s => of_finish (exec_waiti f s),
    fun f s => of_finish (exec_ringrd f s), fun f s => of_finish (exec_preempt f s), fun f s => of_finishAt (exec_migrate f s),
    -- of messages and procedures
    fun f s => of_finish (exec_recv f s), fun f s => of_finish (exec_recvp f s), fun f s => of_remoteForm (exec_rld f s) rfl,
    fun f s => of_remoteForm (exec_rcas f s) rfl, fun f s => of_remoteForm (exec_rwrd f s) rfl⟩

open ChecksFirst in
/-- RAMO, RFADD and RDECW check their destination when they return one. -/
theorem checksFirst_returning : ∀ mk ∈ ([.ramo, .rfadd, .rdecw] : List (Fields → Instr)), ∀ f s, bitOf f.flags 0 = false →
    ChecksFirst (mk f) s f.dNum := by
  have hr (f : Fields) (h : bitOf f.flags 0 = false) : (if bitOf f.flags 0 then [] else [f.dNum]) = [f.dNum] := by
    rw [h]
    rfl
  simp only [List.forall_mem_cons, List.not_mem_nil, false_imp_iff, implies_true, and_true]
  exact ⟨fun f s h => of_remoteForm (exec_ramo f s) (hr f h), fun f s h => of_remoteForm (exec_rfadd f s) (hr f h),
    fun f s h => of_remoteForm (exec_rdecw f s) (hr f h)⟩

/-- RWRD to g8 would write g9 too (R307). -/
theorem traps_rwrd_pair {f : Fields} {s : State} (hf : s.st.inFibre = true) (hd : f.dNum = 8) : Traps (.rwrd f) s 0x1B 9 := by
  have h8 : s.destOk 8 = .ok () := State.destOk_free fun _ => by decide
  have h9 : s.destOk (8 + 1) = .error (.trap 0x1B (word 9)) := State.destOk_refused hf (by decide)
  have hr : returns (.rwrd f) = [8, 8 + 1] := by rw [returns, hd]
  rw [Traps, exec_rwrd, execRwrd, remoteForm, hr, List.forM, h8, act_ok_bind, List.forM, h9]
  rfl

theorem fibreDestinationRefused : Claims.fibreDestinationRefused := by
  refine ⟨fun mk hmk f s hf hd => ChecksFirst.traps ?_ hf hd, fun mk hmk f s hf hd h =>
    (checksFirst_returning mk hmk f s h).traps hf hd, fun f s hf hd => traps_rwrd_pair hf hd⟩
  rw [List.mem_append, List.mem_append, List.mem_map] at hmk
  obtain (hmk | ⟨e, he, rfl⟩) | hmk := hmk
  · exact checksFirst_scalarWriters mk hmk f s
  · exact checksFirst_divisions e he f s
  · exact checksFirst_otherWriters mk hmk f s

/-- Settles O4: every instruction with a destination checks it first. -/
theorem callsAndFibreRule : Obligations.CallsAndFibreRule := ⟨supervisorCallAndBreakpoint, fibreDestinationRefused⟩

end Sys2Proof.Machine
end

section
/-! PROOFS. Loads and stores of the vaults and the second tier. -/

set_option Elab.async false

namespace Sys2Proof.Machine

/-! ## What is only noted of an access (R195, R206, R353, R360, R390) -/

/-- A pillar's TLBs, counters, tile stream and DRAM rows change, and nothing else of it. -/
def Pillar.OnlyNoted (x y : Pillar) : Prop :=
  { y with counters := x.counters, dataTlb := x.dataTlb, tileTlb := x.tileTlb, tile := x.tile, vault := x.vault } = x

/-- An access is noted in pillars and stacks, and changes nothing that a program reads of registers or memory. -/
def OnlyNoted (s t : State) : Prop :=
  { t with pillars := s.pillars, stackUnits := s.stackUnits } = s ∧ ∀ p, (s.pil p).OnlyNoted (t.pil p)

namespace OnlyNoted
variable {s t : State}

theorem refl (s : State) : OnlyNoted s s := ⟨rfl, fun _ => rfl⟩

theorem trans {u : State} (h : OnlyNoted s t) (h' : OnlyNoted t u) : OnlyNoted s u := by
  obtain ⟨e, hp⟩ := h
  obtain ⟨e', hp'⟩ := h'
  refine ⟨?_, fun p => ?_⟩
  · rw [← e'] at e
    exact e
  · have a := hp p
    have b := hp' p
    unfold Pillar.OnlyNoted at a b ⊢
    rw [← b] at a
    exact a

theorem modPil (h : OnlyNoted s t) {p : PillarId} {f : Pillar → Pillar} (hf : ∀ x : Pillar, x.OnlyNoted (f x)) :
    OnlyNoted s (t.modPil p f) := by
  refine h.trans ⟨rfl, fun q => ?_⟩
  by_cases hq : q = p
  · subst hq
    rw [State.pil_modPil]
    exact hf _
  · rw [State.pil_modPil_other t f hq]
    rfl

theorem modStack (h : OnlyNoted s t) {n : Nat} {f : Stack → Stack} : OnlyNoted s (t.modStack n f) :=
  h.trans ⟨rfl, fun _ => rfl⟩

theorem ite {c : Prop} [Decidable c] {u : State} (h : OnlyNoted s t) (h' : OnlyNoted s u) : OnlyNoted s (if c then t else u) := by
  split
  · exact h
  · exact h'

/-! ### The operations that note -/

theorem countForward (h : OnlyNoted s t) {q : PillarId} : OnlyNoted s (t.countForward q) := by
  unfold State.countForward
  exact h.ite (h.modPil fun _ => rfl)

theorem noteDirect (h : OnlyNoted s t) {pa : Nat} : OnlyNoted s (t.noteDirect pa) := by
  unfold State.noteDirect
  split
  · exact h.countForward
  · exact h

theorem noteWalk (h : OnlyNoted s t) {asid : BitVec 16} {va : Word} : OnlyNoted s (t.noteWalk asid va) := by
  unfold State.noteWalk
  split
  · exact List.foldlRecOn _ _ h fun _ h' _ _ => h'.noteDirect
  · exact h

theorem countMiss (h : OnlyNoted s t) {w : Walker} {missed walked : Bool} : OnlyNoted s (t.countMiss w missed walked) := by
  have h1 : OnlyNoted s (t.modPil w.p fun x => x.count (if w.tile then 0x4B9 else 0x4B8) (boolNat (missed && !w.shuttle))) :=
    h.modPil fun _ => rfl
  unfold State.countMiss State.countStack
  exact h1.modStack.modStack

theorem noteXlate (h : OnlyNoted s t) {w : Walker} {x : Xlate} : OnlyNoted s (t.noteXlate w x) := by
  have hp (y : Pillar) (e : TlbEntry) : y.OnlyNoted (if w.shuttle then y
      else if w.tile then { y with tileTlb := touchTlb 32 y.tileTlb e }
      else { y with dataTlb := touchTlb 64 y.dataTlb e }) := by
    split
    · rfl
    · split <;> rfl
  unfold State.noteXlate
  extract_lets st missed walked s1 s2 s3
  have h1 : OnlyNoted s s1 := h.countMiss
  have h2 : OnlyNoted s s2 := h1.noteWalk.ite h1
  have h3 : OnlyNoted s s3 := h2.modPil fun y => hp y _
  exact (h.ite h.modStack.noteWalk).ite (h3.modStack.ite h3)

theorem noteForward (h : OnlyNoted s t) {p : PillarId} {pa : Nat} : OnlyNoted s (t.noteForward p pa) := by
  unfold State.noteForward
  split
  · exact h.countForward
  · exact h

theorem noteAgent (h : OnlyNoted s t) {p : PillarId} {pa : Nat} : OnlyNoted s (t.noteAgent p pa) := by
  unfold State.noteAgent
  split
  · exact h.ite (h.modPil fun _ => rfl)
  · exact h

theorem useRow (h : OnlyNoted s t) {pa : Nat} : OnlyNoted s (t.useRow pa) := by
  unfold State.useRow
  split
  · refine h.modPil fun x => ?_
    unfold Pillar.interfere
    split
    · split <;> rfl
    · rfl
  · exact h

/-! ### What stays -/

theorem field {α : Type} (h : OnlyNoted s t) (f : State → α) :
    f { t with pillars := s.pillars, stackUnits := s.stackUnits } = f s := congrArg f h.1

theorem pillarField {α : Type} (h : OnlyNoted s t) (p : PillarId) (f : Pillar → α) :
    f { t.pil p with
          counters := (s.pil p).counters, dataTlb := (s.pil p).dataTlb, tileTlb := (s.pil p).tileTlb, tile := (s.pil p).tile
          vault := (s.pil p).vault } = f (s.pil p) := congrArg f (h.2 p)

theorem curP (h : OnlyNoted s t) : t.curP = s.curP := h.field State.curP

theorem curT (h : OnlyNoted s t) : t.curT = s.curT := h.field State.curT

theorem mem (h : OnlyNoted s t) : t.mem = s.mem := h.field State.mem

theorem memBad (h : OnlyNoted s t) : t.memBad = s.memBad := h.field State.memBad

theorem launch (h : OnlyNoted s t) : t.launch = s.launch := h.field State.launch

theorem ls (h : OnlyNoted s t) (p : PillarId) : (t.pil p).ls = (s.pil p).ls := h.pillarField p Pillar.ls

theorem strandAt (h : OnlyNoted s t) (p : PillarId) (u : StrandId) : t.strandAt p u = s.strandAt p u :=
  h.pillarField p (·.strand u)

theorem st (h : OnlyNoted s t) : t.st = s.st := by
  unfold State.st
  rw [h.curP, h.curT, h.strandAt]

theorem nextPc (h : OnlyNoted s t) (i : Instr) : t.nextPc i = s.nextPc i := by
  unfold State.nextPc
  rw [h.st]

theorem sameBytes (h : OnlyNoted s t) : SameBytes s t := ⟨fun p a => by rw [h.ls], fun a => by rw [h.mem]⟩

theorem jobOf (h : OnlyNoted s t) (p : PillarId) : t.jobOf p = s.jobOf p := by
  unfold State.jobOf
  rw [show (t.pil p).job = (s.pil p).job from h.pillarField p Pillar.job, h.launch]

theorem position (h : OnlyNoted s t) (p : PillarId) : t.position p = s.position p := by
  unfold State.position
  rw [show (t.pil p).standsFor = (s.pil p).standsFor from h.pillarField p Pillar.standsFor]

theorem outgoing (h : OnlyNoted s t) (p : PillarId) (pl : Place) : t.outgoing p pl = s.outgoing p pl := by
  unfold State.outgoing
  simp only [h.jobOf, h.position]

theorem readThrough (h : OnlyNoted s t) (stores : List PendingStore) (pa n : Nat) :
    t.readThrough stores pa n = s.readThrough stores pa n := by
  unfold State.readThrough State.physRead State.physBad
  rw [h.mem, h.memBad]

end OnlyNoted

/-! ## Addresses of memory (R340) -/

theorem placeOf_vaultPa (p : PillarId) {off : Nat} (h : off < 2 ^ 28) : placeOf (vaultPa p off) = .vault p off := by
  have hp := p.isLt
  have hr : vaultPa p off / 2 ^ 46 % 4 = 0 := by
    unfold vaultPa
    omega
  have hq : BitVec.ofNat 10 (vaultPa p off / 2 ^ 36) = p := by
    apply BitVec.eq_of_toNat_eq
    rw [BitVec.toNat_ofNat]
    unfold vaultPa
    omega
  have ho : vaultPa p off % 2 ^ 28 = off := by
    unfold vaultPa
    omega
  unfold placeOf
  simp only [hr, hq, ho]

/-- An address of memory is of a vault or of the second tier. -/
theorem placeOf_inMemory {pa : Nat} (h : Claims.inMemory pa) :
    (∃ q, placeOf pa = .vault q (pa % 2 ^ 28)) ∨ placeOf pa = .tier (pa % 2 ^ 46) := by
  unfold Claims.inMemory at h
  unfold placeOf
  obtain h | h : pa / 2 ^ 46 % 4 = 0 ∨ pa / 2 ^ 46 % 4 = 1 := by omega
  · rw [h]
    exact .inl ⟨_, rfl⟩
  · rw [h]
    exact .inr rfl

/-- An access to memory reaches memory, past forwarding and redirection (R390, R399). -/
theorem State.reach_inMemory {s : State} {p : PillarId} {pa pa' : Nat} {va : Word} (h : Claims.inMemory pa)
    (hr : s.reach p pa va = .ok pa') : (∃ q off, placeOf pa' = .vault q off) ∨ ∃ a, placeOf pa' = .tier a := by
  unfold State.reach at hr
  rcases placeOf_inMemory h with ⟨q, hq⟩ | hq
  · rw [hq] at hr
    simp only at hr
    split at hr
    · cases hr
    · split at hr
      · cases hr
        exact .inl ⟨_, _, placeOf_vaultPa _ (Nat.mod_lt _ (by decide))⟩
      · cases hr
  · rw [hq] at hr
    simp only at hr
    split_ifs at hr
    cases hr
    exact .inr ⟨_, hq⟩

/-! ## The checks of an access that passes (R110, R121, R330) -/

/-- Memory has no rules of its own for the forms of page 2. -/
theorem State.regionCheck_inMemory {s : State} {i : Instr} {o : MemOp} {pa : Nat} {va : Word} {a b : PWord}
    (h : Claims.inMemory pa) : s.regionCheck i o pa va a b = .ok () := by
  have h2 : (2 ≤ pa / 2 ^ 46 % 4) = False := eq_false (Nat.not_le.mpr h)
  have h3 : (pa / 2 ^ 46 % 4 == 3) = false := beq_eq_false_iff_ne.mpr (by unfold Claims.inMemory at h; omega)
  unfold State.regionCheck
  simp only [h2, h3, decide_false, Bool.and_false, Bool.false_and, Bool.not_false, check_true, act_ok_bind]
  rcases placeOf_inMemory h with ⟨q, hq⟩ | hq <;> rw [hq]

/-- The kind of access that an operation translates for. -/
def MemOp.kind (o : MemOp) : AccessKind := if o.op.writes then .write else .read

section
variable {s : State} {i : Instr} {f : Fields} {o : MemOp} {pa : Nat} {x : Xlate}

theorem State.translate_lands {k : AccessKind} {va : Word} (h : s.xlate s.walker k va = .ok x) (ha : x.entry.allot = 0) :
    s.translate k va = .ok x := by
  rw [State.translate, State.translateAs, h]
  exact if_pos (beq_iff_eq.mpr ha)

/-- The checks of an access that lands in memory pass. -/
theorem State.accessXlate_lands (h : Claims.lands s f o.kind o.n pa x) (hm : Claims.inMemory x.pa)
    (hd : o.op.reads = true → s.destFree o.d) : s.accessXlate i f o = .ok (s.effAddr f, x) := by
  obtain ⟨hc, hn, hx, ha, -⟩ := h
  have hdest (k : Unit → Act (Word × Xlate)) : (if o.op.reads = true then s.destOk o.d >>= k else k ()) = k () := by
    split
    · next hr => rw [State.destOk_free (hd hr), act_ok_bind]
    · rfl
  have ht : s.translate (if o.op.writes then .write else .read) (s.effAddr f) = .ok x := State.translate_lands hx ha
  unfold State.accessXlate
  refine (hdest _).trans ?_
  rw [State.mAddr_clean hc, act_ok_bind, hn, beq_self_eq_true, check_true, act_ok_bind, ht, act_ok_bind,
    State.regionCheck_inMemory hm, act_ok_bind]

end

/-! ## Accesses on their way (R109, R320) -/

/-- The state in which an access that reaches its address is performed. -/
def State.noted (s : State) (x : Xlate) : State := (s.noteXlate s.walker x).noteForward s.curP x.pa

theorem OnlyNoted.noted (s : State) (x : Xlate) : OnlyNoted s (s.noted x) := (OnlyNoted.refl s).noteXlate.noteForward

theorem State.accessFrom_reach {s : State} {i : Instr} {o : MemOp} {va : Word} {x : Xlate} {pa : Nat}
    (h : s.reach s.curP x.pa va = .ok pa) :
    s.accessFrom i o va x = (s.noted x).performAt i o pa va (s.g o.d) (s.g (o.d + 1)) := by
  rw [State.accessFrom, h]
  rfl

/-- The register of an M form is one of the 64 (R23). -/
theorem dNum_lt (f : Fields) : f.dNum < 64 := by
  have hd := f.d.isLt
  unfold Fields.dNum boolNat
  split
  · split <;> omega
  · omega

/-- Where the stores of the strand to some of n bytes are under way. -/
def State.storesPend (s : State) (pa n : Nat) : Bool := s.st.stores.any fun q => overlaps q.pa q.n pa n

/-- The state after an access that has been performed, with its value on the way. -/
def State.answered (r : State × (Nat × Bool)) (i : Instr) (o : MemOp) : State := r.1.awaitData i o (o.value r.2)

section
variable {s : State} {i : Instr} {o : MemOp} {pa : Nat} {va : Word} {a b : PWord} (hout : s.outgoing s.curP (placeOf pa) = false)
include hout

/-- An access that reaches a vault and is not compared with a twin's (R109, R320). -/
theorem State.performAt_vault {q : PillarId} {off : Nat} (hpl : placeOf pa = .vault q off) :
    s.performAt i o pa va a b =
      if o.op = .store && q == s.curP && !isSc i then
        if s.st.stores.length < 8 then .ok (s.modSt fun t => { t with
          stores := t.stores ++ [{ pa := pa, n := o.n, data := a.bits.toNat % 2 ^ (8 * o.n), bad := a.bad }]
          pc := s.nextPc i })
        else .error .wait
      else if s.storesPend pa o.n && o.op.writes then .error .wait
      else .ok (State.answered ((s.noteAgent s.curP pa).performMem s.st.stores o pa a b) i o) := by
  rw [hpl] at hout
  simp only [State.performAt, hpl, hout, Bool.false_eq_true, if_false]
  rfl

/-- An access that reaches the second tier and is not compared with a twin's. -/
theorem State.performAt_tier {off : Nat} (hpl : placeOf pa = .tier off) :
    s.performAt i o pa va a b = .ok (State.answered (s.performMem [] o pa a b) i o) := by
  rw [hpl] at hout
  simp only [State.performAt, hpl, hout, Bool.false_eq_true, if_false]
  rfl

/-- A load from memory is performed at once, and its data are on their way. -/
theorem State.performAt_load (ho : o.op = .load)
    (hpl : (∃ q off, placeOf pa = .vault q off) ∨ ∃ a, placeOf pa = .tier a) :
    ∃ u, OnlyNoted s u ∧
      s.performAt i o pa va a b = .ok (u.awaitData i o (o.value (s.readThrough (Claims.seenStores s pa) pa o.n))) := by
  have hperform (t : State) (stores : List PendingStore) :
      t.performMem stores o pa a b = (t.useRow pa, t.readThrough stores pa o.n) := by
    simp only [State.performMem, MemOp.result, ho]
  rcases hpl with ⟨q, off, hq⟩ | ⟨off, hq⟩
  · refine ⟨(s.noteAgent s.curP pa).useRow pa, (OnlyNoted.refl s).noteAgent.useRow, ?_⟩
    have hs : Claims.seenStores s pa = s.st.stores := by rw [Claims.seenStores, hq]
    rw [State.performAt_vault hout hq, hperform, (OnlyNoted.refl s).noteAgent.readThrough, hs, ho]
    rw [if_neg (by simp), if_neg (by simp [AccessOp.writes])]
    rfl
  · refine ⟨s.useRow pa, (OnlyNoted.refl s).useRow, ?_⟩
    have hs : Claims.seenStores s pa = [] := by rw [Claims.seenStores, hq]
    rw [State.performAt_tier hout hq, hperform, hs]
    rfl

/-- A store into the strand's own vault joins its store buffer, if that has room (R109, R320). -/
theorem State.performAt_ownStore (ho : o.op = .store) (hi : isSc i = false) {off : Nat}
    (hpl : placeOf pa = .vault s.curP off) :
    s.performAt i o pa va a b = if s.st.stores.length < 8 then
      .ok (s.modSt fun t => { t with
        stores := t.stores ++ [{ pa := pa, n := o.n, data := a.bits.toNat % 2 ^ (8 * o.n), bad := a.bad }], pc := s.nextPc i })
      else .error .wait := by
  rw [State.performAt_vault hout hpl, if_pos (by simp [ho, hi])]

/-- A store into other memory, with none of the strand's to the same bytes under way, is written at once. -/
theorem State.performAt_store (ho : o.op = .store)
    (hpl : (∃ q off, placeOf pa = .vault q off ∧ q ≠ s.curP) ∨ ∃ a, placeOf pa = .tier a)
    (hn : ∀ q ∈ s.st.stores, overlaps q.pa q.n pa o.n = false) :
    ∃ u v, OnlyNoted s u ∧
      s.performAt i o pa va a b = .ok ((u.physWrite pa o.n (a.bits.toNat % 2 ^ (8 * o.n)) a.bad).awaitData i o v) := by
  have hperform (t : State) (stores : List PendingStore) : t.performMem stores o pa a b =
      ((t.useRow pa).physWrite pa o.n (a.bits.toNat % 2 ^ (8 * o.n)) a.bad, t.readThrough stores pa o.n) := by
    simp only [State.performMem, MemOp.result, ho]
  have hpend : s.storesPend pa o.n = false := List.any_eq_false.mpr fun q hq => by rw [hn q hq]; decide
  rcases hpl with ⟨q, off, hq, hne⟩ | ⟨off, hq⟩
  · refine ⟨(s.noteAgent s.curP pa).useRow pa, o.value ((s.noteAgent s.curP pa).readThrough s.st.stores pa o.n),
      (OnlyNoted.refl s).noteAgent.useRow, ?_⟩
    rw [State.performAt_vault hout hq, if_neg (by simp [hne]), hpend, if_neg (by simp), hperform]
    rfl
  · refine ⟨s.useRow pa, o.value (s.readThrough [] pa o.n), (OnlyNoted.refl s).useRow, ?_⟩
    rw [State.performAt_tier hout hq, hperform]
    rfl

end

/-! ## Data on their way (R109, R157) -/

/-- An update of a strand leaves every local store. -/
theorem State.pil_modSt_ls (s : State) (f : Strand → Strand) (p : PillarId) : ((s.modSt f).pil p).ls = (s.pil p).ls := by
  rw [State.pil_modSt]

theorem SameBytes.trans {s t u : State} (h : SameBytes s t) (h' : SameBytes t u) : SameBytes s u :=
  ⟨fun p a => (h'.1 p a).trans (h.1 p a), fun a => (h'.2 a).trans (h.2 a)⟩

theorem sameBytes_modSt (s : State) (f : Strand → Strand) : SameBytes s (s.modSt f) := sameBytes_modPil s s.curP fun _ => rfl

/-- Outside fibre code the strand blocks past its instruction, with the value of an access that reads in its register. -/
theorem State.awaitData_strand {s : State} {i : Instr} {o : MemOp} (hf : s.st.inFibre = false) (v : PWord) :
    s.awaitData i o v = s.modSt fun r =>
      { (if o.op.reads then r.setReg o.d v else r) with pc := s.nextPc i, blocked := .access } := by
  unfold State.awaitData
  rw [hf]
  cases o.op.reads
  · rfl
  · exact State.modSt_modSt s _ _

/-- In fibre code the fibre parks past its instruction (R157). -/
theorem State.awaitData_fibre {s : State} {i : Instr} {o : MemOp} (hf : s.st.inFibre = true) (hi : isSc i = false) (v : PWord) :
    s.awaitData i o v = s.park (s.nextPc i) (if o.op.reads then .load o.d v else .ack) := by
  unfold State.awaitData
  rw [hf, hi]
  rfl

theorem sameBytes_park (s : State) (pc : LsAddr) (k : Parking) : SameBytes s (s.park pc k) := by
  have hpark : SameBytes s (s.modMe fun x => x.modFibre s.st.slot fun y =>
      { y with pc := pc, regs := s.st.g18, state := .parked, parking := k }) := sameBytes_modPil s s.curP fun _ => rfl
  have hleave := hpark.trans (sameBytes_modSt _ fun t =>
    if t.modes.isEmpty then t else { t.leaveFibre (s.aclk s.curP) with notBefore := s.aclk s.curP + 6 })
  exact hleave.trans (sameBytes_modPil _ s.curP (f := fun x => x.count 0x412) fun _ => rfl)

theorem sameBytes_awaitData (s : State) {i : Instr} (o : MemOp) (hi : isSc i = false) (v : PWord) :
    SameBytes s (s.awaitData i o v) := by
  cases hf : s.st.inFibre with
  | false => rw [State.awaitData_strand hf]; exact sameBytes_modSt s _
  | true => rw [State.awaitData_fibre hf hi]; exact sameBytes_park s _ _

/-- The slot of the running fibre after it has parked. -/
theorem State.fibre_park (s : State) (pc : LsAddr) (k : Parking) :
    (s.park pc k).me.fibre s.st.slot =
      { s.me.fibre s.st.slot with pc := pc, regs := s.st.g18, state := .parked, parking := k } := by
  unfold State.park State.storeFibre State.count
  rw [State.me_modMe, State.me_modSt, State.me_modMe]
  exact NatMap.getD_set_same _ _ _ _

/-- A register after its own write: g0 stays zero (R99). -/
theorem Strand.reg_setReg_self (r : Strand) {d : Nat} (hd : d < 64) (v : PWord) :
    (r.setReg d v).reg d = if d = 0 then {} else v := by
  rw [Strand.reg_setReg _ _ _ _ hd]
  by_cases h : d = 0
  · rw [if_neg (fun h' => h'.2 h), if_pos h, h, Strand.reg_zero]
  · rw [if_pos ⟨rfl, h⟩, if_neg h]

/-! ## The value of a load (R11, R320) -/

theorem extend_eq (signed : Bool) {n v : Nat} (hn : 0 < n) (hv : v < 2 ^ (8 * n)) :
    extend signed n v = Claims.extended signed n v := by
  unfold extend Claims.extended sextNat
  rw [Nat.mod_eq_of_lt hv, wordOfInt_eq, if_neg (show 8 * n ≠ 0 by omega)]
  cases signed
  · rfl
  · by_cases h : v < 2 ^ (8 * n - 1)
    · simp [h, not_le.mpr h]
    · simp [h, not_lt.mp h]

/-- A pending store replaces bytes of a value, and lets it have no more. -/
theorem overlayStore_lt (pa n : Nat) {v : Nat × Bool} (b : PendingStore) (hv : v.1 < 2 ^ (8 * n)) :
    (overlayStore pa n v b).1 < 2 ^ (8 * n) := by
  unfold overlayStore
  refine List.foldlRecOn (motive := fun w : Nat × Bool => w.1 < 2 ^ (8 * n)) _ _ hv fun w hw k hk => ?_
  have hk : k < n := List.mem_range.mp hk
  dsimp only
  split
  · have h256 : (256 : Nat) ^ k = 2 ^ (8 * k) := (Nat.pow_mul 2 8 k).symm
    rw [h256, show 256 = 2 ^ 8 from rfl]
    refine Nat.lt_pow_two_of_testBit _ fun j hj => ?_
    rw [testBit_replaceBits, if_neg (by omega)]
    exact Nat.testBit_lt_two_pow (hw.trans_le (Nat.pow_le_pow_right (by decide) hj))
  · exact hw

theorem State.readThrough_lt (s : State) (stores : List PendingStore) (pa n : Nat) :
    (s.readThrough stores pa n).1 < 2 ^ (8 * n) := by
  refine List.foldlRecOn (motive := fun w : Nat × Bool => w.1 < 2 ^ (8 * n)) _ _ ?_ fun w hw b _ => overlayStore_lt pa n b hw
  rw [Nat.pow_mul]
  exact Memory.read_lt s.mem pa n

/-! ## Loads (R121, R330) -/

theorem signedOf_eq (m : BitVec 7) : signedOf m = m.getLsbD 2 := bitOf_testBit _ _

/-- Each load is one scalar access. -/
theorem exec_loads : ∀ e ∈ Claims.loads, ∀ f,
    ∃ o : MemOp, o.op = .load ∧ o.n = e.2.1 f ∧ o.signed = e.2.2 f ∧ o.d = f.dNum ∧
    0 < o.n ∧ isSc (e.1 f) = false ∧ ∀ s, exec (e.1 f) s = scalarAccess (e.1 f) f o s := by
  simp only [Claims.loads, List.forall_mem_cons, List.not_mem_nil, false_imp_iff, implies_true, and_true]
  refine ⟨fun f => ⟨_, rfl, rfl, rfl, rfl, Nat.succ_pos _, rfl, exec_ldI8 f⟩,
    fun f => ⟨_, rfl, rfl, rfl, rfl, Nat.succ_pos _, rfl, exec_ldI16 f⟩,
    fun f => ⟨_, rfl, rfl, rfl, rfl, Nat.succ_pos _, rfl, exec_ldI32 f⟩,
    fun f => ⟨_, rfl, rfl, rfl, rfl, Nat.succ_pos _, rfl, exec_ldI64 f⟩,
    fun f => ⟨_, rfl, rfl, rfl, rfl, Nat.succ_pos _, rfl, exec_ldN8 f⟩,
    fun f => ⟨_, rfl, rfl, rfl, rfl, Nat.succ_pos _, rfl, exec_ldN16 f⟩,
    fun f => ⟨_, rfl, rfl, rfl, rfl, Nat.succ_pos _, rfl, exec_ldN32 f⟩,
    fun f => ⟨orderOp .load f, rfl, sizeOf_eq _, signedOf_eq _, rfl, Nat.two_pow_pos _, rfl, exec_lda f⟩⟩

/-- A scalar access whose checks pass goes on from its translation. -/
theorem State.execAccess {s : State} {i : Instr} {f : Fields} {o : MemOp} {va : Word} {x : Xlate}
    (e : exec i s = scalarAccess i f o s)
    (hx : s.accessXlate i f o = .ok (va, x)) : exec i s = finishAt i s (s.accessFrom i o va x) := by
  rw [e, scalarAccess, State.access, hx, act_ok_bind]

/-- What a load leaves of its value on the way, in a state that has only noted it. -/
theorem load_outcome {s : State} {i : Instr} {o : MemOp} {x : Xlate} {pa : Nat} {va : Word} {a b : PWord}
    (hexec : exec i s = finishAt i s ((s.noted x).performAt i o pa va a b)) (ho : o.op = .load)
    (hout : s.outgoing s.curP (placeOf pa) = false)
    (hpl : (∃ q off, placeOf pa = .vault q off) ∨ ∃ a, placeOf pa = .tier a) :
    ∃ u, OnlyNoted s u ∧ Runs i s (u.awaitData i o (o.value (s.readThrough (Claims.seenStores s pa) pa o.n))) := by
  have hN := OnlyNoted.noted s x
  have hseen : Claims.seenStores (s.noted x) pa = Claims.seenStores s pa := by
    unfold Claims.seenStores
    rw [hN.st]
  obtain ⟨u, hu, hp⟩ := State.performAt_load (i := i) (va := va) (a := a) (b := b)
    (by rw [hN.curP, hN.outgoing, hout]) ho hpl
  rw [hp, hN.readThrough, hseen] at hexec
  exact ⟨u, hN.trans hu, hexec⟩

/-- Settles O10: the access is noted and performed, and its value is on the way to the register or the parked fibre. -/
theorem memoryLoadResults : Obligations.MemoryLoadResults := by
  intro e he f s pa x i n v r hl hm hout hd
  obtain ⟨o, hop, hn, hsg, hod, hn0, hsc, hexec⟩ := exec_loads e he f
  have hk : o.kind = .read := by rw [MemOp.kind, hop]; rfl
  have hx : s.accessXlate i f o = .ok (s.effAddr f, x) :=
    State.accessXlate_lands (pa := pa) (by rw [hk, hn]; exact hl) hm fun _ => hod ▸ hd
  obtain ⟨-, -, -, -, hreach⟩ := hl
  have hrun := State.execAccess (hexec s) hx
  rw [State.accessFrom_reach hreach] at hrun
  obtain ⟨u, hU, ht⟩ := load_outcome hrun hop hout (State.reach_inMemory hm hreach)
  have hv : o.value (s.readThrough (Claims.seenStores s pa) pa o.n) = r := by
    rw [MemOp.value, hn, hsg]
    exact congrArg (pword · _) (extend_eq _ (hn ▸ hn0) (s.readThrough_lt _ pa _))
  have hread : o.op.reads = true := by rw [hop]; rfl
  rw [hv] at ht
  refine ⟨_, ht, hU.sameBytes.trans (sameBytes_awaitData u o hsc r), fun hf => ?_, fun hf => ?_⟩
  · have hst : (u.awaitData i o r).st = { s.st.setReg f.dNum r with pc := s.nextPc i, blocked := .access } := by
      rw [State.awaitData_strand (by rw [hU.st, hf]), State.st_modSt, hread, if_pos rfl, hU.st, hU.nextPc, hod]
    unfold Claims.awaits
    rw [hst]
    exact ⟨⟨rfl, rfl, Strand.setReg_status _ _ _⟩, Strand.reg_setReg_self s.st (dNum_lt f) r,
      fun k hk => Strand.reg_setReg_other s.st r hk⟩
  · have hfib := State.fibre_park u (u.nextPc i) (.load f.dNum r)
    rw [hU.st, hU.nextPc] at hfib
    rw [State.awaitData_fibre (by rw [hU.st, hf]) hsc, hread, if_pos rfl, hod, hU.nextPc, hfib]
    exact ⟨rfl, rfl, rfl⟩

/-! ## Stores (R121, R323) -/

/-- STL is a store once its fence is done (R323). -/
theorem exec_stl_fenced {f : Fields} {s : State} {va : Word} {x : Xlate}
    (hx : s.accessXlate (.stl f) f (orderOp .store f) = .ok (va, x)) (hf : s.fenceDone (f.mod.toNat / 16 % 8) 15 = true) :
    exec (.stl f) s = finishAt (.stl f) s (s.accessFrom (.stl f) (orderOp .store f) va x) := by
  have hscope : bitsOf f.mod.toNat 6 4 = f.mod.toNat / 16 % 8 := bitsOf_eq _ _ _
  rw [exec_stl, execStl, hx, act_ok_bind]
  dsimp only
  rw [hscope, hf, waitFor_true, act_ok_bind]

/-- The stores with what each waits for: bytes, and the fence of STL. -/
def storeForms : List ((Fields → Instr) × (Fields → Nat) × (State → Fields → Prop)) :=
  Claims.stores.map (fun e => (e.1, fun (_ : Fields) => e.2, fun (_ : State) (_ : Fields) => True)) ++
      [(Instr.stl, fun (f : Fields) => 2 ^ (f.mod.toNat % 4),
        fun (s : State) (f : Fields) => s.fenceDone (f.mod.toNat / 16 % 8) 15 = true)]

/-- Each store is one access of its bytes, once what it waits for is done. -/
theorem exec_storeForms : ∀ e ∈ storeForms, ∀ f,
    ∃ o : MemOp, o.op = .store ∧ o.n = e.2.1 f ∧ o.d = f.dNum ∧ isSc (e.1 f) = false ∧
    ∀ s va x, e.2.2 s f → s.accessXlate (e.1 f) f o = .ok (va, x) →
      exec (e.1 f) s = finishAt (e.1 f) s (s.accessFrom (e.1 f) o va x) := by
  simp only [storeForms, Claims.stores, List.map_cons, List.map_nil, List.cons_append, List.nil_append, List.forall_mem_cons,
    List.not_mem_nil, false_imp_iff, implies_true, and_true]
  exact ⟨fun f => ⟨_, rfl, rfl, rfl, rfl, fun s _ _ _ hx => State.execAccess (exec_stI8 f s) hx⟩,
    fun f => ⟨_, rfl, rfl, rfl, rfl, fun s _ _ _ hx => State.execAccess (exec_stI16 f s) hx⟩,
    fun f => ⟨_, rfl, rfl, rfl, rfl, fun s _ _ _ hx => State.execAccess (exec_stI32 f s) hx⟩,
    fun f => ⟨_, rfl, rfl, rfl, rfl, fun s _ _ _ hx => State.execAccess (exec_stI64 f s) hx⟩,
    fun f => ⟨orderOp .store f, rfl, sizeOf_eq _, rfl, rfl, fun s _ _ hf hx => exec_stl_fenced hx hf⟩⟩

section
variable {s : State} {i : Instr} {o : MemOp} {x : Xlate} {pa : Nat} {va : Word} {d b : PWord}
  (hexec : exec i s = finishAt i s ((s.noted x).performAt i o pa va d b)) (ho : o.op = .store)
  (hout : s.outgoing s.curP (placeOf pa) = false)
include hexec ho hout

/-- A store into the strand's own vault joins the buffer with the PC past it, or waits for room in it (R109, R320). -/
theorem ownStore_outcome (hi : isSc i = false) {off : Nat} (hpl : placeOf pa = .vault s.curP off) :
    (s.st.stores.length < 8 → ∃ t, Runs i s t ∧ SameBytes s t ∧ t.st = { s.st with
      stores := s.st.stores ++ [{ pa := pa, n := o.n, data := d.bits.toNat % 2 ^ (8 * o.n), bad := d.bad }]
      pc := s.nextPc i }) ∧
    (8 ≤ s.st.stores.length → Waits i s) := by
  have hN := OnlyNoted.noted s x
  rw [State.performAt_ownStore (by rw [hN.curP, hN.outgoing, hout]) ho hi (hN.curP ▸ hpl), hN.st, hN.nextPc] at hexec
  refine ⟨fun h => ?_, fun h => ?_⟩
  · rw [if_pos h] at hexec
    refine ⟨_, hexec, hN.sameBytes.trans (sameBytes_modSt _ _), ?_⟩
    rw [State.st_modSt, hN.st]
  · rw [if_neg (Nat.not_lt.mpr h)] at hexec
    exact hexec

/-- A store into other memory is written at once, and its strand waits for the acknowledgment (R109). -/
theorem otherStore_outcome (hpl : (∃ q off, placeOf pa = .vault q off ∧ q ≠ s.curP) ∨ ∃ a, placeOf pa = .tier a)
    (hn : ∀ q ∈ s.st.stores, overlaps q.pa q.n pa o.n = false) (hf : s.st.inFibre = false) :
    ∃ t, Runs i s t ∧ t.st = { s.st with pc := s.nextPc i, blocked := .access } ∧
      t.mem = s.mem.write pa o.n (d.bits.toNat % 2 ^ (8 * o.n)) ∧ ∀ p, (t.pil p).ls = (s.pil p).ls := by
  have hN := OnlyNoted.noted s x
  obtain ⟨u, v, hu, hp⟩ := State.performAt_store (i := i) (va := va) (a := d) (b := b)
    (by rw [hN.curP, hN.outgoing, hout]) ho (hN.curP ▸ hpl) (hN.st ▸ hn)
  have hU : OnlyNoted s u := hN.trans hu
  have hw : (u.physWrite pa o.n (d.bits.toNat % 2 ^ (8 * o.n)) d.bad).st = s.st := hU.st
  have hpc : (u.physWrite pa o.n (d.bits.toNat % 2 ^ (8 * o.n)) d.bad).nextPc i = s.nextPc i := hU.nextPc i
  have hreads : o.op.reads = false := by rw [ho]; rfl
  rw [hp, State.awaitData_strand (hw ▸ hf), hreads, hpc] at hexec
  refine ⟨_, hexec, ?_, ?_, fun p => ?_⟩
  · rw [State.st_modSt, hw]
    rfl
  · rw [State.modSt_mem, ← hU.mem]
    rfl
  · rw [State.pil_modSt_ls]
    exact hU.ls p

end

/-- Settles O11: a store joins the buffer, waits for it, or is written to memory, by the place that it reaches. -/
theorem memoryStoreResults : Obligations.MemoryStoreResults := by
  intro e he f s pa x i n d own hl hm hout hfence
  obtain ⟨o, hop, hn, hod, hsc, hexec⟩ := exec_storeForms e he f
  have hk : o.kind = .write := by rw [MemOp.kind, hop]; rfl
  have hx : s.accessXlate i f o = .ok (s.effAddr f, x) :=
    State.accessXlate_lands (pa := pa) (by rw [hk, hn]; exact hl) hm fun h => by rw [hop] at h; cases h
  obtain ⟨-, -, -, -, hreach⟩ := hl
  have hrun := hexec s _ _ hfence hx
  rw [State.accessFrom_reach hreach, hod] at hrun
  refine ⟨fun ⟨off, ho⟩ hfree => ?_, fun ⟨off, ho⟩ hfull => (ownStore_outcome hrun hop hout hsc ho).2 hfull,
    fun ho hover hf => ?_⟩
  · obtain ⟨t, ht, hsame, hst⟩ := (ownStore_outcome hrun hop hout hsc ho).1 hfree
    refine ⟨t, ht, hsame, ?_⟩
    rw [hst, hn]
    exact ⟨rfl, rfl, rfl, rfl⟩
  · have hplace : (∃ q off, placeOf pa = .vault q off ∧ q ≠ s.curP) ∨ ∃ a, placeOf pa = .tier a :=
      (State.reach_inMemory hm hreach).imp_left fun ⟨q, off, hq⟩ => ⟨q, off, hq, fun h => ho ⟨off, h ▸ hq⟩⟩
    obtain ⟨t, ht, hst, hmem, hls⟩ := otherStore_outcome hrun hop hout hplace (hn ▸ hover) hf
    rw [hn] at hmem
    refine ⟨t, ht, ?_, ?_, fun a ha => ?_, ?_, hls⟩
    · unfold Claims.awaits
      rw [hst]
      exact ⟨rfl, rfl, rfl⟩
    · rw [hst]
    · rw [hmem, Memory.get_write_other _ _ ha]
    · rw [hmem, Memory.read_write, show (256 : Nat) = 2 ^ 8 from rfl, ← Nat.pow_mul, Nat.mod_mod]

end Sys2Proof.Machine
end

section
/-! PROOFS. The statement of accesses outside memory fails in a state whose pillars do not stand in rising order. -/

set_option Elab.async false

namespace Sys2Proof.Machine

/-! ## Accesses to a peer (R421) -/

section
variable {s : State} {i : Instr} {o : MemOp} {pa : Nat} {va : Word} {a b : PWord}

/-- An access that reaches a peer and is not compared with a twin's leaves, or waits for room. -/
theorem State.performAt_peer (hout : s.outgoing s.curP (placeOf pa) = false) {n : BitVec 10} {off : Nat}
    (hpl : placeOf pa = .peer n off) : s.performAt i o pa va a b = s.sendAway i o (.peer n off) pa va a b := by
  rw [hpl] at hout
  simp only [State.performAt, hpl, hout, Bool.false_eq_true, if_false]

/-- A strand outside fibre code waits while the peer has no room. -/
theorem State.sendAway_full {pl : Place} (hfull : s.peerFull pl = true) (hf : s.st.inFibre = false) :
    s.sendAway i o pl pa va a b = .error .wait := by
  rw [State.sendAway, hfull, hf]
  rfl

end

/-- A load of 8 bytes at a peer waits when the peer has no room once the access has been noted. -/
theorem waits_ldI64_peer {f : Fields} {s : State} {va : Word} {x : Xlate} {n : BitVec 10} {off : Nat}
    (hx : s.accessXlate (.ldI64 f) f (loadOp 8 true f) = .ok (va, x)) (hreach : s.reach s.curP x.pa va = .ok x.pa)
    (hout : s.outgoing s.curP (placeOf x.pa) = false) (hpl : placeOf x.pa = .peer n off)
    (hfull : (s.noted x).peerFull (placeOf x.pa) = true) (hf : s.st.inFibre = false) : Waits (.ldI64 f) s := by
  have hN := OnlyNoted.noted s x
  rw [Waits, State.execAccess (exec_ldI64 f s) hx, State.accessFrom_reach hreach,
    State.performAt_peer (by rw [hN.curP, hN.outgoing, hout]) hpl, State.sendAway_full (hpl ▸ hfull) (by rw [hN.st, hf])]
  rfl

/-! ## A state whose pillars are not in rising order -/

/-- An address of the UALink peer 1 (R340). -/
def peerAddr : Nat := 2 ^ 47 + 2 ^ 36

/-- A page of that peer, which user code may read. -/
def peerPage : TlbEntry := { asid := 0, global := true, va := 0, bits := 12, pa := peerAddr, user := true, write := true }

/-- What that page gives for its first address. -/
def peerXlate : Xlate := { pa := peerAddr, entry := peerPage }

/-- A fibre whose access to the peer has not returned. -/
def fibreAtPeer : FibreSlot := { state := .parked, parking := .remote default peerAddr 0 0 {} {} 0 0 }

/-- A pillar that holds the page in its TLB, with 128 requests outstanding at the peer. -/
def crowdedPillar : Pillar :=
  { dataTlb := [peerPage], fibres := { entries := (List.range 128).map fun k => (k, fibreAtPeer) } }

/-- Pillar 0 is listed after pillar 1. A write of pillar 0 lists it once more, before pillar 1, so that the 128 requests count
twice: `NatMap` says that its keys rise, and its type does not. -/
def unorderedState : State :=
  { pillars := { entries := [(1, {}), (0, crowdedPillar)] }, host := { peers := { entries := [(1, { up := true })] } } }

/-- Fewer than 256 requests are outstanding at the peer. -/
theorem unorderedState_room : unorderedState.peerFull (placeOf peerAddr) = false := by decide +kernel

/-- The noting of one more access makes them 256. -/
theorem unorderedState_full : (unorderedState.noted peerXlate).peerFull (placeOf peerAddr) = true := by decide +kernel

theorem unorderedState_reach : unorderedState.reach unorderedState.curP peerAddr 0 = .ok peerAddr := by decide +kernel

theorem unorderedState_lands : Claims.lands unorderedState {} .read 8 peerAddr peerXlate := by
  refine ⟨⟨by decide +kernel, fun h => absurd rfl h⟩, by decide +kernel, by decide +kernel, rfl, ?_⟩
  rw [show unorderedState.effAddr {} = 0 by decide +kernel]
  exact unorderedState_reach

theorem unorderedState_waits : Waits (.ldI64 {}) unorderedState :=
  waits_ldI64_peer (va := 0) (x := peerXlate) (n := 1) (off := 0) (by decide +kernel) unorderedState_reach (by decide +kernel)
    (by decide +kernel) unorderedState_full (by decide +kernel)

/-- Refutes O13: R421's limit of 256 requests holds back a load to a peer with fewer, in a state that lists its pillars out of
order, since the noting of the access lists the pillar of the load twice and its requests are counted twice. -/
theorem not_accessFaultsAndOutside : ¬ Obligations.AccessFaultsAndOutside := by
  rintro ⟨hall, -, -⟩
  obtain ⟨hload, -, -⟩ := hall {} unorderedState peerAddr peerXlate (by decide +kernel) (by decide +kernel)
  obtain ⟨hleaves, -, -⟩ := hload unorderedState_lands rfl
  obtain ⟨t, hrun, -, hblocked, -⟩ := hleaves (.inl ⟨1, 0, by decide +kernel⟩) unorderedState_room
  obtain rfl : t = unorderedState.modSt fun r => { r with blocked := .wait (.ldI64 {}) } :=
    Host.Outcome.next.inj (hrun.symm.trans unorderedState_waits)
  rw [State.st_modSt] at hblocked
  cases hblocked

end Sys2Proof.Machine
end

section
/-! PROOFS. What the loads, stores and full/empty forms of local store do. -/

set_option Elab.async false

namespace Sys2Proof.Machine

/-! ## Accesses of 1, 2, 4 and 8 bytes, aligned (R6, R126, R138) -/

/-- The sizes of an access to local store (R135). -/
def LocalSize (n : Nat) : Prop := n = 1 ∨ n = 2 ∨ n = 4 ∨ n = 8

section
variable {a n : Nat} (hn : LocalSize n) (ha : a % n = 0)
include hn

theorem LocalSize.pos : 0 < n := by
  obtain rfl | rfl | rfl | rfl := hn <;> decide

include ha

/-- An aligned access ends in the word in which it begins. -/
theorem LocalSize.last_word : (a + n - 1) / 8 = a / 8 := by
  obtain rfl | rfl | rfl | rfl := hn <;> omega

theorem LocalSize.wordsTouched_eq : wordsTouched a n = 1 := by
  rw [wordsTouched, if_neg hn.pos.ne', hn.last_word ha, Nat.sub_self]

/-- A word's mark after an aligned write: poisoned data set it, and only eight good bytes clear it (R138). -/
theorem NatSet.has_badAfter (m : NatSet) (bad : Bool) (x : Nat) :
    (badAfter m 8 a n bad).has x = if x = a / 8 then bad || (m.has x && n != 8) else m.has x := by
  by_cases h8 : n = 8
  · subst h8
    simp [NatSet.has_badAfter_dword m ha]
  · have hin : (a / 8 ≤ x ∧ x < a / 8 + 1) ↔ x = a / 8 := by omega
    have hkeep : (m.has x && n != 8) = m.has x := by simp [h8]
    have hnone : (a + n) / 8 - (a + 8 - 1) / 8 = 0 := by
      obtain rfl | rfl | rfl | rfl := hn <;> omega
    rw [badAfter, if_neg hn.pos.ne', hn.last_word ha, Nat.sub_self, hnone]
    cases bad
    · simp [NatSet.putRange, hkeep]
    · rw [if_pos rfl, NatSet.has_putRange, if_congr hin rfl rfl, Bool.true_or]

end

/-- A range of one number has a member when the number is one. -/
theorem NatSet.hasAny_one (m : NatSet) (k : Nat) : m.hasAny k 1 = m.has k := by
  rw [Bool.eq_iff_iff]
  simp only [NatSet.hasAny, NatSet.has, List.any_eq_true, List.contains_iff_mem, Bool.and_eq_true, decide_eq_true_eq]
  exact ⟨fun ⟨e, he, hl, hr⟩ => (show e = k by omega) ▸ he, fun h => ⟨k, h, le_rfl, Nat.lt_succ_self k⟩⟩

/-- An aligned read gives the bytes with the mark of the word they lie in (R138). -/
theorem LocalStore.load_aligned (l : LocalStore) {a n : Nat} (hn : LocalSize n) (ha : a % n = 0) :
    l.load a n = (l.bytes.read a n, l.bad.has (a / 8)) := by
  rw [LocalStore.load, hn.wordsTouched_eq ha, NatSet.hasAny_one]

theorem localStoreThenLoad : Claims.localStoreThenLoad := by
  intro x a n v bad hn ha y
  have hbad (w : Nat) := NatSet.has_badAfter hn ha x.ls.bad bad w
  refine ⟨?_, fun b hb => Memory.get_write_other _ _ hb, fun k hk => ?_, ?_, fun w hw => ?_, rfl, Memory.wf_write a n v⟩
  · rw [Nat.pow_mul]
    exact Memory.read_write ..
  · refine (Memory.get_write ..).trans ?_
    rw [if_pos ⟨Nat.le_add_right .., Nat.add_lt_add_left hk a⟩, Nat.add_sub_cancel_left]
  · exact (hbad _).trans (if_pos rfl)
  · exact (hbad w).trans (if_neg hw)

/-! ## The checks before an access (R110, R126, R135, R190) -/

/-- What the local-store forms of M operands do before their effect: the address, its checks, and the wait for the strand's earlier
vector accesses to the bytes. -/
def State.localAccess (s : State) (f : Fields) (n : Nat) (k : Word → Act State) : Act State := do
  let ea ← s.mAddr f
  s.lsCheck ea n
  s.vectorDone ea.toNat n
  k ea

theorem State.vectorDone_wait {s : State} {ea n : Nat} (h : s.me.vectorBusy s.curT ea n = true) :
    s.vectorDone ea n = .error .wait := by
  rw [State.vectorDone, h]
  rfl

section
variable {i : Instr} {f : Fields} {s : State} {n : Nat} {k : Word → Act State}

/-- With no earlier vector access to its bytes, an access in range goes on. -/
theorem State.localAccess_idle (hc : s.addrClean f) (hr : s.lsRange (s.effAddr f).toNat n)
    (hv : s.me.vectorBusy s.curT (s.effAddr f).toNat n = false) : s.localAccess f n k = k (s.effAddr f) := by
  simp only [State.localAccess, State.mAddr_clean hc, State.lsCheck_range hr, State.vectorDone_ok hv, act_ok_bind]

theorem State.localAccess_busy (hc : s.addrClean f) (hr : s.lsRange (s.effAddr f).toNat n)
    (hv : s.me.vectorBusy s.curT (s.effAddr f).toNat n = true) : s.localAccess f n k = .error .wait := by
  simp only [State.localAccess, State.mAddr_clean hc, State.lsCheck_range hr, State.vectorDone_wait hv, act_ok_bind,
    act_error_bind]

/-- The checks in their order, and the trap of each. -/
theorem localChecks_of (e : exec i s = finish i s (s.localAccess f n k)) : Claims.localChecks i f s n := by
  refine ⟨fun hb => traps_finish e ?_, fun hb hq ht => traps_finish e ?_, fun hc ha => traps_finish e ?_,
    fun hc ha hp => traps_finish e ?_, fun hc ha he hx => traps_finish e ?_⟩
  · rw [State.localAccess, State.mAddr_badBase hb, act_error_bind]
  · rw [State.localAccess, State.mAddr_badIndex hb hq ht, act_error_bind]
  · rw [State.localAccess, State.mAddr_clean hc, act_ok_bind, State.lsCheck_unaligned ha, act_error_bind]
  · rw [State.localAccess, State.mAddr_clean hc, act_ok_bind, State.lsCheck_past ha hp, act_error_bind]
  · rw [State.localAccess, State.mAddr_clean hc, act_ok_bind, State.lsCheck_code ha he hx, act_error_bind]

end

/-! ## LLD and LST (R135, R137, R138) -/

/-- What a load of n bytes at an address writes (R11, R138). -/
def State.localValue (s : State) (signed : Bool) (n : Nat) (ea : Word) : PWord :=
  pword (extend signed n (s.me.ls.load ea.toNat n).1) (s.me.ls.load ea.toNat n).2

theorem localValue_aligned (s : State) (signed : Bool) {n : Nat} {ea : Word} (hn : LocalSize n) (ha : ea.toNat % n = 0) :
    s.localValue signed n ea =
      pword (Claims.extended signed n (s.me.ls.bytes.read ea.toNat n)) (s.me.ls.bad.has (ea.toNat / 8)) := by
  have hlt : s.me.ls.bytes.read ea.toNat n < 2 ^ (8 * n) := by
    rw [Nat.pow_mul]
    exact Memory.read_lt ..
  rw [State.localValue, LocalStore.load_aligned _ hn ha, extend_eq signed hn.pos hlt]

theorem localSize_localLoads : ∀ e ∈ Claims.localLoads, LocalSize e.2.1 := by unfold LocalSize; decide

theorem localLoadResults : Claims.localLoadResults := by
  intro e he f s hd i ea
  have hx : exec i s = finish i s (s.localAccess f e.2.1 fun ea => .ok (s.setG f.dNum (s.localValue e.2.2 e.2.1 ea))) := by
    rw [exec_localLoads e he f s, localLoad, State.destOk_free hd]
    rfl
  refine ⟨fun hc hr => ⟨fun hv => ?_, fun hv => waits_finish hx (State.localAccess_busy hc hr hv)⟩, localChecks_of hx⟩
  rw [← localValue_aligned s e.2.2 (localSize_localLoads e he) hr.1]
  exact runs_finish hx (State.localAccess_idle hc hr hv)

theorem localStoreResults : Claims.localStoreResults := by
  intro e he f s i ea v
  have hx : exec i s =
      finish i s (s.localAccess f e.2 fun ea => .ok (s.modMe fun x => x.lsWrite ea.toNat e.2 v.bits.toNat v.bad)) :=
    exec_localStores e he f s
  exact ⟨fun hc hr => ⟨fun hv => runs_finish hx (State.localAccess_idle hc hr hv),
    fun hv => waits_finish hx (State.localAccess_busy hc hr hv)⟩, localChecks_of hx⟩

/-- Settles O5: an access that passes its checks reads or writes its bytes, and a write reads back byte by byte. -/
theorem localLoadAndStoreResults : Obligations.LocalLoadAndStoreResults :=
  ⟨localLoadResults, localStoreResults, localStoreThenLoad⟩

/-! ## Full/empty forms (R139, R140) -/

/-- LLDF and LLDE take a full word, and outside fibre code wait for an empty one. -/
theorem fullLoad_outcome {i : Instr} {f : Fields} {take : Bool} {s : State} (e : exec i s = fullLoad i f take s)
    (hd : s.destFree f.dNum) (hc : s.addrClean f) (hr : s.lsRange (s.effAddr f).toNat 8)
    (hv : s.me.vectorBusy s.curT (s.effAddr f).toNat 8 = false) :
    let w := s.me.takeWord (s.effAddr f).toNat take
    (s.me.ls.empty.has ((s.effAddr f).toNat / 8) = false → Runs i s (s.past i ((s.setPil s.curP w.1).setG f.dNum w.2))) ∧
    (s.st.inFibre = false → s.me.ls.empty.has ((s.effAddr f).toNat / 8) = true → Waits i s) := by
  intro w
  have hx : exec i s = finishAt i s (s.localAccess f 8 fun ea =>
      if s.me.isFull ea.toNat then
        .ok (((s.setPil s.curP (s.me.takeWord ea.toNat take).1).setG f.dNum (s.me.takeWord ea.toNat take).2).setPc (s.nextPc i))
      else if s.st.inFibre then .ok (s.park s.st.pc (.word ((s.effAddr f).setWidth 19) f.dNum take (s.nextPc i)))
      else .error .wait) := by
    rw [e, fullLoad, State.destOk_free hd]
    simp only [act_ok_bind, State.localAccess, State.mAddr_clean hc]
  rw [State.localAccess_idle hc hr hv, Pillar.isFull] at hx
  refine ⟨fun hfull => runs_finishAt hx ?_, fun hf hempty => waits_finishAt hx ?_⟩
  · rw [hfull]
    rfl
  · rw [hempty, hf]
    rfl

/-- The value of a word with its mark (R138, R140). -/
theorem Pillar.takeWord_value (x : Pillar) {ea : Nat} (ha : ea % 8 = 0) (take : Bool) :
    (x.takeWord ea take).2 = pword (BitVec.ofNat 64 (x.ls.bytes.read ea 8)) (x.ls.bad.has (ea / 8)) := by
  rw [Pillar.takeWord, LocalStore.load_aligned _ (.inr (.inr (.inr rfl))) ha]
  rfl

theorem fullEmptyWords : Claims.fullEmptyResults := by
  intro f s ea v d hc hr hv
  have hlstf : exec (.lstf f) s =
      finish (.lstf f) s (s.localAccess f 8 fun ea => .ok (s.modMe fun x => x.lsWriteFull ea.toNat d.bits.toNat d.bad)) :=
    exec_lstf f s
  refine ⟨fun hd hfull => ?_, fun hf hempty => ?_, runs_finish hlstf (State.localAccess_idle hc hr hv)⟩
  · have hval (take : Bool) : (s.me.takeWord ea take).2 = v := Pillar.takeWord_value s.me hr.1 take
    have hlldf := (fullLoad_outcome (exec_lldf f s) hd hc hr hv).1 hfull
    have hllde := (fullLoad_outcome (exec_llde f s) hd hc hr hv).1 hfull
    rw [hval] at hlldf hllde
    exact ⟨hlldf, hllde⟩
  · have hd : s.destFree f.dNum := fun h => by rw [hf] at h; cases h
    exact ⟨(fullLoad_outcome (exec_lldf f s) hd hc hr hv).2 hf hempty,
      (fullLoad_outcome (exec_llde f s) hd hc hr hv).2 hf hempty⟩

/-! ## FESET and FECLR (R142) -/

section
variable {i : Instr} {f : Fields} {empty : Bool} {s : State} {a b : Word} (e : exec i s = setRange i f empty s)
  (ha : (s.g (rrA f)).bits = a) (hb : (s.g (rrB f)).bits = b)
include e ha hb

/-- The alignment of both operands comes first. -/
theorem traps_setRange_unaligned (h : ¬ (a.toNat % 8 = 0 ∧ b.toNat % 8 = 0)) : Traps i s 0x1A a := by
  have hno : (a.toNat % 8 == 0 && b.toNat % 8 == 0) = false := by simpa using h
  refine traps_finish e ?_
  simp only [ha, hb, hno, check_false, act_error_bind]

/-- An empty range has nothing more to check. -/
theorem runs_setRange_empty (ha8 : a.toNat % 8 = 0) (h0 : b = 0) : Runs i s (s.past i s) := by
  subst h0
  have hok : (a.toNat % 8 == 0 && (0 : Word).toNat % 8 == 0) = true := by simp [ha8]
  refine runs_finish e ?_
  simp only [ha, hb, hok, check_true, act_ok_bind, if_true]

variable (ha8 : a.toNat % 8 = 0) (hb8 : b.toNat % 8 = 0) (h0 : b ≠ 0)
include ha8 hb8 h0

theorem traps_setRange_range {c : BitVec 8} (hc : c ≠ 0x05) (hfault : s.me.lsFault a.toNat b.toNat = some c) :
    Traps i s c a := by
  have hok : (a.toNat % 8 == 0 && b.toNat % 8 == 0) = true := by simp [ha8, hb8]
  refine traps_finish e ?_ hc
  simp only [ha, hb, hok, check_true, act_ok_bind, if_neg h0, hfault]

theorem runs_setRange (hfault : s.me.lsFault a.toNat b.toNat = none)
    (hv : s.me.vectorBusy s.curT a.toNat b.toNat = false) :
    Runs i s (s.past i ((s.modMe fun x => x.setEmpty (a.toNat / 8) empty (b.toNat / 8)).issueAfter (ceilDiv b.toNat 512))) := by
  have hok : (a.toNat % 8 == 0 && b.toNat % 8 == 0) = true := by simp [ha8, hb8]
  refine runs_finish e ?_
  simp only [ha, hb, hok, check_true, act_ok_bind, if_neg h0, hfault, State.vectorDone_ok hv]

end

theorem exec_rangeForms : ∀ e ∈ [((Instr.feset : Fields → Instr), false), (Instr.feclr, true)], ∀ f s,
    exec (e.1 f) s = setRange (e.1 f) f e.2 s := by
  simp only [List.forall_mem_cons, List.not_mem_nil, false_imp_iff, implies_true, and_true]
  exact ⟨exec_feset, exec_feclr⟩

theorem fullEmptyRanges : Claims.fullEmptyRanges := by
  intro e he f s i a b
  have hx := exec_rangeForms e he f s
  exact ⟨runs_setRange_empty hx rfl rfl,
    fun ha hb h0 hxb hend hv => runs_setRange hx rfl rfl ha hb h0 (Pillar.lsFault_none hxb hend) hv,
    traps_setRange_unaligned hx rfl rfl,
    fun ha hb h0 hp => traps_setRange_range hx rfl rfl ha hb h0 (by decide) (Pillar.lsFault_past hp),
    fun ha hb h0 hend hc => traps_setRange_range hx rfl rfl ha hb h0 (by decide) (Pillar.lsFault_code hend hc)⟩

/-- Settles O6: a full word is taken or written at once, and a range has its bits set after its checks. -/
theorem fullEmptyResults : Obligations.FullEmptyResults := ⟨fullEmptyWords, fullEmptyRanges⟩

end Sys2Proof.Machine
end

section
/-! PROOFS. Code segments and the tag table. -/

set_option Elab.async false

namespace Sys2Proof.Machine

/-! ## Fields of operands (R132, R146) -/

/-- The low bits of a word. -/
theorem wordBits_low (x : Word) (h : Nat) : x.bits h 0 = x.toNat % 2 ^ (h + 1) := by
  rw [wordBits_eq, Nat.pow_zero, Nat.div_one, Nat.sub_zero]

/-- The bits of a word from one on. -/
theorem wordBits_high (x : Word) {l : Nat} (hl : l ≤ 63) : x.bits 63 l = x.toNat / 2 ^ l := by
  rw [wordBits_eq]
  refine Nat.mod_eq_of_lt (Nat.div_lt_of_lt_mul ?_)
  rw [← Nat.pow_add, Nat.add_sub_cancel' (by omega)]
  exact x.isLt

/-- The number of a segment stands in the low bits of m (R132, R133). -/
theorem segmentNumber_eq (m : BitVec 7) : bitsOf m.toNat 3 0 = m.toNat % 16 := by
  rw [bitsOf_eq, Nat.pow_zero, Nat.div_one]
  rfl

theorem cfetchFields_iff (va b : Word) : cfetchFields va b = true ↔
    va.toNat % 64 = 0 ∧ b.toNat % 1024 = 0 ∧ b.toNat / 2 ^ 19 % 2 ^ 13 = 0 ∧ b.toNat / 2 ^ 41 = 0 := by
  rw [cfetchFields, wordBits_low, wordBits_low, wordBits_high _ (show 41 ≤ 63 by decide), wordBits_eq]
  simp only [Bool.and_eq_true, beq_iff_eq, and_assoc]
  rfl

theorem cfetchDst_eq (b : Word) : cfetchDst b = b.toNat % 2 ^ 19 := wordBits_low b 18

theorem cfetchLen_eq (b : Word) : cfetchLen b = b.toNat / 2 ^ 32 % 512 * 1024 := by
  rw [cfetchLen, wordBits_eq]
  rfl

/-! ## CFETCH and CWAIT (R132, R133) -/

/-- No loading segment meets a range of local store. -/
theorem Pillar.noneLoading_iff (x : Pillar) (a n : Nat) :
    (x.segs.toList.all fun g => !(g.state == 1 && g.meets a n)) = true ↔
      ∀ k, k < 16 → (x.seg k).state = 1 → (x.seg k).meets a n = false := by
  have hseg (k : Nat) (hk : k < 16) : x.seg k = x.segs[k] := by simp [Pillar.seg, hk]
  simp only [List.all_eq_true, Vector.mem_toList_iff, Vector.mem_iff_getElem]
  constructor
  · intro h k hk hs
    have := h _ ⟨k, hk, (hseg k hk).symm⟩
    simpa [hs] using this
  · rintro h _ ⟨k, hk, rfl⟩
    rw [← hseg k hk]
    by_cases hs : (x.seg k).state = 1
    · rw [h k hk hs, Bool.and_false, Bool.not_false]
    · rw [beq_eq_false_iff_ne.mpr hs, Bool.false_and, Bool.not_false]

theorem runs_cfetch {f : Fields} {s : State} {n dst len : Nat} {b : Word} (hn : f.mod.toNat % 16 = n)
    (hb : (s.g (rrB f)).bits = b) (hdst : b.toNat % 2 ^ 19 = dst) (hlen : b.toNat / 2 ^ 32 % 512 * 1024 = len)
    (hfields : cfetchFields (s.g (rrA f)).bits b = true) (hpos : len ≠ 0) (hxb : dst + len ≤ s.me.xb)
    (hstate : (s.me.seg n).state ≠ 1)
    (hmeets : ∀ k, k < 16 → (s.me.seg k).state = 1 → (s.me.seg k).meets dst len = false) (hroom : s.canDispatch .tile = true) :
    Runs (.cfetch f) s (s.past (.cfetch f)
      ((s.dispatchAs .tile { s.capture (.cfetch f) with slot := n, aux := dst }).modMe fun x =>
        (x.dropSegs [2, 3] dst len).setSeg n { lenKb := len / 1024, baseKb := dst / 1024, state := 1 })) := by
  have hrange : (len != 0 && decide (dst + len ≤ s.me.xb)) = true := by simp [hpos, hxb]
  have hfree : ((s.me.seg n).state != 1 && s.me.segs.toList.all fun g => !(g.state == 1 && g.meets dst len)) = true := by
    rw [Bool.and_eq_true, bne_iff_ne]
    exact ⟨hstate, (Pillar.noneLoading_iff ..).mpr hmeets⟩
  refine runs_finish (exec_cfetch f s) ?_
  simp only [segmentNumber_eq, cfetchDst_eq, cfetchLen_eq, hn, hb, hdst, hlen, hfields, hrange, hfree, State.room_ok hroom,
    check_true, act_ok_bind]

theorem cwait_outcome (f : Fields) (s : State) (hd : s.destFree f.dNum) :
    ((s.me.seg (f.mod.toNat % 16)).state ≠ 1 → s.st.deliverable = none →
      Runs (.cwait f) s (s.past (.cwait f) (s.setG f.dNum { bits := (s.me.seg (f.mod.toNat % 16)).state.setWidth 64 }))) ∧
    ((s.me.seg (f.mod.toNat % 16)).state = 1 → Waits (.cwait f) s) := by
  refine ⟨fun hstate hlate => runs_finish (exec_cwait f s) ?_, fun hstate => waits_finish (exec_cwait f s) ?_⟩
  · have hnot : ((s.me.seg (f.mod.toNat % 16)).state != 1) = true := bne_iff_ne.mpr hstate
    simp only [segmentNumber_eq, State.destOk_free hd, hnot, State.noLates, hlate, waitFor_true, act_ok_bind, Option.isNone_none,
      State.setGw]
  · simp only [segmentNumber_eq, State.destOk_free hd, hstate, bne_self_eq_false, waitFor_false, act_ok_bind, act_error_bind]

/-- Settles O7: the checks of a descriptor pass, and a segment's state is awaited. -/
theorem segmentResults : Obligations.SegmentResults := by
  intro f s n va b dst len
  refine ⟨fun hva hb0 hb1 hb2 hpos hxb hstate hmeets hroom => ?_, fun hd => (cwait_outcome f s hd).1,
    fun hd => (cwait_outcome f s hd).2⟩
  exact runs_cfetch rfl rfl rfl rfl ((cfetchFields_iff va b).mpr ⟨hva, hb0, hb1, hb2⟩) hpos hxb hstate hmeets hroom

/-! ## Checks of the tag table (R146) -/

@[simp] theorem tagCheck_true (reason slot : Nat) : tagCheck true reason slot = .ok () := rfl

@[simp] theorem tagCheck_false (reason slot : Nat) : tagCheck false reason slot = .error (tagFault reason slot) := rfl

/-- A table that has a slot has slots. -/
theorem hasSlots_of_lt {count j : Nat} (h : j < count) : (count != 0) = true := bne_iff_ne.mpr (Nat.ne_zero_of_lt h)

/-- The fault of a table without slots, with the low byte of an operand as the slot. -/
theorem tagFault_noSlots (x : Nat) : tagFault 1 (x % 256) = .trap 0x16 (word (256 + x % 256)) := by
  rw [tagFault, Nat.mod_mod, Nat.one_mul]

/-- The slot that an operand names. -/
theorem slotNumber_eq (w : Word) : w.bits 7 0 = w.toNat % 256 := wordBits_low w 7

/-- The tag of an address. -/
theorem tagOf_eq (va : Word) : va.bits 63 10 = va.toNat / 1024 := wordBits_high va (by decide)

/-- The offset of an address in its block. -/
theorem blockOffset_eq (va : Word) : va.bits 9 0 = va.toNat % 1024 := wordBits_low va 9

/-- A table with no slots refuses the four instructions (R146). -/
theorem traps_noSlots {f : Fields} {s : State} (hd : s.destFree f.dNum) (h0 : s.me.tags.count = 0) :
    Traps (.tlook f) s 0x16 (word 256) ∧ Traps (.tfill f) s 0x16 (word (256 + (s.g (rrB f)).bits.toNat % 256)) ∧
      Traps (.tevict f) s 0x16 (word (256 + (s.g f.sNum).bits.toNat % 256)) ∧
      (f.mod.toNat % 2 = 0 → Traps (.tinval f) s 0x16 (word (256 + (s.g f.sNum).bits.toNat % 256))) := by
  refine ⟨traps_finish (exec_tlook f s) ?_, traps_finish (exec_tfill f s) ?_, traps_finish (exec_tevict f s) ?_,
    fun hone => traps_finish (exec_tinval f s) ?_⟩
  · simp only [State.destOk_free hd, act_ok_bind, h0, bne_self_eq_false, tagCheck_false, act_error_bind]
    rfl
  · simp only [h0, bne_self_eq_false, tagCheck_false, act_error_bind, slotNumber_eq, tagFault_noSlots]
  · simp only [State.destOk_free hd, act_ok_bind, h0, bne_self_eq_false, tagCheck_false, act_error_bind, slotNumber_eq,
      tagFault_noSlots]
  · simp [bitOf_eq, hone, h0, slotNumber_eq, tagFault_noSlots]

/-! ## TLOOK (R146) -/

theorem tlook_outcome {f : Fields} {s : State} (hd : s.destFree f.dNum) (h0 : s.me.tags.count ≠ 0) :
    let g := s.me.tags
    let a := s.g f.sNum
    (∀ n, g.find (BitVec.ofNat 54 (a.bits.toNat / 1024)) = some n →
      Runs (.tlook f) s (s.past (.tlook f)
        (((s.setG f.dNum (pword (word (g.blockAddr n + a.bits.toNat % 1024)) a.bad)).modMe fun x =>
          { x with tags := x.tags.touch n }).count 0x403))) ∧
    (g.find (BitVec.ofNat 54 (a.bits.toNat / 1024)) = none →
      Runs (.tlook f) s (s.past (.tlook f) ((s.setG f.dNum (pword g.missWord a.bad)).count 0x404))) := by
  intro g a
  have hslots : (s.me.tags.count != 0) = true := bne_iff_ne.mpr h0
  refine ⟨fun n hfind => runs_finish (exec_tlook f s) ?_, fun hfind => runs_finish (exec_tlook f s) ?_⟩
  all_goals
    simp only [g, a] at hfind
    simp only [State.destOk_free hd, act_ok_bind, hslots, tagCheck_true, tagOf_eq, blockOffset_eq, hfind, g, a]

/-! ## TFILL (R146) -/

theorem runs_tfill {f : Fields} {s : State} {k : Nat} {va : Word} (hk : (s.g (rrB f)).bits.toNat % 256 = k)
    (hva : (s.g (rrA f)).bits = va) (hlt : k < s.me.tags.count) (ha : va.toNat % 1024 = 0)
    (hstate : (s.me.tags.slot k).state ≠ 1)
    (hfind : ∀ n, s.me.tags.find (BitVec.ofNat 54 (va.toNat / 1024)) = some n → n = k) (hroom : s.canDispatch .tile = true) :
    Runs (.tfill f) s (s.past (.tfill f)
      ((s.dispatchAs .tile { s.capture (.tfill f) with slot := k, aux := s.me.tags.blockAddr k }).modMe fun x =>
        { x.setEmpty (s.me.tags.blockAddr k / 8) true 128 with
          tags := (x.tags.setSlot k { tag := BitVec.ofNat 54 (va.toNat / 1024), state := 1 }).touch k })) := by
  have hslots : (s.me.tags.count != 0) = true := hasSlots_of_lt hlt
  have haligned : (va.toNat % 1024 == 0) = true := beq_iff_eq.mpr ha
  have hfree : ((s.me.tags.slot k).state != 1) = true := bne_iff_ne.mpr hstate
  refine runs_finish (exec_tfill f s) ?_
  simp only [slotNumber_eq, tagOf_eq, blockOffset_eq, hk, hva, hslots, decide_eq_true hlt, haligned, hfree, tagCheck_true,
    State.room_ok hroom, act_ok_bind]
  cases h : s.me.tags.find (BitVec.ofNat 54 (va.toNat / 1024)) with
  | none => rfl
  | some n =>
    rw [hfind n h]
    simp only [beq_self_eq_true, tagCheck_true, act_ok_bind]

/-! ## TEVICT and TINVAL (R146) -/

section
variable {f : Fields} {s : State} {j : Nat} (hj : (s.g f.sNum).bits.toNat % 256 = j) (hlt : j < s.me.tags.count)
  (hstate : (s.me.tags.slot j).state ≠ 1)
include hj hlt hstate

/-- A slot that is not being filled becomes invalid, a valid and dirty one after its block has joined the write-backs. -/
theorem runs_tevict (hd : s.destFree f.dNum) :
    Runs (.tevict f) s (s.past (.tevict f)
      (if (s.me.tags.slot j).state = 2 ∧ (s.me.tags.slot j).dirty = true then
        (((((s.setG f.dNum (pword 1 (s.g f.sNum).bad)).modMe fun x =>
          { x with tile := { x.tile with writeBacks := x.tile.writeBacks ++ [s.writeBack j] } }).modSt fun r =>
            { r with worms := r.worms + 1 }).modMe fun x => { x with tags := x.tags.setSlot j {} }).issueAfter 16).count 0x405
      else (s.setG f.dNum (pword 0 (s.g f.sNum).bad)).modMe fun x => { x with tags := x.tags.setSlot j {} })) := by
  have hslots : (s.me.tags.count != 0) = true := hasSlots_of_lt hlt
  have hfree : ((s.me.tags.slot j).state != 1) = true := bne_iff_ne.mpr hstate
  refine runs_finish (exec_tevict f s) ?_
  simp only [slotNumber_eq, hj, State.destOk_free hd, hslots, decide_eq_true hlt, hfree, tagCheck_true, waitFor_true, act_ok_bind,
    Bool.and_eq_true, beq_iff_eq]
  split <;> rfl

theorem runs_tinval (hone : f.mod.toNat % 2 = 0) :
    Runs (.tinval f) s (s.past (.tinval f) (s.modMe fun x => { x with tags := x.tags.setSlot j {} })) := by
  have hslots : (s.me.tags.count != 0) = true := hasSlots_of_lt hlt
  have hfree : ((s.me.tags.slot j).state != 1) = true := bne_iff_ne.mpr hstate
  have hall : bitOf f.mod.toNat 0 = false := by simp [bitOf_eq, hone]
  refine runs_finish (exec_tinval f s) ?_
  simp only [hall, Bool.false_eq_true, if_false, slotNumber_eq, hj, hslots, decide_eq_true hlt, hfree, tagCheck_true,
    waitFor_true, act_ok_bind]

end

theorem runs_tinval_all {f : Fields} {s : State} (hall : f.mod.toNat % 2 = 1)
    (hstate : ∀ e ∈ s.me.tags.slots.entries, e.2.state ≠ 1) :
    Runs (.tinval f) s (s.past (.tinval f) (s.modMe fun x => { x with tags := { x.tags with slots := {} } })) := by
  have hbit : bitOf f.mod.toNat 0 = true := by simp [bitOf_eq, hall]
  have hfree : (s.me.tags.slots.entries.all fun e => e.2.state != 1) = true :=
    List.all_eq_true.mpr fun e he => bne_iff_ne.mpr (hstate e he)
  refine runs_finish (exec_tinval f s) ?_
  simp only [hbit, if_true, hfree, waitFor_true, act_ok_bind]

/-- Settles O8: each instruction's checks pass or fail by the slot, and what it leaves of the slot. -/
theorem tagTableResults : Obligations.TagTableResults := by
  intro f s hd g va j a k base
  refine ⟨traps_noSlots hd, fun n h0 => (tlook_outcome hd h0).1 n, fun h0 => (tlook_outcome hd h0).2,
    fun hlt ha hstate hfind hroom => runs_tfill rfl rfl hlt ha hstate hfind hroom, fun hlt hstate hclean => ?_,
    fun hlt hvalid hdirty => ?_, fun hone hlt hstate => runs_tinval rfl hlt hstate hone, runs_tinval_all⟩
  · have h := runs_tevict rfl hlt hstate hd
    rwa [if_neg hclean] at h
  · have hstate : (g.slot j).state ≠ 1 := by
      rw [hvalid]
      decide
    have h := runs_tevict rfl hlt hstate hd
    rwa [if_pos ⟨hvalid, hdirty⟩] at h

end Sys2Proof.Machine
end

section
/-! PROOFS. The ends of code fetches, fills and write-backs. -/

set_option Elab.async false

namespace Sys2Proof.Machine

/-! ## Fetches of the tile pipe (R132, R146) -/

/-- The instruction is a CFETCH. -/
def isCfetch : Instr → Bool
  | .cfetch _ => true
  | _ => false

/-- The instruction is a TFILL. -/
def isTfill : Instr → Bool
  | .tfill _ => true
  | _ => false

/-- A fetch that is found has the slot that was asked for. -/
theorem TilePipe.slot_of_fetch {u : TilePipe} {q : Instr → Bool} {n : Nat} {o : TileOp} (h : u.fetch q n = some o) :
    o.d.slot = n := by
  have := List.find?_some h
  simp only [Bool.and_eq_true, beq_iff_eq] at this
  exact this.2

/-- The segment of a CFETCH that ends takes its state (R132). -/
theorem Pillar.settleFetch_cfetch (x : Pillar) {o : TileOp} {f : Fields} (h : o.d.instr = .cfetch f) (st : BitVec 2) :
    x.settleFetch o st = (x.dropFetch o).setSeg o.d.slot { x.seg o.d.slot with state := st } := by
  rw [Pillar.settleFetch, h]
  rfl

/-- The slot of a TFILL that ends takes its state if it still waits for the block (R146). -/
theorem Pillar.slot_settleFetch_tfill (x : Pillar) {o : TileOp} {f : Fields} (h : o.d.instr = .tfill f) (st : BitVec 2)
    (hfilling : (x.tags.slot o.d.slot).state = 1) :
    (x.settleFetch o st).tags.slot o.d.slot = { x.tags.slot o.d.slot with state := st } := by
  have hf : (((x.dropFetch o).tags.slot o.d.slot).state == 1) = true := beq_iff_eq.mpr hfilling
  rw [Pillar.settleFetch, h]
  simp only [hf, if_true]
  exact NatMap.getD_set_same ..

/-- The words of a block change nothing of the tag table. -/
theorem Pillar.tags_fillBlock (x : Pillar) (a : Nat) (m : Memory) (bad : NatSet) : (x.fillBlock a m bad).tags = x.tags := by
  refine List.foldlRecOn (motive := fun y : Pillar => y.tags = x.tags) _ _ rfl fun y hy i _ => ?_
  rw [← hy, Pillar.fillWord]
  split <;> rfl

@[simp] theorem Pillar.endSeq_tags (x : Pillar) (seq : BitVec 16) : (x.endSeq seq).tags = x.tags := by
  obtain ⟨r, h⟩ := x.endSeq_eq seq
  rw [h]

/-! ## SEGMENT_LAND (R132, R397) -/

section
variable {p : PillarId} {s : State} {o : TileOp} {f : Fields}

/-- The address of a fetch as its dispatch captured it. -/
def TileOp.source (o : TileOp) (f : Fields) : PWord := if f.reg.isSome then o.d.gs else o.d.gd

/-- The copy of a CFETCH from the bytes of its segment. -/
def State.copySegment (s : State) (p : PillarId) (o : TileOp) (f : Fields) (n : Nat) : State × Option Stop :=
  let w := s.opWalker p o.d (matched := o.matched.isSome)
  let len := ((s.pil p).seg n).lenKb * 1024
  State.copyIn w (o.source f).bad len (s.noteBulk w .tile (o.source f).bits) (o.source f).bits o.d.aux len

/-- What a CFETCH leaves when its copy of some bytes has ended, and when it stopped (R132, R352). -/
def State.segmentEnd (s : State) (p : PillarId) (o : TileOp) (len : Nat) : State × Option Stop → State
  | (s', none) => s'.modPil p fun x => ((x.settleFetch o 2).count 0x402 len).endSeq o.d.seq
  | (s', some e) => (s.holdOff e).getD
      ((s'.modPil p fun x => x.settleFetch o 3).raiseStop p o.d.strand o.d.seq o.d.lvl e (tile := true))

/-- A CFETCH that nothing holds back copies its bytes, and ends as the copy did. -/
theorem exec_segmentLand_goes {n : BitVec 4} (ho : (s.pil p).tile.fetch isCfetch n.toNat = some o)
    (hi : o.d.instr = .cfetch f) (hw : s.wormHeld p o.d.strand = false) (hh : s.fetchHeld p o (o.source f).bits = false) :
    exec (.segmentLand p n) s =
      .next (s.segmentEnd p o (((s.pil p).seg n.toNat).lenKb * 1024) (s.copySegment p o f n.toNat)) := by
  rw [exec_segmentLand, execSegmentLand]
  split
  · next h => cases h.symm.trans ho
  · next o' h =>
    obtain rfl : o' = o := Option.some.inj (h.symm.trans ho)
    unfold TileOp.source at hh
    simp only [hi, hw, hh, Bool.false_eq_true, if_false, State.copySegment, TileOp.source]
    split <;> simp only [*, State.segmentEnd]

/-- A TFILL that nothing holds back writes the block that arrives and settles its slot. -/
theorem runs_tagFillComplete {j : BitVec 8} {s' : State} {m : Memory} {bad : NatSet}
    (ho : (s.pil p).tile.fetch isTfill j.toNat = some o)
    (hi : o.d.instr = .tfill f) (hw : s.wormHeld p o.d.strand = false) (hh : s.fetchHeld p o (o.source f).bits = false)
    (hr : s.readBytes (s.opWalker p o.d (matched := o.matched.isSome)) .tile (o.source f).bits 1024 = .ok (s', m, bad)) :
    Runs (.tagFillComplete p j) s (s'.modPil p fun x =>
      ((x.fillBlock o.d.aux m (if (o.source f).bad then NatSet.putRange {} 0 true 1024 else bad)).settleFetch o 2).endSeq
        o.d.seq) := by
  unfold TileOp.source at hh hr ⊢
  rw [Runs, exec_tagFillComplete, execTagFillComplete]
  split
  · next h => cases h.symm.trans ho
  · next o' h =>
    obtain rfl : o' = o := Option.some.inj (h.symm.trans ho)
    simp only [hi, hw, hh, hr, Bool.false_eq_true, if_false]

end

/-- The slot of a fill that has ended is valid, if it waited for the block. -/
theorem slot_tagFilled {p : PillarId} {s : State} {o : TileOp} {f : Fields} (hi : o.d.instr = .tfill f) (m : Memory)
    (bad : NatSet) (h : ((s.pil p).tags.slot o.d.slot).state = 1) :
    ((s.modPil p fun x => ((x.fillBlock o.d.aux m bad).settleFetch o 2).endSeq o.d.seq).pil p).tags.slot o.d.slot =
      { (s.pil p).tags.slot o.d.slot with state := 2 } := by
  have ht := (s.pil p).tags_fillBlock o.d.aux m bad
  rw [State.pil_modPil, Pillar.endSeq_tags, Pillar.slot_settleFetch_tfill _ hi _ (by rw [ht]; exact h), ht]

/-! ## TEVICT_WRITEBACK_DONE (R146, R397) -/

/-- The oldest write-back leaves its queue. -/
def State.dropWriteBack (s : State) (p : PillarId) (bs : List WriteBack) : State :=
  s.modPil p fun x => { x with tile := { x.tile with writeBacks := bs } }

/-- The write of a block that TEVICT wrote back. -/
def State.performWriteBack (s : State) (p : PillarId) (b : WriteBack) : Act (State × NatMap Nat) :=
  s.writeBytes { s.engineWalker p b.lvl true with discard := !b.matched && s.discards p b.strand } b.va 1024 b.block b.badBytes 0 {}

/-- What a write-back leaves when its write has been performed, and when it stopped (R146, R352). -/
def State.writeBackEnd (s : State) (p : PillarId) (b : WriteBack) (bs : List WriteBack) : Act (State × NatMap Nat) → State
  | .ok (s', _) => s'.dropWriteBack p bs
  | .error e => (s.holdOff e).getD ((s.dropWriteBack p bs).raiseUnringed p b.strand b.seq b.lvl e (tile := true))

/-- A write-back that nothing holds back is performed, and ends as its write did. -/
theorem exec_writeBackDone_goes {p : PillarId} {s : State} {b : WriteBack} {bs : List WriteBack}
    (hb : (s.pil p).tile.writeBacks = b :: bs) (hw : s.wormHeld p b.strand = false) (hh : s.writeBackHeld p b = false) :
    exec (.tevictWritebackDone p) s = .next (s.writeBackEnd p b bs (s.performWriteBack p b)) := by
  rw [exec_tevictWritebackDone, execTevictWritebackDone]
  simp only [hb, hw, hh, Bool.false_eq_true, if_false, State.performWriteBack]
  split <;> simp only [*, State.writeBackEnd, State.dropWriteBack]

/-- Settles O22: each transfer that nothing holds back ends by what its bytes did, and settles its segment, slot or queue. -/
theorem fetchAndFillEvents : Obligations.FetchAndFillEvents := by
  intro p s o x w reg va goes settle
  refine ⟨?segment, ?fill, ?writeBack⟩
  case segment =>
    rintro n f ho hi ⟨hw, hh⟩ len copied
    have hslot : o.d.slot = n.toNat := TilePipe.slot_of_fetch ho
    have hexec : exec (.segmentLand p n) s = .next (s.segmentEnd p o len copied) := exec_segmentLand_goes ho hi hw hh
    have hsettle (st : BitVec 2) : (fun x : Pillar => x.settleFetch o st) = settle n.toNat st := by
      funext x
      rw [Pillar.settleFetch_cfetch x hi, hslot]
    refine ⟨fun s' h => ?_, fun s' e hoff h => ?_⟩
    · rw [Runs, hexec, h, ← hsettle]
      rfl
    · rw [Runs, hexec, h, ← hsettle, State.segmentEnd, hoff]
      rfl
  case fill =>
    rintro j f s' m bad ho hi ⟨hw, hh⟩ hr
    have hslot : o.d.slot = j.toNat := TilePipe.slot_of_fetch ho
    refine ⟨_, runs_tagFillComplete ho hi hw hh hr, fun y hy hfilling => ?_⟩
    subst hy
    rw [← hslot] at hfilling ⊢
    exact slot_tagFilled hi m _ hfilling
  case writeBack =>
    intro b bs hb hw hh drop w r
    have hexec : exec (.tevictWritebackDone p) s = .next (s.writeBackEnd p b bs r) := exec_writeBackDone_goes hb hw hh
    refine ⟨fun s' m h => ?_, fun e hoff h => ?_⟩
    · rw [Runs, hexec, h]
      rfl
    · rw [Runs, hexec, h, State.writeBackEnd, hoff]
      rfl

end Sys2Proof.Machine
end

section
/-! PROOFS. The events of runners, of parked fibres and of steal rounds (R153, R154, R157-R159). -/

set_option Elab.async false

namespace Sys2Proof.Machine

/-! ## The registers that a fibre and its runner share (R153, R154) -/

/-- g1 to gn of a file into which the first n of eight values have been put. -/
theorem getElem?_foldl_g18 (v : Vector PWord 8) (g : Vector PWord 64) {k : Nat} (hk : k < 8) (n : Nat) :
    ((List.range n).foldl (fun (g : Vector PWord 64) i => g.setIfInBounds (i + 1) (v[i]?.getD {})) g)[k + 1]? =
      if k < n then some v[k] else g[k + 1]? := by
  induction n with
  | zero => rfl
  | succ n ih =>
    rw [List.range_succ, List.foldl_append, List.foldl_cons, List.foldl_nil, Vector.getElem?_setIfInBounds, ih]
    by_cases h : n = k
    · subst h
      simp [hk, show n < 63 by omega]
    · rw [if_neg (by omega)]
      exact if_congr (by omega) rfl rfl

/-- Each of g1 to g8 after all of them have been written. -/
theorem Strand.reg_setG18 (r : Strand) (v : Vector PWord 8) (k : Fin 8) : (r.setG18 v).reg (k.val + 1) = v[k] := by
  rw [Strand.reg, if_neg k.val.succ_ne_zero, Strand.setG18, getElem?_foldl_g18 v r.g k.isLt 8, if_pos k.isLt]
  rfl

/-- An update of the current strand is decided by what it makes of it. -/
theorem State.modSt_congr {s : State} {f f' : Strand → Strand} (h : f s.st = f' s.st) : s.modSt f = s.modSt f' := by
  have hme : s.me.modStrand s.curT f = s.me.modStrand s.curT f' := congrArg (s.me.setStrand s.curT) h
  exact congrArg (s.setPil s.curP) hme

/-! ## A runner that returns, loads a fibre, or backs off (R153, R154) -/

/-- FRUN that returns a code leaves the mode, with the strand's own g1 to g8 and the code in its destination. -/
theorem runReturns_endRunCode {r : Strand} {m : FibreMode} {ms : List FibreMode} (h : r.modes = m :: ms) (code : Nat) :
    Claims.runReturns (r.endRunCode code) m ms code := by
  have hend : r.endRun (word code) =
      (Strand.setG18 { r.unblock with modes := ms, pc := m.ret } m.saved).setReg m.dest { bits := word code } := by
    simp only [Strand.endRun, h]
  have hreg (n : Nat) : (r.endRunCode code).reg n = (r.endRun (word code)).reg n := rfl
  refine ⟨?_, ?_, fun h0 h64 => ?_, fun k hk => ?_⟩
  · rw [Strand.endRunCode, hend, Strand.setReg_modes]
    rfl
  · rw [Strand.endRunCode, hend, Strand.setReg_pc]
    rfl
  · rw [hreg, hend, Strand.reg_setReg _ _ _ _ h64, if_pos ⟨rfl, h0⟩]
  · rw [hreg, hend, Strand.reg_setReg_other _ _ hk, Strand.reg_setG18]

theorem Strand.backOff_eq {r : Strand} {m : FibreMode} {ms : List FibreMode} (h : r.modes = m :: ms) (n : Nat) :
    r.backOff n = { r with modes := { m with backoff := n } :: ms } := by
  simp only [Strand.backOff, h]

/-- A turn of FRUN's loop that has found no fibre: code 0, or a wait for BACKOFF clk. -/
theorem runnerIdle_outcome {p : PillarId} {u : StrandId} {s : State} {m : FibreMode} {ms : List FibreMode}
    (hm : ((s.pil p).strand u).modes = m :: ms) :
    SameBytes s (s.runnerIdle p u) ∧
      ((s.pil p).quiescent = true → Claims.runReturns (((s.runnerIdle p u).pil p).strand u) m ms 0) ∧
      ((s.pil p).quiescent = false → (((s.runnerIdle p u).pil p).strand u).pc = ((s.pil p).strand u).pc ∧
        (((s.runnerIdle p u).pil p).strand u).modes = { m with backoff := s.aclk p + (s.pil p).stealBackoff } :: ms) := by
  have hst : ((s.runnerIdle p u).pil p).strand u = if (s.pil p).quiescent then ((s.pil p).strand u).endRunCode 0
      else ((s.pil p).strand u).backOff (s.aclk p + (s.pil p).stealBackoff) := by
    rw [State.runnerIdle, State.modStrand, State.pil_modPil, Pillar.strand_modStrand]
  refine ⟨sameBytes_modPil s p fun _ => rfl, fun hq => ?_, fun hq => ?_⟩
  · rw [hst, if_pos hq]
    exact runReturns_endRunCode hm 0
  · rw [hst, if_neg (by rw [hq]; decide), Strand.backOff_eq hm]
    exact ⟨rfl, rfl⟩

/-- A runner with the fibre of slot j in its registers, from a clk on (R154, R160). -/
def Strand.withFibre (r : Strand) (y : FibreSlot) (j : Nat) (m : FibreMode) (ms : List FibreMode) (clk : Nat) : Strand :=
  { r.setG18 y.regs with
    modes := { m with slot := some (BitVec.ofNat 8 j), backoff := 0 } :: ms, pc := y.pc, notBefore := clk
    fbcur := BitVec.ofNat 9 (256 + j) }

theorem Strand.reg_withFibre (r : Strand) (y : FibreSlot) (j : Nat) (m : FibreMode) (ms : List FibreMode) (clk : Nat)
    (k : Fin 8) : (r.withFibre y j m ms clk).reg (k.val + 1) = y.regs[k] := by
  have h : (r.withFibre y j m ms clk).g = (r.setG18 y.regs).g := by rw [Strand.withFibre]
  rw [Strand.reg_congr h, Strand.reg_setG18]

/-- The current strand has the fibre of a slot loaded, and has not taken the fault of a failed access of it. -/
def State.fibreLoaded (s : State) (j : Nat) (m : FibreMode) (ms : List FibreMode) : State :=
  (s.modMe fun x => { x.modFibre j fun y => { y with state := .running, fault := none } with
    runQueue := x.runQueue.filter (· != j) }).modSt fun r => r.withFibre (s.me.fibre j) j m ms (s.aclk s.curP + 7)

section
variable {s : State} {j : Nat} {m : FibreMode} {ms : List FibreMode}

/-- A fibre with a fault takes it as soon as it has been loaded. -/
theorem State.loadFibre_eq (hm : s.st.modes = m :: ms) : s.loadFibre j = (s.me.fibre j).fault.elim (s.fibreLoaded j m ms)
    fun e => (s.fibreLoaded j m ms).takeTrap { cause := e.1, tval := e.2 } := by
  unfold State.loadFibre
  extract_lets y s1 s2
  have hst : s1.st = s.st := s.st_modMe _ fun _ => rfl
  have hs2 : s2 = s.fibreLoaded j m ms := State.modSt_congr (by simp only [hst, hm]; rfl)
  rw [hs2]
  cases y.fault <;> rfl

theorem State.me_fibreLoaded : (s.fibreLoaded j m ms).me.fibre j = { s.me.fibre j with state := .running, fault := none } ∧
    (s.fibreLoaded j m ms).me.runQueue = s.me.runQueue.filter (· != j) := by
  rw [State.fibreLoaded, State.me_modSt, State.me_modMe]
  exact ⟨NatMap.getD_set_same .., rfl⟩

theorem State.st_fibreLoaded : (s.fibreLoaded j m ms).st.pc = (s.me.fibre j).pc ∧
    (∀ k : Fin 8, (s.fibreLoaded j m ms).st.reg (k.val + 1) = (s.me.fibre j).regs[k]) ∧
    (s.fibreLoaded j m ms).st.modes = { m with slot := some (BitVec.ofNat 8 j), backoff := 0 } :: ms := by
  rw [State.fibreLoaded, State.st_modSt]
  exact ⟨rfl, fun k => Strand.reg_withFibre _ _ j m ms _ k, rfl⟩

theorem sameBytes_fibreLoaded : SameBytes s (s.fibreLoaded j m ms) := by
  refine SameBytes.trans ?_ (sameBytes_modSt _ _)
  exact sameBytes_modPil s s.curP fun _ => rfl

end

/-! ## One turn of a runner (R153) -/

section
variable {p : PillarId} {u : StrandId} {s : State} {m : FibreMode} {ms : List FibreMode}

theorem runs_runner_unready (h : s.runnerReady p u = false) : Runs (.runnerLoadFibre p u) s s := by
  rw [Runs, exec_runnerLoadFibre, execRunnerLoadFibre, h]
  rfl

theorem runnerReady_of_not_waiting (h : ((s.pil p).strand u).run ≠ .running ∨ ((s.pil p).strand u).modes = [] ∨
    ∃ m ms, ((s.pil p).strand u).modes = m :: ms ∧ m.slot ≠ none) : s.runnerReady p u = false := by
  have hw : ((s.pil p).strand u).waitingRunner = false := by
    unfold Strand.waitingRunner
    rcases h with h | h | ⟨m, ms, h, hslot⟩
    · rw [beq_eq_false_iff_ne.mpr h, Bool.false_and]
    · rw [h, Bool.and_false]
    · obtain ⟨j, hj⟩ := Option.ne_none_iff_exists'.mp hslot
      simp [h, hj]
  simp only [State.runnerReady, hw, Bool.false_and]

variable (hrun : ((s.pil p).strand u).run = .running) (hm : ((s.pil p).strand u).modes = m :: ms) (hslot : m.slot = none)
include hrun hm hslot

/-- What a runner without a fibre may have to do. -/
theorem runnerReady_eq : s.runnerReady p u = (((s.pil p).strand u).stopReq || !(s.pil p).runQueue.isEmpty || m.once ||
    (m.backoff == 0 && !s.canSteal p u)) := by
  simp [State.runnerReady, Strand.waitingRunner, Strand.backingOff, hrun, hm, hslot, bne]

theorem runner_stopped (hs : ((s.pil p).strand u).stopReq = true) : ∃ t, Runs (.runnerLoadFibre p u) s t ∧
    Claims.runReturns ((t.pil p).strand u) m ms 2 ∧ ((t.pil p).strand u).stopReq = false := by
  have hready : s.runnerReady p u = true := by rw [runnerReady_eq hrun hm hslot, hs]; rfl
  have hst (f : Strand → Strand) : (((s.focus p u).modSt f).pil p).strand u = f ((s.pil p).strand u) := State.st_modSt _ f
  refine ⟨(s.focus p u).modSt fun r => { r.endRunCode 2 with stopReq := false }, ?_, ?_, ?_⟩
  · rw [Runs, exec_runnerLoadFibre, execRunnerLoadFibre, hready]
    exact if_pos hs
  · rw [hst]
    exact runReturns_endRunCode hm 2
  · rw [hst]

theorem runs_runner_load (hs : ((s.pil p).strand u).stopReq = false) {j : Nat} {q : List Nat} (hq : (s.pil p).runQueue = j :: q) :
    Runs (.runnerLoadFibre p u) s ((s.focus p u).loadFibre j) := by
  have hready : s.runnerReady p u = true := by rw [runnerReady_eq hrun hm hslot, hs, hq]; rfl
  have hs' : ((s.focus p u).me.strand u).stopReq = false := hs
  have hq' : (s.focus p u).me.runQueue = j :: q := hq
  rw [Runs, exec_runnerLoadFibre, execRunnerLoadFibre, hready]
  simp only [Bool.not_true, Bool.false_eq_true, if_false, hs', hq']

/-- A runner with a ready fibre loads it, or takes its fault. -/
theorem runner_loads (hs : ((s.pil p).strand u).stopReq = false) {j : Nat} {q : List Nat}
    (hq : (s.pil p).runQueue = j :: q) :
    let t := (s.focus p u).fibreLoaded j m ms
    (((s.pil p).fibre j).fault = none → Runs (.runnerLoadFibre p u) s t) ∧
    ∀ c v, ((s.pil p).fibre j).fault = some (c, v) →
      Runs (.runnerLoadFibre p u) s (t.takeTrap { cause := c, tval := v }) := by
  have hload := runs_runner_load hrun hm hslot hs hq
  rw [State.loadFibre_eq (s := s.focus p u) hm] at hload
  refine ⟨fun hf => ?_, fun c v hf => ?_⟩
  · rwa [show ((s.focus p u).me.fibre j).fault = none from hf] at hload
  · rwa [show ((s.focus p u).me.fibre j).fault = some (c, v) from hf] at hload

variable (hs : ((s.pil p).strand u).stopReq = false) (hq : (s.pil p).runQueue = [])
include hs hq

omit hrun hslot in
/-- With nothing ready and no stop asked for, `.once` alone decides what a turn that is due does. -/
theorem execRunnerLoadFibre_empty (hready : s.runnerReady p u = true) : exec (.runnerLoadFibre p u) s =
    if m.once then .next ((s.focus p u).modSt fun r => r.endRunCode 1) else .next ((s.focus p u).runnerIdle p u) := by
  have hs' : ((s.focus p u).me.strand u).stopReq = false := hs
  have hq' : (s.focus p u).me.runQueue = [] := hq
  have hm' : ((s.focus p u).me.strand u).modes = m :: ms := hm
  rw [exec_runnerLoadFibre, execRunnerLoadFibre, hready]
  simp only [Bool.not_true, Bool.false_eq_true, if_false, hs', hq', hm', List.head?_cons, Option.map_some]
  cases m.once <;> rfl

theorem runner_once (ho : m.once = true) : ∃ t, Runs (.runnerLoadFibre p u) s t ∧
    Claims.runReturns ((t.pil p).strand u) m ms 1 := by
  have hready : s.runnerReady p u = true := by rw [runnerReady_eq hrun hm hslot, ho, Bool.or_true, Bool.true_or]
  refine ⟨_, (execRunnerLoadFibre_empty hm hs hq hready).trans (if_pos ho), ?_⟩
  rw [show ((((s.focus p u).modSt fun r => r.endRunCode 1).pil p).strand u) = _ from State.st_modSt _ _]
  exact runReturns_endRunCode hm 1

theorem runs_runner_idle (ho : m.once = false) (hb : m.backoff = 0) (hc : s.canSteal p u = false) :
    Runs (.runnerLoadFibre p u) s ((s.focus p u).runnerIdle p u) := by
  have hready : s.runnerReady p u = true := by rw [runnerReady_eq hrun hm hslot, hb, hc, Bool.or_eq_true]; exact .inr rfl
  exact (execRunnerLoadFibre_empty hm hs hq hready).trans (if_neg (by rw [ho]; decide))

/-- While it backs off, or may steal, a runner has no turn. -/
theorem runs_runner_waits (ho : m.once = false) (h : m.backoff ≠ 0 ∨ s.canSteal p u = true) :
    Runs (.runnerLoadFibre p u) s s := by
  refine runs_runner_unready ?_
  rw [runnerReady_eq hrun hm hslot, hs, hq, ho]
  rcases h with hb | hc
  · simp [hb]
  · simp [hc]

end

/-! ## Wakes (R157, R158) -/

/-- What a parked fibre waits for has come. -/
def State.comes (s : State) (p : PillarId) : Parking → Bool
  | .load _ _ | .ack | .failed _ _ => true
  | .remote _ pa _ _ _ _ t _ => s.remoteReady p t pa
  | .queued _ pa _ _ _ _ => s.peerRoom pa
  | .word ea _ _ _ => (s.pil p).isFull ea.toNat
  | .procedures t limit _ => (s.pil p).outstandingOf t ≤ limit && ((s.pil p).strand t).lates.isEmpty
  | _ => false

/-- The state after that has come for the fibre of a slot. -/
def State.cameFor (s : State) (p : PillarId) (j : Nat) : Parking → State
  | .load d v => s.setPil p ((s.pil p).wake j fun y => y.setReg d v)
  | .ack => s.setPil p ((s.pil p).wake j id)
  | .failed c v => s.setPil p ((s.pil p).wake j fun y => { y with fault := some (c, v) })
  | .remote i pa _ va a b t n => s.wakeRemote p j i pa va a b t n
  | .queued i pa va a b t => s.sendParked p j i pa va a b t
  | .word ea d take next =>
    s.setPil p (((s.pil p).takeWord ea.toNat take).1.wake j fun y =>
      { y.setReg d ((s.pil p).takeWord ea.toNat take).2 with pc := next })
  | .procedures t _ d => s.setPil p ((s.pil p).wake j fun y => y.setReg d { bits := word ((s.pil p).outstandingOf t) })
  | _ => s

section
variable {p : PillarId} {j : BitVec 8} {s : State} {k : Parking}

theorem runs_fibreWake_unready (h : s.wakeReady p j.toNat = false) : Runs (.fibreWake p j) s s := by
  rw [Runs, exec_fibreWake, execFibreWake, h]
  rfl

/-- A slot without a parked fibre has nothing to wake. -/
theorem runs_fibreWake_awake (hs : ((s.pil p).fibre j.toNat).state ≠ .parked) : Runs (.fibreWake p j) s s :=
  runs_fibreWake_unready (by simp only [State.wakeReady, beq_eq_false_iff_ne.mpr hs, Bool.false_and])

variable (hs : ((s.pil p).fibre j.toNat).state = .parked) (hk : ((s.pil p).fibre j.toNat).parking = k)
include hs hk

theorem wakeReady_parked : s.wakeReady p j.toNat = s.comes p k := by
  simp only [State.wakeReady, hs, hk]
  cases k <;> rfl

theorem runs_fibreWake_asleep (h : s.comes p k = false) : Runs (.fibreWake p j) s s :=
  runs_fibreWake_unready ((wakeReady_parked hs hk).trans h)

theorem runs_fibreWake_due (h : s.comes p k = true) : Runs (.fibreWake p j) s (s.cameFor p j.toNat k) := by
  rw [Runs, exec_fibreWake, execFibreWake, (wakeReady_parked hs hk).trans h]
  simp only [Bool.not_true, Bool.false_eq_true, if_false, hk]
  cases k <;> rfl

end

/-- LLDE and LLDF change no slot. -/
theorem Pillar.takeWord_fibres (x : Pillar) (ea : Nat) (take : Bool) : (x.takeWord ea take).1.fibres = x.fibres := by
  cases take <;> rfl

section
variable {p : PillarId} {j : Nat} {s : State} {i : Instr} {o : MemOp} {pa : Nat} {va : Word} {a b : PWord} {w : StrandId}
  {n : Nat} (ho : memOpOf i = some o) (hout : (s.focus p w).outgoing p (placeOf pa) = false)
include ho hout

/-- A parked access that is not compared with a twin's and no longer reaches its place wakes its fibre with the fault. -/
theorem State.wakeRemote_lost {c : BitVec 8} {v : Word} (h : (s.focus p w).reach p pa va = .error (.trap c v)) :
    s.wakeRemote p j i pa va a b w n =
      (s.focus p w).modPil p fun z => z.wake j fun y => { y with fault := some (c, v) } := by
  simp only [State.wakeRemote, ho, hout, h, Bool.false_eq_true, if_false]

/-- One that reaches it is performed, and wakes its fibre with its value. -/
theorem State.wakeRemote_performed {pa' : Nat} (h : (s.focus p w).reach p pa va = .ok pa') :
    s.wakeRemote p j i pa va a b w n =
      ((s.focus p w).performRemote p false o pa' a b).1.modPil p fun z =>
        z.wake j (FibreSlot.returned i o ((s.focus p w).performRemote p false o pa' a b).2) := by
  simp only [State.wakeRemote, ho, hout, h, Bool.false_eq_true, if_false]

end

/-- The note of a write that leaves the package takes an egress number of the pillar, and no time. -/
theorem State.noteEgress_frame (s : State) (p : PillarId) (o : MemOp) (pa : Nat) :
    (s.noteEgress p o pa).aclk p = s.aclk p ∧ ∃ e, (s.noteEgress p o pa).pil p = { s.pil p with egress := e } := by
  have hlog (kind len : Nat) (dest : Word) : (s.logEgress p kind len dest).aclk p = s.aclk p ∧
      ∃ e, (s.logEgress p kind len dest).pil p = { s.pil p with egress := e } := by
    obtain ⟨mem, bad, h⟩ : ∃ mem bad, s.logEgress p kind len dest =
        State.modPil { s with mem := mem, memBad := bad } p fun x => { x with egress := x.egress + 1 } := ⟨_, _, rfl⟩
    rw [h]
    exact ⟨rfl, (s.pil p).egress + 1, State.pil_modPil ..⟩
  have hsame : s.aclk p = s.aclk p ∧ ∃ e, s.pil p = { s.pil p with egress := e } := ⟨rfl, (s.pil p).egress, rfl⟩
  unfold State.noteEgress
  split
  · split
    · exact hlog ..
    · exact hlog ..
    · exact hsame
  · exact hsame

/-- The access of a parked fibre that leaves for its peer stands in the slot with the clk (R157, R421). -/
theorem State.pil_sendParked (s : State) (p : PillarId) (j : Nat) (i : Instr) (pa : Nat) (va : Word) (a b : PWord)
    (w : StrandId) : ((s.sendParked p j i pa va a b w).pil p).runQueue = (s.pil p).runQueue ∧
      ((s.sendParked p j i pa va a b w).pil p).fibre j =
        { (s.pil p).fibre j with parking := .remote i pa (s.aclk p) va a b w 0 } := by
  obtain ⟨t, ⟨hclk, e, hpil⟩, ht⟩ :
      ∃ t : State, (t.aclk p = s.aclk p ∧ ∃ e, t.pil p = { s.pil p with egress := e }) ∧ s.sendParked p j i pa va a b w =
        t.modPil p fun z => z.modFibre j fun y => { y with parking := .remote i pa (t.aclk p) va a b w 0 } := by
    rw [State.sendParked]
    cases memOpOf i with
    | none => exact ⟨s, ⟨rfl, _, rfl⟩, rfl⟩
    | some o => exact ⟨_, s.noteEgress_frame p o pa, rfl⟩
  rw [ht, State.pil_modPil, hpil, hclk]
  exact ⟨rfl, NatMap.getD_set_same ..⟩

/-! ## Steal rounds (R159) -/

/-- The far-end entry of a victim moves into slot j of the thief, in a state in which the victim's stores have been performed. -/
def State.moveFibre (d : State) (p q : PillarId) (j : Nat) : State :=
  (d.modPil q fun v => { v.modFibre (v.runQueue.getLastD 0) fun _ => {} with runQueue := v.runQueue.dropLast }).modPil p fun x =>
    { (x.modFibre j fun _ => (d.pil q).fibre ((d.pil q).runQueue.getLastD 0)).count 0x413 with runQueue := j :: x.runQueue }

/-- What a steal leaves in the pillars of the thief and of the victim. -/
theorem State.moveFibre_effect (d : State) {p q : PillarId} (hne : q ≠ p) (j : Nat) :
    SameBytes d (d.moveFibre p q j) ∧ ((d.moveFibre p q j).pil p).runQueue = j :: (d.pil p).runQueue ∧
      ((d.moveFibre p q j).pil p).fibre j = (d.pil q).fibre ((d.pil q).runQueue.getLastD 0) ∧
      ((d.moveFibre p q j).pil q).runQueue = (d.pil q).runQueue.dropLast ∧
      ((d.moveFibre p q j).pil q).fibre ((d.pil q).runQueue.getLastD 0) = {} := by
  refine ⟨?_, ?_⟩
  · refine SameBytes.trans ?_ (sameBytes_modPil _ p fun _ => rfl)
    exact sameBytes_modPil d q fun _ => rfl
  · rw [State.moveFibre, State.pil_modPil, State.pil_modPil_other _ _ hne, State.pil_modPil_other _ _ hne.symm, State.pil_modPil]
    exact ⟨rfl, NatMap.getD_set_same .., rfl, NatMap.getD_set_same ..⟩

section
variable {p : PillarId} {u : StrandId} {s : State}

theorem runs_stealRound_unready (h : s.canSteal p u = false) : Runs (.stealRound p u) s s := by
  rw [Runs, exec_stealRound, execStealRound, h]
  rfl

variable (h : s.canSteal p u = true)
include h

/-- A round that has found a victim takes its fibre, or does nothing while the victim's accesses have not been performed. -/
theorem exec_stealRound_found {q : PillarId} {j : Nat} (hq : (s.stealOrder p).find? (s.stealable p) = some q)
    (hj : (s.pil p).freeSlot = some j) :
    exec (.stealRound p u) s = .next (if s.releasable q then (s.drainAll q).moveFibre p q j else s) := by
  rw [exec_stealRound, execStealRound, h, hq, hj]
  rfl

theorem runs_stealRound_none (hq : (s.stealOrder p).find? (s.stealable p) = none) :
    Runs (.stealRound p u) s (s.stealFails p u) := by
  rw [Runs, exec_stealRound, execStealRound, h, hq]
  rfl

end

/-- The end of a wait after a failed round. -/
theorem stealBackoffExpiry_effect {p : PillarId} {u : StrandId} {s : State} {m : FibreMode} {ms : List FibreMode}
    (hm : ((s.pil p).strand u).modes = m :: ms) : ∃ t, Runs (.stealBackoffExpiry p u) s t ∧ SameBytes s t ∧
      ((t.pil p).strand u).modes = { m with backoff := if m.backoff ≤ s.aclk p then 0 else m.backoff } :: ms := by
  refine ⟨_, exec_stealBackoffExpiry s, sameBytes_modPil s p fun _ => rfl, ?_⟩
  rw [State.modStrand, State.pil_modPil, Pillar.strand_modStrand]
  simp only [hm]
  split
  · rw [Strand.backOff_eq hm]
  · exact hm

/-! ## The events -/

/-- Settles O40: a turn of a runner, a wake and a steal round, each by what it finds. -/
theorem fibreEvents : Obligations.FibreEvents := by
  intro p u s x r
  refine ⟨fun m ms hrun hm hslot => ?runner, fun h => runs_runner_unready (runnerReady_of_not_waiting h), ?wake,
    runs_stealRound_unready, fun h => ?steal, fun m ms hm => stealBackoffExpiry_effect hm⟩
  case runner =>
    refine ⟨runner_stopped hrun hm hslot, ?sound, ?faulted, fun hs hq => ?empty⟩
    case sound =>
      intro hs j q hq hf
      obtain ⟨hfibre, hqueue⟩ := State.me_fibreLoaded (s := s.focus p u) (j := j) (m := m) (ms := ms)
      obtain ⟨hpc, hregs, hmodes⟩ := State.st_fibreLoaded (s := s.focus p u) (j := j) (m := m) (ms := ms)
      exact ⟨_, (runner_loads hrun hm hslot hs hq).1 hf, sameBytes_fibreLoaded, congrArg FibreSlot.state hfibre, hpc, hregs,
        hmodes, hqueue⟩
    case faulted =>
      intro hs j q c v hq hf
      obtain ⟨hfibre, hqueue⟩ := State.me_fibreLoaded (s := s.focus p u) (j := j) (m := m) (ms := ms)
      obtain ⟨hpc, -, hmodes⟩ := State.st_fibreLoaded (s := s.focus p u) (j := j) (m := m) (ms := ms)
      exact ⟨_, (runner_loads hrun hm hslot hs hq).2 c v hf, rfl, rfl, sameBytes_fibreLoaded,
        congrArg FibreSlot.state hfibre, hpc, hmodes, hqueue⟩
    case empty =>
      obtain ⟨hbytes, hzero, hback⟩ := runnerIdle_outcome (s := s.focus p u) hm
      have hidle := runs_runner_idle hrun hm hslot hs hq
      exact ⟨runner_once hrun hm hslot hs hq, fun ho hb hc hx => ⟨_, hidle ho hb hc, hzero hx⟩,
        fun ho hb hc hx => ⟨_, hidle ho hb hc, hbytes, hback hx⟩,
        runs_runner_waits hrun hm hslot hs hq⟩
  case wake =>
    intro j y wakes
    refine ⟨runs_fibreWake_awake, fun hs => ⟨fun d v hk => runs_fibreWake_due hs hk rfl,
      fun hk => runs_fibreWake_due hs hk rfl, fun c v hk => runs_fibreWake_due hs hk rfl,
      fun ea hk => runs_fibreWake_asleep hs hk rfl, ?remote, ?queued, ?word, ?procedures⟩⟩
    case remote =>
      intro i o pa l va a b w n hk ho s' woken
      refine ⟨runs_fibreWake_asleep hs hk, fun h hout => ?_⟩
      have hrun := runs_fibreWake_due hs hk h
      refine ⟨fun c v hr => ?_, fun pa' hr => ?_⟩
      · rwa [State.cameFor, State.wakeRemote_lost ho hout hr] at hrun
      · rwa [State.cameFor, State.wakeRemote_performed ho hout hr] at hrun
    case queued =>
      intro i pa va a b w hk
      exact ⟨runs_fibreWake_asleep hs hk, fun h => ⟨_, runs_fibreWake_due hs hk h, s.pil_sendParked ..⟩⟩
    case word =>
      intro ea d take next hk
      refine ⟨runs_fibreWake_asleep hs hk, fun h => ?_⟩
      have hrun := runs_fibreWake_due hs hk h
      have hfibre : (x.takeWord ea.toNat take).1.fibre j.toNat = y :=
        congrArg (·.getD j.toNat {}) (x.takeWord_fibres ea.toNat take)
      rw [State.cameFor, Pillar.wake, Pillar.modFibre, hfibre] at hrun
      exact hrun
    case procedures =>
      intro w limit d hk
      refine ⟨fun h hl => runs_fibreWake_due hs hk ?_, fun h => runs_fibreWake_asleep hs hk ?_⟩
      · rw [State.comes, decide_eq_true h, show ((s.pil p).strand w).lates = [] from hl]
        rfl
      · rw [State.comes, decide_eq_false (Nat.not_le.mpr h), Bool.false_and]
  case steal =>
    refine ⟨?found, fun hq m ms hm => ?none⟩
    case found =>
      intro q j hq hj hne d k
      have hexec := exec_stealRound_found h hq hj
      refine ⟨fun hr => ?_, fun hr => ⟨d.moveFibre p q j, ?_, d.moveFibre_effect hne j⟩⟩
      · rw [Runs, hexec, if_neg (by rw [hr]; decide)]
      · rw [Runs, hexec, if_pos hr]
    case none =>
      obtain ⟨hbytes, hzero, hback⟩ := runnerIdle_outcome hm
      have hst : ((s.stealFails p u).pil p).strand u = ((s.runnerIdle p u).pil p).strand u := by
        rw [State.stealFails, State.pil_modPil]
        rfl
      refine ⟨_, runs_stealRound_none h hq, hbytes.trans (sameBytes_modPil _ p fun _ => rfl), ?_⟩
      rw [hst]
      exact ⟨hzero, fun hx => (hback hx).2⟩

end Sys2Proof.Machine
end

section
/-! PROOFS. The statement of the fibre instructions fails in a state whose pillars do not stand in rising order. -/

set_option Elab.async false

namespace Sys2Proof.Machine

/-! ## FEXIT with a join counter (R156) -/

/-- The state in which FEXIT decrements the counter: the runner has left the fibre, and its slot is free. -/
def State.exitedFibre (s : State) : State :=
  (s.modSt fun r => r.leaveFibre (s.aclk s.curP)).modMe fun x => x.modFibre s.st.slot fun _ => {}

/-- FEXIT that passes its checks frees its slot, and then looks up the counter's home once more, to decrement it. -/
theorem runs_fexit_linked {f : Fields} {s : State} {p : PillarId} {ca : LsAddr} (hf : s.st.inFibre = true)
    (hl : (s.me.fibre s.st.slot).link = some (p, ca)) (hc : s.linkCheck p ca = .ok ()) (hd : s.fenceDone 3 15 = true) :
    Runs (.fexit f) s (s.exitedFibre.releaseLink p ca) := by
  rw [Runs, exec_fexit, execFexit, hf]
  simp only [check_true, act_ok_bind, hl, hc, hd, waitFor_true]
  rfl

/-! ## A state whose pillars are not in rising order -/

/-- A doubled job of one pillar and its twin, pillars 0 and 1 (R75, R77). -/
def twinJob : Job :=
  { number := 0, record := { shape := 0x4010400 }, queue := 0, asid := 0, pri := 0
    rect := some { row0 := 0, col0 := 0, hgt := 1, wid := 2 } }

/-- A pillar of the job with the place of pillar 1, and a word of 2 at the start of its local store: a join counter with two
children. -/
def secondTwin : Pillar := { job := some 0, standsFor := some 1, ls := { bytes := { cells := [(0, 2)] } } }

/-- Such a pillar whose strand 0 runs the fibre of slot 0, a child of the counter at the start of the first twin's local store. -/
def exitingTwin : Pillar :=
  { secondTwin with fibres := { entries := [(0, { state := .running, link := some (0, 0) })] } }.modStrand 0 fun r =>
    { r with modes := [{ once := false, dest := 0, pc := 0, ret := 0, saved := Vector.replicate 8 {}, slot := some 0, since := 0
                         backoff := 0 }] }

/-- Pillars 5 and 2 both stand for pillar 1, and pillar 2 is listed after pillar 5, which is found first. A write of pillar 2
lists it once more, before pillar 5: `NatMap` says that its keys rise, and its type does not. -/
def twoTwinsState : State :=
  { pillars := { entries := [(5, secondTwin), (2, exitingTwin), (0, { job := some 0 })] }, curP := 2
    launch := { jobs := [twinJob] }, safelight := { pillarReady := { elems := [5] } } }

/-- Before FEXIT frees its slot, the counter's home is pillar 5. -/
theorem twoTwinsState_home : twoTwinsState.linkHome 0 = 5 ∧ twoTwinsState.lsTarget 2 0 0 8 = .ok 5 := by decide +kernel

/-- After that it is pillar 2, and the counter of pillar 5 keeps its two children. -/
theorem twoTwinsState_released :
    ((twoTwinsState.exitedFibre.releaseLink 0 0).pil 5).ls.bytes.read 0 8 = 2 := by decide +kernel

theorem twoTwinsState_inFibre : twoTwinsState.st.inFibre = true := by decide +kernel

theorem twoTwinsState_link : (twoTwinsState.me.fibre twoTwinsState.st.slot).link = some (0, 0) := by decide +kernel

theorem twoTwinsState_fence : twoTwinsState.fenceDone 3 15 = true := by decide +kernel

theorem twoTwinsState_runs : Runs (.fexit {}) twoTwinsState (twoTwinsState.exitedFibre.releaseLink 0 0) :=
  runs_fexit_linked twoTwinsState_inFibre twoTwinsState_link (by decide +kernel) twoTwinsState_fence

/-- What the statement says of the counter of an FEXIT whose checks pass, in another pillar and with two children: it has
one child less. -/
theorem counter_of_fibreInstructions (h : Obligations.FibreInstructions) {f : Fields} {s : State} {p q : PillarId} {ca : LsAddr}
    (hf : s.st.inFibre = true) (hl : (s.me.fibre s.st.slot).link = some (p, ca)) (hq : s.linkHome p = q) (hne : q ≠ s.curP)
    (ht : s.lsTarget s.curP p ca.toNat 8 = .ok q) (hd : s.fenceDone 3 15 = true)
    (hv : (s.pil q).ls.bytes.read ca.toNat 8 = 2) :
    ∃ t, Runs (.fexit f) s t ∧ (t.pil q).ls.bytes.read ca.toNat 8 = 1 := by
  obtain ⟨-, -, -, -, -, hfibre⟩ := h f s
  obtain ⟨-, -, hlinked⟩ := hfibre hf
  obtain ⟨-, hexit⟩ := hlinked p ca hl
  obtain ⟨-, -, hcount, -⟩ := hexit fun e => absurd (hq.symm.trans e) hne
  rw [hq, hv] at hcount
  obtain ⟨t, hrun, -, -, hread, -⟩ := hcount (by decide) hd ht
  exact ⟨t, hrun, hread⟩

/-- Refutes O39: FEXIT of a fibre whose counter lies in pillar 5 leaves that counter as it was, in a state that lists its pillars
out of order, since the freeing of the slot lists the fibre's pillar once more, and the counter's home is then found to be that
one. -/
theorem not_fibreInstructions : ¬ Obligations.FibreInstructions := by
  intro h
  obtain ⟨hhome, htarget⟩ := twoTwinsState_home
  obtain ⟨t, hrun, hread⟩ := counter_of_fibreInstructions h (f := {}) twoTwinsState_inFibre twoTwinsState_link hhome
    (by decide) htarget twoTwinsState_fence (by decide +kernel)
  obtain rfl : t = twoTwinsState.exitedFibre.releaseLink 0 0 := Host.Outcome.next.inj (hrun.symm.trans twoTwinsState_runs)
  exact absurd (hread.symm.trans twoTwinsState_released) (by decide)

end Sys2Proof.Machine
end

section
/-! PROOFS. How an instruction of the vector unit completes, and the lanes of the lane-wise instructions on integers. -/

set_option Elab.async false

namespace Sys2Proof.Machine

open Claims (completes lanesBecome laneInt intLane typeRange)

/-! ## Completion (R167, R172, R173) -/

section
variable {p : PillarId} {t : StrandId} {s : State}

/-- A strand without an accepted instruction has nothing to complete. -/
theorem vectorComplete_none (h : (s.pil p).vec.accepted.find? (fun d => d.strand == t) = none) :
    exec (.vectorComplete p t) s = .next s := by
  rw [exec_vectorComplete, execVectorComplete, h]

variable {d : Dispatched} {e : VEffect} {f : Fields} (hd : (s.pil p).vec.accepted.find? (fun d => d.strand == t) = some d)
  (he : vectorEffect d = some (e, f))
include hd he

/-- An effect that succeeds is left, and the instruction leaves the unit. -/
theorem vectorComplete_ok {r : State} (hr : e d f (s.focus p t) = .ok r) :
    exec (.vectorComplete p t) s = .next ((r.modMe (vectorRetired d)).focus s.curP s.curT) := by
  rw [exec_vectorComplete, execVectorComplete, hd]
  dsimp only
  rw [he]
  dsimp only
  rw [hr]
  rfl

/-- An effect that fails leaves a late fault. -/
theorem vectorComplete_error {c : BitVec 8} {v : Word} (hr : e d f (s.focus p t) = .error (c, v)) :
    exec (.vectorComplete p t) s = .next (s.modPil p fun x =>
      Pillar.raiseLate { x with vec := { x.vec with accepted := x.vec.accepted.erase d } } t { d.late c v with vector := true }) := by
  rw [exec_vectorComplete, execVectorComplete, hd]
  dsimp only
  rw [he]
  dsimp only
  rw [hr]

end

theorem vectorCompletion : Claims.vectorCompletion := fun _ _ _ =>
  ⟨vectorComplete_none, fun _ _ _ hd he => ⟨fun _ => vectorComplete_ok hd he, fun _ _ => vectorComplete_error hd he⟩⟩

/-! ## Lanes as integers (R9, R175) -/

section
variable {ty : EType} {a b : Nat}

/-- A stated lane is the number that the lane holds. -/
theorem cast_intLane_mod (ty : EType) (sat : Bool) (x : Int) :
    (((intLane ty sat x).toNat % 2 ^ ty.width : Nat) : Int) = intLane ty sat x := by
  have h0 : 0 ≤ intLane ty sat x := Int.emod_nonneg _ (by positivity)
  have h1 : intLane ty sat x < 2 ^ ty.width := Int.emod_lt_of_pos _ (by positivity)
  push_cast
  rw [Int.toNat_of_nonneg h0, Int.emod_eq_of_lt h0 h1]

variable (h : isI ty = true)
include h

theorem not_isF_of_isI : ¬ isF ty = true := by cases ty <;> simp [isI] at h <;> decide

theorem cast_arith2 (mode : Nat) (sat : Bool) (fop : FVal → FVal → FVal) (iop : Int → Int → Int) (ha : a < 2 ^ ty.width)
    (hb : b < 2 ^ ty.width) : ((arith2 ty mode sat fop iop a b % 2 ^ ty.width : Nat) : Int) =
      intLane ty sat (iop (laneInt ty a) (laneInt ty b)) := by
  rw [arith2, if_neg (not_isF_of_isI h), intResult_eq_intLane h, intOf_eq_laneInt h ha, intOf_eq_laneInt h hb,
    cast_intLane_mod]

theorem cast_arith3 (mode : Nat) (sat neg : Bool) {c : Nat} (hc : c < 2 ^ ty.width) (ha : a < 2 ^ ty.width)
    (hb : b < 2 ^ ty.width) : ((arith3 ty mode sat neg c a b % 2 ^ ty.width : Nat) : Int) = intLane ty sat
      (laneInt ty c + if neg then -(laneInt ty a * laneInt ty b) else laneInt ty a * laneInt ty b) := by
  rw [arith3, if_neg (not_isF_of_isI h)]
  dsimp only
  rw [intResult_eq_intLane h, intOf_eq_laneInt h hc, intOf_eq_laneInt h ha, intOf_eq_laneInt h hb, cast_intLane_mod]

omit h in
/-- A lane and its value differ by a multiple of 2 to the width. -/
theorem laneInt_modEq (ty : EType) (v : Nat) : laneInt ty v ≡ v [ZMOD 2 ^ ty.width] := by
  unfold laneInt
  split
  · exact (Int.modEq_sub_modulus_iff.mpr rfl).symm
  · rfl

/-- A shift count is the lane modulo the width, read with a sign or not (R176). -/
theorem laneInt_emod_width (b : Nat) : (laneInt ty b % ty.width).toNat = b % ty.width := by
  have hw : (ty.width : Int) ∣ 2 ^ ty.width := by cases ty <;> simp [isI] at h <;> decide
  have hm : laneInt ty b % ty.width = (b : Int) % ty.width := (laneInt_modEq ty b).of_dvd hw
  rw [hm, ← Int.natCast_mod, Int.toNat_natCast]

/-- A shift to the left drops the bits above the width, whatever the sign (R176). -/
theorem cast_shiftLeft_lane (a b : Nat) : ((a * 2 ^ (b % ty.width) % 2 ^ ty.width : Nat) : Int) =
    intLane ty false (laneInt ty a * 2 ^ (laneInt ty b % ty.width).toNat) := by
  rw [laneInt_emod_width h]
  push_cast
  exact ((laneInt_modEq ty a).mul_right _).symm

/-- The lane of a signed type is sign-extended (R11). -/
theorem sextNat_eq_laneInt (hs : (typeRange ty).1 < 0) (ha : a < 2 ^ ty.width) : sextNat a ty.width = laneInt ty a := by
  have hsigned : isSignedType ty = true := by cases ty <;> simp [isI, typeRange] at h hs <;> rfl
  rw [← intOf_eq_laneInt h ha, intOf, if_pos hsigned]

/-- A shift to the right of a signed lane rounds down (R176). -/
theorem cast_shiftArith_lane (hs : (typeRange ty).1 < 0) (ha : a < 2 ^ ty.width) (b : Nat) :
    ((lowBits (sextNat a ty.width / (2 ^ (b % ty.width) : Nat)) ty.width % 2 ^ ty.width : Nat) : Int) =
      intLane ty false (laneInt ty a / 2 ^ (laneInt ty b % ty.width).toNat) := by
  rw [laneInt_emod_width h, sextNat_eq_laneInt h hs ha, ← cast_intLane_mod, ← intResult_eq_intLane h]
  push_cast
  rfl

end

/-! ## The lane-wise forms (R20, R172) -/

/-- An instruction completes, and a lane of its destination takes an integer under its mask bit, or what R166 says without. -/
def laneTakes (p : PillarId) (t : StrandId) (s : State) (f : Fields) (w i : Nat) (x : Int) : Prop :=
  let r := s.strandAt p t
  ∃ s', exec (.vectorComplete p t) s = .next s' ∧
    ((r.k f.kNum).bits.getLsbD i = true → (((s'.strandAt p t).lane f.dNum w i).1 : Int) = x) ∧
    ((r.k f.kNum).bits.getLsbD i = false →
      ((s'.strandAt p t).lane f.dNum w i).1 = if f.flags / 8 % 2 = 1 then 0 else (r.lane f.dNum w i).1)

theorem laneTakes_of_lanesBecome {p : PillarId} {t : StrandId} {s : State} {f : Fields} {w i : Nat} {val : Nat → Nat} {x : Int}
    (h : lanesBecome p t s f w (pairRegs f) val) (hi : i < pairRegs f * (512 / w)) (hx : ((val i % 2 ^ w : Nat) : Int) = x) :
    laneTakes p t s f w i x := by
  obtain ⟨s', hs, -, hl⟩ := h
  refine ⟨s', hs, fun ha => ?_, fun ha => ?_⟩
  · rw [hl i hi, if_pos ha, hx]
  · rw [hl i hi, if_neg (Bool.eq_false_iff.mp ha)]

section
variable {p : PillarId} {t : StrandId} {s : State} {d : Dispatched} {i : Instr} {f : Fields} (hc : completes p t s d i)
  {g : Dispatched → Fields → Strand → Strand} (he : vectorEffect { d with instr := i } = some (onStrand g, f))
  {r : Row} (hr : i.row = some (r, f)) {dflt : EType} (hp : Row.OnPairs r dflt) {ty : EType} {n : Nat}
  (hn : n < pairRegs f * (512 / ty.width))
include hc he hr hp hn

theorem laneTakes_of_lanes2 {op : Nat → Nat → Nat} {x : Int} (hg : ∀ r, g d f r = lanes2 d f ty op r)
    (hx : ((op ((s.strandAt p t).lane (rrA f) ty.width n).1 ((s.strandAt p t).lane (rrB f) ty.width n).1 % 2 ^ ty.width : Nat) :
      Int) = x) : laneTakes p t s f ty.width n x :=
  laneTakes_of_lanesBecome (lanesBecome_of_lanes2 hc he hr hp hg fun _ => rfl) hn hx

theorem laneTakes_of_lanes3 {op : Nat → Nat → Nat → Nat} {x : Int} (hg : ∀ r, g d f r = lanes3 d f ty op r)
    (hx : ((op ((s.strandAt p t).lane f.dNum ty.width n).1 ((s.strandAt p t).lane (rrA f) ty.width n).1
      ((s.strandAt p t).lane (rrB f) ty.width n).1 % 2 ^ ty.width : Nat) : Int) = x) : laneTakes p t s f ty.width n x :=
  laneTakes_of_lanesBecome (lanesBecome_of_lanes3 hc he hr hp hg fun _ => rfl) hn hx

end

theorem vectorIntegerLanes : Claims.vectorIntegerLanes := by
  simp only [Claims.vectorIntegerLanes, Claims.laneForms, List.forall_mem_cons, List.not_mem_nil, false_imp_iff, implies_true,
    and_true, ← satFlag_eq]
  refine ⟨fun p t s d f i hd hi hwf hI _ hl => ?vadd, fun p t s d f i hd hi hwf hI _ hl => ?vsub,
    fun p t s d f i hd hi hwf hI _ hl => ?vmul, fun p t s d f i hd hi hwf hI _ hl => ?vfma,
    fun p t s d f i hd hi hwf hI _ hl => ?vfms, fun p t s d f i hd hi hwf hI _ hl => ?vmin,
    fun p t s d f i hd hi hwf hI _ hl => ?vmax, fun p t s d f i hd hi hwf hI _ hl => ?vshl,
    fun p t s d f i hd hi hwf hI hs hl => ?vsar⟩
  case vfma | vfms =>
    exact laneTakes_of_lanes3 ⟨hd, hi, hwf⟩ rfl rfl ⟨.inl rfl, rfl, rfl⟩ hl (fun _ => rfl)
      (cast_arith3 hI _ _ _ (Strand.lane_lt ..) (Strand.lane_lt ..) (Strand.lane_lt ..))
  case vshl =>
    exact laneTakes_of_lanes2 ⟨hd, hi, hwf⟩ rfl rfl ⟨.inl rfl, rfl, rfl⟩ hl (fun _ => rfl) (cast_shiftLeft_lane hI ..)
  case vsar =>
    have hneg : (typeRange (typeOf .i32 f)).1 < 0 := hs.resolve_right fun hne => hne f rfl
    exact laneTakes_of_lanes2 ⟨hd, hi, hwf⟩ rfl rfl ⟨.inl rfl, rfl, rfl⟩ hl (fun _ => rfl)
      (cast_shiftArith_lane hI hneg (Strand.lane_lt ..) _)
  all_goals
    exact laneTakes_of_lanes2 ⟨hd, hi, hwf⟩ rfl rfl ⟨.inl rfl, rfl, rfl⟩ hl (fun _ => rfl)
      (cast_arith2 hI _ _ _ _ (Strand.lane_lt ..) (Strand.lane_lt ..))

/-- Settles O15: completion by its branches, and each lane-wise form by its function on the integers that lanes hold. -/
theorem vectorCompletionAndLanes : Obligations.VectorCompletionAndLanes := ⟨vectorCompletion, vectorIntegerLanes⟩

end Sys2Proof.Machine
end

section
/-! PROOFS. The mask instructions and the moves between g, k and v registers, when they complete. -/

set_option Elab.async false

namespace Sys2Proof.Machine

/-! ## Effects on the strand, well-formed or not (R164, R167) -/

section
variable {p : PillarId} {t : StrandId} {s : State} {d : Dispatched} {f : Fields} {i : Instr}
  (hd : (s.pil p).vec.accepted.find? (fun d => d.strand == t) = some d) (hi : d.instr = i)
include hd hi

/-- What an instruction on v and k registers alone leaves of its strand. -/
theorem vectorComplete_onStrand {g : Dispatched → Fields → Strand → Strand} {q : Strand → Prop}
    (he : vectorEffect { d with instr := i } = some (onStrand g, f)) (hq : q (g d f (s.strandAt p t))) :
    ∃ s', exec (.vectorComplete p t) s = .next s' ∧ q (s'.strandAt p t) := by
  obtain ⟨s', hs, -, hr⟩ := vectorComplete_of_modSt hd ((vectorEffect_of_instr hi).trans he) rfl
  exact ⟨s', hs, hr ▸ hq⟩

/-- An instruction that writes a mask register. -/
theorem vectorComplete_setK {g : Dispatched → Fields → Strand → Strand} {v : PWord}
    (he : vectorEffect { d with instr := i } = some (onStrand g, f))
    (hg : g d f (s.strandAt p t) = (s.strandAt p t).setK f.dNum v) (hn : f.dNum < 8) (h0 : f.dNum ≠ 0) :
    ∃ s', exec (.vectorComplete p t) s = .next s' ∧ (s'.strandAt p t).k f.dNum = v :=
  vectorComplete_onStrand hd hi (q := fun r' => r'.k f.dNum = v) he (by rw [hg, Strand.k_setK _ h0 hn])

/-- A write to k0 is discarded (R164). -/
theorem vectorComplete_setK_zero {g : Dispatched → Fields → Strand → Strand} {v : PWord}
    (he : vectorEffect { d with instr := i } = some (onStrand g, f))
    (hg : g d f (s.strandAt p t) = (s.strandAt p t).setK f.dNum v) (h0 : f.dNum = 0) :
    ∃ s', exec (.vectorComplete p t) s = .next s' ∧ s'.strandAt p t = s.strandAt p t :=
  vectorComplete_onStrand hd hi (q := (· = s.strandAt p t)) he (hg.trans (if_pos h0))

end

/-! ## Values of the moves (R177, R180) -/

/-- The one bits of a number, counted and listed. -/
theorem onesOf_eq (x n : Nat) : onesOf x n = ((List.range n).filter fun i => x.testBit i).length := by
  induction n with
  | zero => rfl
  | succ n ih =>
    rw [onesOf, ih, bitOf_testBit, List.range_succ, List.filter_append, List.length_append, Nat.add_comm]
    cases h : x.testBit n <;> simp [h, boolNat]

theorem bytes_mul_eight {ty : EType} (hw : 8 ≤ ty.width) : 8 * (ty.width / 8) = ty.width := by
  cases ty <;> simp [EType.width] at hw ⊢

/-- The value of VEXT: sign-extended for the signed types (R177). -/
theorem extractedLane_eq {ty : EType} (hw : 8 ≤ ty.width) {v : Nat} (hv : v < 2 ^ ty.width) :
    (if isSignedType ty then wordOfInt (sextNat v ty.width) else word v) =
      Claims.extended (isSignedType ty) (ty.width / 8) v := by
  have hb := bytes_mul_eight hw
  rw [← hb] at hv
  rw [← extend_eq _ (Nat.div_pos hw (by decide)) hv, extend, Nat.mod_eq_of_lt hv, hb]

section
variable {p : PillarId} {t : StrandId} {s : State} {d : Dispatched} {f : Fields}
  (hd : (s.pil p).vec.accepted.find? (fun d => d.strand == t) = some d)
include hd

theorem vext_register (hi : d.instr = .vext f) (hn : f.dNum < 64) (h0 : f.dNum ≠ 0) (hw : 8 ≤ (typeOf .f32 f).width) :
    let ty := typeOf .f32 f
    let x := (s.strandAt p t).lane f.sNum ty.width f.tNum
    ∃ s', exec (.vectorComplete p t) s = .next s' ∧
      (s'.strandAt p t).reg f.dNum = pword (Claims.extended (isSignedType ty) (ty.width / 8) x.1) x.2 ∧
      (s'.strandAt p t).pending = (s.strandAt p t).pending.erase f.dNum := by
  intro ty x
  rw [← extractedLane_eq hw (Strand.lane_lt ..)]
  exact vectorComplete_of_writePending hd ((vectorEffect_of_instr hi).trans rfl) rfl h0 hn

/-- VINS writes the lane that it names and no other. -/
theorem vins_lanes (hi : d.instr = .vins f) (hn : f.dNum < 32) (ht : f.tNum < 512 / (typeOf .f32 f).width) :
    let w := (typeOf .f32 f).width
    ∃ s', exec (.vectorComplete p t) s = .next s' ∧ ((s'.strandAt p t).lane f.dNum w f.tNum).1 = d.gs.bits.toNat % 2 ^ w ∧
      ∀ j, j < 512 / w → j ≠ f.tNum → ((s'.strandAt p t).lane f.dNum w j).1 = ((s.strandAt p t).lane f.dNum w j).1 := by
  intro w
  refine vectorComplete_onStrand hd hi (q := fun r' => (r'.lane f.dNum w f.tNum).1 = d.gs.bits.toNat % 2 ^ w ∧
    ∀ j, j < 512 / w → j ≠ f.tNum → (r'.lane f.dNum w j).1 = ((s.strandAt p t).lane f.dNum w j).1) rfl ⟨?_, fun j hj hne => ?_⟩
  · refine (Strand.lane_setV_update _ hn _ ht).trans ?_
    rw [if_pos rfl]
    exact Nat.mod_mod ..
  · refine (Strand.lane_setV_update _ hn _ hj).trans ?_
    rw [if_neg hne]
    rfl

end

theorem maskAndMoveCompletion : Claims.maskAndMoveCompletion := by
  intro p t s d f hd r a b c w after
  refine ⟨fun hn h0 => ⟨fun hi => ?kand, fun hi => ?kor, fun hi => ?knot, fun hi => ?kmovk⟩, fun h0 hi => ?discarded,
    fun hn h0 => ⟨fun hi => ?kmovg, fun hi => ?kpopc, fun hi _ hw => ?vext⟩, fun hi hn ht _ => vins_lanes hd hi hn ht⟩
  case kand | kor | knot | kmovk => exact vectorComplete_setK hd hi rfl rfl hn h0
  case discarded =>
    obtain hi | hi | hi | hi := hi
    all_goals exact vectorComplete_setK_zero hd hi rfl rfl h0
  case kmovg => exact vectorComplete_of_writePending hd ((vectorEffect_of_instr hi).trans rfl) rfl h0 hn
  case kpopc =>
    have hones := onesOf_eq c.bits.toNat 64
    simp only [BitVec.testBit_toNat] at hones
    rw [← hones]
    exact vectorComplete_of_writePending hd ((vectorEffect_of_instr hi).trans rfl) rfl h0 hn
  case vext => exact vext_register hd hi hn h0 (by omega)

end Sys2Proof.Machine
end

section
/-! PROOFS. The accesses of the vector unit to local store, when they complete: VLD and VST, VGATHER and VSCATTER. -/

set_option Elab.async false

namespace Sys2Proof.Machine

/-! ## Elements stored one by one (R178, R179) -/

/-- The local store of a pillar after some elements of e bytes are stored in turn, each at its address, if its lane is active. -/
def Pillar.storeElems (x : Pillar) (active : Nat → Bool) (addr : Nat → Nat) (e : Nat) (v : Nat → Nat × Bool) (l : List Nat) :
    Pillar :=
  l.foldl (fun x i => if active i then x.lsWrite (addr i) e (v i).1 (v i).2 else x) x

section
variable (x : Pillar) (active : Nat → Bool) (addr : Nat → Nat) (e : Nat) (v : Nat → Nat × Bool)

theorem Pillar.storeElems_strands (l : List Nat) : (x.storeElems active addr e v l).strands = x.strands := by
  refine List.foldlRecOn (motive := fun y : Pillar => y.strands = x.strands) l _ rfl fun y hy i _ => ?_
  split
  · exact hy
  · exact hy

variable {active addr e}

theorem Pillar.storeElems_cons {i : Nat} (l : List Nat) (ha : active i = true) : x.storeElems active addr e v (i :: l) =
    (x.lsWrite (addr i) e (v i).1 (v i).2).storeElems active addr e v l :=
  congrArg (List.foldl _ · l) (if_pos ha)

/-- A byte that no active element has stays (R178). -/
theorem Pillar.get_storeElems_other {l : List Nat} {b : Nat}
    (h : ∀ i ∈ l, active i = true → b < addr i ∨ addr i + e ≤ b) :
    (x.storeElems active addr e v l).ls.bytes.get b = x.ls.bytes.get b := by
  refine List.foldlRecOn (motive := fun y : Pillar => y.ls.bytes.get b = x.ls.bytes.get b) l _ rfl fun y hy i hi => ?_
  split
  · next ha => exact (Memory.get_write_other _ _ (h i hi ha)).trans hy
  · exact hy

/-- Of a rising list of lanes, an element stays as stored when no later one overlaps it (R179). -/
theorem Pillar.read_storeElems {l : List Nat} (hl : l.Pairwise (· < ·)) {i : Nat} (hi : i ∈ l) (ha : active i = true)
    (h : ∀ j, i < j → j ∈ l → active j = true → addr j + e ≤ addr i ∨ addr i + e ≤ addr j) :
    (x.storeElems active addr e v l).ls.bytes.read (addr i) e = (v i).1 % 256 ^ e := by
  induction l generalizing x with
  | nil => cases hi
  | cons k l ih =>
    obtain ⟨hk, hl⟩ := List.pairwise_cons.mp hl
    obtain rfl | hi := List.mem_cons.mp hi
    · rw [Pillar.storeElems_cons _ _ _ ha, Memory.read_congr fun b h1 h2 => Pillar.get_storeElems_other _ _ fun j hj haj => ?_]
      · exact Memory.read_write ..
      · have := h j (hk j hj) (List.mem_cons_of_mem _ hj) haj
        omega
    · exact ih _ hl hi fun j hij hj => h j hij (List.mem_cons_of_mem _ hj)

end

/-- An instruction whose effect is on its pillar completes: no other pillar and no memory of a stack changes. -/
theorem vectorComplete_of_modMe {p : PillarId} {t : StrandId} {s : State} {d : Dispatched} {eff : VEffect} {f : Fields}
    {g : Pillar → Pillar} (hd : (s.pil p).vec.accepted.find? (fun d => d.strand == t) = some d)
    (he : vectorEffect d = some (eff, f)) (hs : eff d f (s.focus p t) = .ok ((s.focus p t).modMe g)) :
    ∃ s', exec (.vectorComplete p t) s = .next s' ∧ s'.pil p = vectorRetired d (g (s.pil p)) ∧
      (∀ q, q ≠ p → s'.pil q = s.pil q) ∧ s'.mem = s.mem := by
  refine ⟨_, vectorComplete_ok hd he hs, ?_, fun q hq => ?_, rfl⟩
  · rw [State.modMe_modMe]
    exact State.pil_modPil (s.focus p t) p fun x => vectorRetired d (g x)
  · rw [State.modMe_modMe]
    exact State.pil_modPil_other (s.focus p t) (fun x => vectorRetired d (g x)) hq

/-- An instruction completes that stores the active lanes of a rising list and changes nothing else of any memory or strand. -/
theorem vectorComplete_storeElems {p : PillarId} {t : StrandId} {s : State} {d : Dispatched} {eff : VEffect} {f : Fields}
    {active : Nat → Bool} {addr : Nat → Nat} {e : Nat} {v : Nat → Nat × Bool} {l : List Nat}
    (hd : (s.pil p).vec.accepted.find? (fun d => d.strand == t) = some d) (he : vectorEffect d = some (eff, f))
    (hs : eff d f (s.focus p t) = .ok ((s.focus p t).modMe fun x => x.storeElems active addr e v l))
    (hl : l.Pairwise (· < ·)) :
    ∃ s', exec (.vectorComplete p t) s = .next s' ∧ s'.strandAt p t = s.strandAt p t ∧
      (∀ i ∈ l, active i = true → (∀ j, i < j → j ∈ l → active j = true → addr j + e ≤ addr i ∨ addr i + e ≤ addr j) →
        (s'.pil p).ls.bytes.read (addr i) e = (v i).1 % 256 ^ e) ∧
      (∀ b, (∀ i ∈ l, active i = true → b < addr i ∨ addr i + e ≤ b) →
        (s'.pil p).ls.bytes.get b = (s.pil p).ls.bytes.get b) ∧
      (∀ a, s'.mem.get a = s.mem.get a) ∧ ∀ q, q ≠ p → (s'.pil q).ls = (s.pil q).ls := by
  obtain ⟨s', hs', hp, hother, hmem⟩ := vectorComplete_of_modMe hd he hs
  have hls : (s'.pil p).ls = ((s.pil p).storeElems active addr e v l).ls := by
    rw [hp, vectorRetired, Pillar.endSeq_ls]
  refine ⟨s', hs', ?_, fun i hi ha h => ?_, fun b h => ?_, fun a => congrArg (Memory.get · a) hmem,
    fun q hq => congrArg Pillar.ls (hother q hq)⟩
  · rw [State.strandAt, hp, vectorRetired, Pillar.endSeq_strand]
    exact congrArg (·[t]) ((s.pil p).storeElems_strands active addr e v l)
  · rw [hls]
    exact (s.pil p).read_storeElems v hl hi ha h
  · rw [hls]
    exact (s.pil p).get_storeElems_other v h

/-! ## Widths in bits and in bytes (R165) -/

/-- The numbers of the bytes of a lane are those of its bits. -/
theorem two_pow_width {ty : EType} (hw : 8 ≤ ty.width) : 256 ^ (ty.width / 8) = 2 ^ ty.width :=
  (Nat.pow_mul 2 8 _).symm.trans (congrArg (2 ^ ·) (bytes_mul_eight hw))

/-! ## VLD and VST (R178) -/

/-- An instruction of the vector unit that writes lanes of one register under the mask. -/
theorem vectorComplete_writeMasked {p : PillarId} {t : StrandId} {s : State} {d : Dispatched} {e : VEffect} {f : Fields}
    {g : Strand → Strand} {w : Nat} {v : Nat → Nat × Bool}
    (hd : (s.pil p).vec.accepted.find? (fun d => d.strand == t) = some d) (he : vectorEffect d = some (e, f))
    (hs : e d f (s.focus p t) = .ok ((s.focus p t).modSt g)) (hn : f.dNum < 32)
    (hg : g (s.strandAt p t) = (s.strandAt p t).writeMasked f w 1 v) :
    ∃ s', exec (.vectorComplete p t) s = .next s' ∧ SameBytes s s' ∧ ∀ i, i < 512 / w →
      ((s'.strandAt p t).lane f.dNum w i).1 = if ((s.strandAt p t).k f.kNum).bits.getLsbD i = true then (v i).1 % 2 ^ w
        else if f.flags / 8 % 2 = 1 then 0 else ((s.strandAt p t).lane f.dNum w i).1 := by
  obtain ⟨s', hs', hb, hr⟩ := vectorComplete_of_modSt hd he hs
  refine ⟨s', hs', hb, fun i hi => ?_⟩
  rw [hr, hg, Strand.lane_writeMasked _ hn w v ((Nat.one_mul _).symm ▸ hi)]

theorem vectorMemoryCompletion : Claims.vectorMemoryCompletion := by
  intro p t s d f x r w e hd hw hn
  have hpow : 256 ^ e = 2 ^ w := two_pow_width hw
  refine ⟨fun hi => ?vld, fun hi => ?vst⟩
  case vld =>
    obtain ⟨s', hs, hb, hl⟩ := vectorComplete_writeMasked hd ((vectorEffect_of_instr hi).trans rfl) rfl hn rfl
    refine ⟨s', hs, hb, fun i hlt => (hl i hlt).trans ?_⟩
    rw [Nat.mod_eq_of_lt (hpow ▸ Memory.read_lt ..)]
    rfl
  case vst =>
    obtain ⟨s', hs, hr, hread, hget, hmem, hother⟩ := vectorComplete_storeElems
      (active := r.active f.kNum) (addr := fun i => d.slot + e * i) (e := e) (l := List.range (512 / w))
      (v := fun i => ((r.lane f.dNum w i).1, (r.lane f.dNum w i).2 || (r.k f.kNum).bad))
      hd ((vectorEffect_of_instr hi).trans rfl) rfl List.pairwise_lt_range
    refine ⟨s', hs, hr, fun i hlt ha => ?_, fun b hb => ?_, hmem, hother⟩
    · refine (hread i (List.mem_range.mpr hlt) ((r.active_iff ..).trans ha) fun j hij _ _ => .inr ?_).trans ?_
      · have hle := Nat.mul_le_mul_left e hij
        rw [Nat.mul_succ] at hle
        omega
      · exact Nat.mod_eq_of_lt (hpow ▸ Strand.lane_lt ..)
    · exact hget b fun i hi' ha => hb i (List.mem_range.mp hi') ((r.active_iff ..).symm.trans ha)

/-! ## The checks of VGATHER and VSCATTER (R173, R179) -/

/-- The first of rising numbers that has a value. -/
theorem findSome?_range_of_lowest {α : Type} {g : Nat → Option α} {n i : Nat} {a : α} (hi : i < n) (ha : g i = some a)
    (hlow : ∀ j, j < i → g j = none) : (List.range n).findSome? g = some a := by
  induction n with
  | zero => exact absurd hi (Nat.not_lt_zero i)
  | succ n ih =>
    rw [List.range_succ, List.findSome?_append]
    obtain h | rfl := Nat.lt_succ_iff_lt_or_eq.mp hi
    · rw [ih h, Option.some_or]
    · have hnone : (List.range i).findSome? g = none :=
        List.findSome?_eq_none_iff.mpr fun j hj => hlow j (List.mem_range.mp hj)
      rw [hnone, Option.none_or, List.findSome?_singleton, ha]

/-- The address of a lane: base, scaled index and displacement, modulo 2^64 (R179). -/
theorem gatherAddr_eq (d : Dispatched) (f : Fields) (r : Strand) (i : Nat) (hw : 8 ≤ (typeOf .f32 f).width) :
    gatherAddr d f r (typeOf .f32 f).width i = Claims.laneAddress d f r i := by
  have hsext : sextNat (r.lane f.tNum (typeOf .f32 f).width i).1 (typeOf .f32 f).width =
      Claims.signedVal ((typeOf .f32 f).width / 8) (r.lane f.tNum (typeOf .f32 f).width i).1 := by
    unfold sextNat Claims.signedVal
    rw [bytes_mul_eight hw, Nat.mod_eq_of_lt (r.lane_lt ..), if_neg (by omega)]
    push_cast
    rfl
  rw [gatherAddr, Claims.laneAddress, hsext, dispWord, wordOfInt_eq, wordOfInt_eq, BitVec.ofInt_add, BitVec.ofInt_add,
    BitVec.ofInt_natCast, BitVec.ofNat_toNat, BitVec.setWidth_eq]
  push_cast
  rfl

theorem gatherFault_none {x : Pillar} {a : Word} {e : Nat} (ha : a.toNat % e = 0) (he : a.toNat + e ≤ lsEnd)
    (hx : x.xb ≤ a.toNat) : x.gatherFault a e = none := by
  rw [Pillar.gatherFault, ha, Pillar.lsFault_none hx he]
  rfl

/-- The cause of an address that fails, in the order of the checks. -/
theorem gatherFault_some {x : Pillar} {a : Word} {e : Nat} (h : ¬ (a.toNat % e = 0 ∧ a.toNat + e ≤ lsEnd ∧ x.xb ≤ a.toNat)) :
    x.gatherFault a e = some (if a.toNat % e ≠ 0 then 0x1A else if lsEnd < a.toNat + e then 0x13 else 0x14, a) := by
  unfold Pillar.gatherFault
  by_cases ha : a.toNat % e = 0
  · by_cases he : lsEnd < a.toNat + e
    · simp [ha, he, Pillar.lsFault_past he]
    · simp [ha, he, Pillar.lsFault_code (not_lt.mp he) (by omega : a.toNat < x.xb)]
  · simp [ha]

/-- What a lane of VGATHER or VSCATTER raises: nothing when it is inactive. -/
def laneFault (d : Dispatched) (f : Fields) (x : Pillar) (r : Strand) (i : Nat) : Option (BitVec 8 × Word) :=
  if r.active f.kNum i then x.gatherFault (Claims.laneAddress d f r i) ((typeOf .f32 f).width / 8) else none

theorem laneFault_none {d : Dispatched} {f : Fields} {x : Pillar} {r : Strand} {i : Nat}
    (h : (r.k f.kNum).bits.getLsbD i = true → (Claims.laneAddress d f r i).toNat % ((typeOf .f32 f).width / 8) = 0 ∧
      (Claims.laneAddress d f r i).toNat + (typeOf .f32 f).width / 8 ≤ lsEnd ∧ x.xb ≤ (Claims.laneAddress d f r i).toNat) :
    laneFault d f x r i = none := by
  unfold laneFault
  split
  · next ha =>
    obtain ⟨halign, hend, hxb⟩ := h ((r.active_iff ..).symm.trans ha)
    exact gatherFault_none halign hend hxb
  · rfl

section
variable {d : Dispatched} {f : Fields} {s : State}

/-- Before an element has moved, the lowest lane that fails decides. -/
theorem gatherCheck_fresh (hw : 8 ≤ (typeOf .f32 f).width) (hm : d.moved = []) : gatherCheck d f s =
    ((List.range (512 / (typeOf .f32 f).width)).findSome? (laneFault d f s.me s.st)).elim (.ok ()) .error := by
  unfold gatherCheck
  simp only [gatherAddr_eq d f s.st _ hw, hm, List.isEmpty_nil, Bool.not_true, Bool.false_eq_true, if_false]
  change (match (List.range (512 / (typeOf .f32 f).width)).findSome? (laneFault d f s.me s.st) with
    | some e => Except.error e
    | none => Except.ok ()) = _
  cases (List.range (512 / (typeOf .f32 f).width)).findSome? (laneFault d f s.me s.st) <;> rfl

theorem gatherCheck_ok (hw : 8 ≤ (typeOf .f32 f).width)
    (h : d.moved = [] → ∀ i, i < 512 / (typeOf .f32 f).width → laneFault d f s.me s.st i = none) :
    gatherCheck d f s = .ok () := by
  by_cases hm : d.moved = []
  · rw [gatherCheck_fresh hw hm, List.findSome?_eq_none_iff.mpr fun i hi => h hm i (List.mem_range.mp hi)]
    rfl
  · exact if_pos (by simp [hm])

theorem gatherCheck_error (hw : 8 ≤ (typeOf .f32 f).width) (hm : d.moved = []) {i : Nat} {c : BitVec 8 × Word}
    (hi : i < 512 / (typeOf .f32 f).width) (hc : laneFault d f s.me s.st i = some c)
    (hlow : ∀ j, j < i → laneFault d f s.me s.st j = none) : gatherCheck d f s = .error c := by
  rw [gatherCheck_fresh hw hm, findSome?_range_of_lowest hi hc hlow]
  rfl

theorem vgatherEffect_ok (h : gatherCheck d f s = .ok ()) : vgatherEffect d f s = .ok (s.modSt fun r =>
    r.writeMasked f (typeOf .f32 f).width 1 fun i => d.moved[i]?.getD (gatherLane d f s.me r i)) := by
  rw [vgatherEffect, h]
  rfl

theorem vgatherEffect_error {c : BitVec 8 × Word} (h : gatherCheck d f s = .error c) : vgatherEffect d f s = .error c := by
  rw [vgatherEffect, h]
  rfl

theorem vscatterEffect_ok (hw : 8 ≤ (typeOf .f32 f).width) (h : gatherCheck d f s = .ok ()) : vscatterEffect d f s =
    .ok (s.modMe fun x => x.storeElems (s.st.active f.kNum) (fun i => (Claims.laneAddress d f s.st i).toNat)
      ((typeOf .f32 f).width / 8) (scatterLane f s.st)
      ((List.range (512 / (typeOf .f32 f).width)).drop d.moved.length)) := by
  rw [vscatterEffect, h]
  simp only [← gatherAddr_eq d f s.st _ hw]
  rfl

theorem vscatterEffect_error {c : BitVec 8 × Word} (h : gatherCheck d f s = .error c) : vscatterEffect d f s = .error c := by
  rw [vscatterEffect, h]
  rfl

end

/-! ## VGATHER and VSCATTER (R173, R179, R191) -/

theorem mem_drop_range {n k i : Nat} : i ∈ (List.range n).drop k ↔ k ≤ i ∧ i < n := by
  rw [List.range_eq_range', List.drop_range', List.mem_range'_1]
  omega

section
variable {p : PillarId} {t : StrandId} {s : State} {d : Dispatched} {f : Fields}
  (hd : (s.pil p).vec.accepted.find? (fun d => d.strand == t) = some d) (hw : 8 ≤ (typeOf .f32 f).width)
include hd

/-- A gather or scatter that fails its checks ends with a late fault. -/
theorem gather_fault {c : BitVec 8} {v : Word} (hi : d.instr = .vgather f ∨ d.instr = .vscatter f)
    (hc : gatherCheck d f (s.focus p t) = .error (c, v)) :
    exec (.vectorComplete p t) s = .next (s.modPil p fun x =>
      Pillar.raiseLate { x with vec := { x.vec with accepted := x.vec.accepted.erase d } } t
        { d.late c v with vector := true }) := by
  obtain hi | hi := hi
  · exact vectorComplete_error hd ((vectorEffect_of_instr hi).trans rfl) (vgatherEffect_error hc)
  · exact vectorComplete_error hd ((vectorEffect_of_instr hi).trans rfl) (vscatterEffect_error hc)

include hw

theorem vgather_lanes (hi : d.instr = .vgather f) (hn : f.dNum < 32) (hc : gatherCheck d f (s.focus p t) = .ok ()) :
    let w := (typeOf .f32 f).width
    let r := s.strandAt p t
    ∃ s', exec (.vectorComplete p t) s = .next s' ∧ SameBytes s s' ∧ ∀ i, i < 512 / w →
      ((s'.strandAt p t).lane f.dNum w i).1 = if (r.k f.kNum).bits.getLsbD i = true then
          (match d.moved[i]? with
          | some v => v.1 % 2 ^ w
          | none => (s.pil p).ls.bytes.read (Claims.laneAddress d f r i).toNat (w / 8))
        else if f.flags / 8 % 2 = 1 then 0 else (r.lane f.dNum w i).1 := by
  intro w r
  obtain ⟨s', hs, hb, hl⟩ :=
    vectorComplete_writeMasked hd ((vectorEffect_of_instr hi).trans rfl) (vgatherEffect_ok hc) hn rfl
  refine ⟨s', hs, hb, fun i hlt => (hl i hlt).trans ?_⟩
  cases d.moved[i]? with
  | some v => rfl
  | none =>
    have hread : (gatherLane d f (s.pil p) r i).1 % 2 ^ w =
        (s.pil p).ls.bytes.read (Claims.laneAddress d f r i).toNat (w / 8) := by
      rw [gatherLane, gatherAddr_eq d f r i hw]
      exact Nat.mod_eq_of_lt (two_pow_width hw ▸ Memory.read_lt ..)
    exact if_congr Iff.rfl hread rfl

theorem vscatter_bytes (hi : d.instr = .vscatter f) (hc : gatherCheck d f (s.focus p t) = .ok ()) :
    let w := (typeOf .f32 f).width
    let e := w / 8
    let r := s.strandAt p t
    let addr (i : Nat) : Nat := (Claims.laneAddress d f r i).toNat
    let active (i : Nat) : Prop := i < 512 / w ∧ (r.k f.kNum).bits.getLsbD i = true
    ∃ s', exec (.vectorComplete p t) s = .next s' ∧ s'.strandAt p t = r ∧
      (∀ i, active i → d.moved.length ≤ i → (∀ j, i < j → active j → addr j + e ≤ addr i ∨ addr i + e ≤ addr j) →
        (s'.pil p).ls.bytes.read (addr i) e = (r.lane f.dNum w i).1) ∧
      (∀ b, (∀ i, active i → d.moved.length ≤ i → b < addr i ∨ addr i + e ≤ b) →
        (s'.pil p).ls.bytes.get b = (s.pil p).ls.bytes.get b) ∧
      (∀ a, s'.mem.get a = s.mem.get a) ∧ ∀ q, q ≠ p → (s'.pil q).ls = (s.pil q).ls := by
  intro w e r addr active
  have hpow : 256 ^ e = 2 ^ w := two_pow_width hw
  obtain ⟨s', hs, hr, hread, hget, hmem, hother⟩ := vectorComplete_storeElems hd ((vectorEffect_of_instr hi).trans rfl)
    (vscatterEffect_ok hw hc) (List.pairwise_lt_range.drop)
  refine ⟨s', hs, hr, fun i ⟨hlt, ha⟩ hm hlast => ?_, fun b hb => ?_, hmem, hother⟩
  · refine (hread i (mem_drop_range.mpr ⟨hm, hlt⟩) ((r.active_iff ..).trans ha) fun j hij hj haj => ?_).trans ?_
    · exact hlast j hij ⟨(mem_drop_range.mp hj).2, (r.active_iff ..).symm.trans haj⟩
    · exact Nat.mod_eq_of_lt (hpow ▸ Strand.lane_lt ..)
  · refine hget b fun i hi' ha => ?_
    obtain ⟨hm, hlt⟩ := mem_drop_range.mp hi'
    exact hb i ⟨hlt, (r.active_iff ..).symm.trans ha⟩ hm

end

theorem gatherCompletion : Claims.gatherCompletion := by
  intro p t s d f x r w e addr active good hd hwidth
  have hw : 8 ≤ (typeOf .f32 f).width := by omega
  refine ⟨fun hi hm i ⟨hlt, ha⟩ hbad hlow => ?fault, fun hgood => ?done⟩
  case fault =>
    have hfault : laneFault d f x r i =
        some (if addr i % e ≠ 0 then 0x1A else if lsEnd < addr i + e then 0x13 else 0x14, Claims.laneAddress d f r i) :=
      (if_pos ((r.active_iff ..).trans ha)).trans (gatherFault_some hbad)
    exact gather_fault hd hi (gatherCheck_error hw hm hlt hfault fun j hj =>
      laneFault_none fun haj => hlow j hj ⟨hj.trans hlt, haj⟩)
  case done =>
    have hok : gatherCheck d f (s.focus p t) = .ok () :=
      gatherCheck_ok hw fun hm i hlt => laneFault_none fun ha => hgood hm i ⟨hlt, ha⟩
    exact ⟨fun hi hn => vgather_lanes hd hw hi hn hok, fun hi => vscatter_bytes hd hw hi hok⟩

/-- Settles O16: each effect on masks, registers or local store is read back lane by lane and byte by byte. -/
theorem vectorMoveAndMemoryCompletion : Obligations.VectorMoveAndMemoryCompletion :=
  ⟨maskAndMoveCompletion, vectorMemoryCompletion, gatherCompletion⟩

end Sys2Proof.Machine
end

section
/-! PROOFS. The dispatch of row instructions, tile loads and copies (R197, R201, R204, R217-R219, R226). -/

set_option Elab.async false

namespace Sys2Proof.Machine

/-! ## Checks of records, spools and done words -/

@[simp] theorem shapeCheck_none (n : Nat) (dst : Bool) : shapeCheck none n dst = .ok () := rfl

@[simp] theorem shapeCheck_source (c n : Nat) :
    shapeCheck (some c) n false = .error (.trap 0x20 (word (c + n % 8 * 16))) := rfl

/-- The number of a spool stands in the low bits of m (R204). -/
theorem spoolNumber_eq (m : BitVec 7) : bitsOf m.toNat 2 0 = m.toNat % 8 := by
  rw [bitsOf_eq, Nat.pow_zero, Nat.div_one]
  rfl

/-! ## Which instruction has which shape -/

theorem exec_rowForms : ∀ mk ∈ [(Instr.rowact : Fields → Instr), .rowclose, .rowshort, .rowkeep],
    ∀ f s, exec (mk f) s = rowIssue (mk f) f s := by
  simp only [List.forall_mem_cons, List.not_mem_nil, false_imp_iff, implies_true, and_true]
  exact ⟨exec_rowact, exec_rowclose, exec_rowshort, exec_rowkeep⟩

theorem exec_tileLoadForms :
    ∀ e ∈ [((Instr.tld : Fields → Instr), false, false), (.tldt, true, false), (.tldc, false, true), (.tldtc, true, true)],
    ∀ f s, exec (e.1 f) s = tileLoadIssue (e.1 f) f e.2.1 e.2.2 s := by
  simp only [List.forall_mem_cons, List.not_mem_nil, false_imp_iff, implies_true, and_true]
  exact ⟨exec_tld, exec_tldt, exec_tldc, exec_tldtc⟩

/-- Of the copies, BCOPY alone may write over the rows that it reads (R219). -/
theorem exec_copyForms :
    ∀ e ∈ [((Instr.bcopy : Fields → Instr), false, false, false), (.bcopyt, true, false, false),
      (.bcopyc, false, true, false), (.bcopyx, false, true, true)],
    ∃ rowwise : Bool, ((∀ g, e.1 g = .bcopy g) → rowwise = true) ∧
      ∀ f s, exec (e.1 f) s = copyIssue (e.1 f) f e.2.1 e.2.2.1 e.2.2.2 rowwise s := by
  simp only [List.forall_mem_cons, List.not_mem_nil, false_imp_iff, implies_true, and_true]
  refine ⟨⟨true, fun _ => rfl, exec_bcopy⟩, ⟨false, fun h => ?_, exec_bcopyt⟩, ⟨false, fun h => ?_, exec_bcopyc⟩,
    ⟨false, fun h => ?_, exec_bcopyx⟩⟩ <;> cases h {}

/-! ## Dispatch -/

section
variable {i : Instr} {f : Fields} {s : State}

theorem runs_rowIssue (he : exec i s = rowIssue i f s) (hroom : s.canDispatch .tile = true)
    (hr : f.mod.toNat % 4 = 0 → (s.st.shape f.sNum).rowFault = none) :
    Runs i s (s.past i (s.dispatchAs .tile { s.capture i with src := s.st.shape f.sNum })) := by
  refine runs_finish he ?_
  by_cases hm : f.mod.toNat % 4 = 0
  · simp only [hr hm, hm, beq_self_eq_true, if_true, shapeCheck_none, State.room_ok hroom, act_ok_bind]
  · simp only [beq_eq_false_iff_ne.mpr hm, Bool.false_eq_true, if_false, State.room_ok hroom, act_ok_bind]

theorem traps_rowIssue {c : Nat} (he : exec i s = rowIssue i f s) (hm : f.mod.toNat % 4 = 0)
    (hr : (s.st.shape f.sNum).rowFault = some c) : Traps i s 0x20 (word (c + f.sNum % 8 * 16)) := by
  refine traps_finish he ?_
  simp only [hr, hm, beq_self_eq_true, if_true, shapeCheck_source, act_error_bind]

/-- A tile load whose record passes its checks goes by its spool and the next slot of it (R204, R226). -/
theorem tileLoadIssue_outcome {t c : Bool} {n j : Nat} {q : Spool} (he : exec i s = tileLoadIssue i f t c s)
    (hroom : s.canDispatch .tile = true) (hr : (s.st.shape f.sNum).sourceFault true false t c = none)
    (hn : f.mod.toNat % 8 = n) (hq : s.me.mtx.spool n = q) (hj : q.slot q.out = j) :
    (q.count = 0 → Traps i s 0x29 (word (3 + n * 16))) ∧
    (q.count ≠ 0 → q.out = q.count → Traps i s 0x2D (word (1 + n * 16 + j * 128))) ∧
    (q.count ≠ 0 → q.out ≠ q.count → (s.me.mtx.slot j).state = 4 → Traps i s 0x2D (word (2 + n * 16 + j * 128))) ∧
    (q.count ≠ 0 → q.out ≠ q.count → (s.me.mtx.slot j).state ≠ 4 →
      Runs i s (s.past i ((s.dispatchAs .tile
        { s.capture i with src := s.st.shape f.sNum, slot := j, aux := n, tainted := s.st.shapeBad f.sNum != 0 }).modMe fun x =>
          x.modMtx fun m =>
            (m.modSlot j fun h => { h with state := 1, tag := 0, poison := m.slotBad.hasAny (8192 * j) 8192 }).setSpool n
              { q with out := q.out + 1 }))) := by
  refine ⟨fun h0 => traps_finish he ?_, fun h0 hfull => traps_finish he ?_, fun h0 hfree hres => traps_finish he ?_,
    fun h0 hfree hres => runs_finish he ?_⟩
  all_goals simp only [hr, shapeCheck_none, spoolNumber_eq, hn, hq, hj, h0, if_true, if_false, act_ok_bind]
  · exact act_error_bind ..
  · rw [bne_eq_false_iff_eq.mpr hfull, check_false, act_error_bind]
  · rw [bne_iff_ne.mpr hfree, check_true, act_ok_bind, bne_eq_false_iff_eq.mpr hres, check_false, act_error_bind]
  · rw [bne_iff_ne.mpr hfree, check_true, act_ok_bind, bne_iff_ne.mpr hres, check_true, act_ok_bind, State.room_ok hroom,
      act_ok_bind]

theorem runs_copyIssue {t c scale rowwise : Bool} (he : exec i s = copyIssue i f t c scale rowwise s)
    (hroom : s.canDispatch .tile = true) (hsrc : (s.st.shape f.sNum).sourceFault false scale t c = none)
    (hdst : (s.st.shape f.dNum).destFault (s.st.shape f.sNum) = none)
    (hspans : rowwise = true ∨ spansMeet (s.st.shape f.sNum) (s.st.shape f.dNum) = false)
    (hdone : (s.g f.tNum).bits = 0 ∨ s.lsRange (s.g f.tNum).bits.toNat 8) :
    Runs i s (s.past i (s.dispatchAs .tile { s.capture i with
      src := s.st.shape f.sNum, dst := s.st.shape f.dNum, gt := { bits := (s.g f.tNum).bits }
      tainted := s.st.shapeBad f.sNum ||| s.st.shapeBad f.dNum != 0 })) := by
  have hapart : (rowwise || !spansMeet (s.st.shape f.sNum) (s.st.shape f.dNum)) = true := by
    rwa [Bool.or_eq_true, Bool.not_eq_true']
  refine runs_finish he ?_
  simp only [hsrc, hdst, hapart, shapeCheck_none, check_true, act_ok_bind, State.room_ok hroom]
  obtain hw | hw := hdone
  · rw [if_neg (by rw [hw]; decide)]
  · rw [State.lsCheck_range hw, act_ok_bind, ite_self]

end

/-- Settles O19: the checks of each form in their order, and then the dispatch. -/
theorem tileDispatch : Obligations.TileDispatch := by
  intro f s hroom r dst
  refine ⟨fun mk hm hr => runs_rowIssue (exec_rowForms mk hm f s) hroom hr, ?load, ?copy,
    fun c mk hm hrec hr => traps_rowIssue (exec_rowForms mk hm f s) hrec hr⟩
  case load =>
    intro e he i n q j hr
    exact tileLoadIssue_outcome (exec_tileLoadForms e he f s) hroom hr rfl rfl rfl
  case copy =>
    intro e he i w hsrc hdst hspans hdone
    obtain ⟨rowwise, hrow, hexec⟩ := exec_copyForms e he
    exact runs_copyIssue (hexec f s) hroom hsrc hdst (hspans.imp_left hrow) hdone

end Sys2Proof.Machine
end

section
/-! PROOFS. The events of the tile pipe: activations, beats, fills and the ends of copies (R195, R196, R205, R206, R208, R218,
R226). -/

set_option Elab.async false

namespace Sys2Proof.Machine

/-! ## Activations (R195, R196) -/

/-- An activation that is done opens its row, but in a bank that refreshes. -/
theorem rowActivationDone_outcome {p : PillarId} {s : State} {bank row done : Nat}
    (ha : (s.pil p).vault.activating.find? (fun a => bankOf a.1 == bank) = some (row, done)) :
    (((s.pil p).vault.refreshing.get? bank).isSome = true → Runs (.rowActivationDone p bank) s s) ∧
    ((s.pil p).vault.refreshing.get? bank = none →
      Runs (.rowActivationDone p bank) s (s.setPil p (Pillar.retryRows { s.pil p with
        vault := Vault.opened { (s.pil p).vault with activating := (s.pil p).vault.activating.erase (row, done) } row s.clk }
        s.clk))) := by
  refine ⟨fun hr => ?_, fun hr => ?_⟩
  · simp only [Runs, exec_rowActivationDone, execRowActivationDone, ha, hr, if_true]
  · simp only [Runs, exec_rowActivationDone, execRowActivationDone, ha, hr, Option.isSome_none, Bool.false_eq_true, if_false]

/-! ## The streaming operation (R205) -/

/-- A change of the streaming operation that does not end it changes what the pipe streams. -/
theorem find?_modStream {f : TileOp → TileOp} (hf : ∀ o, o.ended = false → (f o).ended = false) (ops : List TileOp) :
    (modStream f ops).find? (fun o => !o.ended) = (ops.find? fun o => !o.ended).map f := by
  induction ops with
  | nil => rfl
  | cons o ops ih =>
    cases ho : o.ended with
    | true => simp only [modStream, ho, if_true, List.find?_cons, Bool.not_true, ih]
    | false => simp only [modStream, ho, Bool.false_eq_true, if_false, List.find?_cons, hf o ho, Bool.not_false, Option.map_some]

theorem Pillar.stream_modStream (x : Pillar) {f : TileOp → TileOp} (hf : ∀ o, o.ended = false → (f o).ended = false) :
    (x.modStream f).tile.stream = x.tile.stream.map f := find?_modStream hf _

@[simp] theorem Pillar.chargeBeat_tile (x : Pillar) (clk : Nat) (o : TileOp) (row : Nat) :
    (x.chargeBeat clk o row).tile = x.tile := rfl

/-- The beats of other users delay the next beat once (R206). -/
theorem Pillar.stream_makeUp (x : Pillar) (clk row : Nat) {o : TileOp} (h : x.tile.stream = some o) :
    (x.makeUp clk o row).tile.stream = some { o with due := clk + o.taken, taken := 0 } := by
  rw [Pillar.makeUp, Pillar.stream_modStream, Pillar.chargeBeat_tile, h, Option.map_some]
  exact fun _ hq => hq

/-! ## Beats (R195, R205, R206) -/

theorem runs_beat_nothingStreams {p : PillarId} {s : State} (h : (s.pil p).tile.stream = none) :
    Runs (.tileBeatArrive p) s s := by
  simp only [Runs, exec_tileBeatArrive, execTileBeatArrive, h]

section
variable {p : PillarId} {s : State} {o : TileOp} {row : Nat} (hstream : (s.pil p).tile.stream = some o)
  (hheld : (s.pil p).opHeld o = false) (hcol : o.col < o.d.src.rowBytes) (hrow : s.beatRow p o = some row)
  (hrefresh : (s.pil p).vault.refreshing.get? (bankOf row) = none)
include hstream hheld hcol hrow hrefresh

/-- What becomes of a beat on an open row: the beats of other users delay it, then a repair does, and then it arrives. -/
theorem exec_beat_openRow (hopen : (s.pil p).vault.openRows.contains row = true) :
    exec (.tileBeatArrive p) s = .next (
      if o.taken != 0 then s.modPil p fun x => x.makeUp s.clk o row
      else if (s.pil p).vault.repairDelay o row != 0 then s.modPil p fun x => x.delayRepaired s.clk o row
      else s.streamOn p o ((s.modPil p fun x => (x.chargeBeat s.clk o row).pin row).beat p { o with lastRow := some row })) := by
  simp only [exec_tileBeatArrive, execTileBeatArrive, hstream, hheld, Nat.not_le.mpr hcol, hrow, hrefresh, hopen,
    Option.isSome_none, Bool.false_eq_true, if_false, Bool.true_and, if_true]
  split_ifs <;> rfl

/-- A beat on a closed row requests the row's activation, if it may open. -/
theorem runs_beat_closedRow (hclosed : (s.pil p).vault.openRows.contains row = false)
    (hidle : (s.pil p).vault.isActivating row = false) (hopens : (s.pil p).vault.canOpen row s.clk = true) :
    Runs (.tileBeatArrive p) s (s.modPil p fun x => { x with vault := x.vault.request row s.clk }) := by
  simp only [Runs, exec_tileBeatArrive, execTileBeatArrive, hstream, hheld, Nat.not_le.mpr hcol, hrow, hrefresh, hclosed, hidle,
    hopens, Option.isSome_none, Bool.false_eq_true, if_false, Bool.false_and, Bool.not_true, Bool.or_self]

/-- A beat that no beat of another user and no repair delays pins its row and makes its transfer. -/
theorem runs_beat_arrives {s' : State} (hopen : (s.pil p).vault.openRows.contains row = true) (htaken : o.taken = 0)
    (hrepair : (s.pil p).vault.repairDelay o row = 0)
    (hbeat : (s.modPil p fun x => (x.chargeBeat s.clk o row).pin row).beat p { o with lastRow := some row } = .ok s') :
    Runs (.tileBeatArrive p) s s' := by
  rw [Runs, exec_beat_openRow hstream hheld hcol hrow hrefresh hopen, if_neg (by rw [htaken]; decide),
    if_neg (by rw [hrepair]; decide), hbeat]
  rfl

/-- The beats of other users that came while the beat was late delay it. -/
theorem runs_beat_delayed (hopen : (s.pil p).vault.openRows.contains row = true) (htaken : o.taken ≠ 0) :
    Runs (.tileBeatArrive p) s (s.modPil p fun x => x.makeUp s.clk o row) := by
  rw [Runs, exec_beat_openRow hstream hheld hcol hrow hrefresh hopen, if_pos (bne_iff_ne.mpr htaken)]

end

/-! ## The ends of loads and copies (R208, R218, R226) -/

/-- A tile load leaves its slot filled (R226). -/
theorem MatrixEngine.slot_fill (m : MatrixEngine) {d : Dispatched} (hd : d.slot < 32) : ((m.fill d).slot d.slot).state = 2 :=
  congrArg SlotHeader.state (MatrixEngine.slot_modSlot _ hd _)

/-- The last beat of a load or copy of some kinds has arrived. -/
def TileOp.endedOf (kinds : Nat → Bool) (o : TileOp) : Bool :=
  o.ended && (match tileKind o.d.instr with | some k => kinds k | none => false)

section
variable {p : PillarId} {s : State} {o : TileOp}

theorem runs_tileLoadFill (h : (s.pil p).tile.ops.find? (TileOp.endedOf fun k => k < 4) = some o) :
    Runs (.tileLoadFill p) s (s.setPil p (((s.pil p).modMtx fun m => m.fill o.d).endOp o)) := by
  rw [Runs, exec_tileLoadFill, execTileLoadFill]
  split
  · next o' h' =>
    obtain rfl : o' = o := Option.some.inj (h'.symm.trans h)
    rfl
  · next h' => cases h'.symm.trans h

theorem runs_copyComplete (h : (s.pil p).tile.ops.find? (TileOp.endedOf fun k => 4 ≤ k) = some o) :
    Runs (.copyComplete p) s (s.setPil p (((s.pil p).doneWord o.d 0).endOp o)) := by
  rw [Runs, exec_copyComplete, execCopyComplete]
  split
  · next o' h' =>
    obtain rfl : o' = o := Option.some.inj (h'.symm.trans h)
    rfl
  · next h' => cases h'.symm.trans h

end

/-- Settles O21: an activation, each way that a beat on a row of the own vault goes, and the ends of loads and copies. -/
theorem tilePipeEvents : Obligations.TilePipeEvents := by
  intro p s x
  refine ⟨fun bank row done ha => rowActivationDone_outcome ha, runs_beat_nothingStreams,
    fun o row hst hh hc hr hf hclosed hidle hopens => runs_beat_closedRow hst hh hc hr hf hclosed hidle hopens,
    fun o row s' hst hh hc hr hf hopen htaken hrepair hb => runs_beat_arrives hst hh hc hr hf hopen htaken hrepair hb,
    fun o row hst hh hc hr hf hopen htaken => ?_,
    fun o ho => ⟨runs_tileLoadFill ho, fun hd => MatrixEngine.slot_fill _ hd⟩, fun o ho => runs_copyComplete ho⟩
  refine ⟨_, { o with due := s.clk + o.taken, taken := 0 }, runs_beat_delayed hst hh hc hr hf hopen htaken, ?_, rfl, rfl⟩
  rw [State.pil_modPil]
  exact Pillar.stream_makeUp _ _ _ hst

end Sys2Proof.Machine
end

section
/-! PROOFS. The events of the DRAM: refresh, epochs, temperature, retention and the throttle trap (R209-R211, R214, R216). -/

set_option Elab.async false

namespace Sys2Proof.Machine

/-! ## Entries, bits and ranges -/

theorem findEntry_filter_ne {α : Type} (m : List (Nat × α)) (k : Nat) : findEntry (m.filter fun e => e.1 != k) k = none := by
  induction m with
  | nil => rfl
  | cons e m ih =>
    by_cases h : e.1 = k
    · rw [List.filter_cons_of_neg (by simp [h]), ih]
    · rw [List.filter_cons_of_pos (by simp [h]), findEntry, if_neg h, ih]

/-- A key that was erased has no entry. -/
@[simp] theorem NatMap.get?_erase_same {α : Type} (m : NatMap α) (k : Nat) : (m.erase k).get? k = none :=
  findEntry_filter_ne m.entries k

/-- An update of every entry that keeps the keys updates the entry of a key. -/
theorem findEntry_map_keys {α : Type} {g : Nat × α → Nat × α} (hg : ∀ e, (g e).1 = e.1) (m : List (Nat × α)) (k : Nat) :
    findEntry (m.map g) k = (findEntry m k).map fun a => (g (k, a)).2 := by
  induction m with
  | nil => rfl
  | cons e m ih =>
    rw [List.map_cons, findEntry, findEntry, hg, ih]
    split
    · next h =>
      subst h
      rfl
    · rfl

/-- One bit of a word after it is replaced. -/
theorem getLsbD_setBits_one (w : Word) (k : Nat) (b : Bool) {n : Nat} (hn : n < 64) :
    (setBits w k k (boolNat b)).getLsbD n = if n = k then b else w.getLsbD n := by
  rw [setBits, getLsbD_word hn, wordBits_eq, testBit_replaceBits, Nat.add_sub_cancel_left]
  by_cases h : n = k
  · subst h
    rw [if_pos ⟨le_rfl, Nat.lt_succ_self n⟩, if_pos rfl, Nat.sub_self]
    cases b <;> rfl
  · rw [if_neg (by omega), if_neg h]
    rfl

/-- A byte of a vault lies in a unit of 32 bytes (R465). -/
theorem State.physBad_one (s : State) (pa : Nat) : s.physBad pa 1 = s.memBad.has (pa / 32) := by
  rw [State.physBad, if_neg Nat.one_ne_zero, Nat.add_sub_cancel, Nat.sub_self, NatSet.hasAny_one]

/-! ## Refresh windows (R210, R215) -/

theorem Pillar.openRows_chargeBeat (x : Pillar) (clk : Nat) (o : TileOp) (row : Nat) :
    (x.chargeBeat clk o row).vault.openRows = x.vault.openRows := rfl

/-- A charge that leaves the open rows as they are does so for the late beat of a bank. -/
theorem State.openRows_chargeBank {s : State} {p : PillarId} {bank : Nat} {charge : TileOp → Nat → Pillar → Pillar}
    (h : ∀ o row x, (charge o row x).vault.openRows = x.vault.openRows) :
    (s.chargeBank p bank charge).vault.openRows = (s.pil p).vault.openRows := by
  unfold State.chargeBank
  dsimp only
  split
  · split
    · split
      · exact h _ _ _
      · rfl
    · rfl
  · rfl

/-- A window that starts closes the rows of its bank. -/
theorem refreshWindowStart_effect {p : PillarId} {s : State} {bank : Nat}
    (hr : (s.pil p).vault.refreshing.get? bank = none) (hw : s.inRefresh p bank = true) :
    ∃ t, Runs (.refreshWindowStart p bank) s t ∧ ((t.pil p).vault.refreshing.get? bank).isSome = true ∧
      (t.pil p).vault.openRows = (s.pil p).vault.openRows.filter fun r => bankOf r != bank := by
  refine ⟨_, if_neg ?_, ?_, ?_⟩
  · rw [hr, hw]
    decide
  · rw [State.pil_setPil, NatMap.get?_set_same]
    rfl
  · rw [State.pil_setPil]
    exact congrArg _ (State.openRows_chargeBank fun o row x => x.openRows_chargeBeat s.clk o row)

/-- Activations that begin anew open no row. -/
theorem Vault.openRows_restart (bank clk : Nat) (v : Vault) (l : List (Nat × Nat)) :
    (Vault.restart bank clk v l).openRows = v.openRows := by
  induction l generalizing v with
  | nil => rfl
  | cons a l ih =>
    rw [Vault.restart, ih]
    split <;> rfl

theorem refreshWindowEnd_effect {p : PillarId} {s : State} {bank : Nat}
    (hr : ((s.pil p).vault.refreshing.get? bank).isSome = true) (hw : s.inRefresh p bank = false) :
    ∃ t, Runs (.refreshWindowEnd p bank) s t ∧ (t.pil p).vault.refreshing.get? bank = none ∧
      (t.pil p).vault.openRows = (s.pil p).vault.openRows := by
  obtain ⟨turn, hturn⟩ := Option.isSome_iff_exists.mp hr
  simp only [Runs, exec_refreshWindowEnd, execRefreshWindowEnd, hturn, hw, Bool.false_eq_true, if_false]
  refine ⟨_, rfl, ?_, ?_⟩
  · rw [State.pil_setPil]
    exact NatMap.get?_erase_same ..
  · rw [State.pil_setPil]
    exact Vault.openRows_restart ..

/-! ## Epochs (R209) -/

/-- A pillar of the list with the CALENDAR that was written, if its stack starts an epoch. -/
def epochEntry (st : Nat) (e : Nat × Pillar) : Nat × Pillar :=
  if e.1 / 256 == st then
    match e.2.vault.nextCalendar with
    | some c => (e.1, { e.2 with vault := { e.2.vault with calendar := c, nextCalendar := none } })
    | none => e
  else e

theorem epochEntry_key (st : Nat) (e : Nat × Pillar) : (epochEntry st e).1 = e.1 := by
  unfold epochEntry
  split
  · split <;> rfl
  · rfl

theorem epochEntry_pending {st k : Nat} {x : Pillar} {c : Word} (hk : k / 256 = st) (hc : x.vault.nextCalendar = some c) :
    (epochEntry st (k, x)).2 = { x with vault := { x.vault with calendar := c, nextCalendar := none } } := by
  simp only [epochEntry, beq_iff_eq.mpr hk, if_true, hc]

/-- At the start of an epoch every listed pillar takes the CALENDAR that was written for it. -/
theorem runs_refreshEpochStart {st : BitVec 2} {s : State} (h : s.calclk st.toNat % 2 ^ 22 = 0) :
    Runs (.refreshEpochStart st) s { s with pillars := { entries := s.pillars.entries.map (epochEntry st.toNat) } } :=
  if_neg (by rw [h]; decide)

theorem pil_epochStart {st : Nat} {p : PillarId} {s : State} {c : Word} (hp : stackOf p = st)
    (hlisted : (s.pillars.get? p.toNat).isSome) (hc : (s.pil p).vault.nextCalendar = some c) :
    State.pil { s with pillars := { entries := s.pillars.entries.map (epochEntry st) } } p =
      { s.pil p with vault := { (s.pil p).vault with calendar := c, nextCalendar := none } } := by
  obtain ⟨x, hx⟩ := Option.isSome_iff_exists.mp hlisted
  have hpil : s.pil p = x := by rw [State.pil, NatMap.getD, hx, Option.getD_some]
  have hmap : NatMap.get? { entries := s.pillars.entries.map (epochEntry st) } p.toNat = some (epochEntry st (p.toNat, x)).2 := by
    rw [NatMap.get?, findEntry_map_keys (epochEntry_key st), ← NatMap.get?, hx, Option.map_some]
  rw [hpil] at hc ⊢
  rw [State.pil, NatMap.getD, hmap, Option.getD_some, epochEntry_pending hp hc]

/-! ## Temperature (R211) -/

/-- A change of a layer's temperature sets the layer's bits of HOT, WARM and THROT in VTHERM. -/
theorem vthermChange_effect (p : PillarId) (s : State) (layer : Nat) (hot warm throt : Bool) :
    ∃ t, Runs (.vthermChange p layer hot warm throt) s t ∧ ∀ n, n < 64 → (t.pil p).vault.vtherm.getLsbD n =
      if n = layer then hot else if n = 12 + layer then warm else if n = 24 + layer then throt
      else (s.pil p).vault.vtherm.getLsbD n := by
  refine ⟨_, rfl, fun n hn => ?_⟩
  rw [State.pil_modPil]
  dsimp only
  rw [getLsbD_setBits_one _ _ _ hn, getLsbD_setBits_one _ _ _ hn, getLsbD_setBits_one _ _ _ hn]
  grind

/-! ## Retention (R216) -/

theorem Vault.mem_rowsDue {v : Vault} {clk row : Nat} :
    row ∈ v.rowsDue clk ↔ ∃ due, (row, due) ∈ v.shortLived.entries ∧ due ≠ 0 ∧ due ≤ clk := by
  simp only [Vault.rowsDue, List.mem_map, List.mem_filter, Bool.and_eq_true, bne_iff_ne, decide_eq_true_eq]
  exact ⟨fun ⟨e, ⟨he, hd⟩, hr⟩ => ⟨e.2, hr ▸ he, hd⟩, fun ⟨due, he, hd⟩ => ⟨_, ⟨he, hd⟩, rfl⟩⟩

/-- A row that expires is poisoned whole and keeps its bytes. -/
theorem expireRow_effect (p : PillarId) (s : State) (row : Nat) :
    (s.expireRow p row).mem = s.mem ∧ ((s.expireRow p row).pil p).vault.expired.has row = true ∧
      ∀ a, a < 8192 → (s.expireRow p row).physBad (vaultPa p (8192 * row) + a) 1 = true := by
  refine ⟨rfl, ?_, fun a ha => ?_⟩
  · rw [State.expireRow, State.pil_modPil, NatSet.has_insert, beq_self_eq_true, Bool.true_or]
  · have hin : vaultPa p (8192 * row) / 32 ≤ (vaultPa p (8192 * row) + a) / 32 ∧
        (vaultPa p (8192 * row) + a) / 32 < vaultPa p (8192 * row) / 32 + 256 := by
      unfold vaultPa
      omega
    rw [State.physBad_one, State.expireRow, State.modPil_memBad, NatSet.has_putRange, if_pos hin]

theorem runs_retention_due {p : PillarId} {s : State} {row : Nat} (h : row ∈ (s.pil p).vault.rowsDue s.clk) :
    Runs (.retentionDeadline p row) s (s.expireRow p row) := if_pos (List.contains_iff_mem.mpr h)

theorem runs_retention_early {p : PillarId} {s : State} {row : Nat} (h : row ∉ (s.pil p).vault.rowsDue s.clk) :
    Runs (.retentionDeadline p row) s s := if_neg (mt List.contains_iff_mem.mp h)

/-! ## The throttle trap (R214) -/

theorem Pillar.throttleDue_iff (x : Pillar) (clk row : Nat) (o : TileOp) : x.throttleDue clk o row = true ↔
    x.vault.vtherm.getLsbD (24 + row / 2048) = true ∧ x.opHeld o = false ∧ o.col < o.d.src.rowBytes ∧
      x.vault.openRows.contains row = false ∧ x.vault.refreshing.get? (bankOf row) = none ∧ 4096 ≤ o.late clk := by
  simp only [Pillar.throttleDue, Vault.throttled, bitOf_testBit, layerOf, BitVec.testBit_toNat, Bool.and_eq_true,
    Bool.not_eq_true', decide_eq_true_eq, Option.isNone_iff_eq_none, and_assoc]

theorem exec_throttleTrap_row {p : PillarId} {s : State} {o : TileOp} {row : Nat} (hstream : (s.pil p).tile.stream = some o)
    (hrow : s.beatRow p o = some row) : exec (.throttleTrap p) s = .next (
      if (s.pil p).throttleDue s.clk o row then
        s.stopTile p o (.trap 0x22 (word (row / 2048 + row % 4 * 16 + 4096 * 2 ^ 32)))
      else s) := by
  simp only [exec_throttleTrap, execThrottleTrap, hstream, hrow]
  split <;> rfl

/-- Settles O23: each event changes its vault when its moment has come, and one that comes early changes nothing. -/
theorem dramEvents : Obligations.DramEvents := by
  intro p s x
  refine ⟨fun bank hr hw => ?start, fun bank hr hw => refreshWindowEnd_effect hr hw, fun st h => ?epoch,
    fun layer hot warm throt _ => vthermChange_effect p s layer hot warm throt,
    fun row => ⟨fun due hdue h0 hle => ?due, fun h => ?early⟩,
    fun o row hstream hrow => ⟨fun hh ht hc ho hf hl => ?trap, fun h => ?noTrap⟩⟩
  case start =>
    obtain ⟨t, ht, href, hrows⟩ := refreshWindowStart_effect hr hw
    refine ⟨t, ht, href, fun r => ?_⟩
    rw [hrows, List.mem_filter, bne_iff_ne]
  case epoch =>
    refine ⟨_, runs_refreshEpochStart h, fun c hc hp hlisted => ?_⟩
    rw [pil_epochStart hp hlisted hc]
    exact ⟨rfl, rfl⟩
  case due =>
    exact ⟨_, runs_retention_due (Vault.mem_rowsDue.mpr ⟨due, mem_of_findEntry hdue, h0, hle⟩), expireRow_effect p s row⟩
  case early =>
    refine runs_retention_early fun hmem => ?_
    obtain ⟨due, he, h0, hle⟩ := Vault.mem_rowsDue.mp hmem
    exact (h _ he rfl).elim h0 (Nat.not_lt.mpr hle)
  case trap =>
    rw [Runs, exec_throttleTrap_row hstream hrow, if_pos ((x.throttleDue_iff ..).mpr ⟨ht, hh, hc, ho, hf, hl⟩)]
  case noTrap =>
    rw [Runs, exec_throttleTrap_row hstream hrow, if_neg]
    intro hdue
    obtain ⟨-, -, -, hclosed, -, hlate⟩ := (x.throttleDue_iff ..).mp hdue
    obtain hearly | hopen := h
    · exact absurd hlate (Nat.not_le.mpr hearly)
    · rw [hopen] at hclosed
      cases hclosed

end Sys2Proof.Machine
end

section
/-! PROOFS. The spool instructions, the schedule check, and the transfers between slots and vector registers (R221, R222, R224, R225,
R227, R228). -/

set_option Elab.async false

namespace Sys2Proof.Machine

/-! ## Slots and spools after an update (R221, R222) -/

theorem MatrixEngine.spool_setSpool (m : MatrixEngine) {n : Nat} (hn : n < 8) (q : Spool) : (m.setSpool n q).spool n = q := by
  simp [MatrixEngine.setSpool, MatrixEngine.spool, hn]

theorem MatrixEngine.slot_setSpool (m : MatrixEngine) (n : Nat) (q : Spool) (j : Nat) : (m.setSpool n q).slot j = m.slot j := rfl

theorem MatrixEngine.slot_modSlot_of_lt (m : MatrixEngine) {j : Nat} (hj : j < 32) (a : Nat) (g : SlotHeader → SlotHeader) :
    (m.modSlot a g).slot j = if j = a then g (m.slot j) else m.slot j := by
  split
  · next h =>
    subst h
    exact m.slot_modSlot hj g
  · next h => simp [MatrixEngine.modSlot, MatrixEngine.slot, Ne.symm h]

/-- A change that is the same when it is made twice reaches each slot of a list. -/
theorem MatrixEngine.slot_foldl_modSlot {g : SlotHeader → SlotHeader} (hg : ∀ h, g (g h) = g h) (l : List Nat) (m : MatrixEngine)
    {j : Nat} (hj : j < 32) :
    (l.foldl (fun m a => m.modSlot a g) m).slot j = if j ∈ l then g (m.slot j) else m.slot j := by
  induction l generalizing m with
  | nil => rfl
  | cons a l ih =>
    rw [List.foldl_cons, ih, m.slot_modSlot_of_lt hj]
    by_cases ha : j = a <;> by_cases hl : j ∈ l <;> simp [ha, hl, hg]

/-! ## What goes on after an update of the engine -/

theorem State.st_past (s t : State) (i : Instr) : (s.past i t).st = { t.st with pc := s.nextPc i } := State.st_modSt t _

theorem State.mtx_modSt (s : State) (f : Strand → Strand) : (s.modSt f).me.mtx = s.me.mtx :=
  (congrArg Pillar.mtx (s.me_modSt f)).trans (Pillar.modStrand_mtx ..)

theorem State.mtx_past (s t : State) (i : Instr) : (s.past i t).me.mtx = t.me.mtx := t.mtx_modSt _

theorem State.mtx_modMtx (s : State) (g : MatrixEngine → MatrixEngine) :
    (s.modMe fun x => x.modMtx g).me.mtx = g s.me.mtx := congrArg Pillar.mtx (s.me_modMe _)

/-! ## SPOOLCFG (R224) -/

/-- COUNTk of the operand of SPOOLCFG. -/
theorem spoolCount_eq (v : Word) (k : Nat) : v.bits (6 * k + 5) (6 * k) = v.toNat / 2 ^ (6 * k) % 64 := by
  have h : 6 * k + 5 + 1 - 6 * k = 6 := by omega
  rw [wordBits_eq, h, show 2 ^ 6 = 64 from rfl]

/-- No slot is in use: loading, building, draining or read (R224). -/
def MatrixEngine.unused (m : MatrixEngine) : Prop :=
  ∀ j, j < 32 → (m.slot j).state ≠ 1 ∧ (m.slot j).state ≠ 4 ∧ (m.slot j).state ≠ 5 ∧ (m.slot j).readers = 0

theorem MatrixEngine.not_busy_of_unused {m : MatrixEngine} (h : m.unused) :
    (m.slots.toList.any fun h => h.state == 1 || h.state == 4 || h.state == 5 || h.readers != 0) = false := by
  rw [List.any_eq_false]
  intro r hr
  obtain ⟨j, hj, rfl⟩ := List.mem_iff_getElem.mp hr
  have hj' : j < 32 := by simpa using hj
  obtain ⟨h1, h4, h5, h0⟩ := h j hj'
  have he : m.slot j = m.slots.toList[j] := by simp [MatrixEngine.slot, hj']
  rw [he] at h1 h4 h5 h0
  simp only [beq_eq_false_iff_ne.mpr h1, beq_eq_false_iff_ne.mpr h4, beq_eq_false_iff_ne.mpr h5, h0]
  decide

theorem Pillar.none_stopped {x : Pillar} (h : ∀ u, (x.strand u).rowprog.getLsbD 63 = false) :
    (x.strands.toList.all fun t => !bitOf t.rowprog.toNat 63) = true := by
  rw [List.all_eq_true]
  intro r hr
  obtain ⟨j, hj, rfl⟩ := List.mem_iff_getElem.mp hr
  have hj' : j < 4 := by simpa using hj
  have := h ⟨j, hj'⟩
  rw [bitOf_testBit, BitVec.testBit_toNat, Bool.not_eq_true']
  exact this

/-- The counts fit: none is above the number of slots, nor is their sum. -/
theorem spoolCounts_fit {v : Word} (hv : v.toNat < 2 ^ 48)
    (hsum : ((List.range 8).map fun k => v.toNat / 2 ^ (6 * k) % 64).sum ≤ 32) :
    (v.bits 63 48 == 0 && ((List.range 8).map fun j => v.bits (6 * j + 5) (6 * j)).all (· ≤ 32) &&
      decide (((List.range 8).map fun j => v.bits (6 * j + 5) (6 * j)).sum ≤ 32)) = true := by
  have htop : v.bits 63 48 = 0 := by
    rw [wordBits_eq, Nat.div_eq_of_lt hv, Nat.zero_mod]
  simp only [spoolCount_eq]
  rw [htop, decide_eq_true hsum, Bool.and_true, beq_self_eq_true, Bool.true_and, List.all_eq_true]
  exact fun c hc => decide_eq_true ((List.le_sum_of_mem hc).trans hsum)

theorem spoolsOf_spool (v : Word) {n : Nat} (hn : n < 8) (m : MatrixEngine) (slots : Vector SlotHeader 32) :
    ({ m with spools := spoolsOf v, slots := slots } : MatrixEngine).spool n =
      { out := 0, rd := 0, count := v.toNat / 2 ^ (6 * n) % 64
        base := ((List.range n).map fun k => v.toNat / 2 ^ (6 * k) % 64).sum % 32 } := by
  simp [MatrixEngine.spool, spoolsOf, hn, spoolCount_eq]

/-- The engine after SPOOLCFG. -/
def MatrixEngine.configured (m : MatrixEngine) (v : Word) : MatrixEngine :=
  { m with spools := spoolsOf v, slots := m.slots.map fun h => { h with state := 0, tag := 0 } }

theorem MatrixEngine.slot_configured (m : MatrixEngine) (v : Word) {j : Nat} (hj : j < 32) :
    (m.configured v).slot j = { m.slot j with state := 0, tag := 0 } := by
  simp [MatrixEngine.configured, MatrixEngine.slot, hj]

section
variable {f : Fields} {s : State}

theorem runs_spoolcfg (hv : (s.g f.sNum).bits.toNat < 2 ^ 48)
    (hsum : ((List.range 8).map fun k => (s.g f.sNum).bits.toNat / 2 ^ (6 * k) % 64).sum ≤ 32) (hu : s.me.mtx.unused)
    (hstop : ∀ u, (s.me.strand u).rowprog.getLsbD 63 = false) :
    Runs (.spoolcfg f) s (s.past (.spoolcfg f)
      ((s.modMe fun x => x.modMtx fun m => m.configured (s.g f.sNum).bits).issueAfter 4)) := by
  refine runs_finish (exec_spoolcfg f s) ?_
  dsimp only
  rw [spoolCounts_fit hv hsum, check_true, act_ok_bind, MatrixEngine.not_busy_of_unused hu, Pillar.none_stopped hstop]
  rfl

theorem traps_spoolcfg (hv : 2 ^ 48 ≤ (s.g f.sNum).bits.toNat) : Traps (.spoolcfg f) s 0x29 1 := by
  refine traps_finish (exec_spoolcfg f s) ?_
  have htop : (Word.bits (s.g f.sNum).bits 63 48 == 0) = false := by
    have := (s.g f.sNum).bits.isLt
    rw [wordBits_eq]
    simp only [beq_eq_false_iff_ne]
    omega
  dsimp only
  rw [htop]
  rfl

/-! ## AWAIT (R225) -/

/-- AWAIT of an offset in its spool waits for one condition. -/
theorem exec_await_inside (hk : f.immU < (s.me.mtx.spool f.dNum).count) :
    let q := s.me.mtx.spool f.dNum
    let st := (s.me.mtx.slot (q.slot f.immU)).state
    exec (.await f) s = finish (.await f) s (waitFor (decide (f.immU < q.out) && (st == 2 || st == 3)) >>= fun _ => .ok s) := by
  rw [exec_await, execAwait]
  dsimp only
  rw [if_neg (Nat.not_le.mpr hk)]

theorem traps_await (hk : (s.me.mtx.spool f.dNum).count ≤ f.immU) : Traps (.await f) s 0x29 (word (3 + f.dNum * 16)) := by
  refine traps_finish (exec_await f s) ?_
  dsimp only
  rw [if_pos hk]
  rfl

/-! ## RELEASE (R225) -/

/-- What RELEASE makes of a slot: free, or draining while it has readers. -/
def SlotHeader.released (h : SlotHeader) : SlotHeader := { h with state := if h.readers = 0 then 0 else 5 }

/-- The engine after the release of the k oldest slots of a spool. -/
def MatrixEngine.released (m : MatrixEngine) (n k : Nat) : MatrixEngine :=
  let q := m.spool n
  (((List.range k).map q.slot).foldl (fun m j => m.modSlot j SlotHeader.released) m).setSpool n
    { q with rd := if q.count = 0 then 0 else (q.rd + k) % q.count, out := q.out - k }

theorem MatrixEngine.slot_released (m : MatrixEngine) (n k : Nat) {j : Nat} (hj : j < 32) :
    (m.released n k).slot j = if j ∈ (List.range k).map (m.spool n).slot then (m.slot j).released else m.slot j := by
  unfold MatrixEngine.released
  dsimp only
  rw [MatrixEngine.slot_setSpool, MatrixEngine.slot_foldl_modSlot (g := SlotHeader.released) (fun _ => rfl) _ m hj]

theorem runs_release (hk : f.immU ≤ (s.me.mtx.spool f.dNum).out)
    (hload : ∀ i, i < f.immU → (s.me.mtx.slot ((s.me.mtx.spool f.dNum).slot i)).state ≠ 1) :
    Runs (.release f) s (s.past (.release f) (s.modMe fun x => { x with mtx := s.me.mtx.released f.dNum f.immU })) := by
  have hnone : ((List.range f.immU).map (s.me.mtx.spool f.dNum).slot).find? (fun j => (s.me.mtx.slot j).state == 1) = none := by
    rw [List.find?_eq_none]
    intro j hj
    obtain ⟨i, hi, rfl⟩ := List.mem_map.mp hj
    rw [beq_iff_eq]
    exact hload i (List.mem_range.mp hi)
  refine runs_finish (exec_release f s) ?_
  dsimp only
  rw [decide_eq_true hk, check_true, act_ok_bind, hnone]
  rfl

theorem traps_release (hk : (s.me.mtx.spool f.dNum).out < f.immU) :
    Traps (.release f) s 0x2D (word (3 + f.dNum * 16)) := by
  refine traps_finish (exec_release f s) ?_
  dsimp only
  rw [decide_eq_false (Nat.not_le.mpr hk)]
  rfl

end

theorem spoolResults : Claims.spoolResults := by
  intro f s m v c q k
  refine ⟨fun hv hsum hu hstop => ⟨_, runs_spoolcfg hv hsum hu hstop, ?_, ?_, fun n hn => ?_, fun j hj => ?_⟩,
    traps_spoolcfg, fun hk => ?await, traps_await, fun hk hout hcount hbase hd hload => ?release, traps_release⟩
  · rw [State.st_past]
  · rw [State.st_past, State.issueAfter, State.st_modSt]
    rfl
  · rw [State.mtx_past, State.issueAfter, State.mtx_modSt, State.mtx_modMtx]
    exact spoolsOf_spool v hn ..
  · rw [State.mtx_past, State.issueAfter, State.mtx_modSt, State.mtx_modMtx]
    exact m.slot_configured v hj
  case await =>
    refine ⟨fun hlt hst => runs_finish (exec_await_inside hk) ?_, fun hw => waits_finish (exec_await_inside hk) ?_⟩
    · have h2 : ((m.slot (q.slot k)).state == 2 || (m.slot (q.slot k)).state == 3) = true := by
        rwa [Bool.or_eq_true, beq_iff_eq, beq_iff_eq]
      rw [decide_eq_true hlt, h2]
      rfl
    · have hf : (decide (k < q.out) && ((m.slot (q.slot k)).state == 2 || (m.slot (q.slot k)).state == 3)) = false := by
        rw [Bool.and_eq_false_iff, decide_eq_false_iff_not, Bool.or_eq_false_iff, beq_eq_false_iff_ne, beq_eq_false_iff_ne,
          Nat.not_lt]
        exact hw
      rw [hf]
      rfl
  case release =>
    refine ⟨_, runs_release hk hload, ?_, ?_, fun i hi => ?_⟩
    · rw [State.st_past]
    · rw [State.mtx_past, State.me_modMe]
      refine (MatrixEngine.spool_setSpool _ hd _).trans ?_
      rw [if_neg (Nat.pos_iff_ne_zero.mp hcount)]
    · have hj : q.slot i < 32 := by
        have := Nat.mod_lt (q.rd + i) hcount
        unfold Spool.slot
        omega
      have hslot := m.slot_released f.dNum k hj
      rw [if_pos (List.mem_map_of_mem (List.mem_range.mpr hi))] at hslot
      rw [State.mtx_past, State.me_modMe]
      exact congrArg SlotHeader.state hslot

/-! ## The schedule check (R227) -/

theorem schedCheck_cases (s : State) (n off tag b : Nat) :
    let q := s.me.mtx.spool n
    let j := q.slot off
    let h := s.me.mtx.slot j
    let fault (reason : Nat) : Stop := .trap 0x28
      (word (tag + h.tag.toNat * 2 ^ 16 + n * 2 ^ 32 + j * 2 ^ 35 + reason * 2 ^ 40 + b * 2 ^ 43))
    (q.count ≤ off → s.schedCheck n off tag b = .error (.trap 0x29 (word (3 + n * 16)))) ∧
    (off < q.count →
      (q.out ≤ off → s.schedCheck n off tag b = .error (fault 2)) ∧
      (off < q.out → h.state = 1 → h.splitter ≠ some s.curT → s.schedCheck n off tag b = .error (fault 1)) ∧
      (off < q.out → h.state = 3 → s.schedCheck n off tag b = .error (fault 4)) ∧
      (off < q.out → h.state ≠ 1 → h.state ≠ 3 → h.tag.toNat ≠ tag → s.schedCheck n off tag b = .error (fault 3)) ∧
      (off < q.out → h.state ≠ 1 → h.state ≠ 3 → h.tag.toNat = tag → s.schedCheck n off tag b = .ok j)) := by
  intro q j h fault
  unfold State.schedCheck
  dsimp only
  refine ⟨fun hout => if_pos hout, fun hin => ?_⟩
  rw [if_neg (Nat.not_le.mpr hin)]
  refine ⟨fun ho => if_pos ho, fun ho h1 hs => ?_, fun ho h3 => ?_, fun ho h1 h3 ht => ?_, fun ho h1 h3 ht => ?_⟩
  all_goals rw [if_neg (Nat.not_le.mpr ho)]
  · exact if_pos (Bool.and_eq_true_iff.mpr ⟨decide_eq_true h1, bne_iff_ne.mpr hs⟩)
  · have h1 : ¬ h.state = 1 := by omega
    rw [decide_eq_false h1, Bool.false_and, if_neg Bool.false_ne_true, if_pos h3]
  · rw [decide_eq_false h1, Bool.false_and, if_neg Bool.false_ne_true, if_neg h3, if_pos (bne_iff_ne.mpr ht)]
  · rw [decide_eq_false h1, Bool.false_and, if_neg Bool.false_ne_true, if_neg h3, bne_eq_false_iff_eq.mpr ht,
      if_neg Bool.false_ne_true]

/-! ## SLDV and SSTV (R228) -/

/-- A bit of m. -/
theorem modBit_eq (m : BitVec 7) (i : Nat) : bitOf m.toNat i = m.getLsbD i := by rw [bitOf_testBit, BitVec.testBit_toNat]

theorem lowField_eq (v : Word) : v.bits 5 0 = v.toNat % 64 := by
  rw [wordBits_eq, Nat.pow_zero, Nat.div_one, show 2 ^ (5 + 1 - 0) = 64 from rfl]

theorem runs_sldv {f : Fields} {s : State} {j : Nat} (hlow : (s.g f.sNum).bits.toNat % 64 = 0)
    (hmid : (s.g f.sNum).bits.toNat / 2 ^ 16 % 2 ^ 32 = 0)
    (hj : s.schedCheck (f.mod.toNat % 8) ((s.g f.sNum).bits.bits 15 13) ((s.g f.sNum).bits.bits 63 48) 0 = .ok j)
    (hroom : s.canDispatch .matrix = true) :
    Runs (.sldv f) s (s.past (.sldv f)
      ((s.dispatchAs .matrix { s.capture (.sldv f) with slot := packSlots [j] }).modMe fun x =>
        x.modMtx fun m => m.enterSlots [j])) := by
  have hf : (Word.bits (s.g f.sNum).bits 5 0 == 0 && Word.bits (s.g f.sNum).bits 47 16 == 0) = true := by
    rw [lowField_eq, wordBits_eq, hlow, hmid]
    rfl
  refine runs_finish (exec_sldv f s) ?_
  dsimp only
  rw [operandCheck, hf, check_true, act_ok_bind, spoolNumber_eq, hj, act_ok_bind, State.room_ok hroom, act_ok_bind]

/-- The slot of an SSTV is being built; a seal moves its spool on (R222, R228). -/
def MatrixEngine.building (m : MatrixEngine) (n j : Nat) (q : Spool) (seal_ : Bool) : MatrixEngine :=
  let m := m.modSlot j fun h => { h with state := 4, tag := 0 }
  if seal_ = true then m.setSpool n { q with out := q.out + 1 } else m

theorem runs_sstv {f : Fields} {s : State} (hlow : (s.g f.sNum).bits.toNat % 64 = 0) (hoff : (s.g f.sNum).bits.bits 15 13 = 0)
    (hcount : (s.me.mtx.spool (f.mod.toNat % 8)).count ≠ 0)
    (hout : (s.me.mtx.spool (f.mod.toNat % 8)).out ≠ (s.me.mtx.spool (f.mod.toNat % 8)).count)
    (hroom : s.canDispatch .matrix = true) :
    let q := s.me.mtx.spool (f.mod.toNat % 8)
    let j := q.slot q.out
    (s.me.mtx.slot j).state ≠ 5 → (s.me.mtx.slot j).state ≠ 1 →
    (if f.mod.getLsbD 3 = true then sealOk (s.g f.sNum).bits = true else (s.g f.sNum).bits.toNat < 2 ^ 16) →
    Runs (.sstv f) s (s.past (.sstv f) ((s.dispatchAs .matrix { s.capture (.sstv f) with aux := j }).modMe fun x =>
      x.modMtx fun m => m.building (f.mod.toNat % 8) j q (f.mod.getLsbD 3))) := by
  intro q j h5 h1 hseal
  have hfields : (if f.mod.getLsbD 3 = true then sealOk (s.g f.sNum).bits else Word.bits (s.g f.sNum).bits 63 16 == 0) = true := by
    by_cases hb : f.mod.getLsbD 3 = true
    · rw [if_pos hb] at hseal ⊢
      exact hseal
    · rw [if_neg hb] at hseal ⊢
      rw [wordBits_eq, Nat.div_eq_of_lt hseal, Nat.zero_mod, beq_self_eq_true]
  have hstate : ((s.me.mtx.slot j).state != 5 && (s.me.mtx.slot j).state != 1) = true :=
    Bool.and_eq_true_iff.mpr ⟨bne_iff_ne.mpr h5, bne_iff_ne.mpr h1⟩
  refine runs_finish (exec_sstv f s) ?_
  dsimp only
  rw [spoolNumber_eq, modBit_eq, lowField_eq, hlow, hoff, hfields]
  dsimp only [operandCheck]
  rw [if_neg hcount, bne_iff_ne.mpr hout, hstate, State.room_ok hroom]
  rfl

theorem slotTransfers : Claims.slotTransfers := by
  intro f s m v n q
  exact ⟨schedCheck_cases s n, fun j => runs_sldv, fun hlow hoff hcount hout hroom hw hseal =>
    runs_sstv hlow hoff hcount hout hroom hw.1 hw.2 hseal⟩

/-- Settles O24: the spools and the slots are read back after each update, and the schedule check has one answer in each case. -/
theorem spoolAndSlotResults : Obligations.SpoolAndSlotResults := ⟨spoolResults, slotTransfers⟩

end Sys2Proof.Machine
end

section
/-! PROOFS. Dispatch to the matrix engine: the products, MZERO and the tile moves (R229, R230, R233, R235, R236, R237, R238, R240,
R242). -/

set_option Elab.async false

namespace Sys2Proof.Machine

/-! ## Checks of operands, tiles and looms (R227, R230, R240) -/

theorem operandCheck_true (c : Nat) : operandCheck true c = .ok () := rfl

/-- A check of operands that pass. -/
theorem operandCheck_of {ok : Bool} (h : ok = true) (c : Nat) : operandCheck ok c = .ok () := by
  rw [h, operandCheck_true]

/-- Fields above the bits of a number below a power of two are zero. -/
theorem topField_zero {v : Word} {l : Nat} (h : v.toNat < 2 ^ l) (n : Nat) : (v.bits n l == 0) = true := by
  rw [wordBits_eq, Nat.div_eq_of_lt h, Nat.zero_mod]
  rfl

theorem State.inFlight_ok {s : State} {member : Bool} {tiles : List Nat}
    (h : ∀ t ∈ tiles, s.me.tileFree s.curT member t = true) : s.inFlight member tiles = .ok () := by
  have hn : tiles.find? (fun a => !s.me.tileFree s.curT member a) = none := by
    rw [List.find?_eq_none]
    intro t ht
    rw [h t ht]
    exact Bool.false_ne_true
  rw [State.inFlight, hn]

theorem State.inFlight_one {s : State} {member : Bool} {t : Nat} (h : s.me.tileFree s.curT member t = true) :
    s.inFlight member [t] = .ok () :=
  State.inFlight_ok (List.forall_mem_singleton.mpr h)

theorem State.inFlight_taken {s : State} {member : Bool} {t : Nat} (h : s.me.tileFree s.curT member t = false) :
    s.inFlight member [t] = .error (.trap 0x2B (s.me.inFlightTval t)) := by
  rw [State.inFlight, List.find?_cons_of_pos (by rw [h]; rfl)]

/-- The second spool of a product stands above the first in m (R235). -/
theorem secondSpool_eq (m : BitVec 7) : bitsOf m.toNat 5 3 = m.toNat / 8 % 8 := bitsOf_eq ..

/-! ## MMA and MMABS (R235) -/

theorem exec_products : ∀ e ∈ [((Instr.mma : Fields → Instr), false), (.mmabs, true)],
    ∀ f s, exec (e.1 f) s = mmaIssue (e.1 f) f e.2 s := by
  simp only [List.forall_mem_cons, List.not_mem_nil, false_imp_iff, implies_true, and_true]
  exact ⟨exec_mma, exec_mmabs⟩

/-- What the dispatch of a product leaves: its slots with a reader each, its tiles in the open batch. -/
def State.productIssued (s : State) (i : Instr) (f : Fields) (a b : Nat) (tiles : List Nat) : State :=
  let d := s.capture i
  (((s.dispatchAs .matrix { d with
      slot := packSlots [a, b], read := s.me.mtx.shapeOf [a, b], interval := s.loomInterval }).modMe fun y =>
    y.modMtx fun m => m.enterSlots [a, b]).joinBatch d.seq tiles).countLoom (f.mod.getLsbD 6)

/-- The part of a product's dispatch behind the checks of its operands: its loom, its tiles, room (R230, R235, R240). -/
def State.productTail (s : State) (i : Instr) (f : Fields) (a b : Nat) : Act State := do
  let size ← if f.mod.getLsbD 6 then s.loomCheck else (.ok 1 : Act Nat)
  if f.mod.getLsbD 6 && f.dNum + size > 16 then .error (loomFault 8)
  let tiles := (List.range size).map (f.dNum + ·)
  operandCheck (tiles.all fun t => (s.me.mtx.tile t).kind == kindFor (s.capture i).ma) 4
  s.inFlight true tiles
  s.room .matrix
  .ok (s.productIssued i f a b tiles)

theorem State.productTail_ok {s : State} {i : Instr} {f : Fields} {a b size : Nat} (hroom : s.canDispatch .matrix = true)
    (hsize : Claims.productTiles f s size)
    (hkind : ∀ t ∈ (List.range size).map (f.dNum + ·), (s.me.mtx.tile t).kind = kindFor (s.capture i).ma)
    (hfree : ∀ t ∈ (List.range size).map (f.dNum + ·), s.me.tileFree s.curT true t = true) :
    s.productTail i f a b = .ok (s.productIssued i f a b ((List.range size).map (f.dNum + ·))) := by
  have hk : (((List.range size).map (f.dNum + ·)).all fun t => (s.me.mtx.tile t).kind == kindFor (s.capture i).ma) = true :=
    List.all_eq_true.mpr fun t ht => beq_iff_eq.mpr (hkind t ht)
  unfold Claims.productTiles at hsize
  unfold State.productTail
  cases hl : f.mod.getLsbD 6 with
  | true =>
    rw [if_pos hl] at hsize
    obtain ⟨hcheck, hfit⟩ := hsize
    have hfit' : decide (f.dNum + size > 16) = false := decide_eq_false (Nat.not_lt.mpr hfit)
    simp only [if_true, hcheck, act_ok_bind, hfit', Bool.and_false, Bool.false_eq_true, if_false, hk, operandCheck_true,
      State.inFlight_ok hfree, State.room_ok hroom]
  | false =>
    rw [if_neg (by rw [hl]; exact Bool.false_ne_true)] at hsize
    subst hsize
    simp only [Bool.false_eq_true, if_false, Bool.false_and, act_ok_bind, hk, operandCheck_true,
      State.inFlight_ok hfree, State.room_ok hroom]

/-- The operands of a captured product, in two slots, pass its checks (R227, R235). -/
structure State.ProductReady (s : State) (d : Dispatched) (f : Fields) (scaled : Bool) (a b : Nat) : Prop where
  formats : if scaled then d.ma = .e2m1 ∧ d.mb = .e2m1 else mmaPair d.ma d.mb = true
  reservedS : d.gs.bits.toNat < 2 ^ 38
  reservedT : d.gt.bits.toNat < 2 ^ 40
  slotA : s.schedCheck (f.mod.toNat % 8) (d.gs.bits.bits 34 32) (d.gs.bits.bits 15 0) 0 = .ok a
  slotB : s.schedCheck (f.mod.toNat / 8 % 8) (d.gs.bits.bits 37 35) (d.gs.bits.bits 31 16) 1 = .ok b
  typeA : typeCode (s.me.mtx.slot a).type = d.ma
  typeB : typeCode (s.me.mtx.slot b).type = d.mb
  fits : (geometryOf d.gt.bits).fits (s.me.mtx.slot a) (s.me.mtx.slot b) d.ma.width d.mb.width = true
  scales : scaled = true → (geometryOf d.gt.bits).bkm = true ∧ (geometryOf d.gt.bits).k0 = 0 ∧ (geometryOf d.gt.bits).k % 32 = 0 ∧
    (geometryOf d.gt.bits).k * 17 / 32 ≤ (s.me.mtx.slot a).olen ∧ (geometryOf d.gt.bits).k * 17 / 32 ≤ (s.me.mtx.slot b).olen

/-- Behind the checks of its operands, a product goes on with its loom, its tiles and room. -/
theorem mmaIssue_ready {i : Instr} {f : Fields} {s : State} {scaled : Bool} {a b : Nat}
    (hr : s.ProductReady (s.capture i) f scaled a b) : mmaIssue i f scaled s = finish i s (s.productTail i f a b) := by
  obtain ⟨hfmt, hx, hy, ha, hb, hta, htb, hfit, hscale⟩ := hr
  have hformats : (if scaled then (s.capture i).ma == .e2m1 && (s.capture i).mb == .e2m1
      else mmaPair (s.capture i).ma (s.capture i).mb) = true := by
    cases scaled with
    | true => simpa using hfmt
    | false => simpa using hfmt
  unfold mmaIssue
  dsimp only
  rw [hformats, check_true, act_ok_bind, topField_zero hx, topField_zero hy, Bool.and_self, operandCheck_true, act_ok_bind,
    spoolNumber_eq, ha, act_ok_bind, secondSpool_eq, hb, act_ok_bind, beq_iff_eq.mpr hta, beq_iff_eq.mpr htb, Bool.and_self,
    operandCheck_true, act_ok_bind, hfit, operandCheck_true, act_ok_bind, operandCheck_of ?scales, act_ok_bind, modBit_eq]
  case scales =>
    cases scaled with
    | false => rfl
    | true =>
      obtain ⟨h1, h2, h3, h4, h5⟩ := hscale rfl
      simp [h1, h2, h3, h4, h5]
  rfl

/-! ## MMV and MZERO (R236, R237) -/

theorem runs_mmv {f : Fields} {s : State} {a : Nat} (hroom : s.canDispatch .matrix = true) :
    let d := s.capture (.mmv f)
    let x := d.gs.bits
    let k := x.bits 37 31 + 1
    let h := s.me.mtx.slot a
    let l := 512 / d.mb.width
    mmaPair d.ma d.mb = true → x.toNat < 2 ^ 46 →
    s.schedCheck (f.mod.toNat % 8) (x.bits 18 16) (x.bits 15 0) 0 = .ok a → typeCode h.type = d.ma →
    x.bits 24 19 + 1 ≤ h.orows → (32 * x.bits 45 38 + k) * d.ma.width ≤ h.olen * 8 → k ≤ 2 * l →
    (k ≤ l ∨ f.tNum % 2 = 0) → (s.me.mtx.tile f.dNum).kind = kindFor d.ma → s.me.tileFree s.curT true f.dNum = true →
    Runs (.mmv f) s (s.past (.mmv f) (((s.dispatchAs .matrix { d with slot := packSlots [a], read := s.me.mtx.shapeOf [a] }).modMe
      fun y => y.modMtx fun m => m.enterSlots [a]).joinBatch d.seq [f.dNum])) := by
  intro d x k h l hpair hx ha ht hrows hlen hk hl hkind hfree
  have hlanes : (decide (k ≤ 2 * lanesOf d.mb.width) && (decide (k ≤ lanesOf d.mb.width) || f.tNum % 2 == 0)) = true := by
    rw [Bool.and_eq_true, Bool.or_eq_true, decide_eq_true_eq, decide_eq_true_eq, beq_iff_eq]
    exact ⟨hk, hl⟩
  refine runs_finish (exec_mmv f s) ?_
  dsimp only
  rw [hpair, check_true, act_ok_bind, operandCheck_of (topField_zero hx 63), act_ok_bind, spoolNumber_eq, ha, act_ok_bind,
    operandCheck_of (beq_iff_eq.mpr ht), act_ok_bind,
    operandCheck_of (Bool.and_eq_true_iff.mpr ⟨decide_eq_true hrows, decide_eq_true hlen⟩), act_ok_bind, operandCheck_of hlanes,
    act_ok_bind, operandCheck_of (beq_iff_eq.mpr hkind), act_ok_bind, State.inFlight_one hfree, act_ok_bind, State.room_ok hroom,
    act_ok_bind]

theorem runs_mzero {f : Fields} {s : State} (hroom : s.canDispatch .matrix = true)
    (hfree : s.me.tileFree s.curT true f.dNum = true) :
    Runs (.mzero f) s (s.past (.mzero f) (((s.dispatch .matrix (.mzero f)).modMe fun x =>
      x.modMtx fun m => m.modTile f.dNum fun h => { h with kind := if typeOf .f32 f = .i32 then 0 else 1, plies := 0 }).joinBatch
        s.me.seqCounter [f.dNum])) := by
  refine runs_finish (exec_mzero f s) ?_
  dsimp only
  rw [State.inFlight_one hfree, act_ok_bind, State.room_ok hroom, act_ok_bind, (State.capture_strand s (.mzero f)).1]
  simp only [beq_iff_eq]
  rfl

theorem traps_mzero {f : Fields} {s : State} (hfree : s.me.tileFree s.curT true f.dNum = false) :
    Traps (.mzero f) s 0x2B (s.me.inFlightTval f.dNum) := by
  refine traps_finish (exec_mzero f s) ?_
  rw [State.inFlight_taken hfree, act_error_bind]

theorem productDispatch : Claims.productDispatch := by
  intro f s hroom
  refine ⟨fun e he a b size => ?product, fun a => runs_mmv hroom, runs_mzero hroom, traps_mzero⟩
  intro i d g x tiles hfmt hx hy ha hb hta htb hfit hscale hsize hkind hfree
  exact runs_finish ((exec_products e he f s).trans (mmaIssue_ready ⟨hfmt, hx, hy, ha, hb, hta, htb, hfit, hscale⟩))
    (State.productTail_ok hroom hsize hkind hfree)

/-! ## MLD, MST and DRAIN (R238, R242) -/

/-- The dispatched move between a tile and local store, with the tile MOVING. -/
def State.moveIssued (s : State) (i : Instr) (f : Fields) (ty : EType) (ea : Nat) : State :=
  (s.dispatchAs .matrix
    { s.capture i with slot := ea, aux := ty.code.toNat + 16 * (moveRows f * 64 * (ty.width / 8)) }).startMove f.dNum

section
variable {f : Fields} {s : State} {ty : EType} (hroom : s.canDispatch .matrix = true) (hrows : moveRow0 f + moveRows f ≤ 64)
  (hfree : s.me.tileFree s.curT false f.dNum = true) (hty : moveType (s.me.mtx.tile f.dNum).kind f = .ok ty)

include hty in
/-- The checks of the range of a move pass for whole rows at an aligned address outside the code (R135, R238). -/
theorem State.moveCheck_ok {ea : Word} (hal : ea.toNat % 8 = 0) (hxb : s.me.xb ≤ ea.toNat)
    (hend : ea.toNat + moveRows f * 64 * (ty.width / 8) ≤ lsEnd) : s.moveCheck f ea = .ok () := by
  rw [State.moveCheck, beq_iff_eq.mpr hal, check_true, act_ok_bind, moveBytes, hty]
  dsimp only
  rw [Pillar.lsFault_none hxb hend]

section
variable (hclean : s.addrClean f) (hal : (s.effAddr f).toNat % 8 = 0) (hxb : s.me.xb ≤ (s.effAddr f).toNat)
  (hend : (s.effAddr f).toNat + moveRows f * 64 * (ty.width / 8) ≤ lsEnd)
  (hbusy : s.me.vectorBusy s.curT (s.effAddr f).toNat (moveRows f * 64 * (ty.width / 8)) = false)
include hroom hrows hfree hty hclean hal hxb hend hbusy

theorem runs_mld (hload : moveFloat ty = true ∨ ty = .i32)
    (hkind : moveRows f = 64 ∨ moveKind ty = (s.me.mtx.tile f.dNum).kind) :
    Runs (.mld f) s (s.past (.mld f) (if moveRows f = 64 then
      (s.moveIssued (.mld f) f ty (s.effAddr f).toNat).modMe fun x => x.modMtx fun m =>
        m.modTile f.dNum fun h => { h with kind := moveKind ty, pair := 0, steps := 0, plies := 0 }
      else s.moveIssued (.mld f) f ty (s.effAddr f).toNat)) := by
  have h5 : (moveFloat ty || ty == .i32) = true := by rwa [Bool.or_eq_true, beq_iff_eq]
  have h4 : (moveRows f == 64 || moveKind ty == (s.me.mtx.tile f.dNum).kind) = true := by
    rwa [Bool.or_eq_true, beq_iff_eq, beq_iff_eq]
  refine runs_finish (exec_mld f s) ?_
  dsimp only
  rw [State.mAddr_clean hclean, act_ok_bind, State.moveCheck_ok hty hal hxb hend, act_ok_bind, hty, act_ok_bind,
    operandCheck_of (decide_eq_true hrows), act_ok_bind, operandCheck_of h5, act_ok_bind, operandCheck_of h4, act_ok_bind,
    State.inFlight_one hfree, act_ok_bind, State.vectorDone_ok hbusy, act_ok_bind, State.room_ok hroom, act_ok_bind]
  rfl

theorem runs_mst (hstore : storeTypeOk (s.me.mtx.tile f.dNum).kind ty = true) :
    Runs (.mst f) s (s.past (.mst f) (s.moveIssued (.mst f) f ty (s.effAddr f).toNat)) := by
  refine runs_finish (exec_mst f s) ?_
  dsimp only
  rw [State.mAddr_clean hclean, act_ok_bind, State.moveCheck_ok hty hal hxb hend, act_ok_bind, hty, act_ok_bind,
    operandCheck_of (decide_eq_true hrows), act_ok_bind, operandCheck_of hstore, act_ok_bind,
    State.inFlight_one hfree, act_ok_bind, State.vectorDone_ok hbusy, act_ok_bind, State.room_ok hroom, act_ok_bind]
  rfl

end

include hroom hrows hfree hty in
theorem runs_drain (hstore : storeTypeOk (s.me.mtx.tile f.dNum).kind ty = true)
    (hfields : drainFields (f.mod.getLsbD 6) (s.capture (.drain f)).gs.bits (s.capture (.drain f)).gt.bits (ty.width / 8) = true) :
    Runs (.drain f) s (s.past (.drain f)
      ((s.dispatchAs .matrix { s.capture (.drain f) with aux := ty.code.toNat }).startMove f.dNum)) := by
  refine runs_finish (exec_drain f s) ?_
  dsimp only
  rw [hty, act_ok_bind, operandCheck_of (decide_eq_true hrows), act_ok_bind, operandCheck_of hstore, act_ok_bind, modBit_eq,
    operandCheck_of hfields, act_ok_bind, State.inFlight_one hfree, act_ok_bind, State.room_ok hroom, act_ok_bind]

end

theorem tileMoveDispatch : Claims.tileMoveDispatch := by
  intro f s ty hroom hrows hfree hty kind ea len at_
  refine ⟨fun hclean hal hxb hend hbusy => ⟨fun hload => ⟨fun hr hk => ?part, fun hr => ?whole⟩, ?store⟩,
    runs_drain hroom hrows hfree hty⟩
  case part =>
    have h := runs_mld hroom hrows hfree hty hclean hal hxb hend hbusy hload (.inr hk)
    rwa [if_neg hr] at h
  case whole =>
    have h := runs_mld hroom hrows hfree hty hclean hal hxb hend hbusy hload (.inl hr)
    rwa [if_pos hr] at h
  case store => exact runs_mst hroom hrows hfree hty hclean hal hxb hend hbusy

/-- Settles O25: the checks of each form in their order, and then one dispatch. -/
theorem matrixDispatch : Obligations.MatrixDispatch := ⟨productDispatch, tileMoveDispatch⟩

end Sys2Proof.Machine
end

section
/-! PROOFS. Batches and looms: MCOMMIT and MWAIT, LOOMJOIN, LOOMGO and LOOMSPLIT (R233, R234, R239, R240, R241, R245). -/

set_option Elab.async false

namespace Sys2Proof.Machine

/-! ## MCOMMIT and MWAIT (R233, R234) -/

section
variable (f : Fields) (s : State)

theorem runs_mcommit (hd : s.destFree f.dNum) (hfour : (s.st.batches.last - s.st.batches.done).toNat < 4) :
    let b := s.st.batches
    let c : Batches :=
      { b with last := b.last + 1, committed := b.committed ++ [{ b.current with number := b.last + 1 }], current := {} }
    Runs (.mcommit f) s (s.past (.mcommit f)
      ((s.modSt fun t => { t with batches := c.settle }).setG f.dNum { bits := (b.last + 1).setWidth 64 })) := by
  refine runs_finish (exec_mcommit f s) ?_
  rw [State.destOk_free hd, act_ok_bind]
  dsimp only
  rw [decide_eq_true hfour, waitFor_true, act_ok_bind]
  rfl

theorem waits_mcommit (hd : s.destFree f.dNum) (hfour : 4 ≤ (s.st.batches.last - s.st.batches.done).toNat) :
    Waits (.mcommit f) s := by
  refine waits_finish (exec_mcommit f s) ?_
  rw [State.destOk_free hd, act_ok_bind]
  dsimp only
  rw [decide_eq_false (Nat.not_lt.mpr hfour), waitFor_false, act_error_bind]

/-- MWAIT goes by the batch of a number: the last one for zero (R234). -/
theorem exec_mwait_of {n : BitVec 32}
    (hn : (if ((s.g f.sNum).bits.setWidth 32 : BitVec 32) = 0 then s.st.batches.last else (s.g f.sNum).bits.setWidth 32) = n) :
    exec (.mwait f) s = finish (.mwait f) s (
      operandCheck (decide ((s.st.batches.last - n).toNat < 2 ^ 31)) 1 >>= fun _ =>
      waitFor (decide ((s.st.batches.done - n).toNat < 2 ^ 31)) >>= fun _ => s.noLates >>= fun _ => .ok s) := by
  subst hn
  rw [exec_mwait, execMwait]
  simp only [beq_iff_eq]

end

theorem batchResults : Claims.batchResults := by
  intro f s b v n
  have he := exec_mwait_of f s (n := n) rfl
  refine ⟨fun hd => ⟨runs_mcommit f s hd, waits_mcommit f s hd⟩, fun hgiven hlate =>
    ⟨fun hdone => runs_finish he ?_, fun hdone => waits_finish he ?_⟩, fun hgiven => traps_finish he ?_⟩
  · rw [decide_eq_true hgiven, decide_eq_true hdone, State.noLates, hlate]
    rfl
  · rw [decide_eq_true hgiven, decide_eq_false (Nat.not_lt.mpr hdone)]
    rfl
  · rw [decide_eq_false (Nat.not_lt.mpr hgiven)]
    rfl

/-! ## Claims after an update (R239) -/

theorem State.claimOf_modPil (s : State) (p q : PillarId) (g : Pillar → Pillar) :
    (s.modPil p g).claimOf q = if q = p then (g (s.pil p)).mtx.loom else s.claimOf q := by
  unfold State.claimOf
  split
  · next h =>
    subst h
    rw [State.pil_modPil]
  · next h => rw [State.pil_modPil_other s g h]

theorem State.claimOf_modLoom (s : State) (p q : PillarId) (g : Loom → Loom) :
    (s.modLoom p g).claimOf q = if q = p then (s.claimOf q).map g else s.claimOf q := by
  rw [State.modLoom, State.claimOf_modPil]
  split
  · next h =>
    subst h
    rfl
  · rfl

/-- A change that is the same when it is made twice reaches the claim of each pillar of a list. -/
theorem State.claimOf_foldl_modLoom {g : Loom → Loom} (hg : ∀ o, g (g o) = g o) (l : List PillarId) (s : State) (q : PillarId) :
    (l.foldl (fun s q => s.modLoom q g) s).claimOf q = if q ∈ l then (s.claimOf q).map g else s.claimOf q := by
  have hgg : g ∘ g = g := funext hg
  induction l generalizing s with
  | nil => rfl
  | cons a l ih =>
    rw [List.foldl_cons, ih, State.claimOf_modLoom]
    by_cases ha : q = a <;> by_cases hl : q ∈ l <;> simp [ha, hl, hgg]

/-- An update that leaves the matrix engine leaves the claims. -/
theorem State.claimOf_modPil_of_mtx (s : State) (p q : PillarId) {g : Pillar → Pillar} (hg : ∀ x, (g x).mtx = x.mtx) :
    (s.modPil p g).claimOf q = s.claimOf q := by
  rw [State.claimOf_modPil]
  split
  · next h =>
    subst h
    rw [hg]
    rfl
  · rfl

theorem State.claimOf_modSt (s : State) (g : Strand → Strand) (q : PillarId) : (s.modSt g).claimOf q = s.claimOf q :=
  s.claimOf_modPil_of_mtx _ q fun _ => Pillar.modStrand_mtx ..

theorem State.claimOf_count (s : State) (n k : Nat) (q : PillarId) : (s.count n k).claimOf q = s.claimOf q :=
  s.claimOf_modPil_of_mtx _ q fun _ => rfl

theorem SameStrands.modLoom {s t : State} (h : SameStrands s t) {p : PillarId} {g : Loom → Loom} : SameStrands s (t.modLoom p g) :=
  h.modPil fun _ => rfl

theorem SameStrands.nextPc {s t : State} (h : SameStrands s t) (i : Instr) : t.nextPc i = s.nextPc i :=
  State.nextPc_congr (congrArg Strand.pc h.st) i

theorem State.aclk_foldl_modLoom (s : State) (l : List PillarId) (g : Loom → Loom) (p : PillarId) :
    (l.foldl (fun s q => s.modLoom q g) s).aclk p = s.aclk p := by
  induction l generalizing s with
  | nil => rfl
  | cons a l ih => exact ih (s.modLoom a g)

/-! ## The end of a LOOMJOIN or a LOOMGO (R239, R240, R245) -/

/-- The strand goes on at a PC after the 8 clk of a loom, which are counted. -/
def State.loomDone (s : State) (pc : LsAddr) : State := ((s.setPc pc).issueAfter 8).count 0x486 8

theorem State.st_loomDone (s : State) (pc : LsAddr) :
    (s.loomDone pc).st.pc = pc ∧ (s.loomDone pc).st.notBefore = s.aclk s.curP + 8 := by
  rw [State.loomDone, State.st_count, State.issueAfter, State.st_modSt, State.setPc, State.st_modSt]
  exact ⟨rfl, rfl⟩

theorem State.claimOf_loomDone (s : State) (pc : LsAddr) (q : PillarId) : (s.loomDone pc).claimOf q = s.claimOf q := by
  rw [State.loomDone, State.claimOf_count, State.issueAfter, State.claimOf_modSt, State.setPc, State.claimOf_modSt]

theorem SameStrands.st_waitIn {s t : State} (h : SameStrands s t) (i : Instr) :
    (t.waitIn i).st.pc = s.st.pc ∧ (t.waitIn i).st.blocked = .wait i := by
  rw [State.waitIn, State.st_modSt, h.st]
  exact ⟨rfl, rfl⟩

/-! ## LOOMJOIN (R239) -/

/-- The state in which a pillar's claim is published. -/
def State.claimed (s : State) (p : PillarId) (l : Loom) : State := s.modPil p fun x => x.modMtx fun m => { m with loom := some l }

theorem State.claimOf_claimed (s : State) (p q : PillarId) (l : Loom) :
    (s.claimed p l).claimOf q = if q = p then some l else s.claimOf q := State.claimOf_modPil ..

theorem sameStrands_claimed (s : State) (p : PillarId) (l : Loom) : SameStrands s (s.claimed p l) :=
  (SameStrands.refl s).modPil fun _ => rfl

/-- The loom of a list of members has formed. -/
def State.formLoom (s : State) (ms : List PillarId) : State := ms.foldl (fun s q => s.modLoom q fun o => { o with formed := true }) s

theorem State.claimOf_formLoom (s : State) (ms : List PillarId) (q : PillarId) : (s.formLoom ms).claimOf q =
    if q ∈ ms then (s.claimOf q).map fun o => { o with formed := true } else s.claimOf q :=
  State.claimOf_foldl_modLoom (g := fun o => { o with formed := true }) (fun _ => rfl) ms s q

section
variable {s : State} {p : PillarId} {l : Loom} (hn : s.loomConflicts p l = [])
include hn

/-- The last claim of a loom forms it. -/
theorem State.publishClaim_last (hp : l.formed = false)
    (hall : ∀ q ∈ l.members, q ≠ p → ∃ o, s.claimOf q = some o ∧ o.members = l.members ∧ o.formed = false) :
    s.publishClaim p l = .ok ((s.claimed p l).formLoom l.members) := by
  have ha : (l.members.all fun q => match (s.claimed p l).claimOf q with
      | some o => o.members == l.members && !o.formed | none => false) = true := by
    rw [List.all_eq_true]
    intro q hq
    rw [State.claimOf_claimed]
    by_cases hqp : q = p
    · rw [if_pos hqp]
      simp [hp]
    · obtain ⟨o, ho, hm, hf⟩ := hall q hq hqp
      rw [if_neg hqp, ho]
      simp [hm, hf]
  unfold State.publishClaim
  rw [hn]
  exact if_pos ha

/-- A claim that others of its loom do not share yet stands alone. -/
theorem State.publishClaim_early
    (hone : ∃ q ∈ l.members, q ≠ p ∧ ∀ o, s.claimOf q = some o → o.members ≠ l.members ∨ o.formed = true) :
    s.publishClaim p l = .ok (s.claimed p l) := by
  obtain ⟨q, hq, hqp, hno⟩ := hone
  have ha : (l.members.all fun q => match (s.claimed p l).claimOf q with
      | some o => o.members == l.members && !o.formed | none => false) = false := by
    rw [List.all_eq_false]
    refine ⟨q, hq, ?_⟩
    rw [State.claimOf_claimed, if_neg hqp]
    cases ho : s.claimOf q with
    | none => exact Bool.false_ne_true
    | some o => obtain h | h := hno o ho <;> simp [h]
  unfold State.publishClaim
  rw [hn]
  exact if_neg fun h => Bool.false_ne_true (ha.symm.trans h)

end

theorem State.publishClaim_conflict {s : State} {p : PillarId} {l : Loom} (hn : s.loomConflicts p l ≠ []) :
    s.publishClaim p l = .error ((s.loomConflicts p l).foldl State.refuseClaim s) :=
  if_neg (by rw [List.isEmpty_iff]; exact hn)

section
variable {f : Fields} {s : State}

/-- The members that the operand of a LOOMJOIN names. -/
def State.loomNamed (s : State) (f : Fields) : Option (List PillarId) :=
  s.loomMembers s.curP ((s.g f.sNum).bits.bits 4 0) ((s.g f.sNum).bits.bits 8 5 + 1)

/-- The claim of a LOOMJOIN that names some members. -/
def State.ownClaim (s : State) (f : Fields) (ms : List PillarId) : Loom :=
  { col0 := (s.g f.sNum).bits.bits 4 0, members := ms, strand := s.curT }

/-- A LOOMJOIN has joined its loom. -/
def State.joined (s : State) : State := s.modLoom s.curP fun l => { l with joined := true }

theorem loomReserved_eq {v : Word} : (v.bits 63 9 != 0) = decide (512 ≤ v.toNat) := by
  have := v.isLt
  rw [Bool.eq_iff_iff, bne_iff_ne, decide_eq_true_eq, wordBits_eq]
  omega

theorem traps_loomjoin (h : 512 ≤ (s.g f.sNum).bits.toNat ∨ s.loomNamed f = none) : Traps (.loomjoin f) s 0x2E 1 := by
  refine traps_finishAt (exec_loomjoin f s) ?_
  dsimp only
  rw [loomReserved_eq]
  by_cases hv : 512 ≤ (s.g f.sNum).bits.toNat
  · rw [decide_eq_true hv]
    rfl
  · have hn := h.resolve_left hv
    unfold State.loomNamed at hn
    rw [decide_eq_false hv, hn]
    rfl

/-- LOOMJOIN with a claim on some members: on a pillar with a claim, and on one that publishes its own. -/
def State.joinNamed (s : State) (f : Fields) (ms : List PillarId) : Act State :=
  let join := Instr.loomjoin f
  match s.me.mtx.loom with
  | some l =>
    if l.members != ms then .error (loomFault 3)
    else if l.broken then .error (loomFault 7)
    else if l.joined then .ok (s.past join s)
    else if l.formed then .ok (s.joined.loomDone (s.nextPc join))
    else .ok (s.waitIn join)
  | none =>
    match s.publishClaim s.curP (s.ownClaim f ms) with
    | .error t => .ok (t.takeTrap { cause := 0x2E, tval := 2 })
    | .ok t =>
      if ((t.me.mtx.loom).map (·.formed)).getD false then .ok (t.joined.loomDone (t.nextPc join)) else .ok (t.waitIn join)

variable {ms : List PillarId} (hv : (s.g f.sNum).bits.toNat < 512) (hms : s.loomNamed f = some ms)
include hv hms

theorem exec_loomjoin_named : exec (.loomjoin f) s = finishAt (.loomjoin f) s (s.joinNamed f ms) := by
  unfold State.loomNamed at hms
  rw [exec_loomjoin, execLoomjoin]
  dsimp only
  rw [loomReserved_eq, decide_eq_false (Nat.not_le.mpr hv), hms]
  rfl

theorem loomjoin_again {l : Loom} (hl : s.me.mtx.loom = some l) :
    (l.members ≠ ms → Traps (.loomjoin f) s 0x2E 3) ∧
    (l.members = ms → l.broken = true → Traps (.loomjoin f) s 0x2E 7) ∧
    (l.members = ms → l.broken = false →
      (l.joined = true → Runs (.loomjoin f) s (s.past (.loomjoin f) s)) ∧
      (l.joined = false → l.formed = true → Runs (.loomjoin f) s (s.joined.loomDone (s.nextPc (.loomjoin f)))) ∧
      (l.joined = false → l.formed = false → Waits (.loomjoin f) s)) := by
  have he := exec_loomjoin_named hv hms
  rw [State.joinNamed, hl] at he
  refine ⟨fun hm => traps_finishAt he ?_, fun hm hb => traps_finishAt he ?_, fun hm hb =>
    ⟨fun hj => runs_finishAt he ?_, fun hj hf => runs_finishAt he ?_, fun hj hf => runs_finishAt (t := s.waitIn _) he ?_⟩⟩ <;>
    dsimp only
  · rw [bne_iff_ne.mpr hm]
    rfl
  · rw [bne_eq_false_iff_eq.mpr hm, hb]
    rfl
  · rw [bne_eq_false_iff_eq.mpr hm, hb, hj]
    rfl
  · rw [bne_eq_false_iff_eq.mpr hm, hb, hj, hf]
    rfl
  · rw [bne_eq_false_iff_eq.mpr hm, hb, hj, hf]
    rfl

/-- LOOMJOIN that publishes its claim. -/
theorem exec_loomjoin_published (hl : s.me.mtx.loom = none) {t : State} (ht : s.publishClaim s.curP (s.ownClaim f ms) = .ok t) :
    exec (.loomjoin f) s = .next (if ((t.me.mtx.loom).map (·.formed)).getD false then t.joined.loomDone (t.nextPc (.loomjoin f))
      else t.waitIn (.loomjoin f)) := by
  rw [exec_loomjoin_named hv hms, State.joinNamed, hl]
  dsimp only
  rw [ht]
  dsimp only
  split <;> rfl

/-- LOOMJOIN whose claim is refused. -/
theorem runs_loomjoin_conflict (hl : s.me.mtx.loom = none) (hc : s.loomConflicts s.curP (s.ownClaim f ms) ≠ []) :
    Runs (.loomjoin f) s
      (((s.loomConflicts s.curP (s.ownClaim f ms)).foldl State.refuseClaim s).takeTrap { cause := 0x2E, tval := 2 }) := by
  refine runs_finishAt (exec_loomjoin_named hv hms) ?_
  rw [State.joinNamed, hl]
  dsimp only
  rw [State.publishClaim_conflict hc]

omit hv in
/-- The pillar stands among the members that it names. -/
theorem mem_of_loomNamed : s.curP ∈ ms := by
  unfold State.loomNamed State.loomMembers at hms
  simp only [Option.bind_eq_bind, Option.bind_eq_some_iff] at hms
  obtain ⟨j, -, r, -, h⟩ := hms
  split at h
  · cases h
  · next hc =>
    cases h
    rw [Bool.or_eq_true, Bool.or_eq_true, not_or, not_or] at hc
    obtain ⟨⟨-, hmem⟩, -⟩ := hc
    simpa using hmem

theorem loomjoin_last (hl : s.me.mtx.loom = none) (hc : s.loomConflicts s.curP (s.ownClaim f ms) = [])
    (hall : ∀ q ∈ ms, q ≠ s.curP → ∃ o, s.claimOf q = some o ∧ o.members = ms ∧ o.formed = false) :
    ∃ t, Runs (.loomjoin f) s t ∧ t.st.pc = s.nextPc (.loomjoin f) ∧ t.st.notBefore = s.aclk s.curP + 8 ∧
      ∀ q ∈ ms, (t.claimOf q).map (·.formed) = some true := by
  have ht : s.publishClaim s.curP (s.ownClaim f ms) = .ok ((s.claimed s.curP (s.ownClaim f ms)).formLoom ms) :=
    State.publishClaim_last hc rfl hall
  generalize htt : (s.claimed s.curP (s.ownClaim f ms)).formLoom ms = t at ht
  have hformed : ∀ q ∈ ms, (t.claimOf q).map (·.formed) = some true := by
    intro q hq
    rw [← htt, State.claimOf_formLoom, if_pos hq, State.claimOf_claimed]
    by_cases hqp : q = s.curP
    · rw [if_pos hqp]
      rfl
    · obtain ⟨o, ho, -⟩ := hall q hq hqp
      rw [if_neg hqp, ho]
      rfl
  have hs : SameStrands s t :=
    htt ▸ (sameStrands_claimed s s.curP (s.ownClaim f ms)).foldl (fun _ _ h => h.modLoom) ms
  have hclk : t.aclk s.curP = s.aclk s.curP := by
    rw [← htt]
    exact State.aclk_foldl_modLoom ..
  have hmine : ((t.me.mtx.loom).map (·.formed)).getD false = true := by
    rw [show t.me.mtx.loom = t.claimOf t.curP from rfl, hs.1, hformed s.curP (mem_of_loomNamed hms)]
    rfl
  have he := exec_loomjoin_published hv hms hl ht
  rw [if_pos hmine] at he
  obtain ⟨hpc, hnb⟩ := t.joined.st_loomDone (t.nextPc (.loomjoin f))
  refine ⟨_, he, hpc.trans (hs.nextPc _), hnb.trans ?_, fun q hq => ?_⟩
  · show t.aclk t.curP + 8 = _
    rw [hs.1, hclk]
  · rw [State.claimOf_loomDone, State.joined, State.claimOf_modLoom]
    split
    · rw [Option.map_map]
      exact hformed q hq
    · exact hformed q hq

theorem loomjoin_early (hl : s.me.mtx.loom = none) (hc : s.loomConflicts s.curP (s.ownClaim f ms) = [])
    (hone : ∃ q ∈ ms, q ≠ s.curP ∧ ∀ o, s.claimOf q = some o → o.members ≠ ms ∨ o.formed = true) :
    ∃ t, Runs (.loomjoin f) s t ∧ t.st.pc = s.st.pc ∧ t.st.blocked = .wait (.loomjoin f) ∧
      t.claimOf s.curP = some (s.ownClaim f ms) := by
  have ht := State.publishClaim_early (l := s.ownClaim f ms) hc hone
  have hclaim : (s.claimed s.curP (s.ownClaim f ms)).claimOf s.curP = some (s.ownClaim f ms) := by
    rw [State.claimOf_claimed, if_pos rfl]
  have he := exec_loomjoin_published hv hms hl ht
  rw [show (s.claimed s.curP (s.ownClaim f ms)).me.mtx.loom = some (s.ownClaim f ms) from hclaim] at he
  obtain ⟨hpc, hb⟩ := (sameStrands_claimed s s.curP (s.ownClaim f ms)).st_waitIn (.loomjoin f)
  exact ⟨_, he, hpc, hb, (State.claimOf_modSt _ _ _).trans hclaim⟩

end

/-! ## LOOMGO (R240) -/

/-- A member counts its LOOMGO when it comes to it. -/
def State.atLoomgo (s : State) (l : Loom) : State :=
  if l.waiting then s else s.modLoom s.curP fun l => { l with waiting := true, gos := l.gos + 1 }

/-- The LOOMGO that the pillar is in. -/
def State.ownGos (s : State) : Nat := ((s.claimOf s.curP).map (·.gos)).getD 0

/-- Every member of a loom waits in its LOOMGO of a number, without a verdict. -/
def State.allAwait (s : State) (l : Loom) (gos : Nat) : Bool :=
  l.members.all fun q => match s.claimOf q with | some o => o.gos == gos && o.waiting && o.verdict.isNone | none => false

/-- The interval of a loom closes once its members all wait. -/
def State.afterLoomgo (s : State) (l : Loom) : State :=
  if s.allAwait l s.ownGos then s.closeInterval l (s.ownGos - 1) else s

/-- A member that has its verdict waits no more. -/
def State.openLoom (s : State) : State := s.modLoom s.curP fun l => { l with waiting := false, verdict := none }

theorem sameStrands_openLoom (s : State) : SameStrands s s.openLoom := (SameStrands.refl s).modLoom

/-- How LOOMGO ends by the verdict of its pillar. -/
def State.loomAnswer (s : State) (f : Fields) : Option Nat → Act State
  | none => .ok (s.waitIn (.loomgo f))
  | some c =>
    if c = 0 then .ok (s.openLoom.loomDone (s.openLoom.nextPc (.loomgo f)))
    else .ok (s.openLoom.takeTrap { cause := 0x2E, tval := word c })

theorem sameStrands_atLoomgo (s : State) (l : Loom) : SameStrands s (s.atLoomgo l) :=
  (SameStrands.refl s).ite (SameStrands.refl s).modLoom

theorem State.aclk_atLoomgo (s : State) (l : Loom) (p : PillarId) : (s.atLoomgo l).aclk p = s.aclk p := by
  unfold State.atLoomgo
  split <;> rfl

theorem State.allAwait_iff (s : State) (l : Loom) (gos : Nat) : s.allAwait l gos = true ↔
    ∀ q ∈ l.members, ∃ o, s.claimOf q = some o ∧ o.gos = gos ∧ o.waiting = true ∧ o.verdict = none := by
  rw [State.allAwait, List.all_eq_true]
  refine forall₂_congr fun q _ => ?_
  cases s.claimOf q with
  | none => simp
  | some o => simp [and_assoc]

/-- Every member of a loom has the verdict 0. -/
def State.agreed (s : State) (l : Loom) : State :=
  l.members.foldl (fun s q => s.modLoom q fun o => { o with count := 0, verdict := some 0 }) s

theorem State.claimOf_agreed (s : State) (l : Loom) (q : PillarId) : (s.agreed l).claimOf q =
    if q ∈ l.members then (s.claimOf q).map fun o => { o with count := 0, verdict := some 0 } else s.claimOf q :=
  State.claimOf_foldl_modLoom (g := fun o => { o with count := 0, verdict := some 0 }) (fun _ => rfl) l.members s q

/-- Members that agree on their count all get the verdict 0. -/
theorem State.closeInterval_agree {s : State} {l : Loom} (i : Nat) {n : Nat}
    (h : ∀ q ∈ l.members, ((s.claimOf q).map (·.count)).getD 0 = n) : s.closeInterval l i = s.agreed l := by
  have hagree : ((l.members.map fun q => ((s.claimOf q).map (·.count)).getD 0).all
      (· == (l.members.map fun q => ((s.claimOf q).map (·.count)).getD 0).headD 0)) = true := by
    rw [List.map_congr_left h]
    cases l.members <;> simp
  unfold State.closeInterval
  dsimp only
  rw [hagree]
  rfl

section
variable {f : Fields} {s : State} {l : Loom} (hl : s.me.mtx.loom = some l) (hformed : l.formed = true)
  (hstrand : l.strand = s.curT)
include hl hformed hstrand

theorem traps_loomgo_broken (hb : l.broken = true) (hv : l.verdict = none) : Traps (.loomgo f) s 0x2E 7 := by
  refine traps_finishAt (exec_loomgo f s) ?_
  dsimp only
  rw [hl]
  dsimp only
  rw [hformed, hstrand, hb, hv, bne_self_eq_false]
  rfl

/-- LOOMGO in a loom that is whole, or whose verdict is there. -/
theorem exec_loomgo_in (hgo : (l.broken && l.verdict.isNone) = false) {t : State} (ht : (s.atLoomgo l).afterLoomgo l = t) :
    exec (.loomgo f) s = finishAt (.loomgo f) s (t.loomAnswer f ((t.claimOf t.curP).bind (·.verdict))) := by
  subst ht
  rw [exec_loomgo, execLoomgo]
  dsimp only
  rw [hl]
  dsimp only
  rw [hformed, hstrand, bne_self_eq_false, hgo]
  rfl

/-- A member that waits in its LOOMGO takes its verdict. -/
theorem loomgo_verdict (hw : l.waiting = true) {c : Nat} (hv : l.verdict = some c) (hmem : s.curP ∈ l.members) :
    exec (.loomgo f) s = finishAt (.loomgo f) s (s.loomAnswer f (some c)) := by
  have hat : s.atLoomgo l = s := if_pos hw
  have hall : s.allAwait l s.ownGos = false := by
    rw [← Bool.not_eq_true, State.allAwait_iff]
    intro h
    obtain ⟨o, ho, -, -, hn⟩ := h s.curP hmem
    obtain rfl : l = o := Option.some.inj (hl.symm.trans ho)
    rw [hv] at hn
    cases hn
  have hafter : (s.atLoomgo l).afterLoomgo l = s := by
    rw [hat]
    exact if_neg (by rw [hall]; exact Bool.false_ne_true)
  rw [exec_loomgo_in hl hformed hstrand (by rw [hv]; exact Bool.and_false _) hafter, show s.claimOf s.curP = some l from hl]
  exact congrArg _ (congrArg _ hv)

end

/-- The other members of a loom wait in the LOOMGO that the pillar comes to, with the same count (R240). -/
def State.othersAwait (s : State) (l : Loom) : Prop :=
  ∀ q ∈ l.members, q ≠ s.curP → ∃ o, s.claimOf q = some o ∧ o.gos = l.gos + 1 ∧ o.waiting = true ∧ o.verdict = none ∧
    o.count = l.count

section
variable {f : Fields} {s : State} {l : Loom} (hl : s.me.mtx.loom = some l) (hw : l.waiting = false) (hv : l.verdict = none)
include hl hw

theorem claimOf_atLoomgo (q : PillarId) : (s.atLoomgo l).claimOf q =
    if q = s.curP then some { l with waiting := true, gos := l.gos + 1 } else s.claimOf q := by
  rw [State.atLoomgo, if_neg (by rw [hw]; exact Bool.false_ne_true), State.claimOf_modLoom]
  split
  · next h =>
    subst h
    rw [show s.claimOf s.curP = some l from hl]
    rfl
  · rfl

include hv in
/-- Once the last member has come, every member waits, with the same count. -/
theorem claims_atLoomgo (hothers : s.othersAwait l) : ∀ q ∈ l.members, ∃ o, (s.atLoomgo l).claimOf q = some o ∧
    o.gos = l.gos + 1 ∧ o.waiting = true ∧ o.verdict = none ∧ o.count = l.count := by
  intro q hq
  rw [claimOf_atLoomgo hl hw]
  by_cases hqp : q = s.curP
  · rw [if_pos hqp]
    exact ⟨_, rfl, rfl, rfl, hv, rfl⟩
  · rw [if_neg hqp]
    exact hothers q hq hqp

include hv in
theorem afterLoomgo_last (hothers : s.othersAwait l) : (s.atLoomgo l).afterLoomgo l = (s.atLoomgo l).agreed l := by
  have hclaims := claims_atLoomgo hl hw hv hothers
  have hgos : (s.atLoomgo l).ownGos = l.gos + 1 := by
    rw [State.ownGos, (sameStrands_atLoomgo s l).1, claimOf_atLoomgo hl hw, if_pos rfl]
    rfl
  have hall : (s.atLoomgo l).allAwait l (l.gos + 1) = true := by
    rw [State.allAwait_iff]
    intro q hq
    obtain ⟨o, ho, hg, hwait, hverdict, -⟩ := hclaims q hq
    exact ⟨o, ho, hg, hwait, hverdict⟩
  rw [State.afterLoomgo, hgos, hall, if_pos rfl, State.closeInterval_agree (n := l.count)]
  intro q hq
  obtain ⟨o, ho, -, -, -, hc⟩ := hclaims q hq
  rw [ho]
  exact hc

variable (hformed : l.formed = true) (hstrand : l.strand = s.curT) (hb : l.broken = false)
include hformed hstrand hb hv

/-- The last member to come to its LOOMGO goes on, and so may the others. -/
theorem loomgo_last (hmem : s.curP ∈ l.members) (hothers : s.othersAwait l) :
    ∃ t, Runs (.loomgo f) s t ∧ t.st.pc = s.nextPc (.loomgo f) ∧ t.st.notBefore = s.aclk s.curP + 8 ∧
      ∀ q ∈ l.members, q ≠ s.curP → (t.claimOf q).bind (·.verdict) = some 0 := by
  generalize ht : (s.atLoomgo l).agreed l = t
  have hs : SameStrands s t := ht ▸ (sameStrands_atLoomgo s l).foldl (fun _ _ h => h.modLoom) l.members
  have hclk : t.aclk s.curP = s.aclk s.curP := by
    rw [← ht, State.agreed, State.aclk_foldl_modLoom, State.aclk_atLoomgo]
  have hverdict : ∀ q ∈ l.members, (t.claimOf q).bind (·.verdict) = some 0 := by
    intro q hq
    obtain ⟨o, ho, -⟩ := claims_atLoomgo hl hw hv hothers q hq
    rw [← ht, State.claimOf_agreed, if_pos hq, ho]
    rfl
  have he := exec_loomgo_in hl hformed hstrand (f := f) (by rw [hb]; rfl) ((afterLoomgo_last hl hw hv hothers).trans ht)
  rw [hs.1, hverdict s.curP hmem] at he
  have hopen : SameStrands s t.openLoom := hs.modLoom
  obtain ⟨hpc, hnb⟩ := t.openLoom.st_loomDone (t.openLoom.nextPc (.loomgo f))
  refine ⟨_, he, hpc.trans (hopen.nextPc _), hnb.trans ?_, fun q hq hqp => ?_⟩
  · show t.aclk t.curP + 8 = _
    rw [hs.1, hclk]
  · show ((t.openLoom.loomDone _).claimOf q).bind (·.verdict) = some 0
    rw [State.claimOf_loomDone, State.openLoom, State.claimOf_modLoom, hs.1, if_neg hqp, hverdict q hq]

/-- A member waits for another that has not come to its LOOMGO. -/
theorem loomgo_early (hone : ∃ q ∈ l.members, q ≠ s.curP ∧ ∀ o, s.claimOf q = some o → o.waiting = false) :
    ∃ t, Runs (.loomgo f) s t ∧ t.st.pc = s.st.pc ∧ t.st.blocked = .wait (.loomgo f) := by
  have hs := sameStrands_atLoomgo s l
  have hall : ∀ gos, (s.atLoomgo l).allAwait l gos = false := by
    intro gos
    rw [← Bool.not_eq_true, State.allAwait_iff]
    intro h
    obtain ⟨q, hq, hqp, hno⟩ := hone
    obtain ⟨o, ho, -, hwait, -⟩ := h q hq
    rw [claimOf_atLoomgo hl hw, if_neg hqp] at ho
    exact Bool.false_ne_true ((hno o ho).symm.trans hwait)
  have hafter : (s.atLoomgo l).afterLoomgo l = s.atLoomgo l := if_neg (by rw [hall]; exact Bool.false_ne_true)
  have hgo : (s.atLoomgo l).loomAnswer f (((s.atLoomgo l).claimOf (s.atLoomgo l).curP).bind (·.verdict)) =
      .ok ((s.atLoomgo l).waitIn (.loomgo f)) := by
    rw [claimOf_atLoomgo hl hw, hs.1, if_pos rfl]
    show (s.atLoomgo l).loomAnswer f l.verdict = _
    rw [hv]
    rfl
  exact ⟨_, runs_finishAt (exec_loomgo_in hl hformed hstrand (by rw [hb]; rfl) hafter) hgo, hs.st_waitIn _⟩

end

/-! ## LOOMSPLIT (R241) -/

section
variable {f : Fields} {s : State} {l : Loom} (hl : s.me.mtx.loom = some l)
include hl

theorem runs_loomsplit_broken (hb : l.broken = true) : Runs (.loomsplit f) s
    (s.past (.loomsplit f) ((s.modMe fun x => x.faultStep s.clk 7).leaveLoom s.curP)) := by
  refine runs_finish (exec_loomsplit f s) ?_
  rw [hl]
  dsimp only
  rw [hb]
  rfl

/-- A loom that is not broken is left when no `.loom` instruction is under way. -/
theorem exec_loomsplit_whole (hb : l.broken = false) : exec (.loomsplit f) s = finish (.loomsplit f) s
    (waitFor (!s.me.loomBusy) >>= fun _ => .ok (s.leaveLoom s.curP)) := by
  rw [exec_loomsplit, execLoomsplit, hl]
  dsimp only
  rw [hb]
  rfl

end

theorem loomless (f : Fields) {s : State} (hl : s.me.mtx.loom = none) :
    Traps (.loomgo f) s 0x2E 4 ∧ Runs (.loomsplit f) s (s.past (.loomsplit f) s) := by
  refine ⟨traps_finishAt (exec_loomgo f s) ?_, runs_finish (exec_loomsplit f s) ?_⟩
  · rw [hl]
    rfl
  · rw [hl]

theorem loomResults : Claims.loomResults := by
  intro f s v named claim join
  refine ⟨traps_loomjoin, fun ms hv hms => ⟨fun hl => ⟨fun hc => ⟨loomjoin_last hv hms hl hc, loomjoin_early hv hms hl hc⟩,
    runs_loomjoin_conflict hv hms hl⟩, fun l hl => loomjoin_again hv hms hl⟩, fun l hl hformed hstrand hmem => ?go,
    loomless f, fun l hl => ⟨runs_loomsplit_broken hl, fun hb hfree => ?free, fun hb hbusy => ?busy⟩⟩
  case go =>
    refine ⟨traps_loomgo_broken hl hformed hstrand, fun hw c hv => ?verdict, fun hb hw hv =>
      ⟨loomgo_last hl hw hv hformed hstrand hb hmem, loomgo_early hl hw hv hformed hstrand hb⟩⟩
    have he := loomgo_verdict hl hformed hstrand (f := f) hw hv hmem
    refine ⟨fun hc => ?_, fun hc => ?_⟩
    · refine runs_finishAt he ?_
      rw [State.loomAnswer, if_pos hc, (sameStrands_openLoom s).nextPc]
      rfl
    · refine runs_finishAt he ?_
      rw [State.loomAnswer, if_neg hc]
      rfl
  case free =>
    refine runs_finish (exec_loomsplit_whole hl hb) ?_
    rw [hfree]
    rfl
  case busy =>
    refine waits_finish (exec_loomsplit_whole hl hb) ?_
    rw [hbusy]
    rfl

/-- Settles O26: a batch closes and is waited for by its number; a change of a loom reaches the claim of each member and no strand. -/
theorem batchAndLoomResults : Obligations.BatchAndLoomResults := ⟨batchResults, loomResults⟩

end Sys2Proof.Machine
end

section
/-! PROOFS. Events of the matrix engine: completion of MZERO and SLDV, loom steps, the writes of a DRAIN, and integer products (R61,
R63, R229, R231, R235, R237, R240, R242). -/

set_option Elab.async false

namespace Sys2Proof.Machine

/-! ## MZERO (R237) -/

theorem NatSet.has_clear (m : NatSet) (a n x : Nat) : (m.clear a n).has x = if a ≤ x ∧ x < a + n then false else m.has x := by
  unfold NatSet.clear NatSet.has
  by_cases h : a ≤ x ∧ x < a + n
  · rw [if_pos h]
    simp [h.1, h.2]
  · rw [if_neg h, Bool.eq_iff_iff, List.contains_iff_mem, List.contains_iff_mem, List.mem_filter]
    simp only [Bool.not_eq_true', Bool.and_eq_false_imp, decide_eq_true_eq, decide_eq_false_iff_not, not_and] at h ⊢
    exact ⟨fun hx => hx.1, fun hx => ⟨hx, h⟩⟩

theorem Memory.read_cleared (m : Memory) {a n b k : Nat} (hb : a ≤ b) (hk : b + k ≤ a + n) : (m.clear a n).read b k = 0 := by
  have hz : (m.clear a n).read b k = ({} : Memory).read b k :=
    Memory.read_congr fun x h1 h2 => by
      rw [Memory.get_clear, if_pos (by omega)]
      rfl
  rw [hz]
  clear hz
  induction k generalizing b with
  | zero => rfl
  | succ k ih => rw [Memory.read, ih (by omega) (by omega)]; rfl

/-- A tile of zeros without poison (R237). -/
theorem MatrixEngine.elem_zeroTile (m : MatrixEngine) (a : Nat) {e : Nat} (he : e < 4096) : (m.zeroTile a).elem a e = (0, false) := by
  unfold MatrixEngine.zeroTile MatrixEngine.elem
  dsimp only
  rw [Memory.read_cleared _ (by omega) (by omega), NatSet.has_clear, if_pos (by omega)]

theorem mzero_completes {p : PillarId} {s : State} {o : MatrixOp} {f : Fields} (ho : (s.pil p).mtx.array = some o)
    (hst : o.started = true) (hdis : o.discarded = false) (hi : o.d.instr = .mzero f) :
    ∃ t, Runs (.matrixComplete p .array) s t ∧ (t.pil p).mtx.array = none ∧
      ∀ e, e < 4096 → (t.pil p).mtx.elem f.dNum e = (0, false) := by
  have hc : s.completeArray p o = s.modPil p fun x =>
      ((x.arrayResult (x.mtx.zeroTile f.dNum)).countArray 0 8).retireMatrix s.clk o.d := by
    unfold State.completeArray
    dsimp only
    rw [hi]
  obtain ⟨tiles, slots, hm⟩ := Pillar.retireMatrix_mtx
    (((s.pil p).arrayResult ((s.pil p).mtx.zeroTile f.dNum)).countArray 0 8) s.clk o.d
  refine ⟨_, hc ▸ runs_array ho hst, ?_, fun e he => ?_⟩
  · rw [State.pil_modPil, hm]
  · have helem := (s.pil p).mtx.elem_zeroTile f.dNum he
    rw [← Pillar.arrayResult_mtx ho hdis ((s.pil p).mtx.zeroTile f.dNum)] at helem
    rw [State.pil_modPil, hm]
    exact helem

/-! ## SLDV (R228) -/

theorem Pillar.leaveSlots_strands (x : Pillar) (clk : Nat) (js : List Nat) : (x.leaveSlots clk js).strands = x.strands := by
  unfold Pillar.leaveSlots
  dsimp only
  split
  · exact (apply_ite Pillar.strands ..).trans (ite_self _)
  · rfl

theorem Pillar.endSeq_strands (x : Pillar) (seq : BitVec 16) : (x.endSeq seq).strands = x.strands := by
  unfold Pillar.endSeq Pillar.modRing
  split
  · split <;> rfl
  · rfl

theorem sldv_completes {p : PillarId} {s : State} {o : MatrixOp} {f : Fields} (ho : (s.pil p).mtx.port = some o)
    (hi : o.d.instr = .sldv f) (hd : f.dNum < 32) :
    ∃ t, Runs (.matrixComplete p .port) s t ∧ (t.pil p).mtx.port = none ∧
      ((t.pil p).strand o.d.strand).vreg f.dNum =
        (s.pil p).mtx.readV (8192 * (unpackSlots 16 o.d.slot).headD 0 + slotByte o.d.gs.bits) := by
  refine ⟨_, runs_port ho, ?_, ?_⟩
  all_goals
    rw [State.pil_setPil, Pillar.completePort]
    dsimp only
    rw [hi]
    dsimp only
  · obtain ⟨slots, hm⟩ := Pillar.leaveSlots_mtx _ s.clk _
    rw [Pillar.endSeq_mtx, hm]
    rfl
  · rw [Pillar.strand, Pillar.endSeq_strands, Pillar.leaveSlots_strands]
    refine (congrArg (Strand.vreg · f.dNum) (Pillar.strand_modStrand _ o.d.strand _)).trans ?_
    rw [Strand.vreg_setV _ hd, if_pos rfl]

/-! ## Loom steps (R240, R241) -/

section
variable {p : PillarId} {s : State} {l : Loom} {d : Dispatched} (hl : (s.pil p).mtx.loom = some l) (hd : s.waitingStep p = some d)
include hl hd

theorem loomStep_broken (hb : l.broken = true) : Runs (.loomStepStart p) s (s.modPil p fun x => x.faultStep s.clk 7) := by
  rw [Runs, exec_loomStepStart, execLoomStepStart, hl, hd]
  exact if_pos hb

/-- A step waits for a member whose engine has not accepted its own. -/
theorem loomStep_waits (hb : l.broken = false) (hh : (s.pil p).mtx.held = false)
    (hw : ∃ q ∈ l.members, s.waitingStep q = none) : Runs (.loomStepStart p) s s := by
  obtain ⟨q, hq, hn⟩ := hw
  have hs : s.stepStranded p l = false := by rw [State.stepStranded, hh, Bool.false_and]
  have ha : (l.members.all fun q => (s.waitingStep q).isSome) = false :=
    List.all_eq_false.mpr ⟨q, hq, by rw [hn]; exact Bool.false_ne_true⟩
  rw [Runs, exec_loomStepStart, execLoomStepStart, hl, hd]
  dsimp only
  rw [hb, hs, ha]
  rfl

/-- The steps of members that agree start together. -/
theorem loomStep_starts (hb : l.broken = false) (hall : ∀ q ∈ l.members, (s.waitingStep q).map loomKey = some (loomKey d)) :
    Runs (.loomStepStart p) s (l.members.foldl (fun t q => t.modPil q fun x => x.startStep (t.aclk q)
      (l.members.any fun q => (((s.pil q).mtx.array).map (·.bubble)).getD false)) s) := by
  have hsome : ∀ q ∈ l.members, (s.waitingStep q).isSome = true := fun q hq => by
    rw [← Option.isSome_map (f := loomKey), hall q hq]
    rfl
  have ha : (l.members.all fun q => (s.waitingStep q).isSome) = true := List.all_eq_true.mpr hsome
  have hs : s.stepStranded p l = false := by
    rw [State.stepStranded, Bool.and_eq_false_imp]
    intro _
    rw [List.any_eq_false]
    intro q hq
    rw [Option.isNone_eq_false_iff.mpr (hsome q hq), Bool.and_false]
    exact Bool.false_ne_true
  have hagree : (l.members.all fun q => (s.waitingStep q).map loomKey == some (loomKey d)) = true :=
    List.all_eq_true.mpr fun q hq => beq_iff_eq.mpr (hall q hq)
  rw [Runs, exec_loomStepStart, execLoomStepStart, hl, hd]
  dsimp only
  rw [hb, hs, ha, hagree]
  rfl

end

/-! ## The writes of a DRAIN (R242) -/

theorem drainWrites_end {p : PillarId} {s : State} {t : StrandId} {o : DrainOp} {f : Fields}
    (ho : (s.pil p).mtx.drains.find? (fun o => o.d.strand == t) = some o) (hi : o.d.instr = .drain f)
    (hheld : ∀ h ∈ s.integrity.held, ¬ (h.p = p ∧ h.t = t)) (hout : s.drainOutgoing p o f = false) :
    Runs (.drainWritesDone p t) s (s.drainOut p o f) := by
  have hw : s.wormHeld p t = false := by
    rw [State.wormHeld, List.any_eq_false]
    intro h hh
    rw [Bool.and_eq_true, beq_iff_eq, beq_iff_eq]
    exact hheld h hh
  rw [Runs, exec_drainWritesDone, execDrainWritesDone, ho]
  dsimp only
  rw [hi]
  dsimp only
  rw [hw, hout]
  rfl

theorem matrixEvents : Claims.matrixEvents := by
  intro p s x
  refine ⟨fun h => ?_, fun h => ?_, fun o f => mzero_completes, fun o f => sldv_completes, fun l d hl hd =>
    ⟨loomStep_broken hl hd, loomStep_waits hl hd, loomStep_starts hl hd⟩, fun t o f => drainWrites_end⟩
  · show execMatrixComplete p .array s = _
    rw [execMatrixComplete, h]
  · show execMatrixComplete p .port s = _
    rw [execMatrixComplete, h]

/-! ## Integer products (R61, R63, R235) -/

theorem width_of_byteInt {t : EType} (h : byteInt t = true) : t.width = 8 := by
  unfold byteInt at h
  rw [Bool.or_eq_true, beq_iff_eq, beq_iff_eq] at h
  obtain rfl | rfl := h <;> rfl

/-- A sum of integer products, as an integer (R63). -/
theorem accumulated_int {d : Dispatched} (h : byteInt d.ma = true) (c k : Nat) (a b : Nat → Nat) (scale : Nat → FVal → FVal) :
    (Claims.accumulated d c k a b scale : Int) =
      ((c : Int) + ((List.range k).map fun i => intOf d.ma (a i) * intOf d.mb (b i)).sum) % 4294967296 := by
  rw [Claims.accumulated, if_pos h]
  omega

theorem integerProduct : Claims.integerProduct := by
  intro p s o f x d g a b term ho hst hdis hi hloom ha hb hd
  have hms : (if f.mod.getLsbD 6 then ((x.mtx.loom).map (·.members)).getD [p] else [p]) = [p] := by
    rw [hloom]
    rfl
  obtain ⟨t, hrun, harr, helem⟩ := productValues p s o f false ho hst hdis hi (fun h => absurd h Bool.false_ne_true)
    (by rw [hms]; exact List.mem_singleton_self p) (by rw [hms]; exact List.nodup_singleton p)
    (by rw [hms, List.forall_mem_singleton, ho]; rfl)
  refine ⟨t, hrun, harr, fun m n hm hn => ?_⟩
  have h := helem 0 p o (by rw [hms]; rfl) ho m n hm hn
  rw [Nat.add_zero] at h
  rw [h]
  split
  · rw [accumulated_int ha]
    simp only [show o.d.ma.width = 8 from width_of_byteInt ha, show o.d.mb.width = 8 from width_of_byteInt hb]
    rfl
  · rfl

/-- Settles O28: each event has one rule, and an integer product is the value of a product on a pillar alone. -/
theorem matrixCompletion : Obligations.MatrixCompletion := ⟨matrixEvents, integerProduct⟩

end Sys2Proof.Machine
end

section
/-! PROOFS. The dispatch of the ply instructions (R226, R227, R230, R249, R250, R254, R255, R256, R257). -/

set_option Elab.async false

namespace Sys2Proof.Machine

/-- A ply check that passes (R260). -/
theorem plyCheck_of {ok : Bool} (h : ok = true) (code tile : Nat) : plyCheck ok code tile = .ok () := if_pos h

/-! ## PSPLITA and PSPLITB (R249, R250) -/

theorem exec_splits {f : Fields} : ∀ i ∈ [Instr.psplita f, Instr.psplitb f], ∀ s, exec i s = psplitIssue i f s := by
  simp only [List.forall_mem_cons, List.not_mem_nil, false_imp_iff, implies_true, and_true]
  exact ⟨exec_psplita f, exec_psplitb f⟩

/-- The type of the sources of a split. -/
def MatrixEngine.splitType (m : MatrixEngine) (js : List Nat) : EType := typeCode (m.slot (js.headD 0)).type

/-- The elements of a row of a split's sources. -/
def MatrixEngine.splitDepth (m : MatrixEngine) (js : List Nat) : Nat :=
  (js.map fun j => (m.slot j).olen).sum / ((m.splitType js).width / 8)

/-- The sources of a captured split pass its checks, and its ply slots are taken from an engine (R226, R227, R250). -/
structure State.SplitReady (s : State) (d : Dispatched) (f : Fields) (js : List Nat) (m' : MatrixEngine) (plies : List Nat) :
    Prop where
  reserved : d.gs.bits.toNat < 2 ^ 41
  scanFields : f.mod.getLsbD 6 = true → f.dNum = 0 ∧ d.gs.bits.bits 40 38 = 0 ∧ d.gs.bits.bits 31 16 = 0
  evenPair : f.tNum % 2 = 0
  sources : s.schedChecks (f.mod.toNat % 8) (d.gs.bits.bits 34 32) (d.gs.bits.bits 15 0) 0 (d.gs.bits.bits 37 35 + 1) = .ok js
  nonempty : js ≠ []
  float : s.me.mtx.splitType js = .f64 ∨ s.me.mtx.splitType js = .f32
  alike : ∀ j ∈ js, typeCode (s.me.mtx.slot j).type = s.me.mtx.splitType js ∧
    (s.me.mtx.slot j).orows = (s.me.mtx.slot (js.headD 0)).orows
  rows : (s.me.mtx.slot (js.headD 0)).orows ≤ 64
  depth : s.me.mtx.splitDepth js ≤ 128
  taken : (if f.mod.getLsbD 6 then Except.ok (s.me.mtx, [])
    else MatrixEngine.takeWriteSlots f.dNum (d.gs.bits.bits 40 38 + 1) s.me.mtx) = Except.ok (m', plies)

section
variable {i : Instr} {f : Fields} {s : State} {js plies : List Nat} {m' : MatrixEngine}

theorem State.SplitReady.fields {d : Dispatched} (h : s.SplitReady d f js m' plies) :
    (d.gs.bits.bits 63 41 == 0 && (!f.mod.getLsbD 6 ||
      (f.dNum == 0 && d.gs.bits.bits 40 38 == 0 && d.gs.bits.bits 31 16 == 0))) = true := by
  rw [topField_zero h.reserved, Bool.true_and]
  cases hs : f.mod.getLsbD 6 with
  | false => rfl
  | true =>
    obtain ⟨h1, h2, h3⟩ := h.scanFields hs
    simp [h1, h2, h3]

theorem State.SplitReady.types {d : Dispatched} (h : s.SplitReady d f js m' plies) :
    let types := js.map fun j => typeCode (s.me.mtx.slot j).type
    types.headD .i8 = s.me.mtx.splitType js ∧
      ((types.headD .i8 == .f64 || types.headD .i8 == .f32) && types.all (· == types.headD .i8)) = true := by
  intro types
  have hh : types.headD .i8 = s.me.mtx.splitType js := by
    obtain ⟨j, l, hj⟩ := List.exists_cons_of_ne_nil h.nonempty
    simp only [types, MatrixEngine.splitType, hj]
    rfl
  refine ⟨hh, ?_⟩
  rw [hh, Bool.and_eq_true, Bool.or_eq_true, beq_iff_eq, beq_iff_eq, List.all_map, List.all_eq_true]
  exact ⟨h.float, fun j hj => beq_iff_eq.mpr (h.alike j hj).1⟩

theorem State.SplitReady.shape {d : Dispatched} (h : s.SplitReady d f js m' plies) :
    ((js.all fun j => (s.me.mtx.slot j).orows == (s.me.mtx.slot (js.headD 0)).orows) &&
      decide ((s.me.mtx.slot (js.headD 0)).orows ≤ 64) && decide (s.me.mtx.splitDepth js ≤ 128)) = true := by
  rw [Bool.and_eq_true, Bool.and_eq_true, decide_eq_true_eq, decide_eq_true_eq, List.all_eq_true]
  exact ⟨⟨fun j hj => beq_iff_eq.mpr (h.alike j hj).2, h.rows⟩, h.depth⟩

/-- What the dispatch of a split leaves: a reader on each source, the headers of its ply slots, no tile in its batch. -/
def State.splitIssued (s : State) (i : Instr) (js : List Nat) (m' : MatrixEngine) (plies : List Nat) : State :=
  let d := s.capture i
  let m := s.me.mtx
  ((s.modMe fun y =>
    { y with mtx := (m'.markPlies s.curT (d.gs.bits.bits 31 16) (m.slot (js.headD 0)).orows (m.splitDepth js)
      plies).enterSlots js }).dispatchAs .matrix
    { d with slot := packSlots js, aux := packSlots plies, read := m.shapeOf js }).joinBatch d.seq []

theorem runs_psplit (he : exec i s = psplitIssue i f s) (hroom : s.canDispatch .matrix = true)
    (h : s.SplitReady (s.capture i) f js m' plies) : Runs i s (s.past i (s.splitIssued i js m' plies)) := by
  obtain ⟨hhead, htypes⟩ := h.types
  have hshape := h.shape
  have htaken := h.taken
  unfold MatrixEngine.splitDepth at hshape
  refine runs_finish he ?_
  dsimp only
  rw [modBit_eq, plyCheck_of h.fields, act_ok_bind, plyCheck_of (beq_iff_eq.mpr h.evenPair), act_ok_bind, spoolNumber_eq, h.sources,
    act_ok_bind, plyCheck_of htypes, act_ok_bind, hhead, plyCheck_of hshape, act_ok_bind]
  cases hs : f.mod.getLsbD 6 with
  | true =>
    rw [hs, if_pos rfl] at htaken
    obtain ⟨rfl, rfl⟩ := Prod.mk.inj (Except.ok.inj htaken)
    rw [if_pos rfl, act_ok_bind, State.room_ok hroom, act_ok_bind]
    rfl
  | false =>
    rw [hs, if_neg Bool.false_ne_true] at htaken
    rw [if_neg Bool.false_ne_true, htaken, act_ok_bind, State.room_ok hroom, act_ok_bind]
    rfl

end

/-! ## PMMA (R254, R255) -/

section
variable {f : Fields} {s : State} {as bs : List Nat} {reads : Bool}

/-- The loom lets a captured PMMA go on, and says whether this pillar reads A plies (R254, R255). -/
def State.plyLoomOk (s : State) (f : Fields) (y : Word) (reads : Bool) : Prop :=
  (f.mod.getLsbD 6 = false → y.toNat < 2 ^ 23 ∧ reads = true) ∧
  (f.mod.getLsbD 6 = true → y.toNat < 2 ^ 27 ∧ ∃ l, s.me.mtx.loom = some l ∧ s.loomCheck = .ok l.members.length ∧
    y.bits 26 23 < l.members.length ∧ reads = (l.members[y.bits 26 23]? == some s.curP))

/-- The tiles of a group. -/
abbrev groupTiles (f : Fields) (p : Nat) : List Nat := (List.range p).map (f.dNum + ·)

/-- The slots and tiles of a captured PMMA pass its checks (R227, R230, R254). -/
structure State.PairsReady (s : State) (d : Dispatched) (f : Fields) (as bs : List Nat) (reads : Bool) : Prop where
  reserved : d.gs.bits.toNat < 2 ^ 38
  group : f.dNum + (d.gt.bits.bits 21 19 + 1) ≤ 16
  loom : s.plyLoomOk f d.gt.bits reads
  slotsA : if reads then s.schedChecks (f.mod.toNat % 8) (d.gs.bits.bits 34 32) (d.gs.bits.bits 15 0) 0
    (d.gt.bits.bits 21 19 + 1) = .ok as else as = []
  slotsB : s.schedChecks (f.mod.toNat / 8 % 8) (d.gs.bits.bits 37 35) (d.gs.bits.bits 31 16) 1 (d.gt.bits.bits 21 19 + 1) = .ok bs
  bytes : ∀ j ∈ as ++ bs, typeCode (s.me.mtx.slot j).type = .i8
  fitsA : ∀ j ∈ as, d.gt.bits.bits 5 0 + 1 ≤ (s.me.mtx.slot j).orows ∧ d.gt.bits.bits 18 12 + 1 ≤ (s.me.mtx.slot j).olen
  fitsB : ∀ j ∈ bs, d.gt.bits.bits 11 6 + 1 ≤ (s.me.mtx.slot j).orows ∧ d.gt.bits.bits 18 12 + 1 ≤ (s.me.mtx.slot j).olen
  goesOn : d.gt.bits.getLsbD 22 = false → s.groupCheck f.dNum (d.gt.bits.bits 21 19 + 1)
    (groupTiles f (d.gt.bits.bits 21 19 + 1)) = .ok ()
  free : ∀ t ∈ groupTiles f (d.gt.bits.bits 21 19 + 1), s.me.tileFree s.curT true t = true


theorem State.formed_of_loomCheck {l : Loom} (hl : s.me.mtx.loom = some l) {n : Nat} (h : s.loomCheck = .ok n) :
    l.formed = true := by
  unfold State.loomCheck at h
  rw [hl] at h
  dsimp only at h
  cases hf : l.formed with
  | true => rfl
  | false =>
    rw [hf] at h
    cases h

/-- What the dispatch of a PMMA leaves: its slots with a reader each, its tiles in the batch, a first one's as a group. -/
def State.pairsIssued (s : State) (f : Fields) (as bs : List Nat) : State :=
  let d := s.capture (.pmma f)
  let p := d.gt.bits.bits 21 19 + 1
  ((((s.dispatchAs .matrix { d with slot := packSlots as, aux := packSlots bs, interval := s.loomInterval }).modMe fun z =>
    z.modMtx fun m =>
      let m := m.enterSlots (as ++ bs)
      if d.gt.bits.getLsbD 22 = true then m.modTiles (groupTiles f p) fun h => { h with kind := 2, plies := p } else m).joinBatch
    d.seq (groupTiles f p)).countLoom (f.mod.getLsbD 6))

/-- The part of a PMMA's dispatch behind the checks of its A slots (R227, R230, R254). -/
def State.pairsTail (s : State) (f : Fields) (as : List Nat) : Act State := do
  let d := s.capture (.pmma f)
  let x := d.gs.bits
  let y := d.gt.bits
  let p := y.bits 21 19 + 1
  let bs ← s.schedChecks (f.mod.toNat / 8 % 8) (x.bits 37 35) (x.bits 31 16) 1 p
  let m := s.me.mtx
  plyCheck ((as ++ bs).all fun j => typeCode (m.slot j).type == .i8) 2 f.dNum
  let k := y.bits 18 12 + 1
  plyCheck ((as.all fun j => y.bits 5 0 + 1 ≤ (m.slot j).orows && k ≤ (m.slot j).olen) &&
    (bs.all fun j => y.bits 11 6 + 1 ≤ (m.slot j).orows && k ≤ (m.slot j).olen)) 3 f.dNum
  if !y.getLsbD 22 then s.groupCheck f.dNum p (groupTiles f p)
  s.inFlight true (groupTiles f p)
  s.room .matrix
  .ok (s.pairsIssued f as bs)

/-- Behind the checks of its fields and its loom, a PMMA goes on with its slots: those of A only on a pillar that reads them. -/
theorem execPmma_eq (hx : (s.capture (.pmma f)).gs.bits.toNat < 2 ^ 38)
    (hg : f.dNum + ((s.capture (.pmma f)).gt.bits.bits 21 19 + 1) ≤ 16) (hl : s.plyLoomOk f (s.capture (.pmma f)).gt.bits reads) :
    execPmma f s = finish (.pmma f) s ((if reads then
      s.schedChecks (f.mod.toNat % 8) ((s.capture (.pmma f)).gs.bits.bits 34 32) ((s.capture (.pmma f)).gs.bits.bits 15 0) 0
        ((s.capture (.pmma f)).gt.bits.bits 21 19 + 1) else .ok []) >>= s.pairsTail f) := by
  obtain ⟨halone, hjoint⟩ := hl
  unfold execPmma State.pairsTail State.pairsIssued
  dsimp only
  rw [modBit_eq, topField_zero hx, Bool.true_and, spoolNumber_eq, secondSpool_eq, bitOf_testBit, BitVec.testBit_toNat]
  cases hb : f.mod.getLsbD 6 with
  | false =>
    obtain ⟨hy, rfl⟩ := halone hb
    have hroot : ((s.capture (.pmma f)).gt.bits.bits 26 23 == 0) = true := topField_zero hy 26
    rw [topField_zero (Nat.lt_trans hy (by decide)), hroot, plyCheck_of ?root, act_ok_bind, plyCheck_of (decide_eq_true hg),
      act_ok_bind, if_neg Bool.false_ne_true, Bool.not_false, Bool.true_or, if_pos rfl, if_pos rfl]
    case root => rfl
  | true =>
    obtain ⟨hy, l, hloom, hcheck, hsize, hreads⟩ := hjoint hb
    rw [topField_zero hy, hloom]
    dsimp only
    rw [plyCheck_of ?size, act_ok_bind, plyCheck_of (decide_eq_true hg), act_ok_bind, if_pos rfl, hcheck, act_ok_bind]
    case size =>
      simp only [State.formed_of_loomCheck hloom hcheck, if_true, hsize, decide_true, Bool.true_or, Bool.or_true, Bool.and_self]
    cases reads with
    | true =>
      rw [if_pos ?reads, if_pos rfl]
      case reads => exact hreads.symm
    | false =>
      rw [if_neg ?reads, if_neg Bool.false_ne_true]
      case reads =>
        rw [← hreads]
        exact Bool.false_ne_true

theorem State.pairsTail_ok (hroom : s.canDispatch .matrix = true) (h : s.PairsReady (s.capture (.pmma f)) f as bs reads) :
    s.pairsTail f as = .ok (s.pairsIssued f as bs) := by
  have htypes : ((as ++ bs).all fun j => typeCode (s.me.mtx.slot j).type == .i8) = true :=
    List.all_eq_true.mpr fun j hj => beq_iff_eq.mpr (h.bytes j hj)
  unfold State.pairsTail
  dsimp only
  rw [h.slotsB, act_ok_bind, plyCheck_of htypes, act_ok_bind, plyCheck_of ?fits, act_ok_bind, State.inFlight_ok h.free, act_ok_bind,
    State.room_ok hroom, act_ok_bind]
  case fits =>
    simp only [Bool.and_eq_true, List.all_eq_true, decide_eq_true_eq]
    exact ⟨h.fitsA, h.fitsB⟩
  cases hfirst : (s.capture (.pmma f)).gt.bits.getLsbD 22 with
  | true => rfl
  | false =>
    rw [h.goesOn hfirst]
    rfl

theorem runs_pmma (hroom : s.canDispatch .matrix = true) (h : s.PairsReady (s.capture (.pmma f)) f as bs reads) :
    Runs (.pmma f) s (s.past (.pmma f) (s.pairsIssued f as bs)) := by
  refine runs_finish ((exec_pmma f s).trans (execPmma_eq h.reserved h.group h.loom)) ?_
  have hslots := h.slotsA
  cases reads with
  | true =>
    rw [if_pos rfl] at hslots ⊢
    rw [hslots, act_ok_bind, State.pairsTail_ok hroom h]
  | false =>
    rw [if_neg Bool.false_ne_true] at hslots ⊢
    subst hslots
    rw [act_ok_bind, State.pairsTail_ok hroom h]

end

/-! ## PJOIN and PSTAT (R256, R257) -/

section
variable {f : Fields} {s : State}

/-- The fields and the output range of a captured PJOIN pass its checks (R135, R256). -/
structure State.JoinReady (s : State) (d : Dispatched) (f : Fields) : Prop where
  reserved : d.gs.bits.toNat < 2 ^ 48
  gap : d.gs.bits.getLsbD 19 = false
  codes : f.tNum % 4 = 0
  plies : (s.me.mtx.tile f.dNum).plies ≠ 0
  group : f.dNum + (s.me.mtx.tile f.dNum).plies ≤ 16
  tiles : ∀ t ∈ groupTiles f (s.me.mtx.tile f.dNum).plies, (s.me.mtx.tile t).kind = 2 ∧
    (s.me.mtx.tile t).plies = (s.me.mtx.tile f.dNum).plies ∧ s.me.tileFree s.curT true t = true
  wholePitch : d.gs.bits.bits 35 20 % 8 = 0
  pitch : (d.gs.bits.bits 47 42 + 1) * ((joinType f).width / 8) ≤ d.gs.bits.bits 35 20
  aligned : d.gs.bits.toNat % 2 ^ 19 % 8 = 0
  aboveCode : s.me.xb ≤ d.gs.bits.toNat % 2 ^ 19
  inside : d.gs.bits.toNat % 2 ^ 19 + joinLen d.gs.bits ((joinType f).width / 8) ≤ lsEnd
  quiet : s.me.vectorBusy s.curT (d.gs.bits.toNat % 2 ^ 19) (joinLen d.gs.bits ((joinType f).width / 8)) = false

/-- What the dispatch of a PJOIN leaves: its group in the batch. -/
def State.joinIssued (s : State) (f : Fields) : State :=
  let d := s.capture (.pjoin f)
  let p := (s.me.mtx.tile f.dNum).plies
  (s.dispatchAs .matrix { d with
    slot := d.gs.bits.toNat % 2 ^ 19
    aux := 16 * joinLen d.gs.bits ((joinType f).width / 8) + p }).joinBatch d.seq (groupTiles f p)

theorem runs_pjoin (hroom : s.canDispatch .matrix = true) (h : s.JoinReady (s.capture (.pjoin f)) f) :
    Runs (.pjoin f) s (s.past (.pjoin f) (s.joinIssued f)) := by
  have hea : (s.capture (.pjoin f)).gs.bits.bits 18 0 = (s.capture (.pjoin f)).gs.bits.toNat % 2 ^ 19 := by
    rw [wordBits_eq, Nat.pow_zero, Nat.div_one]
  refine runs_finish (exec_pjoin f s) ?_
  dsimp only
  rw [hea, plyCheck_of ?fields, act_ok_bind, plyCheck_of ?group, act_ok_bind, plyCheck_of ?range, act_ok_bind,
    State.inFlight_ok fun t ht => (h.tiles t ht).2.2, act_ok_bind, State.vectorDone_ok h.quiet, act_ok_bind, State.room_ok hroom,
    act_ok_bind]
  case fields =>
    rw [topField_zero h.reserved, bitOf_testBit, BitVec.testBit_toNat, h.gap, h.codes]
    rfl
  case group =>
    simp only [Bool.and_eq_true, bne_iff_ne, ne_eq, decide_eq_true_eq, List.all_eq_true, beq_iff_eq]
    exact ⟨⟨h.plies, h.group⟩, fun t ht => ⟨(h.tiles t ht).1, (h.tiles t ht).2.1⟩⟩
  case range =>
    rw [Pillar.lsFault_none h.aboveCode h.inside]
    simp only [Bool.and_eq_true, beq_iff_eq, decide_eq_true_eq, Option.isNone_none, and_true]
    exact ⟨⟨h.wholePitch, h.pitch⟩, h.aligned⟩
  rfl

theorem runs_pstat (hd : s.destFree f.dNum) :
    Runs (.pstat f) s (s.past (.pstat f) (s.setG f.dNum { bits := s.me.accWord f.sNum })) := by
  refine runs_finish (exec_pstat f s) ?_
  rw [State.destOk_free hd, act_ok_bind]
  rfl

end

/-- Settles O27: the checks of each instruction in their order, and then one dispatch. -/
theorem plyDispatch : Obligations.PlyDispatch := by
  intro f s hroom
  refine ⟨fun i hi => ?split, fun as bs reads => ?pairs, ?join, runs_pstat⟩
  case split =>
    intro js m' plies d x scan ty k hx hscan ht hjs hne hty hall hrows hk htake
    exact runs_psplit (exec_splits i hi s) hroom ⟨hx, hscan, ht, hjs, hne, hty, hall, hrows, hk, htake⟩
  case pairs =>
    intro d x y p tiles fits hx hg halone hjoint has hbs hty hfa hfb hfirst hfree
    exact runs_pmma hroom ⟨hx, hg, ⟨halone, hjoint⟩, has, hbs, hty, hfa, hfb, hfirst, hfree⟩
  case join =>
    intro d x e p tiles ea len hx hgap ht hp hg htiles hpitch hfit hal hxb hend hbusy
    exact runs_pjoin hroom ⟨hx, hgap, ht, hp, hg, htiles, hpitch, hfit, hal, hxb, hend, hbusy⟩

end Sys2Proof.Machine
end

section
/-! PROOFS. What a slice pair of a PMMA leaves (R229, R231, R233, R251, R252, R254, R255). -/

set_option Elab.async false

namespace Sys2Proof.Machine

/-! ## What an instruction that retires leaves (R231, R233) -/

theorem Pillar.leaveSlots_mtx_eq (x : Pillar) (clk : Nat) (js : List Nat) :
    (x.leaveSlots clk js).mtx = js.foldl (fun m j => m.modSlot j SlotHeader.leave) x.mtx := by
  unfold Pillar.leaveSlots
  dsimp only
  split
  · exact (apply_ite Pillar.mtx ..).trans (ite_self _)
  · rfl

theorem Pillar.leaveSlots_ls (x : Pillar) (clk : Nat) (js : List Nat) : (x.leaveSlots clk js).ls = x.ls := by
  unfold Pillar.leaveSlots
  dsimp only
  split
  · exact (apply_ite Pillar.ls ..).trans (ite_self _)
  · rfl

section
variable (x : Pillar) (clk : Nat) (d : Dispatched)

/-- The array is free, the tiles of the instruction are in no loom step, and its slots have lost a reader. -/
theorem Pillar.retireMatrix_mtx_eq : (x.retireMatrix clk d).mtx =
    d.readSlots.foldl (fun m j => m.modSlot j SlotHeader.leave)
      (({ x.mtx with array := none } : MatrixEngine).modTiles (x.tilesOf d) fun h => { h with loom := false }) := by
  unfold Pillar.retireMatrix Pillar.discardMatrix
  dsimp only
  rw [Pillar.endSeq_mtx, Pillar.modStrand_mtx, Pillar.leaveSlots_mtx_eq]
  rfl

theorem Pillar.retireMatrix_ls : (x.retireMatrix clk d).ls = x.ls := by
  unfold Pillar.retireMatrix Pillar.discardMatrix
  dsimp only
  rw [Pillar.endSeq_ls, Pillar.modStrand_ls, Pillar.leaveSlots_ls]
  rfl

/-- Of the strand, the batches change. -/
theorem Pillar.retireMatrix_strand : (x.retireMatrix clk d).strand d.strand =
    { x.strand d.strand with batches := (x.strand d.strand).batches.complete d.seq } := by
  unfold Pillar.retireMatrix Pillar.discardMatrix
  dsimp only
  rw [Pillar.endSeq_strand, Pillar.strand_modStrand, Pillar.strand, Pillar.leaveSlots_strands]
  rfl

end

/-- A property of a slot that a change keeps holds after changes of any slots. -/
theorem MatrixEngine.slot_foldl_modSlot_keeps {P : SlotHeader → Prop} {g : SlotHeader → SlotHeader} (hg : ∀ h, P h → P (g h))
    (l : List Nat) (m : MatrixEngine) {j : Nat} (hj : j < 32) (h : P (m.slot j)) :
    P ((l.foldl (fun m a => m.modSlot a g) m).slot j) := by
  induction l generalizing m with
  | nil => exact h
  | cons a l ih =>
    refine ih _ ?_
    rw [m.slot_modSlot_of_lt hj]
    split
    · exact hg _ h
    · exact h

/-- A slot that is not draining keeps its state when an instruction retires (R221). -/
theorem Pillar.retireMatrix_slot_state (x : Pillar) (clk : Nat) (d : Dispatched) {j : Nat} (hj : j < 32) {n : Nat} (hn : n ≠ 5)
    (h : (x.mtx.slot j).state = n) : ((x.retireMatrix clk d).mtx.slot j).state = n := by
  obtain ⟨tiles, ht⟩ := MatrixEngine.modTiles_eq { x.mtx with array := none } (x.tilesOf d) fun h => { h with loom := false }
  rw [Pillar.retireMatrix_mtx_eq, ht]
  refine MatrixEngine.slot_foldl_modSlot_keeps (P := fun h => h.state = n) (fun h hs => ?_) _ _ hj h
  subst hs
  simp [SlotHeader.leave, hn]

/-! ## Headers and elements of several tiles (R229, R251) -/

theorem MatrixEngine.tile_modTile (m : MatrixEngine) {a : Nat} (ha : a < 16) (b : Nat) (g : TileHeader → TileHeader) :
    (m.modTile b g).tile a = if a = b then g (m.tile a) else m.tile a := by
  split
  · next h =>
    subst h
    simp [MatrixEngine.modTile, MatrixEngine.tile, ha]
  · next h => simp [MatrixEngine.modTile, MatrixEngine.tile, Ne.symm h]

/-- Each tile of a list is changed once. -/
theorem MatrixEngine.tile_modTiles {l : List Nat} (hl : l.Nodup) (m : MatrixEngine) {a : Nat} (ha : a < 16)
    (g : TileHeader → TileHeader) : (m.modTiles l g).tile a = if a ∈ l then g (m.tile a) else m.tile a := by
  unfold MatrixEngine.modTiles
  induction l generalizing m with
  | nil => rfl
  | cons b l ih =>
    rw [List.nodup_cons] at hl
    rw [List.foldl_cons, ih hl.2, m.tile_modTile ha]
    by_cases hb : a = b
    · subst hb
      simp [hl.1]
    · simp [hb]

theorem MatrixEngine.elem_modTiles (m : MatrixEngine) (l : List Nat) (g : TileHeader → TileHeader) (a e : Nat) :
    (m.modTiles l g).elem a e = m.elem a e := by
  obtain ⟨tiles, h⟩ := m.modTiles_eq l g
  rw [h]
  rfl

theorem MatrixEngine.elem_zeroTile_other (m : MatrixEngine) {a b : Nat} (h : b ≠ a) {e : Nat} (he : e < 4096) :
    (m.zeroTile a).elem b e = m.elem b e := by
  unfold MatrixEngine.zeroTile MatrixEngine.elem
  dsimp only
  rw [NatSet.has_clear, if_neg (by omega), Memory.read_congr fun x h1 h2 => ?_]
  rw [Memory.get_clear, if_neg (by omega)]

/-- Several tiles of zeros (R254). -/
theorem MatrixEngine.elem_zeroTiles (m : MatrixEngine) (l : List Nat) (a : Nat) {e : Nat} (he : e < 4096) :
    (l.foldl (fun m t => m.zeroTile t) m).elem a e = if a ∈ l then (0, false) else m.elem a e := by
  induction l generalizing m with
  | nil => rfl
  | cons b l ih =>
    rw [List.foldl_cons, ih]
    by_cases hb : a = b
    · subst hb
      simp [m.elem_zeroTile a he]
    · simp [hb, m.elem_zeroTile_other hb he]

theorem MatrixEngine.zeroTiles_eq (m : MatrixEngine) (l : List Nat) :
    ∃ bytes bad, l.foldl (fun m t => m.zeroTile t) m = m.withTiles bytes bad := by
  induction l generalizing m with
  | nil => exact ⟨_, _, rfl⟩
  | cons b l ih =>
    obtain ⟨bytes, bad, h⟩ := ih (m.zeroTile b)
    exact ⟨bytes, bad, h⟩

/-! ## A slice pair of a PMMA (R252, R254, R255) -/

theorem slicePairs_pos {n x i j : Nat} (h : (slicePairs n)[x]? = some (i, j)) : 1 ≤ i ∧ 1 ≤ j := by
  have hm := List.mem_of_getElem? h
  unfold slicePairs at hm
  simp only [List.mem_flatMap, List.mem_map, List.mem_range, Prod.mk.injEq] at hm
  obtain ⟨u, -, v, hv, rfl, rfl⟩ := hm
  omega

/-- A sum of products modulo 2^32, as an integer (R63). -/
theorem addInt_int (c : Nat) (ps : List Int) : ((addInt c ps % 2 ^ 32 : Nat) : Int) = ((c : Int) + ps.sum) % 4294967296 := by
  unfold addInt lowBits
  omega

/-- The product of ply i of A and ply j of B at an element (R254). -/
def pairProduct (x a : MatrixEngine) (d da : Dispatched) (i j r c : Nat) : Int :=
  ((List.range (d.gt.bits.bits 18 12 + 1)).map fun k =>
    intOf .i8 (a.slotElem ((unpackSlots 16 da.slot).getD (i - 1) 0) 128 r 8 k).1 *
      intOf .i8 (x.slotElem ((unpackSlots 16 d.aux).getD (j - 1) 0) 128 c 8 k).1).sum

/-- An element after a slice pair: the tile of the pair gains the product modulo 2^32 (R63, R254). -/
theorem elem_runPair (x a : MatrixEngine) (d da : Dispatched) (f : Fields) (i j b : Nat) {r c : Nat} (hr : r < 64) (hc : c < 64) :
    (((runPair x a d da f i j).elem b (64 * r + c)).1 : Int) =
      if b = f.dNum + i + j - 2 ∧ r < d.gt.bits.bits 5 0 + 1 ∧ c < d.gt.bits.bits 11 6 + 1 then
        (((x.elem b (64 * r + c)).1 : Int) + pairProduct x a d da i j r c) % 4294967296
      else (x.elem b (64 * r + c)).1 := by
  have h1 : d.gt.bits.bits 5 0 < 2 ^ 6 := Nat.mod_lt _ (by decide)
  have h2 : d.gt.bits.bits 11 6 < 2 ^ 6 := Nat.mod_lt _ (by decide)
  unfold runPair
  dsimp only
  rw [MatrixEngine.elem_mapTile _ _ _ _ h1 h2 hr hc]
  by_cases h : b = f.dNum + i + j - 2 ∧ r < d.gt.bits.bits 5 0 + 1 ∧ c < d.gt.bits.bits 11 6 + 1
  · rw [if_pos h, if_pos h, ← h.1, List.map_map]
    exact addInt_int ..
  · rw [if_neg h, if_neg h]

/-- The engine as a slice pair finds it: the first of a FIRST zeroes the group (R254). -/
def pairStart (m : MatrixEngine) (d : Dispatched) (f : Fields) : MatrixEngine :=
  if (m.tile f.dNum).pair = 0 && bitOf d.gt.bits.toNat 22 then
    ((pmmaTiles d f).foldl (fun m t => m.zeroTile t) m).modTiles (pmmaTiles d f) fun h => { h with steps := 0 }
  else m

/-- The engine after slice pair (i, j), the next, with PAIR moved on (R254). -/
def pairAfter (m a : MatrixEngine) (d da : Dispatched) (f : Fields) (i j : Nat) : MatrixEngine :=
  (runPair (pairStart m d f) a d da f i j).modTiles (pmmaTiles d f) fun h => { h with pair := (m.tile f.dNum).pair + 1 }

/-- The engine after the last slice pair: PAIR is zero again, the step is counted, and the array is free (R254). -/
def stepCounted (m : MatrixEngine) (d : Dispatched) (f : Fields) : MatrixEngine :=
  ({ m.modTiles (pmmaTiles d f) fun h => { h with pair := 0, steps := h.steps + 1 } with array := none } : MatrixEngine).modTiles
    (pmmaTiles d f) fun h => { h with loom := false }

/-- The engine when a PMMA has retired after its last slice pair (R231, R254). -/
def pairsDone (m : MatrixEngine) (d : Dispatched) (f : Fields) : MatrixEngine :=
  d.readSlots.foldl (fun m j => m.modSlot j SlotHeader.leave) (stepCounted m d f)

theorem Pillar.tilesOf_pmma (x : Pillar) {d : Dispatched} {f : Fields} (hi : d.instr = .pmma f) : x.tilesOf d = pmmaTiles d f := by
  unfold Pillar.tilesOf
  rw [hi]

/-- The pillar after the next slice pair, which is counted (R254, R261). -/
def Pillar.pairRun (x : Pillar) (a : MatrixEngine) (d da : Dispatched) (f : Fields) (i j : Nat) : Pillar :=
  let y := d.gt.bits
  ((x.arrayResult (pairAfter x.mtx a d da f i j)).countArray ((y.bits 5 0 + 1) * (y.bits 11 6 + 1) * (y.bits 18 12 + 1))
    (x.occupancy d)).count 0x488

section
variable {r : State} {p : PillarId} {a : MatrixEngine} {da : Dispatched} {o : MatrixOp} {f : Fields} {i j : Nat}
  (ho : (r.pil p).mtx.array = some o) (hd : o.discarded = false) (hi : o.d.instr = .pmma f)
  (hp : (slicePairs (pmmaTiles o.d f).length)[((r.pil p).mtx.tile f.dNum).pair]? = some (i, j))

include ho hi hp in
/-- What a slice pair leaves of its pillar: the instruction retires, stops, or goes on (R254, R259). -/
theorem State.pil_stepPmma : (r.stepPmma p a da).pil p =
    let y := (r.pil p).pairRun a o.d da f i j
    if (slicePairs (pmmaTiles o.d f).length).length ≤ ((r.pil p).mtx.tile f.dNum).pair + 1 || (o.discarded && y.mtx.held) then
      (y.modMtx fun m => m.modTiles (pmmaTiles o.d f) fun h => { h with pair := 0, steps := h.steps + 1 }).retireMatrix r.clk o.d
    else if y.mtx.held then
      (y.modMtx fun m => { m with
        array := none
        unit := m.unit.setQueue o.d.strand (o.d :: m.unit.queue o.d.strand) }).count 0x48A
    else y.modMtx fun m => { m with array := some { o with due := r.aclk p + y.occupancy o.d } } := by
  unfold State.stepPmma Pillar.pairRun pairAfter pairStart
  rw [State.pil_modPil]
  dsimp only
  rw [ho]
  dsimp only
  rw [hi]
  dsimp only
  rw [List.getD_eq_getElem?_getD, hp, Option.getD_some]

include ho hd in
theorem Pillar.pairRun_mtx : ((r.pil p).pairRun a o.d da f i j).mtx = pairAfter (r.pil p).mtx a o.d da f i j := by
  unfold Pillar.pairRun Pillar.countArray
  dsimp only
  rw [Pillar.count_mtx, Pillar.count_mtx, Pillar.count_mtx, Pillar.arrayResult_mtx ho hd]

include ho hd hi hp

theorem State.stepPmma_last (hl : (slicePairs (pmmaTiles o.d f).length).length ≤ ((r.pil p).mtx.tile f.dNum).pair + 1) :
    ((r.stepPmma p a da).pil p).mtx = pairsDone (pairAfter (r.pil p).mtx a o.d da f i j) o.d f := by
  rw [State.pil_stepPmma ho hi hp]
  dsimp only
  rw [decide_eq_true hl, Bool.true_or, if_pos rfl, Pillar.retireMatrix_mtx_eq, Pillar.tilesOf_pmma _ hi, pairsDone,
    ← Pillar.pairRun_mtx ho hd]
  rfl

theorem State.stepPmma_more (hl : ¬ (slicePairs (pmmaTiles o.d f).length).length ≤ ((r.pil p).mtx.tile f.dNum).pair + 1) :
    ∃ array unit, ((r.stepPmma p a da).pil p).mtx =
      { pairAfter (r.pil p).mtx a o.d da f i j with array := array, unit := unit } := by
  rw [State.pil_stepPmma ho hi hp, ← Pillar.pairRun_mtx ho hd]
  dsimp only
  rw [decide_eq_false hl, hd, Bool.false_and, Bool.or_self, if_neg Bool.false_ne_true]
  split
  · exact ⟨_, _, rfl⟩
  · exact ⟨_, _, rfl⟩

end

/-! ## What a slice pair leaves (R251, R254) -/

theorem mem_pmmaTiles {d : Dispatched} {f : Fields} {u : Nat} (hu : u < d.gt.bits.bits 21 19 + 1) : f.dNum + u ∈ pmmaTiles d f :=
  List.mem_map_of_mem (List.mem_range.mpr hu)

theorem pmmaTiles_nodup (d : Dispatched) (f : Fields) : (pmmaTiles d f).Nodup :=
  List.Nodup.map (fun _ _ h => Nat.add_left_cancel h) List.nodup_range

theorem pmmaTiles_length (d : Dispatched) (f : Fields) : (pmmaTiles d f).length = d.gt.bits.bits 21 19 + 1 := by
  rw [pmmaTiles, List.length_map, List.length_range]

/-- The next slice pair is the first of a FIRST. -/
abbrev freshGroup (m : MatrixEngine) (d : Dispatched) (f : Fields) : Prop :=
  (m.tile f.dNum).pair = 0 ∧ d.gt.bits.getLsbD 22 = true

section
variable (m : MatrixEngine) {d : Dispatched} {f : Fields}

theorem pairStart_fresh (h : freshGroup m d f) : pairStart m d f =
    ((pmmaTiles d f).foldl (fun m t => m.zeroTile t) m).modTiles (pmmaTiles d f) fun h => { h with steps := 0 } := by
  unfold pairStart
  rw [bitOf_testBit, BitVec.testBit_toNat, h.1, h.2]
  rfl

theorem pairStart_later (h : ¬ freshGroup m d f) : pairStart m d f = m := by
  unfold pairStart
  rw [bitOf_testBit, BitVec.testBit_toNat]
  refine if_neg fun hc => h ?_
  rwa [Bool.and_eq_true, decide_eq_true_eq] at hc

/-- The slots are as they were. -/
theorem slotElem_pairStart (j len row w k : Nat) : (pairStart m d f).slotElem j len row w k = m.slotElem j len row w k := by
  by_cases h : freshGroup m d f
  · obtain ⟨bytes, bad, hz⟩ := m.zeroTiles_eq (pmmaTiles d f)
    obtain ⟨tiles, ht⟩ := (m.withTiles bytes bad).modTiles_eq (pmmaTiles d f) fun h => { h with steps := 0 }
    rw [pairStart_fresh m h, hz, ht]
    rfl
  · rw [pairStart_later m h]

variable {u : Nat} (hu : u < d.gt.bits.bits 21 19 + 1)
include hu

theorem elem_pairStart {e : Nat} (he : e < 4096) : ((pairStart m d f).elem (f.dNum + u) e).1 =
    if freshGroup m d f then 0 else (m.elem (f.dNum + u) e).1 := by
  by_cases h : freshGroup m d f
  · rw [pairStart_fresh m h, MatrixEngine.elem_modTiles, MatrixEngine.elem_zeroTiles _ _ _ he, if_pos (mem_pmmaTiles hu), if_pos h]
  · rw [pairStart_later m h, if_neg h]

variable (hf : f.dNum + (d.gt.bits.bits 21 19 + 1) ≤ 16)
include hf

theorem tile_pairStart : (pairStart m d f).tile (f.dNum + u) =
    { m.tile (f.dNum + u) with steps := if freshGroup m d f then 0 else (m.tile (f.dNum + u)).steps } := by
  by_cases h : freshGroup m d f
  · obtain ⟨bytes, bad, hz⟩ := m.zeroTiles_eq (pmmaTiles d f)
    rw [pairStart_fresh m h, MatrixEngine.tile_modTiles (pmmaTiles_nodup d f) _ (by omega), if_pos (mem_pmmaTiles hu), if_pos h, hz]
    rfl
  · rw [pairStart_later m h, if_neg h]

variable (a : MatrixEngine) (da : Dispatched) {i j : Nat}

omit hf in
/-- The elements of a group after a slice pair: its own tile gains the product (R254). -/
theorem elem_pairAfter (hij : 1 ≤ i ∧ 1 ≤ j) {r c : Nat} (hr : r < 64) (hc : c < 64) :
    let old := if freshGroup m d f then 0 else (m.elem (f.dNum + u) (64 * r + c)).1
    (((pairAfter m a d da f i j).elem (f.dNum + u) (64 * r + c)).1 : Int) =
      if u + 2 = i + j ∧ r < d.gt.bits.bits 5 0 + 1 ∧ c < d.gt.bits.bits 11 6 + 1 then
        ((old : Int) + pairProduct m a d da i j r c) % 4294967296
      else old := by
  intro old
  have hprod : pairProduct (pairStart m d f) a d da i j r c = pairProduct m a d da i j r c := by
    unfold pairProduct
    simp only [slotElem_pairStart]
  have htile : f.dNum + u = f.dNum + i + j - 2 ↔ u + 2 = i + j := by omega
  rw [pairAfter, MatrixEngine.elem_modTiles, elem_runPair _ _ _ _ _ _ _ _ hr hc, elem_pairStart m hu (by omega), hprod]
  exact if_congr (and_congr htile Iff.rfl) rfl rfl

/-- The headers of a group after a slice pair: PAIR has gone up (R254). -/
theorem tile_pairAfter : (pairAfter m a d da f i j).tile (f.dNum + u) =
    { m.tile (f.dNum + u) with
      steps := if freshGroup m d f then 0 else (m.tile (f.dNum + u)).steps, pair := (m.tile f.dNum).pair + 1 } := by
  have hrun : (runPair (pairStart m d f) a d da f i j).tile (f.dNum + u) = (pairStart m d f).tile (f.dNum + u) := by
    unfold runPair
    dsimp only
    obtain ⟨bytes, bad, h⟩ := MatrixEngine.mapTile_eq_withTiles (pairStart m d f) (f.dNum + i + j - 2)
      (d.gt.bits.bits 5 0 + 1) (d.gt.bits.bits 11 6 + 1) _
    rw [h]
    rfl
  rw [pairAfter, MatrixEngine.tile_modTiles (pmmaTiles_nodup d f) _ (by omega), if_pos (mem_pmmaTiles hu), hrun,
    tile_pairStart m hu hf]

omit hu hf in
/-- To retire changes the slots alone. -/
theorem pairsDone_eq : ∃ slots, pairsDone m d f = { stepCounted m d f with slots := slots } :=
  MatrixEngine.foldl_modSlot_eq ..

omit hu hf in
theorem pairsDone_frame : (pairsDone m d f).array = none ∧ ∀ b e, (pairsDone m d f).elem b e = m.elem b e := by
  obtain ⟨slots, h⟩ := pairsDone_eq m (d := d) (f := f)
  obtain ⟨t1, h1⟩ := m.modTiles_eq (pmmaTiles d f) fun h => { h with pair := 0, steps := h.steps + 1 }
  obtain ⟨t2, h2⟩ := MatrixEngine.modTiles_eq { m with tiles := t1, array := none } (pmmaTiles d f) fun h => { h with loom := false }
  rw [h, stepCounted, h1]
  dsimp only at h2 ⊢
  rw [h2]
  exact ⟨rfl, fun _ _ => rfl⟩

/-- After the last slice pair PAIR is zero and STEPS has gone up (R254). -/
theorem tile_pairsDone : (pairsDone m d f).tile (f.dNum + u) =
    { m.tile (f.dNum + u) with pair := 0, steps := (m.tile (f.dNum + u)).steps + 1, loom := false } := by
  obtain ⟨slots, h⟩ := pairsDone_eq m (d := d) (f := f)
  have hlt : f.dNum + u < 16 := by omega
  have hcount := MatrixEngine.tile_modTiles (pmmaTiles_nodup d f) m hlt fun h => { h with pair := 0, steps := h.steps + 1 }
  rw [if_pos (mem_pmmaTiles hu)] at hcount
  rw [h]
  refine (MatrixEngine.tile_modTiles (pmmaTiles_nodup d f) _ hlt _).trans ?_
  rw [if_pos (mem_pmmaTiles hu)]
  exact congrArg (fun h : TileHeader => { h with loom := false }) hcount

end

/-- What slice pair (i, j), the next, makes of an engine: its tile of the group gains the product, and PAIR and STEPS move on (R251,
R254). -/
def PairLeaves (m m' a : MatrixEngine) (d da : Dispatched) (f : Fields) (i j : Nat) : Prop :=
  let n := d.gt.bits.bits 21 19 + 1
  let last := (slicePairs n).length ≤ (m.tile f.dNum).pair + 1
  let steps (u : Nat) : Nat := if freshGroup m d f then 0 else (m.tile (f.dNum + u)).steps
  (∀ u, u < n → (∀ r c, r < 64 → c < 64 →
    let old := if freshGroup m d f then 0 else (m.elem (f.dNum + u) (64 * r + c)).1
    ((m'.elem (f.dNum + u) (64 * r + c)).1 : Int) =
      if u + 2 = i + j ∧ r < d.gt.bits.bits 5 0 + 1 ∧ c < d.gt.bits.bits 11 6 + 1 then
        ((old : Int) + pairProduct m a d da i j r c) % 4294967296
      else old) ∧
    (m'.tile (f.dNum + u)).pair = (if last then 0 else (m.tile f.dNum).pair + 1) ∧
    (m'.tile (f.dNum + u)).steps = if last then steps u + 1 else steps u) ∧
  (last → m'.array = none)

theorem State.stepPmma_leaves {r : State} {p : PillarId} {o : MatrixOp} {f : Fields} {i j : Nat}
    (ho : (r.pil p).mtx.array = some o) (hd : o.discarded = false) (hi : o.d.instr = .pmma f)
    (hf : f.dNum + (o.d.gt.bits.bits 21 19 + 1) ≤ 16)
    (hp : (slicePairs (o.d.gt.bits.bits 21 19 + 1))[((r.pil p).mtx.tile f.dNum).pair]? = some (i, j)) (a : MatrixEngine)
    (da : Dispatched) : PairLeaves (r.pil p).mtx ((r.stepPmma p a da).pil p).mtx a o.d da f i j := by
  have hij := slicePairs_pos hp
  rw [← pmmaTiles_length o.d f] at hp
  unfold PairLeaves
  dsimp only
  by_cases hl : (slicePairs (o.d.gt.bits.bits 21 19 + 1)).length ≤ ((r.pil p).mtx.tile f.dNum).pair + 1
  · rw [State.stepPmma_last ho hd hi hp (by rwa [pmmaTiles_length])]
    obtain ⟨harray, helem⟩ := pairsDone_frame (pairAfter (r.pil p).mtx a o.d da f i j) (d := o.d) (f := f)
    refine ⟨fun u hu => ⟨fun b c hb hc => ?_, ?_, ?_⟩, fun _ => harray⟩
    · rw [helem]
      exact elem_pairAfter _ hu a da hij hb hc
    all_goals rw [tile_pairsDone _ hu hf, tile_pairAfter _ hu hf, if_pos hl]
  · obtain ⟨array, unit, h⟩ := State.stepPmma_more (a := a) (da := da) ho hd hi hp (by rwa [pmmaTiles_length])
    rw [h]
    refine ⟨fun u hu => ?_, fun hlast => absurd hlast hl⟩
    have htile := tile_pairAfter (r.pil p).mtx hu hf a da (i := i) (j := j)
    rw [if_neg hl, if_neg hl]
    exact ⟨fun b c hb hc => elem_pairAfter _ hu a da hij hb hc, congrArg TileHeader.pair htile, congrArg TileHeader.steps htile⟩

/-! ## Slice pairs of the members of a loom (R255) -/

/-- A pillar of a list becomes what its own change makes of it, in a state in which it stands as before. -/
theorem State.pil_foldl_own {l : List PillarId} (hl : l.Nodup) {h : State → PillarId → State}
    (hother : ∀ s q p, p ≠ q → (h s q).pil p = s.pil p) (s : State) {p : PillarId} (hp : p ∈ l) :
    ∃ r, r.pil p = s.pil p ∧ (l.foldl h s).pil p = (h r p).pil p := by
  have frame : ∀ (l : List PillarId) (s : State), p ∉ l → (l.foldl h s).pil p = s.pil p := by
    intro l
    induction l with
    | nil => exact fun _ _ => rfl
    | cons q l ih =>
      intro s hq
      rw [List.mem_cons, not_or] at hq
      exact (ih _ hq.2).trans (hother s q p hq.1)
  obtain ⟨before, after, rfl⟩ := List.append_of_mem hp
  have hb : p ∉ before := fun hm => List.disjoint_of_nodup_append hl hm List.mem_cons_self
  have ha : p ∉ after := (List.nodup_cons.mp (List.nodup_append.mp hl).2.1).1
  refine ⟨before.foldl h s, frame before s hb, ?_⟩
  rw [List.foldl_append, List.foldl_cons, frame after _ ha]

/-- The members of a loom learn that one of them is held (R259). -/
def State.holdMembers (s : State) (ms : List PillarId) : State :=
  if ms.any fun q => (s.pil q).mtx.held then
    ms.foldl (fun s q => s.modPil q fun x => x.modMtx fun m => { m with held := true }) s
  else s

theorem State.mtx_foldl_held (l : List PillarId) (s : State) (q : PillarId) : ∃ b,
    ((l.foldl (fun s q => s.modPil q fun x => x.modMtx fun m => { m with held := true }) s).pil q).mtx =
      { (s.pil q).mtx with held := b } := by
  induction l generalizing s with
  | nil => exact ⟨_, rfl⟩
  | cons p l ih =>
    obtain ⟨b, h⟩ := ih (s.modPil p fun x => x.modMtx fun m => { m with held := true })
    refine ⟨b, h.trans ?_⟩
    by_cases hq : q = p
    · subst hq
      rw [State.pil_modPil]
      rfl
    · rw [State.pil_modPil_other _ _ hq]

theorem State.mtx_holdMembers (s : State) (ms : List PillarId) (q : PillarId) : ∃ b,
    ((s.holdMembers ms).pil q).mtx = { (s.pil q).mtx with held := b } := by
  unfold State.holdMembers
  split
  · exact State.mtx_foldl_held ms s q
  · exact ⟨_, rfl⟩

theorem State.stepPmma_other (s : State) (q p : PillarId) (a : MatrixEngine) (da : Dispatched) (h : p ≠ q) :
    (s.stepPmma q a da).pil p = s.pil p := State.pil_modPil_other s _ h

/-- The pillar whose A plies a PMMA reads: its own, or the root of the loom (R255). -/
def State.plyRoot (s : State) (p : PillarId) (d : Dispatched) (loom : Bool) : PillarId :=
  if loom then (s.stepMembers p loom).getD (d.gt.bits.bits 26 23) p else p

theorem State.completePmma_eq (s : State) {p : PillarId} {d : Dispatched} {loom : Bool} {oq : MatrixOp}
    (h : ((s.holdMembers (s.stepMembers p loom)).pil (s.plyRoot p d loom)).mtx.array = some oq) :
    s.completePmma p d loom = (s.stepMembers p loom).foldl (fun r q =>
      r.stepPmma q ((s.holdMembers (s.stepMembers p loom)).pil (s.plyRoot p d loom)).mtx oq.d)
        (s.holdMembers (s.stepMembers p loom)) := by
  unfold State.holdMembers State.plyRoot at h ⊢
  unfold State.completePmma
  dsimp only
  rw [h]

/-- A member runs its own slice pair with the plies of the root, whether or not a stop is pending (R255, R259). -/
theorem State.pil_completePmma (s : State) {p : PillarId} {d : Dispatched} {loom : Bool} {oq : MatrixOp}
    (hp : p ∈ s.stepMembers p loom) (hn : (s.stepMembers p loom).Nodup)
    (hq : (s.pil (s.plyRoot p d loom)).mtx.array = some oq) :
    ∃ (r : State) (b c : Bool), (r.pil p).mtx = { (s.pil p).mtx with held := b } ∧
      (s.completePmma p d loom).pil p =
        (r.stepPmma p { (s.pil (s.plyRoot p d loom)).mtx with held := c } oq.d).pil p := by
  obtain ⟨b, hb⟩ := s.mtx_holdMembers (s.stepMembers p loom) p
  obtain ⟨c, hc⟩ := s.mtx_holdMembers (s.stepMembers p loom) (s.plyRoot p d loom)
  have harray : ((s.holdMembers (s.stepMembers p loom)).pil (s.plyRoot p d loom)).mtx.array = some oq := by rw [hc]; exact hq
  rw [s.completePmma_eq harray]
  generalize s.holdMembers (s.stepMembers p loom) = t at hb hc ⊢
  obtain ⟨r, hr, hstep⟩ := State.pil_foldl_own hn (h := fun r q => r.stepPmma q (t.pil (s.plyRoot p d loom)).mtx oq.d)
    (fun s q p => State.stepPmma_other s q p _ _) t hp
  exact ⟨r, b, c, hr ▸ hb, hc ▸ hstep⟩

theorem pairValues : Claims.pairValues := by
  intro p s o oq f q i j x d y n at_ fresh ms aj bj last steps ho hst hdis hi hf hp hn hq hoq hij
  have hc : s.completeArray p o = s.completePmma p d (bitOf f.mod.toNat 6) := by
    unfold State.completeArray
    dsimp only
    rw [hi]
  have hms : s.stepMembers p (bitOf f.mod.toNat 6) = ms := by
    rw [bitOf_testBit]
    rfl
  have hroot : s.plyRoot p d (bitOf f.mod.toNat 6) = q := by
    rw [State.plyRoot, hms, modBit_eq]
    exact hq
  obtain ⟨r, b, c, hr, hpil⟩ := s.pil_completePmma (d := d) (hms ▸ hp) (hms ▸ hn) (hroot ▸ hoq)
  rw [hroot] at hpil
  have hleaves := State.stepPmma_leaves (r := r) (p := p) (by rw [hr]; exact ho) hdis hi hf (by rw [hr]; exact hij)
    { (s.pil q).mtx with held := c } oq.d
  rw [← hpil, hr] at hleaves
  exact ⟨_, hc ▸ runs_array ho hst, hleaves⟩

end Sys2Proof.Machine
end

section
/-! PROOFS. What a row of a PJOIN leaves (R56, R66, R248, R251, R256). -/

set_option Elab.async false

namespace Sys2Proof.Machine

/-! ## A row of a PJOIN (R248, R251, R256) -/

/-- PJOIN's type is f64 or f32 (R256). -/
theorem joinType_of_wf {f : Fields} (h : (Instr.pjoin f).wf = true) : joinType f = .f32 ∨ joinType f = .f64 := by
  rw [wf_of_row rfl, Row.ok_iff] at h
  obtain ⟨-, -, -, -, -, hqual, -, -⟩ := h
  unfold joinType typeOf
  cases hq : f.qual with
  | none => exact .inr rfl
  | some q =>
    simp only [row7, QualRule.ok, joinQual, hq, Bool.and_eq_true, List.contains_iff_mem, List.mem_cons, List.not_mem_nil,
      or_false] at hqual
    exact hqual.1.1

theorem joinType_width {f : Fields} (h : (Instr.pjoin f).wf = true) : 256 ^ ((joinType f).width / 8) = 2 ^ (joinType f).width := by
  obtain h | h := joinType_of_wf h <;> rw [h] <;> rfl

/-- A NaN is written alike under every rounding mode (R49). -/
theorem encodeValue_nan (t : EType) (mode mode' : Nat) (sat sat' : Bool) :
    encodeValue t mode sat .nan = encodeValue t mode' sat' .nan := by
  unfold encodeValue
  cases formatOf t <;> rfl

/-- The sum of an element of a PJOIN, before its sign as a zero and its special codes (R256). -/
def joinSum (m : MatrixEngine) (d : Dispatched) (f : Fields) (e : Nat) (ga gb : Int) (old : Nat) : FVal :=
  sumExact d.mrm ((if ga = -0x8000 ∨ gb = -0x8000 then [] else joinTerms m f.dNum d.joinPlies e ga gb) ++
    if f.mod.getLsbD 0 then [valueOf (joinType f) old] else [])

/-- The value of an element of a PJOIN (R56, R248, R256). -/
def joinValue (m : MatrixEngine) (d : Dispatched) (f : Fields) (e : Nat) (ga gb : Int) (old : Nat) : FVal :=
  if ga = 0x7FFF ∨ gb = 0x7FFF then .nan
  else match joinSum m d f e ga gb old with | .fin _ 0 _ => .fin (d.mrm == 2) 0 0 | z => z

/-- Terms that stand when neither code is the zero one. -/
theorem ite_ne_and {α : Type} (a b c : Int) (u v : α) :
    (if a != c && b != c then u else v) = if a = c ∨ b = c then v else u := by
  by_cases ha : a = c <;> by_cases hb : b = c <;> simp [ha, hb]

theorem joinElem_value (m : MatrixEngine) (t : Strand) (d : Dispatched) (f : Fields) (row n : Nat) (old : Nat × Bool) :
    (joinElem m t d f row n old).1 = encodeValue (joinType f) d.mrm (satFlag f)
      (joinValue m d f (64 * row + n) (t.scaleLane f.tNum row).1 (t.scaleLane (f.tNum + 2) n).1 old.1) := by
  unfold joinElem joinValue
  dsimp only
  by_cases h : (t.scaleLane f.tNum row).1 = 0x7FFF ∨ (t.scaleLane (f.tNum + 2) n).1 = 0x7FFF
  · rw [if_pos ?c, if_pos h]
    case c => simpa using h
    exact encodeValue_nan ..
  · rw [if_neg ?c, if_neg h]
    case c => simpa using h
    have hsum : sumExact d.mrm ((if (t.scaleLane f.tNum row).1 != -0x8000 && (t.scaleLane (f.tNum + 2) n).1 != -0x8000 then
        joinTerms m f.dNum d.joinPlies (64 * row + n) (t.scaleLane f.tNum row).1 (t.scaleLane (f.tNum + 2) n).1 else []) ++
        if bitOf f.mod.toNat 0 then [valueOf (joinType f) old.1] else []) =
        joinSum m d f (64 * row + n) (t.scaleLane f.tNum row).1 (t.scaleLane (f.tNum + 2) n).1 old.1 := by
      rw [joinSum, modBit_eq, ite_ne_and]
    rw [hsum] <;> rfl

/-- Where a row of a PJOIN begins. -/
def joinBase (d : Dispatched) (row : Nat) : Nat := d.gs.bits.bits 18 0 + row * d.gs.bits.bits 35 20

/-- The columns of a PJOIN. -/
def joinCols (d : Dispatched) : Nat := d.gs.bits.bits 47 42 + 1

/-- The bytes of an element of a PJOIN's output. -/
def joinSize (f : Fields) : Nat := (joinType f).width / 8

/-- Element i of a row of a PJOIN, and whether it is poisoned. -/
def joinOut (x : Pillar) (d : Dispatched) (f : Fields) (row i : Nat) : Nat × Bool :=
  joinElem x.mtx (x.strand d.strand) d f row i (x.ls.load (joinBase d row + i * joinSize f) (joinSize f))

/-- The bytes of a row of a PJOIN before it is written, and the poisoned ones. -/
def joinBuf (x : Pillar) (d : Dispatched) (f : Fields) (row : Nat) : Memory × NatSet :=
  (List.range (joinCols d)).foldl (fun (m : Memory × NatSet) i =>
    (m.1.write (i * joinSize f) (joinSize f) (joinOut x d f row i).1,
      m.2.putRange (i * joinSize f) (joinOut x d f row i).2 (joinSize f))) ({}, {})

section
variable (x : Pillar) (d : Dispatched) (f : Fields) (row : Nat)

theorem Pillar.joinRow_eq : x.joinRow d f row =
    x.writeWords (joinBase d row) (joinBuf x d f row).1 (joinBuf x d f row).2 (joinCols d * joinSize f) := rfl

theorem joinBuf_bytes : (joinBuf x d f row).1 = (List.range (joinCols d)).foldl (fun b i =>
    b.write (i * joinSize f) (joinSize f) (joinOut x d f row i).1) {} :=
  (List.foldl_hom Prod.fst fun _ _ => rfl).symm

theorem Pillar.read_joinRow {i : Nat} (hi : i < joinCols d) :
    (x.joinRow d f row).ls.bytes.read (joinBase d row + i * joinSize f) (joinSize f) =
      (joinOut x d f row i).1 % 256 ^ joinSize f := by
  have hend : i * joinSize f + joinSize f ≤ joinCols d * joinSize f := by
    rw [← Nat.succ_mul]
    exact Nat.mul_le_mul_right _ hi
  refine (Memory.read_eq_of_get (a' := i * joinSize f) (m' := (joinBuf x d f row).1) fun k hk => ?_).trans ?_
  · rw [Pillar.joinRow_eq, Pillar.get_writeWords, if_pos (by omega), Nat.add_assoc, Nat.add_sub_cancel_left]
  · rw [joinBuf_bytes, Memory.read_foldl_write, if_pos hi]

theorem Pillar.get_joinRow_other {a : Nat} (ha : a < joinBase d row ∨ joinBase d row + joinCols d * joinSize f ≤ a) :
    (x.joinRow d f row).ls.bytes.get a = x.ls.bytes.get a := by
  rw [Pillar.joinRow_eq, Pillar.get_writeWords, if_neg (by omega)]

end

@[simp] theorem Pillar.modMtx_ls (x : Pillar) (g : MatrixEngine → MatrixEngine) : (x.modMtx g).ls = x.ls := rfl

@[simp] theorem Pillar.countArray_ls (x : Pillar) (macs clks : Nat) : (x.countArray macs clks).ls = x.ls := rfl

/-- What a row leaves of local store is its bytes, whether the PJOIN ends, stops or goes on (R256, R259). -/
theorem Pillar.completePjoin_ls (x : Pillar) (clk now : Nat) (o : MatrixOp) (f : Fields) :
    (x.completePjoin clk now o f).ls = (x.joinRow o.d f (x.mtx.tile f.dNum).pair).ls := by
  unfold Pillar.completePjoin
  dsimp only
  split
  · rw [Pillar.count_ls, Pillar.retireMatrix_ls, Pillar.modMtx_ls, Pillar.countArray_ls, Pillar.modMtx_ls]
  · split
    · rw [Pillar.count_ls, Pillar.modMtx_ls, Pillar.countArray_ls, Pillar.modMtx_ls]
    · rw [Pillar.modMtx_ls, Pillar.countArray_ls, Pillar.modMtx_ls]

theorem joinValues : Claims.joinValues := by
  intro p s o f n x d v r ty e row base ga gb zero term sum value ho hst hi hwf hn
  have hc : s.completeArray p o = s.modPil p fun x => x.completePjoin s.clk (s.aclk p) o f := by
    unfold State.completeArray
    dsimp only
    rw [hi]
  have hrun := runs_array ho hst
  rw [hc] at hrun
  refine ⟨_, hrun, ?_, fun a ha => ?_⟩
  all_goals rw [State.pil_modPil, Pillar.completePjoin_ls]
  · have hread : (x.joinRow d f row).ls.bytes.read (base + n * e) e = (joinOut x d f row n).1 % 2 ^ ty.width :=
      (x.read_joinRow d f row hn).trans (congrArg ((joinOut x d f row n).1 % ·) (joinType_width hwf))
    have hvalue : (joinOut x d f row n).1 = encodeValue ty d.mrm (f.flags / 4 % 2 == 1) value := by
      rw [joinOut, joinElem_value, satFlag_eq]
      rfl
    rw [← hvalue]
    exact hread
  · exact x.get_joinRow_other d f row ha

end Sys2Proof.Machine
end

section
/-! PROOFS. What a PSPLIT leaves (R247, R248, R249, R250). -/

set_option Elab.async false

namespace Sys2Proof.Machine

/-! ## The plies of an integer (R247) -/

theorem plyDigits_length (p : Nat) (x : Int) : (plyDigits p x).length = p := by
  induction p, x using plyDigits.induct with
  | case1 => rfl
  | case2 => rfl
  | case3 x p d ih => rw [plyDigits, List.length_append, ih, List.length_singleton]

/-- The digits are those of the integer, and all but the first lie from -64 to 63. -/
theorem pliesAre_plyDigits {p : Nat} (hp : p ≠ 0) (x : Int) : Claims.pliesAre x p (plyDigits p x) := by
  refine ⟨plyDigits_length p x, ?_⟩
  induction p, x using plyDigits.induct with
  | case1 => exact absurd rfl hp
  | case2 x => simp [plyDigits]
  | case3 p x d ih =>
    obtain ⟨hsum, hdigits⟩ := ih (Nat.succ_ne_zero p)
    have hd : d = (x + 64) % 128 - 64 := rfl
    rw [plyDigits, List.foldl_append, hsum, List.drop_append_of_le_length (by rw [plyDigits_length]; omega)]
    refine ⟨?_, fun e he => ?_⟩
    · show 128 * ((x - d) / 128) + d = x
      omega
    · obtain he | he := List.mem_append.mp he
      · exact hdigits e he
      · rw [List.mem_singleton] at he
        omega

/-! ## Bytes set one by one -/

/-- An address that some set reaches, and every set that reaches it gives it one byte, holds that byte. -/
theorem Memory.get_foldl_set {l : List Host.Cell} {a : Nat} {b : Byte} (hall : ∀ c ∈ l, c.1 = a → c.2 = b) (m : Memory)
    (h : (a, b) ∈ l ∨ m.get a = b) : (l.foldl (fun m c => m.set c.1 c.2) m).get a = b := by
  induction l generalizing m with
  | nil => exact h.resolve_left List.not_mem_nil
  | cons c l ih =>
    refine ih (fun e he => hall e (List.mem_cons_of_mem _ he)) _ ?_
    rw [Memory.get_set]
    by_cases hc : a = c.1
    · rw [if_pos hc]
      exact .inr (hall c List.mem_cons_self hc.symm)
    · rw [if_neg hc]
      exact h.imp_left fun hm => (List.mem_cons.mp hm).resolve_left fun e => hc (congrArg Prod.fst e)

/-! ## The rows of a split (R250) -/

/-- The elements of a row of a dispatched split, with their poison. -/
def MatrixEngine.sourceRow (m : MatrixEngine) (d : Dispatched) (r : Nat) : List (FVal × Bool) :=
  m.splitRow ((unpackSlots 16 d.slot).zip d.read.lens) (typeCode d.read.type) r

/-- The own code of a row, and whether the row is poisoned. -/
def MatrixEngine.ownCode (m : MatrixEngine) (d : Dispatched) (r : Nat) : Int × Bool :=
  (rowCode ((m.sourceRow d r).map (·.1)), (m.sourceRow d r).any (·.2))

/-- The own codes of the rows of a split. -/
def MatrixEngine.ownCodes (m : MatrixEngine) (d : Dispatched) : List (Int × Bool) := (List.range d.read.rows).map (m.ownCode d)

theorem MatrixEngine.getElem?_ownCodes (m : MatrixEngine) (d : Dispatched) (r : Nat) :
    (m.ownCodes d)[r]? = if r < d.read.rows then some (m.ownCode d r) else none := by
  rw [MatrixEngine.ownCodes, List.getElem?_map]
  split
  · next h => rw [List.getElem?_range h]; rfl
  · next h => rw [List.getElem?_eq_none (by rw [List.length_range]; omega)]; rfl

theorem MatrixEngine.ownCodes_eq (m : MatrixEngine) (d : Dispatched) :
    ((List.range d.read.rows).map (m.sourceRow d)).map (fun e => (rowCode (e.map (·.1)), e.any (·.2))) = m.ownCodes d :=
  List.map_map

/-! ## The scan form (R248, R250) -/

/-- What the scan form writes to lane i of one half of the scale pair. -/
def scanLane (t : Strand) (v : Nat) (own : List (Int × Bool)) (half i : Nat) : Option (Nat × Bool) :=
  match own[32 * half + i]? with
  | some (c, bad) =>
    let (old, oldBad) := t.scaleLane (v + half) i
    some (lowBits (max old c) 16, bad || oldBad)
  | none => none

/-- The scan form updates the lower register of the pair and then the upper one. -/
theorem scanLanes_halves (t : Strand) (v : Nat) (own : List (Int × Bool)) : scanLanes t v own =
    let low := t.setV (v + 0) ((t.vreg (v + 0)).update 16 (scanLane t v own 0))
    low.setV (v + 1) ((low.vreg (v + 1)).update 16 (scanLane low v own 1)) := rfl

theorem scanLanes_eq (t : Strand) {v : Nat} (hv : v < 31) (own : List (Int × Bool)) :
    scanLanes t v own = t.updateRegs v 16 2 (scanLane t v own) := by
  have hkeep : ∀ r n, n ≠ 0 → (t.setV (v + 0) r).vreg (v + n) = t.vreg (v + n) := fun r n hn => by
    rw [Strand.vreg_setV _ (by omega), if_neg (by omega)]
  have hlane : ∀ r, scanLane (t.setV (v + 0) r) v own 1 = scanLane t v own 1 := fun r => funext fun i => by
    have hl : (t.setV (v + 0) r).scaleLane (v + 1) i = t.scaleLane (v + 1) i := by
      unfold Strand.scaleLane Strand.lane
      rw [Nat.add_assoc, hkeep _ (1 + i / lanesOf 16) (Nat.add_comm .. ▸ Nat.succ_ne_zero _)]
    unfold scanLane
    rw [hl]
  rw [scanLanes_halves]
  dsimp only
  rw [hkeep _ _ Nat.one_ne_zero, hlane]
  rfl

/-- A lane of the scale pair takes the greater of it and the row's own code. -/
theorem lane_scanLanes (t : Strand) {v : Nat} (hv : v < 31) (own : List (Int × Bool)) {n : Nat} (hn : n < 64) :
    ((scanLanes t v own).lane v 16 n).1 =
      (own[n]?).elim (t.lane v 16 n).1 fun c => ((max (t.scaleLane v n).1 c.1) % 65536).toNat := by
  have hl : lanesOf 16 = 32 := rfl
  have hrow : 32 * (n / 32) + n % 32 = n := Nat.div_add_mod n 32
  have hscale : t.scaleLane (v + n / 32) (n % 32) = t.scaleLane v n := by
    unfold Strand.scaleLane Strand.lane
    rw [hl, Nat.mod_div_self, Nat.add_zero, Nat.mod_mod]
  rw [scanLanes_eq t hv, t.lane_updateRegs (by omega) _ (by omega), hl, scanLane, hrow, hscale]
  cases own[n]? with
  | none => rfl
  | some c =>
    generalize t.scaleLane v n = old
    show lowBits (max old.1 c.1) 16 % 2 ^ 16 = ((max old.1 c.1) % 65536).toNat
    unfold lowBits
    omega

/-! ## What a split does (R249, R250) -/

theorem runPsplit_scan (m : MatrixEngine) (t : Strand) (d : Dispatched) {f : Fields} (h : f.mod.getLsbD 6 = true) :
    runPsplit m t d f = .ok (m, scanLanes t f.tNum (m.ownCodes d)) := by
  unfold runPsplit
  dsimp only
  rw [modBit_eq, h, if_pos rfl]
  exact congrArg (fun own => Except.ok (m, scanLanes t f.tNum own)) (m.ownCodes_eq d)

/-- A row is refused: its own code lies above the given one. -/
def rowRefused (m : MatrixEngine) (t : Strand) (d : Dispatched) (v r : Nat) : Prop :=
  r < d.read.rows ∧ plyRange (m.ownCode d r).1 (t.scaleLane v r).1 = true

section
variable {m : MatrixEngine} {t : Strand} {d : Dispatched} {v : Nat}

theorem mem_zipIdx_ownCodes {o : (Int × Bool) × Nat} :
    o ∈ (m.ownCodes d).zipIdx ↔ o.2 < d.read.rows ∧ o.1 = m.ownCode d o.2 := by
  rw [List.mem_zipIdx_iff_getElem?, MatrixEngine.getElem?_ownCodes]
  split
  · next h => simp [h, eq_comm]
  · next h => simp [h]

theorem find_refused (h : ∃ r, rowRefused m t d v r) :
    ∃ o, (m.ownCodes d).zipIdx.find? (fun o => plyRange o.1.1 (t.scaleLane v o.2).1) = some o := by
  obtain ⟨r, hr, hp⟩ := h
  rw [← Option.isSome_iff_exists, List.find?_isSome]
  exact ⟨(m.ownCode d r, r), mem_zipIdx_ownCodes.mpr ⟨hr, rfl⟩, hp⟩

theorem find_accepted (h : ∀ r, ¬ rowRefused m t d v r) :
    (m.ownCodes d).zipIdx.find? (fun o => plyRange o.1.1 (t.scaleLane v o.2).1) = none := by
  rw [List.find?_eq_none]
  intro o ho hp
  obtain ⟨hr, he⟩ := mem_zipIdx_ownCodes.mp ho
  exact h o.2 ⟨hr, he ▸ hp⟩

end

/-- The ply slots of a split, empty (R249). -/
def MatrixEngine.clearPlies (m : MatrixEngine) (plies : List Nat) : MatrixEngine :=
  plies.foldl (fun m j =>
    { m with slotBytes := m.slotBytes.clear (8192 * j) 8192, slotBad := m.slotBad.clear (8192 * j) 8192 }) m

/-- The plies of a row are zero: a code is the zero or the special one (R248). -/
def rowZero (m : MatrixEngine) (t : Strand) (d : Dispatched) (v r : Nat) : Bool :=
  (t.scaleLane v r).1 == 0x7FFF || (t.scaleLane v r).1 == -0x8000 || (m.ownCode d r).1 == -0x8000

/-- The plies of a row of a split of an engine are written to another (R249). -/
def MatrixEngine.writeRow (m : MatrixEngine) (t : Strand) (d : Dispatched) (v : Nat) (y : MatrixEngine) (r : Nat) : MatrixEngine :=
  y.writePlies (unpackSlots 16 d.aux) r (m.sourceRow d r) (t.scaleLane v r).1 (rowZero m t d v r)
    ((t.scaleLane v r).2 || (m.ownCode d r).2)

/-- The engine after the plies of every row are written. -/
def MatrixEngine.writeRows (m : MatrixEngine) (t : Strand) (d : Dispatched) (v : Nat) : MatrixEngine :=
  (List.range d.read.rows).foldl (m.writeRow t d v) (m.clearPlies (unpackSlots 16 d.aux))

/-- The ply slots of a split that has ended, in a state (R249, R250). -/
def MatrixEngine.settlePlies (m : MatrixEngine) (plies : List Nat) (n : Nat) : MatrixEngine :=
  plies.foldl (fun m j => m.modSlot j fun h => { h with state := n, splitter := none }) m

theorem zipIdx_map_range {α : Type} (g : Nat → α) (n : Nat) :
    ((List.range n).map g).zipIdx = (List.range n).map fun r => (g r, r) := by
  apply List.ext_getElem
  · simp
  · intro i h1 h2
    simp

section
variable {m : MatrixEngine} {t : Strand} {d : Dispatched} {f : Fields} (h : f.mod.getLsbD 6 = false)
include h

theorem runPsplit_refused (hr : ∃ r, rowRefused m t d f.tNum r) : ∃ v, runPsplit m t d f = .error (0x31, v) := by
  obtain ⟨o, ho⟩ := find_refused hr
  have hown := m.ownCodes_eq d
  unfold runPsplit
  unfold MatrixEngine.sourceRow at hown
  dsimp only at hown ⊢
  rw [modBit_eq, h, if_neg Bool.false_ne_true, hown, ho]
  exact ⟨_, rfl⟩

theorem runPsplit_accepted (hr : ∀ r, ¬ rowRefused m t d f.tNum r) : ∃ t', runPsplit m t d f =
    .ok ((m.writeRows t d f.tNum).settlePlies (unpackSlots 16 d.aux) 2, t') := by
  have hown := m.ownCodes_eq d
  unfold runPsplit
  unfold MatrixEngine.sourceRow at hown
  dsimp only at hown ⊢
  rw [modBit_eq, h, if_neg Bool.false_ne_true, hown, find_accepted hr, zipIdx_map_range, List.foldl_map]
  refine ⟨_, congrArg (fun y : MatrixEngine => Except.ok (y.settlePlies (unpackSlots 16 d.aux) 2, _))
    (List.foldl_ext _ _ _ fun y r hm => ?_)⟩
  have hrow : (m.ownCodes d).getD r (0, false) = m.ownCode d r := by
    rw [List.getD_eq_getElem?_getD, MatrixEngine.getElem?_ownCodes, if_pos (List.mem_range.mp hm), Option.getD_some]
  rw [hrow]
  rfl

end

/-! ## The bytes of the plies (R247, R249) -/

/-- The digits of an element of a row: none where the plies of the row are zero. -/
def rowDigits (p : Nat) (g : Int) (zero : Bool) (x : FVal) : List Int := if zero then [] else pliesOf p g x

/-- The bytes that the plies of a row are, with their addresses. -/
def rowCells (plies : List Nat) (r : Nat) (es : List (FVal × Bool)) (g : Int) (zero : Bool) : List Host.Cell :=
  es.zipIdx.flatMap fun e => plies.zipIdx.map fun q =>
    (8192 * q.1 + r * 128 + e.2, BitVec.ofInt 8 ((rowDigits plies.length g zero e.1.1).getD q.2 0))

theorem MatrixEngine.writePlies_bytes (m : MatrixEngine) (plies : List Nat) (r : Nat) (es : List (FVal × Bool)) (g : Int)
    (zero bad : Bool) : (m.writePlies plies r es g zero bad).slotBytes =
      (rowCells plies r es g zero).foldl (fun b c => b.set c.1 c.2) m.slotBytes := by
  unfold MatrixEngine.writePlies rowCells
  rw [List.foldl_flatMap]
  refine (List.foldl_hom MatrixEngine.slotBytes fun y e => ?_).symm
  rw [List.foldl_map]
  exact List.foldl_hom MatrixEngine.slotBytes fun _ _ => rfl

/-- The bytes that a split writes, with their addresses. -/
def splitCells (m : MatrixEngine) (t : Strand) (d : Dispatched) (v : Nat) : List Host.Cell :=
  (List.range d.read.rows).flatMap fun r =>
    rowCells (unpackSlots 16 d.aux) r (m.sourceRow d r) (t.scaleLane v r).1 (rowZero m t d v r)

theorem MatrixEngine.writeRows_bytes (m : MatrixEngine) (t : Strand) (d : Dispatched) (v : Nat) :
    (m.writeRows t d v).slotBytes =
      (splitCells m t d v).foldl (fun b c => b.set c.1 c.2) (m.clearPlies (unpackSlots 16 d.aux)).slotBytes := by
  unfold MatrixEngine.writeRows splitCells
  rw [List.foldl_flatMap]
  exact (List.foldl_hom MatrixEngine.slotBytes fun y r => (y.writePlies_bytes ..).symm).symm

theorem mem_splitCells {m : MatrixEngine} {t : Strand} {d : Dispatched} {v : Nat} {c : Host.Cell} : c ∈ splitCells m t d v ↔
    ∃ r k x i j, r < d.read.rows ∧ (m.sourceRow d r)[k]? = some x ∧ (unpackSlots 16 d.aux)[i]? = some j ∧
      c = (8192 * j + r * 128 + k, BitVec.ofInt 8
        ((rowDigits (unpackSlots 16 d.aux).length (t.scaleLane v r).1 (rowZero m t d v r) x.1).getD i 0)) := by
  simp only [splitCells, rowCells, List.mem_flatMap, List.mem_map, List.mem_range, Prod.exists, List.mk_mem_zipIdx_iff_getElem?]
  constructor
  · rintro ⟨r, hr, v, bad, k, hx, j, i, hj, rfl⟩
    exact ⟨r, k, v, bad, i, j, hr, hx, hj, rfl⟩
  · rintro ⟨r, k, v, bad, i, j, hr, hx, hj, rfl⟩
    exact ⟨r, hr, v, bad, k, hx, j, i, hj, rfl⟩

/-- Byte k of row r of a ply slot is its digit of the element (R249). -/
theorem MatrixEngine.get_writeRows {m : MatrixEngine} {t : Strand} {d : Dispatched} {v : Nat} (hrows : d.read.rows ≤ 64)
    (hlen : ∀ r, (m.sourceRow d r).length ≤ 128) (hn : (unpackSlots 16 d.aux).Nodup) {r k i j : Nat} {x : FVal × Bool}
    (hr : r < d.read.rows) (hx : (m.sourceRow d r)[k]? = some x) (hj : (unpackSlots 16 d.aux)[i]? = some j) :
    (m.writeRows t d v).slotBytes.get (8192 * j + 128 * r + k) = BitVec.ofInt 8
      ((rowDigits (unpackSlots 16 d.aux).length (t.scaleLane v r).1 (rowZero m t d v r) x.1).getD i 0) := by
  have hk : ∀ {r k x}, (m.sourceRow d r)[k]? = some x → k < 128 := fun {r} {k} {x} h => by
    obtain ⟨hk, -⟩ := List.getElem?_eq_some_iff.mp h
    exact Nat.lt_of_lt_of_le hk (hlen r)
  rw [MatrixEngine.writeRows_bytes]
  refine Memory.get_foldl_set (fun c hc ha => ?_) _ (.inl (mem_splitCells.mpr ⟨r, k, x, i, j, hr, hx, hj, ?_⟩))
  · obtain ⟨r', k', x', i', j', hr', hx', hj', rfl⟩ := mem_splitCells.mp hc
    have hk1 := hk hx
    have hk2 := hk hx'
    dsimp only at ha
    obtain rfl : r' = r := by omega
    obtain rfl : k' = k := by omega
    obtain rfl : j' = j := by omega
    obtain rfl : x' = x := Option.some.inj (hx'.symm.trans hx)
    obtain rfl : i' = i :=
      (List.getElem?_inj (List.getElem?_eq_some_iff.mp hj').1 hn).mp (hj'.trans hj.symm)
    rfl
  · rw [Nat.mul_comm r 128]

/-! ## A late fault that is raised (R368) -/

theorem Pillar.mem_insertLate (x : Pillar) (e : LateFault) (l : List LateFault) : e ∈ x.insertLate e l := by
  induction l with
  | nil => exact List.mem_singleton_self e
  | cons y l ih =>
    unfold Pillar.insertLate
    split
    · exact List.mem_cons_self
    · exact List.mem_cons_of_mem _ ih

theorem Pillar.modRing_mtx (x : Pillar) (seq : BitVec 16) (g : RingEntry → RingEntry) : (x.modRing seq g).mtx = x.mtx := by
  unfold Pillar.modRing
  split
  · split <;> rfl
  · rfl

theorem Pillar.modRing_strand (x : Pillar) (seq : BitVec 16) (g : RingEntry → RingEntry) (u : StrandId) :
    (x.modRing seq g).strand u = x.strand u := by
  unfold Pillar.modRing
  split
  · split <;> rfl
  · rfl

theorem Pillar.raiseLate_mtx (x : Pillar) (u : StrandId) (e : LateFault) : (x.raiseLate u e).mtx = x.mtx := by
  unfold Pillar.raiseLate
  dsimp only
  split
  · rw [Pillar.modRing_mtx, Pillar.modStrand_mtx]
  · rw [Pillar.modStrand_mtx]

theorem Pillar.raiseLate_strand (x : Pillar) (u : StrandId) (e : LateFault) :
    (x.raiseLate u e).strand u = { x.strand u with lates := x.insertLate e (x.strand u).lates } := by
  unfold Pillar.raiseLate
  dsimp only
  split
  · rw [Pillar.modRing_strand, Pillar.strand_modStrand]
  · rw [Pillar.strand_modStrand]

/-! ## What a split leaves (R249, R250) -/

theorem MatrixEngine.settlePlies_eq (m : MatrixEngine) (plies : List Nat) (n : Nat) :
    ∃ slots, m.settlePlies plies n = { m with slots := slots } := MatrixEngine.foldl_modSlot_eq ..

theorem MatrixEngine.slot_settlePlies (m : MatrixEngine) {plies : List Nat} (n : Nat) {j : Nat} (hj : j < 32) (hm : j ∈ plies) :
    ((m.settlePlies plies n).slot j).state = n := by
  rw [MatrixEngine.settlePlies, MatrixEngine.slot_foldl_modSlot (g := fun h => { h with state := n, splitter := none })
    (fun _ => rfl) _ _ hj, if_pos hm]

theorem Pillar.retireMatrix_array (x : Pillar) (clk : Nat) (d : Dispatched) : (x.retireMatrix clk d).mtx.array = none := by
  obtain ⟨tiles, slots, h⟩ := x.retireMatrix_mtx clk d
  rw [h]

theorem Pillar.retireMatrix_slotBytes (x : Pillar) (clk : Nat) (d : Dispatched) :
    (x.retireMatrix clk d).mtx.slotBytes = x.mtx.slotBytes := by
  obtain ⟨tiles, slots, h⟩ := x.retireMatrix_mtx clk d
  rw [h]

section
variable {x : Pillar} {d : Dispatched} {f : Fields} (clk : Nat)

/-- A PSPLIT that completes leaves the bytes and the full slots of the run, and its vector registers (R250). -/
theorem Pillar.completePsplit_ok {m : MatrixEngine} {t : Strand} (h : runPsplit x.mtx (x.strand d.strand) d f = .ok (m, t)) :
    let y := x.completePsplit clk d f
    y.mtx.array = none ∧ y.mtx.slotBytes = m.slotBytes ∧ (y.strand d.strand).v = t.v ∧
      ∀ j, j < 32 → (m.slot j).state = 2 → (y.mtx.slot j).state = 2 := by
  intro y
  have hy : ∃ z : Pillar, z.mtx = m ∧ z.strand d.strand = t ∧ y = (z.retireMatrix clk d).count 0x489 := by
    refine ⟨({ x.countArray 0 (x.occupancy d) with mtx := m } : Pillar).setStrand d.strand t, Pillar.setStrand_mtx ..,
      Pillar.strand_setStrand .., ?_⟩
    show x.completePsplit clk d f = _
    unfold Pillar.completePsplit
    dsimp only
    rw [h]
  obtain ⟨z, hm, ht, hy⟩ := hy
  have hstrand : (y.strand d.strand).v = t.v := by
    rw [hy, Pillar.strand, Pillar.count_strands, ← Pillar.strand, Pillar.retireMatrix_strand, ht]
  rw [hy] at hstrand ⊢
  rw [Pillar.count_mtx]
  refine ⟨z.retireMatrix_array clk d, ?_, hstrand, fun j hj hs => ?_⟩
  · rw [Pillar.retireMatrix_slotBytes, hm]
  · exact z.retireMatrix_slot_state clk d hj (by decide) (hm ▸ hs)

/-- A PSPLIT that is refused voids its ply slots and holds a late fault (R250). -/
theorem Pillar.completePsplit_error {c : BitVec 8} {v : Word} (h : runPsplit x.mtx (x.strand d.strand) d f = .error (c, v)) :
    let y := x.completePsplit clk d f
    y.mtx.array = none ∧ (y.strand d.strand).v = (x.strand d.strand).v ∧
      (∀ j ∈ unpackSlots 16 d.aux, j < 32 → (y.mtx.slot j).state = 3) ∧ ∃ e ∈ (y.strand d.strand).lates, e.cause = c := by
  intro y
  have hy : y = ((((x.countArray 0 (x.occupancy d)).modMtx fun m => m.settlePlies (unpackSlots 16 d.aux) 3).retireMatrix
      clk d).raiseLate d.strand (d.late c v)) := by
    show x.completePsplit clk d f = _
    unfold Pillar.completePsplit
    dsimp only
    rw [h]
    rfl
  rw [hy, Pillar.raiseLate_mtx, Pillar.raiseLate_strand]
  refine ⟨Pillar.retireMatrix_array .., ?_, fun j hm hj => ?_, d.late c v, Pillar.mem_insertLate .., rfl⟩
  · rw [Pillar.retireMatrix_strand]
    rfl
  · exact Pillar.retireMatrix_slot_state _ clk d hj (by decide) (MatrixEngine.slot_settlePlies _ 3 hj hm)

end

/-- A lane is read from the vector registers alone. -/
theorem Strand.lane_congr {r r' : Strand} (h : r'.v = r.v) (n w i : Nat) : r'.lane n w i = r.lane n w i := by
  unfold Strand.lane Strand.vreg
  rw [h]

theorem State.completeArray_psplit {p : PillarId} {s : State} {o : MatrixOp} {f : Fields}
    (hi : o.d.instr = .psplita f ∨ o.d.instr = .psplitb f) :
    (s.completeArray p o).pil p = (s.pil p).completePsplit s.clk o.d f := by
  rw [← State.pil_modPil s p fun x => x.completePsplit s.clk o.d f]
  unfold State.completeArray
  dsimp only
  obtain hi | hi := hi <;> rw [hi]

theorem rowZero_iff {m : MatrixEngine} {t : Strand} {d : Dispatched} {v r : Nat} : rowZero m t d v r = true ↔
    (t.scaleLane v r).1 = 0x7FFF ∨ (t.scaleLane v r).1 = -0x8000 ∨ (m.ownCode d r).1 = -0x8000 := by
  simp only [rowZero, Bool.or_eq_true, beq_iff_eq, or_assoc]

/-- The digits that a split writes are zeros, or those of the element's integer (R247, R248). -/
theorem rowDigits_are {plies : List Nat} (hp : plies ≠ []) (g : Int) (zero : Bool) (x : FVal) : ∃ ds,
    (if zero = true then ds = plies.map fun _ => 0
      else Claims.pliesAre (nearestInt (mulExact x (.fin false 1 (7 * plies.length - g)))) plies.length ds) ∧
    ∀ i, (rowDigits plies.length g zero x).getD i 0 = ds.getD i 0 := by
  cases zero with
  | true =>
    refine ⟨plies.map fun _ => 0, (if_pos rfl).mpr rfl, fun i => ?_⟩
    rw [List.getD_eq_getElem?_getD, List.getD_eq_getElem?_getD, List.getElem?_map]
    cases plies[i]? <;> rfl
  | false =>
    exact ⟨pliesOf plies.length g x, (if_neg Bool.false_ne_true).mpr (pliesAre_plyDigits (mt List.length_eq_zero_iff.mp hp) _),
      fun _ => rfl⟩

theorem splitValues : Claims.splitValues := by
  intro p s o f x d r plies ty row lane refused ho hst hi hf hrows
  have hrun := runs_array ho hst
  have hpil := State.completeArray_psplit (p := p) (s := s) hi
  refine ⟨fun hscan => ⟨_, hrun, ?_⟩, fun hmod hok hne hn hlt hlen => ⟨_, hrun, ?_⟩,
    fun hmod hbad hlt => ⟨_, hrun, ?_⟩⟩
  all_goals rw [hpil]
  · obtain ⟨harray, -, hv, -⟩ := Pillar.completePsplit_ok s.clk (runPsplit_scan x.mtx r d hscan)
    refine ⟨harray, fun n hn => ?_⟩
    rw [Strand.lane_congr hv, lane_scanLanes r hf _ hn, MatrixEngine.getElem?_ownCodes]
    split <;> rfl
  · obtain ⟨t', ht⟩ := runPsplit_accepted (m := x.mtx) (t := r) (d := d) hmod hok
    obtain ⟨harray, hbytes, -, hstate⟩ := Pillar.completePsplit_ok s.clk ht
    refine ⟨harray, fun j hj => hstate j (hlt j hj) (MatrixEngine.slot_settlePlies _ 2 (hlt j hj) hj), fun n k v hnr hk => ?_⟩
    obtain ⟨e, he, rfl⟩ := Option.map_eq_some_iff.mp (List.getElem?_map.symm.trans hk)
    obtain ⟨ds, hds, hdigit⟩ := rowDigits_are hne (lane n) (rowZero x.mtx r d f.tNum n) e.1
    refine ⟨ds, (if_congr rowZero_iff rfl rfl).mp hds, fun i j hij => ?_⟩
    obtain ⟨slots, hsettle⟩ := MatrixEngine.settlePlies_eq (x.mtx.writeRows r d f.tNum) plies 2
    rw [hbytes, hsettle, ← hdigit]
    exact MatrixEngine.get_writeRows hrows (fun n => List.length_map (as := x.mtx.sourceRow d n) (·.1) ▸ hlen n) hn hnr he hij
  · obtain ⟨w, hw⟩ := runPsplit_refused (m := x.mtx) (t := r) (d := d) hmod hbad
    obtain ⟨harray, hv, hstate, hlate⟩ := Pillar.completePsplit_error s.clk hw
    exact ⟨harray, hv, fun j hj => hstate j hj (hlt j hj), hlate⟩

/-- Settles O30: each byte, element and header that the ply instructions write is read back. After the last slice pair the array is
free whether or not a stop is pending (log entry 113). -/
theorem plyValues : Obligations.PlyValues := ⟨splitValues, pairValues, joinValues⟩

end Sys2Proof.Machine
end
